-- ==== Sys2Proof/Word.lean ====
section
/-! DEFINITION. The words and the plain data the VH1's commands and state are made of: bytes and
words (R5), the sparse table used for every indexed store, flow tokens (R118), packets (R273),
seam-word units (R252) and the names of the things commands speak of. -/

namespace Sys2Proof

abbrev Byte := BitVec 8
abbrev Half := BitVec 16
abbrev Word := BitVec 32
abbrev Dword := BitVec 64

/-- Bytes in ascending address order. -/
abbrev Bytes := List (BitVec 8)

/-- An indexed store that holds only what differs from its default: keys strictly rising, no entry
equal to the default of the store. `Machine/Tbl.lean` has the reads and writes. -/
abbrev Tbl (α : Type) := List (Nat × α)

/-- A flow token: 64 bytes of payload (byte i at bits [8i+7:8i]) and a 16-bit tag (R118). -/
structure Token where
  tag     : BitVec 16
  payload : BitVec 512
  deriving DecidableEq, Repr

/-- A packet as it stands in memory: the 32-byte header of R273, field by field, and its payload. -/
structure Packet where
  dest    : BitVec 24
  src     : BitVec 24
  cls     : BitVec 2
  vl      : BitVec 1
  fence   : Bool
  mcast   : Bool
  hver    : BitVec 3
  opcode  : BitVec 8
  seq     : BitVec 16
  len     : BitVec 8
  rlen    : BitVec 7
  addr    : BitVec 48
  vbytes  : BitVec 16
  hcrc    : BitVec 32
  payload : Bytes
  /-- The reserved bits: bit 7 of byte 11 and bytes 20 to 27. -/
  rsv11   : Bool := false
  rsv20   : BitVec 64 := 0
  deriving DecidableEq, Repr

/-- Where a token that arrives comes from (R124, R133, R281). -/
inductive ArrivalSrc where
  /-- The head of an output queue bound to an input queue or a circuit. -/
  | outQueue (hart qo : Nat)
  /-- The head of a steering unit's output. -/
  | steerOut (cluster unit out : Nat)
  /-- The head of the landing positions or balancing queue of an inbound record. -/
  | record (part rec : Nat)
  deriving DecidableEq, Repr

/-- A compute-die router port, seam end or table owner: site, quadrant and port (R235, R259). -/
structure PortRef where
  site : Nat
  quad : Nat
  port : Nat
  deriving DecidableEq, Repr

/-- The SECDED structures of R79, R180, R217 and R257 that a SECDED event names. -/
inductive Secded where
  | petalStorage | queueControl | nsRemap | cmRemap | balqSteer | bmChannel | cacheTag
  | backupDir | slotTable | exitEntry | routeState | pageTable | endpointTable | dram
  deriving DecidableEq, Repr

/-- The fabric tables of R257. -/
inductive FabTable where
  | slot | exit | route
  deriving DecidableEq, Repr

/-- What a host-memory access of a command brought (R315): the bytes read, or an Unsupported
Request, Completer Abort or timeout. A command that only writes host memory looks at the outcome. -/
inductive HostIo where
  | ok (data : Bytes)
  | error
  deriving DecidableEq, Repr

/-- A send or receive flow: the triple of R276. -/
structure FlowKey where
  src  : BitVec 24
  dest : BitVec 24
  cls  : BitVec 2
  deriving DecidableEq, Repr

/-- One reading of the tray controller's registers 0x02 to 0x14 (R376); `answers` is false when the
target does not answer. -/
structure TrayReading where
  answers : Bool
  status  : Half
  inlet   : Half
  outlet  : Half
  flow    : Half
  dp      : Half
  valve   : Half
  cp      : Half
  rho     : Half
  seq     : Half
  deriving DecidableEq, Repr

/-- What the self-tests of R387 found in one cluster: physical cores failing logic BIST or march,
physical cores failing the known-answer run, the shared block's result, rows failing the march
(each a kind-and-detail pair of R392) and the first failing signature. -/
structure TestResult where
  coreFail   : BitVec 34
  katFail    : BitVec 34
  sharedFail : Bool
  badRows    : List (Nat × Nat × Nat)
  badSpares  : List (Nat × Nat × Nat) := []
  signature  : Dword
  deriving DecidableEq, Repr

/-- One sample of the power measurements (R368, R369): panel input power in 0.1 W, the feeds' currents in 0.1 A, and by die
in the order of R368 the output current of its VPM in 0.01 A, its input power in 0.1 W and its four domain slots. -/
structure PowerReading where
  pIn   : Nat
  ampsA : Nat
  ampsB : Nat
  vpm   : Tbl Nat
  input : Tbl Nat
  slots : Tbl Dword
  deriving DecidableEq, Repr

/-- The Redfish requests the management port serves (R437). -/
inductive Redfish where
  | mailbox (slot : Bytes) (input : Bytes)
  | powerLimit (watts : Nat)
  | forceRestart
  | clearLog (auth : Bytes)
  | updatePush (image : Bytes)
  | commit
  | attest (nonce : Bytes)
  | authorise (auth : Bytes)
  | setRole (role : BitVec 2)
  | setFrame (f : Nat)
  | setIdleRet (ms : BitVec 16)
  | setDtSet (k : Nat)
  | setAuxTargets (targets : List (BitVec 8))
  | setPeers (peers : List (BitVec 24))
  | readResource
  deriving DecidableEq, Repr

/-- The two 54 V feeds (R350). -/
inductive Feed where
  | a | b
  deriving DecidableEq, Repr

/-- Where a register access goes: an offset of BAR0 written by the host (R316), the MSI-X capability of the
endpoint's configuration space (R313), a panel address written by a control die or the cluster sequencer, or one
written by any other requester (R84). -/
inductive RegSpace where
  | bar0 | config | controlDie | other
  deriving DecidableEq, Repr

/-- What a bring-up finds (R381 to R402): which control dies' images verify, which dies answer and
pass, the clusters' test results, and the links and lasers that come up. Everything else bring-up
does, it computes from the state. -/
structure BringupFound where
  /-- The image each control die's boot ROM reads verifies (R415): CT-A, CT-B. -/
  imageOk     : Bool × Bool
  /-- The die flash names as last active did not finish step 1 within its maximum (R382). -/
  namedLate   : Bool
  /-- Sites whose uncore, clock or VPM failed. -/
  badSites    : List Nat
  /-- Test results of the clusters tested, by site × 4 + quadrant; unlisted clusters passed. -/
  tests       : Tbl TestResult
  /-- Stacks that failed training or repair, with the cause of R232. -/
  badStacks   : List (Nat × Nat)
  /-- DRAM rows failing the pattern test: stack, channel × 2 + pseudo-channel, offset ÷ 1,024. -/
  badDramRows : List (Nat × Nat × Nat)
  /-- Link dies that failed. -/
  badLinkDies : List Nat
  /-- Native ports that trained, with width and lane mask. -/
  portsUp     : Tbl (Nat × BitVec 8)
  /-- Laser bays holding a powered, accepted module. -/
  lasersOk    : List Nat
  /-- Seams that trained at half width. -/
  halfSeams   : List PortRef
  /-- The reference oscillators are good: CT-A, CT-B. -/
  oscOk       : Bool × Bool
  /-- The valid copy of the field list in use, if any (R392). -/
  flCopy      : Option Nat
  /-- Some compute die can be reached from the active control die (R385). -/
  reachable   : Bool
  /-- Milliseconds each of the eight steps took (R381). -/
  stepMs      : List Nat
  deriving DecidableEq, Repr

end Sys2Proof
end

