-- ==== Sys2Proof/Syntax.lean ====
section
/-! DEFINITION. The commands of the VH1 as a block: one constructor for each row of
spec/opcode_table.json, in the table's order, with the operands that the row's step needs. A core is
named by its hart (R42: logical cluster × 32 + logical core), an engine, queue, petal, channel, unit
or port by its index, a mailbox command by the number it got when it was dispatched (R322), and what
only the outside world settles (a sensor's reading, a host buffer's bytes, a test's result, whether a
retrain succeeds) is an operand. -/

namespace Sys2Proof

inductive Instr where
  /-- SCALAR_INSTRUCTION (R41). -/
  | scalarInstruction (hart : Nat)
  /-- SCALAR_LOAD (R172). -/
  | scalarLoad (hart rd rs1 : Nat) (imm : BitVec 12) (size : Nat) (signed : Bool)
  /-- SCALAR_STORE (R43). -/
  | scalarStore (hart rs1 rs2 : Nat) (imm : BitVec 12) (size : Nat)
  /-- CSR_ACCESS (R42). -/
  | csrAccess (hart : Nat) (funct3 : BitVec 3) (rd rs1 : Nat) (csr : BitVec 12)
  /-- RNG_SEED_WRITE (R101). -/
  | rngSeedWrite (hart : Nat) (v : Word)
  /-- Q_TAG (R45). -/
  | qTag (hart rd qi : Nat)
  /-- Q_RDW (R45). -/
  | qRdw (hart rd qi w : Nat)
  /-- Q_POP (R45). -/
  | qPop (hart qi : Nat)
  /-- Q_WRW (R45). -/
  | qWrw (hart rs1 qo w : Nat)
  /-- Q_PUSH (R45). -/
  | qPush (hart rs1 qo : Nat)
  /-- Q_FWD (R45). -/
  | qFwd (hart qi qo : Nat)
  /-- Q_STAT (R45). -/
  | qStat (hart rd q d : Nat)
  /-- LC_SET (R45). -/
  | lcSet (hart qi n rs1 : Nat)
  /-- LC_RD (R129). -/
  | lcRd (hart rd qi n : Nat)
  /-- E_ISSUE (R50). -/
  | eIssue (hart e rs1 rs2 : Nat)
  /-- E_WAIT (R45). -/
  | eWait (hart : Nat) (m : BitVec 5)
  /-- E_STAT (R45). -/
  | eStat (hart rd : Nat)
  /-- P_YIELD (R45). -/
  | pYield (hart : Nat)
  /-- RND (R45). -/
  | rnd (hart rd : Nat)
  /-- CORE_WAIT_RELEASED (R47). -/
  | coreWaitReleased (hart : Nat)
  /-- MATMUL (R57). -/
  | matmul (hart e : Nat)
  /-- LATCH (R61). -/
  | latch (hart e : Nat)
  /-- FLUSH (R57). -/
  | flush (hart e : Nat)
  /-- ENGINE_DESCRIPTOR_COMPLETE (R173). -/
  | engineDescriptorComplete (hart e : Nat)
  /-- BOUQUET_MATMUL (R72). -/
  | bouquetMatmul (hart e : Nat)
  /-- ADD (R63). -/
  | add (hart : Nat)
  /-- MUL (R63). -/
  | mul (hart : Nat)
  /-- FMA (R63). -/
  | fma (hart : Nat)
  /-- MAX (R63). -/
  | max (hart : Nat)
  /-- MIN (R63). -/
  | min (hart : Nat)
  /-- AFFINE (R63). -/
  | affine (hart : Nat)
  /-- CAST (R63). -/
  | cast (hart : Nat)
  /-- RMSNORM (R63). -/
  | rmsnorm (hart : Nat)
  /-- LAYERNORM (R63). -/
  | layernorm (hart : Nat)
  /-- SILU_MUL (R63). -/
  | siluMul (hart : Nat)
  /-- GELU (R63). -/
  | gelu (hart : Nat)
  /-- EXP (R65). -/
  | exp (hart : Nat)
  /-- RECIP (R65). -/
  | recip (hart : Nat)
  /-- RSQRT (R65). -/
  | rsqrt (hart : Nat)
  /-- TANH (R65). -/
  | tanh (hart : Nat)
  /-- SIGMOID (R65). -/
  | sigmoid (hart : Nat)
  /-- ROPE (R63). -/
  | rope (hart : Nat)
  /-- SUM (R63). -/
  | sum (hart : Nat)
  /-- MAXRED (R63). -/
  | maxred (hart : Nat)
  /-- SMAX_MERGE (R66). -/
  | smaxMerge (hart : Nat)
  /-- SMAX_FINAL (R66). -/
  | smaxFinal (hart : Nat)
  /-- ARGMAX (R67). -/
  | argmax (hart : Nat)
  /-- TOPK (R67). -/
  | topk (hart : Nat)
  /-- TOPK_MERGE (R67). -/
  | topkMerge (hart : Nat)
  /-- SAMPLE (R68). -/
  | sample (hart : Nat)
  /-- SHADOW_CHECK (R110). -/
  | shadowCheck (cluster spare : Nat)
  /-- SHADOW_TIEBREAK (R112). -/
  | shadowTiebreak (cluster spare : Nat)
  /-- SHADOW_BLAME_REPLACE (R78). -/
  | shadowBlameReplace (cluster phys : Nat)
  /-- CONTROL_STATE_PARITY_ERROR (R79). -/
  | controlStateParityError (hart : Nat)
  /-- HEARTBEAT_LOSS (R79). -/
  | heartbeatLoss (hart : Nat)
  /-- SECDED_UNCORRECTABLE (R180). -/
  | secdedUncorrectable (cluster core : Nat) (which : Secded) (index : Nat)
  /-- SECDED_CORRECTABLE (R180). -/
  | secdedCorrectable (cluster core : Nat) (which : Secded)
  /-- STAND_IN (R80). -/
  | standIn (cluster core : Nat)
  /-- PARTITION_FROZEN (R80). -/
  | partitionFrozen (part : Nat)
  /-- STAND_IN_PETALS_RESTORED (R80). -/
  | standInPetalsRestored (cluster core : Nat)
  /-- STAND_IN_NEAR_STORE_RESTORED (R80). -/
  | standInNearStoreRestored (cluster core : Nat) (answers : Bool)
  /-- REPLAY_RELEASE (R147). -/
  | replayRelease (part : Nat)
  /-- ROTATION (R83). -/
  | rotation (cluster core spare : Nat)
  /-- TOKEN_ARRIVAL (R152). -/
  | tokenArrival (src : ArrivalSrc)
  /-- BOUNDARY_PORT_ADMIT (R150). -/
  | boundaryPortAdmit (part rec : Nat)
  /-- EPOCH_HOLD_EXPIRY (R151). -/
  | epochHoldExpiry (part rec : Nat)
  /-- CREDIT_RETURN (R133). -/
  | creditReturn (hart qo : Nat)
  /-- PACKET_FORMED (R126). -/
  | packetFormed (hart qo : Nat)
  /-- PACKET_WAIT_TIMEOUT (R126). -/
  | packetWaitTimeout (hart qo : Nat)
  /-- STEER_ROUTE (R131). -/
  | steerRoute (cluster unit : Nat)
  /-- MERGE_ARRIVAL (R132). -/
  | mergeArrival (cluster unit : Nat)
  /-- MERGE_ORDERED (R132). -/
  | mergeOrdered (cluster unit : Nat)
  /-- REGION_STALL (R142). -/
  | regionStall (region : Nat)
  /-- STEP_RELEASE (R143). -/
  | stepRelease (part : Nat)
  /-- STEP_END (R144). -/
  | stepEnd (part : Nat)
  /-- NOTICE_DEFER_TIMEOUT (R463). -/
  | noticeDeferTimeout (part : Nat)
  /-- FOLD_ADVANCE (R145). -/
  | foldAdvance (cluster : Nat)
  /-- PETAL_SWITCH (R49). -/
  | petalSwitch (hart : Nat)
  /-- QSAMP_SAMPLE (R158). -/
  | qsampSample (cluster : Nat)
  /-- BM_DESCRIPTOR_ENQUEUE (R188). -/
  | bmDescriptorEnqueue (hart qo : Nat)
  /-- COPY (R190). -/
  | copy (cluster ch : Nat)
  /-- FILL (R190). -/
  | fill (cluster ch : Nat)
  /-- CRC32 (R190). -/
  | crc32 (cluster ch : Nat)
  /-- INVALIDATE (R190). -/
  | invalidate (cluster ch : Nat)
  /-- CONTRIB_DESCRIPTOR (R190). -/
  | contribDescriptor (cluster ch : Nat)
  /-- BM_COMPLETION (R197). -/
  | bmCompletion (cluster ch : Nat)
  /-- RESIDENT_AUDIT (R185). -/
  | residentAudit (part : Nat)
  /-- AUDIT_MISMATCH (R186). -/
  | auditMismatch (part record : Nat)
  /-- APPEND (R218). -/
  | append (stack cluster : Nat) (req : List Token)
  /-- PAGE_INIT (R218). -/
  | pageInit (stack cluster : Nat) (req : List Token)
  /-- PAGE_FREE (R218). -/
  | pageFree (stack cluster : Nat) (req : List Token)
  /-- PAGE_TRIM (R218). -/
  | pageTrim (stack cluster : Nat) (req : List Token)
  /-- PASS (R224). -/
  | pass (stack cluster : Nat) (req : List Token)
  /-- PASS_RESPONSE (R225). -/
  | passResponse (stack : Nat)
  /-- PAGE_TABLE_SWEEP (R219). -/
  | pageTableSweep (stack : Nat)
  /-- STACK_DISCARD (R220). -/
  | stackDiscard (part : Nat)
  /-- DRAM_UE (R212). -/
  | dramUe (stack : Nat) (offset : BitVec 36)
  /-- PAGE_TABLE_UE (R217). -/
  | pageTableUe (stack page : Nat)
  /-- PATROL_SCRUB (R212). -/
  | patrolScrub (stack row : Nat) (corrected : Bool)
  /-- STACK_TEMP_SAMPLE (R230). -/
  | stackTempSample (stack : Nat) (t : List Nat)
  /-- CHANNEL_RETRAIN (R231). -/
  | channelRetrain (stack channel : Nat) (ok : Bool)
  /-- STACK_LOST (R233). -/
  | stackLost (stack cause : Nat)
  /-- PACKET_SEND (R247). -/
  | packetSend (cluster : Nat)
  /-- SEAM_WORD (R253). -/
  | seamWord (p : PortRef) (word : Bytes)
  /-- SEAM_RESEND (R253). -/
  | seamResend (p : PortRef)
  /-- LATE_UNIT_SEND (R254). -/
  | lateUnitSend (p : PortRef) (lane : Nat)
  /-- SEAM_RETRAIN (R255). -/
  | seamRetrain (p : PortRef) (badWires : Nat)
  /-- SEAM_HALF_WIDTH (R256). -/
  | seamHalfWidth (p : PortRef)
  /-- FABRIC_TABLE_UE (R257). -/
  | fabricTableUe (p : PortRef) (table : FabTable) (entry : Nat)
  /-- FLIT_RECEIVE (R268). -/
  | flitReceive (port : Nat) (flit : Bytes)
  /-- LINK_REPLAY (R272). -/
  | linkReplay (port : Nat)
  /-- CREDIT_FLIT (R270). -/
  | creditFlit (port : Nat) (payload : Bytes)
  /-- TRAIN_FLIT (R306). -/
  | trainFlit (port : Nat) (payload : Bytes)
  /-- LINK_RETRAIN (R305). -/
  | linkRetrain (port : Nat) (lanesOk : BitVec 8) (peer : List (Option (BitVec 8 × BitVec 8)))
  /-- LINK_PACKET_RECEIVE (R284). -/
  | linkPacketReceive (die : Nat) (p : Packet)
  /-- WRITE (R273). -/
  | write (p : Packet)
  /-- READ (R273). -/
  | read (p : Packet)
  /-- MGMT (R343). -/
  | mgmt (p : Packet)
  /-- TOKENS (R126). -/
  | tokens (p : Packet)
  /-- RELAY (R343). -/
  | relay (p : Packet)
  /-- ACK (R277). -/
  | ack (p : Packet)
  /-- NACK (R278). -/
  | nack (p : Packet)
  /-- READ_DATA (R277). -/
  | readData (p : Packet)
  /-- CREDIT (R281). -/
  | credit (p : Packet)
  /-- MGMT_REPLY (R343). -/
  | mgmtReply (p : Packet)
  /-- MC_COUNT (R290). -/
  | mcCount (p : Packet)
  /-- CONTRIB (R298). -/
  | contrib (p : Packet)
  /-- RESULT (R300). -/
  | result (p : Packet)
  /-- COLL_ACK (R290). -/
  | collAck (p : Packet)
  /-- RESEND_TIMEOUT (R278). -/
  | resendTimeout (f : FlowKey) (seq : BitVec 16)
  /-- HOLD_EXPIRY (R294). -/
  | holdExpiry (die : Nat)
  /-- FLOW_EXPIRY (R276). -/
  | flowExpiry (f : FlowKey) (sending : Bool)
  /-- ENDPOINT_CREDIT_TIMER (R281). -/
  | endpointCreditTimer (eid : BitVec 24)
  /-- MCAST_NACK_WAIT_END (R290). -/
  | mcastNackWaitEnd (f : FlowKey)
  /-- COLL_SEGMENT_TIMEOUT (R301). -/
  | collSegmentTimeout (die engine ctx slot : Nat)
  /-- LASER_MODULE_FAIL (R264). -/
  | laserModuleFail (bay : Nat) (withdrawn : Bool)
  /-- LASER_MODULE_INSERT (R265). -/
  | laserModuleInsert (bay : Nat) (partNo : Bytes)
  /-- LINK_DIE_LOST (R309). -/
  | linkDieLost (die : Nat)
  /-- CABLE_PRESENT_CHANGE (R451). -/
  | cablePresentChange (port : Nat) (present : Bool) (partNo : Bytes)
  /-- DB_SQ_TAIL (R321). -/
  | dbSqTail (ring : Nat) (v : Word)
  /-- DB_CQ_HEAD (R321). -/
  | dbCqHead (ring : Nat) (v : Word)
  /-- COMMAND_DISPATCH (R326). -/
  | commandDispatch (ring : Nat)
  /-- COMPLETION_POST (R320). -/
  | completionPost (ring : Nat)
  /-- MSIX_COALESCE_TIMEOUT (R323). -/
  | msixCoalesceTimeout (ring : Nat)
  /-- IDENTIFY (R327). -/
  | identify (id : Nat) (io : HostIo)
  /-- QUERY_CAPS (R327). -/
  | queryCaps (id : Nat) (io : HostIo)
  /-- GET_INVENTORY (R328). -/
  | getInventory (id : Nat) (io : HostIo)
  /-- PART_CREATE (R329). -/
  | partCreate (id : Nat) (io : HostIo)
  /-- PART_DESTROY (R329). -/
  | partDestroy (id : Nat) (io : HostIo)
  /-- PART_RESET (R405). -/
  | partReset (id : Nat) (io : HostIo)
  /-- PART_RESET_DRAIN_END (R405). -/
  | partResetDrainEnd (part : Nat)
  /-- IMAGE_LOAD (R168). -/
  | imageLoad (id : Nat) (io : HostIo)
  /-- IMAGE_ACTIVATE (R153). -/
  | imageActivate (id : Nat) (io : HostIo)
  /-- ACTIVATION_DRAIN_COMPLETE (R153). -/
  | activationDrainComplete (region : Nat)
  /-- ACTIVATION_LOAD_COMPLETE (R153). -/
  | activationLoadComplete (region : Nat)
  /-- ACTIVATION_DRAIN_TIMEOUT (R156). -/
  | activationDrainTimeout (region : Nat)
  /-- EPOCH_RATE_WAIT_END (R149). -/
  | epochRateWaitEnd (region : Nat)
  /-- DATA_PLACE (R330). -/
  | dataPlace (id : Nat) (io : HostIo)
  /-- DATA_FETCH (R330). -/
  | dataFetch (id : Nat) (io : HostIo)
  /-- STEP_RUN (R331). -/
  | stepRun (id : Nat) (io : HostIo)
  /-- STEP_ABORT (R333). -/
  | stepAbort (id : Nat) (io : HostIo)
  /-- RESULT_RELEASE (R340). -/
  | resultRelease (id : Nat) (io : HostIo)
  /-- ROUTE_SET_BASE (R334). -/
  | routeSetBase (id : Nat) (io : HostIo)
  /-- ROUTE_SET_ENDPOINTS (R283). -/
  | routeSetEndpoints (id : Nat) (io : HostIo)
  /-- ROUTE_SET_PATH_GROUPS (R285). -/
  | routeSetPathGroups (id : Nat) (io : HostIo)
  /-- ROUTE_SET_MEMORY_ENDPOINTS (R286). -/
  | routeSetMemoryEndpoints (id : Nat) (io : HostIo)
  /-- ENDPOINT_FENCE (R287). -/
  | endpointFence (id : Nat) (io : HostIo)
  /-- ENDPOINT_UNFENCE (R287). -/
  | endpointUnfence (id : Nat) (io : HostIo)
  /-- MCAST_SET_GROUP (R335). -/
  | mcastSetGroup (id : Nat) (io : HostIo)
  /-- MCAST_SET_CONTEXT (R297). -/
  | mcastSetContext (id : Nat) (io : HostIo)
  /-- MCAST_CLEAR_CONTEXT (R335). -/
  | mcastClearContext (id : Nat) (io : HostIo)
  /-- POWER_CAP_SET (R365). -/
  | powerCapSet (id : Nat) (io : HostIo)
  /-- TELEMETRY_POWER (R369). -/
  | telemetryPower (id : Nat) (io : HostIo)
  /-- TELEMETRY_PARTITION (R336). -/
  | telemetryPartition (id : Nat) (io : HostIo)
  /-- TELEMETRY_REGISTERS (R336). -/
  | telemetryRegisters (id : Nat) (io : HostIo)
  /-- SAMPLER_CONFIG (R336). -/
  | samplerConfig (id : Nat) (io : HostIo)
  /-- EVENTS_READ (R434). -/
  | eventsRead (id : Nat) (io : HostIo)
  /-- EVENTS_CLEAR (R435). -/
  | eventsClear (id : Nat) (io : HostIo)
  /-- FW_STAGE (R417). -/
  | fwStage (id : Nat) (io : HostIo)
  /-- FW_COMMIT (R417). -/
  | fwCommit (id : Nat) (io : HostIo)
  /-- ATTEST (R423). -/
  | attest (id : Nat) (io : HostIo)
  /-- OWNER_KEY_SET (R424). -/
  | ownerKeySet (id : Nat) (io : HostIo)
  /-- RETRAIN_CHANNEL (R231). -/
  | retrainChannel (id : Nat) (io : HostIo) (ok : Bool)
  /-- RETRAIN_SEAM (R255). -/
  | retrainSeam (id : Nat) (io : HostIo) (badWires : Nat)
  /-- RETRAIN_LINK (R305). -/
  | retrainLink (id : Nat) (io : HostIo) (lanesOk : BitVec 8) (peer : List (Option (BitVec 8 × BitVec 8)))
  /-- REPAIR_RETIRE_DIE (R400). -/
  | repairRetireDie (id : Nat) (io : HostIo)
  /-- REPAIR_LASER_BAY (R265). -/
  | repairLaserBay (id : Nat) (io : HostIo)
  /-- REPAIR_TEST_DIE (R400). -/
  | repairTestDie (id : Nat) (io : HostIo)
  /-- REPAIR_TEST_STACK (R400). -/
  | repairTestStack (id : Nat) (io : HostIo)
  /-- DEFECT_CLEAR (R394). -/
  | defectClear (id : Nat) (io : HostIo)
  /-- PANEL_RESET (R338). -/
  | panelReset (id : Nat) (io : HostIo)
  /-- FUNCTION_LEVEL_RESET (R314). -/
  | functionLevelReset
  /-- BAR2_READ (R318). -/
  | bar2Read (off len : Nat)
  /-- BAR2_WRITE (R318). -/
  | bar2Write (off : Nat) (data : Bytes)
  /-- BAR2_READ_TIMEOUT (R318). -/
  | bar2ReadTimeout
  /-- REGISTER_WRITE (R7). -/
  | registerWrite (space : RegSpace) (off : Nat) (v : Word)
  /-- RDYBSY_PULSE_REPEAT (R341). -/
  | rdybsyPulseRepeat
  /-- FEED_STATE_CHANGE (R351). -/
  | feedStateChange (f : Feed) (v10mV us : Nat)
  /-- FEED_INSERT (R444). -/
  | feedInsert (f : Feed) (v10mV : Nat)
  /-- POWER_FAIL (R352). -/
  | powerFail
  /-- VPM_TRIP (R354). -/
  | vpmTrip (die : Nat)
  /-- REGULATOR_PHASE_FAULT (R358). -/
  | regulatorPhaseFault (site quad domain phase : Nat)
  /-- DROOP_DETECT (R359). -/
  | droopDetect (cluster pulses : Nat)
  /-- POWER_MANAGER_TICK (R365). -/
  | powerManagerTick (r : PowerReading)
  /-- WAKE_REQUEST (R364). -/
  | wakeRequest (cluster : Nat)
  /-- WAKE_GRANT (R364). -/
  | wakeGrant (cluster : Nat)
  /-- WAKE_FORCED (R364). -/
  | wakeForced (cluster : Nat)
  /-- CLOCK_STEP_RAMP (R364). -/
  | clockStepRamp (cluster : Nat)
  /-- IDLE_RETAIN_TIMEOUT (R363). -/
  | idleRetainTimeout (cluster : Nat)
  /-- SHED_ASSERT (R367). -/
  | shedAssert
  /-- SHED_LEVEL_CHECK (R367). -/
  | shedLevelCheck (pIn pAfter : Nat)
  /-- SHED_DEASSERT (R367). -/
  | shedDeassert
  /-- CLOCK_INPUT_LOSS (R372). -/
  | clockInputLoss (die : Nat) (live : BitVec 6)
  /-- CLOCK_HOLDOVER_EXPIRY (R372). -/
  | clockHoldoverExpiry (die : Nat)
  /-- REFERENCE_OSCILLATOR_LOSS (R370). -/
  | referenceOscillatorLoss
  /-- THERMAL_SAMPLE (R374). -/
  | thermalSample (cluster : Nat) (t : List Nat)
  /-- THERMAL_TRIP (R374). -/
  | thermalTrip (die sensor celsius : Nat)
  /-- COOLANT_LOOP_TICK (R377). -/
  | coolantLoopTick (r : TrayReading) (pIn hotJunction : Nat)
  /-- COOLING_LOSS_TIMEOUT (R378). -/
  | coolingLossTimeout (safe : Bool)
  /-- AUX_SENSOR_POLL (R376). -/
  | auxSensorPoll (readings : List Nat)
  /-- POWER_GOOD (R381). -/
  | powerGood (slotId : BitVec 6)
  /-- BRINGUP (R381). -/
  | bringup (found : BringupFound)
  /-- PANEL_RESET_L_ASSERT (R386). -/
  | panelResetLAssert
  /-- DIE_RETIREMENT (R398). -/
  | dieRetirement (site cause : Nat) (spareOk : Bool)
  /-- SCHEDULED_CLUSTER_TEST (R389). -/
  | scheduledClusterTest (site quad : Nat) (r : TestResult)
  /-- CT_HEARTBEAT (R416). -/
  | ctHeartbeat (die : Nat)
  /-- GLERYN_WATCHDOG_EXPIRY (R416). -/
  | glerynWatchdogExpiry (die : Nat)
  /-- CONTROL_DIE_FAILOVER (R416). -/
  | controlDieFailover (cause : Nat)
  /-- FIRMWARE_SWAP_HANDOVER (R417). -/
  | firmwareSwapHandover (ok : Bool)
  /-- RECOVERY_OFFER (R418). -/
  | recoveryOffer (p : Packet) (port : Nat) (image : Bytes) (flashOk : Bool)
  /-- RECOVERY_OFFER_TIMER (R419). -/
  | recoveryOfferTimer (peer : BitVec 24)
  /-- EVENT_RECORD (R429). -/
  | eventRecord (code sev part region skind sindex ssub : Nat) (data : Bytes)
  /-- EVENT_FLUSH (R430). -/
  | eventFlush (flashOk : Bool)
  /-- OPERATING_TIME_STORE (R431). -/
  | operatingTimeStore
  /-- DEBUG_UNLOCK (R426). -/
  | debugUnlock (auth : Bytes)
  /-- REDFISH_REQUEST (R437). -/
  | redfishRequest (admin : Bool) (r : Redfish)
  /-- PANEL_RESET_L_RELEASE (R445). -/
  | panelResetLRelease
  /-- PCIE_LINK_CHANGE (R452). -/
  | pcieLinkChange (up : Bool)
  /-- CONTROL_DIE_REBOOT_DONE (R416). -/
  | controlDieRebootDone (die : Nat) (ok : Bool)
  /-- RIM_SEGMENT_FAIL (R408). -/
  | rimSegmentFail (segment : Nat)
  /-- MGT_HEARTBEAT_TICK (R317). -/
  | mgtHeartbeatTick
  deriving DecidableEq, Repr

end Sys2Proof
end

