-- ==== Sys2Proof/Decode.lean ====
section
/-! DEFINITION. The command that a word spells. No row of spec/opcode_table.json gives bits, so no word
spells a command: commands reach the block through its registers, rings, packets and pins. -/

namespace Sys2Proof

/-- The command the table's bits give a word: none, because no row of the table has bits. -/
def decodeTableWord (_nbits _w : Nat) : Option Instr := none

end Sys2Proof
end

