-- ==== Sys2Proof/Config.lean ====
section
/-! DEFINITION. What the spec leaves open. Every constant here is opaque: nothing in Lean can evaluate
it, so a statement that holds of the model holds whatever the part does. A free value is an opaque
function applied to `State.free`, the model's own draw counter (log entry 5). -/

namespace Sys2Proof.Config

/-- The hardware entropy source (R101, R109, R110): the n-th draw. -/
opaque entropy : Nat → Dword

/-- The n-th draw of a register or word the spec leaves open. -/
opaque freeWord : Nat → Word

/-- The n-th draw of a byte the spec leaves open: byte i of it (R100 of UNPREDICTABLE bytes, R212). -/
opaque freeByte : Nat → Nat → Byte

/-- The n-th choice among the outcomes a "may" lists (R12), as a number. -/
opaque choice : Nat → Nat

/-- Sign and payload of a NaN the panel produces in FP32 (R97 and R99 fix only that it is a NaN). -/
opaque nanBits : Word

/-- How far, in units in the last place, EXP, RECIP, RSQRT, TANH, SIGMOID, GELU or silu lies from the
correctly rounded result, by operation code and operand (R65); the engine clamps it to the bound. -/
opaque ulp : Nat → Word → Int

/-- A vector-engine result the spec states no value for: by operation code and operand (GELU and silu at
−Inf; log entry 14). -/
opaque special : Nat → Word → Word

/-- Where a vector-engine reduction of n values splits (R116: some fixed order the spec does not
give). The engine uses it modulo n − 1. -/
opaque split : Nat → Nat

/-- XMSS and ML-DSA verification (R167, R415, R425): algorithm, public key or key hash, message, signature. -/
opaque verifies : Nat → Bytes → Bytes → Bytes → Bool

/-- The identifier names an XMSS or XMSS^MT parameter set with SHAKE256 and n = 32 (R424; the registry is outside the spec). -/
opaque ownerSet : Nat → Bool

/-- XMSS signature over a message with one-time index i of a key number (R421 to R423). -/
opaque sign : Nat → Nat → Bytes → Bytes

/-- The public key the panel generates as attestation key number n (R422). -/
opaque attestKey : Nat → Bytes

/-- Which of the three kinds of value that R14 allows byte i of an UNPREDICTABLE outcome takes, modulo 3: zero, what stood there, or what the
owner of the scope could read. -/
opaque pick : Nat → Nat → Nat

/-- B of a queue endpoint of another panel: the capacity of its balancing queue, at most 65,536 (R281). -/
opaque remoteB : BitVec 24 → Nat

/-- Where the owner of the scope could read that byte. -/
opaque place : Nat → Nat → Nat

end Sys2Proof.Config
end

