-- ==== Sys2Proof/Machine/Bits.lean ====
section
/-! DEFINITION. Bytes, bit fields and checksums: little-endian fields (R5), CRC-32 (chapter 04,
Configuration image container), CRC-32C (R252), CRC-64 (R268). -/

namespace Sys2Proof.Machine

/-- Bits [lo + w − 1 : lo] of n. -/
def bits (n lo w : Nat) : Nat := n / 2 ^ lo % 2 ^ w

/-- Bit i of n. -/
def bitOf (n i : Nat) : Bool := n / 2 ^ i % 2 = 1

/-- n with bits [lo + w − 1 : lo] replaced by v. -/
def setBits (n lo w v : Nat) : Nat := n - bits n lo w * 2 ^ lo + v % 2 ^ w * 2 ^ lo

def b2n (b : Bool) : Nat := if b then 1 else 0

/-- The number little-endian bytes hold. -/
def leNat : Bytes → Nat
  | [] => 0
  | b :: bs => b.toNat + 256 * leNat bs

/-- n bytes of v, little-endian. -/
def natLe : Nat → Nat → Bytes
  | 0, _ => []
  | n + 1, v => BitVec.ofNat 8 v :: natLe n (v / 256)

/-- len bytes from off. -/
def slice (bs : Bytes) (off len : Nat) : Bytes := (bs.drop off).take len

/-- The little-endian field of len bytes at off; bytes past the end read 0. -/
def fld (bs : Bytes) (off len : Nat) : Nat := leNat (slice bs off len)

/-- The characters of a name, one byte each. -/
def asciiBytes (t : String) : Bytes := t.toList.map fun c => BitVec.ofNat 8 c.toNat

/-- bs with the bytes from off replaced. -/
def patch (bs : Bytes) (off : Nat) (new : Bytes) : Bytes :=
  bs.take off ++ new ++ bs.drop (off + new.length)

/-- bs cut or zero-padded to n bytes. -/
def padTo (n : Nat) (bs : Bytes) : Bytes := (bs ++ List.replicate (n - bs.length) 0).take n

/-- Signed 8-bit and 32-bit readings. -/
def sext (w n : Nat) : Int := if n % 2 ^ w < 2 ^ (w - 1) then (n % 2 ^ w : Nat) else ((n % 2 ^ w : Nat) : Int) - (2 ^ w : Nat)

def ceilDiv (a b : Nat) : Nat := (a + b - 1) / b

def alignUp (a n : Nat) : Nat := ceilDiv a n * n

/-- Saturating sum at a width. -/
def satAdd (w a b : Nat) : Nat := Nat.min (a + b) (2 ^ w - 1)

/-- Number of ones among the low w bits. -/
def popCount (n w : Nat) : Nat := ((List.range w).filter (bitOf n)).length

/-- The indices of the ones among the low w bits, rising. -/
def onesOf (n w : Nat) : List Nat := (List.range w).filter (bitOf n)

/-- One byte through a reflected CRC of polynomial p. -/
def crcBit (p c : Nat) : Nat := if c % 2 = 1 then Nat.xor (c / 2) p else c / 2

def crcByte (p c : Nat) (b : Byte) : Nat :=
  let c := Nat.xor c b.toNat
  crcBit p (crcBit p (crcBit p (crcBit p (crcBit p (crcBit p (crcBit p (crcBit p c)))))))

def crcRefl (p init : Nat) (bs : Bytes) : Nat := bs.foldl (crcByte p) init

/-- CRC-32: IEEE 802.3, reflected, initial value and final XOR 0xFFFFFFFF (chapter 04). -/
def crc32 (bs : Bytes) : Word := BitVec.ofNat 32 (Nat.xor (crcRefl 0xEDB88320 0xFFFFFFFF bs) 0xFFFFFFFF)

/-- The same, continued over a further part: the register before the final XOR. -/
def crc32Part (c : Nat) (bs : Bytes) : Nat := crcRefl 0xEDB88320 c bs

/-- floor(log2 n) for n ≥ 1. -/
def ilog2 (n : Nat) : Nat := Nat.log2 n

/-- The token's 64 payload bytes, byte i at bits [8i+7:8i]. -/
def payloadBytes (v : BitVec 512) : Bytes := natLe 64 v.toNat

def bytesPayload (bs : Bytes) : BitVec 512 := BitVec.ofNat 512 (leNat (bs.take 64))

end Sys2Proof.Machine
end

