-- ==== Sys2Proof/Machine/Packets.lean ====
section
/-! DEFINITION. Packets as bytes (R273): the header, its check, and packets built by this panel. -/

namespace Sys2Proof

open Machine in
/-- Bytes 0 to 27 of a packet header (R273). -/
def Packet.head (p : Packet) : Bytes :=
  natLe 3 p.dest.toNat ++ natLe 3 p.src.toNat
    ++ natLe 1 (p.cls.toNat + p.vl.toNat * 4 + b2n p.fence * 8 + b2n p.mcast * 16 + p.hver.toNat * 32)
    ++ natLe 1 p.opcode.toNat ++ natLe 2 p.seq.toNat ++ natLe 1 p.len.toNat ++ natLe 1 (p.rlen.toNat + b2n p.rsv11 * 128)
    ++ natLe 6 p.addr.toNat ++ natLe 2 p.vbytes.toNat ++ natLe 8 p.rsv20.toNat

/-- The packet with its header check set (R273). -/
def Packet.sealed (p : Packet) : Packet := { p with hcrc := Machine.crc32 p.head }

/-- The packet as it stands in memory. -/
def Packet.bytes (p : Packet) : Bytes := p.head ++ Machine.natLe 4 p.hcrc.toNat ++ p.payload

/-- Bytes a READ asks for (R273). -/
def Packet.wants (p : Packet) : Nat := (p.rlen.toNat + 1) * 32

/-- The packet is a reply, or an answer of class 3. -/
def Packet.isReply (p : Packet) : Bool := p.cls == 2 || p.opcode == 0x32

/-- The flow of a packet (R276). -/
def Packet.key (p : Packet) : FlowKey := { src := p.src, dest := p.dest, cls := p.cls }

end Sys2Proof

namespace Sys2Proof.Machine

def u8 (n : Nat) : Bytes := natLe 1 n
def u16 (n : Nat) : Bytes := natLe 2 n
def u32 (n : Nat) : Bytes := natLe 4 n
def u64 (n : Nat) : Bytes := natLe 8 n

/-- The packet that memory bytes hold: a 32-byte header and `LEN` × 32 bytes of payload. -/
def packetOf (bs : Bytes) : Packet :=
  let f := fld bs
  { dest := BitVec.ofNat 24 (f 0 3), src := BitVec.ofNat 24 (f 3 3), cls := BitVec.ofNat 2 (f 6 1), vl := BitVec.ofNat 1 (f 6 1 / 4),
    fence := bitOf (f 6 1) 3, mcast := bitOf (f 6 1) 4, hver := BitVec.ofNat 3 (f 6 1 / 32), opcode := BitVec.ofNat 8 (f 7 1),
    seq := BitVec.ofNat 16 (f 8 2), len := BitVec.ofNat 8 (f 10 1), rlen := BitVec.ofNat 7 (f 11 1), addr := BitVec.ofNat 48 (f 12 6),
    vbytes := BitVec.ofNat 16 (f 18 2), hcrc := BitVec.ofNat 32 (f 28 4), payload := slice bs 32 (32 * f 10 1),
    rsv11 := bitOf (f 11 1) 7, rsv20 := BitVec.ofNat 64 (f 20 8) }

/-- A multicast group (R282). -/
def isGroup (eid : BitVec 24) : Bool := decide (0xFE0000 ≤ eid.toNat) && decide (eid.toNat < 0xFF0000)

/-- A packet of this panel: its payload is padded with zeros to whole 32-byte units (R273). -/
def mkPacket (cls opcode : Nat) (dest src : BitVec 24) (addr : Nat) (fence : Bool) (payload : Bytes) : Packet :=
  let n := ceilDiv payload.length 32
  Packet.sealed {
    dest := dest, src := src, cls := BitVec.ofNat 2 cls, vl := 0, fence := fence, mcast := isGroup dest, hver := 1,
    opcode := BitVec.ofNat 8 opcode, seq := 0, len := BitVec.ofNat 8 n, rlen := 0, addr := BitVec.ofNat 48 addr,
    vbytes := 0, hcrc := 0, payload := padTo (32 * n) payload }

/-- A token as the 66 bytes of a packet or an input list: tag first (R126, R332). -/
def tokenBytes (t : Token) : Bytes := natLe 2 t.tag.toNat ++ payloadBytes t.payload

def tokenOf (bs : Bytes) : Token :=
  { tag := BitVec.ofNat 16 (fld bs 0 2), payload := bytesPayload (slice bs 2 64) }

/-- n tokens packed back to back. -/
def tokensOf : Nat → Bytes → List Token
  | 0, _ => []
  | n + 1, bs => tokenOf (bs.take 66) :: tokensOf n (bs.drop 66)

/-- A fenced TOKENS packet (R126). -/
def tokensPacket (dest src : BitVec 24) (ts : List Token) : Packet :=
  mkPacket 1 0x10 dest src (ts.length - 1) true (ts.flatMap tokenBytes)

/-- Tokens a TOKENS packet carries. -/
def packetTokens (p : Packet) : List Token := tokensOf (bits p.addr.toNat 0 6 + 1) p.payload

end Sys2Proof.Machine
end

