-- ==== Sys2Proof/Machine/State.lean ====
section
/-! DEFINITION. The state of the VH1: everything the spec gives the panel, as plain data, and the
state right after reset. Software-visible registers live in two word files, `regs` (by panel address,
R33) and `bar0` (by BAR0 offset, R316), each a table of 32-bit words whose unlisted entries read as
their reset values; the other fields are the storage, queues, tables and internal state of the
chapters named beside them. Every indexed store is sparse (`Tbl`), so that a core, cluster, page or
table entry nothing has touched stands at its reset value. -/

namespace Sys2Proof.Machine

/-- Why the machine stops. No rule of the spec gives the panel a state in which a command stops the
machine, and no meaning of this model raises a fault: the one constructor is kept for an address a
command names outside the 48-bit panel address space (R33), which no command can encode. Safe: a
stop where the hardware has no such access. -/
inductive Fault where
  /-- An access outside the 48-bit address space. Raised by no meaning. Safe. -/
  | outsideAddressSpace (addr : Nat)
  deriving DecidableEq, Repr

/-- Why a command is refused. -/
inductive Refusal where
  /-- Not modelled yet, by the table's mnemonic. Raised by `Machine/Dispatch.lean` alone. Safe. -/
  | notModelled (mnemonic : String)
  deriving DecidableEq, Repr

/-! ### Cores (chapter 02) -/

/-- One random stream (R101). -/
structure Stream where
  s0 : Dword
  s1 : Dword
  deriving DecidableEq, Repr

/-- A petal: its record (R48, R164) and, after the record's fields, the state a petal switch saves
and restores (R49) and the limits and descriptors a running petal may rewrite (R43, R45, R50). -/
structure Petal where
  pver       : Nat := 0
  seedPolicy : Nat := 0
  entryPc    : Word := 0
  seed       : Word := 0
  xreg       : Tbl Word := []
  inBind     : Tbl Word := []
  outBind    : Tbl Word := []
  loop       : Tbl Word := []
  desc0      : Tbl Byte := []
  desc       : Tbl Byte := []
  pc         : Word := 0
  x          : Tbl Word := []
  mcycle     : Dword := 0
  minstret   : Dword := 0
  counts     : Tbl (BitVec 24) := []
  limits     : Tbl (BitVec 24) := []
  streams    : Tbl Stream := []
  deriving DecidableEq, Repr

/-- A marker that STRIP mode removed and has not checked yet (R127): its level and the number of
DATA tokens that arrived ahead of it and are not yet popped. -/
structure Strip where
  level : Nat
  ahead : Nat
  deriving DecidableEq, Repr

/-- An input queue (R45, R127): its tokens, oldest first, and the virtual end marker at its head. -/
structure InQueue where
  tokens : List Token := []
  virt   : Option Token := none
  strips : List Strip := []
  deriving DecidableEq, Repr

/-- An output queue (R45, R124, R133): its tokens, its 64-byte staging area, and how many of its
loop's credits are out. -/
structure OutQueue where
  tokens : List Token := []
  /-- Tokens that the packet service packs into the queue's next packet, in the router's send buffer (R126). -/
  pack   : List Token := []
  stage  : BitVec 512 := 0
  out    : Nat := 0
  /-- Tokens enqueued to the present endpoint since the binding opened, less those discarded on the way (R279, R281). -/
  total  : Word := 0
  /-- The same of endpoints that other bindings of the queue led to. -/
  saved  : List (BitVec 24 × Word) := []
  deriving DecidableEq, Repr

/-- A descriptor in an engine's queue: the 32 bytes copied at issue (R50) and the rs2 value added to
its weight or first-operand offset (R45). -/
structure EngDesc where
  d   : BitVec 256
  off : Word
  deriving DecidableEq, Repr

/-- A weight block kept in the latch (R61): the offsets REUSE compares and what was loaded. -/
structure Kept where
  waddr : Nat
  saddr : Nat
  wfmt  : Nat
  k     : Nat
  nt    : Nat
  elems : Bytes
  side  : Bytes
  deriving DecidableEq, Repr

/-- An engine (R55 to R62): its descriptor queue; the operand rows the head descriptor has gathered
from its input queue and the row being gathered; whether the engine has taken the head, and whether it has
computed it; result tokens not yet enqueued; the accumulator file (FP32, 2,048 values) and the kept block. -/
structure Engine where
  queue : List EngDesc := []
  taken : Bool := false
  rows  : List Bytes := []
  row   : Bytes := []
  busy  : Bool := false
  wb    : List Token := []
  acc   : Tbl Word := []
  kept  : Option Kept := none
  deriving DecidableEq, Repr

/-- An instruction of the queue extension at which the scalar core waits (R45, R47). -/
inductive WaitOp where
  | tag (rd qi : Nat) | rdw (rd qi w : Nat) | pop (qi : Nat) | push (rs1 qo : Nat)
  | fwd (qi qo : Nat) | issue (e rs1 rs2 : Nat) | ewait (m : BitVec 5) | yield
  deriving DecidableEq, Repr

/-- A logical core. It is keyed by `mhartid` (R42) and moves with the logical core number (R40). -/
structure Core where
  petal   : Nat := 0
  running : Bool := false
  halted  : Bool := false
  yielded : Bool := false
  wait    : Option WaitOp := none
  /-- Which of R47's counters the wait counts in: 0 IN, 1 OUT, 2 ENG. -/
  waitOn  : Nat := 2
  /-- The petal the sequencer has ordered a switch to (R145, R146). -/
  switchTo : Option Nat := none
  lastTag : Byte := 0
  imem    : Tbl Byte := []
  petals  : Tbl Petal := []
  inq     : Tbl InQueue := []
  outq    : Tbl OutQueue := []
  eng     : Tbl Engine := []
  deriving DecidableEq, Repr

/-- A sampled tile waiting on a spare (R76, R110): the descriptor, the slice and K step, copies of
the operand bytes, the accumulator start values and the engine's results. -/
structure Tile where
  checked : Nat
  eng     : Nat
  desc    : BitVec 256
  slice   : Nat
  kstep   : Nat
  rows    : List Bytes
  elems   : Bytes
  side    : Bytes
  start   : List Word
  result  : List Word
  part    : Nat
  step    : Dword
  deriving DecidableEq, Repr

/-- A physical core (R40, R76 to R81), keyed (site × 4 + quadrant) × 34 + p. `duty`: 0 logical,
1 shadow, 2 idle spare, 3 stand-in. -/
structure Phys where
  duty    : Nat := 0
  retired : Bool := false
  tiles   : List Tile := []
  /-- A mismatched tile waiting for its tie-break (R112): the tile and the first spare's results. -/
  tie     : Option (Tile × List Word) := none
  /-- Times at which this core was blamed (R78), in fast cycles. -/
  blames  : List Nat := []
  /-- Sum of its `ENG_BUSY` when the present interval of engine activity began (R82). -/
  busyAt  : Nat := 0
  deriving DecidableEq, Repr

/-! ### Clusters and dataflow (chapters 04 and 05) -/

/-- A fold entry (R145, R163). -/
structure FoldEntry where
  mask    : Word := 0
  petal   : Nat := 0
  loopTo  : Nat := 0xFF
  loopCnt : Nat := 0
  deriving DecidableEq, Repr

/-- A steering unit (R130 to R132): the tokens at its inputs, the order in which groups' first
tokens arrived, as time and input, the input whose group is being forwarded, and the tokens at its outputs with
the EID of a packet-service copy. -/
structure Steer where
  inputs  : Tbl (List Token) := []
  order   : List (Nat × Nat) := []
  current : Option Nat := none
  outputs : Tbl (List (Token × BitVec 24)) := []
  deriving DecidableEq, Repr

/-- The credit loop of a steering output to one queue endpoint (R130, R281): unit × 4 + output, the endpoint, credits out
and tokens sent since the binding opened, less those discarded on the way. -/
structure SteerLoop where
  out_  : Nat
  eid   : BitVec 24
  out   : Nat := 0
  total : Word := 0
  deriving DecidableEq, Repr

/-- One remote access of a bulk-mover walk (R190, R273): where it goes at the endpoint and how many bytes the packet
carries, which of them the walk takes, their place on this panel, and, once they came, the bytes. A read through
the cache takes a whole line (R200). -/
structure Piece where
  remote : Nat
  size   : Nat
  off    : Nat := 0
  len    : Nat
  loc    : Nat
  line   : Bool := false
  seq    : Option Half := none
  data   : Option Bytes := none
  deriving DecidableEq, Repr

/-- A bulk-mover descriptor at work or finished and waiting for its completion word (R197): its 64 bytes, the worst
status met (the codes of R325), whether it was counted as a fault, remote writes not yet sent, remote reads not
yet landed in walk order, the running CRC-32, and what a multicast destination has answered (R290). -/
structure BmRun where
  desc    : BitVec 512
  status  : Nat := 0
  counted : Bool := false
  writes  : List Piece := []
  reads   : List Piece := []
  crc     : Nat := 0xFFFFFFFF
  members : Option Nat := none
  least   : Option Nat := none
  deriving DecidableEq, Repr

/-- A bulk-mover channel (R187, R188). -/
structure Channel where
  queue : List (BitVec 512) := []
  run   : Option BmRun := none
  /-- Descriptors completed since step release (R197). -/
  done  : Word := 0
  deriving DecidableEq, Repr

/-- A cache line of banks 12 to 15 (R199): address bits [47:18], EID, set and the 512 bytes; in a
set's list the most recently used line stands first. -/
structure Line where
  tag  : Nat
  eid  : BitVec 24
  data : Bytes
  deriving DecidableEq, Repr

/-- A logical cluster (R29), keyed by its index 0 to 575. -/
structure Cluster where
  /-- Logical core → physical core (R40). -/
  coreMap   : List Nat := List.range 32
  bouquet   : BitVec 4 := 0
  foldCount : Nat := 0
  fold      : Tbl FoldEntry := []
  foldAt    : Nat := 0
  foldLoops : Tbl Nat := []
  steerMode : Tbl Nat := []
  steerOut  : Tbl Word := []
  steerTbl  : Tbl (BitVec 64) := []
  steer     : Tbl Steer := []
  /-- Credit loops of the steering outputs to queue endpoints (R130). -/
  steerLoops : List SteerLoop := []
  /-- Marks for queue endpoints that wait for credit (R134, R155). -/
  marks     : List (BitVec 24 × Token) := []
  chans     : Tbl Channel := []
  cache     : Tbl (List Line) := []
  /-- `NO_BACKUP` clear in the region's image: bank 11 is the petal backup (R51). -/
  backupOn  : Bool := false
  /-- Step count of the last audit that found every part of bank 11 clean (R186). -/
  backupClean : Dword := 0
  /-- The backup directory, entry k × 9 + j (R51). -/
  backup    : Tbl Word := []
  /-- Directory entries with an uncorrectable error (R51). -/
  dirBad    : List Nat := []
  /-- The router's packet send buffer (R126, R246). -/
  sendBuf   : List Packet := []
  /-- Times of this second's mismatch events (R113). -/
  mismatches : List Nat := []
  deriving DecidableEq, Repr

/-- An inbound record of a loaded image, circuit or resident endpoint, and its port (R123, R139,
R140, R150, R166, R281). Cluster numbers are absolute logical indices. -/
structure Inbound where
  region   : Nat
  circuit  : Bool
  id       : BitVec 24
  prodHart : Nat
  prodQ    : Nat
  d        : Nat
  consHart : Nat
  consQ    : Nat
  boundary : Bool
  follow   : Bool
  gated    : Bool
  stepEnd  : Bool
  b        : Nat
  balOff   : Nat
  /-- Marks that the sequencer has placed on the circuit and that wait for a credit of its loop (R134, R155). -/
  marks    : List Token := []
  /-- Landing positions, or the endpoint's receive buffer. -/
  land     : List Token := []
  /-- The balancing queue, and the place in its memory that the next token takes. -/
  bal      : List Token := []
  balAt    : Nat := 0
  /-- Tokens at the front of `bal` that an END_STREAM has released (R140). -/
  released : Nat := 0
  /-- Expected epoch; none is the ADOPT state. -/
  expect   : Option (BitVec 3) := none
  aside    : Option (BitVec 3) := none
  dropEp   : Option (BitVec 3) := none
  held     : Bool := false
  closed   : Bool := false
  /-- The record has delivered its END_STREAM this step: admitted, and popped by the consumer. -/
  admitted : Bool := false
  popped   : Bool := false
  /-- Tokens popped since the binding opened, and when CREDIT was last sent (R281). -/
  pops     : Word := 0
  credited : Word := 0
  /-- Cluster EID of the producer of a packet-service binding, once known. -/
  producer : BitVec 24 := 0
  deriving DecidableEq, Repr

/-- A DATA record of an image (R166), with the step count of its last clean audit (R186). -/
structure DataRec where
  region  : Nat
  cluster : Nat
  target  : Nat
  offset  : Nat
  hbm     : Nat
  length  : Nat
  crc     : Word
  clean   : Dword := 0
  deriving DecidableEq, Repr

/-- Where an activation stands (R153). -/
inductive ActPhase where
  | rateWait | draining | drained
  deriving DecidableEq, Repr

/-- An activation in progress: its phase, mode (true: DISCARD) and the command that asked for it. -/
structure Activation where
  phase   : ActPhase
  discard : Bool
  cmd     : Nat
  deriving DecidableEq, Repr

/-- A region (R149 to R156), keyed by its number: its partition and origin, size, epoch, the times
of its epoch advances, the hold timeout, the staged and the loaded copy of its image. -/
structure Region where
  part     : Nat
  cx       : Nat
  cy       : Nat
  w        : Nat := 0
  h        : Nat := 0
  epoch    : BitVec 3 := 0
  advances : List Nat := []
  holdUs   : Nat := 100
  staged   : Option Nat := none
  loaded   : Option Nat := none
  caps     : Dword := 0
  act      : Option Activation := none
  /-- A resident copy failed its CRC, or lies on a lost stack (R186, R399). -/
  badCopy  : Bool := false
  /-- This region's part of the running step has ended (R144). -/
  ended    : Bool := false
  /-- Counted fast cycles in a row with tokens pending and none moving, up to the watchdog's limit (R141). -/
  still    : Nat := 0
  deriving DecidableEq, Repr

/-- A step of a partition, from its checks to its end (R331). -/
structure StepRec where
  cmd      : Nat
  regions  : BitVec 256
  resAddr  : Nat
  resLen   : Nat
  inAddr   : Nat
  inCount  : Nat
  released : Bool := false
  start    : Nat := 0
  /-- Sum and number of the input-power samples of its run (R377). -/
  drawn    : Nat := 0
  samples  : Nat := 0
  deriving DecidableEq, Repr

/-- Why a partition is frozen (R80, R142, R180, R186, R398, R404). -/
inductive Freeze where
  | no | standIn | retirement | repair | reset
  deriving DecidableEq, Repr

/-- A partition in reset (R405): the command, the mode (true: ABSORB) and what was absorbed. -/
structure Resetting where
  cmd      : Nat
  absorb   : Bool
  destroy  : Bool
  absorbed : Nat := 0
  deriving DecidableEq, Repr

/-- A partition (R329), keyed by its number. -/
structure Part where
  cx        : Nat
  cy        : Nat
  w         : Nat
  h         : Nat
  rotate    : Bool
  stackTbl    : BitVec 24
  firstPage : Nat
  pages     : Nat
  stepCount : Dword := 0
  step      : Option StepRec := none
  /-- Checked STEP_RUNs that wait for the previous step, oldest first (R331). -/
  queued    : List StepRec := []
  freeze    : Freeze := .no
  /-- The freeze that is due at the next flow-token boundary, or at the next step boundary (R80, R180, R398). -/
  freezeDue : Freeze := .no
  freezeLate : Bool := false
  /-- Clusters rotated since the last step boundary (R82). -/
  rotated   : List Nat := []
  /-- The fault that started the stand-in in progress, as a bit of CORE_FAULT, and its time. -/
  standBit  : Nat := 0
  standAt   : Nat := 0
  /-- A core awaits its stand-in, and how far it has come: hart, stage 0 to 3 (R80). -/
  standing  : List (Nat × Nat) := []
  records   : List Inbound := []
  data      : List DataRec := []
  reset     : Option Resetting := none
  /-- Result buffers that are ready and not released: address and length (R340). -/
  results   : List (Nat × Nat) := []
  /-- A replay or a clearing waits for the epoch-advance limit (R147, R149), and the regions that keep their epoch then (R156). -/
  rateWait  : Bool := false
  rateKeep  : List Nat := []
  /-- KV appends of an ended run await their discard (R142, R220, R333). -/
  discardDue : Bool := false
  /-- Sums of the counters of R107 and R463 when the step began, by event code. -/
  snap      : Tbl Nat := []
  /-- Stacks whose discard of this partition awaits a sweep are in SBD_PART_STEP. Last release (R221). -/
  lastRel   : Option Nat := none
  auditS    : Nat := 60
  auditAt   : Nat := 0
  repairRec : List Nat := []
  /-- Where and when an audit mismatched: a near store or bank, and the operating time in ms (R186). -/
  auditHits : List (Nat × Nat) := []
  /-- A die placed by a retirement lacks a capability of the image (R403). -/
  capsLost  : Bool := false
  /-- A die it owns became a hole, or a half-width seam carries its circuits (R256, R399). -/
  fenced    : Bool := false
  throttled : Bool := false
  /-- Average input power of the last run of each set of regions, 0.1 W (R377). -/
  avgPower  : List (Nat × Nat) := []
  deriving DecidableEq, Repr

/-! ### Stacks (chapter 06) -/

/-- A response not yet sent (R225, R233): where it goes, the requester's partition, whether a pass made it, its tokens,
what replaces them if the stack is lost, and whether its first packet has left. -/
structure Reply where
  eid    : BitVec 24
  part   : Option Nat
  pass   : Bool
  tokens : List Token
  fenced : List Token
  begun  : Bool := false
  deriving DecidableEq, Repr

/-- A stack, keyed 0 to 23; its counters and status are `SBD_` registers. -/
structure Stack where
  pte      : Tbl (BitVec 64) := []
  /-- Request tokens received, by sending cluster (R214), and the clusters whose whole groups stand there in the order in which the groups
  arrived (R227). -/
  inbox    : Tbl (List Token) := []
  order    : List Nat := []
  /-- Responses not yet sent, oldest first. -/
  replies  : List Reply := []
  /-- 64-byte units whose next read reports an uncorrectable error (R212). -/
  ueUnits  : List Nat := []
  /-- The row of R230 in force, 0 (below 85 °C) to 6 (trip), and since when T has stayed cooler. -/
  heat     : Nat := 0
  coolAt   : Option Nat := none
  /-- Times of failed retrains, by channel, and of the corrected reads of the last second (R231). -/
  fails    : List (Nat × Nat) := []
  ces      : List (Nat × Nat) := []
  /-- The channel being retrained and those that wait for theirs, each with the command that asked for it (R231). -/
  retrain  : Option (Nat × Option Nat) := none
  retrainDue : List (Nat × Option Nat) := []
  /-- A pattern test and repair is scheduled for the next PANEL_RESET (R400). -/
  testDue  : Bool := false
  lostBy   : Option Nat := none
  deriving DecidableEq, Repr

/-! ### The fabric (chapter 07) -/

/-- The port of a router (R250 to R256). A word's place is its number since the port's counters last started; its frame cycle is the place
modulo F. -/
structure SeamEnd where
  /-- As a receiver: the next expected `SEQ` and place, the words by which it runs late, whether a negative acknowledgement is out, the
  resends of the present frame and the times of those of the last millisecond, and the words that stand behind a failed one. -/
  expect  : BitVec 3 := 0
  place   : Nat := 0
  behind  : Nat := 0
  nak     : Bool := false
  resends : Nat := 0
  recent  : List Nat := []
  ahead   : List (Nat × Bytes) := []
  /-- Units of packets that are not on this panel's own way, not yet whole. -/
  units   : List (BitVec 552) := []
  /-- As a sender: the next `SEQ` and place, the words by which it runs late (R253), the word to be sent again, and the last eight sent. -/
  seq     : BitVec 3 := 0
  next    : Nat := 0
  owed    : Nat := 0
  again   : Option Bytes := none
  sent    : List Bytes := []
  /-- Circuit units with the places and lanes of their slots, and the late queue (R244, R254). -/
  out     : List (Nat × Nat × BitVec 552) := []
  late    : List (BitVec 552) := []
  /-- The pair of class and network served last, and the cycles that each pair has waited (R250). -/
  turn    : Nat := 7
  waits   : Tbl Nat := []
  /-- The seam is offline for a retrain (R255). -/
  offline : Bool := false
  /-- Slips of the seam not yet reported, and when the last were (R254). -/
  slips   : Nat := 0
  slipAt  : Option Nat := none
  deriving DecidableEq, Repr

/-- A packet in the fabric or a link die with the target its source router chose (R247, R249). -/
inductive Target where
  | cluster (c : Nat) | exit (n : Nat) | channel (c : Nat) | site (s : Nat) | link (port : Nat)
  | engine (die : Nat) (ctx : Nat)
  deriving DecidableEq, Repr

/-- A router on a packet's way: the input port at which the packet stands there, how many of its units have come, and how many have gone on
(R246, R250). -/
structure Leg where
  key     : Nat
  got     : Nat
  sent    : Nat
  deriving DecidableEq, Repr

/-- A packet under way, with its route state: the target, the network, and the cluster at which it leaves the fabric; the routers that hold
units of it, the foremost first (none: it is at its endpoint); since when it has been in a link die (R294); and whether it has passed the
resident table unfenced (R287). -/
structure Moving where
  target  : Target
  net     : BitVec 1
  src     : Nat
  goal    : Nat := 0
  legs    : List Leg := []
  since   : Nat := 0
  passed  : Bool := false
  pkt     : Packet
  deriving DecidableEq, Repr

/-! ### Links, flows and collectives (chapter 08) -/

/-- A packet in egress staging: the flits of it already sent, the path group that chose the port (R285), and since when the packet has been on
the panel (R294). -/
structure Staged where
  pkt   : Packet
  sent  : Nat := 0
  group : Option Nat := none
  since : Nat := 0
  deriving DecidableEq, Repr

/-- A link port (R266 to R272, R304 to R307); its status and counters are `LNK_` registers. -/
structure LinkPort where
  /-- `FSEQ` of the last DATA flit sent, of the last received in order, and the last that `ACKSEQ` covered. -/
  txSeq   : BitVec 12 := 0xFFF
  rxSeq   : BitVec 12 := 0xFFF
  acked   : BitVec 12 := 0xFFF
  /-- This end asks for a replay. -/
  nak     : Bool := false
  /-- DATA flits not yet acknowledged, and those the peer has asked for again. -/
  replay  : List Bytes := []
  resend  : List Bytes := []
  /-- Times of the replays, and times and counts of the corrected symbols, of the last millisecond (R272, R305). -/
  replays : List Nat := []
  fec     : List (Nat × Nat) := []
  /-- As a sender, per SVL: flits freed at the peer and flits sent under reserved credit (cumulative); the peer's shared allowance, and what
  this end has spent of it. -/
  freed   : Tbl Half := []
  sent    : Tbl Half := []
  shared  : Word := 0
  sharedUsed : Word := 0
  /-- As a receiver: reserved flits freed per SVL (cumulative), the shared allowance granted to the peer, and what the peer has spent of it. -/
  owed    : Tbl Half := []
  grant   : Word := 0
  spent   : Word := 0
  /-- Bytes of a packet being received, and the shared flits of it, per SVL; the shared flits of whole packets in the input buffer (R271). -/
  partIn  : Tbl Bytes := []
  partShared : Tbl Nat := []
  buffered : List (Packet × Nat) := []
  /-- Packets in egress staging (R285, R292). -/
  staged  : List Staged := []
  /-- Bytes 5 to 8 of the peer's last TRAIN flit of this retrain, whether any has ever come, and whether this end's die has been reset since the
  last agreement (R306). -/
  train   : Option (BitVec 32) := none
  heard   : Bool := false
  fresh   : Bool := true
  /-- The last CONTROL flit sent (R270), the levels of the last flit on each active lane, and the lanes' scramblers (R269). -/
  ctl     : Bytes := []
  line    : List (Nat × List Nat) := []
  scram   : Tbl Nat := []
  cable   : Bool := false
  cablePwr : Bool := false
  deriving DecidableEq, Repr

/-- An unacknowledged packet (R278): resends made, whether a NACK BUSY asked for the next one, the ACKs of a multicast
and whether a NACK FENCED came (R290), the bulk-mover channel or mailbox command that waits for the answer, and the
panel address its payload was read from. -/
structure Unacked where
  pkt     : Packet
  resends : Nat := 0
  busy    : Bool := false
  acks    : Nat := 0
  fenced  : Bool := false
  chan    : Option Nat := none
  cmd     : Option Nat := none
  src     : Option Nat := none
  deriving DecidableEq, Repr

/-- A send flow (R276, R278): its key, next SEQ, its unacknowledged packets, when it was last used, the SEQs of the last
quiet time, and the members of its multicast group (R290). -/
structure SendFlow where
  key     : FlowKey
  next    : Half := 0
  unack   : List Unacked := []
  used    : Nat := 0
  recent  : List (Half × Nat) := []
  members : Option Nat := none
  deriving DecidableEq, Repr

/-- A receive flow (R276, R280): E, the bitmap of the next 1,024 SEQs and the reorder store. -/
structure RecvFlow where
  key    : FlowKey
  e      : BitVec 16
  seen   : List Nat := []
  store  : List Packet := []
  used   : Nat := 0
  /-- Statuses other than OK that answered collective packets of the last 1,024 SEQs (R298). -/
  answers : Tbl Nat := []
  deriving DecidableEq, Repr

/-- A segment slot of a collective context (R298): segment, contributions combined, elements in
FP32 or BF16 bits, and when the first came. -/
structure Segment where
  seg   : Nat
  count : Nat
  elems : List Word
  since : Nat
  /-- The sources whose contributions it holds. -/
  srcs  : List (BitVec 24) := []
  deriving DecidableEq, Repr

/-- A collective context (R297), keyed (die × 4 + engine) × 16 + context. -/
structure CollCtx where
  eid      : BitVec 24
  op       : Nat
  bf16     : Bool
  n        : Nat
  segs     : Nat
  segElems : Nat
  lastElems : Nat
  slots    : Nat
  outEid   : BitVec 24
  outAddr  : Nat
  doneAddr : Nat
  timeout  : Nat
  live     : Tbl (Option Segment) := []
  doneSegs : List Nat := []
  minCount : Nat := 4096
  expect   : Nat := 4096
  fenced   : Bool := false
  /-- After a segment that missed its count: the sources it had; the others are missing members (R301). -/
  present  : Option (List (BitVec 24)) := none
  /-- The completion record is still to be sent (R300). -/
  recordDue : Bool := false
  deriving DecidableEq, Repr

/-! ### The host interface (chapter 09) -/

/-- Where a mailbox command came from: a ring, the management port (R437), or a relay or MGMT packet
with its reply EID, RSEQ and input data (R343). -/
inductive Origin where
  | ring (r : Nat)
  | network
  | packet (reply : BitVec 24) (rseq : Word) (seq : Half) (input : Bytes)
  deriving DecidableEq, Repr

/-- A completion not yet posted (R320, R321). -/
structure Completion where
  cmdId   : Half
  status  : Nat
  opcode  : Byte
  result0 : Dword
  result1 : Dword
  detail  : Word
  deriving DecidableEq, Repr

/-- A dispatched command (R322): its slot, whether it waits (R156, R331, R405) and whether a reset
has doomed it to ABORTED (R329). -/
structure Started where
  origin : Origin
  slot   : Bytes
  /-- It was relayed and awaits MGMT_REPLY under this RSEQ. -/
  relayed : Option Word := none
  /-- The first failure among the regions of an activation (R156). -/
  worst   : Nat := 0
  /-- Resubmissions that receive the same completion (R344): reply EID, RSEQ and SEQ. -/
  also    : List (BitVec 24 × Word × Half) := []
  /-- Input data held for it: of a management-port command (R437), or the host bytes of a DATA_PLACE relayed (R343). -/
  input   : Bytes := []
  /-- Of a relayed DATA_PLACE or DATA_FETCH: packets still to be sent, and the reply that waits for them (R343). -/
  stream  : List Packet := []
  reply   : Option Completion := none
  deriving DecidableEq, Repr

/-- A ring's counters beside its registers (R321, R323). -/
structure Ring where
  tail     : Half := 0
  head     : Half := 0
  posted   : Half := 0
  consumed : Half := 0
  toPost   : List Completion := []
  unsig    : Nat := 0
  /-- Commands of a partition at or before this tail end ABORTED: (partition, tail). -/
  doomed   : List (Nat × Half) := []
  deriving DecidableEq, Repr

/-- A READ that a BAR2 read has sent to a member (R318): its `SEQ` and address, where its bytes go in the read, how many
bytes of the reply come before them, and their number. -/
structure ApPiece where
  seq   : Half
  addr  : Nat
  place : Nat
  skip  : Nat
  len   : Nat
  deriving DecidableEq, Repr

/-- A relayed DATA_PLACE whose data arrives as WRITE packets (R203, R343): the sender, the partition, the range, and how many of its
bytes are still to come. -/
structure Placing where
  eid  : BitVec 24
  part : Nat
  addr : Nat
  len  : Nat
  left : Nat
  deriving DecidableEq, Repr

/-- The host interface. `rdy` is RDYBSY released; `pulses` counts its pulses; `msix` is the list of
vectors sent, newest first; `msixOn` and `msixMask` are the MSI-X Enable and Function Mask of the capability (R313);
`lastRead` is what the last BAR2 read returned. -/
structure HostIf where
  rings    : Tbl Ring := []
  started  : Tbl Started := []
  nextId   : Nat := 0
  kept     : List (Nat × Half × Completion) := []
  mem      : List Host.Cell := []
  msixOn   : Bool := false
  msixMask : Bool := false
  msix     : List Nat := []
  pcieUp   : Bool := true
  rdy      : Bool := false
  pulses   : Nat := 0
  pulseAt  : Option Nat := none
  lastRead : Bytes := []
  apWait   : List ApPiece := []
  placing  : List Placing := []
  rseq     : Word := 0
  deriving DecidableEq, Repr

/-! ### Power, clocks and cooling (chapter 11) -/

/-- A feed's state (R351). -/
inductive FeedState where
  | absent | operating | brownout | lost
  deriving DecidableEq, Repr

/-- Power and thermal state beside the `PWR_`, `CLK_` and `THM_` registers. -/
structure Power where
  feedA     : FeedState := .absent
  feedB     : FeedState := .absent
  /-- The 54 V plane lies within 2 V of a feed: precharge has ended (R444). -/
  plane     : Bool := false
  /-- Requested wakes, with the time of the request (R364). -/
  wakes     : Tbl (Option Nat) := []
  /-- When each VPM last granted a wake. -/
  lastWake  : Tbl (Option Nat) := []
  /-- Measured output current of each VPM, 0.01 A, and reservations granted since. -/
  vpmCur    : Tbl Nat := []
  reserved  : Tbl Nat := []
  /-- Panel-controlled rise of input power in the present 10 µs window, 0.1 W (R364). -/
  slewUsed  : Nat := 0
  slewAt    : Nat := 0
  /-- Clusters paused by SHED_L (R367). -/
  paused    : List Nat := []
  /-- Panel-wide shed started by cooling LOSS (R378). -/
  lossShed  : Bool := false
  coolLimit : Nat := 2000
  stackLimit : Nat := 2000
  /-- Thermal caps, by logical cluster: n − 1 allowed (R374), and cool since. -/
  thermCap  : Tbl Nat := []
  coolSince : Tbl (Option Nat) := []
  /-- Cooling (R377, R378): last TR_SEQ and when it moved, when conditions began, Q* × 100. -/
  traySeq   : Half := 0
  trayAt    : Nat := 0
  lowFlowAt : Option Nat := none
  warnAt    : Option Nat := none
  hotAt     : Option Nat := none
  lossFlowAt : Option Nat := none
  clearAt   : Option Nat := none
  lossAt    : Option Nat := none
  qStar     : Nat := 400
  lowerAt   : Option Nat := none
  raisedAt  : Nat := 0
  /-- Wakes counted as deferred (R364). -/
  deferred  : List Nat := []
  /-- Highest n − 1 that the panel cap allows, by logical cluster (R365). -/
  panelCap  : Tbl Nat := []
  /-- Failed phases of a site's VDD_LINK (site × 2) and VDD_MIF (site × 2 + 1) rails (R357). -/
  railFails : Tbl Nat := []
  /-- Input power of each die, 0.1 W (R369). -/
  dieIn     : Tbl Nat := []
  /-- Coolant as the tray last declared it (R376), and when the stack limit last moved (R375). -/
  trCp      : Nat := 0
  trRho     : Nat := 0
  stackAt   : Option Nat := none
  auxTargets : List (BitVec 8) := []
  auxTemps  : List Nat := []
  /-- TR_FAILSAFE and TR_VALVE_CMD as last written to the tray (R376). -/
  trFailsafe : Nat := 0
  trValve   : Nat := 0
  /-- TELEMETRY_READ set 0 sample number (R369). -/
  sampleSeq : Word := 0
  /-- The 1 ms sample that set 0 copies, as its 5,520 bytes; none before the first (R369). -/
  sample    : Option Bytes := none
  temps     : Tbl Nat := []
  deriving DecidableEq, Repr

/-! ### Sparing and bring-up (chapter 12) -/

/-- A field-list entry (R392). -/
structure Defect where
  kind   : Nat
  source : Nat
  cause  : Nat
  clean  : Nat
  die    : Nat
  unit   : Nat
  detail : Nat
  time   : Nat
  deriving DecidableEq, Repr

/-- An access from outside to the SRAM window of a cluster whose die is being repaired (R36), or to a stack that has tripped (R230): its EID and address, the bytes of a
write, or the length of an aperture read and the place of its bytes in what that read returns. -/
structure HeldAccess where
  eid   : BitVec 24
  addr  : Nat
  data  : Option Bytes := none
  place : Nat := 0
  len   : Nat := 0
  deriving DecidableEq, Repr

/-- The logical map and the defect map. -/
structure Sparing where
  /-- Position of the unassigned site of each rod; unlisted rods have it at position 6 (R23). -/
  unassigned : Tbl Nat := []
  /-- Rods whose unassigned site is a retired die, not a good spare. -/
  usedSpare  : List Nat := []
  /-- Sites that are holes (R28). -/
  holes      : List Nat := []
  fieldList  : List (Option Defect) := []
  /-- Units the fuse maps name bad: kind, die, unit, detail (R390). -/
  fuse       : List (Nat × Nat × Nat × Nat) := []
  /-- Spare rows that failed their own test: kind, site, unit, bank × 65,536 + spare (R183, R387). -/
  badSpares  : List (Nat × Nat × Nat × Nat) := []
  /-- Accesses held while a die is repaired or a stack trips, in the order in which they came (R36). -/
  waiting    : List HeldAccess := []
  /-- Clusters (site × 4 + quadrant) with a test scheduled for their next CLUSTER reset (R389). -/
  testDue    : List Nat := []
  /-- Sites whose retirement waits for the next step boundary, with the cause and command. -/
  retireDue  : List (Nat × Nat × Option Nat) := []
  /-- REPAIR commands whose retirement is done, with the partitions still to be released (R400). -/
  retireCmds : List (Nat × List Nat) := []
  /-- Sites fenced for stepping this boot (R402). -/
  stepFenced : List Nat := []
  halfSeams  : List PortRef := []
  lostDies   : List Nat := []
  rimGaps    : List Nat := []
  /-- A reset hold or power fail is in force: the data plane is down (R352, R445). -/
  held       : Bool := false
  failing    : Bool := false
  /-- Exit entries are written and the enabled seams run (R237, R248). -/
  routesUp   : Bool := false
  /-- The fast cycle in which the frame counters of all routers started, and those of routers whose counter has restarted since, by block
  site × 4 + quadrant (R240). -/
  frame0     : Nat := 0
  frames     : Tbl Nat := []
  /-- New slot tables that wait until their router holds no circuit unit, by block (R258). -/
  slotsDue   : Tbl (List Word) := []
  /-- Bring-up has not yet served BAR0 (R383). -/
  bar0Live   : Bool := false
  deriving DecidableEq, Repr

/-! ### Firmware, trust and the event record (chapter 13) -/

/-- An event record (R432), less its SEAL, which is computed. -/
structure Event where
  seq    : Word
  code   : Nat
  sev    : Nat
  ct     : Nat
  part   : Nat
  time   : Nat
  region : Nat
  pcycle : Word
  skind  : Nat
  sindex : Nat
  ssub   : Nat
  data   : Bytes
  deriving DecidableEq, Repr

/-- The recorder (R429 to R435): the buffer, oldest first, each with whether it is unflushed; the
event region of flash; the newest sequence number. -/
structure Recorder where
  buf    : List (Event × Bool) := []
  region : List Event := []
  seq    : Word := 0
  deriving DecidableEq, Repr

/-- A control die (R416): 0 active, 1 standby, 2 failed, 3 booting; firmware it runs; heartbeats of
it missed; its last heartbeat; whether it has been rebooted once since it failed. -/
structure ControlDie where
  role    : Nat := 3
  fw      : Bytes := []
  beatAt  : Nat := 0
  stopped : Bool := false
  rebooted : Bool := false
  deriving DecidableEq, Repr

/-- Firmware, keys and flash (R413 to R426). -/
structure Trust where
  ctA       : ControlDie := {}
  ctB       : ControlDie := {}
  /-- Die that flash names as last active (R382): none, CT-A (0), CT-B (1). -/
  lastActive : Option Nat := none
  /-- The image slot of flash, and the image whose data-plane sections are loaded. -/
  slot      : Bytes := []
  loadedFw  : Bytes := []
  /-- An image has been staged and not yet swapped in (R417), and the FW_COMMIT that swaps it. -/
  updating  : Bool := false
  swapping  : Option Nat := none
  /-- One-time indices: next and durable limit of the AK and the DIK (R421). -/
  akNext    : Nat := 0
  akLimit   : Nat := 0
  akNumber  : Nat := 0
  akMade    : Bool := false
  dikNext   : Nat := 0
  dikLimit  : Nat := 0
  dikFuses  : List Nat := []
  signState : Bool := true
  svnFloor  : Nat := 0
  vkeyRevoked : BitVec 4 := 0
  ownerHash : Option Bytes := none
  authNonce : Bytes := List.replicate 32 0
  unlockArg : Option Word := none
  debug     : Bool := false
  keysBlocked : Bool := false
  recovery  : Bool := false
  recoverySrc : Option (BitVec 24) := none
  peers     : List (BitVec 24) := []
  /-- Operating time, its stored copy, and whether the last power fail stored it (R431), in ms. -/
  opTime    : Nat := 0
  opStored  : Nat := 0
  opClean   : Bool := true
  pcycle    : Word := 0
  slotId    : BitVec 6 := 0
  role      : BitVec 2 := 1
  frameNext : Nat := 64
  deriving DecidableEq, Repr

/-- Fixed facts of one panel: part variant and the two letters of its stepping suffix (R1, R2), stepping bytes (R327), serial
number, capability masks, expected BIST signatures and vendor-key hashes. No command writes them. -/
structure Hardware where
  e48      : Bool := false
  suffix   : Byte × Byte := (0x41, 0x41)
  serial   : Bytes := []
  /-- [3:0] minor, [7:4] major stepping, in the die order of R368. -/
  stepping : Tbl Byte := []
  seamVer  : Tbl Nat := []
  major    : Nat := 0
  expSig   : Tbl Dword := []
  vendorHash : List Bytes := []
  dikPub   : Bytes := []
  vendorSig : Bytes := []
  caps     : Tbl Dword := []
  deriving DecidableEq, Repr

/-- The whole panel. -/
structure State where
  /-- Fast cycles since the reset this state started from. -/
  now      : Nat
  /-- The model's own counter of free values drawn; it is no state of the spec. -/
  free     : Nat
  /-- Commands waiting, first in, first out. -/
  pending  : List Instr
  /-- HBM and SRAM, by 48-bit panel address (R33). -/
  mem      : List Host.Cell
  regs     : Tbl Word
  bar0     : Tbl Word
  cores    : Tbl Core
  phys     : Tbl Phys
  clusters : Tbl Cluster
  /-- Clusters in which a token has moved since the last fast cycle (R141). -/
  movedIn  : List Nat
  regions  : Tbl (Option Region)
  parts    : Tbl (Option Part)
  stackTbl   : Tbl Stack
  seams    : Tbl SeamEnd
  moving   : List Moving
  ports    : Tbl LinkPort
  ept      : Tbl (BitVec 16)
  pgroups  : Tbl (BitVec 36)
  mcast    : Tbl (BitVec 128)
  resident : Tbl (BitVec 64)
  ctxs     : Tbl (Option CollCtx)
  sends    : List SendFlow
  recvs    : List RecvFlow
  host     : HostIf
  power    : Power
  sparing  : Sparing
  evr      : Recorder
  trust    : Trust
  hw       : Hardware
  deriving DecidableEq, Repr

/-- The panel right after reset, before bring-up: every register at its reset value, every store
empty. Fields the spec gives no reset value for stand at the values notes/assumptions name. -/
def State.reset : State where
  now      := 0
  free     := 0
  pending  := []
  mem      := []
  regs     := []
  bar0     := []
  cores    := []
  phys     := []
  clusters := []
  movedIn  := []
  regions  := []
  parts    := []
  stackTbl   := []
  seams    := []
  moving   := []
  ports    := []
  ept      := []
  pgroups  := []
  mcast    := []
  resident := []
  ctxs     := []
  sends    := []
  recvs    := []
  host     := {}
  power    := {}
  sparing  := {}
  evr      := {}
  trust    := {}
  hw       := {}

end Sys2Proof.Machine
end

