-- ==== Sys2Proof/Machine/Tbl.lean ====
section
/-! DEFINITION. Reads and writes of the sparse tables. A table in canonical form has keys strictly
rising and lists nothing equal to its default, so equal contents are equal data. -/

namespace Sys2Proof.Machine

/-- The entry at k, or the default. -/
def tget {α : Type} (d : α) : Tbl α → Nat → α
  | [], _ => d
  | (k', v) :: t, k => if k = k' then v else tget d t k

/-- Insert at the place the rising order gives. -/
def tput {α : Type} : Tbl α → Nat → α → Tbl α
  | [], k, v => [(k, v)]
  | (k', v') :: t, k, v => if k < k' then (k, v) :: (k', v') :: t else (k', v') :: tput t k v

/-- The table without the entry at k. -/
def tdel {α : Type} (t : Tbl α) (k : Nat) : Tbl α := t.filter fun e => e.1 != k

/-- Write v at k; writing the default removes the entry. -/
def tset {α : Type} [DecidableEq α] (d : α) (t : Tbl α) (k : Nat) (v : α) : Tbl α :=
  if v = d then tdel t k else tput (tdel t k) k v

/-- Keys strictly rising from a lower bound, no entry equal to the default. -/
def tblFrom {α : Type} [DecidableEq α] (d : α) : Nat → Tbl α → Bool
  | _, [] => true
  | lo, (k, v) :: t => decide (lo ≤ k) && decide (v ≠ d) && tblFrom d (k + 1) t

/-- The canonical form of a table. -/
def Tbl.canon {α : Type} [DecidableEq α] (d : α) (t : Tbl α) : Bool := tblFrom d 0 t

/-- What a byte of panel memory nothing has written reads as (log entry 2). -/
def unlistedByte : Byte := 0

/-- The canonical form of memory: addresses strictly rising, no cell equal to what an unlisted
address reads as. -/
def Memory.wf (m : List Host.Cell) : Bool := tblFrom unlistedByte 0 m

/-- One byte of memory. -/
def memByte (m : List Host.Cell) (a : Nat) : Byte := tget unlistedByte m a

/-- n bytes from a. -/
def memRead (m : List Host.Cell) (a n : Nat) : Bytes := (List.range n).map fun i => memByte m (a + i)

/-- The cells that bytes written at a leave listed. -/
def cellsAt : Nat → Bytes → List Host.Cell
  | _, [] => []
  | a, b :: bs => if b = unlistedByte then cellsAt (a + 1) bs else (a, b) :: cellsAt (a + 1) bs

/-- Write bytes from a. -/
def memWrite (m : List Host.Cell) (a : Nat) (bs : Bytes) : List Host.Cell :=
  m.filter (fun c => decide (c.1 < a)) ++ cellsAt a bs ++ m.filter (fun c => decide (a + bs.length ≤ c.1))

/-- Copy n bytes from src to dst, as they were before the copy. -/
def memCopy (m : List Host.Cell) (src dst n : Nat) : List Host.Cell :=
  m.filter (fun c => decide (c.1 < dst))
    ++ (m.filter fun c => decide (src ≤ c.1) && decide (c.1 < src + n)).map (fun c => (c.1 - src + dst, c.2))
    ++ m.filter (fun c => decide (dst + n ≤ c.1))

/-- Zero n bytes from a. -/
def memZero (m : List Host.Cell) (a n : Nat) : List Host.Cell :=
  m.filter (fun c => decide (c.1 < a)) ++ m.filter (fun c => decide (a + n ≤ c.1))

end Sys2Proof.Machine
end

