-- ==== Sys2Proof/Machine/Regs.lean ====
section
/-! DEFINITION. The register file: where each block lies (R33, R84, R114, R234, R259, R310, R380, R411,
R436), what a register reads after reset, and the reads and writes of the words and fields. A
software-visible register has one home, its panel address (or its BAR0 offset). -/

namespace Sys2Proof.Machine

/-! ### Windows (R33) -/

def siteBase (site : Nat) : Nat := 0x020000000000 + site * 0x1000000
/-- The `CLU_` block of block b = site × 4 + quadrant (R114). -/
def cluBase (b : Nat) : Nat := siteBase (b / 4) + b % 4 * 0x400000
/-- The `FAB_` block of block b (R259). -/
def fabBase (b : Nat) : Nat := cluBase b + 0x100000
/-- The `CORE_` block of physical core key b × 34 + p (R84). -/
def coreBase (pk : Nat) : Nat := cluBase (pk / 34) + 0x200000 + pk % 34 * 0x1000
/-- The resident table of a compute die, entry i (R311). -/
def residentBase (site : Nat) : Nat := siteBase site + 0x300000
def sbdBase (n : Nat) : Nat := 0x020100000000 + n * 0x1000000
def lnkBase (k : Nat) : Nat := 0x020200000000 + k * 0x1000000
def ctBase (d : Nat) : Nat := 0x020300000000 + d * 0x1000000
def bstBase : Nat := ctBase 0 + 0x200000
def secBase : Nat := ctBase 0 + 0x280000
def evrBase : Nat := ctBase 0 + 0x300000
def panelBase : Nat := 0x020400000000
def pwrBase : Nat := panelBase + 0x10000
def clkBase : Nat := panelBase + 0x20000
def thmBase : Nat := panelBase + 0x30000
/-- The SRAM window of a logical cluster. -/
def sramBase (c : Nat) : Nat := 0x018000000000 + c * 0x1000000
/-- The near store of hart h = cluster × 32 + core in the SRAM window (R34). -/
def nearBase (h : Nat) : Nat := sramBase (h / 32) + 0x800000 + h % 32 * 0x40000
def hbmBase (n : Nat) : Nat := n * 0x1000000000

/-! ### Reset values -/

/-- Word at offset o of one quadrant of a compute-die window. -/
def quadReset (o : Nat) : Nat :=
  if 0x200000 ≤ o ∧ o < 0x222000 then
    let r := (o - 0x200000) % 0x1000
    if 0x400 ≤ r ∧ r < 0x480 then 0x10000000 else 0
  else if 0x110000 ≤ o ∧ o < 0x115000 then 0xFFFFFFFF
  else if 0x100400 ≤ o ∧ o < 0x100480 then 0x10000000
  else if o = 0x800 then 12 + 1 * 32 + 1 * 64 + 16 * 128 + 1 * 4096 + 0x10000000
  else if o = 0x840 then 0x10000
  else if o = 0x844 then 16 + 10 * 64 + 0x10000000
  else if o = 0x900 then 0x12000
  else if 0xA00 ≤ o ∧ o < 0xB00 ∧ o % 16 = 0 then
    let c := (o - 0xA00) / 16
    0x10000000 + (if c % 8 = 6 then 0x10 else if c % 8 = 7 then 0x20 else 0)
  else if o = 0xB00 then 0x10000
  else if 0x1000 ≤ o ∧ o < 0x1800 then 0x10000000
  else 0

/-- What the register at panel address a holds after reset. -/
def regReset (a : Nat) : Word :=
  BitVec.ofNat 32 <|
  if a < 0x020100000000 then quadReset (a % 0x400000)
  else if a < 0x020118000000 ∧ a % 0x1000000 = 0 then (a - 0x020100000000) / 0x1000000 + 0x10000
  else if 0x020200000000 ≤ a ∧ a < 0x020206000000 then
    let k := (a - 0x020200000000) / 0x1000000
    if a % 0x1000000 = 0 then k + b2n (decide (1 ≤ k)) * 8 + 0x10000 else if a % 0x1000000 = 8 then 0x10000064 else 0
  else if a = bstBase ∨ a = evrBase then 0x10000
  else if a = panelBase then 0x10040
  else if a = panelBase + 0x040 then 0x10000014
  else if a = pwrBase then 0x10000
  else if a = pwrBase + 4 ∨ a = pwrBase + 8 then 2000 + 600 * 0x10000
  else if a = pwrBase + 0x18 then 0x1000000A
  else if pwrBase + 0x400 ≤ a ∧ a < pwrBase + 0xD00 then 7 * 32
  else if a = thmBase then 0x10000000
  else if a = clkBase then 0x10000
  else if a = thmBase + 0x10 then 0x1000000C
  else 0

/-- What the BAR0 word at offset o holds after reset (R317; R316's MSI-X table under PCI Express,
PRESUMED, log entry 8). -/
def bar0Reset (o : Nat) : Word :=
  BitVec.ofNat 32 <|
  if o = 0 then 0x00314856
  else if o = 4 then 0x0100
  else if 0x300000 ≤ o ∧ o < 0x308000 ∧ o % 16 = 12 then 1
  else 0

/-! ### Words and fields -/

/-- A word table whose unlisted entries read as the given function says. -/
def wget (d : Nat → Word) (t : Tbl Word) (a : Nat) : Word := tget (d a) t a

def wset (d : Nat → Word) (t : Tbl Word) (a : Nat) (v : Word) : Tbl Word := tset (d a) t a v

/-- The stored word of the register at panel address a. -/
def State.reg (s : State) (a : Nat) : Word := wget regReset s.regs a

def State.setReg (s : State) (a : Nat) (v : Word) : State := { s with regs := wset regReset s.regs a v }

def State.mgt (s : State) (o : Nat) : Word := wget bar0Reset s.bar0 o

def State.setMgt (s : State) (o : Nat) (v : Word) : State := { s with bar0 := wset bar0Reset s.bar0 o v }

/-- Field [lo + w − 1 : lo] of a register. -/
def State.field (s : State) (a lo w : Nat) : Nat := bits (s.reg a).toNat lo w

def State.setField (s : State) (a lo w v : Nat) : State :=
  s.setReg a (BitVec.ofNat 32 (setBits (s.reg a).toNat lo w v))

def State.mgtField (s : State) (o lo w : Nat) : Nat := bits (s.mgt o).toNat lo w

def State.setMgtField (s : State) (o lo w v : Nat) : State :=
  s.setMgt o (BitVec.ofNat 32 (setBits (s.mgt o).toNat lo w v))

/-- A 64-bit quantity, low half first (R6). -/
def State.reg64 (s : State) (a : Nat) : Nat := (s.reg a).toNat + (s.reg (a + 4)).toNat * 0x100000000

def State.setReg64 (s : State) (a v : Nat) : State :=
  (s.setReg a (BitVec.ofNat 32 v)).setReg (a + 4) (BitVec.ofNat 32 (v / 0x100000000))

/-- Advance a 32-bit counter, saturating. -/
def State.count (s : State) (a n : Nat) : State :=
  if n = 0 then s else s.setReg a (BitVec.ofNat 32 (satAdd 32 (s.reg a).toNat n))

/-- Advance a 64-bit counter, saturating. -/
def State.count64 (s : State) (a n : Nat) : State :=
  if n = 0 then s else s.setReg64 a (satAdd 64 (s.reg64 a) n)

/-- Remove every register whose address satisfies p: those blocks return to their reset values. -/
def State.clearRegs (s : State) (p : Nat → Bool) : State :=
  { s with regs := s.regs.filter fun e => !p e.1 }

end Sys2Proof.Machine
end

