-- ==== Sys2Proof/Machine/Ops.lean ====
section
/-! DEFINITION. The named operations every meaning is written over: the answer of a command, the
logical-to-physical map (R22 to R30, R40), the accessors of the indexed parts of State, panel memory
by address (R33 to R38), event records (R429, R430, R463), completions (R320, R344) and the end of a
step (R331, R340). -/

namespace Sys2Proof.Machine

/-- State t with the waiting commands, the clock and the fixed facts of state s. -/
def State.keeping (t s : State) : State := { t with pending := s.pending, now := s.now, hw := s.hw }

/-- The answer of a command: its effect t, with the queue, the clock and the fixed facts of the part
as they were. No command advances the clock; only the tick of an idle block does (log entry 1). -/
def answer (s t : State) : Host.Outcome State Fault Refusal := .next (t.keeping s)

/-- The effect of a command that only runs when its condition holds; otherwise nothing happens (log
entry 4). -/
def onlyIf (c : Bool) (s t : State) : State := if c then t else s

/-- Draw one free value number (log entry 5). -/
def State.draw (s : State) : State := { s with free := s.free + 1 }

/-- Fast cycles in one microsecond (R39). -/
def usec (n : Nat) : Nat := n * 1100

/-! ### The map -/

/-- Position of the unassigned site of a rod (R23). -/
def State.unassigned (s : State) (rod : Nat) : Nat := tget 6 s.sparing.unassigned rod

/-- Site index of logical die (x, y) (R22, R26). -/
def State.dieSite (s : State) (x y : Nat) : Nat :=
  y * 13 + (if x < s.unassigned y then x else x + 1)

/-- Logical x of a site, if it is assigned. -/
def State.siteDie (s : State) (site : Nat) : Option (Nat × Nat) :=
  let y := site / 13
  let p := site % 13
  let u := s.unassigned y
  if p = u then none else some (if p < u then p else p - 1, y)

def State.isHole (s : State) (site : Nat) : Bool := s.sparing.holes.contains site

/-- A site in use: assigned and no hole (R23). -/
def State.inUse (s : State) (site : Nat) : Bool := (s.siteDie site).isSome && !s.isHole site

/-- Quadrant of cluster c within its die (R29). -/
def quadOf (c : Nat) : Nat := c / 24 % 2 * 2 + c % 24 % 2

/-- Block site × 4 + quadrant of logical cluster c (R29). -/
def State.blk (s : State) (c : Nat) : Nat := s.dieSite (c % 24 / 2) (c / 24 / 2) * 4 + quadOf c

/-- Logical cluster at block b, if the site is assigned. -/
def State.blkCluster (s : State) (b : Nat) : Option Nat :=
  (s.siteDie (b / 4)).map fun d => (d.2 * 2 + b % 4 / 2) * 24 + d.1 * 2 + b % 2

/-- The cluster lies in a hole (R28). -/
def State.clusterHole (s : State) (c : Nat) : Bool := s.isHole (s.blk c / 4)

def State.clu (s : State) (c : Nat) : Cluster := tget {} s.clusters c
def State.setClu (s : State) (c : Nat) (v : Cluster) : State := { s with clusters := tset {} s.clusters c v }

/-- Key of the physical core that hart h runs on (R40). -/
def State.physOf (s : State) (h : Nat) : Nat :=
  s.blk (h / 32) * 34 + (s.clu (h / 32)).coreMap.getD (h % 32) (h % 32)

/-- The hart a physical core carries, if any. -/
def State.hartOf (s : State) (pk : Nat) : Option Nat :=
  match s.blkCluster (pk / 34) with
  | none => none
  | some c => ((s.clu c).coreMap.findIdx? (· = pk % 34)).map fun k => c * 32 + k

/-- Address of register o of the `CLU_` block of logical cluster c. -/
def State.cluReg (s : State) (c o : Nat) : Nat := cluBase (s.blk c) + o
/-- Address of register o of the `CORE_` block that hart h runs on. -/
def State.coreReg (s : State) (h o : Nat) : Nat := coreBase (s.physOf h) + o
def State.fabReg (s : State) (c o : Nat) : Nat := fabBase (s.blk c) + o

/-! ### Accessors -/

def State.core (s : State) (h : Nat) : Core := tget {} s.cores h
def State.setCore (s : State) (h : Nat) (c : Core) : State := { s with cores := tset {} s.cores h c }
/-- A physical core; cores 32 and 33 start as idle spares (R84). -/
def State.physCore (s : State) (pk : Nat) : Phys :=
  tget { duty := if pk % 34 < 32 then 0 else 2 } s.phys pk
def State.setPhys (s : State) (pk : Nat) (v : Phys) : State :=
  { s with phys := tset { duty := if pk % 34 < 32 then 0 else 2 } s.phys pk v }
def State.part (s : State) (p : Nat) : Option Part := tget none s.parts p
def State.setPart (s : State) (p : Nat) (v : Part) : State := { s with parts := tset none s.parts p (some v) }
def State.region (s : State) (r : Nat) : Option Region := tget none s.regions r
def State.setRegion (s : State) (r : Nat) (v : Region) : State := { s with regions := tset none s.regions r (some v) }
def State.stack (s : State) (n : Nat) : Stack := tget {} s.stackTbl n
def State.setStack (s : State) (n : Nat) (v : Stack) : State := { s with stackTbl := tset {} s.stackTbl n v }
def State.port (s : State) (n : Nat) : LinkPort := tget {} s.ports n
def State.setPort (s : State) (n : Nat) (v : LinkPort) : State := { s with ports := tset {} s.ports n v }
def State.ring (s : State) (r : Nat) : Ring := tget {} s.host.rings r
def State.setRing (s : State) (r : Nat) (v : Ring) : State :=
  { s with host := { s.host with rings := tset {} s.host.rings r v } }

def State.modPart (s : State) (p : Nat) (f : Part → Part) : State :=
  match s.part p with
  | none => s
  | some q => s.setPart p (f q)

def State.modRegion (s : State) (r : Nat) (f : Region → Region) : State :=
  match s.region r with
  | none => s
  | some q => s.setRegion r (f q)

def Core.pet (c : Core) : Petal := tget {} c.petals c.petal
def Core.setPet (c : Core) (p : Petal) : Core := { c with petals := tset {} c.petals c.petal p }
def Core.inQ (c : Core) (i : Nat) : InQueue := tget {} c.inq i
def Core.setInQ (c : Core) (i : Nat) (q : InQueue) : Core := { c with inq := tset {} c.inq i q }
def Core.outQ (c : Core) (i : Nat) : OutQueue := tget {} c.outq i
def Core.setOutQ (c : Core) (i : Nat) (q : OutQueue) : Core := { c with outq := tset {} c.outq i q }
def Core.engine (c : Core) (e : Nat) : Engine := tget {} c.eng e
def Core.setEngine (c : Core) (e : Nat) (v : Engine) : Core := { c with eng := tset {} c.eng e v }

/-- x0 reads 0; the others read the running petal's register (R41). -/
def Core.xreg (c : Core) (n : Nat) : Word := if n = 0 then 0 else tget 0 c.pet.x n
/-- Writes to x0 are discarded. -/
def Core.setX (c : Core) (n : Nat) (v : Word) : Core :=
  if n = 0 then c else c.setPet { c.pet with x := tset 0 c.pet.x n v }
def Core.pc (c : Core) : Nat := c.pet.pc.toNat
def Core.setPc (c : Core) (pc : Nat) : Core := c.setPet { c.pet with pc := BitVec.ofNat 32 pc }

/-- Partition whose rectangle holds logical cluster c. -/
def State.partOf (s : State) (c : Nat) : Option Nat :=
  (s.parts.find? fun e => match e.2 with
    | none => false
    | some p => decide (p.cx ≤ c % 24) && decide (c % 24 < p.cx + p.w) && decide (p.cy ≤ c / 24) && decide (c / 24 < p.cy + p.h)).map (·.1)

def Region.holds (r : Region) (c : Nat) : Bool :=
  decide (r.cx ≤ c % 24) && decide (c % 24 < r.cx + r.w) && decide (r.cy ≤ c / 24) && decide (c / 24 < r.cy + r.h)

/-- Region of partition p that holds logical cluster c. -/
def State.regionOf (s : State) (c : Nat) : Option Nat :=
  (s.regions.find? fun e => match e.2 with | none => false | some r => r.holds c).map (·.1)

/-- Epoch of a cluster: that of its region (R149). -/
def State.epochOf (s : State) (c : Nat) : BitVec 3 :=
  match s.regionOf c with
  | none => 0
  | some r => match s.region r with | none => 0 | some q => q.epoch

/-- The clusters of a rectangle, in region order. -/
def rect (cx cy w h : Nat) : List Nat :=
  (List.range h).flatMap fun j => (List.range w).map fun i => (cy + j) * 24 + cx + i

def Part.clusters (p : Part) : List Nat := rect p.cx p.cy p.w p.h
def Region.clusters (r : Region) : List Nat := rect r.cx r.cy r.w r.h

/-- Regions of a partition. -/
def State.regionsOf (s : State) (p : Nat) : List (Nat × Region) :=
  s.regions.filterMap fun e => match e.2 with | none => none | some r => if r.part = p then some (e.1, r) else none

/-- Partition p is frozen (R80, R142). -/
def State.frozen (s : State) (p : Nat) : Bool :=
  match s.part p with | none => false | some q => decide (q.freeze ≠ .no)

/-- SHED_L is asserted, or cooling LOSS sheds the panel (R367, R378). -/
def State.shedding (s : State) : Bool := decide (s.field pwrBase 3 1 = 1) || s.power.lossShed

/-- Hart h may run: its core runs an unhalted petal in a cluster that is neither frozen nor paused. -/
def State.mayRun (s : State) (h : Nat) : Bool :=
  let c := s.core h
  c.running && !c.halted && !s.power.paused.contains (h / 32) &&
    match s.partOf (h / 32) with | none => true | some p => !s.frozen p

/-! ### Panel memory -/

/-- The orderable part number (R1): base number, hyphen and stepping suffix. -/
def Hardware.partNo (h : Hardware) : Bytes := asciiBytes (if h.e48 then "VH1-P156-E48-" else "VH1-P156-E64-") ++ [h.suffix.1, h.suffix.2]

/-- Bytes of HBM a stack maps (R1, R35). -/
def State.stackBytes (s : State) : Nat := if s.hw.e48 then 0xC00000000 else 0x1000000000

/-- Address of `PWR_CLU` of logical cluster c (R380). -/
def pwrClu (c : Nat) : Nat := pwrBase + 0x400 + 4 * c

/-- Power state of logical cluster c: 0 OFF, 1 RETAIN, 2 IDLE, 3 RUN (R361). -/
def State.power? (s : State) (c : Nat) : Nat := s.field (pwrClu c) 0 2
def State.setPower (s : State) (c v : Nat) : State := s.setField (pwrClu c) 0 2 v

/-- Stack n is lost (R233). -/
def State.stackLost (s : State) (n : Nat) : Bool := s.field (sbdBase n + 4) 0 2 = 3

/-- The address lies in a mapped HBM byte of a stack that is not lost (R1, R233), or in the SRAM window of a
cluster that is neither in a hole (R36) nor OFF (R363). -/
def State.mapped (s : State) (a : Nat) : Bool :=
  if a < 0x018000000000 then decide (a % 0x1000000000 < s.stackBytes) && !s.stackLost (a / 0x1000000000)
  else
    let c := (a - 0x018000000000) / 0x1000000
    decide (a < 0x018240000000) && !s.clusterHole c && decide (s.power? c ≠ 0)

/-- The stack of an HBM address. -/
def stackOf (a : Nat) : Nat := a / 0x1000000000
/-- The logical cluster of an SRAM address. -/
def clusterOfAddr (a : Nat) : Nat := (a - 0x018000000000) / 0x1000000
def isHbm (a : Nat) : Bool := decide (a < 0x018000000000)
def isSram (a : Nat) : Bool := decide (0x018000000000 ≤ a) && decide (a < 0x018240000000)

/-- Is logical cluster c in cache mode (R199)? -/
def State.cacheMode (s : State) (c : Nat) : Bool := s.field (s.cluReg c 0x900) 0 1 = 1

/-- Whose access it is, for the rules that treat requesters differently (R51, R204). -/
inductive Requester where
  | engine | scalar | sequencer | mover | other
  deriving DecidableEq, Repr

/-- An SRAM offset that a requester other than the scalar core finds blocked in cache mode (R204). -/
def blockedOffset (o : Nat) : Bool := decide (0x600000 ≤ o) && decide (o < 0x800000)
/-- Bank 11 (R51). -/
def bank11 (o : Nat) : Bool := decide (0x580000 ≤ o) && decide (o < 0x600000)

/-- Read n bytes of panel memory; unmapped bytes and blocked cache banks read zero. -/
def State.load (s : State) (a n : Nat) : Bytes :=
  (List.range n).map fun i =>
    let b := a + i
    if !s.mapped b then 0
    else if isSram b && blockedOffset ((b - 0x018000000000) % 0x1000000) && s.cacheMode (clusterOfAddr b) then 0
    else memByte s.mem b

/-- Write bytes to panel memory without any check. -/
def State.poke (s : State) (a : Nat) (bs : Bytes) : State := { s with mem := memWrite s.mem a bs }

/-! ### Signals to the host (R323, R341) -/

/-- A pulse on RDYBSY, at least 20 µs after the last (R341). -/
def State.pulse (s : State) : State :=
  if !s.host.rdy then s
  else match s.host.pulseAt with
    | some t => if s.now < t + usec 20 then s
                else { s with host := { s.host with pulses := s.host.pulses + 1, pulseAt := some s.now } }
    | none => { s with host := { s.host with pulses := s.host.pulses + 1, pulseAt := some s.now } }

/-- The vector is masked in the MSI-X table (R316). -/
def State.masked (s : State) (v : Nat) : Bool := s.host.msixMask || decide (s.mgtField (0x300000 + v * 16 + 12) 0 1 = 1)

/-- Send MSI-X vector v, or set its pending bit when it is masked (R323); `pulse` says whether a masked
vector calls for an RDYBSY pulse. -/
def State.signal (s : State) (v : Nat) (pulse : Bool) : State :=
  if !s.host.msixOn || !s.host.pcieUp then s
  else if s.masked v then
    let s := s.setMgtField (0x308000 + v / 32 * 4) (v % 32) 1 1
    if pulse then s.pulse else s
  else { s with host := { s.host with msix := v :: s.host.msix } }

/-- A bridge or alternate bridge presents the endpoint (R312). -/
def State.isBridge (s : State) : Bool := s.mgtField 8 5 2 ≠ 0

/-- Set `MGT_STATE`.`STATE` and signal a change (R317). -/
def State.setPanelState (s : State) (v : Nat) : State :=
  if s.mgtField 8 0 3 = v then s
  else
    let s := s.setMgtField 8 0 3 v
    if s.mgtField 0x30 11 1 = 1 then s.signal (s.mgtField 0x30 0 11) false else s

/-- Drive RDYBSY and `MGT_STATE`.`RDY` (R341). -/
def State.setRdy (s : State) (b : Bool) : State :=
  ({ s with host := { s.host with rdy := b } }).setMgtField 8 3 1 (b2n b)

/-! ### Event records (R429, R432, R433) -/

/-- What names the subject of a record (R432). -/
structure Subject where
  kind  : Nat := 0
  index : Nat := 0
  sub   : Nat := 0
  deriving DecidableEq, Repr

def onPanel : Subject := {}
def onSite (site : Nat) (sub : Nat := 0) : Subject := { kind := 1, index := site, sub := sub }
def onCluster (c : Nat) (sub : Nat := 0) : Subject := { kind := 2, index := c, sub := sub }
def onStack (n : Nat) (sub : Nat := 0) : Subject := { kind := 3, index := n, sub := sub }
def onLinkDie (k : Nat) (sub : Nat := 0) : Subject := { kind := 4, index := k, sub := sub }
def onControl (d : Nat) : Subject := { kind := 5, index := d }
def onBay (b : Nat) : Subject := { kind := 6, index := b }
def onTray : Subject := { kind := 7 }
def onHost (r : Nat) : Subject := { kind := 8, index := r }

/-- The active control die: 0 CT-A, 1 CT-B. -/
def State.activeCt (s : State) : Nat := s.mgtField 8 7 1

/-- Drop the oldest record of severity at most `sev`; none if there is none (R429). -/
def dropOldest (sev : Nat) : List (Event × Bool) → Option ((Event × Bool) × List (Event × Bool))
  | [] => none
  | e :: es => if e.1.sev ≤ sev then some (e, es)
               else (dropOldest sev es).map fun r => (r.1, e :: r.2)

/-- The host is signalled of a new record by its severity: MSI-X under `EVT_IRQ`, or a pulse of RDYBSY (R323, R341). -/
def State.alarm (s : State) (sev : Nat) : State :=
  let irq := (s.mgt 0x1C).toNat
  if sev < bits irq 0 3 then s
  else if !s.isBridge then s.pulse
  else if !s.host.msixOn || !s.host.pcieUp then s.pulse
  else if bitOf irq 14 then s.signal (bits irq 3 11) true
  else s

/-- Record e stands last in a buffer that otherwise holds `buf`; its number is the newest. -/
def State.keepRecord (s : State) (e : Event) (buf : List (Event × Bool)) : State :=
  (({ s with evr := { s.evr with buf := buf ++ [(e, true)], seq := e.seq } }).setMgt 0x18 e.seq).alarm e.sev

/-- The record a call of `State.record` makes (R432). -/
def State.newEvent (s : State) (code sev part region : Nat) (sub : Subject) (data : Bytes) : Event :=
  { seq := s.evr.seq + 1, code := code, sev := sev, ct := s.activeCt, part := part, time := s.trust.opTime,
    region := region, pcycle := s.trust.pcycle, skind := sub.kind, sindex := sub.index, ssub := sub.sub,
    data := padTo 32 data }

/-- Make a record: it takes the next sequence number, replaces the oldest of equal or lower severity
when the buffer holds 8,192, and is dropped and counted when there is none (R429). The host is
signalled by severity (R323, R341). -/
def State.record (s : State) (code sev part region : Nat) (sub : Subject) (data : Bytes) : State :=
  let e := s.newEvent code sev part region sub data
  if s.evr.buf.length < 8192 then s.keepRecord e s.evr.buf
  else match dropOldest sev s.evr.buf with
    | none => s.count (evrBase + 0x10) 1
    | some (old, rest) => (if old.2 then s.count (evrBase + 0x14) 1 else s).keepRecord e rest

def noPart : Nat := 0xFF

/-- Partition number for a record that concerns cluster c. -/
def State.partNo (s : State) (c : Nat) : Nat := (s.partOf c).getD noPart

/-- NOTICE of an access to an unmapped address (R35). The rule gives the record no subject; that it is the panel is the model's choice
(log entry 101). -/
def State.noteUnmapped (s : State) (a : Nat) (eid : BitVec 24) : State :=
  s.record 0x0301 2 noPart 0 onPanel (u64 a ++ u32 eid.toNat)

/-- NOTICE of an access to the SRAM window of a cluster in OFF, naming the cluster (R363). -/
def State.noteOff (s : State) (a : Nat) (eid : BitVec 24) : State :=
  s.record 0x0301 2 (s.partNo (clusterOfAddr a)) 0 (onCluster (clusterOfAddr a)) (u64 a ++ u32 eid.toNat)

/-- Write bytes at offset o of the SRAM window of cluster c, which is address a, as a requester: writes to bank 11 of a
cluster whose backup is on are discarded with a NOTICE (R51), and banks 12 to 15 of a cluster in cache mode are
blocked and counted (R204). -/
def State.storeSram (s : State) (who : Requester) (c o a : Nat) (bs : Bytes) : State :=
  if bank11 o && (s.clu c).backupOn && who ≠ .sequencer then
    s.record 0x0205 2 (s.partNo c) 0 (onCluster c) (u32 o)
  else if blockedOffset o && s.cacheMode c then s.count (s.cluReg c 0x92C) 1
  else s.poke a bs

/-- The parts of an access of n bytes at a that lie within one 64 KiB block each, as first byte and length: every limit that R33, R35, R51,
R192, R204 and R206 set is a multiple of 64 KiB. The first argument bounds their number. -/
def blockParts : Nat → Nat → Nat → List (Nat × Nat)
  | 0, _, _ => []
  | f + 1, a, n =>
    if n = 0 then []
    else
      let k := Nat.min n (0x10000 - a % 0x10000)
      (a, k) :: blockParts f (a + k) (n - k)

def blocksOf (a n : Nat) : List (Nat × Nat) := blockParts (n / 0x10000 + 2) a n

/-- A write that lies within one block: unmapped bytes are discarded (R35, R36, R363). That the window of a cluster in a hole raises no
NOTICE, though R36 likens it to an unmapped address, is the model's choice (log entry 101). -/
def State.storeBlock (s : State) (who : Requester) (eid : BitVec 24) (a : Nat) (bs : Bytes) : State :=
  if !s.mapped a then
    if !isSram a then s.noteUnmapped a eid
    else if s.clusterHole (clusterOfAddr a) then s
    else s.noteOff a eid
  else if isSram a then s.storeSram who (clusterOfAddr a) ((a - 0x018000000000) % 0x1000000) a bs
  else s.poke a bs

/-- Write bytes to panel memory as a requester, block by block. -/
def State.store (s : State) (who : Requester) (eid : BitVec 24) (a : Nat) (bs : Bytes) : State :=
  (blocksOf a bs.length).foldl (fun s e => s.storeBlock who eid e.1 (slice bs (e.1 - a) e.2)) s

/-! ### Completions (R320, R343, R344) -/

/-- Statuses (R325). -/
abbrev stOk : Nat := 0
abbrev stPartial : Nat := 1
abbrev stBusy : Nat := 2
abbrev stNoResource : Nat := 3
abbrev stFenced : Nat := 4
abbrev stTimeout : Nat := 5
abbrev stAuthFail : Nat := 6
abbrev stVersion : Nat := 7
abbrev stFault : Nat := 8
abbrev stAborted : Nat := 9
abbrev stAbsorbed : Nat := 10

def State.cmd (s : State) (id : Nat) : Option Started :=
  match s.host.started.find? (·.1 = id) with
  | none => none
  | some e => some e.2

def Started.byte (c : Started) (off : Nat) : Nat := fld c.slot off 1
def Started.arg (c : Started) (off len : Nat) : Nat := fld c.slot off len
def Started.opcode (c : Started) : Nat := c.byte 0
def Started.partNo (c : Started) : Nat := c.byte 4

/-- The 32 bytes of a completion, `SQ_HEAD`, `PHASE` and `RING` apart (R320). -/
def Completion.bytes (c : Completion) (phase ring sqHead : Nat) : Bytes :=
  u16 c.cmdId.toNat ++ u8 c.status ++ u8 (1 + phase * 16) ++ u16 sqHead ++ u8 c.opcode.toNat ++ u8 ring
    ++ u64 c.result0.toNat ++ u64 c.result1.toNat ++ u32 c.detail.toNat ++ u32 0

/-- The panel EID (R282). -/
def State.panelEid (s : State) : BitVec 24 := BitVec.ofNat 24 ((s.mgt 0x14).toNat % 0x1000000 + 576)

/-- A MGMT_REPLY packet (R343) from this panel. -/
def State.mgmtReply (s : State) (dst : BitVec 24) (rseq : Word) (seq : Half) (c : Completion) (out : Bytes) : Packet :=
  ({ mkPacket 2 0x24 dst s.panelEid 0 false (c.bytes 0 0 0 ++ u32 rseq.toNat ++ u32 out.length ++ List.replicate 24 0 ++ out)
     with seq := seq }).sealed

/-- A packet of Gleryn's leaves the active control die over the rim (R21, R247) for LD0, or the next working link die of its edge (the model's
choice, log entry 108). -/
def State.glerynSend (s : State) (p : Packet) : State :=
  let k := ([0, 1, 2].find? fun k => !s.sparing.lostDies.contains (180 + k)).getD 0
  { s with moving := s.moving ++ [{ target := .exit (24 + k), net := 0, src := 600, since := s.now, pkt := p }] }

/-- End a dispatched command: its completion waits on its ring, or leaves in a MGMT_REPLY and is kept
(R320, R343, R344); a network command's answer goes back over the management port (R437). `detail` is
the byte offset of the first failing field, or 0xFF; `evt` the record that describes the outcome. -/
def State.finish (s : State) (id status r0 r1 : Nat) (detail : Nat := 0xFF) (out : Bytes := [])
    (evt : Nat := 0) : State :=
  match s.cmd id with
  | none => s
  | some c =>
    let k : Completion := {
      cmdId := BitVec.ofNat 16 (c.arg 2 2), status := status, opcode := BitVec.ofNat 8 c.opcode,
      result0 := BitVec.ofNat 64 r0, result1 := BitVec.ofNat 64 r1,
      detail := BitVec.ofNat 32 (detail % 256 + evt % 0x1000000 * 256) }
    let s := { s with host := { s.host with started := tdel s.host.started id } }
    match c.origin with
    | .ring r => s.setRing r { s.ring r with toPost := (s.ring r).toPost ++ [k] }
    | .network => s
    | .packet reply rseq seq _ =>
      let s := { s with host := { s.host with kept := ((c.partNo, k.cmdId, k) :: s.host.kept).take 256 } }
      let all := (reply, rseq, seq) :: c.also
      all.foldl (fun s e => s.glerynSend (s.mgmtReply e.1 e.2.1 e.2.2 k out)) s

/-- End a command whose outcome the newest event record describes: `DETAIL` names that record (R320; log entry 110). -/
def State.finishNoted (s : State) (id status r0 r1 : Nat) : State := s.finish id status r0 r1 0xFF [] s.evr.seq.toNat

/-- Write bytes to host memory (R315); a 0 byte is as listed as any other cell there (log entry 9). -/
def State.hostWrite (s : State) (a : Nat) (bs : Bytes) : State :=
  { s with host := { s.host with mem := memWrite s.host.mem a bs } }

/-- A block of panel memory of n bytes from a lies in the partition's pages of one stack (R206, R329). -/
def Part.ownsHbm (q : Part) (a n : Nat) : Bool :=
  isHbm a && bitOf q.stackTbl.toNat (stackOf a) &&
    decide (q.firstPage * 65536 ≤ a % 0x1000000000) && decide (a % 0x1000000000 + n ≤ (q.firstPage + q.pages) * 65536)

/-- In the SRAM window of one of its clusters. -/
def Part.ownsSram (q : Part) (a n : Nat) : Bool :=
  isSram a && q.clusters.contains (clusterOfAddr a) && decide ((a - 0x018000000000) % 0x1000000 + n ≤ 0x1000000)

/-- n bytes from a lie in the partition's HBM or SRAM. -/
def Part.owns (q : Part) (a n : Nat) : Bool := q.ownsHbm a n || q.ownsSram a n

/-- The partition that an UNPREDICTABLE outcome concerns could read the byte at a (R14): it lies in its HBM or in the SRAM of its clusters. -/
def State.couldRead (s : State) (p : Option Nat) (a : Nat) : Bool :=
  match p.bind s.part with
  | none => false
  | some q => q.owns a 1

/-- Byte i of an UNPREDICTABLE outcome that concerns partition p (R14): zero, the byte that stood there, or one that the partition could
already read. -/
def State.openByte (s : State) (p : Option Nat) (old : Byte) (i : Nat) : Byte :=
  match Config.pick s.free i % 3 with
  | 0 => 0
  | 1 => old
  | _ => if s.couldRead p (Config.place s.free i) then memByte s.mem (Config.place s.free i) else 0

/-- n bytes in place of those at a, open within partition p. -/
def State.openBytes (s : State) (p : Option Nat) (a n : Nat) : State × Bytes :=
  (s.draw, (List.range n).map fun i => s.openByte p (memByte s.mem (a + i)) i)

/-- n bytes from a become unpredictable within partition p. -/
def State.scramble (s : State) (p : Option Nat) (a n : Nat) : State :=
  let r := s.openBytes p a n
  r.1.poke a r.2

/-! ### The end of a step (R331, R339, R340) -/

/-- Result-buffer header bytes 0 to 7 (R339). -/
def resultHeader (ready status : Nat) (seq : Nat) : Bytes := u8 ready ++ u8 status ++ u8 1 ++ u8 0 ++ u32 seq

/-- The result header becomes ready with the step's status; the payload length stays as the step declared it, and after a
status other than OK the payload is unpredictable (R340). -/
def State.readyResult (s : State) (p : Nat) (st : StepRec) (status : Nat) (count : Dword) : State :=
  if st.resAddr = 0 then s
  else
    let s := s.poke st.resAddr (resultHeader 1 status (count.toNat % 0x100000000))
    if status = stOk then s else s.scramble (some p) (st.resAddr + 64) (st.resLen - 64)

/-- Sum of 32-bit registers at offsets o of the sentinel blocks of a cluster block's cores (R105). -/
def State.sentSum (s : State) (blks : List Nat) (o : Nat) : Nat :=
  (s.regs.filter fun e =>
      decide (e.1 < 0x020100000000) && decide (0x020000000000 ≤ e.1)
        && (let q := e.1 % 0x400000
            decide (0x200000 ≤ q) && decide (q < 0x222000) && decide (0x200 ≤ q % 0x1000) && decide (q % 0x1000 < 0x2A0)
              && decide (q % 0x20 = o))
        && blks.contains ((e.1 - 0x020000000000) / 0x400000)).foldl (fun n e => n + e.2.toNat) 0

/-- The increase of a counter since partition p last reported it, under a key of its own. -/
def Part.rise (q : Part) (key now : Nat) : Nat := now - tget 0 q.snap key

def Part.noted (q : Part) (key now : Nat) : Part := { q with snap := tset 0 q.snap key now }

/-- One NOTICE for one counter of partition p, if it rose since its last report (R463). -/
def State.noteRise (s : State) (p code key now : Nat) (sub : Subject) : State :=
  match s.part p with
  | none => s
  | some q =>
    let s := s.setPart p (q.noted key now)
    if q.rise key now = 0 then s else s.record code 2 p 0 sub (u32 (q.rise key now))

/-- Page requests of partition p that stack n rejected and no NOTICE has reported (R218, R463). -/
def State.addRejects (s : State) (p n : Nat) : State :=
  s.modPart p fun q => { q with snap := tset 0 q.snap (0x40300 + n) (tget 0 q.snap (0x40300 + n) + 1) }

/-- Partition q with what its cores' sentinels have counted, NaN, infinity, exception overflow and bad payload, noted (R463). -/
def State.notedSentinels (s : State) (q : Part) : Part :=
  (List.range 4).foldl (fun x i =>
    x.noted (0x10400 + i) (([0x10, 0x14, 0x0C, 0x18].map (s.sentSum (q.clusters.map s.blk))).getD i 0)) q

/-- Event 0x0104 for partition p, if one of those sentinels rose since it was last noted (R463). -/
def State.noteSentinels (s : State) (p : Nat) (q : Part) : State :=
  let now := [0x10, 0x14, 0x0C, 0x18].map (s.sentSum (q.clusters.map s.blk))
  let ups := (List.range 4).map fun i => q.rise (0x10400 + i) (now.getD i 0)
  let s := s.setPart p (s.notedSentinels q)
  if ups.all (· = 0) then s else s.record 0x0104 2 p 0 onPanel (ups.flatMap u32)

/-- Loop mismatches, steering drops, bulk-mover faults and cache blocks of cluster c (R463). -/
def State.noteCluster (s : State) (p c : Nat) : State :=
  let s := s.noteRise p 0x0201 (0x2010000 + c) (s.reg (s.cluReg c 0x864)).toNat (onCluster c)
  let s := s.noteRise p 0x0202 (0x2020000 + c) (s.reg (s.cluReg c 0x860)).toNat (onCluster c)
  let s := s.noteRise p 0x0305 (0x3050000 + c) (s.reg (s.cluReg c 0x930)).toNat (onCluster c)
  s.noteRise p 0x0306 (0x3060000 + c) (s.reg (s.cluReg c 0x92C)).toNat (onCluster c)

/-- Packets of partition p's clusters for unreachable targets: one NOTICE for the partition (R249, R463). -/
def State.noteUnreached (s : State) (p : Nat) (q : Part) : State :=
  s.noteRise p 0x0501 0x5010000 ((q.clusters.map fun c => (s.reg (s.fabReg c 0x00C)).toNat).foldl (· + ·) 0) onPanel

/-- Page requests that stack n rejected (R463). -/
def State.noteRejects (s : State) (p n : Nat) : State :=
  match s.part p with
  | none => s
  | some q =>
    let k := tget 0 q.snap (0x40300 + n)
    if k = 0 then s
    else (s.setPart p (q.noted (0x40300 + n) 0)).record 0x0403 2 p 0 (onStack n) (u32 k)

/-- The NOTICE events of R463 for partition p: its cores' sentinels, then its clusters' counters, then the stacks' page rejections. -/
def State.stepNotices (s : State) (p : Nat) : State :=
  match s.part p with
  | none => s
  | some q => (List.range 24).foldl (fun s n => s.noteRejects p n) ((q.clusters.foldl (fun s c => s.noteCluster p c) (s.noteSentinels p q)).noteUnreached p q)

/-- Average input power of a step and its regions, kept for the flow target (R377); `pIn` is the present one, for a run without a sample. -/
def Part.keepPower (q : Part) (st : StepRec) (pIn : Nat) : Part :=
  let avg := if st.samples = 0 then pIn else st.drawn / st.samples
  { q with avgPower := (st.regions.toNat, avg) :: q.avgPower.filter fun e => e.1 != st.regions.toNat }

/-- The clusters of partition q that run go to IDLE (R361). -/
def State.idleClusters (s : State) (q : Part) : State :=
  q.clusters.foldl (fun s c => if s.power? c = 3 then s.setPower c 2 else s) s

/-- End the running step of partition p with a status: the header becomes ready, the command
completes with the step count and the duration, the step's NOTICE events are made, and the partition
runs no step (R331, R340, R463). `evt` is the number of the event record that describes the outcome (R320). -/
def State.endStep (s : State) (p status : Nat) (evt : Nat := 0) : State :=
  match s.part p with
  | none => s
  | some q =>
    match q.step with
    | none => s
    | some st =>
      let s := s.readyResult p st status q.stepCount
      let s := s.finish st.cmd status q.stepCount.toNat (s.now - st.start) 0xFF [] evt
      let s := s.setPart p {
        q.keepPower st (s.reg (pwrBase + 0x14)).toNat with
        step := none, results := if st.resAddr = 0 then q.results else (st.resAddr, st.resLen) :: q.results }
      (s.idleClusters q).stepNotices p

/-! ### Halts (R44) -/

/-- The causes of `CORE_FAULT` (R84). -/
abbrev causeIllegal : Nat := 0
abbrev causeAccess : Nat := 1
abbrev causeMisalign : Nat := 2
abbrev causeDesc : Nat := 3

/-- Halt the running petal of hart h: cause, pc and engine in the core's registers, a WARNING that
names the cluster and the petal, and the step ends with FAULT (R44, event 0x0101). -/
def State.halt (s : State) (h cause pc : Nat) (eng : Option Nat := none) : State :=
  let c := s.core h
  let s := s.setField (s.coreReg h 8) cause 1 1
  let s := match eng with | none => s | some e => s.setField (s.coreReg h 8) 8 3 e
  let s := s.setReg (s.coreReg h 0xC) (BitVec.ofNat 32 pc)
  let s := s.setCore h { c with halted := true, wait := none }
  let p := s.partNo (h / 32)
  let s := s.record 0x0101 3 p ((s.regionOf (h / 32)).getD 0) (onCluster (h / 32))
    (u8 c.petal ++ u32 (s.reg (s.coreReg h 8)).toNat ++ u32 pc)
  s.endStep p stFault s.evr.seq.toNat

end Sys2Proof.Machine
end

