-- ==== Sys2Proof/Machine/DefectMap.lean ====
section
/-! DEFINITION. The defect map (R390 to R395), where an address lies in a stack's DRAM (R209), and the errors and counts of reads
and writes of stack memory (R212, R234). -/

namespace Sys2Proof.Machine

/-! ### The order of dies (R368) -/

def dieOfSite (site : Nat) : Nat := site
def dieOfStack (n : Nat) : Nat := 156 + n
def dieOfLink (k : Nat) : Nat := 180 + k
def dieOfControl (d : Nat) : Nat := 186 + d

abbrev kDie : Nat := 1
abbrev kCluster : Nat := 2
abbrev kCore : Nat := 3
abbrev kNsRow : Nat := 4
abbrev kCmRow : Nat := 5
abbrev kPhase : Nat := 6
abbrev kWire : Nat := 7
abbrev kDram : Nat := 8
abbrev kChannel : Nat := 9
abbrev kLane : Nat := 10
abbrev kBay : Nat := 11

/-- The entry names this unit. -/
def Defect.names (d : Defect) (kind die unit detail : Nat) : Bool :=
  decide (d.kind = kind) && decide (d.die = die) && decide (d.unit = unit) && decide (d.detail = detail)

/-- Bad by the fuse map. -/
def Sparing.fused (m : Sparing) (kind die unit detail : Nat) : Bool := m.fuse.contains (kind, die, unit, detail)

/-- The field list has an entry for the unit; contradictions make nothing bad (R391). -/
def Sparing.listed (m : Sparing) (kind die unit detail : Nat) : Bool :=
  m.fieldList.any fun e => match e with | none => false | some d => d.names kind die unit detail && decide (d.source ≠ 3)

/-- The unit itself is named bad (R390); the callers ask for the larger units that contain it. -/
def Sparing.named (m : Sparing) (kind die unit detail : Nat) : Bool := m.fused kind die unit detail || m.listed kind die unit detail

/-- A compute site is bad. -/
def Sparing.badSite (m : Sparing) (site : Nat) : Bool := m.named kDie (dieOfSite site) 0 0

/-- Physical core p of quadrant q is bad. -/
def Sparing.badCore (m : Sparing) (site q p : Nat) : Bool := m.badSite site || m.named kCluster site q 0 || m.named kCore site (q * 34 + p) 0

/-- Field-list entries in use. -/
def Sparing.inUse (m : Sparing) : Nat := (m.fieldList.filter (·.isSome)).length

/-- The unit that takes a finer unit's place when the list is full (R393). -/
def coarser (kind die unit detail : Nat) : Nat × Nat × Nat × Nat :=
  if kind = kNsRow then (kCore, die, unit, 0)
  else if kind = kCmRow then (kCluster, die, unit, 0)
  else if kind = kCore then (kCluster, die, unit / 34, 0)
  else if kind = kPhase then (kCluster, die, unit, 0)
  else if kind = kCluster then (kDie, die, 0, 0)
  else if kind = kWire then (kDie, die, 0, 0)
  else if kind = kDram then (kChannel, die, unit / 2, 0)
  else if kind = kLane then (kDie, dieOfLink (unit / 6), 0, 0)
  else (kind, die, unit, detail)

/-- Units that contain a unit, from the next coarser. -/
def coarserAll : Nat → Nat × Nat × Nat × Nat → List (Nat × Nat × Nat × Nat)
  | 0, _ => []
  | n + 1, u =>
    let v := coarser u.1 u.2.1 u.2.2.1 u.2.2.2
    if v = u then [] else v :: coarserAll n v

/-- An entry made now (R392). -/
def State.newDefect (s : State) (source cause : Nat) (u : Nat × Nat × Nat × Nat) : Defect :=
  { kind := u.1, source := source, cause := cause, clean := 0, die := u.2.1, unit := u.2.2.1, detail := u.2.2.2,
    time := s.trust.opTime / 1000 }

/-- First entry satisfying f, replaced. -/
def putFirst (f : Option Defect → Bool) (d : Option Defect) : List (Option Defect) → Option (List (Option Defect))
  | [] => none
  | e :: es => if f e then some (d :: es) else (putFirst f d es).map (e :: ·)

/-- Add an entry for a unit (R390, R393): a unit already listed has its `CLEAN` set to 0; a full list takes a coarser
unit already listed, or replaces a contradiction, or the first entry that a coarser one covers, and a WARNING is
recorded. -/
def State.addDefect (s : State) (source cause kind die unit detail : Nat) : State :=
  let m := s.sparing
  let put := fun (l : List (Option Defect)) (s : State) => { s with sparing := { s.sparing with fieldList := l } }
  let d := s.newDefect source cause (kind, die, unit, detail)
  if source ≠ 3 ∧ m.listed kind die unit detail then
    let zero := fun (e : Option Defect) => e.map fun x => if x.names kind die unit detail && decide (x.source ≠ 3) then { x with clean := 0 } else x
    put (m.fieldList.map zero) s
  else match putFirst Option.isNone (some d) m.fieldList with
    | some l => put l s
    | none =>
      if m.fieldList.length < 4096 then put (m.fieldList ++ [some d]) s
      else
        let ups := coarserAll 4 (kind, die, unit, detail)
        let s := s.record 0x0903 3 noPart 0 onPanel []
        if ups.any (fun u => m.listed u.1 u.2.1 u.2.2.1 u.2.2.2) then s
        else
          let c := coarser kind die unit detail
          let n := s.newDefect source cause c
          let contra := fun (e : Option Defect) => match e with | none => false | some x => decide (x.source = 3)
          let covered := fun (e : Option Defect) => match e with
            | none => false
            | some x => (coarserAll 4 (x.kind, x.die, x.unit, x.detail)).any fun u => u == c || m.listed u.1 u.2.1 u.2.2.1 u.2.2.2
          match putFirst contra (some n) m.fieldList with
          | some l => put l s
          | none => match putFirst covered (some n) m.fieldList with
            | some l => put l s
            | none => s

/-- A contradiction (R391): an entry of its own for a fuse-bad unit that passed, counted and recorded. -/
def State.addContradiction (s : State) (kind die unit detail : Nat) : State :=
  let same := fun (e : Option Defect) => match e with | none => false | some x => x.names kind die unit detail && decide (x.source = 3)
  let s := s.count (bstBase + 0xC) 1
  let s := s.record 0x0901 2 noPart 0 onPanel (u8 1 ++ u8 kind ++ u8 3 ++ u8 0 ++ u16 die ++ u16 unit ++ u32 detail ++ u32 (s.trust.opTime / 1000))
  if s.sparing.fieldList.any same then s else s.addDefect 3 0 kind die unit detail

/-- The test of a unit passed or failed (R394): `CLEAN` of each entry that names it. -/
def State.tested (s : State) (kind die unit detail : Nat) (pass : Bool) : State :=
  let f := fun (e : Option Defect) => e.map fun x =>
    if x.names kind die unit detail then { x with clean := if pass then Nat.min (x.clean + 1) 255 else 0 } else x
  { s with sparing := { s.sparing with fieldList := s.sparing.fieldList.map f } }

/-! ### DRAM (R209, R212) -/

/-- Where the bytes of a 64-byte unit lie in a stack (R209). -/
structure DramPlace where
  channel : Nat
  pseudo  : Nat
  group   : Nat
  bank    : Nat
  row     : Nat
  column  : Nat
  deriving DecidableEq, Repr

/-- The map of a stack offset (R209). -/
def dramPlace (o : Nat) : DramPlace where
  channel := Nat.xor (bits o 8 5) (bits o 20 5)
  pseudo  := bits o 13 1
  group   := bits o 34 2
  bank    := Nat.xor (bits o 16 4) (bits o 24 4)
  row     := bits o 20 14
  column  := bits o 6 2 + bits o 14 2 * 4

/-- Channel × 2 + pseudo-channel of a stack offset, as a DRAM_ROW entry names it (R392). -/
def dramUnit (o : Nat) : Nat := (dramPlace o).channel * 2 + (dramPlace o).pseudo

/-- An uncorrectable error of stack k at offset u is reported: counted, recorded, and entered in the defect map (R212, R395). -/
def State.reportUe (s : State) (k u : Nat) : State :=
  let s := ((s.count (sbdBase k + 0x44) 1).setReg64 (sbdBase k + 0x48) u).record 0x0401 4 noPart 0 (onStack k) (u64 u)
  s.addDefect 1 12 kDram (dieOfStack k) (dramUnit u) (u / 1024)

/-- The errors that stand in units which f names are reported, and said in the answer. -/
def State.reportUnits (s : State) (k : Nat) (f : Nat → Bool) : State × Bool :=
  let x := s.stack k
  match x.ueUnits.filter f with
  | [] => (s, false)
  | us => (us.foldl (fun s u => s.reportUe k u) (s.setStack k { x with ueUnits := x.ueUnits.filter fun u => !f u }), true)

/-- A read of n bytes from a reports the uncorrectable errors that stand in its 64-byte units (R212). -/
def State.readErrors (s : State) (a n : Nat) : State × Bool :=
  if !isHbm a then (s, false)
  else s.reportUnits (stackOf a) fun u => decide (u < a % 0x1000000000 + n) && decide (a % 0x1000000000 < u + 64)

/-- n bytes of HBM at a are read: counted by the stack, with the errors they meet (R212, R234). -/
def State.readStack (s : State) (a n : Nat) : State × Bool :=
  if isHbm a && s.mapped a then
    let r := s.readErrors a n
    (r.1.count64 (sbdBase (stackOf a) + 0x10) n, r.2)
  else (s, false)

/-- A retrain of channel ch begins: it is counted, and the channel is offline in slices (R231). -/
def State.retrainGo (s : State) (n ch : Nat) (cmd : Option Nat) : State :=
  let a := sbdBase n + 0x100 + 4 * ch
  let s := (s.setField (sbdBase n + 4) 8 1 1).setField a 0 2 1
  let s := (s.count (sbdBase n + 0x6C) 1).setField a 2 6 (satAdd 6 (s.field a 2 6) 1)
  s.setStack n { s.stack n with retrain := some (ch, cmd) }

/-- A retrain of channel ch is called for; one channel of a stack retrains at a time (R231). -/
def State.retrainStart (s : State) (n ch : Nat) (cmd : Option Nat) : State :=
  let x := s.stack n
  if 24 ≤ n ∨ 32 ≤ ch ∨ s.stackLost n ∨ s.field (sbdBase n + 0x100 + 4 * ch) 0 2 = 2 then s
  else match x.retrain with
    | none => s.retrainGo n ch cmd
    | some _ => s.setStack n { x with retrainDue := x.retrainDue ++ [(ch, cmd)] }

/-- A read of channel ch was corrected: counted, and more than 64 in one second start a retrain (R212, R231). -/
def State.noteCorrected (s : State) (n ch : Nat) : State :=
  let s := s.count (sbdBase n + 0x40) 1
  let x := s.stack n
  let l := (s.trust.opTime, ch) :: x.ces.filter fun e => decide (s.trust.opTime < e.1 + 1000)
  if (l.filter fun e => decide (e.2 = ch)).length ≤ 64 then s.setStack n { x with ces := l }
  else (s.setStack n { x with ces := l.filter fun e => decide (e.2 ≠ ch) }).retrainStart n ch none

/-- n bytes of HBM at a are written (R234). -/
def State.wroteStack (s : State) (a n : Nat) : State :=
  if isHbm a && s.mapped a then s.count64 (sbdBase (stackOf a) + 0x18) n else s

end Sys2Proof.Machine
end

