-- ==== Sys2Proof/Machine/Shake.lean ====
section
/-! DEFINITION. SHAKE256 of FIPS 202, which R167, R415, R423 and R424 name: the Keccak-f[1600] permutation on 25
lanes of 64 bits, rate 136 bytes, domain suffix 0x1F. -/

namespace Sys2Proof.Machine

def keccakRC : List Dword :=
  [0x0000000000000001#64, 0x0000000000008082#64, 0x800000000000808A#64, 0x8000000080008000#64, 0x000000000000808B#64,
   0x0000000080000001#64, 0x8000000080008081#64, 0x8000000000008009#64, 0x000000000000008A#64, 0x0000000000000088#64,
   0x0000000080008009#64, 0x000000008000000A#64, 0x000000008000808B#64, 0x800000000000008B#64, 0x8000000000008089#64,
   0x8000000000008003#64, 0x8000000000008002#64, 0x8000000000000080#64, 0x000000000000800A#64, 0x800000008000000A#64,
   0x8000000080008081#64, 0x8000000000008080#64, 0x0000000080000001#64, 0x8000000080008008#64]

/-- Rotation of lane x + 5y. -/
def keccakRot : List Nat := [0, 1, 62, 28, 27, 36, 44, 6, 55, 20, 3, 10, 43, 25, 39, 41, 45, 15, 21, 8, 18, 2, 61, 56, 14]

def lane (a : List Dword) (i : Nat) : Dword := a.getD i 0

/-- One round. -/
def keccakRound (a : List Dword) (rc : Dword) : List Dword :=
  let c := (List.range 5).map fun x => lane a x ^^^ lane a (x + 5) ^^^ lane a (x + 10) ^^^ lane a (x + 15) ^^^ lane a (x + 20)
  let d := (List.range 5).map fun x => lane c ((x + 4) % 5) ^^^ (lane c ((x + 1) % 5)).rotateLeft 1
  let t := (List.range 25).map fun i => (lane a i ^^^ lane d (i % 5)).rotateLeft (keccakRot.getD i 0)
  -- lane (x, y) moves to (y, 2x + 3y)
  let b := (List.range 25).map fun i =>
    let x' := i % 5
    let y' := i / 5
    let x := (x' + 3 * y') % 5
    lane t (x + 5 * x')
  (List.range 25).map fun i =>
    let y := i / 5 * 5
    let x := i % 5
    let v := lane b i ^^^ (~~~ lane b (y + (x + 1) % 5) &&& lane b (y + (x + 2) % 5))
    if i = 0 then v ^^^ rc else v

def keccakF (a : List Dword) : List Dword := keccakRC.foldl keccakRound a

/-- XOR a block of 136 bytes into the state and permute. -/
def absorb (a : List Dword) (blk : Bytes) : List Dword :=
  keccakF ((List.range 25).map fun i => if i < 17 then lane a i ^^^ BitVec.ofNat 64 (fld blk (8 * i) 8) else lane a i)

def absorbAll : Nat → List Dword → Bytes → List Dword
  | 0, a, _ => a
  | n + 1, a, bs => absorbAll n (absorb a (bs.take 136)) (bs.drop 136)

/-- The message padded to whole blocks: 0x1F, zeros, 0x80 in the last byte. -/
def shakePad (bs : Bytes) : Bytes :=
  let n := 136 - bs.length % 136
  if n = 1 then bs ++ [0x9F] else bs ++ [0x1F] ++ List.replicate (n - 2) 0 ++ [0x80]

/-- SHAKE256 with a 256-bit output. -/
def shake256 (bs : Bytes) : Bytes :=
  let m := shakePad bs
  let a := absorbAll (m.length / 136) (List.replicate 25 0) m
  (List.range 4).flatMap fun i => natLe 8 (lane a i).toNat

end Sys2Proof.Machine
end

