-- ==== Sys2Proof/Machine/Circuits.lean ====
section
/-! DEFINITION. Routers (R235 to R245, R252, R254): their ports and seams, frame counters and slot tables, and the way of a
circuit's units through them. -/

namespace Sys2Proof

/-- Block site × 4 + quadrant of a port's router, and the key of its state. -/
def PortRef.blk (p : PortRef) : Nat := p.site * 4 + p.quad
def PortRef.key (p : PortRef) : Nat := p.blk * 5 + p.port

/-- The port stands at the edge of its die. -/
def PortRef.onSeam (p : PortRef) : Bool :=
  (p.port == 0 && decide (p.quad / 2 = 0)) || (p.port == 2 && decide (p.quad / 2 = 1))
    || (p.port == 1 && decide (p.quad % 2 = 1)) || (p.port == 3 && decide (p.quad % 2 = 0))

def PortRef.valid (p : PortRef) : Bool := decide (p.site < 156) && decide (p.quad < 4) && decide (p.port < 5)

end Sys2Proof

namespace Sys2Proof.Machine

/-! ### Ports and seams (R235 to R239) -/

/-- The port that faces a port. -/
def facing (port : Nat) : Nat := (port + 2) % 4

def blkPort (b port : Nat) : PortRef := { site := b / 4, quad := b % 4, port := port }

def portOfKey (k : Nat) : PortRef := blkPort (k / 5) (k % 5)

/-- The router that lies beyond a port in the pattern of a die's four. -/
def besideQuad (q port : Nat) : Nat := if port % 2 = 1 then q / 2 * 2 + (1 - q % 2) else (1 - q / 2) * 2 + q % 2

/-- The site at the other end of a seam between compute sites (R237): along a rod the nearest site in use, over at most one that is not; across
rods the site of the logical neighbour. -/
def State.farSite (s : State) (p : PortRef) : Option Nat :=
  let pos := p.site % 13
  if p.port = 1 then
    if pos + 1 < 13 ∧ s.inUse (p.site + 1) then some (p.site + 1)
    else if pos + 2 < 13 ∧ s.inUse (p.site + 2) then some (p.site + 2) else none
  else if p.port = 3 then
    if 1 ≤ pos ∧ s.inUse (p.site - 1) then some (p.site - 1)
    else if 2 ≤ pos ∧ s.inUse (p.site - 2) then some (p.site - 2) else none
  else match s.siteDie p.site with
    | none => none
    | some (x, y) =>
      let t := if p.port = 0 then (if y = 0 then none else some (s.dieSite x (y - 1))) else (if y = 11 then none else some (s.dieSite x (y + 1)))
      t.filter s.inUse

/-- The other end of a port: on the same die, or over a seam between two compute dies. -/
def State.peer (s : State) (p : PortRef) : Option PortRef :=
  if p.port = 4 then none
  else
    let site := if p.onSeam then s.farSite p else some p.site
    site.map fun t => { site := t, quad := besideQuad p.quad p.port, port := facing p.port }

/-- Register o of a port's block of 0x40 bytes (R259). -/
def portReg (p : PortRef) (o : Nat) : Nat := fabBase p.blk + 0x100 + p.port * 0x40 + o

def State.seam (s : State) (p : PortRef) : SeamEnd := tget {} s.seams p.key
def State.setSeam (s : State) (p : PortRef) (v : SeamEnd) : State := { s with seams := tset {} s.seams p.key v }

/-- The port leaves the compute grid: to a memory interface, a link die or a control die (R238, R239). -/
def State.atEdge (s : State) (p : PortRef) : Bool :=
  match s.blkCluster p.blk with
  | none => false
  | some c => (p.port = 0 && decide (c / 24 = 0)) || (p.port = 2 && decide (c / 24 = 23)) || (p.port = 3 && decide (c % 24 = 0))
    || (p.port = 1 && decide (c % 24 = 23))

/-- Both ends of a seam. -/
def State.ends (s : State) (p : PortRef) : List PortRef := p :: (s.peer p).toList

/-- The seam at port p runs at half width (R256). -/
def State.halfSeam (s : State) (p : PortRef) : Bool := s.sparing.halfSeams.any fun q => (s.ends q).contains p

/-! ### Frames and slots (R240 to R243, R245) -/

/-- F (R240). -/
def State.frameLen (s : State) : Nat := Nat.max 1 (s.field panelBase 0 9)

/-- The frame cycle of router b now. -/
def State.frameCycle (s : State) (b : Nat) : Nat := (s.now - tget s.sparing.frame0 s.sparing.frames b) % s.frameLen

/-- The frame counters of these routers restart, in step with the panel's (R240, R255). -/
def State.restartFrames (s : State) (bs : List Nat) : State :=
  let t := s.sparing.frame0
  let start := t + (s.now - t) / s.frameLen * s.frameLen
  { s with sparing := { s.sparing with frames := bs.foldl (fun m b => tset t m b start) s.sparing.frames } }

/-- Entry of a router's slot table. -/
def State.slotEntry (s : State) (b port cycle lane : Nat) : Nat :=
  let e := (port * s.frameLen + cycle) * 8 + lane
  s.field (fabBase b + 0x10000 + e / 2 * 4) (16 * (e % 2)) 16

/-- The entry of a circuit whose units come by a port (R241). -/
def slotOf (circ port : Nat) : Nat := circ % 4096 + port * 4096

/-- Fast cycles from an output port to the next router's, for circuit units (R245). -/
def hopCycles (p : PortRef) : Nat := if !p.onSeam then 2 else if p.port % 2 = 0 then 6 else 9

/-- Output port whose slot of this cycle and lane belongs to the circuit. -/
def State.slotPort (s : State) (b port cycle lane circ : Nat) : Option Nat :=
  (List.range 5).find? fun o => decide (s.slotEntry b o cycle lane = slotOf circ port)

/-- Output port that holds any slot of the circuit on this lane: that of a unit that has left its schedule (R242, R254). -/
def State.lanePort (s : State) (b port lane circ : Nat) : Option Nat :=
  (List.range 5).find? fun o => (List.range s.frameLen).any fun k => decide (s.slotEntry b o k lane = slotOf circ port)

/-! ### Units (R252) -/

def unitValid (u : BitVec 552) : Bool := u.getLsbD 540
def unitPkt (u : BitVec 552) : Bool := u.getLsbD 541
def unitTail (u : BitVec 552) : Bool := u.getLsbD 546
def unitHead (u : BitVec 552) : Bool := u.getLsbD 545
def unitLate (u : BitVec 552) : Bool := u.getLsbD 547
def unitCirc (u : BitVec 552) : Nat := bits u.toNat 528 12
/-- Message class and network of a packet unit. -/
def unitPair (u : BitVec 552) : Nat := bits u.toNat 542 3
def unitToken (u : BitVec 552) : Token := { tag := BitVec.ofNat 16 (bits u.toNat 512 16), payload := u.setWidth 512 }
def markLate (u : BitVec 552) : BitVec 552 := u ||| BitVec.ofNat 552 (2 ^ 547)

/-- The unit that carries a circuit's token. -/
def circuitUnit (circ : Nat) (t : Token) : BitVec 552 :=
  BitVec.ofNat 552 (t.payload.toNat + t.tag.toNat * 2 ^ 512 + circ % 4096 * 2 ^ 528 + 2 ^ 540)

/-- A late unit has no lane of its own in R252; its queue keeps it beside the unit's reserved bits. -/
def withLane (u : BitVec 552) (lane : Nat) : BitVec 552 := BitVec.ofNat 552 (setBits u.toNat 548 4 lane)
def unitLane (u : BitVec 552) : Nat := bits u.toNat 548 4

/-- Places of a late queue (R254). -/
abbrev lateDepth : Nat := 64

/-- `LATE_NOW` and `LATE_PEAK` of an output, `FAB_STATUS`.`LATE` of its router. -/
def State.noteLate (s : State) (p : PortRef) : State :=
  let n := (s.seam p).late.length
  let a := portReg p 4
  let s := s.setField a 16 7 n
  let s := s.setField a 23 7 (Nat.max n (s.field a 23 7))
  let any := (List.range 5).any fun o => (s.seam { p with port := o }).late ≠ []
  s.setField (fabBase p.blk + 4) 11 1 (b2n any)

/-! ### The way of a circuit unit (R242, R244, R254) -/

/-- Where a circuit unit comes to, inside a die: it lands at a cluster's router, leaves by a seam in a frame cycle, waits in an output's late
queue, or is lost at a router. -/
inductive CircEnd where
  | lands (b : Nat) | seam (out : PortRef) (cycle : Nat) | late (out : PortRef) | lost (b : Nat)
  deriving DecidableEq, Repr

/-- The outputs that a unit passes inside its die, and where it comes to: it stands at an input port of router b in a frame cycle. A unit that
no slot of that cycle and lane belongs to is lost; one that is late, or whose output has late units or is offline, is late. -/
def State.circWay (s : State) (lane circ : Nat) (late : Bool) : Nat → Nat → Nat → Nat → List PortRef × CircEnd
  | 0, b, _, _ => ([], .lost b)
  | fuel + 1, b, port, cycle =>
    match if late then s.lanePort b port lane circ else s.slotPort b port cycle lane circ with
    | none => ([], .lost b)
    | some o =>
      let out := blkPort b o
      let x := s.seam out
      if late || x.late ≠ [] || x.offline then ([], .late out)
      else if o = 4 then ([out], .lands b)
      else if out.onSeam then ([], if cycle + 1 = s.frameLen then .lost b else .seam out cycle)
      else
        let r := s.circWay lane circ late fuel (b / 4 * 4 + besideQuad (b % 4) o) (facing o) ((cycle + 2) % s.frameLen)
        (out :: r.1, r.2)

/-- The place of the next slot of a frame cycle and lane at a seam that no unit has taken, behind the circuit's own units. -/
def SeamEnd.slotPlace (x : SeamEnd) (frame cycle lane circ : Nat) : Nat :=
  let base := x.next / frame * frame + cycle
  let own := ((x.out.filter fun e => decide (unitCirc e.2.2 = circ)).map (·.1)).foldl Nat.max 0
  let free := fun (n : Nat) => decide (x.next ≤ n) && decide (own < n ∨ own = 0)
    && !x.out.any fun e => decide (e.1 = n) && decide (e.2.1 = lane)
  (((List.range (x.out.length * 2 + 3)).map fun k => base + k * frame).find? free).getD (base + (x.out.length * 2 + 3) * frame)

/-- The lanes and cycles of the circuit's slots at its first router, the next in time first (R242). -/
def State.firstSlots (s : State) (b circ : Nat) : List (Nat × Nat) :=
  let now := s.frameCycle b
  (List.range s.frameLen).flatMap fun k =>
    let cycle := (now + 1 + k) % s.frameLen
    (List.range 8).filterMap fun l => if (s.slotPort b 4 cycle l circ).isSome then some (cycle, l) else none

/-- The slot that the circuit's next token takes at its first router: the next one whose way on is free (R242, R244). -/
def State.nextSlot (s : State) (b circ : Nat) : Option (Nat × Nat) :=
  let wait := fun (e : Nat × Nat) => match (s.circWay e.2 circ false 4 b 4 e.1).2 with
    | .seam out cycle => (s.seam out).slotPlace s.frameLen cycle e.2 circ - (s.seam out).next
    | _ => 0
  (s.firstSlots b circ).foldl (fun best e => match best with
    | none => some e
    | some f => if wait e < wait f then some e else best) none

/-- A token of the circuit may enter the fabric at router b: it has a slot, and no full late queue is in its way (R254). -/
def State.mayEnter (s : State) (b circ : Nat) : Bool :=
  match s.nextSlot b circ with
  | none => false
  | some (cycle, l) => match (s.circWay l circ false 4 b 4 cycle).2 with
    | .late out => decide ((s.seam out).late.length < lateDepth)
    | _ => true

/-- A unit takes its slot at a seam. -/
def State.takeSlot (s : State) (out : PortRef) (cycle lane : Nat) (u : BitVec 552) : State :=
  let x := s.seam out
  s.setSeam out { x with out := x.out ++ [(x.slotPlace s.frameLen cycle lane (unitCirc u), lane, u)] }

/-- A unit joins an output's late queue (R254). -/
def State.joinLate (s : State) (out : PortRef) (lane : Nat) (u : BitVec 552) : State :=
  let x := s.seam out
  (s.setSeam out { x with late := x.late ++ [withLane (markLate u) lane] }).noteLate out

/-- The valid circuit units of words that a receiver has not passed on: a failed one that its sender keeps, and those behind it. -/
def wordCircs (w : Bytes) : List Nat :=
  (List.range 8).filterMap fun l =>
    let u := BitVec.ofNat 552 (fld w (69 * l) 69)
    if unitValid u && !unitPkt u then some (unitCirc u) else none

/-- Words of the sender at port o that its receiver has not passed on (R253). -/
def State.unpassed (s : State) (o : PortRef) : List Bytes :=
  match s.peer o with
  | none => []
  | some p =>
    let x := s.seam o
    if x.seq = (s.seam p).expect then []
    else x.sent.dropWhile fun w => decide (BitVec.ofNat 3 (fld w 552 1) ≠ (s.seam p).expect)

/-- Tokens of a circuit of partition p that are in its routers or on its seams. -/
def State.airborne (s : State) (p circ : Nat) : Nat :=
  ((s.seams.filter fun e => match s.blkCluster (e.1 / 5) with | none => false | some c => decide (s.partOf c = some p)).map fun e =>
    (e.2.out.filter fun u => decide (unitCirc u.2.2 = circ)).length + (e.2.late.filter fun u => decide (unitCirc u = circ)).length
      + (((s.unpassed (portOfKey e.1)).flatMap wordCircs).filter fun k => decide (k = circ)).length).foldl (· + ·) 0

/-! ### New slot tables (R258) -/

/-- Circuit units wait in router b. -/
def State.holdsUnits (s : State) (b : Nat) : Bool :=
  (List.range 5).any fun o => decide ((s.seam (blkPort b o)).out ≠ []) || decide ((s.seam (blkPort b o)).late ≠ [])

/-- Write the slot table of router b. -/
def State.putSlots (s : State) (b : Nat) (ws : List Word) : State :=
  (List.range ws.length).foldl (fun s j => s.setReg (fabBase b + 0x10000 + 4 * j) (ws.getD j 0)) s

/-- Router b takes a new slot table: once it holds no circuit unit (R258). -/
def State.newSlots (s : State) (b : Nat) (ws : List Word) : State :=
  if s.holdsUnits b then { s with sparing := { s.sparing with slotsDue := tput (tdel s.sparing.slotsDue b) b ws } }
  else ({ s with sparing := { s.sparing with slotsDue := tdel s.sparing.slotsDue b } }).putSlots b ws

/-- Routers whose last circuit unit has gone switch to their new tables (R258). -/
def State.settleSlots (s : State) : State :=
  (s.sparing.slotsDue.filter fun e => !s.holdsUnits e.1).foldl (fun s e => s.newSlots e.1 e.2) s

/-! ### The rim (R21, R292, R309, R408) -/

/-- Link die k is lost (R309). -/
def State.linkLost (s : State) (k : Nat) : Bool := s.sparing.lostDies.contains (180 + k)

/-- The link die that serves exit entry 24 + k: itself, or the next working one on its edge (R309). -/
def State.linkServing (s : State) (k : Nat) : Option Nat :=
  ((List.range 3).map fun i => k / 3 * 3 + (k % 3 + i) % 3).find? fun d => !s.linkLost d

/-- The dies of the ring in their order: link dies 0 to 5, CT-A as 6 and CT-B as 7 (R21). Segment i joins the dies at places i and i + 1. -/
def rimRing : List Nat := [6, 0, 1, 2, 7, 5, 4, 3]

def rimPlace (die : Nat) : Nat := (rimRing.findIdx? (· = die)).getD 0

/-- The segments and the dies between, going n places round the ring in its order from place i, or against it. -/
def rimRun (i n : Nat) (up : Bool) : List Nat × List Nat :=
  ((List.range n).map fun k => if up then (i + k) % 8 else (i + 7 - k) % 8,
   (List.range (n - 1)).map fun k => rimRing.getD (if up then (i + 1 + k) % 8 else (i + 7 - k) % 8) 6)

/-- The way round the rim from one die to another: the shorter, the ring order on a tie, the longer where a segment or a link die of the
shorter has failed (R292, R408); none when both have. The answer lists the segments. -/
def State.rimWay (s : State) (src dst : Nat) : Option (List Nat) :=
  let i := rimPlace src
  let n := (rimPlace dst + 8 - i) % 8
  let ok := fun (r : List Nat × List Nat) => !(r.1.any fun g => s.sparing.rimGaps.contains g) && !(r.2.any fun d => decide (d < 6) && s.linkLost d)
  let ways := if n ≤ 4 then [rimRun i n true, rimRun i (8 - n) false] else [rimRun i (8 - n) false, rimRun i n true]
  (ways.find? ok).map (·.1)

end Sys2Proof.Machine
end

