-- ==== Sys2Proof/Machine/Random.lean ====
section
/-! DEFINITION. The random streams of a petal (R101): seeding, the generator, and draws. -/

namespace Sys2Proof.Machine

/-- `mix` of R101. -/
def rngMix (z : Dword) : Dword :=
  let z := (z ^^^ (z >>> 30)) * 0xBF58476D1CE4E5B9#64
  let z := (z ^^^ (z >>> 27)) * 0x94D049BB133111EB#64
  z ^^^ (z >>> 31)

/-- `seed` of R101 for unit u of a hart. -/
def rngSeed (s32 : Word) (hart u : Nat) (step : Dword) : Stream :=
  let z := (s32.setWidth 64 <<< 32) + step
  let s0 := rngMix (z + BitVec.ofNat 64 (hart * 8 + u + 1) * 0x9E3779B97F4A7C15#64)
  let s1 := rngMix (s0 + 0x9E3779B97F4A7C15#64)
  { s0 := s0, s1 := if s0 = 0 ∧ s1 = 0 then 1 else s1 }

/-- `next` of R101: the 32 bits drawn and the stream after. -/
def rngNext (r : Stream) : Word × Stream :=
  let t := r.s0
  let w := r.s1
  let t := t ^^^ (t <<< 23)
  let s1 := t ^^^ w ^^^ (t >>> 17) ^^^ (w >>> 26)
  (((s1 + w) >>> 32).setWidth 32, { s0 := w, s1 := s1 })

/-- The six streams seeded with one seed. -/
def seedAll (s32 : Word) (hart : Nat) (step : Dword) : Tbl Stream :=
  (List.range 6).map fun u => (u, rngSeed s32 hart u step)

/-- The six streams under ENTROPY: hardware entropy, a draw per stream. -/
def seedEntropy (n : Nat) : Tbl Stream :=
  (List.range 6).map fun u => (u, { s0 := Config.entropy (n + 2 * u), s1 := Config.entropy (n + 2 * u + 1) })

def Petal.stream (p : Petal) (u : Nat) : Stream := tget { s0 := 0, s1 := 0 } p.streams u

def Petal.setStream (p : Petal) (u : Nat) (r : Stream) : Petal :=
  { p with streams := tset { s0 := 0, s1 := 0 } p.streams u r }

/-- One draw of unit u of the running petal. -/
def Core.drawUnit (c : Core) (u : Nat) : Word × Core :=
  let r := rngNext (c.pet.stream u)
  (r.1, c.setPet (c.pet.setStream u r.2))

/-- The step count that seeds use: that of the partition that holds the hart (R101). -/
def State.stepCountOf (s : State) (h : Nat) : Dword :=
  match s.partOf (h / 32) with
  | none => 0
  | some p => match s.part p with | none => 0 | some q => q.stepCount

/-- A write to `RNG_SEED` (R42, R101). -/
def State.reseed (s : State) (h : Nat) (v : Word) : State :=
  let c := s.core h
  s.setCore h (c.setPet { c.pet with streams := seedAll v h (s.stepCountOf h) })

/-- Seed one petal at step release under its own policy (R101). -/
def State.seedPetal (s : State) (h : Nat) (p : Petal) : Petal × State :=
  if p.seedPolicy = 1 then ({ p with streams := seedAll p.seed h (s.stepCountOf h) }, s)
  else ({ p with streams := seedEntropy s.free }, { s with free := s.free + 12 })

end Sys2Proof.Machine
end

