-- ==== Sys2Proof/Machine/Operands.lean ====
section
/-! DEFINITION. The operand forms of the dataflow: token tags (R118, R119), binding words (R123), input
queues with their loop counters (R127 to R129), output queues and credit (R123, R124, R133). -/

namespace Sys2Proof

/-! ### Tokens -/

def Token.kind (t : Token) : Nat := Machine.bits t.tag.toNat 3 3
def Token.lanes (t : Token) : Nat := Machine.bits t.tag.toNat 6 6
def Token.epoch (t : Token) : BitVec 3 := t.tag.setWidth 3
def Token.restamp (t : Token) (e : BitVec 3) : Token :=
  { t with tag := BitVec.ofNat 16 (Machine.setBits t.tag.toNat 0 3 e.toNat) }
def Token.isMarker (t : Token) : Bool := decide (1 ≤ t.kind) && decide (t.kind ≤ 3)

/-- Loop level an end marker closes: END_STREAM with `LANES` 0 or 1 is read as level 2 (R119). -/
def Token.level (t : Token) : Nat :=
  if t.kind = 1 then 0 else if t.kind = 2 then 1 else if t.lanes % 4 = 3 then 3 else 2

end Sys2Proof

namespace Sys2Proof.Machine

def mkTag (kind lanes : Nat) (e : BitVec 3) : BitVec 16 := BitVec.ofNat 16 (e.toNat + kind * 8 + lanes * 64)

abbrev kData : Nat := 0
abbrev kEndRow : Nat := 1
abbrev kEndTile : Nat := 2
abbrev kEndStream : Nat := 3
abbrev kSteer : Nat := 4
abbrev kBarrier : Nat := 5
abbrev kEpochMark : Nat := 6

/-- e is behind x: (x − e) mod 8 is 1 to 3 (R150). -/
def behind (e x : BitVec 3) : Bool := decide (1 ≤ (x - e).toNat) && decide ((x - e).toNat ≤ 3)
/-- e is ahead of x: (e − x) mod 8 is 1 to 4 (R150). -/
def aheadOf (e x : BitVec 3) : Bool := decide (1 ≤ (e - x).toNat) && decide ((e - x).toNat ≤ 4)

/-! ### Binding words (R123) -/

def bindKind (w : Word) : Nat := bits w.toNat 0 3
/-- `DEST` of an output binding word. -/
def bindCore (w : Word) : Nat := bits w.toNat 3 5
def bindQueue (w : Word) : Nat := bits w.toNat 8 3
def bindCircuit (w : Word) : Nat := bits w.toNat 3 12
def bindInput (w : Word) : Nat := bits w.toNat 3 2
def bindUnit (w : Word) : Nat := bits w.toNat 5 2
def bindEid (w : Word) : BitVec 24 := BitVec.ofNat 24 (bits w.toNat 3 24)

def Petal.outWord (p : Petal) (q : Nat) : Word := tget 0 p.outBind q
def Petal.inWord (p : Petal) (q : Nat) : Word := tget 0 p.inBind q

/-- The inbound record of a partition that names a circuit. -/
def Part.circuit (q : Part) (n : Nat) : Option Inbound :=
  q.records.find? fun r => r.circuit && decide (r.id.toNat = n)

/-- Output queue qo of hart h is bound (R123). -/
def State.bound (s : State) (h qo : Nat) : Bool :=
  let w := (s.core h).pet.outWord qo
  match bindKind w with
  | 0 => false
  | 2 => match s.partOf (h / 32) with
    | none => false
    | some p => match s.part p with | none => false | some q => (q.circuit (bindCircuit w)).isSome
  | 1 => true
  | 3 => true
  | 4 => true
  | _ => false

/-- EID of logical cluster c (R282). -/
def State.cluEid (s : State) (c : Nat) : BitVec 24 := BitVec.ofNat 24 ((s.mgt 0x14).toNat % 0x1000000 + c)

/-- Harts of a cluster. -/
def hartsOf (c : Nat) : List Nat := (List.range 32).map (c * 32 + ·)

def isMoverEid (eid : BitVec 24) : Bool := decide (0xFFFFE0 ≤ eid.toNat) && decide (eid.toNat < 0xFFFFF0)

/-- An output binding word leads to the packets of the router's send buffer (R126). -/
def bindPacks (w : Word) : Bool := decide (bindKind w = 4) && !isMoverEid (bindEid w)

/-- Tokens that a core's output queues hold for the packet service, packed or not (R126). -/
def Core.toPack (c : Core) : Nat :=
  (c.outq.map fun e => if bindPacks (c.pet.outWord e.1) then e.2.tokens.length + e.2.pack.length else 0).foldl (· + ·) 0

/-- Tokens that draw on the 64 places of the router's packet send buffer: those that output queues hold for it, those not
sent and those not acknowledged (R126, R278). -/
def State.sendTokens (s : State) (c : Nat) : Nat :=
  let n := fun (ps : List Packet) => (ps.map fun p => if p.opcode = 0x10 then bits p.addr.toNat 0 6 + 1 else 0).foldl (· + ·) 0
  ((hartsOf c).map fun h => (s.core h).toPack).foldl (· + ·) 0 + n (s.clu c).sendBuf + ((s.sends.filter fun f => decide (f.key.src = s.cluEid c)).map fun f => n (f.unack.map (·.pkt))).foldl (· + ·) 0

/-- The receiving queue depth Q_r (R133). -/
abbrev queueDepth : Nat := 16

/-- C of a loop to a queue endpoint (R281): 80 + B, with the B of the endpoint's record, which another panel alone knows
for its own (log entry 106); 4 to a bulk-mover channel (R188). -/
def State.endpointCredit (s : State) (eid : BitVec 24) : Nat :=
  if isMoverEid eid then 4
  else match (s.parts.flatMap fun e => match e.2 with | none => [] | some q => q.records).find? (fun r => !r.circuit && r.id = eid) with
    | none => 80 + Nat.min (Config.remoteB eid) 65536
    | some r => 80 + r.b

/-- C of the loop of output queue qo (R133); a packet-service binding draws from its endpoint's credit (R281). -/
def State.loopCredit (s : State) (h qo : Nat) : Nat :=
  let w := (s.core h).pet.outWord qo
  match bindKind w with
  | 2 => match s.partOf (h / 32) with
    | none => 0
    | some p => match s.part p with
      | none => 0
      | some q => match q.circuit (bindCircuit w) with | none => 0 | some r => queueDepth + r.b + r.d
  | 4 => s.endpointCredit (bindEid w)
  | 0 => 0
  | _ => queueDepth

/-- Output queue qo can take one more token: its loop has a credit, and one of its 16 places is free
(DEDUCED, log entry 10). -/
def State.hasCredit (s : State) (h qo : Nat) : Bool :=
  let o := (s.core h).outQ qo
  s.bound h qo && decide (o.out < s.loopCredit h qo) && decide (o.tokens.length < queueDepth)
    && (!bindPacks ((s.core h).pet.outWord qo) || decide (s.sendTokens (h / 32) < 64))

/-- A token is pushed, popped, forwarded, routed or admitted in cluster c (R141). -/
def State.stir (s : State) (c : Nat) : State := if s.movedIn.contains c then s else { s with movedIn := c :: s.movedIn }

/-- Enqueue a token on qo: it takes a credit. -/
def State.enqueue (s : State) (h qo : Nat) (t : Token) : State :=
  let c := s.core h
  let o := c.outQ qo
  (s.stir (h / 32)).setCore h (c.setOutQ qo { o with tokens := o.tokens ++ [t], out := o.out + 1, total := o.total + 1 })

/-! ### Loop counters (R127) -/

/-- `MODE` of level n of queue qi: bits [25:24] of the record's loop word. -/
def Petal.mode (p : Petal) (qi n : Nat) : Nat := bits (tget 0 p.loop (4 * qi + n)).toNat 24 2
def Petal.limit (p : Petal) (qi n : Nat) : Nat := (tget 0 p.limits (4 * qi + n)).toNat
def Petal.cnt (p : Petal) (qi n : Nat) : Nat := (tget 0 p.counts (4 * qi + n)).toNat
def Petal.setCnt (p : Petal) (qi n v : Nat) : Petal :=
  { p with counts := tset 0 p.counts (4 * qi + n) (BitVec.ofNat 24 v) }
def Petal.setLimit (p : Petal) (qi n v : Nat) : Petal :=
  { p with limits := tset 0 p.limits (4 * qi + n) (BitVec.ofNat 24 v) }

/-- Completion of level n − 1 counts at level n; `fuel` levels remain. A level completes in turn when this brings its count to
its limit (R127): in EMIT mode its count resets, in CHECK and STRIP mode it waits for its marker. The answer is the highest EMIT
level completed, which presents its marker (log entry 107). -/
def Petal.cascade (p : Petal) (qi : Nat) : Nat → Nat → Option Nat → Petal × Option Nat
  | 0, _, top => (p, top)
  | fuel + 1, n, top =>
    if n ≥ 4 ∨ p.mode qi n = 0 then (p, top)
    else
      let p := p.setCnt qi n (p.cnt qi n + 1)
      if p.limit qi n = 0 ∨ p.cnt qi n < p.limit qi n then (p, top)
      else if p.mode qi n = 1 then (p.setCnt qi n 0).cascade qi fuel (n + 1) (some n)
      else if p.cnt qi n = p.limit qi n then p.cascade qi fuel (n + 1) top
      else (p, top)

/-- A marker of level n is checked (R127, R128): a mismatch when the count differs from a nonzero limit; the count resets. -/
def Petal.checkMarker (p : Petal) (qi n : Nat) : Petal × Nat :=
  (p.setCnt qi n 0, b2n (decide (p.limit qi n ≠ 0) && decide (p.cnt qi n ≠ p.limit qi n)))

/-- The marker of a level is due: in CHECK or STRIP mode, its count stands at a nonzero limit. -/
def Petal.markerDue (p : Petal) (qi n : Nat) : Bool :=
  decide (2 ≤ p.mode qi n) && decide (p.limit qi n ≠ 0) && decide (p.cnt qi n = p.limit qi n)

/-- Levels whose marker is missing when a DATA token is popped (R128): it is due, and this is the first such pop, so every lower
level stands at 0 or misses its own marker too. -/
def Petal.missing (p : Petal) (qi : Nat) : Nat :=
  ((List.range 4).filter fun n =>
    p.markerDue qi n && (List.range n).all fun m => decide (p.cnt qi m = 0) || p.markerDue qi m).length

/-- A DATA token is popped: level 0 counts; the petal after, the marker to present, and mismatches. -/
def Petal.dataPop (p : Petal) (qi : Nat) : Petal × Option Nat × Nat :=
  let bad := p.missing qi
  let r := p.cascade qi 4 0 none
  (r.1, r.2, bad)

/-- Strip markers whose tokens ahead have all been popped are checked, in order. -/
def settle (qi : Nat) : List Strip → Petal → Nat → List Strip × Petal × Nat
  | [], p, bad => ([], p, bad)
  | x :: xs, p, bad =>
    if x.ahead = 0 then
      let r := p.checkMarker qi x.level
      settle qi xs r.1 (bad + r.2)
    else (x :: xs, p, bad)

/-- The virtual marker of level n under epoch e (R127). -/
def virtMarker (n : Nat) (e : BitVec 3) : Token :=
  { tag := if n = 0 then mkTag 1 0 e else if n = 1 then mkTag 2 1 e else mkTag 3 n e, payload := 0 }

/-- Head of an input queue: the virtual marker, else the oldest token. -/
def InQueue.head (q : InQueue) : Option Token :=
  match q.virt with
  | some t => some t
  | none => q.tokens.head?

/-- Note that the consumer of record input (h, qi) popped an END_STREAM (R144), and count pops (R281). -/
def notePop (h qi : Nat) (t : Token) (rs : List Inbound) : List Inbound :=
  rs.map fun r =>
    if r.consHart = h ∧ r.consQ = qi then
      { r with pops := r.pops + 1, popped := r.popped || (t.kind == kEndStream && r.admitted) }
    else r

/-- CREDIT of an endpoint is due: 16 pops since the last (R281). -/
def Inbound.creditDue (r : Inbound) : Bool := !r.circuit && decide (r.producer ≠ 0) && decide (16 ≤ (r.pops - r.credited).toNat)

/-- The endpoint that feeds input queue qi of hart h sends the CREDIT that its pops make due, through its cluster's router (R281). -/
def State.creditOut (s : State) (p h qi : Nat) : State :=
  let mine := fun (r : Inbound) => decide (r.consHart = h) && decide (r.consQ = qi) && r.creditDue
  match s.part p with
  | none => s
  | some q => match q.records.find? mine with
    | none => s
    | some r =>
      let cl := s.clu (h / 32)
      let s := s.setClu (h / 32) { cl with sendBuf := cl.sendBuf ++ [mkPacket 2 0x23 r.producer r.id r.pops.toNat false []] }
      s.modPart p fun q => { q with records := q.records.map fun x => if mine x then { x with credited := x.pops } else x }

/-- Remove the head of input queue qi of hart h. A virtual marker occupies no entry and returns no
credit; a real token's credit goes back on its way, DATA advances the loop counters, and a marker of a
CHECK level is checked (R127). Mismatches count in `CLU_LOOP_MISMATCH` (R128). -/
def State.popHead (s : State) (h qi : Nat) : State :=
  let c := s.core h
  let q := c.inQ qi
  match q.virt with
  | some _ => (s.stir (h / 32)).setCore h (c.setInQ qi { q with virt := none })
  | none =>
    match q.tokens with
    | [] => s
    | t :: rest =>
      let p := c.pet
      let e := s.epochOf (h / 32)
      let r : Petal × Option Nat × Nat × List Strip :=
        if t.kind = kData then
          let d := p.dataPop qi
          let strips := q.strips.map fun x => { x with ahead := x.ahead - 1 }
          let st := settle qi strips d.1 d.2.2
          (st.2.1, d.2.1, st.2.2, st.1)
        else if t.isMarker && p.mode qi t.level = 2 then
          let m := p.checkMarker qi t.level
          (m.1, none, m.2, q.strips)
        else (p, none, 0, q.strips)
      let c := (c.setPet r.1).setInQ qi
        { q with tokens := rest, virt := r.2.1.map fun n => virtMarker n e, strips := r.2.2.2 }
      let s := ((s.stir (h / 32)).setCore h c).count (s.cluReg (h / 32) 0x864) r.2.2.1
      match s.partOf (h / 32) with
      | none => s
      | some p => (s.modPart p fun q => { q with records := notePop h qi t q.records }).creditOut p h qi

/-- A token arrives at input queue qi (R127, R152): behind the region's epoch it is dropped and
counted; a marker of a STRIP level is removed and checked now or later; any other token stands last. -/
def State.arriveIn (s : State) (h qi : Nat) (t : Token) : State :=
  let c := s.core h
  let q := c.inQ qi
  if behind t.epoch (s.epochOf (h / 32)) then s.count (s.cluReg (h / 32) 0x854) 1
  else if t.isMarker && c.pet.mode qi t.level = 3 then
    let ahead := (q.tokens.filter fun u => u.kind == kData).length
    let st := settle qi (q.strips ++ [{ level := t.level, ahead := ahead }]) c.pet 0
    (s.setCore h ((c.setPet st.2.1).setInQ qi { q with strips := st.1 })).count (s.cluReg (h / 32) 0x864) st.2.2
  else (s.stir (h / 32)).setCore h (c.setInQ qi { q with tokens := q.tokens ++ [t] })

/-! ### Bouquets (R70, R71) -/

/-- Is hart h the leader of a bouquet (R70, R71)? -/
def State.leads (s : State) (h : Nat) : Bool :=
  h % 8 = 0 && bitOf (s.clu (h / 32)).bouquet.toNat (h % 32 / 8)

/-- Is hart h a member of a bouquet? -/
def State.inBouquet (s : State) (h : Nat) : Bool := bitOf (s.clu (h / 32)).bouquet.toNat (h % 32 / 8)

/-! ### Descriptors -/

/-- Byte field of a 32-byte descriptor: bits [lo + w − 1 : lo] of byte b. -/
def dfield (d : BitVec 256) (b lo w : Nat) : Nat := bits d.toNat (8 * b + lo) w

/-- The descriptor is a vector one: engine 4. Queue it reads, if any (R46). -/
def EngDesc.source (e : Nat) (x : EngDesc) : Option Nat :=
  if dfield x.d 3 3 1 = 1 then none
  else if e = 4 then some (dfield x.d 3 0 3)
  else if dfield x.d 0 4 4 = 1 then some (dfield x.d 3 0 3) else none

/-- Queue it writes, if any (R46): a MATMUL that does not hold, a FLUSH, or a vector operation. -/
def EngDesc.dest (e : Nat) (x : EngDesc) : Option Nat :=
  if dfield x.d 3 7 1 = 1 then none
  else if e = 4 then some (dfield x.d 3 4 3)
  else if dfield x.d 0 4 4 = 1 ∧ dfield x.d 2 5 1 = 0 then some (dfield x.d 3 4 3)
  else if dfield x.d 0 4 4 = 3 then some (dfield x.d 3 4 3) else none

/-- Input queue qi belongs to an engine (R46). -/
def Core.heldIn (c : Core) (qi : Nat) : Bool :=
  (List.range 5).any fun e => (c.engine e).queue.any fun x => x.source e == some qi

/-- Output queue qo belongs to an engine (R46). -/
def Core.heldOut (c : Core) (qo : Nat) : Bool :=
  (List.range 5).any fun e => (c.engine e).queue.any fun x => x.dest e == some qo

def Core.busyMask (c : Core) : Nat :=
  ((List.range 5).map fun e => if (c.engine e).queue = [] then 0 else 2 ^ e).foldl (· + ·) 0

end Sys2Proof.Machine
end

