-- ==== Sys2Proof/Machine/Flags.lean ====
section
/-! DEFINITION. The precision sentinels: the eight counters of R105 and how one operation advances
them (R106). -/

namespace Sys2Proof.Machine

/-- Increases of the eight sentinel counters, in table order (R105). -/
structure Sent where
  sat : Nat := 0
  unf : Nat := 0
  ovf : Nat := 0
  excOvf : Nat := 0
  nan : Nat := 0
  inf : Nat := 0
  bad : Nat := 0
  stall : Nat := 0
  deriving DecidableEq, Repr

def Sent.add (a b : Sent) : Sent :=
  { sat := a.sat + b.sat, unf := a.unf + b.unf, ovf := a.ovf + b.ovf, excOvf := a.excOvf + b.excOvf,
    nan := a.nan + b.nan, inf := a.inf + b.inf, bad := a.bad + b.bad, stall := a.stall + b.stall }

def Sent.sum (l : List Sent) : Sent := l.foldl Sent.add {}

/-- Advance the eight counters of the sentinel block at a (R105). -/
def State.countSent (s : State) (a : Nat) (n : Sent) : State :=
  (((((((s.count a n.sat).count (a + 4) n.unf).count (a + 8) n.ovf).count (a + 0xC) n.excOvf).count (a + 0x10) n.nan).count
    (a + 0x14) n.inf).count (a + 0x18) n.bad).count (a + 0x1C) n.stall

/-- Advance the sentinel counters of engine e of the core that hart h runs on (R105). -/
def State.sentinels (s : State) (h e : Nat) (n : Sent) : State := s.countSent (s.coreReg h (0x200 + e * 0x20)) n

end Sys2Proof.Machine
end

