-- ==== Sys2Proof/Machine/Float.lean ====
section
/-! DEFINITION. Exact arithmetic on the panel's numbers: finite values are m × 2^e with an integer m, so
that products and sums are exact and rounding happens once, where R97 and R99 put it. -/

namespace Sys2Proof.Machine

/-- A number: NaN, an infinity, or sign, magnitude and exponent (zero keeps its sign). -/
inductive Fp where
  | nan
  | inf (neg : Bool)
  | fin (neg : Bool) (m : Nat) (e : Int)
  deriving DecidableEq, Repr

def Fp.isNan : Fp → Bool
  | .nan => true
  | _ => false

def Fp.isInf : Fp → Bool
  | .inf _ => true
  | _ => false

def Fp.neg? : Fp → Bool
  | .nan => false
  | .inf n => n
  | .fin n _ _ => n

def Fp.isZero : Fp → Bool
  | .fin _ m _ => m == 0
  | _ => false

def Fp.zero : Fp := .fin false 0 0
def Fp.ofNat (n : Nat) : Fp := .fin false n 0
def Fp.flip : Fp → Fp
  | .nan => .nan
  | .inf n => .inf (!n)
  | .fin n m e => .fin (!n) m e
def Fp.abs : Fp → Fp
  | .nan => .nan
  | .inf _ => .inf false
  | .fin _ m e => .fin false m e

/-- An exact dyadic z × 2^e. -/
structure Dy where
  z : Int
  e : Int
  deriving DecidableEq, Repr

def sgn (neg : Bool) (m : Nat) : Int := if neg then -(m : Int) else m

def Dy.add (a b : Dy) : Dy :=
  let e := min a.e b.e
  { z := a.z * (2 ^ (a.e - e).toNat : Nat) + b.z * (2 ^ (b.e - e).toNat : Nat), e := e }

def Dy.le (a b : Dy) : Bool :=
  let e := min a.e b.e
  decide (a.z * (2 ^ (a.e - e).toNat : Nat) ≤ b.z * (2 ^ (b.e - e).toNat : Nat))

/-- Exact product (0 × Inf is NaN). -/
def Fp.mul : Fp → Fp → Fp
  | .nan, _ => .nan
  | _, .nan => .nan
  | .inf a, .inf b => .inf (a != b)
  | .inf a, .fin b m _ => if m = 0 then .nan else .inf (a != b)
  | .fin b m _, .inf a => if m = 0 then .nan else .inf (a != b)
  | .fin a m e, .fin b n f => .fin (a != b) (m * n) (e + f)

/-- Exact sum: two zeros keep −0 only when both are −0; any other zero sum is +0 (R97). -/
def Fp.add : Fp → Fp → Fp
  | .nan, _ => .nan
  | _, .nan => .nan
  | .inf a, .inf b => if a = b then .inf a else .nan
  | .inf a, .fin _ _ _ => .inf a
  | .fin _ _ _, .inf a => .inf a
  | .fin a m e, .fin b n f =>
    if m = 0 ∧ n = 0 then .fin (a && b) 0 0
    else
      let d := Dy.add { z := sgn a m, e := e } { z := sgn b n, e := f }
      .fin (decide (d.z < 0)) d.z.natAbs d.e

def Fp.sub (a b : Fp) : Fp := a.add b.flip

/-- a < b; false when either is NaN. -/
def Fp.lt : Fp → Fp → Bool
  | .nan, _ => false
  | _, .nan => false
  | .inf a, .inf b => a && !b
  | .inf a, .fin _ _ _ => a
  | .fin _ _ _, .inf b => !b
  | .fin a m e, .fin b n f => !Dy.le { z := sgn b n, e := f } { z := sgn a m, e := e }

/-- Value equality of numbers that are no NaN. -/
def Fp.eqv (a b : Fp) : Bool := !a.isNan && !b.isNan && !a.lt b && !b.lt a

/-- Bit length. -/
def blen (m : Nat) : Nat := if m = 0 then 0 else Nat.log2 m + 1

/-- Round m × 2^e to a multiple of 2^q, to nearest even. -/
def rneAt (m : Nat) (e q : Int) : Nat :=
  if q ≤ e then m * 2 ^ (e - q).toNat
  else
    let sh := (q - e).toNat
    let lo := m / 2 ^ sh
    let r := m % 2 ^ sh
    if 2 ^ sh < 2 * r ∨ (2 * r = 2 ^ sh ∧ lo % 2 = 1) then lo + 1 else lo

/-- Exponent of the unit in the last place of m × 2^e in a type of mb mantissa bits whose smallest
subnormal is 2^emin. -/
def ulpExp (m : Nat) (e : Int) (mb : Nat) (emin : Int) : Int := max (e + blen m - (mb + 1)) emin

/-- A binary floating type: mantissa bits, bias, largest finite magnitude as m × 2^e. -/
structure FpType where
  mb   : Nat
  bias : Nat
  maxM : Nat
  maxE : Int

def FpType.emin (t : FpType) : Int := 1 - (t.bias : Int) - t.mb

def fp32 : FpType := { mb := 23, bias := 127, maxM := 0xFFFFFF, maxE := 104 }
def bf16 : FpType := { mb := 7, bias := 127, maxM := 0xFF, maxE := 120 }
def e4m3 : FpType := { mb := 3, bias := 7, maxM := 7, maxE := 6 }
def e5m2 : FpType := { mb := 2, bias := 15, maxM := 7, maxE := 13 }
def e2m3 : FpType := { mb := 3, bias := 1, maxM := 15, maxE := -1 }
def e3m2 : FpType := { mb := 2, bias := 3, maxM := 7, maxE := 2 }
def e2m1 : FpType := { mb := 1, bias := 1, maxM := 3, maxE := 1 }

/-- Exponent-and-mantissa bits (no sign) of a magnitude m × 2^q that the type represents. -/
def FpType.code (t : FpType) (m : Nat) (q : Int) : Nat :=
  if m = 0 then 0
  else
    let top : Int := q + blen m - 1
    if top < 1 - (t.bias : Int) then (m * 2 ^ (q - t.emin).toNat)
    else
      let frac := if blen m ≤ t.mb + 1 then m * 2 ^ (t.mb + 1 - blen m) else m / 2 ^ (blen m - (t.mb + 1))
      (top + t.bias).toNat * 2 ^ t.mb + (frac - 2 ^ t.mb)

/-- Value of exponent-and-mantissa bits, specials apart (R86). -/
def FpType.value (t : FpType) (neg : Bool) (c : Nat) : Fp :=
  let e := c / 2 ^ t.mb
  let m := c % 2 ^ t.mb
  if e = 0 then .fin neg m t.emin else .fin neg (2 ^ t.mb + m) (t.emin + e - 1)

/-- Is m × 2^q beyond the largest finite magnitude? -/
def FpType.beyond (t : FpType) (m : Nat) (q : Int) : Bool :=
  !Dy.le { z := m, e := q } { z := t.maxM, e := t.maxE }

/-! ### FP32 words -/

/-- A NaN word of the panel. -/
def nan32 : Word := Config.nanBits ||| 0x7F800001#32

def fpOfWord (w : Word) : Fp :=
  let neg := bitOf w.toNat 31
  let c := w.toNat % 0x80000000
  if c / 0x800000 = 0xFF then (if c % 0x800000 = 0 then .inf neg else .nan) else fp32.value neg c

/-- Round once to FP32, to nearest even; beyond the range ±Inf (R97). -/
def wordOfFp : Fp → Word
  | .nan => nan32
  | .inf n => if n then 0xFF800000#32 else 0x7F800000#32
  | .fin n m e =>
    let q := ulpExp m e 23 fp32.emin
    let r := rneAt m e q
    let s := if n then 0x80000000 else 0
    if fp32.beyond r q then BitVec.ofNat 32 (s + 0x7F800000) else BitVec.ofNat 32 (s + fp32.code r q)

/-- The value an FP32 rounding leaves. -/
def round32 (x : Fp) : Fp :=
  match x with
  | .fin n m e =>
    let q := ulpExp m e 23 fp32.emin
    let r := rneAt m e q
    if fp32.beyond r q then .inf n else .fin n r q
  | y => y

/-! ### Narrow types (R86, R87) -/

def fpOfBf16 (c : Nat) : Fp := fpOfWord (BitVec.ofNat 32 (c % 0x10000 * 0x10000))

def fpOfE4m3 (c : Nat) : Fp :=
  if c % 128 = 0x7F then .nan else e4m3.value (bitOf c 7) (c % 128)

def fpOfE5m2 (c : Nat) : Fp :=
  if c % 128 = 0x7C then .inf (bitOf c 7) else if 0x7C < c % 128 then .nan else e5m2.value (bitOf c 7) (c % 128)

def fpOfInt (w c : Nat) : Fp :=
  let z := sext w c
  .fin (decide (z < 0)) z.natAbs 0

/-! ### Narrowing (R99, R100) -/

/-- How a narrowing rounds: to nearest even, or with 16 random bits (R100). -/
inductive Rnd where
  | rne
  | stoch (r : Nat)

/-- Round a magnitude to a multiple of 2^q as asked. -/
def roundAt (mode : Rnd) (m : Nat) (e q : Int) : Nat :=
  match mode with
  | .rne => rneAt m e q
  | .stoch r =>
    if q ≤ e then m * 2 ^ (e - q).toNat
    else
      let sh := (q - e).toNat
      let lo := m / 2 ^ sh
      let f := m % 2 ^ sh * 65536 / 2 ^ sh
      if 65536 ≤ f + r then lo + 1 else lo

/-- Does narrowing x to a type with these last-place exponents need a random draw? An exactly
representable value is returned unchanged and draws nothing (DEDUCED, log entry 12). -/
def inexactAt (x : Fp) (q : Int) : Bool :=
  match x with
  | .fin _ m e => decide (e < q) && decide (m % 2 ^ (q - e).toNat ≠ 0)
  | _ => false

/-- A narrowed element: its bits and whether it saturated, was Inf, was NaN. -/
structure Narrowed where
  code : Nat
  sat  : Bool := false
  inf  : Bool := false
  nan  : Bool := false

/-- Bytes of an output element type (R57). -/
def otypeBytes (o : Nat) : Nat := if o = 0 ∨ o = 5 then 4 else if o = 1 then 2 else 1

/-- Last-place exponent of x in output type o. -/
def otypeUlp (o m : Nat) (e : Int) : Int :=
  match o with
  | 1 => ulpExp m e 7 bf16.emin
  | 2 => ulpExp m e 3 e4m3.emin
  | 3 => ulpExp m e 2 e5m2.emin
  | _ => 0

def needsDraw (o : Nat) (x : Fp) : Bool :=
  match x with
  | .fin _ m e => decide (o ≠ 0) && inexactAt x (otypeUlp o m e)
  | _ => false

def narrowFloat (t : FpType) (width : Nat) (mode : Rnd) (n : Bool) (m : Nat) (e : Int) : Narrowed :=
  let q := ulpExp m e t.mb t.emin
  let r := roundAt mode m e q
  let s := if n then 2 ^ (width - 1) else 0
  if t.beyond r q then { code := s + t.code t.maxM t.maxE, sat := true } else { code := s + t.code r q }

def narrowInt (w : Nat) (mode : Rnd) (n : Bool) (m : Nat) (e : Int) : Narrowed :=
  let r := roundAt mode m e 0
  let hi := if n then 2 ^ (w - 1) else 2 ^ (w - 1) - 1
  let v := Nat.min r hi
  { code := if n ∧ v ≠ 0 then 2 ^ w - v else v, sat := decide (hi < r) }

/-- Narrow an FP32 value to output type o (R99): 0 FP32, 1 BF16, 2 E4M3, 3 E5M2, 4 INT8, 5 INT32. -/
def narrow (o : Nat) (mode : Rnd) (w : Word) : Narrowed :=
  match fpOfWord w with
  | .nan =>
    match o with
    | 0 => { code := w.toNat }
    | 1 => { code := 0x7FC0, nan := true }
    | 2 => { code := 0x7F, nan := true }
    | 3 => { code := 0x7E, nan := true }
    | _ => { code := 0, nan := true }
  | .inf n =>
    match o with
    | 0 => { code := w.toNat }
    | 1 => { code := if n then 0xFF80 else 0x7F80, inf := true }
    | 2 => { code := 0x7F, inf := true }
    | 3 => { code := if n then 0xFC else 0x7C, inf := true }
    | 4 => { code := if n then 0x80 else 0x7F, inf := true }
    | _ => { code := if n then 0x80000000 else 0x7FFFFFFF, inf := true }
  | .fin n m e =>
    match o with
    | 0 => { code := w.toNat }
    | 1 => narrowFloat bf16 16 mode n m e
    | 2 => narrowFloat e4m3 8 mode n m e
    | 3 => narrowFloat e5m2 8 mode n m e
    | 4 => narrowInt 8 mode n m e
    | _ => narrowInt 32 mode n m e

/-- BF16 of a value, to nearest even, an overflow going to Inf as R97's FP32 rounding does. -/
def bf16Rne (x : Fp) : Nat :=
  match x with
  | .nan => 0x7FC0
  | .inf n => if n then 0xFF80 else 0x7F80
  | .fin n m e =>
    let q := ulpExp m e 7 bf16.emin
    let r := rneAt m e q
    (if n then 0x8000 else 0) + (if bf16.beyond r q then 0x7F80 else bf16.code r q)

/-- Value of an element of an input or output element type (R57). -/
def fpOfElem (o c : Nat) : Fp :=
  match o with
  | 0 => fpOfWord (BitVec.ofNat 32 c)
  | 1 => fpOfBf16 c
  | 2 => fpOfE4m3 c
  | 3 => fpOfE5m2 c
  | 4 => fpOfInt 8 c
  | _ => fpOfInt 32 c

end Sys2Proof.Machine
end

