-- ==== Sys2Proof/Machine/Formats.lean ====
section
/-! DEFINITION. The number formats 0x0 to 0xC (R85 to R91), the near-store layouts of weights and
activations (R93 to R96), decoding with scales and exception entries (R88, R89, R98), and the encoders
of the panel (R108). -/

namespace Sys2Proof.Machine

/-! ### Shapes (R52, R85, R93) -/

/-- Tile depth K_t. -/
def tileDepth (f : Nat) : Nat :=
  match f with
  | 0xC => 64 | 0xB => 64 | 0x6 => 32 | 0x7 => 32 | 0xA => 32 | 0x0 => 4 | _ => 16

/-- K positions of a block row. -/
def blockK (f : Nat) : Nat := if f = 0xC then 40 else 32

/-- Bytes of a block row over 32 columns. -/
def blockRowBytes (f : Nat) : Nat :=
  match f with
  | 0x0 => 2048 | 0x4 => 768 | 0x5 => 768 | 0x6 => 512 | 0x7 => 512 | 0xA => 512 | 0xB => 256 | 0xC => 256 | _ => 1024

/-- Element bits; tally-5 is packed by bytes and has none of its own. -/
def elemBits (f : Nat) : Nat :=
  match f with
  | 0x0 => 16 | 0x4 => 6 | 0x5 => 6 | 0x6 => 4 | 0x7 => 4 | 0xA => 4 | 0xB => 2 | _ => 8

def hasSide (f : Nat) : Bool := !(f == 0 || f == 1 || f == 2 || f == 8)
def hasEntries (f : Nat) : Bool := f == 7 || f == 0xC

/-- Permitted weight and activation pairs (R53). -/
def pairOk (w a : Nat) : Bool :=
  match w with
  | 0xC => a == 1 || a == 2 || a == 8
  | 0xB => a == 1 || a == 2 || a == 8
  | 0xA => a == 1 || a == 2 || a == 8
  | 0x6 => a == 6 || a == 7 || a == 1 || a == 2 || a == 3
  | 0x7 => a == 6 || a == 7 || a == 1 || a == 2 || a == 3
  | 0x1 => a == 1 || a == 2 || a == 3
  | 0x2 => a == 1 || a == 2 || a == 3
  | 0x3 => a == 1 || a == 2 || a == 3
  | 0x4 => a == 1 || a == 2 || a == 3
  | 0x5 => a == 1 || a == 2 || a == 3
  | 0x8 => a == 8 || a == 9
  | 0x9 => a == 8 || a == 9
  | 0x0 => a == 0
  | _ => false

/-! ### Elements and scales (R86 to R88, R90) -/

/-- Value of an element code before its scale. -/
def elemValue (f c : Nat) : Fp :=
  match f with
  | 0x0 => fpOfBf16 c
  | 0x1 => fpOfE4m3 c
  | 0x2 => fpOfE5m2 c
  | 0x3 => fpOfE4m3 c
  | 0x4 => e2m3.value (bitOf c 5) (c % 32)
  | 0x5 => e3m2.value (bitOf c 5) (c % 32)
  | 0x6 => e2m1.value (bitOf c 3) (c % 8)
  | 0x7 => e2m1.value (bitOf c 3) (c % 8)
  | 0x8 => fpOfInt 8 c
  | 0x9 => match fpOfInt 8 c with | .fin n m _ => .fin n m (-6) | x => x
  | 0xA => fpOfInt 4 c
  | _ => fpOfInt 2 c

/-- Digit i of a tally-5 byte as a weight; bytes above 242 hold five zeros. -/
def tallyValue (b i : Nat) : Fp :=
  if 242 < b then .zero
  else match b / 3 ^ i % 3 with
    | 0 => .fin true 1 0
    | 1 => .zero
    | _ => .fin false 1 0

/-- Value of a scale byte: E8M0 or E4M3 by format (R87); 1 for formats without scales. -/
def scaleValue (f b : Nat) : Fp :=
  match f with
  | 0xA => fpOfE4m3 b
  | 0xB => fpOfE4m3 b
  | 0xC => fpOfE4m3 b
  | _ => if !hasSide f then .ofNat 1 else if b = 0xFF then .nan else .fin false 1 ((b : Int) - 127)

/-- Scale times element, clamped to the FP32 maximum or flushed to zero (R88, R98), with the counts. -/
def applyScale (scale x : Fp) : Fp × Sent :=
  match scale, x with
  | .nan, _ => (.nan, { nan := 1 })
  | _, .nan => (.nan, { nan := 1 })
  | _, .inf n => (if scale.isZero then .nan else .inf (n != scale.neg?), { inf := 1 })
  | sc, y =>
    match sc.mul y with
    | .fin n m e =>
      if m = 0 then (.fin n 0 0, {})
      else if fp32.beyond m e then (.fin n fp32.maxM fp32.maxE, { ovf := 1 })
      else if !Dy.le { z := 1, e := -149 } { z := m, e := e } then (.fin n 0 0, { unf := 1 })
      else (.fin n m e, {})
    | z => (z, {})

/-- An exception entry's BF16 value takes part as it is (R89, R98). -/
def entryValue (v : Nat) : Fp × Sent :=
  match fpOfBf16 v with
  | .nan => (.nan, { nan := 1 })
  | .inf n => (.inf n, { inf := 1 })
  | x => (x, {})

/-- The value of an element: NaN scale first, then the last entry that names it, then scale times code. -/
def decodeElem (scale : Fp) (ents : List (Nat × Nat)) (i : Nat) (code : Fp) : Fp × Sent :=
  if scale.isNan then (.nan, { nan := 1 })
  else match ents.reverse.find? fun e => e.1 = i with
    | some e => entryValue e.2
    | none => applyScale scale code

/-! ### Bit access -/

/-- w bits at bit position p of a byte list. -/
def bitsAt (bs : Bytes) (p w : Nat) : Nat := bits (fld bs (p / 8) 4) (p % 8) w

def byteAt (bs : Bytes) (i : Nat) : Nat := (bs.getD i 0).toNat

/-! ### Weight blocks in the near store (R93 to R95) -/

/-- A side record: 32 scales, each column's applied entries, bad entry words, counts of 3, its size. -/
structure SideRec where
  scales : Bytes
  ents   : List (List (Nat × Nat))
  bad    : Nat
  ovf    : Nat
  size   : Nat

/-- Entry words at byte offset p: index and value; an index out of range is dropped and counted. -/
def entryWords (bs : Bytes) (lim : Nat) : Nat → Nat → List (Nat × Nat) × Nat
  | _, 0 => ([], 0)
  | p, n + 1 =>
    let w := fld bs p 4
    let r := entryWords bs lim (p + 4) n
    let i := bits w 16 6
    if i < lim then ((i, w % 0x10000) :: r.1, r.2) else (r.1, r.2 + 1)

/-- The columns' entries of a record whose entry words start at p. -/
def columnEntries (bs : Bytes) (lim counts : Nat) : Nat → List Nat → List (List (Nat × Nat)) × Nat × Nat × Nat
  | p, [] => ([], 0, 0, p)
  | p, c :: cs =>
    let raw := bits counts (2 * c) 2
    let n := Nat.min raw 2
    let e := entryWords bs lim p n
    let r := columnEntries bs lim counts (p + 4 * n) cs
    (e.1 :: r.1, e.2 + r.2.1, b2n (raw = 3) + r.2.2.1, r.2.2.2)

/-- The side record at byte offset p. -/
def sideRecAt (f : Nat) (bs : Bytes) (p : Nat) : SideRec :=
  if !hasEntries f then { scales := slice bs p 32, ents := List.replicate 32 [], bad := 0, ovf := 0, size := 32 }
  else
    let lim := if f = 7 then 32 else 40
    let r := columnEntries bs lim (fld bs (p + 32) 8) (p + 40) (List.range 32)
    { scales := slice bs p 32, ents := r.1, bad := r.2.1, ovf := r.2.2.1, size := alignUp (r.2.2.2 - p) 8 }

/-- n records in a row from p, and where they end. -/
def sideRecs (f : Nat) (bs : Bytes) : Nat → Nat → List SideRec × Nat
  | p, 0 => ([], p)
  | p, n + 1 =>
    let r := sideRecAt f bs p
    let t := sideRecs f bs (p + r.size) n
    (r :: t.1, t.2)

/-- The side records of ns slices of nr block rows; each slice is padded to 32 bytes. -/
def sideSlices (f : Nat) (bs : Bytes) (nr : Nat) : Nat → Nat → List (List SideRec) × Nat
  | p, 0 => ([], p)
  | p, ns + 1 =>
    let r := sideRecs f bs p nr
    let t := sideSlices f bs nr (alignUp r.2 32) ns
    (r.1 :: t.1, t.2)

/-- Block rows of a slice. -/
def blockRows (f k : Nat) : Nat := ceilDiv k (blockK f)

/-- Element bytes of a slice, padded to 512. -/
def sliceBytes (f k : Nat) : Nat := alignUp (blockRows f k * blockRowBytes f) 512

/-- Element bytes of a block of ns slices. -/
def elemArea (f k ns : Nat) : Nat := ns * sliceBytes f k

/-- The most side bytes that ns slices can take: records of 2 entries a column. -/
def sideMax (f k ns : Nat) : Nat :=
  if !hasSide f then 0 else ns * alignUp (blockRows f k * (if hasEntries f then 296 else 32)) 32

/-- Raw value of weight (slice sl, position k, column c) and of its tally byte. -/
def weightCode (f kTotal : Nat) (elems : Bytes) (sl k c : Nat) : Fp :=
  let base := sl * sliceBytes f kTotal + k / blockK f * blockRowBytes f + c * (blockRowBytes f / 32)
  let i := k % blockK f
  if f = 0xC then tallyValue (byteAt elems (base + i / 5)) (i % 5)
  else elemValue f (bitsAt elems (8 * base + i * elemBits f) (elemBits f))

/-- Decoded weight. -/
def weightAt (f kTotal : Nat) (elems : Bytes) (side : List SideRec) (sl k c : Nat) : Fp × Sent :=
  let r := side[k / blockK f]?
  let scale := match r with | none => Fp.ofNat 1 | some r => scaleValue f (byteAt r.scales c)
  let ents := match r with | none => [] | some r => r.ents.getD c []
  decodeElem scale ents (k % blockK f) (weightCode f kTotal elems sl k c)

/-- Bad tally bytes of a slice (R90, R106). -/
def badTally (f kTotal : Nat) (elems : Bytes) (sl : Nat) : Nat :=
  if f ≠ 0xC then 0
  else ((slice elems (sl * sliceBytes f kTotal) (blockRows f kTotal * 256)).filter fun b => decide (242 < b.toNat)).length

/-! ### Activation rows (R96) -/

def actBlocked (f : Nat) : Bool := f == 3 || f == 6 || f == 7 || f == 9

/-- Bytes of an activation row of K elements. -/
def actRowBytes (f k : Nat) : Nat :=
  if !actBlocked f then k * elemBits f / 8
  else
    let nb := ceilDiv k 32
    let n := nb * 4 * elemBits f + nb
    alignUp (if f = 7 then n + ceilDiv nb 4 + nb * 8 else n) 64

/-- Applied entries of block b of a row, bad entries, and whether its count was 3. -/
def actEntries (f k : Nat) (row : Bytes) (b : Nat) : List (Nat × Nat) × Nat × Nat :=
  if f ≠ 7 then ([], 0, 0)
  else
    let nb := ceilDiv k 32
    let base := nb * 16 + nb
    let raw := bits (byteAt row (base + b / 4)) (2 * (b % 4)) 2
    let e := entryWords row 32 (base + ceilDiv nb 4 + b * 8) (Nat.min raw 2)
    (e.1, e.2, b2n (raw = 3))

/-- Decoded activation k of a row. -/
def actAt (f kTotal : Nat) (row : Bytes) (k : Nat) : Fp × Sent :=
  let code := elemValue f (bitsAt row (k * elemBits f) (elemBits f))
  if !actBlocked f then applyScale (.ofNat 1) code
  else
    let nb := ceilDiv kTotal 32
    let scale := scaleValue (if f = 3 then 3 else f) (byteAt row (nb * 4 * elemBits f + k / 32))
    decodeElem scale (actEntries f kTotal row (k / 32)).1 (k % 32) code

/-! ### Packed blocks (R91) -/

/-- Elements of a packed block of format f; e says the extended form of tally-5. -/
def packedK (f : Nat) : Nat := if f = 0xC then 40 else 32

def packedBits (f : Nat) : Nat :=
  match f with
  | 0x3 => 264 | 0x9 => 264 | 0x4 => 200 | 0x5 => 200 | 0x6 => 136 | 0xA => 136 | 0x7 => 138 | 0xB => 72 | _ => 72

/-- Decode the packed block at the front: its values, its size in bytes, and whether its count was 3. -/
def packedBlock (f : Nat) (bs : Bytes) : List Fp × Nat × Nat :=
  let eb := elemBits f
  let scalePos := if f = 0xC then 64 else 32 * eb
  let scale := scaleValue f (bitsAt bs scalePos 8)
  let cnt := if f = 7 then bitsAt bs 136 2 else 0
  let n := Nat.min cnt 2
  let ents := (List.range n).map fun j => (bitsAt bs (138 + 21 * j) 5, bitsAt bs (138 + 21 * j + 5) 16)
  let vals := (List.range (packedK f)).map fun i =>
    (decodeElem scale ents i (if f = 0xC then tallyValue (byteAt bs (i / 5)) (i % 5) else elemValue f (bitsAt bs (i * eb) eb))).1
  (vals, ceilDiv (packedBits f + 21 * n) 8, b2n (cnt = 3))

/-! ### Encoding on the panel (R108) -/

/-- floor(log2) of a nonzero magnitude. -/
def Fp.log2 : Fp → Int
  | .fin _ m e => e + blen m - 1
  | _ => 0

def clampI (lo hi x : Int) : Int := max lo (min hi x)

/-- The largest of some finite magnitudes; zero when there is none. -/
def maxMag (l : List Fp) : Fp := l.foldl (fun a b => if a.lt b.abs then b.abs else a) .zero

/-- Element code of v ÷ 2^x in an MX element type, to nearest even, saturating. -/
def mxElem (t : FpType) (width : Nat) (x : Int) (v : Fp) : Nat × Bool :=
  match v with
  | .fin n m e =>
    let e := e - x
    let q := ulpExp m e t.mb t.emin
    let r := rneAt m e q
    let s := if n then 2 ^ (width - 1) else 0
    if t.beyond r q then (s + t.code t.maxM t.maxE, true) else (s + t.code r q, false)
  | .inf n => ((if n then 2 ^ (width - 1) else 0) + t.code t.maxM t.maxE, true)
  | .nan => (0, false)

/-- Element type and width of MX format f, and its emax. -/
def mxType (f : Nat) : FpType × Nat × Int :=
  match f with
  | 0x3 => (e4m3, 8, 8)
  | 0x4 => (e2m3, 6, 2)
  | 0x5 => (e3m2, 6, 4)
  | _ => (e2m1, 4, 2)

/-- A block as encoded: element codes, scale byte, entries, saturations, and entries wanting. -/
structure Encoded where
  codes : List Nat
  scale : Nat
  ents  : List (Nat × Nat) := []
  sat   : Nat := 0
  ovf  : Nat := 0
  nan   : Bool := false

/-- OCP MX encoding of formats 0x3 to 0x6. -/
def encodeMx (f : Nat) (v : List Fp) : Encoded :=
  let t := mxType f
  if v.any Fp.isNan then { codes := v.map fun _ => 0, scale := 0xFF, nan := true }
  else
    let a := maxMag (v.filter fun x => !x.isInf)
    let x : Int := if a.isZero then (if v.any Fp.isInf then 127 else -127) else clampI (-127) 127 (a.log2 - t.2.2)
    let r := v.map (mxElem t.1 t.2.1 x)
    { codes := r.map (·.1), scale := (x + 127).toNat, sat := (r.filter (·.2)).length }

/-- Insert an index into a list ordered by descending magnitude, infinities first, stably. -/
def insertMag (v : Nat → Fp) (i : Nat) : List Nat → List Nat
  | [] => [i]
  | j :: js =>
    let before := match (v i).isInf, (v j).isInf with
      | true, true => false
      | true, false => true
      | false, true => false
      | false, false => (v j).abs.lt (v i).abs
    if before then i :: j :: js else j :: insertMag v i js

def orderMag (v : Nat → Fp) (n : Nat) : List Nat := (List.range n).foldl (fun l i => insertMag v i l) []

/-- `encode_mxfp4x` of R108. -/
def encodeMxfp4x (v : List Fp) : Encoded :=
  if v.any Fp.isNan then { codes := v.map fun _ => 0, scale := 0xFF, nan := true }
  else
    let at_ := fun i => v.getD i .zero
    let order := orderMag at_ 32
    let fin := order.filter fun i => !(at_ i).isInf
    let a := fun n => match fin[n]? with | none => Fp.zero | some i => (at_ i).abs
    let x : Int :=
      if (a 0).isZero then (if v.any Fp.isInf then 127 else -127)
      else
        let xa := (a 0).log2 - 2
        if !(a 2).isZero ∧ (a 2).log2 - 2 < xa then (a 2).log2 - 2 else xa
    let x := clampI (-127) 127 x
    let big := fun i => (at_ i).isInf || Fp.lt (.fin false 6 x) (at_ i).abs
    let wants := order.filter big
    let taken := wants.take 2
    let r := (List.range 32).map fun i => if taken.contains i then (0, false) else mxElem e2m1 4 x (at_ i)
    { codes := r.map (·.1), scale := (x + 127).toNat,
      ents := taken.map fun i => (i, bf16Rne (at_ i)),
      sat := (r.filter (·.2)).length, ovf := b2n (2 < wants.length) }

/-- The packed bytes of an encoded block (R91): elements, scale, count and entries. -/
def Encoded.pack (f : Nat) (e : Encoded) : Bytes :=
  let eb := elemBits f
  let body := (List.range 32).foldl (fun n i => n + e.codes.getD i 0 * 2 ^ (i * eb)) 0
  let n := body + e.scale * 2 ^ (32 * eb)
  if f = 7 then
    let n := n + e.ents.length * 2 ^ 136
    let n := (List.range e.ents.length).foldl (fun n j =>
      let p := e.ents.getD j (0, 0)
      n + p.1 * 2 ^ (138 + 21 * j) + p.2 * 2 ^ (138 + 21 * j + 5)) n
    natLe (ceilDiv (138 + 21 * e.ents.length) 8) n
  else natLe (ceilDiv (packedBits f) 8) n

end Sys2Proof.Machine
end

