-- ==== Sys2Proof/Machine/Matrix.lean ====
section
/-! DEFINITION. The matrix engines (R52 to R62, R72 to R75, R97 to R109): descriptor checks, the weight
latch, the product, narrowing and writeback, and the selection of shadow tiles. -/

namespace Sys2Proof.Machine

/-! ### The descriptor (R57) -/

structure MDesc where
  ver : Nat
  op : Nat
  wfmt : Nat
  afmt : Nat
  otype : Nat
  stoch : Bool
  accIn : Bool
  hold : Bool
  keep : Bool
  reuse : Bool
  aq : Nat
  aMem : Bool
  oq : Nat
  oMem : Bool
  m : Nat
  nt : Nat
  k : Nat
  waddr : Nat
  saddr : Nat
  aaddr : Nat
  astride : Nat
  oaddr : Nat
  ostride : Nat
  shadow : Bool
  bq : Bool
  tag : Nat

/-- The fields of an issued descriptor; rs2 is added to the weight offset (R45). -/
def mdesc (x : EngDesc) : MDesc :=
  let d := x.d
  { ver := dfield d 0 0 4, op := dfield d 0 4 4, wfmt := dfield d 1 0 4, afmt := dfield d 1 4 4,
    otype := dfield d 2 0 3, stoch := dfield d 2 3 1 = 1, accIn := dfield d 2 4 1 = 1, hold := dfield d 2 5 1 = 1,
    keep := dfield d 2 6 1 = 1, reuse := dfield d 2 7 1 = 1, aq := dfield d 3 0 3, aMem := dfield d 3 3 1 = 1,
    oq := dfield d 3 4 3, oMem := dfield d 3 7 1 = 1, m := dfield d 4 0 6 + 1, nt := dfield d 5 0 6 + 1,
    k := dfield d 6 0 16, waddr := dfield d 8 0 18 + x.off.toNat, saddr := dfield d 12 0 18, aaddr := dfield d 16 0 18,
    astride := dfield d 20 0 16, oaddr := dfield d 24 0 18, ostride := dfield d 28 0 16, shadow := dfield d 30 0 1 = 1,
    bq := dfield d 30 1 1 = 1, tag := dfield d 31 0 8 }

/-- Bytes of a near store. -/
abbrev nearBytes : Nat := 0x40000

/-- Slices engine j of a bouquet runs of nt slices (R72). -/
def bqShare (nt j : Nat) : List Nat := (List.range nt).filter fun i => i % 32 = j

/-- The engines a descriptor runs on (hart, engine, slices): its own, or those of the 32 of the bouquet that
hart h leads that get a slice. -/
def shareList (h e : Nat) (d : MDesc) (bq : Bool) : List (Nat × Nat × Nat) :=
  if bq then (List.range 32).filterMap fun j =>
    let n := (bqShare d.nt j).length
    if n = 0 then none else some (h + j / 4, j % 4, n)
  else [(h, e, d.nt)]

/-- The near stores a descriptor works in, with the most slices an engine of each has. -/
def MDesc.stores (d : MDesc) (h : Nat) (bq : Bool) : List (Nat × Nat) :=
  if bq then (List.range 8).filterMap fun i =>
    let n := (bqShare d.nt (4 * i)).length
    if n = 0 then none else some (h + i, n)
  else [(h, d.nt)]

/-- Largest share of slices of any engine: all of them outside a bouquet. -/
def MDesc.share (d : MDesc) (bq : Bool) : Nat := if bq then ceilDiv d.nt 32 else d.nt

/-- Side bytes of ns slices at `SADDR` of hart h's near store, as they stand. -/
def sideBytesAt (s : State) (h : Nat) (f k saddr ns : Nat) : Nat :=
  if !hasSide f then 0
  else (sideSlices f (memRead s.mem (nearBase h + saddr) (sideMax f k ns)) (blockRows f k) 0 ns).2

/-! ### The latch (R55, R61, R103) -/

/-- Sizes of the side records of a block, per slice. -/
def recSizes (f : Nat) (side : List (List SideRec)) (nr ns : Nat) : List (List Nat) :=
  (List.range ns).map fun sl => (List.range nr).map fun r =>
    if hasSide f then (match (side.getD sl [])[r]? with | none => 32 | some x => x.size) else 0

/-- Bytes (elements, side) of the block rows that K steps a to a + n − 1 touch; steps are numbered
through the slices, sps to each. -/
def stepsBytes (f k : Nat) (sizes : List (List Nat)) (sps a n : Nat) : Nat × Nat :=
  let rows := (List.range n).flatMap fun i =>
    let st := a + i
    let sl := st / sps
    let j := st % sps
    let lo := j * tileDepth f / blockK f
    let hi := (Nat.min k ((j + 1) * tileDepth f) - 1) / blockK f
    (List.range (hi + 1 - lo)).map fun r => (sl, lo + r)
  let rows := rows.eraseDups
  (rows.length * blockRowBytes f, (rows.map fun r => (sizes.getD r.1 []).getD r.2 0).foldl (· + ·) 0)

/-- Steps a to a + n − 1 end at a block-row boundary or at the end of a slice. -/
def wholeRows (f sps a n : Nat) : Bool :=
  let e := a + n
  e % sps = 0 || (e % sps) * tileDepth f % blockK f = 0

/-- K steps that one half takes from step a on (R103). -/
def halfSteps (f k : Nat) (sizes : List (List Nat)) (sps total a : Nat) : Nat :=
  let fits := fun n => decide (a + n ≤ total) && (let b := stepsBytes f k sizes sps a n; decide (b.1 ≤ 8192) && decide (b.2 ≤ 1024))
  let cand := (List.range 65).reverse.filter fun n => decide (0 < n) && fits n
  match cand.find? (wholeRows f sps a) with
  | some n => n
  | none => cand.headD 1

/-- The whole block fits the two halves (R61). -/
def fitsLatch (f k ns : Nat) (side : List (List SideRec)) : Bool :=
  let sizes := recSizes f side (blockRows f k) ns
  let sps := ceilDiv k (tileDepth f)
  let total := sps * ns
  let a := halfSteps f k sizes sps total 0
  total ≤ a || total ≤ a + halfSteps f k sizes sps total a

/-! ### Checks (R58) -/

def kOk (k : Nat) : Bool := k % 8 = 0 && decide (8 ≤ k) && decide (k ≤ 65528)

/-- The weight and side ranges of ns slices lie in the near store of hart h, aligned. -/
def MDesc.blockOk (d : MDesc) (s : State) (h ns : Nat) : Bool :=
  d.waddr % 512 = 0 && decide (d.waddr + elemArea d.wfmt d.k ns ≤ nearBytes)
    && (!hasSide d.wfmt || (d.saddr % 32 = 0 && decide (d.saddr + sideBytesAt s h d.wfmt d.k d.saddr ns ≤ nearBytes)))

/-- The result range of M rows of n elements lies in the near store. -/
def MDesc.resultOk (d : MDesc) (n : Nat) : Bool :=
  decide (d.oaddr + (d.m - 1) * d.ostride + n * otypeBytes d.otype ≤ nearBytes)

/-- The checks of R58 on a descriptor as hart h issues it; bq: it runs across the bouquet. -/
def MDesc.ok (d : MDesc) (s : State) (h : Nat) (bq : Bool) : Bool :=
  let ns := d.share bq
  d.ver = 1 &&
  match d.op with
  | 1 =>
    pairOk d.wfmt d.afmt && (d.hold || decide (d.otype ≤ 5)) && kOk d.k
      && decide (d.m * ns * 32 ≤ 2048)
      && (d.aMem || decide (d.nt = 1) || decide (d.m * actRowBytes d.afmt d.k ≤ 8192))
      && (d.stores h bq).all (fun i => d.blockOk s i.1 i.2)
      && (!d.aMem || decide (d.aaddr + (d.m - 1) * d.astride + actRowBytes d.afmt d.k ≤ nearBytes))
      && (d.hold || (if d.oMem then d.resultOk (ns * 32) else s.bound h d.oq))
  | 2 =>
    decide (d.wfmt ≤ 0xC) && kOk d.k && (d.stores h bq).all (fun i => d.blockOk s i.1 i.2)
      && (d.stores h bq).all (fun i => fitsLatch d.wfmt d.k i.2
          (sideSlices d.wfmt (memRead s.mem (nearBase i.1 + d.saddr) (sideMax d.wfmt d.k i.2)) (blockRows d.wfmt d.k) 0 i.2).1)
  | 3 =>
    decide (d.otype ≤ 5) && decide (d.m * ns * 32 ≤ 2048) && (if d.oMem then d.resultOk (ns * 32) else s.bound h d.oq)
  | _ => false

/-! ### The product (R97) -/

/-- Exact sum of the products of one K step; every zero sign as R97 says. -/
def dot : List Fp → List Fp → Option Fp
  | w :: ws, x :: xs =>
    let p := w.mul x
    match dot ws xs with
    | none => some p
    | some r => some (p.add r)
  | _, _ => none

/-- One output through one K step: the new accumulator and the NaN and Inf it gives rise to (R106). -/
def macc (acc : Word) (ws xs : List Fp) : Word × Sent :=
  match dot ws xs with
  | none => (acc, {})
  | some p =>
    let a := fpOfWord acc
    let r := round32 (a.add p)
    let operandNan := a.isNan || ws.any Fp.isNan || xs.any Fp.isNan
    let nan := b2n (r.isNan && !operandNan)
    let inf := b2n (r.isInf && !a.isInf && !p.isInf)
    (match r with | .nan => (if a.isNan then acc else nan32) | r => wordOfFp r, { nan := nan, inf := inf })

/-- K positions of step j. -/
def stepKs (f k j : Nat) : List Nat :=
  (List.range (tileDepth f)).filterMap fun i =>
    let p := j * tileDepth f + i
    if p < k then some p else none

/-- One K step of one slice over M rows: accumulators (row-major over 32 columns) and sentinels. -/
def kstep (cols rows : List (List Fp)) (acc : List Word) : List Word × Sent :=
  let r := (List.range acc.length).map fun i => macc (acc.getD i 0) (cols.getD (i % 32) []) (rows.getD (i / 32) [])
  (r.map (·.1), Sent.sum (r.map (·.2)))

/-- What a K step needs: the decoded weight columns, the decoded activation rows, and their counts. -/
structure StepIn where
  cols : List (List Fp)
  rows : List (List Fp)
  sent : Sent

/-- Exception entries that fall in K positions ks (R104). -/
def entriesIn (f : Nat) (side : List SideRec) (ks : List Nat) : Nat :=
  (ks.map fun k => match side[k / blockK f]? with
    | none => 0
    | some r => ((r.ents.flatten).filter fun e => e.1 = k % blockK f).length).foldl (· + ·) 0

def actEntriesIn (f kTotal : Nat) (rows : List Bytes) (ks : List Nat) : Nat :=
  (rows.map fun row => (ks.map fun k =>
    ((actEntries f kTotal row (k / 32)).1.filter fun e => e.1 = k % 32).length).foldl (· + ·) 0).foldl (· + ·) 0

/-- Decode the operands of K step j of slice sl. -/
def stepIn (d : MDesc) (elems : Bytes) (side : List SideRec) (rows : List Bytes) (sl j : Nat) : StepIn :=
  let ks := stepKs d.wfmt d.k j
  let w := (List.range 32).map fun c => ks.map fun k => weightAt d.wfmt d.k elems side sl k c
  let x := rows.map fun row => ks.map fun k => actAt d.afmt d.k row k
  let demand := entriesIn d.wfmt side ks + actEntriesIn d.afmt d.k rows ks
  { cols := w.map fun l => l.map (·.1), rows := x.map fun l => l.map (·.1),
    sent := Sent.add (Sent.sum ((w.flatten ++ x.flatten).map (·.2))) { stall := ceilDiv demand 16 - d.m } }

/-- Counts made once for each block row loaded (R106). -/
def loadSent (f k ns : Nat) (elems : Bytes) (side : List (List SideRec)) : Sent :=
  { bad := ((side.flatten).map (·.bad)).foldl (· + ·) 0 + ((List.range ns).map (badTally f k elems)).foldl (· + ·) 0,
    excOvf := ((side.flatten).map (·.ovf)).foldl (· + ·) 0 }

/-- Counts made once per activation row and block (R106). -/
def rowSent (f k : Nat) (rows : List Bytes) : Sent :=
  Sent.sum (rows.flatMap fun row => (List.range (ceilDiv k 32)).map fun b =>
    let e := actEntries f k row b
    { bad := e.2.1, excOvf := e.2.2 })

/-! ### Shadow selection (R76, R109) -/

/-- Spares of a cluster on shadow duty, as physical core keys, that can take a tile. -/
def State.freeSpares (s : State) (c : Nat) : List Nat :=
  ((List.range 34).map fun p => s.blk c * 34 + p).filter fun pk =>
    let x := s.physCore pk
    x.duty = 1 && !x.retired && decide (x.tiles.length < 4)

/-- A tile may be selected: with probability 2^-k, from the cluster's entropy stream; copies go to the
first spare with room, and a selected tile that finds none is skipped and counted (R76). -/
def State.sample (s : State) (c : Nat) (t : Tile) : State :=
  let k := s.field (s.cluReg c 0x800) 0 5
  let r := (Config.entropy s.free).toNat
  let s := s.draw
  if r % 2 ^ k ≠ 0 then s
  else match s.freeSpares c with
    | [] => s.count (s.cluReg c 0x814) 1
    | pk :: _ => let x := s.physCore pk; s.setPhys pk { x with tiles := x.tiles ++ [t] }

/-! ### One engine's share -/

/-- Accumulator (slice, row, column) of the file: slices outermost (log entry 13). -/
def accIndex (m sl row col : Nat) : Nat := (sl * m + row) * 32 + col

def accSlice (acc : Tbl Word) (m sl : Nat) : List Word := (List.range (m * 32)).map fun i => tget 0 acc (sl * m * 32 + i)

def accPut (acc : Tbl Word) (base : Nat) (l : List Word) : Tbl Word :=
  (List.range l.length).foldl (fun t i => tset 0 t (base + i) (l.getD i 0)) acc

/-- All K steps of slice sl: state (for sampling), accumulators, counts. `tile` is the tile to copy to a
spare, but for what each step fills in, when the descriptor is eligible for sampling. -/
def runSlice (d : MDesc) (elems : Bytes) (side : List SideRec) (rows : List Bytes) (c sl : Nat) (tile : Option Tile) :
    Nat → Nat → State → List Word → Sent → State × List Word × Sent
  | 0, _, s, acc, n => (s, acc, n)
  | fuel + 1, j, s, acc, n =>
    let i := stepIn d elems side rows sl j
    let r := kstep i.cols i.rows acc
    let s := match tile with
      | none => s
      | some t => s.sample c { t with slice := sl, kstep := j, start := acc, result := r.1 }
    runSlice d elems side rows c sl tile fuel (j + 1) s r.1 (n.add (i.sent.add r.2))

/-- The weight block that engine e of hart h multiplies by: the kept one under `REUSE`, else a load; with
whether it was loaded. -/
def State.weights (s : State) (h e : Nat) (d : MDesc) (ns : Nat) : Kept × Bool :=
  let load : Kept := {
    waddr := d.waddr, saddr := d.saddr, wfmt := d.wfmt, k := d.k, nt := ns,
    elems := memRead s.mem (nearBase h + d.waddr) (elemArea d.wfmt d.k ns),
    side := memRead s.mem (nearBase h + d.saddr) (sideMax d.wfmt d.k ns) }
  match ((s.core h).engine e).kept with
  | some x => if d.reuse ∧ x.waddr = d.waddr ∧ x.saddr = d.saddr then (x, false) else (load, true)
  | none => (load, true)

/-- What stands in the latch after a MATMUL (R61). -/
def keptAfter (d : MDesc) (blk : Kept) (loaded : Bool) (side : List (List SideRec)) (ns : Nat) : Option Kept :=
  if !d.keep then none
  else if loaded then (if fitsLatch d.wfmt d.k ns side then some blk else none)
  else some blk

/-- Slice sl of weight block w goes onto the accumulator file: from its accumulators under `ACC_IN`, else from zero. -/
def sliceOnto (d : MDesc) (w : Kept) (side : List (List SideRec)) (rows : List Bytes) (c : Nat) (tile : Option Tile)
    (x : State × Tbl Word × Sent) (sl : Nat) : State × Tbl Word × Sent :=
  let start := if d.accIn then accSlice x.2.1 d.m sl else List.replicate (d.m * 32) 0
  let o := runSlice d w.elems (side.getD sl []) rows c sl tile (ceilDiv d.k (tileDepth d.wfmt)) 0 x.1 start {}
  (o.1, accPut x.2.1 (sl * d.m * 32) o.2.1, x.2.2.add o.2.2)

/-- A MATMUL of ns slices on engine e of hart h over activation rows: the accumulator file, the latch, the
sentinels, `ENG_TILES` and the sampled tiles. -/
def State.product (s : State) (h e : Nat) (d : MDesc) (desc : BitVec 256) (ns : Nat) (rows : List Bytes) : State :=
  let w := s.weights h e d ns
  let side := (sideSlices d.wfmt w.1.side (blockRows d.wfmt d.k) 0 ns).1
  let sps := ceilDiv d.k (tileDepth d.wfmt)
  let tile : Option Tile :=
    if d.shadow && s.field (s.cluReg (h / 32) 0x800) 5 1 = 1 then
      some {
             checked := s.physOf h, eng := e, desc := desc, slice := 0, kstep := 0, rows := rows, elems := w.1.elems,
             side := w.1.side, start := [], result := [], part := s.partNo (h / 32), step := s.stepCountOf h }
    else none
  let acc0 := ((s.core h).engine e).acc
  let r := (List.range ns).foldl (sliceOnto d w.1 side rows (h / 32) tile) (s, acc0, {})
  let s := r.1
  let sent := (r.2.2.add (rowSent d.afmt d.k rows)).add (if w.2 then loadSent d.wfmt d.k ns w.1.elems side else {})
  let c := s.core h
  let g := c.engine e
  let s := s.setCore h (c.setEngine e { g with acc := r.2.1, kept := keptAfter d w.1 w.2 side ns })
  (s.sentinels h e sent).count64 (s.coreReg h (0x140 + 8 * e)) (sps * ns)

/-- A LATCH of ns slices: the block is kept (R61). -/
def State.latchBlock (s : State) (h e : Nat) (d : MDesc) (ns : Nat) : State :=
  let w := s.weights h e d ns
  let side := (sideSlices d.wfmt w.1.side (blockRows d.wfmt d.k) 0 ns).1
  let c := s.core h
  let g := c.engine e
  let s := s.setCore h (c.setEngine e { g with kept := some w.1 })
  if w.2 then s.sentinels h e (loadSent d.wfmt d.k ns w.1.elems side) else s

/-! ### Narrowing and writeback (R99, R121) -/

/-- Counts of a narrowed element (R106). -/
def Narrowed.sent (n : Narrowed) : Sent := { sat := b2n n.sat, nan := b2n n.nan, inf := b2n n.inf }

/-- Narrow one value on engine stream u of hart h. -/
def State.narrowOne (s : State) (h u : Nat) (otype : Nat) (stoch : Bool) (w : Word) : Narrowed × State :=
  if stoch && needsDraw otype (fpOfWord w) then
    let r := (s.core h).drawUnit u
    (narrow otype (.stoch (r.1.toNat / 65536)) w, s.setCore h r.2)
  else (narrow otype .rne w, s)

/-- Narrow values in order: their bytes and the counts. -/
def State.narrowAll (h u otype : Nat) (stoch : Bool) : List Word → State → Bytes × Sent × State
  | [], s => ([], {}, s)
  | w :: ws, s =>
    let r := s.narrowOne h u otype stoch w
    let t := State.narrowAll h u otype stoch ws r.2
    (natLe (otypeBytes otype) r.1.code ++ t.1, r.1.sent.add t.2.1, t.2.2)

/-- The tokens of one row of output bytes: 64 bytes each, the last zero-filled, `LANES` the elements − 1. -/
def rowTokens (osize : Nat) (e : BitVec 3) : Nat → Bytes → List Token
  | 0, _ => []
  | _, [] => []
  | fuel + 1, bs =>
    let now := bs.take 64
    { tag := mkTag 0 (now.length / osize - 1) e, payload := bytesPayload now } :: rowTokens osize e fuel (bs.drop 64)

/-- Row r of ns slices of an accumulator file. -/
def accRow (acc : Tbl Word) (m ns r : Nat) : List Word :=
  (List.range (ns * 32)).map fun i => tget 0 acc (accIndex m (i / 32) r (i % 32))

/-- Narrow and write back the M × N accumulators of engine e of hart h: to the near store at `OADDR`, or
as the tokens of the output queue, a new token for each row (R62, R121). -/
def State.writeBack (s : State) (h e : Nat) (d : MDesc) (ns : Nat) : State :=
  let acc := ((s.core h).engine e).acc
  let osz := otypeBytes d.otype
  let r := (List.range d.m).foldl (fun (x : State × List Token × Sent) row =>
      let b := State.narrowAll h (e + 1) d.otype d.stoch (accRow acc d.m ns row) x.1
      let s := b.2.2
      let s := if d.oMem then s.store .engine 0 (nearBase h + d.oaddr + row * d.ostride) b.1 else s
      let toks := if d.oMem then [] else rowTokens osz (s.epochOf (h / 32)) (b.1.length + 1) b.1
      (s, x.2.1 ++ toks, x.2.2.add b.2.1)) (s, [], {})
  let s := r.1.sentinels h e r.2.2
  let c := s.core h
  let g := c.engine e
  s.setCore h (c.setEngine e { g with wb := g.wb ++ r.2.1 })

/-! ### Activations (R56, R96, R125) -/

/-- Activation rows in the near store. -/
def memRows (s : State) (h : Nat) (d : MDesc) : List Bytes :=
  (List.range d.m).map fun i => memRead s.mem (nearBase h + d.aaddr + i * d.astride) (actRowBytes d.afmt d.k)

/-- What gathering from a queue comes to: every row is in, the queue ran dry, or a control token stands
where DATA is needed. -/
inductive Gather where
  | full (s : State)
  | dry (s : State)
  | bad (s : State)

/-- Gather `want` rows of `len` bytes on engine e of hart h from input queue qi, a token at a time (R125). -/
def State.gather (h e qi len want : Nat) : Nat → State → Gather
  | 0, s => .dry s
  | fuel + 1, s =>
    let c := s.core h
    let g := c.engine e
    if want ≤ g.rows.length then .full s
    else match (c.inQ qi).head with
      | none => .dry s
      | some t =>
        if t.kind = kData then
          let s := s.popHead h qi
          let c := s.core h
          let g := c.engine e
          let row := g.row ++ payloadBytes t.payload
          let g := if len ≤ row.length then { g with rows := g.rows ++ [row.take len], row := [] } else { g with row := row }
          State.gather h e qi len want fuel (s.setCore h (c.setEngine e g))
        else if g.row = [] ∧ (t.kind = kEndRow ∨ t.kind = kEndTile) then State.gather h e qi len want fuel (s.popHead h qi)
        else .bad s

/-- Tokens and markers an input queue can present in one gathering: 16 entries and as many markers. -/
abbrev gatherFuel : Nat := 64

/-- The engine starts over with its next descriptor. -/
def State.dropHead (s : State) (h e : Nat) : State :=
  let c := s.core h
  let g := c.engine e
  s.setCore h (c.setEngine e { g with queue := g.queue.drop 1, taken := false, rows := [], row := [], busy := false })

/-- A control token stands where the engine needs DATA (R125): the descriptor is gone, and the core halts (R44). -/
def State.descFault (s : State) (h e : Nat) : State := (s.dropHead h e).halt h causeDesc (s.core h).pc (some e)

/-- The head descriptor has been computed; its results wait to be enqueued. -/
def State.setBusy (s : State) (h e : Nat) : State :=
  let c := s.core h
  let g := c.engine e
  s.setCore h (c.setEngine e { g with taken := true, busy := true, rows := [], row := [] })

/-- The engine takes the head descriptor. -/
def State.setTaken (s : State) (h e : Nat) : State :=
  let c := s.core h
  s.setCore h (c.setEngine e { c.engine e with taken := true })

/-- Push results in order while the output queue has credit (R45, R62). -/
def State.drain (h e oq : Nat) : Nat → State → State
  | 0, s => s
  | fuel + 1, s =>
    let c := s.core h
    let g := c.engine e
    match g.wb with
    | [] => s
    | t :: ts =>
      if s.hasCredit h oq then
        State.drain h e oq fuel ((s.setCore h (c.setEngine e { g with wb := ts })).enqueue h oq t)
      else s

/-- Activation rows for the head descriptor: from the near store, or gathered from its queue. -/
def State.actRows (s : State) (h e : Nat) (d : MDesc) : Gather :=
  if d.aMem then .full s
  else State.gather h e d.aq (actRowBytes d.afmt d.k) d.m gatherFuel s

/-- Run the head descriptor's operation on the engines named (hart, engine, slices) and write back: each engine
to its own member's near store, or, across a bouquet, through the issuing core's queue in slice order (R72 to
R74). Each engine narrows on its own stream (R101). -/
def State.runShares (s : State) (h e : Nat) (d : MDesc) (desc : BitVec 256) (bq : Bool) (rows : List Bytes) : State :=
  let shares := shareList h e d bq
  let s := shares.foldl (fun s x =>
    match d.op with
    | 1 => s.product x.1 x.2.1 d desc x.2.2 rows
    | 2 => s.latchBlock x.1 x.2.1 d x.2.2
    | _ => s) s
  if d.op = 2 ∨ (d.op = 1 ∧ d.hold) then s
  else if d.oMem || !bq then shares.foldl (fun s x => s.writeBack x.1 x.2.1 d x.2.2) s
  else
    -- slice order across the bouquet: local slice i of every engine, engines in order, row by row
    let top := (shares.map (·.2.2)).foldl Nat.max 0
    let order := (List.range top).flatMap fun i => shares.filterMap fun x => if i < x.2.2 then some (x.1, x.2.1, i) else none
    let r := order.foldl (fun (y : State × List Token) x =>
      let acc := ((y.1.core x.1).engine x.2.1).acc
      (List.range d.m).foldl (fun (y : State × List Token) row =>
        let words := (List.range 32).map fun c => tget 0 acc (accIndex d.m x.2.2 row c)
        let b := State.narrowAll x.1 (x.2.1 + 1) d.otype d.stoch words y.1
        let s := b.2.2.sentinels x.1 x.2.1 b.2.1
        (s, y.2 ++ rowTokens (otypeBytes d.otype) (s.epochOf (h / 32)) (b.1.length + 1) b.1)) y) (s, [])
    let c := r.1.core h
    let g := c.engine e
    r.1.setCore h (c.setEngine e { g with wb := g.wb ++ r.2 })

/-- The head descriptor of engine e of hart h runs across the bouquet that h leads. -/
def State.headBq (s : State) (h e : Nat) : Bool :=
  match ((s.core h).engine e).queue with
  | [] => false
  | x :: _ => (mdesc x).bq && s.leads h

/-- A bouquet descriptor of the cores with hart h has been taken and has not completed: it has all 32 engines (R72). -/
def State.bouquetTaken (s : State) (h : Nat) : Bool :=
  (List.range 4).any fun e => ((s.core (h / 8 * 8)).engine e).taken && s.headBq (h / 8 * 8) e

/-- Engine e of hart h may take its head, which runs across the bouquet if bq: no engine it needs has another
descriptor in hand, and every other engine of the bouquet has done the descriptors of its own ahead (R59, R72). -/
def State.mayTake (s : State) (h e : Nat) (bq : Bool) : Bool :=
  ((s.core h).engine e).taken ||
    (!s.bouquetTaken h &&
      (!bq || (List.range 32).all fun j =>
        let g := (s.core (h + j / 4)).engine (j % 4)
        (g.queue == [] || s.headBq (h + j / 4) (j % 4))))

/-- The engines of hart h that are busy (R45): those with a descriptor, and all four matrix engines while a
bouquet descriptor runs. -/
def State.busyMask (s : State) (h : Nat) : Nat :=
  if s.bouquetTaken h then Nat.lor (s.core h).busyMask 15 else (s.core h).busyMask

/-- A matrix engine takes, or goes on with, the descriptor at the head of its queue: activations, work and
writeback. `bq` says that the descriptor runs across the bouquet. -/
def State.matrixStep (s : State) (h e : Nat) (bq : Bool) : State :=
  match ((s.core h).engine e).queue with
  | [] => s
  | x :: _ =>
    let d := mdesc x
    let g := (s.core h).engine e
    if g.busy || !s.mayTake h e bq then s
    else
      let s := s.setTaken h e
      match (if d.op = 1 then s.actRows h e d else Gather.full s) with
      | .bad t => t.descFault h e
      | .dry t => t
      | .full t =>
        let rows := if d.op ≠ 1 then [] else if d.aMem then memRows t h d else ((t.core h).engine e).rows
        let t := (t.runShares h e d x.d bq rows).setBusy h e
        if d.oMem then t else State.drain h e d.oq 2048 t

/-- The head of engine e's queue is a matrix descriptor with operation `op` that runs across the bouquet or not. -/
def State.headIs (s : State) (h e op : Nat) (bq : Bool) : Bool :=
  match ((s.core h).engine e).queue with
  | [] => false
  | x :: _ =>
    (mdesc x).op == op && s.headBq h e == bq

/-- Engines work while their partition is not frozen and their cluster not paused; a halted core's
issued descriptors go on (R44 halts the petal). -/
def State.engineRuns (s : State) (h : Nat) : Bool :=
  !s.power.paused.contains (h / 32) && match s.partOf (h / 32) with | none => true | some p => !s.frozen p

def execMatmul (h e : Nat) (s : State) : Host.Outcome State Fault Refusal :=
  answer s (onlyIf (decide (e < 4) && s.engineRuns h && s.headIs h e 1 false) s (s.matrixStep h e false))

def execLatch (h e : Nat) (s : State) : Host.Outcome State Fault Refusal :=
  answer s (onlyIf (decide (e < 4) && s.engineRuns h && s.headIs h e 2 false) s (s.matrixStep h e false))

def execFlush (h e : Nat) (s : State) : Host.Outcome State Fault Refusal :=
  answer s (onlyIf (decide (e < 4) && s.engineRuns h && s.headIs h e 3 false) s (s.matrixStep h e false))

/-- BOUQUET_MATMUL (R72 to R74): a descriptor with `BQ` set, on all 32 engines. -/
def execBouquetMatmul (h e : Nat) (s : State) : Host.Outcome State Fault Refusal :=
  answer s (onlyIf (decide (e < 4) && s.engineRuns h && (s.headIs h e 1 true || s.headIs h e 2 true || s.headIs h e 3 true)) s
    (s.matrixStep h e true))

/-- ENGINE_DESCRIPTOR_COMPLETE (R59, R173): once the last result is enqueued, the descriptor leaves the
queue, its queues are free, and a matrix descriptor's `TAG` is the one E.STAT reports. -/
def execEngineDescriptorComplete (h e : Nat) (s : State) : Host.Outcome State Fault Refusal :=
  answer s (match ((s.core h).engine e).queue with
    | [] => s
    | x :: _ =>
      if !((s.core h).engine e).busy || !s.engineRuns h then s
      else
        let t := match x.dest e with | none => s | some q => State.drain h e q 2048 s
        if ((t.core h).engine e).wb ≠ [] then t
        else
          let t := t.dropHead h e
          if e = 4 then t else t.setCore h { t.core h with lastTag := BitVec.ofNat 8 (dfield x.d 31 0 8) })

end Sys2Proof.Machine
end

