-- ==== Sys2Proof/Machine/Vector.lean ====
section
/-! DEFINITION. The vector engine (R63 to R69): its descriptor and checks, the transcendental functions as
the correctly rounded result moved by a free number of units within R65's bounds, reductions in a fixed
order the spec does not give, and the 26 operations. -/

namespace Sys2Proof.Machine

/-! ### FP32 operations: each rounds once -/

def fadd (a b : Word) : Word := wordOfFp ((fpOfWord a).add (fpOfWord b))
def fsub (a b : Word) : Word := wordOfFp ((fpOfWord a).sub (fpOfWord b))
def fmul (a b : Word) : Word := wordOfFp ((fpOfWord a).mul (fpOfWord b))
/-- a × b + c with one rounding (log entry 15). -/
def ffma (a b c : Word) : Word := wordOfFp (((fpOfWord a).mul (fpOfWord b)).add (fpOfWord c))

/-- A quotient of finite magnitudes to 64 bits more than FP32 needs, with a sticky bit. -/
def quot (m : Nat) (e : Int) (n : Nat) (f : Int) : Nat × Int :=
  let sh := 120 + blen n
  let q := m * 2 ^ sh / n
  (if m * 2 ^ sh % n = 0 then 2 * q else 2 * q + 1, e - f - sh - 1)

/-- Correctly rounded a ÷ b under IEEE 754. -/
def fdiv (a b : Word) : Word :=
  match fpOfWord a, fpOfWord b with
  | .nan, _ => nan32
  | _, .nan => nan32
  | .inf _, .inf _ => nan32
  | .inf x, .fin y _ _ => wordOfFp (.inf (x != y))
  | .fin x _ _, .inf y => wordOfFp (.fin (x != y) 0 0)
  | .fin x m e, .fin y n f =>
    if n = 0 then (if m = 0 then nan32 else wordOfFp (.inf (x != y)))
    else if m = 0 then wordOfFp (.fin (x != y) 0 0)
    else
      let q := quot m e n f
      wordOfFp (.fin (x != y) q.1 q.2)

def fone : Word := 0x3F800000
def fneg (a : Word) : Word := a ^^^ 0x80000000#32

/-- Integer square root by bits: the largest r with r² ≤ n, from bit `fuel` down. -/
def isqrt (n : Nat) : Nat → Nat → Nat
  | 0, r => r
  | fuel + 1, r =>
    let t := r + 2 ^ fuel
    isqrt n fuel (if t * t ≤ n then t else r)

/-! ### Transcendentals (R65) -/

/-- Fraction bits of the fixed-point reference. -/
abbrev fixBits : Nat := 320
def fixOne : Nat := 2 ^ fixBits
/-- ln 2 and √(2 ÷ π) at 320 fraction bits. -/
def fixLn2 : Nat := 0xb17217f7d1cf79abc9e3b39803f2f6af40f343267298b62d8a0d175b8baafa2be7b876206debac98
def fixRoot : Nat := 0xcc42299ea1b284687e59e2805d5c717fa7053e60a24e0db1808e369004c73a5d3bf158aa88fa7b6e

/-- Σ rⁿ ÷ n! from a term on. -/
def expSeries (r : Nat) : Nat → Nat → Nat → Nat → Nat
  | 0, _, _, sum => sum
  | fuel + 1, n, term, sum =>
    let t := term * r / (n * fixOne)
    expSeries r fuel (n + 1) t (sum + t)

/-- e^(x ÷ 2^320) as a dyadic. -/
def expFix (x : Int) : Dy :=
  let k := x.fdiv fixLn2
  let r := (x - k * fixLn2).toNat
  { z := expSeries r 90 1 fixOne fixOne, e := k - fixBits }

/-- A finite value in fixed point, clamped to ±1,000, beyond which every function here has its limit. -/
def toFix (x : Fp) : Int :=
  match x with
  | .fin n m e =>
    if !Dy.le { z := m, e := e } { z := 1000, e := 0 } then (if n then -1000 else 1000) * (fixOne : Int)
    else
      let sh := e + fixBits
      sgn n (if 0 ≤ sh then m * 2 ^ sh.toNat else m / 2 ^ (-sh).toNat)
  | _ => 0

/-- A non-negative dyadic in fixed point. -/
def Dy.fix (d : Dy) : Nat :=
  let sh := d.e + fixBits
  if 0 ≤ sh then d.z.toNat * 2 ^ sh.toNat else d.z.toNat / 2 ^ (-sh).toNat

/-- 1 ÷ (1 + e^−x) for a fixed-point x. -/
def sigmoidFix (x : Int) : Dy :=
  if 0 ≤ x then
    let E := (expFix (-x)).fix
    { z := (fixOne * fixOne / (fixOne + E) : Nat), e := -(fixBits : Int) }
  else
    let E := expFix x
    { z := E.z * (fixOne : Int) / (fixOne + E.fix : Nat), e := E.e }

def tanhFix (x : Int) : Dy :=
  let E := (expFix (-(2 * (x.natAbs : Int)))).fix
  let q := ((fixOne - E) * fixOne / (fixOne + E) : Nat)
  { z := if x < 0 then -(q : Int) else q, e := -(fixBits : Int) }

def Dy.fp (d : Dy) : Fp := .fin (decide (d.z < 0)) d.z.natAbs d.e

/-- FP32 words in value order as integers, and back. -/
def ordOf (w : Word) : Int := if w.toNat < 0x80000000 then w.toNat else 0x80000000 - (w.toNat : Int)
def ofOrd (z : Int) : Word := if z < 0 then BitVec.ofNat 32 (0x80000000 + z.natAbs) else BitVec.ofNat 32 z.toNat

/-- Move a correctly rounded finite nonzero result by the free number of units, at most `bound` (R65). -/
def nudge (op bound : Nat) (arg w : Word) : Word :=
  match fpOfWord w with
  | .fin _ m _ =>
    if m = 0 then w
    else
      let z := ordOf w + clampI (-(bound : Int)) bound (Config.ulp op arg)
      match fpOfWord (ofOrd z) with | .fin _ _ _ => ofOrd z | _ => w
  | _ => w

def fexp (x : Word) : Word :=
  match fpOfWord x with
  | .nan => nan32
  | .inf n => if n then 0 else x
  | v => nudge 0x14 2 x (wordOfFp (expFix (toFix v)).fp)

def frecip (x : Word) : Word := nudge 0x15 2 x (fdiv fone x)

/-- Reciprocal square root: of a negative number NaN, of ±0 ±Inf. -/
def frsqrt (x : Word) : Word :=
  match fpOfWord x with
  | .nan => nan32
  | .inf n => if n then nan32 else 0
  | .fin n m e =>
    if m = 0 then wordOfFp (.inf n)
    else if n then nan32
    else
      -- value = m × 2^e with e made even; 1 ÷ √v = 2^(−e/2) ÷ √m
      let m' := if e % 2 = 0 then m else 2 * m
      let e' := if e % 2 = 0 then e else e - 1
      let r := isqrt (2 ^ 400 / m') 201 0
      nudge 0x16 2 x (wordOfFp (.fin false (2 * r + 1) (-200 - e' / 2 - 1)))

def ftanh (x : Word) : Word :=
  match fpOfWord x with
  | .nan => nan32
  | .inf n => if n then fneg fone else fone
  | .fin n m e => if m = 0 then x else nudge 0x17 4 x (wordOfFp (tanhFix (toFix (.fin n m e))).fp)

def fsigmoid (x : Word) : Word :=
  match fpOfWord x with
  | .nan => nan32
  | .inf n => if n then 0 else fone
  | v => nudge 0x18 4 x (wordOfFp (sigmoidFix (toFix v)).fp)

/-- silu(x) = x ÷ (1 + e^−x); at −Inf the spec states no value (log entry 14). -/
def fsilu (x : Word) : Word :=
  match fpOfWord x with
  | .nan => nan32
  | .inf n => if n then Config.special 0x12 x else x
  | .fin n m e =>
    if m = 0 then x else nudge 0x12 4 x (wordOfFp ((Fp.fin n m e).mul (sigmoidFix (toFix (.fin n m e))).fp))

/-- GELU in tanh form: x × sigmoid(2 √(2 ÷ π) (x + 0.044715 x³)). -/
def fgelu (x : Word) : Word :=
  match fpOfWord x with
  | .nan => nan32
  | .inf n => if n then Config.special 0x13 x else x
  | .fin n m e =>
    if m = 0 then x
    else
      let X := toFix (.fin n m e)
      let cube := X * X * X / ((fixOne : Int) * fixOne)
      let y := 2 * ((X + cube * 44715 / 1000000) * fixRoot / (fixOne : Int))
      let lim : Int := 2000 * (fixOne : Int)
      nudge 0x13 4 x (wordOfFp ((Fp.fin n m e).mul (sigmoidFix (clampI (-lim) lim y)).fp))

/-! ### Reductions (R116) -/

/-- A reduction in a fixed order that depends on the number of values alone. -/
def treeFold (f : Word → Word → Word) : Nat → List Word → Word
  | 0, l => l.headD 0
  | _, [] => 0
  | _, [x] => x
  | fuel + 1, l =>
    let n := l.length
    let k := 1 + Config.split n % (n - 1)
    f (treeFold f fuel (l.take k)) (treeFold f fuel (l.drop k))

def fsum (l : List Word) : Word := treeFold fadd l.length l
def fmaxW (a b : Word) : Word :=
  let x := fpOfWord a
  let y := fpOfWord b
  if x.isNan ∨ y.isNan then nan32 else if x.lt y then b else a
def fminW (a b : Word) : Word :=
  let x := fpOfWord a
  let y := fpOfWord b
  if x.isNan ∨ y.isNan then nan32 else if y.lt x then b else a

def fOfNat (n : Nat) : Word := wordOfFp (.ofNat n)

/-! ### Selection (R67) -/

/-- (value, index) pairs as FP32 word and 32-bit index. -/
abbrev Pair := Word × Nat

/-- p comes before q: greater value, or equal values and lower index. -/
def pairBefore (p q : Pair) : Bool :=
  let x := fpOfWord p.1
  let y := fpOfWord q.1
  y.lt x || (!x.lt y && decide (p.2 < q.2))

def insertPair (p : Pair) : List Pair → List Pair
  | [] => [p]
  | q :: qs => if pairBefore p q then p :: q :: qs else q :: insertPair p qs

/-- The k first pairs that are no NaN, padded with (−Inf, 0xFFFF_FFFF). -/
def topPairs (k : Nat) (l : List Pair) : List Pair :=
  let s := ((l.filter fun p => !(fpOfWord p.1).isNan).foldl (fun s p => insertPair p s) []).take k
  s ++ List.replicate (k - s.length) ((0xFF800000 : Word), 0xFFFFFFFF)

def Pair.bytes (p : Pair) : Bytes := u32 p.1.toNat ++ u32 p.2

/-! ### The descriptor (R69) -/

structure VDesc where
  ver : Nat
  op : Nat
  itype : Nat
  otype : Nat
  sq : Nat
  sMem : Bool
  dq : Nat
  dMem : Bool
  len : Nat
  kp : Nat
  stoch : Bool
  a : Nat
  b : Nat
  c : Nat
  dst : Nat
  imm0 : Word
  imm1 : Word
  bq : Bool

/-- The fields of an issued vector descriptor; rs2 is added to the first-operand offset (R45). -/
def vdesc (x : EngDesc) : VDesc :=
  let d := x.d
  { ver := dfield d 0 0 4, op := dfield d 1 0 8, itype := dfield d 2 0 3, otype := dfield d 2 4 3,
    sq := dfield d 3 0 3, sMem := dfield d 3 3 1 = 1, dq := dfield d 3 4 3, dMem := dfield d 3 7 1 = 1,
    len := dfield d 4 0 24, kp := dfield d 7 0 7, stoch := dfield d 7 7 1 = 1, a := dfield d 8 0 18 + x.off.toNat,
    b := dfield d 12 0 18, c := dfield d 16 0 18, dst := dfield d 20 0 18,
    imm0 := BitVec.ofNat 32 (dfield d 24 0 32), imm1 := BitVec.ofNat 32 (dfield d 28 0 32),
    bq := dfield d 30 1 1 = 1 }

/-- The codes of R63. -/
def vecOps : List Nat :=
  [0x01, 0x02, 0x03, 0x04, 0x05, 0x06, 0x07, 0x10, 0x11, 0x12, 0x13, 0x14, 0x15, 0x16, 0x17, 0x18, 0x19, 0x20, 0x21,
   0x30, 0x31, 0x40, 0x41, 0x42, 0x43]

def VDesc.isTop (d : VDesc) : Bool := d.op == 0x41 || d.op == 0x42
/-- Operations that select among FP32 or BF16 values. -/
def VDesc.selects (d : VDesc) : Bool := d.op == 0x40 || d.op == 0x41

/-- Rows operand a is made of, and the bytes of each (log entry 16 for lists and partials). -/
def VDesc.aRows (d : VDesc) : Nat × Nat :=
  if d.op = 0x30 then (d.kp, d.len * otypeBytes d.itype)
  else if d.op = 0x42 ∨ d.op = 0x43 then (1, d.len * 8)
  else (1, d.len * otypeBytes d.itype)

/-- Bytes read at `BADDR` and `CADDR`. -/
def VDesc.bBytes (d : VDesc) : Nat :=
  if [0x01, 0x02, 0x03, 0x04, 0x05, 0x10, 0x11, 0x12, 0x19].contains d.op then d.len * otypeBytes d.itype
  else if d.op = 0x30 then d.kp * 8
  else if d.op = 0x31 then 4 else 0

def VDesc.cBytes (d : VDesc) : Nat := if d.op = 0x03 ∨ d.op = 0x11 then d.len * otypeBytes d.itype else 0

/-- Operations with a second constant, which takes up the place of `BQ` (R68, R69; log entry 21). -/
def VDesc.twoImm (d : VDesc) : Bool := d.op == 0x06 || d.op == 0x43

/-- Bytes written. -/
def VDesc.outBytes (d : VDesc) : Nat :=
  if d.op = 0x20 ∨ d.op = 0x21 ∨ d.op = 0x43 then 4
  else if d.op = 0x40 then 8
  else if d.isTop then d.kp * 8
  else if d.op = 0x30 then 8 + d.len * otypeBytes d.otype
  else d.len * otypeBytes d.otype

/-- The checks of R58 on a vector descriptor, with R68's on the temperature of SAMPLE and R72's on `BQ`. -/
def VDesc.ok (d : VDesc) (s : State) (h : Nat) : Bool :=
  let a := d.aRows
  d.ver == 1 && vecOps.contains d.op
    && (if d.selects then decide (d.itype ≤ 1) else decide (d.itype ≤ 5)) && decide (d.otype ≤ 5)
    && decide (1 ≤ d.len) && decide (d.len ≤ 1048576)
    && (if d.isTop || d.op == 0x30 then decide (1 ≤ d.kp) && decide (d.kp ≤ 64) else d.kp == 0)
    && (d.twoImm || !d.bq)
    && (d.op != 0x43 || (match fpOfWord d.imm0 with | .nan => false | x => x.isZero || !x.neg?))
    && (!d.sMem || decide (d.a + a.1 * a.2 ≤ nearBytes))
    && decide (d.b + d.bBytes ≤ nearBytes) && decide (d.c + d.cBytes ≤ nearBytes)
    && (if d.dMem then decide (d.dst + d.outBytes ≤ nearBytes) else s.bound h d.dq)

/-! ### Operands and results -/

/-- Elements of a byte row as FP32 words (internal arithmetic is FP32). -/
def elemsOf (itype : Nat) : Nat → Bytes → List Word
  | 0, _ => []
  | n + 1, bs =>
    let w := otypeBytes itype
    (if itype = 0 then BitVec.ofNat 32 (leNat (bs.take 4)) else wordOfFp (fpOfElem itype (leNat (bs.take w))))
      :: elemsOf itype n (bs.drop w)

def pairsOf : Nat → Bytes → List Pair
  | 0, _ => []
  | n + 1, bs => (BitVec.ofNat 32 (fld bs 0 4), fld bs 4 4) :: pairsOf n (bs.drop 8)

/-- What an operation yields: words to narrow, or bytes as they are (with words before them). -/
structure VOut where
  raw   : Bytes := []
  words : List Word := []
  sent  : Sent := {}

/-- Sentinels of operands and of elementwise results (R106). -/
def operandSent (l : List Word) : Sent :=
  { nan := (l.filter fun w => (fpOfWord w).isNan).length, inf := (l.filter fun w => (fpOfWord w).isInf).length }

/-- NaN first arising, and overflow to Inf, in a result whose operands are given. -/
def resultSent (r : Word) (args : List Word) : Sent :=
  { nan := b2n ((fpOfWord r).isNan && !args.any fun a => (fpOfWord a).isNan),
    inf := b2n ((fpOfWord r).isInf && !args.any fun a => (fpOfWord a).isInf) }

def map1 (f : Word → Word) (a : List Word) : VOut :=
  { words := a.map f, sent := Sent.sum (operandSent a :: a.map fun x => resultSent (f x) [x]) }

def map2 (f : Word → Word → Word) (a b : List Word) : VOut :=
  { words := List.zipWith f a b,
    sent := Sent.sum (operandSent a :: operandSent b :: List.zipWith (fun x y => resultSent (f x y) [x, y]) a b) }

def zip3 {α : Type} (f : Word → Word → Word → α) : List Word → List Word → List Word → List α
  | x :: xs, y :: ys, z :: zs => f x y z :: zip3 f xs ys zs
  | _, _, _ => []

def map3 (f : Word → Word → Word → Word) (a b c : List Word) : VOut :=
  { words := zip3 f a b c,
    sent := Sent.sum (operandSent a :: operandSent b :: operandSent c :: zip3 (fun x y z => resultSent (f x y z) [x, y, z]) a b c) }

/-- Counts of a normalised vector: a NaN in a result arises there only if no operand is NaN (R106). -/
def normSent (out ops : List Word) : Sent :=
  let seen := ops.find? fun w => (fpOfWord w).isNan
  Sent.sum (operandSent ops :: out.map fun r => match seen with
    | some n => resultSent r [n]
    | none => resultSent r [])

/-- RMSNORM (R63). -/
def rmsnorm (eps : Word) (a b : List Word) : VOut :=
  let r := frsqrt (fadd (fdiv (fsum (a.map fun x => fmul x x)) (fOfNat a.length)) eps)
  let out := List.zipWith (fun x y => fmul (fmul x r) y) a b
  { words := out, sent := normSent out (eps :: a ++ b) }

/-- LAYERNORM (R63). -/
def layernorm (eps : Word) (a b c : List Word) : VOut :=
  let mean := fdiv (fsum a) (fOfNat a.length)
  let var := fdiv (fsum (a.map fun x => let d := fsub x mean; fmul d d)) (fOfNat a.length)
  let r := frsqrt (fadd var eps)
  let out := zip3 (fun x y z => ffma (fmul (fsub x mean) r) y z) a b c
  { words := out, sent := normSent out (eps :: a ++ b ++ c) }

/-- ROPE: pairs of a turned by the (cos, sin) pairs of b, each result with the count it gives rise to. The
result of a last element without a partner is not stated (log entry 105). -/
def ropePairs : List Word → List Word → List (Word × Sent)
  | x :: y :: xs, c :: t :: cs =>
    let p := fsub (fmul x c) (fmul y t)
    let q := fadd (fmul x t) (fmul y c)
    (p, resultSent p [x, y, c, t]) :: (q, resultSent q [x, y, c, t]) :: ropePairs xs cs
  | [x], _ => [(Config.special 0x19 x, {})]
  | _, _ => []

/-- SMAX_MERGE (R66): the merged (m, s) and o. A partial with m = −Inf contributes nothing; any NaN m or s
makes every output NaN, counted once. -/
def smaxMerge (len : Nat) (ms : List Pair) (os : List (List Word)) : VOut :=
  let m := ms.map (·.1)
  let sv := ms.map fun p => BitVec.ofNat 32 p.2
  let seen := operandSent (m ++ sv ++ os.flatten)
  if (m ++ sv).any fun w => (fpOfWord w).isNan then
    { raw := u32 nan32.toNat ++ u32 nan32.toNat, words := List.replicate len nan32, sent := seen }
  else
    let top := treeFold fmaxW m.length m
    if fpOfWord top = .inf true then
      { raw := u32 0xFF800000 ++ u32 0, words := List.replicate len 0, sent := seen }
    else
      let live := (List.range m.length).filter fun i => decide (fpOfWord (m.getD i 0) ≠ .inf true)
      let w := fun i => fexp (fsub (m.getD i 0) top)
      let s := fsum (live.map fun i => fmul (sv.getD i 0) (w i))
      let col := fun j => live.map fun i => (os.getD i []).getD j 0
      let o := (List.range len).map fun j => fsum (List.zipWith (fun x i => fmul x (w i)) (col j) live)
      { raw := u32 top.toNat ++ u32 s.toNat, words := o,
        sent := Sent.sum (seen :: resultSent s (m ++ sv) :: (List.range len).map fun j => resultSent (o.getD j 0) (m ++ col j)) }

/-- Shortest prefix whose cumulative weight reaches p, with the cumulative weights. -/
def prefixTo (p : Word) : List Word → Word → List Word
  | [], _ => []
  | w :: ws, acc =>
    let c := fadd acc w
    if (fpOfWord c).lt (fpOfWord p) then c :: prefixTo p ws c else [c]

/-- SAMPLE (R68): the index drawn. Where no kept cumulative weight exceeds the value the spec states no
result: a free choice among the kept pairs (log entry 17). -/
def samplePair (t p : Word) (u : Nat) (free : Nat) (l : List Pair) : Nat :=
  if (fpOfWord t).isZero then (l.headD (0, 0)).2
  else
    let v0 := (l.headD (0, 0)).1
    let w := l.map fun x => fexp (fdiv (fsub x.1 v0) t)
    let z := fsum w
    let cum := prefixTo p (w.map fun x => fdiv x z) 0
    let value : Fp := .fin false u (-24)
    match cum.findIdx? fun c => value.lt (fpOfWord c) with
    | some i => (l.getD i (0, 0)).2
    | none => (l.getD (Config.choice free % cum.length) (0, 0)).2

/-- The operation on its operands: a as rows of words, b and c as words, lists as pairs. -/
def vecRun (d : VDesc) (rows : List Bytes) (bb cb : Bytes) (u free : Nat) : VOut :=
  let a := elemsOf d.itype d.len (rows.headD [])
  let b := elemsOf d.itype d.len bb
  let c := elemsOf d.itype d.len cb
  let pairs := (List.range a.length).map fun i => ((a.getD i 0, (d.imm0.toNat + i) % 0x100000000) : Pair)
  match d.op with
  | 0x01 => map2 fadd a b
  | 0x02 => map2 fmul a b
  | 0x03 => map3 ffma a b c
  | 0x04 => map2 fmaxW a b
  | 0x05 => map2 fminW a b
  | 0x06 =>
    { words := a.map fun x => ffma x d.imm0 d.imm1,
      sent := Sent.sum (operandSent (d.imm0 :: d.imm1 :: a) :: a.map fun x => resultSent (ffma x d.imm0 d.imm1) [x, d.imm0, d.imm1]) }
  | 0x07 => map1 (fun x => x) a
  | 0x10 => rmsnorm d.imm0 a b
  | 0x11 => layernorm d.imm0 a b c
  | 0x12 => map2 (fun x y => fmul (fsilu x) y) a b
  | 0x13 => map1 fgelu a
  | 0x14 => map1 fexp a
  | 0x15 => map1 frecip a
  | 0x16 => map1 frsqrt a
  | 0x17 => map1 ftanh a
  | 0x18 => map1 fsigmoid a
  | 0x19 =>
    let r := ropePairs a b
    { words := r.map (·.1), sent := Sent.sum (operandSent (a ++ b) :: r.map (·.2)) }
  | 0x20 => { raw := u32 (fsum a).toNat, sent := Sent.sum [operandSent a, resultSent (fsum a) a] }
  | 0x21 => { raw := u32 (treeFold fmaxW a.length a).toNat, sent := operandSent a }
  | 0x30 => smaxMerge d.len (pairsOf d.kp bb) (rows.map (elemsOf d.itype d.len))
  | 0x31 =>
    let sw : Word := BitVec.ofNat 32 (fld bb 0 4)
    if (fpOfWord sw).isZero then { words := a.map fun _ => 0, sent := operandSent a }
    else
      { words := a.map fun x => fdiv x sw,
        sent := Sent.sum (operandSent (sw :: a) :: a.map fun x => resultSent (fdiv x sw) [x, sw]) }
  | 0x40 => { raw := (topPairs 1 pairs).flatMap Pair.bytes, sent := operandSent a }
  | 0x41 => { raw := (topPairs d.kp pairs).flatMap Pair.bytes, sent := operandSent a }
  | 0x42 =>
    let l := pairsOf d.len (rows.headD [])
    { raw := (topPairs d.kp l).flatMap Pair.bytes, sent := operandSent (l.map (·.1)) }
  | _ =>
    let l := pairsOf d.len (rows.headD [])
    { raw := u32 (samplePair d.imm0 d.imm1 u free l), sent := operandSent (l.map (·.1)) }

/-- Write the result at `DADDR`, or as one row of tokens (R121). -/
def State.vecWrite (s : State) (h : Nat) (d : VDesc) (o : VOut) : State :=
  let b := State.narrowAll h 5 d.otype d.stoch o.words s
  -- SMAX_MERGE counts NaN once per merge (R106)
  let n := o.sent.add b.2.1
  let bs := o.raw ++ b.1
  let osz := if o.words = [] then 4 else otypeBytes d.otype
  let c := b.2.2.core h
  let g := c.engine 4
  let s := if d.dMem then b.2.2.store .engine 0 (nearBase h + d.dst) bs
           else b.2.2.setCore h (c.setEngine 4 { g with wb := g.wb ++ rowTokens osz (b.2.2.epochOf (h / 32)) (bs.length + 1) bs })
  s.sentinels h 4 (if d.op = 0x30 then { n with nan := Nat.min 1 n.nan } else n)

/-- SAMPLE at a temperature other than 0 draws from stream 5 (R68). -/
def VDesc.draws (d : VDesc) : Bool := d.op == 0x43 && !(fpOfWord d.imm0).isZero

/-- The rows of the first operand: near-store bytes, or what the input queue has given (R69). -/
def State.vecRows (s : State) (h : Nat) (d : VDesc) : List Bytes :=
  if d.sMem then (List.range d.aRows.1).map fun i => memRead s.mem (nearBase h + d.a + i * d.aRows.2) d.aRows.2
  else ((s.core h).engine 4).rows

/-- What a vector descriptor yields on the operands that stand in state s. -/
def State.vecYield (s : State) (h : Nat) (d : VDesc) : VOut :=
  vecRun d (s.vecRows h d) (memRead s.mem (nearBase h + d.b) d.bBytes) (memRead s.mem (nearBase h + d.c) d.cBytes)
    (if d.draws then ((s.core h).drawUnit 5).1.toNat / 256 else 0) s.free

/-- The state in which the results are narrowed: after SAMPLE's draw. -/
def State.afterDraw (s : State) (h : Nat) (d : VDesc) : State :=
  if d.draws then (s.setCore h ((s.core h).drawUnit 5).2).draw else s

/-- The vector engine takes, or goes on with, the descriptor at the head of its queue. -/
def State.vectorStep (s : State) (h : Nat) : State :=
  match ((s.core h).engine 4).queue with
  | [] => s
  | x :: _ =>
    let d := vdesc x
    let g := (s.core h).engine 4
    if g.busy then s
    else
      let s := s.setTaken h 4
      match (if d.sMem then Gather.full s else State.gather h 4 d.sq d.aRows.2 d.aRows.1 gatherFuel s) with
      | .bad t => t.descFault h 4
      | .dry t => t
      | .full t =>
        let u := ((t.afterDraw h d).vecWrite h d (t.vecYield h d)).setBusy h 4
        if d.dMem then u else State.drain h 4 d.dq 2048 u

/-- The vector engine's head descriptor has operation `op`. -/
def State.vecHeadIs (s : State) (h op : Nat) : Bool :=
  match ((s.core h).engine 4).queue with
  | [] => false
  | x :: _ =>
    (vdesc x).op == op

/-- One vector row: the engine runs and its head descriptor is this operation. -/
def State.vecRow (s : State) (h op : Nat) : State := onlyIf (s.engineRuns h && s.vecHeadIs h op) s (s.vectorStep h)

def execAdd (h : Nat) (s : State) : Host.Outcome State Fault Refusal := answer s (s.vecRow h 0x01)
def execMul (h : Nat) (s : State) : Host.Outcome State Fault Refusal := answer s (s.vecRow h 0x02)
def execFma (h : Nat) (s : State) : Host.Outcome State Fault Refusal := answer s (s.vecRow h 0x03)
def execMax (h : Nat) (s : State) : Host.Outcome State Fault Refusal := answer s (s.vecRow h 0x04)
def execMin (h : Nat) (s : State) : Host.Outcome State Fault Refusal := answer s (s.vecRow h 0x05)
def execAffine (h : Nat) (s : State) : Host.Outcome State Fault Refusal := answer s (s.vecRow h 0x06)
def execCast (h : Nat) (s : State) : Host.Outcome State Fault Refusal := answer s (s.vecRow h 0x07)
def execRmsnorm (h : Nat) (s : State) : Host.Outcome State Fault Refusal := answer s (s.vecRow h 0x10)
def execLayernorm (h : Nat) (s : State) : Host.Outcome State Fault Refusal := answer s (s.vecRow h 0x11)
def execSiluMul (h : Nat) (s : State) : Host.Outcome State Fault Refusal := answer s (s.vecRow h 0x12)
def execGelu (h : Nat) (s : State) : Host.Outcome State Fault Refusal := answer s (s.vecRow h 0x13)
def execExp (h : Nat) (s : State) : Host.Outcome State Fault Refusal := answer s (s.vecRow h 0x14)
def execRecip (h : Nat) (s : State) : Host.Outcome State Fault Refusal := answer s (s.vecRow h 0x15)
def execRsqrt (h : Nat) (s : State) : Host.Outcome State Fault Refusal := answer s (s.vecRow h 0x16)
def execTanh (h : Nat) (s : State) : Host.Outcome State Fault Refusal := answer s (s.vecRow h 0x17)
def execSigmoid (h : Nat) (s : State) : Host.Outcome State Fault Refusal := answer s (s.vecRow h 0x18)
def execRope (h : Nat) (s : State) : Host.Outcome State Fault Refusal := answer s (s.vecRow h 0x19)
def execSum (h : Nat) (s : State) : Host.Outcome State Fault Refusal := answer s (s.vecRow h 0x20)
def execMaxred (h : Nat) (s : State) : Host.Outcome State Fault Refusal := answer s (s.vecRow h 0x21)
def execSmaxMerge (h : Nat) (s : State) : Host.Outcome State Fault Refusal := answer s (s.vecRow h 0x30)
def execSmaxFinal (h : Nat) (s : State) : Host.Outcome State Fault Refusal := answer s (s.vecRow h 0x31)
def execArgmax (h : Nat) (s : State) : Host.Outcome State Fault Refusal := answer s (s.vecRow h 0x40)
def execTopk (h : Nat) (s : State) : Host.Outcome State Fault Refusal := answer s (s.vecRow h 0x41)
def execTopkMerge (h : Nat) (s : State) : Host.Outcome State Fault Refusal := answer s (s.vecRow h 0x42)
def execSample (h : Nat) (s : State) : Host.Outcome State Fault Refusal := answer s (s.vecRow h 0x43)

end Sys2Proof.Machine
end

