-- ==== Sys2Proof/Machine/QueueExt.lean ====
section
/-! DEFINITION. The queue extension of the scalar core (R45 to R50, R129): what each instruction does
at the pc, when it waits, and when it halts the petal. -/

namespace Sys2Proof.Machine

/-- What an instruction of the queue extension comes to: it is done (with its effect), it waits under
one of R47's counters (0 IN, 1 OUT, 2 ENG), or it halts the petal. -/
inductive QRes where
  | done (s : State)
  | wait (on : Nat)
  | halt (cause : Nat)
  | badDesc (e : Nat)

/-- rd of hart h becomes v. -/
def State.setXreg (s : State) (h rd : Nat) (v : Word) : State := s.setCore h ((s.core h).setX rd v)

/-- Q.TAG (R45): waits while the queue is empty or an engine's (R46). -/
def opTag (s : State) (h rd qi : Nat) : QRes :=
  let c := s.core h
  if c.heldIn qi then .wait 0
  else match (c.inQ qi).head with
    | none => .wait 0
    | some t => .done (s.setXreg h rd (t.tag.setWidth 32))

/-- Q.RDW (R45). -/
def opRdw (s : State) (h rd qi w : Nat) : QRes :=
  let c := s.core h
  if c.heldIn qi then .wait 0
  else match (c.inQ qi).head with
    | none => .wait 0
    | some t => .done (s.setXreg h rd ((t.payload >>> (32 * w)).setWidth 32))

/-- Q.POP (R45). -/
def opPop (s : State) (h qi : Nat) : QRes :=
  let c := s.core h
  if c.heldIn qi then .wait 0
  else match (c.inQ qi).head with
    | none => .wait 0
    | some _ => .done (s.popHead h qi)

/-- 32 bits of a 512-bit staging area replaced at word w. -/
def setWord512 (v : BitVec 512) (w : Nat) (x : Word) : BitVec 512 :=
  BitVec.ofNat 512 (setBits v.toNat (32 * w) 32 x.toNat)

/-- Q.WRW (R45): never waits. -/
def opWrw (s : State) (h rs1 qo w : Nat) : QRes :=
  let c := s.core h
  let o := c.outQ qo
  .done (s.setCore h (c.setOutQ qo { o with stage := setWord512 o.stage w (c.xreg rs1) }))

/-- Q.PUSH (R45, R120, R123): an unbound queue is an access fault; the tag's `EPOCH` is the cluster's. -/
def opPush (s : State) (h rs1 qo : Nat) : QRes :=
  let c := s.core h
  if !s.bound h qo then .halt causeAccess
  else if c.heldOut qo || !s.hasCredit h qo then .wait 1
  else
    let o := c.outQ qo
    let t : Token := Token.restamp { tag := (c.xreg rs1).setWidth 16, payload := o.stage } (s.epochOf (h / 32))
    let s := s.enqueue h qo t
    let c := s.core h
    .done (s.setCore h (c.setOutQ qo { c.outQ qo with stage := 0 }))

/-- Q.FWD (R45): the head moves whole, with its tag. The input side is waited on first (R47). -/
def opFwd (s : State) (h qi qo : Nat) : QRes :=
  let c := s.core h
  if !s.bound h qo then .halt causeAccess
  else if c.heldIn qi then .wait 0
  else match (c.inQ qi).head with
    | none => .wait 0
    | some t =>
      if c.heldOut qo || !s.hasCredit h qo then .wait 1
      else .done ((s.popHead h qi).enqueue h qo t)

/-- Q.STAT (R45, R124, R127): occupancy counts real tokens; the head may be a virtual marker. -/
def opStat (s : State) (h rd q d : Nat) : QRes :=
  let c := s.core h
  let occ := if d = 0 then (c.inQ q).tokens.length else (c.outQ q).tokens.length
  let head := if d = 0 then (c.inQ q).head else (c.outQ q).tokens.head?
  let v := match head with | none => occ | some t => occ + t.kind * 32 + 256
  .done (s.setXreg h rd (BitVec.ofNat 32 v))

/-- LC.SET (R45, R129): the limit applies from the next pop. -/
def opLcSet (s : State) (h qi n rs1 : Nat) : QRes :=
  let c := s.core h
  .done (s.setCore h (c.setPet (c.pet.setLimit qi n (c.xreg rs1).toNat)))

/-- LC.RD (R129): the live count. -/
def opLcRd (s : State) (h rd qi n : Nat) : QRes :=
  .done (s.setXreg h rd (BitVec.ofNat 32 ((s.core h).pet.cnt qi n)))

/-- Descriptor i of the running petal's table. -/
def Petal.descAt (p : Petal) (i : Nat) : BitVec 256 :=
  BitVec.ofNat 256 (leNat ((List.range 32).map fun j => tget 0 p.desc (32 * i + j)))

/-- A descriptor passes the checks its engine makes at issue (R58). -/
def EngDesc.ok (x : EngDesc) (s : State) (h e : Nat) : Bool :=
  if e = 4 then (vdesc x).ok s h else (mdesc x).ok s h ((mdesc x).bq && s.leads h)

/-- E.ISSUE (R45, R50): copies the descriptor; waits, in the ENG counter, for room (R47). One that fails its
checks is not queued, and the core halts (R58). -/
def opIssue (s : State) (h e rs1 rs2 : Nat) : QRes :=
  let c := s.core h
  let g := c.engine e
  if 2 ≤ g.queue.length then .wait 2
  else
    let d : EngDesc := { d := c.pet.descAt ((c.xreg rs1).toNat % 16), off := c.xreg rs2 }
    if d.ok s h e then .done (s.setCore h (c.setEngine e { g with queue := g.queue ++ [d] })) else .badDesc e

/-- E.WAIT (R45): waits while any engine in the mask is busy. -/
def opWait (s : State) (h : Nat) (m : BitVec 5) : QRes :=
  if Nat.land (s.busyMask h) m.toNat ≠ 0 then .wait 2 else .done s

/-- E.STAT (R45). -/
def opEStat (s : State) (h rd : Nat) : QRes :=
  let c := s.core h
  .done (s.setXreg h rd (BitVec.ofNat 32 (s.busyMask h + c.lastTag.toNat * 256)))

/-- P.YIELD (R45): the core stands at its yield point until the sequencer resumes it. -/
def opYield (s : State) (h : Nat) : State :=
  let c := s.core h
  s.setCore h { c with yielded := true, wait := some .yield, waitOn := 2 }

/-- RND (R45, R101): 32 bits of the scalar stream. -/
def opRnd (s : State) (h rd : Nat) : QRes :=
  let r := (s.core h).drawUnit 0
  .done (s.setCore h (r.2.setX rd r.1))

/-- The instruction at the pc retires: the pc passes its len bytes and `minstret` counts. -/
def State.retire (s : State) (h len : Nat) : State :=
  let c := s.core h
  s.setCore h (c.setPet { c.pet with pc := c.pet.pc + BitVec.ofNat 32 len, minstret := c.pet.minstret + 1 })

/-- Carry a result out: done retires the four-byte instruction, a wait holds the core at it, a halt
ends the petal (R44, R47). -/
def State.settleOp (s : State) (h : Nat) (op : WaitOp) : QRes → State
  | .done t => (t.setCore h { t.core h with wait := none }).retire h 4
  | .wait on => s.setCore h { s.core h with wait := some op, waitOn := on }
  | .halt cause => s.halt h cause (s.core h).pc
  | .badDesc e => s.halt h causeDesc (s.core h).pc (some e)

/-- Try the instruction a core waits at, or starts. -/
def State.runWait (s : State) (h : Nat) (op : WaitOp) : State :=
  match op with
  | .tag rd qi => s.settleOp h op (opTag s h rd qi)
  | .rdw rd qi w => s.settleOp h op (opRdw s h rd qi w)
  | .pop qi => s.settleOp h op (opPop s h qi)
  | .push rs1 qo => s.settleOp h op (opPush s h rs1 qo)
  | .fwd qi qo => s.settleOp h op (opFwd s h qi qo)
  | .issue e rs1 rs2 => s.settleOp h op (opIssue s h e rs1 rs2)
  | .ewait m => s.settleOp h op (opWait s h m)
  | .yield => s

/-- An instruction that never waits. -/
def State.runDone (s : State) (h : Nat) (r : QRes) : State :=
  match r with
  | .done t => t.retire h 4
  | .wait _ => s
  | .halt cause => s.halt h cause (s.core h).pc
  | .badDesc e => s.halt h causeDesc (s.core h).pc (some e)

/-- Hart h can start an instruction: it may run and waits at none. -/
def State.ready (s : State) (h : Nat) : Bool := s.mayRun h && (s.core h).wait.isNone

def execQTag (h rd qi : Nat) (s : State) : Host.Outcome State Fault Refusal :=
  answer s (onlyIf (s.ready h) s (s.runWait h (.tag rd qi)))

def execQRdw (h rd qi w : Nat) (s : State) : Host.Outcome State Fault Refusal :=
  answer s (onlyIf (s.ready h) s (s.runWait h (.rdw rd qi w)))

def execQPop (h qi : Nat) (s : State) : Host.Outcome State Fault Refusal :=
  answer s (onlyIf (s.ready h) s (s.runWait h (.pop qi)))

def execQWrw (h rs1 qo w : Nat) (s : State) : Host.Outcome State Fault Refusal :=
  answer s (onlyIf (s.ready h) s (s.runDone h (opWrw s h rs1 qo w)))

def execQPush (h rs1 qo : Nat) (s : State) : Host.Outcome State Fault Refusal :=
  answer s (onlyIf (s.ready h) s (s.runWait h (.push rs1 qo)))

def execQFwd (h qi qo : Nat) (s : State) : Host.Outcome State Fault Refusal :=
  answer s (onlyIf (s.ready h) s (s.runWait h (.fwd qi qo)))

def execQStat (h rd q d : Nat) (s : State) : Host.Outcome State Fault Refusal :=
  answer s (onlyIf (s.ready h) s (s.runDone h (opStat s h rd q d)))

def execLcSet (h qi n rs1 : Nat) (s : State) : Host.Outcome State Fault Refusal :=
  answer s (onlyIf (s.ready h) s (s.runDone h (opLcSet s h qi n rs1)))

def execLcRd (h rd qi n : Nat) (s : State) : Host.Outcome State Fault Refusal :=
  answer s (onlyIf (s.ready h) s (s.runDone h (opLcRd s h rd qi n)))

def execEIssue (h e rs1 rs2 : Nat) (s : State) : Host.Outcome State Fault Refusal :=
  answer s (onlyIf (s.ready h) s (s.runWait h (.issue e rs1 rs2)))

def execEWait (h : Nat) (m : BitVec 5) (s : State) : Host.Outcome State Fault Refusal :=
  answer s (onlyIf (s.ready h) s (s.runWait h (.ewait m)))

def execEStat (h rd : Nat) (s : State) : Host.Outcome State Fault Refusal :=
  answer s (onlyIf (s.ready h) s (s.runDone h (opEStat s h rd)))

def execPYield (h : Nat) (s : State) : Host.Outcome State Fault Refusal :=
  answer s (onlyIf (s.ready h) s (opYield s h))

def execRnd (h rd : Nat) (s : State) : Host.Outcome State Fault Refusal :=
  answer s (onlyIf (s.ready h) s (s.runDone h (opRnd s h rd)))

/-- CORE_WAIT_RELEASED (R47): the condition the core waits on no longer holds, and its instruction is
carried out; one whose condition still holds goes on waiting. A yielded core is resumed by the
sequencer, not here. -/
def execCoreWaitReleased (h : Nat) (s : State) : Host.Outcome State Fault Refusal :=
  answer s (match (s.core h).wait with
    | none => s
    | some op => onlyIf (s.mayRun h) s (s.runWait h op))

end Sys2Proof.Machine
end

