-- ==== Sys2Proof/Machine/Tokens.lean ====
section
/-! DEFINITION. How tokens stand and move between queues: what a binding word leads to (R123), inbound
records and their balancing queues (R133, R139, R140), steering-unit inputs (R130 to R132), packets of
the packet service (R126), credits on their way back (R133), and the discards of R147 and R154. -/

namespace Sys2Proof.Machine

/-! ### Resident table (R286) -/

/-- An entry nothing has written: `EVER` 1. -/
def residentFree : BitVec 64 := 0x1000000000000000

def State.resEntry (s : State) (i : Nat) : Nat := (tget residentFree s.resident i).toNat
def State.setRes (s : State) (i : Nat) (v : BitVec 64) : State := { s with resident := tset residentFree s.resident i v }

/-- Index of the valid entry of an EID. -/
def State.resFind (s : State) (eid : BitVec 24) : Option Nat :=
  (s.resident.find? fun e => decide (bits e.2.toNat 0 24 = eid.toNat) && bitOf e.2.toNat 24).map (·.1)

/-- Lowest free entry. -/
def State.resSlot (s : State) : Option Nat := (List.range 1024).find? fun i => !bitOf (s.resEntry i) 24

/-- The EID is a memory endpoint of this panel. -/
def State.memEndpoint (s : State) (eid : BitVec 24) : Bool :=
  match s.resFind eid with | none => false | some i => decide (bits (s.resEntry i) 26 2 = 1)

def isAttention (eid : BitVec 24) : Bool := decide (0xFFFFC0 ≤ eid.toNat) && decide (eid.toNat < 0xFFFFD8)

/-! ### Where a binding leads -/

inductive Dest where
  | none
  | queue (hart q : Nat)
  | record (part i : Nat)
  | steer (cluster unit input : Nat)
  | packets (eid : BitVec 24)
  deriving DecidableEq, Repr

/-- The next stage of a binding word of cluster c (R123, R124). -/
def State.destOf (s : State) (c : Nat) (w : Word) : Dest :=
  match bindKind w with
  | 1 => .queue (c * 32 + bindCore w) (bindQueue w)
  | 2 => match s.partOf c with
    | none => .none
    | some p => match s.part p with
      | none => .none
      | some q => match q.records.findIdx? (fun r => r.circuit && decide (r.id.toNat = bindCircuit w)) with
        | none => .none
        | some i => .record p i
  | 3 => .steer c (bindUnit w) (bindInput w)
  | 4 => .packets (bindEid w)
  | _ => .none

/-- The next stage of output queue qo of hart h. -/
def State.outDest (s : State) (h qo : Nat) : Dest := s.destOf (h / 32) ((s.core h).pet.outWord qo)

/-- Tokens move in cluster c: its partition is not frozen and it is not paused. -/
def State.flows (s : State) (c : Nat) : Bool :=
  !s.power.paused.contains c && match s.partOf c with | none => true | some p => !s.frozen p

/-- Input queue qi of hart h has a free place. -/
def State.room (s : State) (h qi : Nat) : Bool := decide (((s.core h).inQ qi).tokens.length < queueDepth)

/-! ### Inbound records -/

def State.inbound (s : State) (p i : Nat) : Option Inbound := (s.part p).bind fun q => q.records[i]?

def State.setInbound (s : State) (p i : Nat) (r : Inbound) : State := s.modPart p fun q => { q with records := q.records.set i r }

def Inbound.cluster (r : Inbound) : Nat := r.consHart / 32

/-- A token lands at record i of partition p. Inside a region one behind the epoch is dropped and counted (R152). An open port
classes it on arrival: one behind is dropped and counted, and a current mark is removed (R150). -/
def State.landOn (s : State) (p i : Nat) (t : Token) : State :=
  match s.inbound p i with
  | none => s
  | some r =>
    let mark := t.kind == kEpochMark
    let x := if r.boundary then r.expect.getD t.epoch else s.epochOf r.cluster
    if r.boundary && r.closed then s.setInbound p i { r with land := r.land ++ [t] }
    else
      let r := if r.boundary then { r with expect := some x, dropEp := if mark then none else r.dropEp } else r
      if behind t.epoch x then (s.setInbound p i r).count (s.cluReg r.cluster 0x854) 1
      else if r.boundary && mark && t.epoch == x then s.setInbound p i r
      else s.setInbound p i { r with land := r.land ++ [t] }

/-- A circuit's unit leaves router b by its local port (R242): it lands at the circuit's record of that cluster. A partition in reset loses
its units (R258); a unit of a circuit that does not end here is discarded (R244). -/
def State.landUnit (s : State) (b : Nat) (u : BitVec 552) : State :=
  let lost := s.count (fabBase b + 8) 1
  match s.blkCluster b with
  | none => lost
  | some c => match s.partOf c with
    | none => lost
    | some p => match s.part p with
      | none => lost
      | some q =>
        match q.records.findIdx? (fun r => r.circuit && decide (r.id.toNat = unitCirc u) && decide (r.cluster = c)) with
        | none => lost
        | some i => s.landOn p i (unitToken u)

/-- The partition of the cluster at router b is in an ABSORB reset: it discards circuit units that reach it (R258, R405). -/
def State.routerResets (s : State) (b : Nat) : Bool :=
  match (s.blkCluster b).bind s.partOf with
  | none => false
  | some p => match s.part p with
    | none => false
    | some q => match q.reset with | none => false | some r => r.absorb

/-- A circuit unit stands at an input port of router b in a frame cycle and goes its way inside the die (R242, R244, R254). -/
def State.carry (s : State) (b port cycle lane : Nat) (u : BitVec 552) : State :=
  if s.routerResets b then s
  else
    let r := s.circWay lane (unitCirc u) (unitLate u) 4 b port cycle
    let s := r.1.foldl (fun s p => s.count64 (portReg p 8) 1) s
    match r.2 with
    | .lost x => s.count (fabBase x + 8) 1
    | .lands x => s.landUnit x u
    | .seam out cyc => s.takeSlot out cyc lane u
    | .late out => s.joinLate out lane u

/-- A token of a circuit enters the fabric at the local port of cluster c's router, in the circuit's next slot (R235, R242). -/
def State.enterCircuit (s : State) (c circ : Nat) (t : Token) : State :=
  match s.nextSlot (s.blk c) circ with
  | none => s
  | some (cycle, lane) => s.carry (s.blk c) 4 cycle lane (circuitUnit circ t)

/-- Tokens of record r's loop that have not been popped: on the circuit's way, and in the record's own cluster. -/
def State.loopHolds (s : State) (r : Inbound) : Nat :=
  (match r.circuit, s.partOf r.cluster with | true, some p => s.airborne p r.id.toNat | _, _ => 0)
    + r.land.length + r.bal.length + ((s.core r.consHart).inQ r.consQ).tokens.length

/-- Record r's loop has a free place for one more token of a steering output, or for a mark (R133). -/
def State.loopRoom (s : State) (r : Inbound) : Bool := decide (s.loopHolds r < queueDepth + r.b + r.d)

/-- A mark takes a credit of the loop it is placed on: the producer's queue counts it, where its running petal binds it there. -/
def State.chargeLoop (s : State) (p i : Nat) : State :=
  match s.inbound p i with
  | none => s
  | some r =>
    if s.outDest r.prodHart r.prodQ = .record p i then
      let c := s.core r.prodHart
      let o := c.outQ r.prodQ
      s.setCore r.prodHart (c.setOutQ r.prodQ { o with out := o.out + 1 })
    else s

/-- Record r's loop has a credit for a mark, and its circuit a slot. -/
def State.markGoes (s : State) (r : Inbound) : Bool := s.loopRoom r && s.mayEnter (s.blk (r.prodHart / 32)) r.id.toNat

/-- The sequencer places a mark on record i's circuit (R155): it leaves once the loop has a credit for it (R134). -/
def State.placeMark (s : State) (p i : Nat) (m : Token) : State :=
  match s.inbound p i with
  | none => s
  | some r =>
    if r.marks = [] ∧ s.markGoes r then (s.chargeLoop p i).enterCircuit (r.prodHart / 32) r.id.toNat m
    else s.setInbound p i { r with marks := r.marks ++ [m] }

/-- Panel addresses of the payload and the tag of place k of record r's balancing queue (R139). An area that runs past the end of cluster
memory is UNPREDICTABLE within the cluster; in the model it goes on at its start (log entry 27). -/
def Inbound.balPlace (r : Inbound) (k : Nat) : Nat × Nat :=
  (sramBase r.cluster + (r.balOff + 64 * k) % 0x800000, sramBase r.cluster + (alignUp (r.balOff + 64 * r.b) 512 + 2 * k) % 0x800000)

/-- The oldest token of record r's balancing queue, as cluster memory holds it (R139). -/
def State.balHead (s : State) (r : Inbound) : Token :=
  let a := r.balPlace ((r.balAt + r.b - r.bal.length) % r.b)
  { tag := BitVec.ofNat 16 (leNat (memRead s.mem a.2 2)), payload := bytesPayload (memRead s.mem a.1 64) }

/-- A token enters the balancing queue of record i: its bytes go to the next place in cluster memory, tags
after the payloads, and the spill counts (R139). An END_STREAM releases what a gated queue has gathered
(R140). -/
def State.intoBal (s : State) (p i : Nat) (r : Inbound) (t : Token) : State :=
  let a := r.balPlace r.balAt
  let s := s.poke a.1 (payloadBytes t.payload)
  let s := s.poke a.2 (natLe 2 t.tag.toNat)
  let s := (s.stir r.cluster).count64 (s.cluReg r.cluster 0x878) 1
  let fin := t.kind == kEndStream
  s.setInbound p i {
    r with
    bal := r.bal ++ [t], balAt := (r.balAt + 1) % r.b, admitted := r.admitted || fin,
    released := if fin then r.bal.length + 1 else r.released }

/-- A token that record i admits goes to its balancing queue, or straight to its input queue. -/
def State.takeIn (s : State) (p i : Nat) (r : Inbound) (t : Token) : State :=
  if 0 < r.b then s.intoBal p i r t
  else (s.setInbound p i { r with admitted := r.admitted || t.kind == kEndStream }).arriveIn r.consHart r.consQ t

/-- Record r can take a token in: its balancing queue, or its input queue where it has none, has room. -/
def State.canTake (s : State) (r : Inbound) : Bool :=
  if 0 < r.b then decide (r.bal.length < r.b) else s.room r.consHart r.consQ

/-- The balancing queue of r can pass its head on (R140). -/
def State.canPass (s : State) (r : Inbound) : Bool :=
  r.bal ≠ [] && s.room r.consHart r.consQ && (!r.gated || decide (0 < r.released))

/-- Record r without what its gated queue has gathered and no END_STREAM has closed, and how many tokens those were (R140). -/
def Inbound.ungathered (r : Inbound) : Inbound × Nat :=
  let n := r.bal.length - r.released
  ({ r with bal := r.bal.take r.released, balAt := (r.balAt + r.b - n % r.b) % r.b }, n)

/-- One token of record i moves on: a mark that waits for credit enters its circuit; else one goes from the balancing queue to the input queue if
it can, else from a landing position of a record inside the region, where an EPOCH_MARK goes no further (R150). A boundary port's
head moves under R150. -/
def State.moveRecord (s : State) (p i : Nat) : State :=
  match s.inbound p i with
  | none => s
  | some r =>
    if !s.flows r.cluster then s
    else match r.marks with
    | m :: ms =>
      if s.markGoes r then ((s.setInbound p i { r with marks := ms }).chargeLoop p i).enterCircuit (r.prodHart / 32) r.id.toNat m else s
    | [] =>
    if s.canPass r then
      (s.setInbound p i { r with bal := r.bal.drop 1, released := r.released - 1 }).arriveIn r.consHart r.consQ (s.balHead r)
    else if r.boundary then s
    else match r.land with
      | [] => s
      | t :: ts =>
        if behind t.epoch (s.epochOf r.cluster) then
          (s.setInbound p i { r with land := ts }).count (s.cluReg r.cluster 0x854) 1
        else if t.kind = kEpochMark then s.setInbound p i { r with land := ts }
        else if s.canTake r then s.takeIn p i { r with land := ts } t
        else s

/-! ### Steering units (R130 to R132) -/

def Cluster.unit (c : Cluster) (u : Nat) : Steer := tget {} c.steer u
def Cluster.setUnit (c : Cluster) (u : Nat) (v : Steer) : Cluster := { c with steer := tset {} c.steer u v }
def Steer.input (x : Steer) (i : Nat) : List Token := tget [] x.inputs i
def Steer.setInput (x : Steer) (i : Nat) (l : List Token) : Steer := { x with inputs := tset [] x.inputs i l }
def Steer.output (x : Steer) (o : Nat) : List (Token × BitVec 24) := tget [] x.outputs o
def Steer.setOutput (x : Steer) (o : Nat) (l : List (Token × BitVec 24)) : Steer := { x with outputs := tset [] x.outputs o l }
def Steer.send (x : Steer) (o : Nat) (eid : BitVec 24) (g : List Token) : Steer :=
  x.setOutput o (x.output o ++ g.map fun t => (t, eid))

/-- BARRIER and EPOCH_MARK tokens between groups form groups by themselves. -/
def tokenAlone (t : Token) : Bool := t.kind == kBarrier || t.kind == kEpochMark

/-- The first group of a list of tokens, whether it is whole, and what follows it. -/
def firstGroup : Bool → List Token → List Token × Bool × List Token
  | _, [] => ([], false, [])
  | inside, t :: ts =>
    if t.isMarker || (!inside && tokenAlone t) then ([t], true, ts)
    else let r := firstGroup true ts; (t :: r.1, r.2)

/-- A token stands at the input of a group that the unit has not begun to gather. -/
def newGroup (l : List Token) : Bool :=
  match l.getLast? with | none => true | some t => t.isMarker || tokenAlone t

/-- The order of arrival with a group that begins at input i at time t: after those that came before it, and after those of lower inputs that
came in the same fast cycle (R132). -/
def orderWith (t i : Nat) : List (Nat × Nat) → List (Nat × Nat)
  | [] => [(t, i)]
  | e :: es => if t < e.1 ∨ (t = e.1 ∧ i < e.2) then (t, i) :: e :: es else e :: orderWith t i es

/-- The order once input i's first group has gone. -/
def orderPast (i : Nat) (l : List (Nat × Nat)) : List (Nat × Nat) := l.eraseP fun e => e.2 == i

/-- A token arrives at input i of unit u of cluster c. -/
def State.intoSteer (s : State) (c u i : Nat) (t : Token) : State :=
  let cl := s.clu c
  let x := cl.unit u
  let l := x.input i
  let x := x.setInput i (l ++ [t])
  let x := if newGroup l then { x with order := orderWith s.now i x.order } else x
  s.setClu c (cl.setUnit u x)

/-- Tokens at input i of unit u of cluster c that the unit has not taken into its group buffer. Input 3 of a MERGE_ORDERED unit carries no
groups, and none of its tokens is taken. -/
def Cluster.waiting (c : Cluster) (u i : Nat) : Nat :=
  let l := (c.unit u).input i
  if tget 0 c.steerMode u = 3 ∧ i = 3 then l.length else (firstGroup false l).2.2.length

/-! ### Packets (R126) -/

/-- The tokens of the next packet: to the first end marker, or 62. -/
def packetRun : Nat → List Token → List Token
  | 0, _ => []
  | _, [] => []
  | n + 1, t :: ts => if t.isMarker then [t] else t :: packetRun n ts

/-- Does the run close its packet without waiting: it ends in a marker or holds 62 tokens? -/
def closedRun (ts : List Token) : Bool :=
  decide (ts.length = 62) || match ts.getLast? with | none => false | some t => t.isMarker

/-- The packet that carries tokens to an endpoint; an attention request is of class REQUEST (R291). -/
def packTokens (dest src : BitVec 24) (ts : List Token) : Packet :=
  let p := tokensPacket dest src ts
  if isAttention dest then ({ p with cls := 0 }).sealed else p

/-- A packet enters the send buffer of cluster c. -/
def State.sendPacket (s : State) (c : Nat) (p : Packet) : State :=
  let cl := s.clu c
  s.setClu c { cl with sendBuf := cl.sendBuf ++ [p] }

/-- Form the packet of the tokens that output queue qo has packed (R126). -/
def State.formPacket (s : State) (h qo : Nat) (eid : BitVec 24) : State :=
  let c := s.core h
  let o := c.outQ qo
  let s := s.setCore h (c.setOutQ qo { o with pack := [] })
  (s.stir (h / 32)).sendPacket (h / 32) (packTokens eid (s.cluEid (h / 32)) o.pack)

/-! ### Credit of steering outputs (R130, R281) -/

/-- The loop of output k (unit × 4 + output) to an endpoint. -/
def Cluster.steerLoop (c : Cluster) (k : Nat) (eid : BitVec 24) : SteerLoop :=
  (c.steerLoops.find? fun x => decide (x.out_ = k) && decide (x.eid = eid)).getD { out_ := k, eid := eid }

def Cluster.setSteerLoop (c : Cluster) (v : SteerLoop) : Cluster :=
  let rest := c.steerLoops.filter fun x => decide (x.out_ ≠ v.out_) || decide (x.eid ≠ v.eid)
  { c with steerLoops := if v.out = 0 ∧ v.total = 0 then rest else rest ++ [v] }

/-! ### Bulk-mover queues (R188) -/

def Cluster.chan (c : Cluster) (n : Nat) : Channel := tget {} c.chans n
def Cluster.setChan (c : Cluster) (n : Nat) (v : Channel) : Cluster := { c with chans := tset {} c.chans n v }

/-- An image channel (R187). -/
def imageChan (n : Nat) : Bool := decide (n % 8 < 6) && decide (n < 16)

/-! ### Credits on their way back (R133) -/

/-- Tokens of output queue qo's loop that are enqueued and not yet popped, as far as this panel holds
them. Credits of a queue endpoint come back by CREDIT packets alone (R281). -/
def State.inLoop (s : State) (h qo : Nat) : Nat :=
  let o := (s.core h).outQ qo
  match s.outDest h qo with
  | .none => 0
  | .queue k q => o.tokens.length + ((s.core k).inQ q).tokens.length
  | .record p i => match s.inbound p i with
    | none => o.tokens.length
    | some r => o.tokens.length + s.loopHolds r
  | .steer c u i => o.tokens.length + (s.clu c).waiting u i
  | .packets eid =>
    if isMoverEid eid then o.tokens.length + ((s.clu (h / 32)).chan (eid.toNat - 0xFFFFE0)).queue.length
    else if isAttention eid || s.memEndpoint eid then o.tokens.length + o.pack.length
    else o.out

/-- The credits of hart h's output queues as its bindings find their loops when they open: those of the tokens that stand there are out. A
loop to a queue endpoint keeps its own count (R281). -/
def State.rebase (s : State) (h : Nat) : State :=
  let c := s.core h
  let fix := fun (c : Core) (q : Nat) =>
    let o := c.outQ q
    let n := s.inLoop h q
    if o.out = n then c else c.setOutQ q { o with out := n }
  s.setCore h ((List.range 8).foldl fix c)

/-! ### Caches and wakes -/

/-- Descriptors of Gleryn's (`own` 6) or of the cluster sequencer's (7) write n bytes into cluster c's memory through a channel of theirs
(R187, R205). The spec does not say which of the two movers serves them, how many descriptors they are, or the last one's `TAG`: those are
free (log entry 103). -/
def State.ownMove (s : State) (c own n : Nat) : State :=
  let ch := own + Config.pick s.free 0 % 2 * 8
  let cl := s.clu c
  let x := cl.chan ch
  let s := s.setClu c (cl.setChan ch { x with done := x.done + BitVec.ofNat 32 (Config.pick s.free 1 + 1) })
  let a := s.cluReg c (0xA00 + ch * 16)
  let s := (s.setField a 6 8 (Config.pick s.free 2)).setField a 14 8 stOk
  (s.count64 (s.cluReg c (if ch < 8 then 0x948 else 0x950)) n).draw

/-- Invalidate the whole cache of cluster c, if it has one (R203). -/
def State.invalidateCache (s : State) (c : Nat) : State :=
  if s.cacheMode c then (s.setClu c { s.clu c with cache := [] }).count (s.cluReg c 0x928) 1 else s

/-- Ask for a wake of cluster c (R363, R364): once, and only from RETAIN or OFF. -/
def State.requestWake (s : State) (c : Nat) : State :=
  if 2 ≤ s.power? c ∨ s.field (pwrClu c) 15 1 = 1 then s
  else
    let s := s.setField (pwrClu c) 15 1 1
    { s with power := { s.power with wakes := tset none s.power.wakes c (some s.now) } }

/-! ### Discards (R142, R147, R154) -/

/-- A core without tokens. Credits of tokens still in its queues to endpoints come back at once; those of other loops come back one by one,
as their tokens are gone (R133). -/
def Core.cleared (c : Core) : Core :=
  { c with
    inq := [],
    outq := c.outq.map (fun e =>
      let n := e.2.tokens.length + e.2.pack.length
      let far := decide (bindKind (c.pet.outWord e.1) = 4)
      (e.1, { e.2 with tokens := [], pack := [], out := if far then e.2.out - n else e.2.out,
                       total := if far then e.2.total - BitVec.ofNat 32 n else e.2.total }))
      |>.filter (fun e => decide (e.2 ≠ {})),
    eng := (c.eng.map fun e => (e.1, { e.2 with queue := [], taken := false, rows := [], row := [], busy := false, wb := [] }))
      |>.filter (fun e => decide (e.2 ≠ {})) }

/-- Tokens a core holds. -/
def Core.held (c : Core) : Nat :=
  (c.inq.map fun e => e.2.tokens.length).foldl (· + ·) 0 + (c.outq.map fun e => e.2.tokens.length + e.2.pack.length).foldl (· + ·) 0

/-- Tokens the steering units of a cluster hold. -/
def Cluster.steerHeld (c : Cluster) : Nat :=
  (c.steer.map fun e => (e.2.inputs.map fun x => x.2.length).foldl (· + ·) 0
    + (e.2.outputs.map fun x => x.2.length).foldl (· + ·) 0).foldl (· + ·) 0

/-- A cluster whose steering units and image channels are empty (R147, R198). -/
def Cluster.cleared (c : Cluster) : Cluster :=
  { c with steer := [], marks := [], chans := c.chans.map fun e => if imageChan e.1 then (e.1, { e.2 with queue := [], run := none }) else e }

/-- The records of a region hold no token and no held or dropped group; what ports expect stays. -/
def Inbound.cleared (r : Inbound) : Inbound :=
  { r with marks := [], land := [], bal := [], released := 0, held := false, dropEp := none }

/-- Where a descriptor writes in this panel's memory: the places of its remote reads that have not landed (R190). -/
def BmRun.landings (c : Nat) (r : BmRun) : List (Nat × Nat) :=
  r.reads.map fun x => if bits r.desc.toNat 11 1 = 1 then (sramBase c + x.loc % 0x1000000, Nat.min x.len (0x1000000 - x.loc % 0x1000000)) else (x.loc, x.len)

/-- The descriptors at work in cluster c's image channels stop: what they still had to write is open within the partition (R198). -/
def State.stopRuns (s : State) (c : Nat) : State :=
  let mine := fun (e : Nat × Nat) => match (s.partOf c).bind s.part with | none => false | some q => q.owns e.1 e.2
  let open_ := (s.clu c).chans.flatMap fun e => match e.2.run with
    | none => []
    | some r => if imageChan e.1 then (r.landings c).filter mine else []
  open_.foldl (fun s e => s.scramble (s.partOf c) e.1 e.2) s

/-- Descriptors that wait in cluster c's image channels. -/
def Cluster.moversHeld (c : Cluster) : Nat := ((c.chans.filter fun e => imageChan e.1).map fun e => e.2.queue.length).foldl (· + ·) 0

/-- Discard every token of cluster c; `counted` says that each counts in `CLU_EPOCH_DISCARD` (R154). -/
def State.clearCluster (s : State) (c : Nat) (counted : Bool) : State :=
  let n := ((hartsOf c).map fun h => (s.core h).held).foldl (· + ·) 0 + (s.clu c).steerHeld + (s.clu c).moversHeld
  let s := s.stopRuns c
  let s := (hartsOf c).foldl (fun s h => s.setCore h (s.core h).cleared) s
  let s := s.setClu c (s.clu c).cleared
  let eid := s.cluEid c
  let orphan := fun (f : SendFlow) => if f.key.src = eid then { f with unack := f.unack.map fun u => { u with chan := none } } else f
  let s := { s with sends := s.sends.map orphan }
  if counted then s.count (s.cluReg c 0x854) n else s

/-- Discard every token of region r of partition p. Tokens at the boundary ports' heads wait outside a
region that is activated (`ports` false), and go with the rest in a replay. -/
def State.clearRegion (s : State) (p rn : Nat) (r : Region) (counted ports : Bool) : State :=
  let s := r.clusters.foldl (fun s c => s.clearCluster c counted) s
  match s.part p with
  | none => s
  | some q =>
    let hit := fun (x : Inbound) => decide (x.region = rn)
    let lost := fun (x : Inbound) => x.bal.length + (if x.boundary && !ports then 0 else x.land.length)
    let s := if !counted then s
      else (q.records.filter hit).foldl (fun s x => s.count (s.cluReg x.cluster 0x854) (lost x)) s
    let clear := fun (x : Inbound) =>
      if !hit x then x else if x.boundary && !ports then { x.cleared with land := x.land, marks := x.marks } else x.cleared
    s.modPart p fun q => { q with records := q.records.map clear }

/-! ### Epochs (R149, R155) -/

/-- Fast cycles of the epoch-advance window. -/
abbrev epochWindow : Nat := 11000000

/-- Region r has advanced its epoch three times within the last 10 ms (R149). -/
def Region.limited (r : Region) (now : Nat) : Bool :=
  decide (3 ≤ (r.advances.filter fun t => decide (now < t + epochWindow)).length)

/-- The mark that a region sends: byte 0 the previous epoch, bytes 4 to 7 the region number (R119). -/
def epochMark (rn : Nat) (prev next : BitVec 3) : Token :=
  { tag := mkTag 6 0 next, payload := BitVec.ofNat 512 (prev.toNat + rn * 0x100000000) }

/-- Hart h is a member of a bouquet that it does not lead; such a core runs nothing (R71). -/
def State.follower (s : State) (h : Nat) : Bool := s.inBouquet h && !s.leads h

/-- Binding words by which any petal of cluster c sends, but for those of a bouquet's followers (R155, R162): output queues, then steering outputs. -/
def State.wordsOut (s : State) (c : Nat) : List Word :=
  (((hartsOf c).filter fun h => !s.follower h).flatMap fun h =>
      (s.core h).petals.flatMap fun e => if e.2.pver = 1 then e.2.outBind.map (·.2) else [])
    ++ (s.clu c).steerOut.map (·.2)

/-- EIDs that steering entries of cluster c name (R131, R155). -/
def State.steerEids (s : State) (c : Nat) : List (BitVec 24) :=
  (s.clu c).steerTbl.filterMap fun e =>
    let v := e.2.toNat
    let u := e.1 / 256
    if bitOf v 4 && (onesOf v 4).any (fun j =>
        let w := tget 0 (s.clu c).steerOut (4 * u + j)
        decide (bindKind w = 4) && decide (bindEid w = 0)) then some (BitVec.ofNat 24 (bits v 8 24)) else none

/-- A queue endpoint, to which marks go: no attention service, bulk-mover channel or memory endpoint. -/
def State.queueEid (s : State) (eid : BitVec 24) : Bool :=
  decide (eid ≠ 0) && !isAttention eid && !isMoverEid eid && !s.memEndpoint eid

/-- The producers of cluster c whose running bindings lead to a queue endpoint: output queues of its harts. -/
def State.boundTo (s : State) (c : Nat) (eid : BitVec 24) : List (Nat × Nat) :=
  (hartsOf c).flatMap fun h => (List.range 8).filterMap fun q =>
    let w := (s.core h).pet.outWord q
    if decide (bindKind w = 4) && decide (bindEid w = eid) then some (h, q) else none

/-- Credits out of cluster c's loops to a queue endpoint: its output queues and its steering outputs. -/
def State.endpointOut (s : State) (c : Nat) (eid : BitVec 24) : Nat :=
  ((s.boundTo c eid).map fun e => ((s.core e.1).outQ e.2).out).foldl (· + ·) 0
    + (((s.clu c).steerLoops.filter fun x => decide (x.eid = eid)).map (·.out)).foldl (· + ·) 0

/-- n tokens sent to an endpoint by the sequencer take credits of the first loop that leads there. -/
def State.chargeEndpoint (s : State) (c : Nat) (eid : BitVec 24) (n : Nat) : State :=
  match s.boundTo c eid with
  | [] => s
  | (h, q) :: _ =>
    let k := s.core h
    let o := k.outQ q
    s.setCore h (k.setOutQ q { o with out := o.out + n, total := o.total + BitVec.ofNat 32 n })

/-- The marks of cluster c that have credit and a place in the send buffer leave for their endpoints (R134, R155). -/
def State.sendWaiting (s : State) (c : Nat) : State :=
  (s.clu c).marks.foldl (fun s e =>
    let cl := s.clu c
    if s.endpointOut c e.1 < s.endpointCredit e.1 ∧ s.sendTokens c < 64 then
      ((s.setClu c { cl with marks := cl.marks.erase e }).chargeEndpoint c e.1 1).sendPacket c (tokensPacket e.1 (s.cluEid c) [e.2])
    else s) s

/-- Send one mark on every path that leaves region rn: each distinct circuit whose consumer lies outside it,
each distinct queue endpoint, from the first cluster that binds it (R155). -/
def State.sendMarks (s : State) (p rn : Nat) (r : Region) (prev next : BitVec 3) : State :=
  let m := epochMark rn prev next
  let recs := (r.clusters.flatMap fun c => (s.wordsOut c).filterMap fun w =>
    match s.destOf c w with
    | .record _ i => match s.inbound p i with
      | none => none
      | some x => if r.holds x.cluster then none else some i
    | _ => none).eraseDups
  let eids := r.clusters.flatMap fun c =>
    ((s.wordsOut c).filterMap fun w => if bindKind w = 4 then some (c, bindEid w) else none) ++ (s.steerEids c).map fun e => (c, e)
  let eids := eids.filter fun e => s.queueEid e.2
  let firsts := (List.range eids.length).filterMap fun i =>
    match eids[i]? with
    | none => none
    | some e => if (eids.take i).any (fun x => decide (x.2 = e.2)) then none else some e
  let s := recs.foldl (fun s i => s.placeMark p i m) s
  firsts.foldl (fun s e => let cl := s.clu e.1; (s.setClu e.1 { cl with marks := cl.marks ++ [(e.2, m)] }).sendWaiting e.1) s

/-- Advance region rn's epoch and send its marks; strict ports adopt a mark set aside if `adopt` (R155). -/
def State.advanceEpoch (s : State) (rn : Nat) (adopt : Bool) : State :=
  match s.region rn with
  | none => s
  | some r =>
    let next := r.epoch + 1
    let recent := r.advances.filter fun t => decide (s.now < t + epochWindow)
    let s := s.setRegion rn { r with epoch := next, advances := s.now :: recent }
    let follow := fun (x : Inbound) => match x.aside with
      | none => x
      | some e => if x.region = rn then { x with expect := some e, aside := none, held := false } else x
    let s := if adopt then s.modPart r.part fun q => { q with records := q.records.map follow } else s
    s.sendMarks r.part rn r r.epoch next

/-! ### Petals at a release (R143, R145) -/

/-- A petal as its record gives it (R143, R164). -/
def Petal.fresh (p : Petal) : Petal :=
  { p with pc := p.entryPc, x := p.xreg, counts := [], desc := p.desc0,
           limits := p.loop.filterMap fun e => let v := BitVec.ofNat 24 e.2.toNat; if v = 0 then none else some (e.1, v) }

/-- What a petal switch clears: accumulators, latches, staging areas (R49). -/
def Core.wiped (c : Core) : Core :=
  { c with
    eng := (c.eng.map fun e => (e.1, { e.2 with acc := [], kept := none })).filter (fun e => decide (e.2 ≠ {})),
    outq := (c.outq.map fun e => (e.1, { e.2 with stage := 0 })).filter (fun e => decide (e.2 ≠ {})) }

/-- An output queue whose binding word changes: its count of tokens is that of the endpoint it leads to now (R281). -/
def OutQueue.turn (o : OutQueue) (old new : Word) : OutQueue :=
  if old = new then o
  else
    let saved := o.saved.filter fun e => decide (e.1 ≠ bindEid old)
    let saved := if bindKind old = 4 ∧ o.total ≠ 0 then (bindEid old, o.total) :: saved else saved
    let here := if bindKind new = 4 then saved.find? fun e => decide (e.1 = bindEid new) else none
    { o with total := match here with | none => 0 | some e => e.2, saved := saved.filter fun e => here != some e }

/-- The output queues of a core as petal p binds them. -/
def Core.turned (c : Core) (p : Petal) : Core :=
  (List.range 8).foldl (fun x q => x.setOutQ q ((x.outQ q).turn (c.pet.outWord q) (p.outWord q))) c

/-- The cores that a petal switch of hart h acts on: the whole bouquet that it leads, else itself (R71). -/
def State.groupOf (s : State) (h : Nat) : List Nat := if s.leads h then (List.range 8).map (h + ·) else [h]

/-- The core whose fold entries and switches hart h follows: its bouquet's leader, else itself (R71). -/
def State.leaderOf (s : State) (h : Nat) : Nat := if s.inBouquet h then h / 8 * 8 else h

/-- Core h runs petal p from now on; an empty petal or a bouquet's follower runs nothing (R164, R71). -/
def State.runPetal (s : State) (h p : Nat) : State :=
  let c := s.core h
  let new := c.petal ≠ p
  let c := if new then c.wiped.turned (tget {} c.petals p) else c
  let c := { c with petal := p, halted := false, yielded := false, wait := none, switchTo := none }
  let s := s.setCore h { c with running := decide (c.pet.pver = 1) && !s.follower h }
  if new then s.rebase h else s

/-- Every petal of hart h returns to its record's state, seeded anew (R101, R143). -/
def State.freshPetals (s : State) (h : Nat) : State :=
  (s.core h).petals.foldl (fun s e =>
    let r := s.seedPetal h e.2.fresh
    let c := r.2.core h
    r.2.setCore h { c with petals := tset {} c.petals e.1 r.1 }) s

/-- Fold entry i of a cluster. -/
def Cluster.foldE (c : Cluster) (i : Nat) : FoldEntry := tget {} c.fold i

/-- The sequencer of cluster c begins a step: petals fresh, fold entry 0 (R143, R145); the channels'
`DONE_COUNT` restarts (R198). -/
def State.releaseCluster (s : State) (c : Nat) : State :=
  let cl := s.clu c
  let s := s.setClu c { cl with foldAt := 0, foldLoops := [],
                                chans := cl.chans.map fun e => (e.1, { e.2 with done := 0 }) }
  let e := cl.foldE 0
  (hartsOf c).foldl (fun s h =>
    let s := s.freshPetals h
    s.runPetal h (if 0 < cl.foldCount && bitOf e.mask.toNat (s.leaderOf h % 32) then e.petal else 0)) s

/-- Every core of a cluster stops. -/
def State.stopCluster (s : State) (c : Nat) : State :=
  (hartsOf c).foldl (fun s h =>
    let x := s.core h
    s.setCore h { x with running := false, halted := false, yielded := false, wait := none, switchTo := none }) s

/-- Regions of a step, with their numbers. -/
def State.stepRegions (s : State) (p : Nat) (st : StepRec) : List (Nat × Region) :=
  (s.regionsOf p).filter fun e => bitOf st.regions.toNat e.1

end Sys2Proof.Machine
end

