-- ==== Sys2Proof/Machine/Image.lean ====
section
/-! DEFINITION. Configuration images (R159 to R168): the container, the checks of IMAGE_LOAD, and what loading
one puts into the clusters, routers and tables of its region (R51, R153, R163 to R166, R286). -/

namespace Sys2Proof.Machine

/-! ### The container -/

/-- An image in panel memory: n bytes of it at off. -/
def State.img (s : State) (base off n : Nat) : Bytes := memRead s.mem (base + off) n
def State.imgN (s : State) (base off n : Nat) : Nat := leNat (s.img base off n)

/-- An entry of the section table (R161). -/
structure Sect where
  type  : Nat
  sver  : Nat
  flags : Nat
  count : Nat
  off   : Nat
  size  : Nat
  crc   : Nat
  deriving DecidableEq, Repr

def sectOf (b : Bytes) : Sect :=
  { type := fld b 0 2, sver := fld b 2 1, flags := fld b 3 1, count := fld b 4 4, off := fld b 8 8, size := fld b 16 8, crc := fld b 24 4 }

/-- The header fields used after `HDR_CRC` has passed (R159). -/
structure Header where
  flags  : Nat
  caps   : Nat
  w      : Nat
  h      : Nat
  mode   : Nat
  hold   : Nat
  frame  : Nat
  size   : Nat
  soff   : Nat
  scount : Nat
  deriving DecidableEq, Repr

def State.header (s : State) (base : Nat) : Header :=
  let b := s.img base 0 128
  { flags := fld b 0xC 4, caps := fld b 0x10 8, w := fld b 0x18 1, h := fld b 0x19 1, mode := fld b 0x1A 1, hold := fld b 0x1C 2,
    frame := fld b 0x1E 2, size := fld b 0x20 8, soff := fld b 0x28 4, scount := fld b 0x2C 2 }

def State.sects (s : State) (base : Nat) (hd : Header) : List Sect :=
  (List.range hd.scount).map fun i => sectOf (s.img base (hd.soff + 32 * i) 32)

def findSect (l : List Sect) (t : Nat) : Option Sect := l.find? fun x => decide (x.type = t)

abbrev sClusters : Nat := 1
abbrev sInstr : Nat := 2
abbrev sPetals : Nat := 3
abbrev sSlots : Nat := 4
abbrev sSteer : Nat := 5
abbrev sCircuits : Nat := 6
abbrev sResident : Nat := 7
abbrev sData : Nat := 8
abbrev sSignature : Nat := 0xFF

def knownSect (t : Nat) : Bool := (decide (1 ≤ t) && decide (t ≤ 8)) || t == 0xFF

/-- Bytes at off of section t; none where the section is absent. -/
def State.sectBytes (s : State) (base : Nat) (l : List Sect) (t off n : Nat) : Option Bytes :=
  (findSect l t).map fun x => s.img base (x.off + off) n

/-! ### Records (R163 to R166) -/

/-- Signed 8-bit cluster coordinate relative to an origin. -/
def relCluster (cx cy : Nat) (bx bY : Nat) : Nat :=
  let x := (cx : Int) + sext 8 bx
  let y := (cy : Int) + sext 8 bY
  (y * 24 + x).toNat

/-- An inbound record of the image placed at (cx, cy) for region rn (R166). -/
def inboundOf (rn cx cy : Nat) (circuit : Bool) (b : Bytes) : Inbound :=
  let f := fld b
  { region := rn, circuit := circuit, id := BitVec.ofNat 24 (f 0 3),
    prodHart := relCluster cx cy (f 4 1) (f 5 1) * 32 + f 6 1 % 32, prodQ := f 6 1 / 32, d := f 7 1,
    consHart := relCluster cx cy (f 8 1) (f 9 1) * 32 + f 10 1 % 32, consQ := f 10 1 / 32,
    boundary := bitOf (f 11 1) 0, follow := bitOf (f 11 1) 1, gated := bitOf (f 11 1) 2, stepEnd := bitOf (f 11 1) 3,
    b := f 12 4, balOff := f 16 4 }

def dataOf (rn cx cy : Nat) (b : Bytes) : DataRec :=
  { region := rn, cluster := (cy + fld b 1 1) * 24 + cx + fld b 0 1, target := fld b 2 1, offset := fld b 4 4,
    hbm := fld b 8 8 % 0x1000000000000, length := fld b 16 4, crc := BitVec.ofNat 32 (fld b 20 4) }

/-- Panel address of a DATA record's target. -/
def DataRec.addr (d : DataRec) : Nat :=
  sramBase d.cluster + (if d.target = 0xFF then d.offset else 0x800000 + d.target * 0x40000 + d.offset)

/-- Records of n bytes of section t. -/
def State.recordsOf (s : State) (base : Nat) (l : List Sect) (t n : Nat) : List Bytes :=
  match findSect l t with
  | none => []
  | some x => (List.range x.count).map fun i => s.img base (x.off + n * i) n

def State.inboundsOf (s : State) (base rn cx cy : Nat) (l : List Sect) : List Inbound :=
  (s.recordsOf base l sCircuits 24).map (inboundOf rn cx cy true) ++ (s.recordsOf base l sResident 24).map (inboundOf rn cx cy false)

/-- Words of a field, nonzero ones listed. -/
def wordTbl (b : Bytes) (off n : Nat) : Tbl Word :=
  (List.range n).filterMap fun i =>
    let v := fld b (off + 4 * i) 4
    if v = 0 then none else some (i, BitVec.ofNat 32 v)

def byteTbl (b : Bytes) : Tbl Byte :=
  (List.range b.length).filterMap fun i => let v := b.getD i 0; if v = 0 then none else some (i, v)

/-- A petal record (R164): an empty petal's other bytes are ignored. -/
def petalOf (b : Bytes) : Petal :=
  if fld b 0 1 = 0 then {}
  else
    let desc := byteTbl (slice b 0x200 512)
    { pver := fld b 0 1, seedPolicy := fld b 1 1, entryPc := BitVec.ofNat 32 (fld b 4 4), seed := BitVec.ofNat 32 (fld b 8 4),
      xreg := (wordTbl b 0x10 31).map (fun e => (e.1 + 1, e.2)), inBind := wordTbl b 0x90 8, outBind := wordTbl b 0xB0 8,
      loop := wordTbl b 0xD0 32, desc0 := desc, desc := desc }

def foldOf (b : Bytes) : FoldEntry :=
  { mask := BitVec.ofNat 32 (fld b 0 4), petal := fld b 4 1 % 8, loopTo := fld b 5 1, loopCnt := fld b 6 2 }

/-! ### Checks (R168) -/

/-- Capabilities of every VH1 die (R159): bits [12:0] and [21:16]. -/
def allCaps : Nat := 0x3F1FFF

/-- Capability mask of the die at a site (R403). -/
def State.capsAt (s : State) (site : Nat) : Nat := (tget (BitVec.ofNat 64 allCaps) s.hw.caps site).toNat

/-- Intersection of the masks of a rectangle's dies (R327, R403). -/
def State.capsOf (s : State) (cs : List Nat) : Nat :=
  (cs.filter (· < 576)).foldl (fun m c => Nat.land m (s.capsAt (s.blk c / 4))) 0xFFFFFFFFFFFFFFFF

/-- Two byte ranges share a byte. -/
def overlap (a n b m : Nat) : Bool := decide (a < b + m) && decide (b < a + n) && decide (0 < n) && decide (0 < m)

def pairsOk {α : Type} (f : α → α → Bool) : List α → Bool
  | [] => true
  | x :: xs => xs.all (f x) && pairsOk f xs

/-- A section lies aligned inside the image and its `CRC` holds. -/
def State.sectOk (s : State) (base : Nat) (hd : Header) (x : Sect) : Bool :=
  decide (x.off % 64 = 0) && decide (x.off + x.size ≤ hd.size) && decide ((crc32 (s.img base x.off x.size)).toNat = x.crc)

/-- The section holds what the region needs (R168). -/
def sectLarge (hd : Header) (x : Sect) : Bool :=
  let n := hd.w * hd.h
  match x.type with
  | 1 => decide (n ≤ x.count) && decide (256 * n ≤ x.size)
  | 2 => decide (8192 * 32 * n ≤ x.size)
  | 3 => decide (8 * 1024 * 32 * n ≤ x.size)
  | 4 => decide (80 * hd.frame * n ≤ x.size)
  | 5 => decide (8192 * n ≤ x.size)
  | 6 => decide (24 * x.count ≤ x.size)
  | 7 => decide (24 * x.count ≤ x.size)
  | 8 => decide (32 * x.count ≤ x.size)
  | _ => true

/-- `CVER` and `PVER` of every record (R163, R164). -/
def State.versionsOk (s : State) (base : Nat) (hd : Header) (l : List Sect) : Bool :=
  let n := hd.w * hd.h
  (List.range n).all (fun i => s.sectBytes base l sClusters (256 * i) 1 == some [1])
    && (List.range (n * 256)).all fun i => match s.sectBytes base l sPetals (1024 * i) 1 with
      | some [v] => decide (v.toNat ≤ 1)
      | _ => false

/-- Fold counts and loop targets. -/
def State.foldsOk (s : State) (base : Nat) (hd : Header) (l : List Sect) : Bool :=
  (List.range (hd.w * hd.h)).all fun i =>
    let b := (s.sectBytes base l sClusters (256 * i) 256).getD []
    let n := fld b 2 1
    decide (n ≤ 16) && (List.range n).all fun j =>
      let t := (foldOf (slice b (0x50 + 8 * j) 8)).loopTo
      decide (t < n) || decide (t = 0xFF)

/-- Landing positions and balancing queues of every cluster of the region (R135). -/
def roomOk (cs : List Nat) (rs : List Inbound) : Bool :=
  cs.all fun c =>
    let here := rs.filter fun r => decide (r.cluster = c)
    decide ((here.map (·.d)).foldl (· + ·) 0 ≤ 256) && decide ((here.filter fun r => decide (0 < r.b)).length ≤ 16)

/-- `DIGEST` as R167 computes it. -/
def State.digest (s : State) (base : Nat) (hd : Header) (l : List Sect) : Bytes :=
  let n := match findSect l sSignature with | none => hd.size | some x => x.off
  let b := s.img base 0 n
  let b := patch (patch b 0x30 (List.replicate 32 0)) 0x7C (List.replicate 4 0)
  let b := match l.findIdx? (fun x => decide (x.type = sSignature)) with
    | none => b
    | some i => patch b (hd.soff + 32 * i) (List.replicate 32 0)
  shake256 (b.take n)

/-- The owner's signature holds (R167, R168): only asked when OTP holds an owner key hash. -/
def State.signedOk (s : State) (base : Nat) (hd : Header) (l : List Sect) : Bool :=
  match s.trust.ownerHash with
  | none => true
  | some key => bitOf hd.flags 1 && match findSect l sSignature with
    | none => false
    | some x =>
      let b := s.img base x.off x.size
      slice b 8 32 == key && s.img base 0x30 32 == s.digest base hd l
        && Config.verifies (fld b 0 4) key (s.digest base hd l) (slice b 40 (fld b 4 4))

/-- A rectangle lies inside another. -/
def inside (cx cy w h px py pw ph : Nat) : Bool :=
  decide (px ≤ cx) && decide (py ≤ cy) && decide (cx + w ≤ px + pw) && decide (cy + h ≤ py + ph) && decide (0 < w) && decide (0 < h)

/-- `MAGIC` (R159). -/
def imageMagic : Bytes := [0x56, 0x48, 0x49, 0x4D, 0x41, 0x47, 0x45, 0x00]

/-- The first status that a list of checks in order gives. -/
def firstFail : List (Bool × Nat) → Nat
  | [] => stOk
  | (ok, st) :: r => if ok then firstFail r else st

/-- The checks of R168 in the order of its table on the image at base for a region of partition q with its
origin at (cx, cy): OK, or the status of the first failure. -/
def State.checkImage (s : State) (q : Part) (base rn cx cy : Nat) : Nat :=
  let hd := s.header base
  let l := s.sects base hd
  let cs := rect cx cy hd.w hd.h
  firstFail [
    (s.img base 0 8 == imageMagic && s.imgN base 0xA 2 == 128, stVersion),
    (decide (crc32 (s.img base 0 0x7C) = BitVec.ofNat 32 (s.imgN base 0x7C 4)), stFault),
    (s.imgN base 9 1 == 1, stVersion),
    (decide (Nat.land hd.caps (s.capsOf cs) = hd.caps), stVersion),
    (decide (hd.frame = s.field panelBase 0 9), stVersion),
    (decide (1 ≤ hd.scount) && decide (hd.scount ≤ 64) && decide (hd.soff % 64 = 0)
      && decide (128 ≤ hd.size) && decide (hd.soff + 32 * hd.scount ≤ hd.size), stFault),
    (l.all (fun x => if knownSect x.type then decide (x.sver = 1) else !bitOf x.flags 0), stVersion),
    (l.all (s.sectOk base hd) && pairsOk (fun x y => !overlap x.off x.size y.off y.size) l, stFault),
    ([1, 2, 3, 4].all (fun t => decide ((l.filter fun x => decide (x.type = t)).length = 1))
      && [5, 6, 7, 8, 0xFF].all (fun t => decide ((l.filter fun x => decide (x.type = t)).length ≤ 1)), stFault),
    (!bitOf hd.flags 1 || (match findSect l sSignature with
      | none => false
      | some x => l.all fun y => decide (y.type = sSignature) || decide (y.off + y.size ≤ x.off)), stFault),
    (l.all (sectLarge hd), stFault),
    (s.versionsOk base hd l, stVersion),
    (s.foldsOk base hd l, stFault),
    (inside cx cy hd.w hd.h q.cx q.cy q.w q.h, stNoResource),
    (roomOk cs (s.inboundsOf base rn cx cy l), stNoResource),
    (s.signedOk base hd l, stAuthFail)]

/-! ### Resident entries (R286) -/

/-- A resident-table entry. -/
def residentWord (eid kind cluster part core queue : Nat) : BitVec 64 :=
  BitVec.ofNat 64 (eid + 0x1000000 + kind * 0x4000000 + cluster * 0x10000000 + part * 0x4000000000 + core * 0x100000000000
    + queue * 0x2000000000000 + 0x1000000000000000)

/-- Resident EIDs of region rn as its loaded records give them. -/
def Part.endpointsOf (q : Part) (rn : Nat) : List (BitVec 24) :=
  (q.records.filter fun r => !r.circuit && decide (r.region = rn)).map (·.id)

/-- The image's endpoints find places: none is held by anyone but this region, and entries suffice (R286). -/
def State.endpointsFit (s : State) (q : Part) (rn : Nat) (rs : List Inbound) : Bool :=
  let mine := q.endpointsOf rn
  let new := (rs.filter fun r => !r.circuit).map (·.id)
  new.all (fun e => (s.resFind e).isNone || mine.contains e) && pairsOk (fun a b => decide (a ≠ b)) new
    && decide (new.length ≤ ((List.range 1024).filter fun i => !bitOf (s.resEntry i) 24).length + mine.length)

def State.dropEndpoints (s : State) (es : List (BitVec 24)) : State :=
  es.foldl (fun s e => match s.resFind e with | none => s | some i => s.setRes i residentFree) s

def State.addEndpoint (s : State) (p : Nat) (r : Inbound) : State :=
  match s.resSlot with
  | none => s
  | some i => s.setRes i (residentWord r.id.toNat 0 r.cluster p (r.consHart % 32) r.consQ)

/-- `LANDING` of a cluster: the landing positions that the records of partition q take there (R248, R259). -/
def State.setLanding (s : State) (q : Part) (c : Nat) : State :=
  s.setField (s.fabReg c 4) 2 9 (((q.records.filter fun x => decide (x.cluster = c)).map (·.d)).foldl (· + ·) 0)

/-! ### Loading (R51, R153) -/

/-- Bank 11 of cluster c from its cores' parts, with the backup directory (R51). -/
def State.writeBackup (s : State) (base : Nat) (l : List Sect) (i c : Nat) : State :=
  (List.range 32).foldl (fun s k =>
    let im := (s.sectBytes base l sInstr ((i * 32 + k) * 8192) 8192).getD []
    let ps := (List.range 8).map fun p => (s.sectBytes base l sPetals (((i * 32 + k) * 8 + p) * 1024) 1024).getD []
    let s := s.poke (sramBase c + 0x580000 + k * 0x4000) (im ++ ps.flatten)
    let cl := s.clu c
    let dir := (List.range 9).foldl (fun d j => tset 0 d (k * 9 + j) (crc32 ((im :: ps).getD j []))) cl.backup
    s.setClu c { cl with backup := dir, dirBad := cl.dirBad.filter fun x => decide (x / 9 ≠ k) }) s

/-- The words of the slot table that an image gives the router of its cluster number i (R162, R241). -/
def State.slotWords (s : State) (base : Nat) (l : List Sect) (frame i : Nat) : List Word :=
  let b := (s.sectBytes base l sSlots (80 * frame * i) (80 * frame)).getD []
  (List.range (20 * frame)).map fun j => BitVec.ofNat 32 (fld b (4 * j) 4)

/-- The slot table of the router of cluster c from an image (R241, R258, R259). -/
def State.writeSlots (s : State) (base : Nat) (l : List Sect) (frame i c : Nat) : State :=
  s.newSlots (s.blk c) (s.slotWords base l frame i)

/-- The cluster record of cluster c (R163) with its steering table (R165). -/
def clusterOf (old : Cluster) (b : Bytes) (steer : Option Bytes) (backup : Bool) : Cluster :=
  { old with
    bouquet := BitVec.ofNat 4 (fld b 1 1), foldCount := fld b 2 1,
    fold := (List.range 16).filterMap (fun j =>
      let e := foldOf (slice b (0x50 + 8 * j) 8)
      if e = {} then none else some (j, e)),
    foldAt := fld b 2 1, foldLoops := [],
    steerMode := (List.range 4).filterMap (fun u => let v := fld b (4 + u) 1; if v = 0 then none else some (u, v)),
    steerOut := wordTbl b 0x10 16,
    steerTbl := (match steer with
      | none => []
      | some t => (List.range 1024).filterMap fun j =>
        let v := fld t (8 * j) 8
        if v = 0 then none else some (j, BitVec.ofNat 64 v)),
    steer := [], steerLoops := old.steerLoops.filter (fun x => decide (x.out ≠ 0)), chans := [], backupOn := backup }

/-- The output queues of a core that a new configuration replaces: empty, with the counts of their loops to queue endpoints (R281). -/
def Core.keptLoops (c : Core) (new : Petal) : Tbl OutQueue :=
  ((c.turned new).outq.map fun e =>
    let same := decide (c.pet.outWord e.1 = new.outWord e.1) && decide (bindKind (new.outWord e.1) = 4)
    (e.1, ({ out := if same then e.2.out else 0, total := e.2.total, saved := e.2.saved } : OutQueue))).filter fun e => decide (e.2 ≠ {})

/-- Core k of cluster c as the image gives it: its instruction memory and petals; it runs nothing. -/
def State.loadCore (s : State) (base : Nat) (l : List Sect) (i c k : Nat) : State :=
  let im := (s.sectBytes base l sInstr ((i * 32 + k) * 8192) 8192).getD []
  let ps := (List.range 8).filterMap fun p =>
    let v := petalOf ((s.sectBytes base l sPetals (((i * 32 + k) * 8 + p) * 1024) 1024).getD [])
    if v = {} then none else some (p, v)
  s.setCore (c * 32 + k) { imem := byteTbl im, petals := ps, outq := (s.core (c * 32 + k)).keptLoops (tget {} ps 0) }

/-- Cluster i (in region order) of the image at base, placed at logical cluster c. Banks 12 to 15 are emptied on
entering and on leaving cache mode (R204). -/
def State.loadCluster (s : State) (base : Nat) (hd : Header) (l : List Sect) (i c : Nat) : State :=
  let rec_ := (s.sectBytes base l sClusters (256 * i) 256).getD []
  let backup := !bitOf hd.flags 0
  let s := s.invalidateCache c
  let s := s.setClu c (clusterOf (s.clu c) rec_ (s.sectBytes base l sSteer (8192 * i) 8192) backup)
  let on := bitOf (fld rec_ 3 1) 0
  let s := if on || s.cacheMode c then { s with mem := memZero s.mem (sramBase c + 0x600000) 0x200000 } else s
  let s := s.setField (s.cluReg c 0x900) 0 1 (b2n on)
  let s := (List.range 32).foldl (fun s k => s.loadCore base l i c k) s
  let s := if backup then s.writeBackup base l i c else { s with clusters := tset {} s.clusters c { s.clu c with backup := [], dirBad := [] } }
  s.writeSlots base l hd.frame i c

/-- What a port of a reloaded region keeps: its expected epoch, a mark set aside and the tokens held before
it (R149, R153). -/
def Inbound.keeping (new old : Inbound) : Inbound :=
  { new with expect := old.expect, aside := old.aside, marks := old.marks, land := old.land, dropEp := old.dropEp, producer := old.producer,
             pops := old.pops, credited := old.credited }

/-- The region number of a record whose consumer's region has no image loaded: none. -/
abbrev noRegion : Nat := 0x100

/-- The records of partition q once region rn has those of its image: an inbound record of another region
keeps its place, and one that names a circuit whose consumer another region holds joins only if that
region has not given it (R166). It belongs to no region then, and its port holds what comes until that region's image is loaded. -/
def Part.withRecords (q : Part) (rn : Nat) (mine : Nat → Bool) (rs : List Inbound) : Part :=
  let same := fun (a b : Inbound) => a.circuit == b.circuit && decide (a.id = b.id)
  let stays := fun (o : Inbound) => decide (o.region ≠ rn) && !(decide (o.region = noRegion) && mine (o.prodHart / 32))
  let rs := rs.filter fun r => mine r.cluster || !(q.records.any fun o => same o r && stays o)
  let new := rs.map fun r =>
    let r := if mine r.cluster then r else { r with region := noRegion, boundary := true, closed := true }
    match q.records.find? (same r) with
    | none => r
    | some o => r.keeping o
  { q with records := (q.records.filter fun o => stays o && !rs.any (same o)) ++ new }

/-- The copies of the DATA records of an image hold their CRC-32 (R156, R166). -/
def State.dataOk (s : State) (ds : List DataRec) : Bool :=
  ds.all fun d => decide (crc32 (memRead s.mem d.hbm d.length) = d.crc)

/-- One block of a DATA record's target takes its bytes from the HBM copy; what lies in banks 12 to 15 of a cluster in cache mode is
discarded and counted (R204). -/
def State.copyBlock (s : State) (d : DataRec) (a n : Nat) : State :=
  if blockedOffset ((a - 0x018000000000) % 0x1000000) && s.cacheMode (clusterOfAddr a) then s.count (s.cluReg (clusterOfAddr a) 0x92C) 1
  else { s with mem := memCopy s.mem (d.hbm + (a - d.addr)) a n }

/-- Copy one DATA record of partition p to its target, through a channel of Gleryn's or the sequencer's (`own`, R187). R168 leaves its
fields unchecked: a copy from outside the partition's HBM, or to a target outside its clusters, is UNPREDICTABLE within the partition. The
model then leaves the target open (R14), and changes nothing where the target itself is not the partition's (log entry 104). -/
def State.copyRecord (s : State) (p : Nat) (q : Part) (own : Nat) (d : DataRec) : State :=
  if !q.ownsSram d.addr d.length then s.draw
  else if !q.ownsHbm d.hbm d.length then s.scramble (some p) d.addr d.length
  else
    let s := (s.readStack d.hbm d.length).1
    let s := (blocksOf d.addr d.length).foldl (fun s e => s.copyBlock d e.1 e.2) s
    s.ownMove d.cluster own d.length

/-- Copy DATA records to their targets. -/
def State.loadData (s : State) (own : Nat) (ds : List DataRec) : State :=
  ds.foldl (fun s d => match s.region d.region with
    | none => s
    | some r => match s.part r.part with
      | none => s
      | some q => s.copyRecord r.part q own d) s

/-- The region number as `EPOCH_HOLD` gives its hold, in µs (R159). -/
def Header.holdUs (h : Header) : Nat := if h.hold = 0 then 100 else h.hold * 10

/-- Load the staged image of region rn: instructions, petals, slot schedules, steering tables, resident
entries and DATA records, and bank 11 (R153). -/
def State.loadRegion (s : State) (rn base : Nat) : State :=
  match s.region rn with
  | none => s
  | some r =>
    let hd := s.header base
    let l := s.sects base hd
    let r := { r with w := hd.w, h := hd.h, holdUs := hd.holdUs, loaded := some base, staged := none,
                      caps := BitVec.ofNat 64 hd.caps, badCopy := false }
    let s := s.setRegion rn r
    let cs := r.clusters
    let s := (List.range cs.length).foldl (fun s i => s.loadCluster base hd l i (cs.getD i 0)) s
    let rs := s.inboundsOf base rn r.cx r.cy l
    let ds := (s.recordsOf base l sData 32).map (dataOf rn r.cx r.cy)
    let s : State := match s.part r.part with
      | none => s
      | some q =>
        let s := s.dropEndpoints (q.endpointsOf rn)
        let s := (rs.filter fun x => !x.circuit).foldl (fun s x => s.addEndpoint r.part x) s
        let q := q.withRecords rn (fun c => r.holds c) rs
        let s := s.setPart r.part { q with data := q.data.filter (fun d => decide (d.region ≠ rn)) ++ ds }
        cs.foldl (fun s c => s.setLanding q c) s
    s.loadData 7 ds

/-- IMAGE_LOAD installs the queue endpoints of a region's first image (R286): their ports stay closed until the region is activated. They replace
those of a staged copy that has not been activated. -/
def State.installStaged (s : State) (rn base : Nat) : State :=
  match s.region rn with
  | none => s
  | some r => match s.part r.part with
    | none => s
    | some q =>
      let hd := s.header base
      let old := q.records.filter fun x => !x.circuit && decide (x.region = rn)
      let new := ((s.inboundsOf base rn r.cx r.cy (s.sects base hd)).filter fun x => !x.circuit).map fun x =>
        let x := { x with closed := true }
        match old.find? fun o => decide (o.id = x.id) with | none => x | some o => x.keeping o
      let s := new.foldl (fun s x => s.addEndpoint r.part x) (s.dropEndpoints (old.map (·.id)))
      let q := { q with records := (q.records.filter fun x => x.circuit || decide (x.region ≠ rn)) ++ new }
      ((old ++ new).map (·.cluster)).eraseDups.foldl (fun s c => s.setLanding q c) (s.setPart r.part q)

/-- The credits of every core of region rn stand as its loops do, tokens still on their way out of the region included (R133). -/
def State.rebaseRegion (s : State) (r : Region) : State :=
  (r.clusters.flatMap hartsOf).foldl (fun s h => s.rebase h) s

end Sys2Proof.Machine
end

