-- ==== Sys2Proof/Machine/Mailbox.lean ====
section
/-! DEFINITION. What mailbox commands share (R315, R322, R326, R329): the command's slot, what a partition
owns, and the failures that end any command. -/

namespace Sys2Proof.Machine

/-! ### Dispatch checks (R319, R326) -/

/-- Operation codes (R327 to R338). -/
def knownOps : List Nat := [0x01, 0x02, 0x03, 0x10, 0x11, 0x12, 0x20, 0x21, 0x22, 0x23, 0x30, 0x31, 0x32, 0x40, 0x41, 0x42, 0x43, 0x50, 0x51, 0x52,
  0x60, 0x61, 0x70, 0x71, 0x72, 0x73, 0x80, 0x81, 0x82, 0xF0]

/-- The command is partition-scope: by its code, or, for ROUTE_SET and TELEMETRY_READ, by its sub-operation or set. -/
def partScope (slot : Bytes) : Bool :=
  let op := fld slot 0 1
  (decide (0x10 ≤ op) && decide (op ≤ 0x32)) || decide (op = 0x52) || (decide (op = 0x40) && decide (fld slot 8 1 = 3))
    || (decide (op = 0x51) && decide (fld slot 8 1 = 1))

/-- Commands that the safe state still serves (R326). -/
def safeOps : List Nat := [0x01, 0x03, 0x60, 0x70, 0x71, 0x72, 0xF0]

def slotRemote (slot : Bytes) : Bool := bitOf (fld slot 1 1) 5
def slotFence (slot : Bytes) : Bool := bitOf (fld slot 1 1) 4
def slotResubmit (slot : Bytes) : Bool := bitOf (fld slot 1 1) 6
def slotPart (slot : Bytes) : Nat := fld slot 4 1
def slotTarget (slot : Bytes) : BitVec 24 := BitVec.ofNat 24 (fld slot 5 3)

/-- Commands that debug mode serves (R428). -/
def debugOps : List Nat := [0x01, 0x03, 0x60, 0xF0]

/-- The checks of R326 before a command's own: the status and the byte of the first failing field. A relayed command's
partition is its target's, which checks it. -/
def State.screen (s : State) (slot : Bytes) : Option (Nat × Nat) :=
  let op := fld slot 0 1
  let p := slotPart slot
  let remote := slotRemote slot
  let partOk := if !partScope slot then decide (p = 0xFF) else if op = 0x10 then decide (p < 64) else (s.part p).isSome
  let absorbing := match s.part p with
    | none => false
    | some q => match q.reset with | none => false | some r => r.absorb
  if fld slot 1 1 % 16 ≠ 1 then some (stVersion, 1)
  else if !knownOps.contains op then some (stVersion, 0)
  else if !remote && !partOk then some (stFault, 4)
  else if remote && !s.isBridge then some (stFault, 1)
  else if remote && !s.trust.peers.contains (slotTarget slot) then some (stFault, 5)
  else if !remote && partScope slot && absorbing then some (stAbsorbed, 4)
  else if s.mgtField 8 0 3 = 4 && !safeOps.contains op then some (stFenced, 0)
  else if s.trust.debug && !debugOps.contains op then some (stFenced, 0)
  else none

/-- Start a command (R322): it gets a number, and ends at once if R326 says so. -/
def State.startCmd (s : State) (o : Origin) (slot : Bytes) : State :=
  let id := s.host.nextId
  let s := { s with host := { s.host with nextId := id + 1, started := tput s.host.started id { origin := o, slot := slot } } }
  match s.screen slot with
  | none => s
  | some (st, off) => s.finish id st 0 0 off

/-- A command that came in a RELAY or MGMT packet (R343, R344). -/
def State.startPacket (s : State) (p : Packet) : State :=
  let slot := slice p.payload 0 64
  let reply := BitVec.ofNat 24 (fld p.payload 64 3)
  let rseq := BitVec.ofNat 32 (fld p.payload 68 4)
  let input := slice p.payload 96 (fld p.payload 72 4)
  let key := fun (sl : Bytes) => (slotPart sl, fld sl 2 2)
  let slot := patch slot 1 (u8 (setBits (fld slot 1 1) 5 1 0))
  if !slotResubmit slot then s.startCmd (.packet reply rseq p.seq input) slot
  else match s.host.kept.find? fun e => decide (e.1 = slotPart slot) && decide (e.2.1.toNat = fld slot 2 2) with
    | some e => s.glerynSend (s.mgmtReply reply rseq p.seq e.2.2 [])
    | none =>
      let same := fun (c : Started) => decide (key c.slot = key slot) && match c.origin with | .packet _ _ _ _ => true | _ => false
      match s.host.started.find? fun e => same e.2 with
      | some e => { s with host := { s.host with
          started := tput (tdel s.host.started e.1) e.1 { e.2 with also := e.2.also ++ [(reply, rseq, p.seq)] } } }
      | none => s.startCmd (.packet reply rseq p.seq input) slot

/-- End a command with a status and zero results. -/
def State.fail (s : State) (id status : Nat) (detail : Nat := 0xFF) : State := s.finish id status 0 0 detail

/-- The regions of a 256-bit mask at bytes 32 to 63 of a slot. -/
def Started.regions (c : Started) : Nat := c.arg 32 32

/-- Every command of an activation remembers the first failure among its regions (R153, R156). -/
def State.noteFailure (s : State) (id status : Nat) : State :=
  match s.cmd id with
  | none => s
  | some c => if c.worst ≠ 0 then s
    else { s with host := { s.host with started := tput (tdel s.host.started id) id { c with worst := status } } }

/-- No region is still being activated for command `id`: the command ends. -/
def State.settleActivation (s : State) (id : Nat) : State :=
  if s.regions.any (fun e => match e.2 with
      | none => false
      | some r => match r.act with | none => false | some a => decide (a.cmd = id)) then s
  else match s.cmd id with
    | none => s
    | some c => s.finish id c.worst 0 0

/-- Close or reopen the boundary ports of region rn (R153); on reopening, a held token's time starts anew. -/
def State.setPorts (s : State) (rn : Nat) (closed : Bool) : State :=
  match s.region rn with
  | none => s
  | some r =>
    let f := fun (x : Inbound) => if x.region = rn ∧ x.boundary then { x with closed := closed, held := false } else x
    s.modPart r.part fun q => { q with records := q.records.map f }

/-- The activation of region rn ends without loading: ports reopen, image and epoch stay (R156). -/
def State.dropActivation (s : State) (rn status : Nat) : State :=
  match s.region rn with
  | none => s
  | some r => match r.act with
    | none => s
    | some a => (((s.setRegion rn { r with act := none }).setPorts rn false).noteFailure a.cmd status).settleActivation a.cmd

end Sys2Proof.Machine
end

