-- ==== Sys2Proof/Machine/Steps.lean ====
section
/-! DEFINITION. Steps of a partition (R142 to R149, R221, R331, R332, R339): their start, the injection of their
inputs, their end, the clearing of their traffic, and replay. -/

namespace Sys2Proof.Machine

/-! ### Start (R331) -/

/-- The result buffer is ready and not released. -/
def Part.resultBusy (q : Part) (st : StepRec) : Bool := decide (st.resAddr ≠ 0) && q.results.any fun e => decide (e.1 = st.resAddr)

/-- Steps 3 and 4 of R331: BUSY, or the step count advances and the header of the result buffer is written with
`READY` 0 and no payload. The step waits for its release. -/
def State.beginStep (s : State) (p : Nat) (st : StepRec) : State :=
  match s.part p with
  | none => s
  | some q =>
    if q.resultBusy st then s.fail st.cmd stBusy
    else
      let n := q.stepCount + 1
      let s := if st.resAddr = 0 then s else s.poke st.resAddr (resultHeader 0 0 (n.toNat % 0x100000000) ++ List.replicate 56 0)
      s.setPart p { q with stepCount := n, step := some st }

/-- The next queued step begins once the partition runs none; a bad resident copy that a repair has found since its check ends it with FAULT
(R186). -/
def State.promote (s : State) (p : Nat) : Nat → State
  | 0 => s
  | fuel + 1 => match s.part p with
    | none => s
    | some q =>
      if q.step.isSome then s
      else match q.queued with
        | [] => s
        | st :: rest =>
        let s := s.setPart p { q with queued := rest }
        if (s.regionsOf p).any fun e => e.2.badCopy then (s.fail st.cmd stFault).promote p fuel
        else (s.beginStep p st).promote p fuel

/-! ### Inputs (R332) -/

/-- Entry i of an input list: endpoint, count and source address. -/
def State.inputEntry (s : State) (st : StepRec) (i : Nat) : BitVec 24 × Nat × Nat :=
  let b := memRead s.mem (st.inAddr + 16 * i) 16
  (BitVec.ofNat 24 (fld b 0 3), fld b 4 4, fld b 8 6)

/-- Index of the resident queue endpoint of an EID among a partition's records. -/
def Part.endpoint (q : Part) (eid : BitVec 24) : Option Nat := q.records.findIdx? fun r => !r.circuit && decide (r.id = eid)

/-- Epoch that a record expects: its own, or its region's in the ADOPT state or inside the region. -/
def State.expected (s : State) (r : Inbound) : BitVec 3 :=
  if r.boundary then r.expect.getD (s.epochOf r.cluster) else s.epochOf r.cluster

/-- Inject the step's inputs: each entry's tokens in order under the epoch its record expects (R332). They
stand before the endpoint from then on (log entry 18). -/
def State.inject (s : State) (p : Nat) (st : StepRec) : State :=
  (List.range st.inCount).foldl (fun s i =>
    let e := s.inputEntry st i
    match s.part p with
    | none => s
    | some q => match q.endpoint e.1 with
      | none => s
      | some j => match s.inbound p j with
        | none => s
        | some r =>
          let ts := (tokensOf e.2.1 (memRead s.mem e.2.2 (66 * e.2.1))).map fun t => t.restamp (s.expected r)
          s.setInbound p j { r with land := r.land ++ ts }) s

/-! ### Release (R143, R221) -/

/-- Clusters of a step's regions. -/
def State.stepClusters (s : State) (p : Nat) (st : StepRec) : List Nat := (s.stepRegions p st).flatMap fun e => e.2.clusters

/-- Write the step tag of partition p to every stack (R219). -/
def State.writeTags (s : State) (p tag : Nat) : State :=
  (List.range 24).foldl (fun s n => s.setField (sbdBase n + 0x200 + 4 * p) 0 8 (tag % 256)) s

/-- The regions' records have delivered nothing yet. -/
def State.clearEnds (s : State) (p : Nat) (rs : List Nat) : State :=
  let f := fun (x : Inbound) => if rs.contains x.region then { x with admitted := false, popped := false } else x
  s.modPart p fun q => { q with records := q.records.map f }

/-- Release the step st of partition p: petals, fold entry 0, inputs (R143, R331). -/
def State.release (s : State) (p : Nat) (st : StepRec) : State :=
  let rs := s.stepRegions p st
  let s := s.clearEnds p (rs.map (·.1))
  let s := rs.foldl (fun s e => s.setRegion e.1 { e.2 with ended := false }) s
  let s := (rs.flatMap fun e => e.2.clusters).foldl (fun s c => (s.releaseCluster c).setPower c 3) s
  let s := s.inject p st
  let s := match s.part p with
    | none => s
    | some q => s.writeTags p q.stepCount.toNat
  s.modPart p fun q => { q with step := some { st with released := true, start := s.now }, lastRel := some s.now, rotated := [], throttled := false }

/-- Conditions of a release: no activation in progress (R156), every cluster awake (R363), none paused, no shed (R379), a
microsecond since the last (R221), no discard due (R220), no freeze or reset. -/
def State.canRelease (s : State) (p : Nat) (q : Part) (st : StepRec) : Bool :=
  !st.released && decide (q.freeze = .no) && decide (q.freezeDue = .no) && q.reset.isNone && !q.discardDue
    && (s.regionsOf p).all (fun e => e.2.act.isNone) && !s.shedding
    && (s.stepClusters p st).all (fun c => decide (2 ≤ s.power? c) && !s.power.paused.contains c)
    && (match q.lastRel with | none => true | some t => decide (t + usec 1 ≤ s.now))

/-! ### End (R144) -/

/-- Core h has come to rest: it runs nothing, or stands at a P.YIELD with engines idle and output queues empty. -/
def State.rests (s : State) (h : Nat) : Bool :=
  let c := s.core h
  !c.running || (c.yielded && c.busyMask == 0 && c.outq.all fun e => decide (e.2.tokens = []))

/-- Image channel idle (R198). -/
def Channel.idle (c : Channel) : Bool := c.queue.isEmpty && c.run.isNone

def Cluster.moversIdle (c : Cluster) : Bool := c.chans.all fun e => !imageChan e.1 || e.2.idle

/-- No fold entry remains (R144). -/
def Cluster.foldDone (c : Cluster) : Bool := decide (c.foldCount ≤ c.foldAt)

/-- Region rn has come to its step end (R144, R198). -/
def State.regionDone (s : State) (q : Part) (rn : Nat) (r : Region) : Bool :=
  q.records.all (fun x => decide (x.region ≠ rn) || !x.stepEnd || x.popped)
    && r.clusters.all fun c => (hartsOf c).all s.rests && (s.clu c).foldDone && (s.clu c).moversIdle

/-! ### Repairs of audited data (R186) -/

/-- Restore one DATA record of partition p from its HBM copy: a copy that fails its CRC marks the region bad and
is recorded (event 0x0304); a bank 11 part is rewritten from Gleryn's copy of the image. -/
def State.repairRecord (s : State) (p rec : Nat) : State :=
  match s.part p with
  | none => s
  | some q => match q.data[rec]? with
    | some d =>
      if crc32 (memRead s.mem d.hbm d.length) = d.crc then s.loadData 6 [d]
      else
        let s := s.modRegion d.region fun r => { r with badCopy := true }
        s.record 0x0304 4 p d.region (onCluster d.cluster) (u32 rec ++ u64 d.clean.toNat ++ u64 q.stepCount.toNat)
    | none =>
      let m := rec - q.data.length
      let c := q.clusters.getD (m / 288) 0
      match s.regionOf c with
      | none => s
      | some rn => match s.region rn with
        | none => s
        | some r => match r.loaded with
          | none => s
          | some base =>
            let l := s.sects base (s.header base)
            s.writeBackup base l ((r.clusters.findIdx? (· = c)).getD 0) c

/-- The repairs that wait for a step boundary (R186). -/
def State.repairRecords (s : State) (p : Nat) : State :=
  match s.part p with
  | none => s
  | some q => (q.repairRec.foldl (fun s r => s.repairRecord p r) s).modPart p fun q => { q with repairRec := [] }

/-! ### Clearing and replay (R142, R147) -/

/-- Discard the tokens of every region of partition p and stop its cores (R147 step 1). -/
def State.clearPart (s : State) (p : Nat) : State :=
  (s.regionsOf p).foldl (fun s e => let s := s.clearRegion p e.1 e.2 false true; e.2.clusters.foldl (fun s c => s.stopCluster c) s) s

/-- Advance every region's epoch and send marks (R147 step 2), but for regions in `keep` (R156). -/
def State.advanceAll (s : State) (p : Nat) (keep : List Nat) : State :=
  (s.regionsOf p).foldl (fun s e => if keep.contains e.1 || e.2.loaded.isNone then s else s.advanceEpoch e.1 false) s

/-- Some region of partition p may not advance its epoch now (R149). -/
def State.rateLimited (s : State) (p : Nat) : Bool := (s.regionsOf p).any fun e => e.2.limited s.now

/-- Clear the traffic of an ended step as a replay does, without running it again (R142, R333); its KV appends
await their discard. Regions in `keep` keep their epoch. Under the limit of R149 the partition stays frozen until
its regions may advance. -/
def State.clearStep (s : State) (p : Nat) (keep : List Nat) : State :=
  let s := (s.clearPart p).modPart p fun q => { q with discardDue := true }
  if (s.regionsOf p).any (fun e => !keep.contains e.1 && e.2.limited s.now) then
    s.modPart p fun q => { q with rateWait := true, rateKeep := keep, freeze := .standIn }
  else s.advanceAll p keep

/-- A partition leaves its freeze: each core that stood in is recorded with the cause and how late the step runs (R80),
and a REPAIR whose partitions are all released completes (R400). -/
def State.freezeDone (s : State) (p : Nat) : State :=
  match s.part p with
  | none => s
  | some q =>
    let s := q.standing.foldl (fun s e =>
      s.record 0x0102 3 p ((s.regionOf (e.1 / 32)).getD 0) (onCluster (e.1 / 32)) (u8 q.standBit ++ u32 ((s.now - q.standAt) / 1100))) s
    let left := s.sparing.retireCmds.map fun e => (e.1, e.2.filter (· ≠ p))
    let s := { s with sparing := { s.sparing with retireCmds := left.filter fun e => decide (e.2 ≠ []) } }
    (left.filter fun e => decide (e.2 = [])).foldl (fun s e => s.finish e.1 stOk 0 0) s

/-- Replay (R147): discard, advance, restore and re-inject; the partition runs again. Regions that take no part
in the step have their petals restored. -/
def State.replay (s : State) (p : Nat) : State :=
  match s.part p with
  | none => s
  | some q =>
    let s := (s.freezeDone p).modPart p fun q => { q with freeze := .no, rateWait := false, standing := [] }
    match q.step with
    | none => s
    | some st =>
      if !st.released then s
      else
        let s := (s.clearPart p).advanceAll p []
        let s := ((s.regionsOf p).flatMap fun e => e.2.clusters).foldl
          (fun s c => (hartsOf c).foldl (fun s h => s.freshPetals h) (s.invalidateCache c)) s
        let rs := s.stepRegions p st
        let s := s.clearEnds p (rs.map (·.1))
        let s := (rs.flatMap fun e => e.2.clusters).foldl (fun s c => (s.releaseCluster c).setPower c 3) s
        (s.inject p st).modPart p fun q => { q with lastRel := some s.now }

end Sys2Proof.Machine
end

