-- ==== Sys2Proof/Machine/Defects.lean ====
section
/-! DEFINITION. What a retirement concerns (R27, R398), the remap tables that the defect map gives (R181 to R184), and the CLUSTER
reset (R388, R404). -/

namespace Sys2Proof.Machine

/-! ### What a retirement concerns (R27, R398) -/

/-- The rod's unassigned site is a good unused spare (R25, R398). -/
def State.hasSpare (s : State) (rod : Nat) : Bool :=
  let site := rod * 13 + s.unassigned rod
  !s.sparing.usedSpare.contains rod && !s.sparing.badSite site && !s.sparing.stepFenced.contains site && !s.sparing.lostDies.contains (dieOfSite site)

/-- Sites whose logical die changes when `site` is retired: those from the failing one to the spare, or itself. -/
def State.movedSites (s : State) (site : Nat) : List Nat :=
  let rod := site / 13
  let a := site % 13
  let u := s.unassigned rod
  if s.hasSpare rod then (List.range 13).filterMap fun x =>
    if decide (Nat.min a u ≤ x) && decide (x ≤ Nat.max a u) && decide (x ≠ u) then some (rod * 13 + x) else none
  else [site]

/-- Partitions that take part in the retirement of a site (R398). -/
def State.retireParts (s : State) (site : Nat) : List Nat :=
  let m := s.movedSites site
  s.parts.filterMap fun e => match e.2 with
    | none => none
    | some q => if q.clusters.any (fun c => m.contains (s.blk c / 4)) then some e.1 else none

/-- Nothing that partition p is frozen for remains to be done (R80, R142, R180, R398). -/
def State.restored (s : State) (p : Nat) (q : Part) : Bool :=
  q.standing.all (fun e => decide (e.2 = 3)) && !q.discardDue
    && s.sparing.retireDue.all fun e => !(s.retireParts e.1).contains p

/-- A retirement of `site` becomes due (R398): its partitions freeze at their next flow-token boundary, or, for a die
that still works, at their next step boundary. -/
def State.retireDie (s : State) (site cause : Nat) (cmd : Option Nat) (late : Bool) : State :=
  if s.sparing.retireDue.any (fun e => decide (e.1 = site)) || s.isHole site || (s.siteDie site).isNone then s
  else
    let s := { s with sparing := { s.sparing with retireDue := s.sparing.retireDue ++ [(site, cause, cmd)] } }
    (s.retireParts site).foldl (fun s p => s.modPart p fun q =>
      if q.freeze = .no then { q with freezeDue := .retirement, freezeLate := late && (q.freezeLate || decide (q.freezeDue = .no)) } else q) s

/-- Gleryn is repairing the die of logical cluster c: its retirement is due, and the partition that owns the cluster is frozen for it
(R36, R398). -/
def State.clusterRepairing (s : State) (c : Nat) : Bool :=
  s.sparing.retireDue.any (fun e => (s.movedSites e.1).contains (s.blk c / 4))
    && match s.partOf c with | none => true | some p => s.frozen p

/-- Stack of address a has tripped, and serves no request (R230). -/
def State.tripped (s : State) (a : Nat) : Bool := isHbm a && decide (s.field (sbdBase (stackOf a) + 4) 0 2 = 2)

/-- An access to panel address a is held: until the repair of its cluster's die is done (R36), or its stack's trip has ended (R230). -/
def State.repairing (s : State) (a : Nat) : Bool := (isSram a && s.clusterRepairing (clusterOfAddr a)) || s.tripped a

/-- Hold an access (R36). -/
def State.holdAccess (s : State) (h : HeldAccess) : State := { s with sparing := { s.sparing with waiting := s.sparing.waiting ++ [h] } }

/-! ### Remap tables (R181 to R184) -/

/-- Bad rows of a unit by detail bank: (row, source bit), fuse rows first. -/
def Sparing.rows (m : Sparing) (kind die unit shift bank rowMask : Nat) : List (Nat × Nat) :=
  let hit := fun (k d u x : Nat) => decide (k = kind) && decide (d = die) && decide (u = unit) && decide (x / 2 ^ shift = bank)
  (m.fuse.filterMap fun e => if hit e.1 e.2.1 e.2.2.1 e.2.2.2 then some (e.2.2.2 % rowMask, 0) else none)
    ++ m.fieldList.filterMap fun e => match e with
      | none => none
      | some d => if hit d.kind d.die d.unit d.detail && decide (d.source ≠ 3) then some (d.detail % rowMask, 1) else none

/-- A remap entry that uses spare row i (R182). -/
def remapWord (row i source : Nat) : Word := BitVec.ofNat 32 (row + i * 1024 + 0x8000 + source * 0x10000 + 0x10000000)

/-- Spare rows of a bank with n of them that have passed their own test (R183, R184). -/
def Sparing.goodSpares (m : Sparing) (kind die unit bank n : Nat) : List Nat :=
  (List.range n).filter fun i => !m.badSpares.contains (kind, die, unit, bank * 65536 + i)

/-- Write one bank's table of n entries at register address a: each bad row gets the next good spare row. -/
def State.writeRemap (s : State) (a n : Nat) (good : List Nat) (rows : List (Nat × Nat)) : State :=
  (List.range n).foldl (fun s i => match rows[i]?, good[i]? with
    | some r, some k => s.setReg (a + 4 * i) (remapWord r.1 k r.2)
    | _, _ => s.setReg (a + 4 * i) 0x10000000) s

/-- The spare row that an access to a row of a bank goes to, by the bank's table of n entries at register address a; none, where it goes
to the row itself. The lowest valid entry that names the row applies (R181). Bytes of memory are kept under the address that reaches them,
whichever row holds them: a table changes only while the bank's contents are open or are written anew (R183, R388; log entry 34). -/
def State.spareOf (s : State) (a n row : Nat) : Option Nat :=
  ((List.range n).find? fun i => decide (s.field (a + 4 * i) 15 1 = 1) && decide (s.field (a + 4 * i) 0 10 = row)).map
    fun i => s.field (a + 4 * i) 10 5

/-- Write the remap tables of block b from the defect map, and `CM_SPARES_MIN` (R183, R184). -/
def State.writeRemaps (s : State) (b : Nat) : State :=
  let site := b / 4
  let q := b % 4
  let m := s.sparing
  let cm := fun (bank : Nat) => m.rows kCmRow site q 16 bank 1024
  let good := fun (bank : Nat) => m.goodSpares kCmRow site q bank 32
  let s := (List.range 16).foldl (fun s bank => s.writeRemap (cluBase b + 0x1000 + bank * 128) 32 (good bank) (cm bank)) s
  let left := ((List.range 16).map fun bank => (good bank).length - (cm bank).length).foldl Nat.min 32
  let s := s.setField (cluBase b + 0x900) 8 6 left
  (List.range 34).foldl (fun s p => (List.range 4).foldl (fun s bank =>
    s.writeRemap (coreBase (b * 34 + p) + 0x400 + bank * 32) 8 (m.goodSpares kNsRow site (q * 34 + p) bank 8)
      (m.rows kNsRow site (q * 34 + p) 16 bank 128)) s) s

/-- A cluster-memory bank has more failing rows than good spare rows (R184). -/
def Sparing.bankOut (m : Sparing) (b : Nat) : Bool :=
  (List.range 16).any fun bank => decide ((m.goodSpares kCmRow (b / 4) (b % 4) bank 32).length < (m.rows kCmRow (b / 4) (b % 4) 16 bank 1024).length)

/-- A near-store bank of physical core p has (R184). -/
def Sparing.nearOut (m : Sparing) (b p : Nat) : Bool :=
  (List.range 4).any fun bank =>
    decide ((m.goodSpares kNsRow (b / 4) (b % 4 * 34 + p) bank 8).length < (m.rows kNsRow (b / 4) (b % 4 * 34 + p) 16 bank 128).length)

/-! ### CLUSTER reset (R404) -/

/-- Offsets of a block's window that a CLUSTER reset clears: `CLU_` and `CORE_` registers but the self-test results
(R412), and the counters and slot tables of the router, which itself runs on (R389). -/
def clusterCleared (o : Nat) : Bool :=
  if decide (0x200000 ≤ o) then true
  else if decide (0x110000 ≤ o) then true
  else if decide (0x100000 ≤ o) then
    let r := o - 0x100000
    (decide (4 ≤ r) && decide (r < 0x18)) || (decide (0x40 ≤ r) && decide (r < 0x58))
      || (decide (0x100 ≤ r) && decide (r < 0x240) && decide (4 ≤ r % 0x40) && decide (r % 0x40 < 0x38))
  else !(decide (0xB00 ≤ o) && decide (o < 0xB40))

/-- The physical cores of block b after a reset: no tile queued, spares idle. -/
def State.resetPhys (s : State) (b : Nat) : State :=
  (List.range 34).foldl (fun s p =>
    let pk := b * 34 + p
    let x := s.physCore pk
    s.setPhys pk { x with tiles := [], tie := none, duty := if (s.hartOf pk).isSome then 0 else 2 }) s

/-- CLUSTER reset of logical cluster c: petals, queues, credits, counters and configuration go, the remap tables are
rewritten, the shadow sampler is reseeded (R109), and SRAM is unpredictable; identity and core map stay. -/
def State.resetCluster (s : State) (c : Nat) : State :=
  let b := s.blk c
  let base := cluBase b
  let s := { s with cores := s.cores.filter fun e => decide (e.1 / 32 ≠ c) }
  let s := s.setClu c { coreMap := (s.clu c).coreMap }
  let s := s.clearRegs fun a => decide (base ≤ a) && decide (a < base + 0x400000) && clusterCleared (a - base)
  let s := (s.resetPhys b).writeRemaps b
  s.scramble (s.partOf c) (sramBase c) 0x1000000

end Sys2Proof.Machine
end

