-- ==== Sys2Proof/Machine/Net.lean ====
section
/-! DEFINITION. The packet service (R235 to R251) and its end-to-end agents (R276 to R282): where a packet goes, the
flows it belongs to, and the answers it gets. An agent is numbered: a logical cluster by its index, Gleryn 600,
stack n 700 + n, collective engine e of link die k 1000 + 4k + e. -/

namespace Sys2Proof.Machine

abbrev agGleryn : Nat := 600
abbrev agStack : Nat := 700
abbrev agEngine : Nat := 1000

/-! ### Exit entries (R248) -/

/-- Longest run of consecutive numbers in a rising list, the lower one on a tie. -/
def longestRun : List Nat → List Nat → List Nat → List Nat
  | best, cur, [] => if best.length < cur.length then cur else best
  | best, cur, x :: xs =>
    if cur.getLast?.map (· + 1) = some x then longestRun best (cur ++ [x]) xs
    else longestRun (if best.length < cur.length then cur else best) [x] xs

/-- Edge and range of exit n; none when the die cannot be reached directly (R213, R239, R248). -/
def State.exitRange (s : State) (n : Nat) : Option (Nat × Nat × Nat) :=
  if n < 24 then
    let rod := if n < 12 then 0 else 11
    let xs := [n % 12, n % 12 + 1].filterMap fun p => if s.inUse (rod * 13 + p) then (s.siteDie (rod * 13 + p)).map (·.1) else none
    if s.stackLost n then none
    else match xs with
      | [] => none
      | x :: r => some (if n < 12 then 0 else 2, 2 * r.foldl Nat.min x, 2 * r.foldl Nat.max x + 1)
  else if n < 30 then
    match s.linkServing (n - 24) with
    | none => none
    | some k =>
      let x := if k < 3 then 0 else 11
      match longestRun [] [] (((List.range 4).map (k % 3 * 4 + ·)).filter fun y => s.inUse (s.dieSite x y)) with
      | [] => none
      | y :: ys => some (if k < 3 then 3 else 1, 2 * y, 2 * ((y :: ys).getLast?.getD y) + 1)
  else if n = 30 then (if s.inUse 0 then some (0, 0, 0) else none)
  else if s.inUse (11 * 13 + 12) then some (2, 23, 23) else none

/-- The link die over which a control die without a usable edge site is reached (R21, R248): LD0 for CT-A; for CT-B the spec names none, and
the model takes LD5 (log entry 38). -/
def State.rimDie (s : State) (n : Nat) : Option Nat :=
  let k := if n = 30 then 0 else 5
  if n < 30 then none else if !s.linkLost k && (s.rimWay k (n - 24)).isSome then some k else none

/-- `FAB_EXIT` entry n, the same in every router (R248). -/
def State.exitWord (s : State) (n : Nat) : Word :=
  BitVec.ofNat 32 (0x10000000 + if !s.sparing.routesUp then 0
    else match s.exitRange n with
      | some (e, lo, hi) => e + lo * 4 + hi * 128 + 0x1000
      | none => match s.rimDie n with
        | none => 0
        | some k => 0x2000 + k * 0x4000)

/-- Cluster at a position of an edge. -/
def edgeCluster (edge pos : Nat) : Nat :=
  if edge = 0 then pos else if edge = 1 then pos * 24 + 23 else if edge = 2 then 23 * 24 + pos else pos * 24

/-! ### Routes (R249) -/

/-- An X leg in a rod between two logical dies crosses no gap (R237). -/
def State.legX (s : State) (rod x1 x2 : Nat) : Bool :=
  let a := s.dieSite x1 rod % 13
  let b := s.dieSite x2 rod % 13
  let lo := Nat.min a b
  (List.range (Nat.max a b - lo)).all fun i => s.inUse (rod * 13 + lo + i) || s.inUse (rod * 13 + lo + i + 1)

/-- A Y leg in a column crosses no hole. -/
def State.legY (s : State) (x y1 y2 : Nat) : Bool :=
  let lo := Nat.min y1 y2
  (List.range (Nat.max y1 y2 - lo + 1)).all fun i => !s.isHole (s.dieSite x (lo + i))

/-- The network that the router of cluster c chooses for cluster t; none when t is unreachable. -/
def State.network (s : State) (c t : Nat) : Option (BitVec 1) :=
  let sx := c % 24 / 2
  let sy := c / 24 / 2
  let tx := t % 24 / 2
  let ty := t / 24 / 2
  if s.legX sy sx tx && s.legY tx sy ty then some 0
  else if s.legY sx sy ty && s.legX ty sx tx then some 1 else none

def dist (a b : Nat) : Nat := Nat.max a b - Nat.min a b

/-- The reachable position of an exit nearest the source's own coordinate, the lower on a tie, with its network. -/
def State.exitFrom (s : State) (c n : Nat) : Option (Nat × BitVec 1) :=
  match s.exitRange n with
  | none => none
  | some (edge, lo, hi) =>
    let own := if edge % 2 = 0 then c % 24 else c / 24
    let ps := (List.range (hi + 1 - lo)).map (lo + ·)
    let ok := ps.filterMap fun p => (s.network c (edgeCluster edge p)).map fun n => (p, n)
    ok.foldl (fun best x => match best with
      | none => some x
      | some b => if dist x.1 own < dist b.1 own then some x else some b) none

/-- The router of cluster c reaches this target: the network, and the cluster at which the packet leaves the fabric. A control die is also
reached over the rim. -/
def State.reach (s : State) (c : Nat) : Target → Option (BitVec 1 × Nat)
  | .cluster t => if s.clusterHole t then none else (s.network c t).map fun n => (n, t)
  | .exit n =>
    let at_ := fun (k : Nat) => match s.exitFrom c k, s.exitRange k with
      | some (p, net), some (edge, _, _) => some (net, edgeCluster edge p)
      | _, _ => none
    match s.exitRange n, s.rimDie n with
    | none, some k => at_ (24 + k)
    | _, _ => at_ n
  | _ => some (0, c)

/-- Home link die of a cluster (R247). -/
def homeLink (c : Nat) : Nat := c / 48 / 4 + if c % 24 < 12 then 0 else 3

/-- EID lies in this panel's block: index in it (R282). -/
def State.ownEid (s : State) (eid : BitVec 24) : Option Nat :=
  let b := (s.mgt 0x14).toNat % 0x1000000
  if b ≠ 0 ∧ b ≤ eid.toNat ∧ eid.toNat < b + 640 then some (eid.toNat - b) else none

/-- Target of a destination at a source router whose home link die is k (R247). An EID of the panel's own block that the resident table does
not hold names a cluster or Gleryn (log entry 42). -/
def State.resolve (s : State) (k : Nat) (dest : BitVec 24) : Target :=
  if isAttention dest then .exit (dest.toNat - 0xFFFFC0)
  else match s.resFind dest with
    | some i => .cluster (bits (s.resEntry i) 28 10)
    | none => match s.ownEid dest with
      | some i => if i < 576 then .cluster i else .exit (30 + s.activeCt)
      | none => if 0xFFFF00 ≤ dest.toNat then .exit (30 + s.activeCt) else .exit (24 + k)

/-- Target of a packet of agent a's: a multicast goes to its home link die, which answers it (R290); anything else as `resolve` gives. -/
def State.targetOf (s : State) (k : Nat) (p : Packet) : Target := if isGroup p.dest then .exit (24 + k) else s.resolve k p.dest

/-- Target of a panel address at a source router (R247). -/
def State.addrTarget (s : State) (a : Nat) : Target :=
  let w := a / 0x1000000
  if isHbm a then .exit (stackOf a)
  else if isSram a then .cluster (clusterOfAddr a)
  else if 0x020000 ≤ w ∧ w < 0x02009C then
    let site := w - 0x020000
    if s.inUse site then .cluster ((s.blkCluster (site * 4)).getD 0) else .exit (30 + s.activeCt)
  else if 0x020100 ≤ w ∧ w < 0x020118 then .exit (w - 0x020100)
  else if 0x020200 ≤ w ∧ w < 0x020206 then .exit (24 + (w - 0x020200))
  else if 0x020300 ≤ w ∧ w < 0x020302 then .exit (30 + (w - 0x020300))
  else .exit (30 + s.activeCt)

/-! ### Answers (R273, R277, R278) -/

/-- An answer to a packet: it carries the packet's `SEQ` and names the endpoint as its source. -/
def answerTo (p : Packet) (cls op addr : Nat) (payload : Bytes) : Packet :=
  ({ mkPacket cls op p.src p.dest addr false payload with seq := p.seq }).sealed

def ackOf (p : Packet) : Packet := answerTo p 2 0x20 0 []

/-- NACK, or COLL_ACK for a collective packet (R284). Replies are never answered. -/
def nackOf (p : Packet) (status : Nat) : Packet :=
  if p.cls = 3 then answerTo p 3 0x32 status [] else answerTo p 2 0x21 status []

def collAckOf (p : Packet) (status : Nat) : Packet := answerTo p 3 0x32 status []

def readDataOf (p : Packet) (bs : Bytes) : Packet := answerTo p 2 0x22 p.addr.toNat bs

/-! ### A link die's buffer pool (R292, R293) -/

/-- Flits of a packet (R270). -/
def packetFlits (p : Packet) : Nat := ceilDiv (32 + 32 * p.len.toNat) 232

def packetSvl (p : Packet) : Nat := p.cls.toNat * 2 + p.vl.toNat

/-- Flits in a port's egress staging of an SVL. -/
def LinkPort.stagedFlits (x : LinkPort) (v : Nat) : Nat :=
  ((x.staged.filter fun e => decide (packetSvl e.pkt = v)).map fun e => packetFlits e.pkt - e.sent).foldl (· + ·) 0

/-- Flits of packets that have come to link die `die` from the fabric, by rod seam, class and network. -/
def State.fabricFlits (s : State) (die key : Nat) : Nat :=
  ((s.moving.filter fun m => decide (m.target = .exit (24 + die)) && decide (m.legs = []) && decide (m.goal / 48 % 4 * 8 + (m.pkt.cls.toNat + 4 * m.net.toNat) = key)).map
    fun m => packetFlits m.pkt).foldl (· + ·) 0

/-- Flits of the shared space of a link die that staging and fabric inputs take beyond the 8 reserved for each. -/
def State.sharedFlits (s : State) (die : Nat) : Nat :=
  ((List.range 48).map fun i => (s.port (die * 6 + i / 8)).stagedFlits (i % 8) - 8).foldl (· + ·) 0
    + ((List.range 32).map fun k => s.fabricFlits die k - 8).foldl (· + ·) 0

/-- A place that holds n flits of link die `die` has room for f more: 8 reserved, 16,384 shared of its own at most, 31,744 shared in all. -/
def State.dieRoom (s : State) (die n f : Nat) : Bool :=
  decide (n + f ≤ 8) || (decide (n + f - 8 ≤ 16384) && decide (s.sharedFlits die + ((n + f - 8) - (n - 8)) ≤ 31744))

/-- The whole packet has room in the egress staging of a port (R292). -/
def State.stageRoom (s : State) (port v f : Nat) : Bool := s.dieRoom (port / 6) ((s.port port).stagedFlits v) f

/-! ### Packets in the routers (R246, R250, R251) -/

/-- Units of a packet (R246). -/
def unitCount (p : Packet) : Nat := ceilDiv (32 + p.payload.length) 64

/-- Unit i of a packet on a network (R246, R252). -/
def packetUnitAt (p : Packet) (net : BitVec 1) (i : Nat) : BitVec 552 :=
  BitVec.ofNat 552 (leNat (padTo 64 (slice p.bytes (64 * i) 64)) + 2 ^ 540 + 2 ^ 541 + p.cls.toNat * 2 ^ 542 + net.toNat * 2 ^ 544
    + b2n (decide (i = 0)) * 2 ^ 545 + b2n (decide (i + 1 = unitCount p)) * 2 ^ 546)

/-- The pair of message class and network of a packet under way. -/
def Moving.pair (m : Moving) : Nat := m.pkt.cls.toNat + 4 * m.net.toNat

/-- The legs that lie in input buffers, each with the units that the router before it has sent towards it; the source's own leg does not. -/
def Moving.buffered (m : Moving) : List (Leg × Nat) := List.zip m.legs ((m.legs.drop 1).map (·.sent))

/-- Units of a pair that an input port's buffer holds or that are on their way to it (R250). -/
def State.unitsAt (s : State) (key pair : Nat) : Nat :=
  ((s.moving.filter fun m => decide (m.pair = pair)).map fun m =>
    ((m.buffered.filter fun e => decide (e.1.key = key)).map fun e => e.2 - e.1.sent).foldl (· + ·) 0).foldl (· + ·) 0
    + ((tget {} s.seams key).units.filter fun u => decide (unitPair u = pair)).length

/-- Units of a pair that an input port still has room for: 4 reserved for the pair, 96 shared, 64 of a pair at most (R250). -/
def State.unitRoom (s : State) (key pair : Nat) : Nat :=
  let n := s.unitsAt key pair
  let shared := ((List.range 8).map fun q => s.unitsAt key q - 4).foldl (· + ·) 0
  (4 - n) + Nat.min (64 - Nat.max 4 n) (96 - shared)

/-- The output port by which a packet leaves the router of cluster c: along X then Y on network 0, along Y then X on network 1, and at its goal
the local port or the outward one (R248, R249). -/
def Moving.wayOut (m : Moving) (c : Nat) : Nat :=
  let cx := c % 24
  let cy := c / 24
  let gx := m.goal % 24
  let gy := m.goal / 24
  let x := if cx < gx then some 1 else if gx < cx then some 3 else none
  let y := if cy < gy then some 2 else if gy < cy then some 0 else none
  let first := if m.net = 0 then x else y
  let second := if m.net = 0 then y else x
  match first, second with
  | some o, _ => o
  | none, some o => o
  | none, none => match m.target with
    | .exit n => if n < 12 ∨ n = 30 then 0 else if n < 24 ∨ n = 31 then 2 else if n < 27 then 3 else 1
    | _ => 4

/-- The output port of leg j of a packet. -/
def State.legOut (s : State) (m : Moving) (j : Nat) (l : Leg) : Nat :=
  if j = 0 then match s.blkCluster (l.key / 5) with | none => 4 | some c => m.wayOut c
  else facing ((m.legs.getD (j - 1) ⟨0, 0, 0⟩).key % 5)

/-- Another packet of the pair is in the middle of an output port; its units and this one's never interleave (R250). -/
def State.outBusy (s : State) (m : Moving) (out : PortRef) : Bool :=
  s.moving.any fun x => decide (x ≠ m) && decide (x.pair = m.pair) && (List.zip (List.range x.legs.length) x.legs).any fun e =>
    decide (e.2.key / 5 = out.blk) && decide (0 < e.2.sent) && decide (e.2.sent < unitCount x.pkt) && decide (s.legOut x e.1 e.2 = out.port)

/-- Of n packet units that leave by an output port from a frame cycle on, 8 in a cycle, those that take slots of circuits or replay cycles
(R244, R246). -/
def State.lentSlots (s : State) (out : PortRef) (cycle n : Nat) : Nat :=
  ((List.range n).filter fun i =>
    let k := (cycle + i / 8) % s.frameLen
    (out.onSeam && decide (k + 1 = s.frameLen)) || !bitOf (s.slotEntry out.blk out.port k (i % 8)) 15).length

/-- n packet units have left by an output port. -/
def State.unitsOut (s : State) (out : PortRef) (n : Nat) : State :=
  (s.count64 (portReg out 0x10) n).count64 (portReg out 0x20) (s.lentSlots out (s.frameCycle out.blk) n)

def State.setMoving (s : State) (i : Nat) (m : Moving) : State := { s with moving := s.moving.set i m }

/-- Units that stand in an input port's packet buffer. -/
def State.pktNow (s : State) (p : PortRef) : Nat :=
  (s.moving.map fun m => ((m.buffered.filter fun e => decide (e.1.key = p.key)).map fun e => e.1.got - e.1.sent).foldl (· + ·) 0).foldl (· + ·) 0
    + (s.seam p).units.length

/-- `PKT_PEAK` follows an input port's buffer (R259). -/
def State.notePeak (s : State) (p : PortRef) : State :=
  let a := portReg p 4
  if s.pktNow p ≤ s.field a 8 8 then s else s.setField a 8 8 (s.pktNow p)

/-- The die at a packet's goal takes it: a link die whose fabric input has room for the whole packet (R293). -/
def State.goalRoom (s : State) (m : Moving) : Bool :=
  match m.target with
  | .exit n =>
    if 24 ≤ n ∧ n < 30 then
      let k := (s.linkServing (n - 24)).getD 0
      s.dieRoom k (s.fabricFlits k (m.goal / 48 % 4 * 8 + m.pair)) (packetFlits m.pkt)
    else true
  | _ => true

/-- Units of leg j of packet number i go on as far as they can inside the die (R246, R249, R250): to the next router, as its buffer has room,
or out of the fabric at the packet's goal. What leaves by a seam waits for a word. -/
def State.passLeg (s : State) (i j : Nat) : State :=
  match s.moving[i]? with
  | none => s
  | some m => match m.legs[j]? with
    | none => s
    | some l =>
      let out := blkPort (l.key / 5) (s.legOut m j l)
      let n := l.got - l.sent
      let put := fun (ls : List Leg) => ({ m with legs := ls } : Moving)
      if n = 0 then s
      else if j = 0 ∧ s.blkCluster (l.key / 5) = some m.goal then
        let ls := m.legs.set 0 { l with sent := l.got }
        if l.sent = 0 && !s.goalRoom m then s
        else (s.setMoving i (if l.got = unitCount m.pkt then { m with legs := [], since := s.now } else put ls)).unitsOut out n
      else if out.onSeam then s
      else match s.peer out with
        | none => s
        | some t =>
          let k := Nat.min n (s.unitRoom t.key m.pair)
          if k = 0 ∨ (l.sent = 0 ∧ s.outBusy m out) then s
          else
            let ls := m.legs.set j { l with sent := l.sent + k }
            let ls := if j = 0 then Leg.mk t.key k 0 :: ls
              else ls.modify (j - 1) fun d => { d with got := d.got + k }
            ((s.setMoving i (put ls)).unitsOut out k).notePeak t

/-- Every leg of packet number i, the rearmost first. -/
def State.passPacket (s : State) (i : Nat) : State :=
  match s.moving[i]? with
  | none => s
  | some m => ((List.range m.legs.length).reverse).foldl (fun s j => s.passLeg i j) s

/-- The packet service runs inside the dies until nothing more can move. -/
def State.settleNet (s : State) : Nat → State
  | 0 => s
  | n + 1 =>
    let t := (List.range s.moving.length).foldl State.passPacket s
    if t.moving = s.moving then s else t.settleNet n

/-! ### Launch (R247, R249) -/

/-- The resident table lets a packet for this EID pass: no entry of it is fenced (R287). -/
def State.lets (s : State) (eid : BitVec 24) : Bool := match s.resFind eid with | none => true | some i => !bitOf (s.resEntry i) 25

/-- A packet is at its endpoint, or in a die that is no router. -/
def State.addMoving (s : State) (t : Target) (a : Nat) (p : Packet) : State :=
  { s with moving := s.moving ++ [{ target := t, net := 0, src := a, since := s.now, passed := s.lets p.dest, pkt := p }] }

/-- A packet enters the fabric whole at an input port of the router of cluster c, with the route state that this router gives it. -/
def State.enterNet (s : State) (t : Target) (r : BitVec 1 × Nat) (a c port : Nat) (p : Packet) : State :=
  let m : Moving := { target := t, net := r.1, src := a, goal := r.2, legs := [⟨s.blk c * 5 + port, unitCount p, 0⟩], since := s.now,
                       passed := s.lets p.dest, pkt := p }
  State.settleNet { s with moving := s.moving ++ [m] } 16

/-- What a hole answers (R36, R249): writes are discarded and reads give zeros. -/
def holeAnswer (p : Packet) : Option Packet :=
  if p.opcode = 0x01 ∨ p.opcode = 0x10 ∨ p.opcode = 0x11 then some (ackOf p)
  else if p.opcode = 0x02 then some (readDataOf p (List.replicate p.wants 0))
  else if p.opcode = 0x30 ∨ p.opcode = 0x31 then some (collAckOf p 0)
  else none

/-- The router of cluster c answers a packet of agent a's itself for a target it cannot reach (R249). -/
def State.answerUnreach (s : State) (t : Target) (a c : Nat) (p : Packet) : State :=
  let s := s.count (s.fabReg c 0x00C) 1
  match t with
  | .exit n => if n < 24 then s.addMoving t a p else s
  | _ => match holeAnswer p with
    | none => s
    | some r => s.addMoving (if a < 576 then .cluster a else s.resolve (homeLink c) r.dest) a r

/-- A packet comes to the router of cluster c, which resolves it as its source router does (R247, R249, R284). -/
def State.sourceRoute (s : State) (t : Target) (a c port : Nat) (p : Packet) : State :=
  match s.reach c t with
  | some r => s.enterNet t r a c port p
  | none => s.answerUnreach t a c p

/-- The edge cluster by which a die beside the compute grid sends a packet into the fabric, and its outward port: of the die's range, as a hash
of `DEST_EID` chooses (R238, R284). -/
def State.entryOf (s : State) (n : Nat) (p : Packet) : Option (Nat × Nat) :=
  match s.exitRange n with
  | none => none
  | some (edge, lo, hi) =>
    let h := (crc32 (natLe 3 p.dest.toNat)).toNat % (hi + 1 - lo)
    some (edgeCluster edge (lo + h), if edge = 0 then 0 else if edge = 1 then 1 else if edge = 2 then 2 else 3)

/-- A packet from the die of exit n goes into the fabric, or to that die's own exit; without a way in it waits at the die. -/
def State.fromDie (s : State) (n a : Nat) (t : Target) (p : Packet) : State :=
  if t = .exit n then s.addMoving t a p
  else match (match s.entryOf n p with | some e => some e | none => (s.rimDie n).bind fun k => s.entryOf (24 + k) p) with
    | some (c, port) => s.sourceRoute t a c port p
    | none => s.addMoving t a p

/-- The exit entry of the die of agent a, which is no cluster: a stack, Gleryn's control die, or the link die of a collective engine. -/
def State.exitOfAgent (s : State) (a : Nat) : Nat :=
  if a = agGleryn then 30 + s.activeCt else if a < agEngine then a - agStack else 24 + (a - agEngine) / 4

/-- Gleryn's packets off the panel go over the rim to a link die: LD0, or the next working one on its edge (the model's choice, log entry 108). -/
def State.glerynLink (s : State) : Nat := (s.linkServing 0).getD 0

/-- A packet leaves agent a. What a control die or a link die sends to a link die crosses the rim. -/
def State.launch (s : State) (a : Nat) (p : Packet) : State :=
  if a < 576 then s.sourceRoute (s.targetOf (homeLink a) p) a a 4 p
  else
    let k := if agEngine ≤ a then (a - agEngine) / 4 else s.glerynLink
    let t := s.targetOf k p
    match t with
    | .exit n => if 24 ≤ n ∧ (a = agGleryn ∨ agEngine ≤ a) then s.addMoving t a p else s.fromDie (s.exitOfAgent a) a t p
    | _ => s.fromDie (s.exitOfAgent a) a t p

/-! ### Send flows (R276, R278) -/

/-- µs of `HOLD` and `RESEND_T` (R294, R311). -/
def State.holdTime (s : State) : Nat := s.field (lnkBase 0 + 8) 0 10
def State.resendT (s : State) : Nat := s.field (panelBase + 0x40) 0 20
/-- L, Q and G of R276 in µs. -/
def State.packetLife (s : State) : Nat := 48 * s.holdTime + 200
def State.quietTime (s : State) : Nat := Nat.max 8000 (s.packetLife + 3000)
def State.flowLife (s : State) : Nat := Nat.max 16000 (255 * s.resendT + s.packetLife + 4000)

/-- Send and receive flows an agent holds, and its reorder store in packets (R276). -/
def sendLimit (a : Nat) : Nat := if a < 576 then 512 else if a = agGleryn then 4096 else 16
def recvLimit (a : Nat) : Nat := if a < 576 then 512 else if a < agStack then 4096 else if a < agEngine then 512 else 4096
def storeLimit (a : Nat) : Nat := if a < 576 then 16 else if a = agGleryn then 64 else 0

def State.sendFlow (s : State) (k : FlowKey) : Option SendFlow := s.sends.find? fun f => decide (f.key = k)

def State.setSend (s : State) (f : SendFlow) : State :=
  { s with sends := if s.sends.any (fun g => decide (g.key = f.key)) then s.sends.map fun g => if g.key = f.key then f else g
                    else s.sends ++ [f] }

/-- Gleryn holds new packets at the source routers: every partition that a due retirement concerns is frozen (R258, R398). -/
def State.packetsHeld (s : State) : Bool := s.sparing.retireDue.any fun e => (s.retireParts e.1).all s.frozen

/-- Agent a may send n more packets on flow k now (R258, R276). -/
def State.canSendN (s : State) (a : Nat) (k : FlowKey) (n : Nat) : Bool :=
  !s.packetsHeld && match s.sendFlow k with
  | none => decide ((s.sends.filter fun f => decide (f.key.src = k.src)).length < sendLimit a) && decide (n ≤ 1024)
  | some f => decide (f.unack.length + n ≤ 1024) && (List.range n).all fun i =>
      !f.recent.any fun e => decide (e.1 = f.next + BitVec.ofNat 16 i) && decide (s.now < e.2 + usec s.quietTime)

/-- Agent a may send one more packet on flow k now. -/
def State.canSend (s : State) (a : Nat) (k : FlowKey) : Bool := s.canSendN a k 1

/-- Send a packet of class 0, 1 or 3 on its flow, kept until it is answered. -/
def State.sendOn (s : State) (a : Nat) (u : Unacked) : State :=
  let f := (s.sendFlow u.pkt.key).getD { key := u.pkt.key }
  let p := ({ u.pkt with seq := f.next }).sealed
  let s := s.setSend {
    f with
    next := f.next + 1, used := s.now, unack := f.unack ++ [{ u with pkt := p }],
    recent := (f.next, s.now) :: f.recent.filter fun e => decide (s.now < e.2 + usec s.quietTime) }
  s.launch a p

/-! ### Receive flows (R276, R277, R280) -/

/-- The agent that an EID of this panel belongs to, if any. -/
def State.agentOf (s : State) (eid : BitVec 24) : Option Nat :=
  if isAttention eid then some (agStack + (eid.toNat - 0xFFFFC0))
  else if eid = 0xFFFFFE then some agGleryn
  else match s.resFind eid with
    | some i => some (bits (s.resEntry i) 28 10)
    | none => match s.ctxs.find? (fun e => match e.2 with | none => false | some x => decide (x.eid = eid)) with
      | some e => some (agEngine + e.1 / 16)
      | none => match s.ownEid eid with
        | some i => if i < 576 then some i else if i = 576 then some agGleryn else none
        | none => none

def State.recvFlow (s : State) (k : FlowKey) : Option RecvFlow := s.recvs.find? fun f => decide (f.key = k)

def State.setRecv (s : State) (f : RecvFlow) : State :=
  { s with recvs := if s.recvs.any (fun g => decide (g.key = f.key)) then s.recvs.map fun g => if g.key = f.key then f else g
                    else s.recvs ++ [f] }

/-- Receive flows of agent a used within G. -/
def State.recvCount (s : State) (a : Nat) : Nat :=
  (s.recvs.filter fun f => decide (s.agentOf f.key.dest = some a) && decide (s.now < f.used + usec s.flowLife)).length

/-- Packets in agent a's reorder store. -/
def State.stored (s : State) (a : Nat) : Nat :=
  ((s.recvs.filter fun f => decide (s.agentOf f.key.dest = some a)).map fun f => f.store.length).foldl (· + ·) 0

/-- Places of a SEQ above E. -/
def RecvFlow.ahead (f : RecvFlow) (q : Half) : Nat := (q - f.e).toNat

/-- E moves past what has been received. -/
def RecvFlow.advance : Nat → RecvFlow → RecvFlow
  | 0, f => f
  | n + 1, f => if f.seen.contains f.e.toNat then ({ f with e := f.e + 1, seen := f.seen.erase f.e.toNat }).advance n else f

/-- A packet with this SEQ is new (R276). -/
def RecvFlow.isNew (f : RecvFlow) (q : Half) : Bool := decide (f.ahead q < 1024) && !f.seen.contains q.toNat

/-- The stored packet that may be delivered first: every lower SEQ has been received. -/
def RecvFlow.ready (f : RecvFlow) : Option Packet :=
  f.store.foldl (fun best p =>
    if f.ahead p.seq < 1024 then best
    else match best with
      | none => some p
      | some b => if f.ahead p.seq < f.ahead b.seq then some p else best) none

/-- Deliver what the reorder store may deliver; `deliver` is what the agent does with a packet. -/
def State.flush (s : State) (k : FlowKey) (deliver : State → Packet → State) : Nat → State
  | 0 => s
  | n + 1 => match s.recvFlow k with
    | none => s
    | some f => match f.ready with
      | none => s
      | some p => (deliver (s.setRecv { f with store := f.store.erase p }) p).flush k deliver n

/-- A packet arrives at agent a: a duplicate is counted and answered again by `again`; a new one is acknowledged by
`ack`, and delivered at once or, when it is fenced, after every lower SEQ of its flow (R276, R277, R280). -/
def State.receive (s : State) (a : Nat) (p : Packet) (ack again : State → State) (deliver : State → Packet → State) : State :=
  let busy := fun (s : State) => (if a < 576 then s.count (s.fabReg a 0x050) 1 else s).launch a (nackOf p 2)
  let known := s.recvFlow p.key
  if known.isNone && decide (recvLimit a ≤ s.recvCount a) then busy s
  else
    let f := known.getD { key := p.key, e := p.seq }
    if !f.isNew p.seq then again ((if a < 576 then s.count (s.fabReg a 0x044) 1 else s).setRecv { f with used := s.now })
    else
      let g := ({ f with seen := p.seq.toNat :: f.seen, used := s.now }).advance 1025
      let waits := p.fence && decide (g.ahead p.seq < 1024)
      if waits then
        if storeLimit a ≤ s.stored a then busy s
        else ack (s.setRecv { g with store := g.store ++ [p] })
      else (deliver (ack (s.setRecv g)) p).flush p.key deliver 64

/-- The first copy of a packet that has come to its endpoint is taken there. -/
def State.arrives (s : State) (p : Packet) : State :=
  match s.moving.find? fun m => decide (m.pkt = p) && decide (m.legs = []) with
  | none => s
  | some m => { s with moving := s.moving.erase m }

/-- The copy of a packet that has come to its endpoint passed the resident table before a fence (R287). -/
def State.passedTable (s : State) (p : Packet) : Bool :=
  match s.moving.find? fun m => decide (m.pkt = p) && decide (m.legs = []) with | none => false | some m => m.passed

/-- Every copy of this packet that the panel holds is still in routers: it has not come to its endpoint. -/
def State.underWay (s : State) (p : Packet) : Bool :=
  s.moving.any (fun m => decide (m.pkt = p)) && !s.moving.any fun m => decide (m.pkt = p) && decide (m.legs = [])

/-! ### Abandoned tokens (R278, R279) -/

/-- Credits of n tokens that cluster c's queues or steering outputs sent to an endpoint and that it will never pop come back. -/
def State.returnCredit (s : State) (c : Nat) (dest : BitVec 24) (n : Nat) : State :=
  let mine := (hartsOf c).flatMap fun h => (s.core h).outq.filterMap fun e =>
    let w := (s.core h).pet.outWord e.1
    if decide (bindKind w = 4) && decide (bindEid w = dest) && decide (n ≤ e.2.out) then some (h, e.1) else none
  match mine with
  | [] =>
    let cl := s.clu c
    match cl.steerLoops.find? fun x => decide (x.eid = dest) && decide (n ≤ x.out) with
    | none => s
    | some x => s.setClu c (cl.setSteerLoop { x with out := x.out - n, total := x.total - BitVec.ofNat 32 n })
  | (h, qo) :: _ =>
    let k := s.core h
    let o := k.outQ qo
    s.setCore h (k.setOutQ qo { o with out := o.out - n, total := o.total - BitVec.ofNat 32 n })

end Sys2Proof.Machine
end

