-- ==== Sys2Proof/Machine/Relay.lean ====
section
/-! DEFINITION. How a mailbox command runs (R315, R319, R343): on this panel, or relayed to a bed member; its input data
and its output. -/

namespace Sys2Proof.Machine

/-- Change a dispatched command. -/
def State.modCmd (s : State) (id : Nat) (f : Started → Started) : State :=
  match s.cmd id with
  | none => s
  | some c => { s with host := { s.host with started := tput (tdel s.host.started id) id (f c) } }

/-- The input data of a command: from the host (R315), from its packet, or from the management port (R343, R437). -/
def Started.inputOf (c : Started) (io : HostIo) : HostIo :=
  match c.origin with
  | .ring _ => io
  | .network => .ok c.input
  | .packet _ _ _ i => .ok i

/-- Run f on the input data of a command; an access to host memory that fails ends it with FAULT (R315). -/
def State.withHost (s : State) (id : Nat) (c : Started) (io : HostIo) (f : Bytes → State) : State :=
  match c.inputOf io with
  | .error => s.fail id stFault
  | .ok b => f b

/-- End a command with output data for host address a: written to the host, or carried by the MGMT_REPLY when it fits
(R343). -/
def State.finishOut (s : State) (id : Nat) (c : Started) (a : Nat) (out : Bytes) (st r0 r1 : Nat) : State :=
  match c.origin with
  | .ring _ => (s.hostWrite a out).finish id st r0 r1
  | .network => s.finish id st r0 r1
  | .packet _ _ _ _ => if out.length ≤ 4032 then s.finish id st r0 r1 0xFF out else s.fail id stFault

/-! ### Relaying (R343) -/

/-- The payload of a RELAY or MGMT packet. -/
def relayPayload (slot : Bytes) (reply : BitVec 24) (rseq : Word) (input : Bytes) : Bytes :=
  padTo 64 slot ++ u32 reply.toNat ++ u32 rseq.toNat ++ u32 input.length ++ List.replicate 20 0 ++ input

/-- Relay a command to its target. A DATA_PLACE keeps its data until the target has accepted it. -/
def State.relayCmd (s : State) (id : Nat) (c : Started) (io : HostIo) : State :=
  s.withHost id c io fun b =>
    let place := decide (c.opcode = 0x22)
    let pulled := place || decide (c.opcode = 0x70)
    let input := if pulled then [] else b
    if 4000 < input.length then s.fail id stFault
    else if !s.canSend agGleryn { src := s.panelEid, dest := slotTarget c.slot, cls := 1 } then s
    else
      let q := s.host.rseq + 1
      let s := { s with host := { s.host with rseq := q } }
      let s := s.modCmd id fun c => { c with relayed := some q, input := if pulled then b else [] }
      s.sendOn agGleryn { pkt := mkPacket 1 0x11 (slotTarget c.slot) s.panelEid 0 false (relayPayload c.slot s.panelEid q input), cmd := some id }

/-- Packets of a relayed DATA_PLACE or DATA_FETCH (R343): up to 4,096 bytes each. -/
def Started.streamOf (c : Started) (me : BitVec 24) : List Packet :=
  let a := c.arg 16 6
  let n := c.arg 24 8
  (List.range (ceilDiv n 4096)).map fun i =>
    if c.opcode = 0x22 then mkPacket 0 0x01 (slotTarget c.slot) me (a + 4096 * i) false (slice c.input (4096 * i) (Nat.min 4096 (n - 4096 * i)))
    else
      ({ mkPacket 0 0x02 (slotTarget c.slot) me (a + 4096 * i) false [] with
         rlen := BitVec.ofNat 7 (ceilDiv (Nat.min 4096 (n - 4096 * i)) 32 - 1) }).sealed

/-- Packets of a command that are not yet answered. -/
def State.inFlight (s : State) (id : Nat) : Nat :=
  (s.sends.map fun f => (f.unack.filter fun u => decide (u.cmd = some id)).length).foldl (· + ·) 0

/-- Send the packets of command id's stream that its flow allows (R276). -/
def State.streamSend (s : State) (id : Nat) : Nat → State
  | 0 => s
  | fuel + 1 => match s.cmd id with
    | none => s
    | some c => match c.stream with
      | [] => s
      | p :: rest =>
        if !s.canSend agGleryn p.key then s
        else ((s.modCmd id fun c => { c with stream := rest }).sendOn agGleryn { pkt := p, cmd := some id }).streamSend id fuel

/-- End a command with a completion that another panel made. -/
def State.finishAs (s : State) (id : Nat) (k : Completion) : State :=
  s.finish id k.status k.result0.toNat k.result1.toNat (k.detail.toNat % 256) [] (k.detail.toNat / 256)

/-- A packet of command id has been answered: the stream goes on, and ends the command after its last answer. -/
def State.streamPump (s : State) (id : Nat) : State :=
  let s := s.streamSend id 1024
  match s.cmd id with
  | none => s
  | some c => match c.reply with
    | none => s
    | some k => if c.stream = [] ∧ s.inFlight id = 0 then s.finishAs id k else s

/-! ### Running a command -/

/-- The partition of a command is in a DRAIN reset that another command made: it waits (R405). -/
def State.waitsReset (s : State) (id : Nat) (c : Started) : Bool :=
  partScope c.slot && match s.part c.partNo with
    | none => false
    | some q => match q.reset with | none => false | some r => decide (r.cmd ≠ id)

/-- Command `id` has been dispatched and is of operation `op`: relay it, or run f on it; otherwise nothing happens (log
entry 4). -/
def State.runCmd (s : State) (id op : Nat) (io : HostIo) (f : Started → State) : State :=
  match s.cmd id with
  | none => s
  | some c =>
    if c.opcode ≠ op ∨ c.relayed.isSome then s
    else if slotRemote c.slot then s.relayCmd id c io
    else if s.waitsReset id c then s
    else f c

/-- The first form of a command with `n` sub-operations, kinds or sets in byte 8; a reserved one ends with VERSION (R326). -/
def State.runFirst (s : State) (id op n : Nat) (io : HostIo) (f : Started → State) : State :=
  match s.cmd id with
  | none => s
  | some c =>
    if c.byte 8 = 0 then s.runCmd id op io f
    else if n ≤ c.byte 8 then s.runCmd id op io fun _ => s.fail id stVersion 8
    else s

/-- The form of a command that byte 8 names as `sub`. -/
def State.runSub (s : State) (id op sub : Nat) (io : HostIo) (f : Started → State) : State :=
  match s.cmd id with
  | none => s
  | some c => if c.byte 8 = sub then s.runCmd id op io f else s

end Sys2Proof.Machine
end

