-- ==== Sys2Proof/Machine/Dataflow.lean ====
section
/-! DEFINITION. The dataflow commands (R118 to R158): tokens, ports, credits, packets, steering, the watchdog, steps,
folding and sampling. -/

namespace Sys2Proof.Machine

/-! ### Arrival (R124, R139, R140, R152) -/

/-- No mark that the sequencer placed on record i's circuit still waits for its credit (R155). -/
def State.pathClear (s : State) (p i : Nat) : Bool := match s.inbound p i with | none => true | some r => r.marks.isEmpty

/-- The circuit of record i has a slot for a token of cluster c (R242). -/
def State.entersAt (s : State) (c p i : Nat) : Bool :=
  match s.inbound p i with | none => false | some r => s.mayEnter (s.blk c) r.id.toNat

/-- A token of cluster c goes onto the circuit of record i. -/
def State.ontoRecord (s : State) (c p i : Nat) (t : Token) : State :=
  match s.inbound p i with | none => s | some r => s.enterCircuit c r.id.toNat t

/-- The head of output queue qo moves to the next stage of its binding (R124): a packet-service binding packs it behind the tokens of the
packet that is not closed (R126). New tokens stay behind a mark on their path (R155). -/
def State.outArrive (s : State) (h qo : Nat) : State :=
  let c := s.core h
  let o := c.outQ qo
  match o.tokens with
  | [] => s
  | t :: ts =>
    let s' := (s.setCore h (c.setOutQ qo { o with tokens := ts })).stir (h / 32)
    match s.outDest h qo with
    | .queue k q => s'.arriveIn k q t
    | .record p i => if s.pathClear p i && s.entersAt (h / 32) p i then s'.ontoRecord (h / 32) p i t else s
    | .steer c u i => s'.intoSteer c u i t
    | .packets eid =>
      if isMoverEid eid || closedRun o.pack then s
      else (s.setCore h (c.setOutQ qo { o with tokens := ts, pack := o.pack ++ [t] })).stir (h / 32)
    | .none => s

/-- Binding word of output o of unit u of cluster c, with the entry's `EID` where its own is 0 (R131). -/
def State.steerDest (s : State) (c u o : Nat) (eid : BitVec 24) : Dest :=
  match s.destOf c (tget 0 (s.clu c).steerOut (4 * u + o)) with
  | .packets e => .packets (if e = 0 then eid else e)
  | d => d

/-- The packet that a steering output bound to the packet service sends next. -/
def steerRun (l : List (Token × BitVec 24)) (eid : BitVec 24) : List Token :=
  packetRun 62 ((l.takeWhile fun y => decide (y.2 = eid)).map (·.1))

/-- The head of a steering output has credit for its next stage (R130). -/
def State.steerGoes (s : State) (c u o : Nat) : Bool :=
  match ((s.clu c).unit u).output o with
  | [] => true
  | (t, eid) :: ts =>
    match s.steerDest c u o eid with
    | .queue k q => s.room k q
    | .record p i => match s.inbound p i with
      | none => false
      | some r => r.marks.isEmpty && s.loopRoom r && s.mayEnter (s.blk c) r.id.toNat
    | .steer c' u' i => decide ((s.clu c').waiting u' i < queueDepth)
    | .packets e =>
      let n := (steerRun ((t, eid) :: ts) eid).length
      !isMoverEid e && decide (s.sendTokens c + n ≤ 64) && ((s.clu c).marks.all fun x => decide (x.1 ≠ e))
        && (!s.queueEid e || decide (((s.clu c).steerLoop (4 * u + o) e).out + n ≤ s.endpointCredit e))
    | .none => true

/-- The head of a steering output moves on; an output bound to the packet service sends its next packet. It
waits without credit (R130). -/
def State.steerArrive (s : State) (c u o : Nat) : State :=
  let cl := s.clu c
  let x := cl.unit u
  if !s.steerGoes c u o then s
  else match x.output o with
  | [] => s
  | (t, eid) :: ts =>
    let s' := (s.setClu c (cl.setUnit u (x.setOutput o ts))).stir c
    match s.steerDest c u o eid with
    | .queue k q => s'.arriveIn k q t
    | .record p i => s'.ontoRecord c p i t
    | .steer c' u' i => s'.intoSteer c' u' i t
    | .packets e =>
      let run := steerRun ((t, eid) :: ts) eid
      let k := cl.steerLoop (4 * u + o) e
      let cl := cl.setUnit u (x.setOutput o (((t, eid) :: ts).drop run.length))
      let cl := if s.queueEid e then cl.setSteerLoop { k with out := k.out + run.length, total := k.total + BitVec.ofNat 32 run.length } else cl
      ((s.setClu c cl).stir c).sendPacket c (packTokens e (s.cluEid c) run)
    | .none => s'

/-- TOKEN_ARRIVAL: the head of an output queue, of a steering output or of an inbound record moves one stage. -/
def execTokenArrival (src : ArrivalSrc) (s : State) : Host.Outcome State Fault Refusal :=
  answer s (match src with
    | .outQueue h qo => onlyIf (s.flows (h / 32)) s (s.outArrive h qo)
    | .steerOut c u o => onlyIf (s.flows c) s (s.steerArrive c u o)
    | .record p i => s.moveRecord p i)

/-! ### Boundary ports (R150, R151) -/

/-- A mark ahead at the head of port i: a `FOLLOW` port adopts its epoch, and a gated queue behind it discards what no END_STREAM has
closed; a strict port sets the mark aside (R140, R148, R150). -/
def State.portMark (s : State) (p i : Nat) (r : Inbound) (e : BitVec 3) (rest : List Token) : State :=
  let r := { r with land := rest, held := false, dropEp := none }
  if !r.follow then s.setInbound p i { r with aside := some e }
  else
    let x := if r.gated then r.ungathered else (r, 0)
    (s.setInbound p i { x.1 with expect := some e }).count (s.cluReg r.cluster 0x880) x.2

/-- Port i of partition p deals with the token at its head (R149 to R151). -/
def State.portStep (s : State) (p i : Nat) (r : Inbound) : State :=
  match r.land with
  | [] => s
  | t :: ts =>
    let e := t.epoch
    let x := r.expect.getD e
    let r := { r with expect := some x }
    let mark := t.kind == kEpochMark
    let a := s.cluReg r.cluster
    if behind e x then (s.setInbound p i { r with land := ts, dropEp := if mark then none else r.dropEp }).count (a 0x854) 1
    else if aheadOf e x then
      if mark then s.portMark p i r e ts
      else if r.dropEp = some e then (s.setInbound p i { r with land := ts, held := false }).count (a 0x858) 1
      else s.setInbound p i { r with held := true }
    else
      let r := { r with land := ts, dropEp := none, held := false }
      if mark then s.setInbound p i r
      else if s.canTake r then s.takeIn p i r (t.restamp (s.epochOf r.cluster))
      else s

/-- BOUNDARY_PORT_ADMIT (R150): a closed port holds what arrives (R153). -/
def execBoundaryPortAdmit (p i : Nat) (s : State) : Host.Outcome State Fault Refusal :=
  answer s (match s.inbound p i with
    | none => s
    | some r => onlyIf (r.boundary && !r.closed && s.flows r.cluster) s (s.portStep p i r))

/-- EPOCH_HOLD_EXPIRY (R151): the held token and the following ones of its epoch are dropped. -/
def execEpochHoldExpiry (p i : Nat) (s : State) : Host.Outcome State Fault Refusal :=
  answer s (match s.inbound p i with
    | none => s
    | some r => match r.land with
      | [] => s
      | t :: _ =>
        if !r.held || r.closed then s
        else
          let run := r.land.takeWhile fun u => decide (u.epoch = t.epoch) && u.kind != kEpochMark
          let s := s.setInbound p i { r with land := r.land.drop run.length, held := false, dropEp := some t.epoch }
          let s := s.count (s.cluReg r.cluster 0x858) run.length
          s.record 0x0204 3 p r.region (onCluster r.cluster) (u32 run.length))

/-! ### Credits and packets (R126, R133) -/

/-- CREDIT_RETURN (R133): one credit returns to output queue qo for a token popped, stripped or dropped. -/
def execCreditReturn (h qo : Nat) (s : State) : Host.Outcome State Fault Refusal :=
  answer s (
    let c := s.core h
    let o := c.outQ qo
    if s.inLoop h qo < o.out then s.setCore h (c.setOutQ qo { o with out := o.out - 1 }) else s)

/-- The endpoint of the tokens that output queue qo has packed, if they may form a packet now: a mark to the endpoint goes ahead of them
(R155). -/
def State.packsFor (s : State) (h qo : Nat) : Option (BitVec 24) :=
  match s.outDest h qo with
  | .packets eid =>
    if s.flows (h / 32) && !(((s.core h).outQ qo).pack).isEmpty && ((s.clu (h / 32)).marks.all fun x => decide (x.1 ≠ eid)) then some eid else none
  | _ => none

/-- PACKET_FORMED (R126): a packet closed by an end marker or by 62 tokens. -/
def execPacketFormed (h qo : Nat) (s : State) : Host.Outcome State Fault Refusal :=
  answer s (match s.packsFor h qo with
    | none => s
    | some eid => onlyIf (closedRun ((s.core h).outQ qo).pack) s (s.formPacket h qo eid))

/-- PACKET_WAIT_TIMEOUT (R126): the queue has waited 64 fast cycles for its next token. -/
def execPacketWaitTimeout (h qo : Nat) (s : State) : Host.Outcome State Fault Refusal :=
  answer s (match s.packsFor h qo with
    | none => s
    | some eid => onlyIf (((s.core h).outQ qo).tokens.isEmpty) s (s.formPacket h qo eid))

/-! ### Steering (R130 to R132) -/

/-- Field of a STEER token's payload. -/
def tokenPay (t : Token) (off n : Nat) : Nat := fld (payloadBytes t.payload) off n

/-- The STEER token of a copy (R131). -/
def copySteer (t : Token) (newPred i : Nat) : Token :=
  { tag := BitVec.ofNat 16 (mkTag kSteer 0 t.epoch).toNat,
    payload := bytesPayload (u8 newPred ++ List.replicate 7 0 ++ natLe 4 (tokenPay t (8 + 4 * i) 4) ++ List.replicate 28 0
      ++ slice (payloadBytes t.payload) 40 24) }

/-- Copies of a group as its predicates call for them: outputs, endpoint and tokens; none where the entry is
invalid (R131). -/
def steerCopies (tbl : Nat → Nat) (t : Token) (rest : List Token) : List (Option (List Nat × BitVec 24 × List Token)) :=
  (List.range (Nat.min (t.lanes + 1) 8)).map fun i =>
    let e := tbl (tokenPay t i 1)
    if bitOf e 4 then some (onesOf e 4, BitVec.ofNat 24 (bits e 8 24), copySteer t (bits e 32 8) i :: rest) else none

/-- Send copies in order; `n` is the length of the group; a copy of a group longer than 256 tokens is dropped
where its output already carried one (R131). The answer counts drops. -/
def sendCopies (n : Nat) : List (Option (List Nat × BitVec 24 × List Token)) → List Nat → Steer → Steer × Nat
  | [], _, x => (x, 0)
  | none :: cs, used, x => let r := sendCopies n cs used x; (r.1, r.2 + 1)
  | some (os, eid, g) :: cs, used, x =>
    let bad := if 256 < n then os.filter used.contains else []
    let good := os.filter fun o => !bad.contains o
    let r := sendCopies n cs (used ++ good) (good.foldl (fun x o => x.send o eid g) x)
    (r.1, r.2 + bad.length)

/-- STEER_ROUTE (R131): the unit routes the whole group at its input 0, once every copy of the last is sent. -/
def execSteerRoute (c u : Nat) (s : State) : Host.Outcome State Fault Refusal :=
  answer s (
    let cl := s.clu c
    let x := cl.unit u
    let g := firstGroup false (x.input 0)
    if tget 0 cl.steerMode u ≠ 1 ∨ !s.flows c ∨ !g.2.1 ∨ x.outputs ≠ [] then s
    else
      let x := { x.setInput 0 g.2.2 with order := orderPast 0 x.order }
      match g.1 with
      | [] => s
      | t :: rest =>
        let r : Steer × Nat :=
          if tokenAlone t then
            let bound := (List.range 4).filter fun o => decide (bindKind (tget 0 cl.steerOut (4 * u + o)) ≠ 0)
            (bound.foldl (fun x o => x.send o 0 [t]) x, 0)
          else if t.kind ≠ kSteer then (x, 1)
          else sendCopies g.1.length (steerCopies (fun i => (tget 0 cl.steerTbl (256 * u + i)).toNat) t rest) [] x
        ((s.stir c).setClu c (cl.setUnit u r.1)).count (s.cluReg c 0x860) r.2)

/-- Forward the whole group at input i to output 0. -/
def Steer.forward (x : Steer) (i : Nat) : Steer :=
  let g := firstGroup false (x.input i)
  { (x.setInput i g.2.2).send 0 0 g.1 with order := orderPast i x.order }

/-- MERGE_ARRIVAL (R132): the group whose first token arrived first runs whole to output 0. -/
def execMergeArrival (c u : Nat) (s : State) : Host.Outcome State Fault Refusal :=
  answer s (
    let cl := s.clu c
    let x := cl.unit u
    match x.order with
    | [] => s
    | (_, i) :: _ =>
      if tget 0 cl.steerMode u = 2 ∧ s.flows c ∧ (firstGroup false (x.input i)).2.1 then (s.stir c).setClu c (cl.setUnit u (x.forward i))
      else s)

/-- MERGE_ORDERED (R132): the STEER token at input 3 names the input of the next group; a value above 2 is
dropped and counted. A token of another kind at input 3 stands there (log entry 19). -/
def execMergeOrdered (c u : Nat) (s : State) : Host.Outcome State Fault Refusal :=
  answer s (
    let cl := s.clu c
    let x := cl.unit u
    match x.input 3 with
    | [] => s
    | t :: ts =>
      let i := tokenPay t 0 1
      if tget 0 cl.steerMode u ≠ 3 ∨ !s.flows c ∨ t.kind ≠ kSteer then s
      else
        let y := x.setInput 3 ts
        if 2 < i then (s.setClu c (cl.setUnit u y)).count (s.cluReg c 0x860) 1
        else if (firstGroup false (x.input i)).2.1 then (s.stir c).setClu c (cl.setUnit u (y.forward i))
        else s)

/-! ### The watchdog (R141, R142) -/

/-- Non-empty queues of a cluster whose tokens are pending: input queues headed by a BARRIER are not. -/
def State.pendingQueues (s : State) (c : Nat) : Nat :=
  ((hartsOf c).map fun h =>
    let x := s.core h
    (x.inq.filter fun e => match e.2.tokens with | [] => false | t :: _ => t.kind != kBarrier).length
      + (x.outq.filter fun e => decide (e.2.tokens ≠ []) || decide (e.2.pack ≠ [])).length).foldl (· + ·) 0

/-- Non-empty input and output queues of a cluster (R142). -/
def State.fullQueues (s : State) (c : Nat) : Nat :=
  ((hartsOf c).map fun h =>
    let x := s.core h
    (x.inq.filter fun e => decide (e.2.tokens ≠ [])).length
      + (x.outq.filter fun e => decide (e.2.tokens ≠ []) || decide (e.2.pack ≠ [])).length).foldl (· + ·) 0

/-- The region holds a pending token or bulk-mover descriptor (R141, R198). -/
def State.pendingIn (s : State) (q : Part) (rn : Nat) (r : Region) : Bool :=
  r.clusters.any (fun c => decide (0 < s.pendingQueues c) || decide (0 < (s.clu c).steerHeld) || !(s.clu c).moversIdle)
    || q.records.any fun x => decide (x.region = rn)
      && ((decide (x.land ≠ []) && !x.closed) || (decide (x.bal ≠ []) && (!x.gated || decide (0 < x.released))))

/-- The 16 clusters of event 0x0203: cluster and non-empty queues. -/
def State.stallData (s : State) (cs : List Nat) : Bytes :=
  ((cs.filter fun c => decide (0 < s.fullQueues c)).take 16).flatMap fun c => u16 (c + Nat.min (s.fullQueues c) 31 * 1024)

/-- Fast cycles without progress at which the watchdog fires (R141). -/
abbrev watchLimit : Nat := 0x100000

/-- REGION_STALL (R141, R142): for 2^20 counted fast cycles tokens were pending and none moved. The partition freezes, the stall is counted and recorded, the step ends with TIMEOUT and
its traffic is cleared; an activation that drains the region ends with FAULT, and that region keeps its epoch
(R156). -/
def execRegionStall (rn : Nat) (s : State) : Host.Outcome State Fault Refusal :=
  answer s (match s.region rn with
    | none => s
    | some r => match s.part r.part with
      | none => s
      | some q =>
        if q.freeze ≠ .no ∨ r.still < watchLimit ∨ !s.pendingIn q rn r then s
        else
          let s := s.modRegion rn fun r => { r with still := 0 }
          let s := r.clusters.foldl (fun s c => s.count (s.cluReg c 0x868) 1) s
          let s := s.record 0x0203 4 r.part rn onPanel (s.stallData r.clusters)
          let s := s.endStep r.part stTimeout s.evr.seq.toNat
          let s := s.clearStep r.part (if r.act.isSome then [rn] else [])
          if r.act.isSome then s.dropActivation rn stFault else s)

/-! ### Steps (R143 to R146, R463) -/

/-- STEP_RELEASE (R143): the partition's next step begins if none runs, and is released once its conditions
hold. -/
def execStepRelease (p : Nat) (s : State) : Host.Outcome State Fault Refusal :=
  answer s (
    let s := match s.part p with
      | none => s
      | some q =>
        let s := if q.step.isNone then s.repairRecords p else s
        s.promote p (q.queued.length + 1)
    match s.part p with
    | none => s
    | some q => match q.step with
      | none => s
      | some st => onlyIf (s.canRelease p q st) s (s.release p st))

/-- STEP_END (R144, R331): every region of the step has come to its end; the step ends with OK. -/
def execStepEnd (p : Nat) (s : State) : Host.Outcome State Fault Refusal :=
  answer s (match s.part p with
    | none => s
    | some q => match q.step with
      | none => s
      | some st =>
        if st.released && decide (q.freeze = .no) && (s.stepRegions p st).all fun e => s.regionDone q e.1 e.2 then
          let cs := s.stepClusters p st
          let s := (s.stepRegions p st).foldl (fun s e => s.setRegion e.1 { e.2 with ended := true }) s
          let lost := (onesOf q.stackTbl.toNat 24).any s.stackLost
          cs.foldl (fun s c => s.stopCluster c) (s.endStep p (if lost then stFenced else stOk))
        else s)

/-- NOTICE_DEFER_TIMEOUT (R463): increases that no step's end has reported within a second are reported. -/
def execNoticeDeferTimeout (p : Nat) (s : State) : Host.Outcome State Fault Refusal :=
  answer s (match s.part p with
    | none => s
    | some q => onlyIf q.step.isNone s (s.stepNotices p))

/-- Resume hart h from its P.YIELD (R145): the instruction retires. -/
def State.resume (s : State) (h : Nat) : State :=
  let c := s.core h
  if c.yielded then (s.setCore h { c with yielded := false, wait := none }).retire h 4 else s

/-- The loop that feeds input queue q of hart h under petal p has every credit back (R146): the producer of its binding has no credit out, and
nothing stands on the way. -/
def State.loopHome (s : State) (h q : Nat) (p : Petal) : Bool :=
  let w := (p.inWord q).toNat
  let c := h / 32
  let home := fun (k o : Nat) => decide (((s.core k).outQ o).out = 0)
  match bits w 0 3 with
  | 1 => home (c * 32 + bits w 5 5) (bits w 10 3)
  | 2 =>
    let recs : List Inbound := match (s.partOf c).bind s.part with | none => [] | some x => x.records.filter fun r => decide (r.consHart = h) && decide (r.consQ = q)
    recs.all fun r => r.land.isEmpty && r.bal.isEmpty && r.marks.isEmpty
      && (if r.circuit then home r.prodHart r.prodQ else decide (r.producer = 0) || decide (r.pops = r.credited))
  | 3 => ((s.clu c).unit (bits w 7 2)).output (bits w 5 2) |>.isEmpty
  | _ => true

/-- A queue that two petals bind differently is empty, with every credit back (R146). -/
def State.rebindOk (s : State) (h : Nat) (old new : Petal) : Bool :=
  let c := s.core h
  (List.range 8).all fun q =>
    (old.inWord q == new.inWord q || (decide ((c.inQ q).tokens = []) && (c.inQ q).virt.isNone && s.loopHome h q old))
      && (old.outWord q == new.outWord q
        || (decide ((c.outQ q).tokens = []) && decide ((c.outQ q).pack = []) && decide ((c.outQ q).out = 0)))

/-- Hart h may switch to petal p now: engines idle, and every queue that changes its binding empty (R49, R146). -/
def State.switchOk (s : State) (h p : Nat) : Bool :=
  let c := s.core h
  c.busyMask == 0 && s.rebindOk h c.pet (tget {} c.petals p)

/-- The fold entry that follows the present one of cluster c, once every core of its mask has yielded or runs nothing and no switch is pending
(R145): the entry's number, `FOLD_COUNT` after the last, and the loop counts then. -/
def State.foldNext (s : State) (c : Nat) : Option (Nat × Tbl Nat) :=
  let cl := s.clu c
  let e := cl.foldE cl.foldAt
  let yielded := (onesOf e.mask.toNat 32).all fun k =>
    let x := s.core (c * 32 + k)
    (x.yielded || !x.running) && x.switchTo.isNone
  if cl.foldCount ≤ cl.foldAt ∨ !yielded then none
  else
    let n := tget 0 cl.foldLoops cl.foldAt
    if e.loopTo ≠ 0xFF ∧ n < e.loopCnt then some (e.loopTo, tset 0 cl.foldLoops cl.foldAt (n + 1))
    else some (cl.foldAt + 1, tset 0 cl.foldLoops cl.foldAt 0)

/-- The cores that entering fold entry j of cluster c switches; a bouquet's followers switch with their leader (R71, R145). -/
def State.foldSwitches (s : State) (c j : Nat) : List Nat :=
  let e := (s.clu c).foldE j
  if (s.clu c).foldCount ≤ j then []
  else ((onesOf e.mask.toNat 32).map (c * 32 + ·)).filter fun h => !s.follower h && decide ((s.core h).petal ≠ e.petal)

/-- Every switch that entering fold entry j needs meets its conditions (R145, R146). -/
def State.foldReady (s : State) (c j : Nat) : Bool := (s.foldSwitches c j).all fun h => s.switchOk h ((s.clu c).foldE j).petal

/-- Enter fold entry j of cluster c: cores of its mask that run another petal are to switch, those that run its
own resume; other cores stay as they are (R145). -/
def State.enterFold (s : State) (c j : Nat) : State :=
  let e := (s.clu c).foldE j
  let sw := s.foldSwitches c j
  (onesOf e.mask.toNat 32).foldl (fun s k =>
    let h := c * 32 + k
    if sw.contains h then s.setCore h { s.core h with switchTo := some e.petal }
    else if (s.core h).petal = e.petal then s.resume h else s) s

/-- FOLD_ADVANCE (R145): every core of the entry's mask has yielded, or runs nothing, and the switches into the next entry may go. -/
def execFoldAdvance (c : Nat) (s : State) : Host.Outcome State Fault Refusal :=
  answer s (match s.foldNext c with
    | none => s
    | some (j, loops) =>
      if !s.flows c ∨ !s.foldReady c j then s
      else
        let s := s.setClu c { s.clu c with foldLoops := loops, foldAt := j }
        if j < (s.clu c).foldCount then s.enterFold c j else s)

/-- PETAL_SWITCH (R49, R71, R146): save, restore, and clear accumulators, latches and staging areas, in every core of a
bouquet. -/
def execPetalSwitch (h : Nat) (s : State) : Host.Outcome State Fault Refusal :=
  answer s (
    let c := s.core h
    match c.switchTo with
    | none => s
    | some p =>
      if !s.flows (h / 32) ∨ !s.switchOk h p then s
      else (s.groupOf h).foldl (fun s k => s.runPetal k p) (s.resume h))

/-! ### Queue-depth samples (R158) -/

/-- The 320 bytes of a sample of cluster c with sequence word seq. -/
def State.sample320 (s : State) (c seq : Nat) : Bytes :=
  let still := s.power.paused.contains c || (match s.partOf c with | none => false | some p => s.frozen p)
  let depth := (hartsOf c).flatMap fun h => (List.range 8).map fun i => BitVec.ofNat 8 (Nat.min ((s.core h).inQ i).tokens.length 16)
  let recs : List Inbound := match s.partOf c with
    | none => []
    | some p => match s.part p with
      | none => []
      | some q => q.records.filter fun r => decide (r.cluster = c) && decide (0 < r.b)
  let balq := (List.range 16).flatMap fun i => u16 (Nat.min ((recs[i]?).map (·.bal.length) |>.getD 0) 0xFFFF)
  let steer := (List.range 16).map fun i => BitVec.ofNat 8 (Nat.min (((s.clu c).unit (i / 4)).output (i % 4)).length 255)
  u64 (s.trust.opTime * usec 1000 + s.now % usec 1000) ++ u32 seq ++ u32 (b2n still + (s.epochOf c).toNat * 2) ++ depth ++ balq ++ steer

/-- QSAMP_SAMPLE (R158): one record at the ring's next place, with its sequence number. A place outside the partition's HBM is
UNPREDICTABLE within the partition: the model writes nothing there (log entry 104). -/
def execQsampSample (c : Nat) (s : State) : Host.Outcome State Fault Refusal :=
  answer s (
    let a := s.cluReg c
    if s.field (a 0x844) 5 1 = 0 then s
    else
      let seq := ((s.reg (a 0x850)).toNat + 1) % 0x100000000
      let r := s.field (a 0x844) 6 5
      let to_ := s.reg64 (a 0x848) % 0x1000000000000 + seq % 2 ^ r * 320
      let mine := match (s.partOf c).bind s.part with | none => false | some q => q.ownsHbm to_ 320
      let s := if mine then (s.poke to_ (s.sample320 c seq)).wroteStack to_ 320 else s.draw
      s.setReg (a 0x850) (BitVec.ofNat 32 seq))

end Sys2Proof.Machine
end

