-- ==== Sys2Proof/Machine/Activate.lean ====
section
/-! DEFINITION. Images and activation: IMAGE_LOAD (R168, R330), IMAGE_ACTIVATE and what follows it (R153 to R156), and
the wait of R149. -/

namespace Sys2Proof.Machine

/-- The image's bytes at the staging address (R330). -/
def State.stageImage (s : State) (c : Started) (host : Bytes) : State :=
  let dst := c.arg 24 6
  if c.byte 16 = 1 then
    if c.arg 8 6 = dst then s else { s with mem := memCopy s.mem (c.arg 8 6) dst (s.header (c.arg 8 6)).size }
  else s.poke dst host

/-- The checks of `MAGIC`, `HDR_SIZE` and `HDR_CRC`, after which `IMAGE_SIZE` is trusted (R168). -/
def headCheck (b : Bytes) : Nat :=
  firstFail [(b.take 8 == imageMagic && fld b 0xA 2 == 128, stVersion), (decide (crc32 (b.take 0x7C) = BitVec.ofNat 32 (fld b 0x7C 4)), stFault)]

/-- IMAGE_LOAD (R168, R330): copy, check, and stage for its region. The first image of a region also writes its
bank 11 backups (R51). -/
def execImageLoad (id : Nat) (io : HostIo) (s : State) : Host.Outcome State Fault Refusal :=
  answer s (s.runCmd id 0x20 io fun c =>
    let p := c.partNo
    let rn := c.byte 19
    let cx := c.byte 17
    let cy := c.byte 18
    let dst := c.arg 24 6
    match s.part p with
    | none => s.fail id stFault 4
    | some q =>
      let run := fun (host : Bytes) =>
        let head := if c.byte 16 = 1 then s.img (c.arg 8 6) 0 128 else padTo 128 host
        let n := fld head 0x20 8
        let clash := match s.region rn with
          | none => false
          | some r => decide (r.part ≠ p ∨ r.cx ≠ cx ∨ r.cy ≠ cy)
        if 1 < c.byte 16 then s.fail id stVersion 16
        else if clash then s.fail id stNoResource
        else if headCheck head ≠ stOk then s.fail id (headCheck head)
        else if dst % 64 ≠ 0 ∨ !q.ownsHbm dst n then s.fail id stFault 24
        else
          let s := s.stageImage c (padTo n host)
          let st := s.checkImage q dst rn cx cy
          if st ≠ stOk then s.fail id st
          else
            let hd := s.header dst
            let l := s.sects dst hd
            if !s.endpointsFit q rn (s.inboundsOf dst rn cx cy l) then s.fail id stNoResource
            else
              let r : Region := (s.region rn).getD { part := p, cx := cx, cy := cy, w := hd.w, h := hd.h }
              let s := s.setRegion rn { r with staged := some dst }
              let s := if r.loaded.isNone then s.installStaged rn dst else s
              let s := if r.loaded.isNone && !bitOf hd.flags 0 then
                  (List.range (hd.w * hd.h)).foldl (fun s i => s.writeBackup dst l i ((rect cx cy hd.w hd.h).getD i 0)) s
                else s
              s.finish id stOk 0 0
      if c.byte 16 = 1 then run [] else s.withHost id c io run)

/-! ### Activation -/

/-- The activation of region rn starts, once the limit of R149 allows: ports close; a region that has run nothing
needs no drain, and DISCARD discards its tokens at once (R153, R154). -/
def State.startActivation (s : State) (rn : Nat) (discard : Bool) (cmd : Nat) : State :=
  match s.region rn with
  | none => s
  | some r =>
    if r.limited s.now then s.setRegion rn { r with act := some { phase := .rateWait, discard := discard, cmd := cmd } }
    else
      let first := r.loaded.isNone
      let s := s.setRegion rn { r with act := some { phase := if first || discard then .drained else .draining, discard := discard, cmd := cmd } }
      let s := s.setPorts rn true
      if first then s
      else if discard then
        let s := s.clearRegion r.part rn r true false
        r.clusters.foldl (fun s c => s.stopCluster c) s
      else s

/-- IMAGE_ACTIVATE (R153, R154, R156, R330): every named region has a staged image and is not being activated. -/
def execImageActivate (id : Nat) (io : HostIo) (s : State) : Host.Outcome State Fault Refusal :=
  answer s (s.runCmd id 0x21 io fun c =>
    let p := c.partNo
    let named := onesOf c.regions 256
    let ok := named.all fun rn => match s.region rn with | none => false | some r => decide (r.part = p) && r.staged.isSome
    let busy := named.any fun rn => match s.region rn with | none => false | some r => decide (r.part = p) && r.act.isSome
    s.withHost id c io fun _ =>
      if 2 < c.byte 8 then s.fail id stVersion 8
      else if busy then s.fail id stBusy
      else if !ok then s.fail id stFault 32
      else
        let s := named.foldl (fun s rn => match s.region rn with
          | none => s
          | some r =>
            let mode := match r.staged with | none => 0 | some b => (s.header b).mode
            s.startActivation rn (decide (c.byte 8 = 2) || (decide (c.byte 8 = 0) && decide (mode = 1))) id) s
        let s := (named.flatMap fun rn => match s.region rn with | none => [] | some r => r.clusters).foldl (fun s c => s.requestWake c) s
        s.settleActivation id)

/-- Region rn is empty (R153): no token, every core at rest with engines idle, every image channel idle. Tokens at
its closed ports do not count. -/
def State.regionEmpty (s : State) (rn : Nat) (r : Region) : Bool :=
  r.clusters.all (fun c =>
    (hartsOf c).all (fun h => s.rests h && decide ((s.core h).held = 0)) && decide ((s.clu c).steerHeld = 0) && (s.clu c).moversIdle)
    && match s.part r.part with
      | none => true
      | some q => q.records.all fun x => decide (x.region ≠ rn) || (decide (x.bal = []) && (x.boundary || decide (x.land = [])))

/-- ACTIVATION_DRAIN_COMPLETE (R153). -/
def execActivationDrainComplete (rn : Nat) (s : State) : Host.Outcome State Fault Refusal :=
  answer s (match s.region rn with
    | none => s
    | some r => match r.act with
      | none => s
      | some a =>
        if a.phase = .draining ∧ s.regionEmpty rn r ∧ !s.frozen r.part ∧ !s.shedding ∧ r.clusters.all (fun c => !s.power.paused.contains c) then
          r.clusters.foldl (fun s c => s.stopCluster c) (s.setRegion rn { r with act := some { a with phase := .drained } })
        else s)

/-- ACTIVATION_LOAD_COMPLETE (R149, R153, R155, R156): the new configuration is in place, the epoch advances, marks leave,
ports reopen; an epoch that would advance a fourth time within 10 ms waits; a DATA record's copy that fails its CRC ends the activation with FAULT, and an endpoint that finds no place with
NO_RESOURCE (R286). -/
def execActivationLoadComplete (rn : Nat) (s : State) : Host.Outcome State Fault Refusal :=
  answer s (match s.region rn with
    | none => s
    | some r => match r.act, r.staged with
      | some a, some base =>
        let awake := !s.shedding && r.clusters.all fun c => decide (2 ≤ s.power? c) && !s.power.paused.contains c
        if a.phase ≠ .drained ∨ s.frozen r.part ∨ !awake ∨ r.limited s.now then s
        else
          let hd := s.header base
          let ds := (s.recordsOf base (s.sects base hd) sData 32).map (dataOf rn r.cx r.cy)
          let fits := match s.part r.part with
            | none => false
            | some q => s.endpointsFit q rn (s.inboundsOf base rn r.cx r.cy (s.sects base hd))
          if !s.dataOk ds then s.dropActivation rn stFault
          else if !fits then s.dropActivation rn stNoResource
          else
            let s := s.loadRegion rn base
            let s := (match s.region rn with | none => s | some r => s.rebaseRegion r).advanceEpoch rn true
            let s := (s.modRegion rn fun r => { r with act := none }).setPorts rn false
            let s := s.modPart r.part fun q => { q with capsLost := false }
            s.settleActivation a.cmd
      | _, _ => s)

/-- ACTIVATION_DRAIN_TIMEOUT (R156): a drain not complete after 1 ms, in which frozen and paused time does not count. -/
def execActivationDrainTimeout (rn : Nat) (s : State) : Host.Outcome State Fault Refusal :=
  answer s (match s.region rn with
    | none => s
    | some r => match r.act with
      | none => s
      | some a =>
        if a.phase = .draining ∧ !s.frozen r.part ∧ !s.shedding ∧ r.clusters.all (fun c => !s.power.paused.contains c) then s.dropActivation rn stTimeout else s)

/-- EPOCH_RATE_WAIT_END (R149): an activation of region rn, or a replay or clearing of its partition, that waited
for the limit proceeds. -/
def execEpochRateWaitEnd (rn : Nat) (s : State) : Host.Outcome State Fault Refusal :=
  answer s (match s.region rn with
    | none => s
    | some r =>
      if r.limited s.now then s
      else
        let s : State := match r.act with
          | none => s
          | some a => if a.phase = .rateWait then s.startActivation rn a.discard a.cmd else s
        match s.part r.part with
        | none => s
        | some q =>
          if !q.rateWait ∨ s.rateLimited r.part ∨ !s.restored r.part q then s
          else if q.step.isSome then s.replay r.part
          else ((s.freezeDone r.part).advanceAll r.part q.rateKeep).modPart r.part fun q =>
            { q with rateWait := false, rateKeep := [], standing := [], freeze := .no })

end Sys2Proof.Machine
end

