-- ==== Sys2Proof/Machine/Shadow.lean ====
section
/-! DEFINITION. Shadow checks (R76, R78, R110 to R113): the recomputation of a sampled tile, the
comparison within the tolerance, the tie-break, blame and its record. -/

namespace Sys2Proof.Machine

/-- The pair is exact in E4M3, so that the FP8 check applies (R110). -/
def fp8Exact (w a : Nat) : Bool :=
  [0x1, 0x3, 0x4, 0x5, 0x6, 0x7, 0xA, 0xB, 0xC].contains w && [0x1, 0x3, 0x6, 0x7].contains a

/-- Cut a list into pieces of n. -/
def chunks {α : Type} (n : Nat) : Nat → List α → List (List α)
  | 0, _ => []
  | _, [] => []
  | fuel + 1, l => l.take n :: chunks n fuel (l.drop n)

/-- Operands of a tile: weight columns and activation rows of its K step. -/
def tileIn (t : Tile) : MDesc × StepIn :=
  let d := mdesc { d := t.desc, off := 0 }
  let side := (sideSlices d.wfmt t.side (blockRows d.wfmt d.k) 0 (t.slice + 1)).1
  (d, stepIn d t.elems (side.getD t.slice []) t.rows t.slice t.kstep)

/-- The spare's results: FP32 accumulation in check steps of 16 (FP8) or 4 (BF16) elements. -/
def tileCheck (t : Tile) (fp8 : Bool) : List Word :=
  let x := (tileIn t).2
  let n := if fp8 then 16 else 4
  (List.range t.start.length).map fun i =>
    let ws := x.cols.getD (i % 32) []
    let xs := x.rows.getD (i / 32) []
    (List.zip (chunks n 64 ws) (chunks n 64 xs)).foldl (fun acc p => (macc acc p.1 p.2).1) (t.start.getD i 0)

/-- S_j of output i: |c_j| + Σ |w × x| (R111). -/
def tileScale (t : Tile) (i : Nat) : Fp :=
  let x := (tileIn t).2
  (List.zipWith (fun w v => (w.mul v).abs) (x.cols.getD (i % 32) []) (x.rows.getD (i / 32) [])).foldl Fp.add
    (fpOfWord (t.start.getD i 0)).abs

/-- One output mismatches under R111 with tolerance exponent k. -/
def outMismatch (k : Nat) (y r : Word) (sc : Fp) : Bool :=
  let a := fpOfWord y
  let b := fpOfWord r
  if a.isNan != b.isNan then true
  else if a.isNan then false
  else if a.isInf != b.isInf then true
  else if a.isInf then a.neg? != b.neg?
  else if (round32 sc).isInf || sc.isNan then false
  else match sc with
    | .fin _ m e => (Fp.fin false m (e - k)).lt (a.sub b).abs
    | _ => false

/-- The tile mismatches: some output does. -/
def tileMismatch (k : Nat) (t : Tile) (ys rs : List Word) : Bool :=
  (List.range t.start.length).any fun i => outMismatch k (ys.getD i 0) (rs.getD i 0) (tileScale t i)

/-- floor(−log2(|y − r| ÷ S)) of one output, clamped to 0 to 31; 0 for NaN and Inf (R114). -/
def outErr (y r : Word) (sc : Fp) : Nat :=
  match (fpOfWord y).sub (fpOfWord r), sc with
  | .fin _ m e, .fin _ n f =>
    if m = 0 then 31
    else ((List.range 31).filter fun k => Dy.le { z := m, e := e + (k + 1 : Nat) } { z := n, e := f }).length
  | _, _ => 0

def tileErr (t : Tile) (ys rs : List Word) : Nat :=
  ((List.range t.start.length).map fun i => outErr (ys.getD i 0) (rs.getD i 0) (tileScale t i)).foldl Nat.min 31

/-- Physical core p of cluster c. -/
def State.physIn (s : State) (c p : Nat) : Nat := s.blk c * 34 + p

/-- Blame a physical core for a mismatch, at the present operating time in ms (R78). -/
def State.blame (s : State) (pk : Nat) : State :=
  let x := s.physCore pk
  s.setPhys pk { x with blames := s.trust.opTime :: x.blames }

/-- `CLU_SHADOW_LAST` of a mismatch (R114): who is blamed is 0 checked core, 1 first spare, 2 both. -/
def mismatchWord (spare who : Nat) (t : Tile) (rs : List Word) : Nat :=
  t.checked % 34 + spare * 64 + t.eng % 4 * 4096 + who * 0x4000 + (tileIn t).1.tag * 0x10000
    + tileErr t t.result rs * 0x1000000 + 0x80000000

/-- The cores that `who` names are blamed (R112). -/
def State.blameBy (s : State) (c spare who : Nat) (t : Tile) : State :=
  let s := if who = 1 then s else s.blame t.checked
  if who = 0 then s else s.blame (s.physIn c spare)

/-- The WARNING of a mismatch, at most 16 in a second of operating time (R113). -/
def State.warnMismatch (s : State) (c v : Nat) (t : Tile) : State :=
  let cl := s.clu c
  let recent := cl.mismatches.filter fun x => x / 1000 = s.trust.opTime / 1000
  let s := s.setClu c { cl with mismatches := s.trust.opTime :: recent }
  if 16 ≤ recent.length then s
  else s.record 0x0103 3 t.part 0 (onCluster c) (u32 v ++ u64 t.step.toNat)

/-- A mismatched tile is settled: the record in `CLU_SHADOW_LAST`, blame and the WARNING (R112 to R114). -/
def State.settleMismatch (s : State) (c spare who : Nat) (t : Tile) (rs : List Word) : State :=
  let v := mismatchWord spare who t rs
  (((s.setReg (s.cluReg c 0x81C) (BitVec.ofNat 32 v)).count (s.cluReg c 0x810) 1).blameBy c spare who t).warnMismatch c v t

/-- A physical core of cluster c leaves shadow duty: its pending tiles are skipped, and a mismatch that waits for its re-run is settled
without one (R81, R112). -/
def State.dropTiles (s : State) (c pk : Nat) : State :=
  let x := s.physCore pk
  let s := (s.setPhys pk { x with tiles := [], tie := none }).count (s.cluReg c 0x814) x.tiles.length
  match x.tie with
  | none => s
  | some (t, rs) => s.settleMismatch c (pk % 34) 2 t rs

/-- The other spares of the cluster on shadow duty with a free queue slot. -/
def State.otherSpares (s : State) (c spare : Nat) : List Nat := (s.freeSpares c).filter fun pk => pk != s.physIn c spare

/-- SHADOW_CHECK (R110, R111, R113): the first tile of a spare's queue. A mismatch waits for the other
spare when `TIEBREAK` is 1 and one can take it; otherwise both cores are blamed. -/
def execShadowCheck (c spare : Nat) (s : State) : Host.Outcome State Fault Refusal :=
  answer s (
    let pk := s.physIn c spare
    let x := s.physCore pk
    match x.tiles with
    | [] => s
    | t :: ts =>
      if x.duty ≠ 1 ∨ x.retired ∨ x.tie.isSome then s
      else
        let d := (tileIn t).1
        let wantFp8 := s.field (s.cluReg c 0x800) 6 1 = 1
        let fp8 := wantFp8 && fp8Exact d.wfmt d.afmt
        let s := s.setPhys pk { x with tiles := ts }
        let s := s.count64 (s.cluReg c 0x808) 1
        let s := if wantFp8 && !fp8 then s.count (s.cluReg c 0x818) 1 else s
        let rs := tileCheck t fp8
        if !tileMismatch (s.field (s.cluReg c 0x800) 7 5) t t.result rs then s
        else if s.field (s.cluReg c 0x800) 12 1 = 1 ∧ s.otherSpares c spare ≠ [] then
          s.setPhys pk { s.physCore pk with tie := some (t, rs) }
        else s.settleMismatch c spare 2 t rs)

/-- SHADOW_TIEBREAK (R112): the other spare re-runs the tile that `spare` found to mismatch. -/
def execShadowTiebreak (c spare : Nat) (s : State) : Host.Outcome State Fault Refusal :=
  answer s (
    let pk := s.physIn c spare
    let x := s.physCore pk
    match x.tie with
    | none => s
    | some (t, rs) =>
      let s := s.setPhys pk { x with tie := none }
      if s.otherSpares c spare = [] then s.settleMismatch c spare 2 t rs
      else
        let d := (tileIn t).1
        let k := s.field (s.cluReg c 0x800) 7 5
        let r2 := tileCheck t (s.field (s.cluReg c 0x800) 6 1 = 1 && fp8Exact d.wfmt d.afmt)
        if !tileMismatch k t rs r2 then s.settleMismatch c spare 0 t rs
        else if !tileMismatch k t t.result r2 then s.settleMismatch c spare 1 t rs
        else s.settleMismatch c spare 2 t rs)

/-- Blames of a physical core within the last 24 hours of operating time (R78). -/
def State.blameCount (s : State) (pk : Nat) : Nat :=
  ((s.physCore pk).blames.filter fun t => decide (s.trust.opTime < t + 86400000)).length

end Sys2Proof.Machine
end

