-- ==== Sys2Proof/Machine/CoreFaults.lean ====
section
/-! DEFINITION. Core faults and what follows them (R78 to R83, R180, R257): the stand-in with its freeze, restore and
replay, shadow blame, SECDED errors, and rotation. -/

namespace Sys2Proof.Machine

/-- The bit index of `CORE_FAULT` that each fault sets. -/
abbrev bitParity : Nat := 4
abbrev bitHeartbeat : Nat := 5
abbrev bitSecded : Nat := 6

/-- The partition freezes for w at its next flow-token boundary, unless it is frozen. -/
def Part.due (q : Part) (w : Freeze) : Part := if q.freeze = .no then { q with freezeDue := w, freezeLate := false } else q

/-- A physical core leaves service for good: it holds no tile, and the field list names it (R79, R84, R390). -/
def State.retireCore (s : State) (pk cause : Nat) : State :=
  let x := s.physCore pk
  let s := s.setPhys pk { x with retired := true, duty := 0, tiles := [], tie := none }
  s.addDefect 1 cause kCore (pk / 34 / 4) (pk / 34 % 4 * 34 + pk % 34) 0

/-- Physical cores of cluster c that may take an identity: spares in service, idle ones first (R81). -/
def State.spares (s : State) (c : Nat) : List Nat :=
  let free := ((List.range 34).map (s.physIn c)).filter fun pk =>
    (s.hartOf pk).isNone && !(s.physCore pk).retired && !s.sparing.badCore (pk / 34 / 4) (pk / 34 % 4) (pk % 34)
  free.filter (fun pk => decide ((s.physCore pk).duty = 2)) ++ free.filter (fun pk => decide ((s.physCore pk).duty ≠ 2))

/-- Cause of the defect entry of a core that is replaced: shadow blame, or a hardware fault its register shows (R392). -/
def State.faultCause (s : State) (pk : Nat) : Nat := if s.field (coreBase pk + 8) 4 3 = 0 then 5 else 4

/-- Hart h moves onto a spare (R80, R81): the failed core is retired, the spare's pending tiles are skipped, and the
other spare carries the shadow duty. Without a spare, the whole die is retired. -/
def State.takeSpare (s : State) (h : Nat) : State × Bool :=
  let c := h / 32
  let old := s.physOf h
  let cause := s.faultCause old
  let s' := s.retireCore old cause
  match s.spares c with
  | [] => (s'.retireDie (s.blk c / 4) cause none false, false)
  | pk :: rest =>
    let s' := s'.dropTiles c pk
    let s' := s'.setPhys pk { s'.physCore pk with duty := 3 }
    let s' := if (s.partOf c).isNone then s' else rest.foldl (fun s k => s.setPhys k { s.physCore k with duty := 1 }) s'
    let cl := s'.clu c
    let s' := s'.setClu c { cl with coreMap := cl.coreMap.set (h % 32) (pk % 34) }
    (s'.invalidateCache c, true)

/-- A fault of hart h's core that a stand-in answers (R79): its bit and pc are noted and its partition freezes. A core
of no partition runs nothing, and is replaced at once. -/
def State.coreFault (s : State) (h : Nat) (bit : Option Nat) : State :=
  let a := s.coreReg h 8
  let s := match bit with
    | none => s
    | some b => (s.setField a b 1 1).setReg (a + 4) (BitVec.ofNat 32 (s.core h).pc)
  match s.partOf (h / 32) with
  | none =>
    let r := s.takeSpare h
    if r.2 then let pk := r.1.physOf h; r.1.setPhys pk { r.1.physCore pk with duty := 0 } else r.1
  | some p =>
    let d := s.free
    let s := if bit.isNone then s.draw else s
    s.modPart p fun q =>
      if q.standing.any (fun e => decide (e.1 = h)) then q
      else
        let first := decide (q.standing = [])
        { q.due .standIn with
          standing := q.standing ++ [(h, 0)], standAt := if first then s.now else q.standAt,
          standBit := if first then (match bit with | some b => b | none => (Config.freeByte d 0).toNat) else q.standBit }

/-- CONTROL_STATE_PARITY_ERROR (R79). -/
def execControlStateParityError (hart : Nat) (s : State) : Host.Outcome State Fault Refusal :=
  answer s (s.coreFault hart (some bitParity))

/-- HEARTBEAT_LOSS (R79): the core runs, waits on no queue, and none of its engines is active. -/
def execHeartbeatLoss (hart : Nat) (s : State) : Host.Outcome State Fault Refusal :=
  answer s (
    let c := s.core hart
    onlyIf (c.running && !c.halted && c.wait.isNone && !c.yielded && decide (c.busyMask = 0)) s (s.coreFault hart (some bitHeartbeat)))

/-- SHADOW_BLAME_REPLACE (R78): three blames within 24 hours, at a step boundary. A logical core is replaced by the
stand-in procedure; a spare leaves its duty. -/
def execShadowBlameReplace (cluster phys : Nat) (s : State) : Host.Outcome State Fault Refusal :=
  answer s (
    let pk := s.physIn cluster phys
    let idle := match s.partOf cluster with
      | none => true
      | some p => match s.part p with
        | none => true
        | some q => decide (q.freeze = .no) && match q.step with | none => true | some st => !st.released
    if s.blameCount pk < 3 ∨ (s.physCore pk).retired ∨ !idle then s
    else match s.hartOf pk with
      | some h => s.coreFault h none
      | none => (s.dropTiles cluster pk).retireCore pk 5)

/-! ### SECDED (R180, R217, R257) -/

/-- A step of partition p must be replayed, and the partition freezes for it (R180). -/
def State.replayDue (s : State) (c : Nat) : State :=
  match s.partOf c with
  | none => s
  | some p => s.modPart p fun q => q.due .repair

/-- Places of partition q's audited data that lie in bank b of cluster c: DATA records, then bank 11 parts (R186). -/
def Part.inBank (q : Part) (c b : Nat) : List Nat :=
  ((List.range q.data.length).filter fun i => match q.data[i]? with
    | none => false
    | some d => decide (d.addr < sramBase c + (b + 1) * 0x80000) && decide (sramBase c + b * 0x80000 < d.addr + d.length))
  ++ (if b = 11 then (List.range 288).map fun m => q.data.length + (q.clusters.findIdx? (· = c)).getD 0 * 288 + m else [])

/-- An uncorrectable error in a cluster-memory remap table: the table is rewritten from the defect map, and what lies
in the bank is reloaded before the replay (R180). -/
def State.remapError (s : State) (c bank : Nat) : State :=
  let s := (s.writeRemaps (s.blk c)).record 0x0302 3 (s.partNo c) ((s.regionOf c).getD 0) (onCluster c) (u8 bank)
  match s.partOf c with
  | none => s
  | some p => s.modPart p fun q => { q.due .repair with repairRec := q.repairRec ++ (q.inBank c bank).filter fun r => !q.repairRec.contains r }

/-- An uncorrectable error in the slot table of the router of cluster c (R257): the table is rewritten from the
image, and the step is replayed. -/
def State.slotError (s : State) (c entry : Nat) : State :=
  let s := s.record 0x0505 3 (s.partNo c) ((s.regionOf c).getD 0) (onSite (s.blk c / 4) (quadOf c)) (u32 entry)
  let s := match s.regionOf c with
    | none => s
    | some rn => match s.region rn with
      | none => s
      | some r => match r.loaded with
        | none => s
        | some base =>
          let hd := s.header base
          s.putSlots (s.blk c) (s.slotWords base (s.sects base hd) hd.frame ((r.clusters.findIdx? (· = c)).getD 0))
  s.replayDue c

/-- `EXIT_VALID` and the entries stay: Gleryn has rewritten every copy when the command ends (R257). -/
def State.exitError (s : State) (c entry : Nat) : State :=
  s.record 0x0506 2 noPart 0 (onSite (s.blk c / 4) (quadOf c)) (u32 entry)

/-- A buffered packet with bad route state is discarded and counted; its source resends it (R257). -/
def State.routeError (s : State) (c n : Nat) : State :=
  let here := fun (m : Moving) => m.legs.any fun l => decide (l.key / 5 = s.blk c)
  match (s.moving.filter here)[n]? with
  | none => s
  | some m => ({ s with moving := s.moving.erase m }).count (s.fabReg c 0x014) 1

/-- An uncorrectable error in a page-table entry (R217): the entry becomes invalid and poisoned, keeping its owner. -/
def State.pageError (s : State) (n page : Nat) : State :=
  let x := s.stack n
  let e := (tget 0x2000000000000000 x.pte page).toNat
  let v := bits e 1 7 * 2 + 2 ^ 45 + 2 ^ 61
  let s := s.setStack n { x with pte := tset 0x2000000000000000 x.pte page (BitVec.ofNat 64 v) }
  s.record 0x0402 4 (if bitOf e 7 then bits e 1 6 else noPart) 0 (onStack n) (u64 page)

/-- An uncorrectable error in an endpoint-table entry of a link die (R284): the packet that met it is dropped, and
counted in `LNK_EPT_UE`. -/
def State.endpointError (s : State) (die eid : Nat) : State :=
  let s := s.count (lnkBase die + 0x2C) 1
  match s.moving.find? fun m => decide (m.legs = []) && decide (m.pkt.dest.toNat = eid)
      && (decide (m.target = .exit (24 + die)) || match m.target with | .link q => decide (q / 6 = die) | _ => false) with
  | none => s
  | some m => { s with moving := s.moving.erase m }

/-- SECDED_UNCORRECTABLE (R180, R217, R257): the response of the structure's row. `core` is the logical core of a
structure inside one; `index` names the bank, entry, buffered packet, page or 64-byte unit of a stack (in `cluster`). -/
def execSecdedUncorrectable (cluster core : Nat) (which : Secded) (index : Nat) (s : State) : Host.Outcome State Fault Refusal :=
  answer s (match which with
    | .petalStorage => s.coreFault (cluster * 32 + core) (some bitSecded)
    | .queueControl => s.coreFault (cluster * 32 + core) (some bitParity)
    | .nsRemap => s.coreFault (cluster * 32 + core) (some bitSecded)
    | .cmRemap => s.remapError cluster index
    | .balqSteer => s.replayDue cluster
    | .bmChannel => s.replayDue cluster
    | .cacheTag => s.invalidateCache cluster
    | .backupDir => s.setClu cluster { s.clu cluster with dirBad := index :: (s.clu cluster).dirBad.filter (· ≠ index) }
    | .slotTable => s.slotError cluster index
    | .exitEntry => s.exitError cluster index
    | .routeState => s.routeError cluster index
    | .pageTable => s.pageError cluster index
    | .endpointTable => s.endpointError cluster index
    | .dram => onlyIf (decide (cluster < 24) && decide (index * 64 < s.stackBytes)) s (s.reportUe cluster (index * 64)))

/-- SECDED_CORRECTABLE (R79, R180, R217, R257): corrected, and counted where the structure's block counts. A page
table is named by its stack in `cluster`, an endpoint table by its link die, and a channel of a stack's DRAM by its stack in `cluster` and
its number in `core` (R212). -/
def execSecdedCorrectable (cluster core : Nat) (which : Secded) (s : State) : Host.Outcome State Fault Refusal :=
  answer s (match which with
    | .petalStorage | .queueControl | .nsRemap => s.count (s.coreReg (cluster * 32 + core) 0x10) 1
    | .cmRemap | .balqSteer | .bmChannel | .cacheTag | .backupDir => s.count (s.cluReg cluster 0x904) 1
    | .slotTable | .exitEntry | .routeState => s.count (s.fabReg cluster 0x010) 1
    | .pageTable => s.count (sbdBase cluster + 0x40) 1
    | .endpointTable => s.count (lnkBase cluster + 0x28) 1
    | .dram => onlyIf (decide (cluster < 24) && decide (core < 32)) s (s.noteCorrected cluster core))

/-! ### The stand-in (R80) -/

/-- PARTITION_FROZEN (R80, R180, R398): the freeze that is due begins. A running step's KV appends await their discard
(R220). -/
def execPartitionFrozen (p : Nat) (s : State) : Host.Outcome State Fault Refusal :=
  answer s (s.modPart p fun q =>
    let runs := match q.step with | none => false | some st => st.released
    if q.freezeDue = .no ∨ q.freeze ≠ .no ∨ (q.freezeLate && runs) then q
    else { q with freeze := q.freezeDue, freezeDue := .no, freezeLate := false, discardDue := q.discardDue || runs })

/-- Hart h of partition p stands at a stage of its stand-in. -/
def Part.stage (q : Part) (h : Nat) : Option Nat := (q.standing.find? fun e => decide (e.1 = h)).map (·.2)

def Part.setStage (q : Part) (h n : Nat) : Part :=
  { q with standing := q.standing.map fun e => if e.1 = h then (h, n) else e }

/-- Run f when hart h of a frozen partition stands at stage n; a stand-in waits while the panel sheds (R379). -/
def State.atStage (s : State) (h n : Nat) (f : Nat → Part → State) : State :=
  match s.partOf (h / 32) with
  | none => s
  | some p => match s.part p with
    | none => s
    | some q => if q.freeze = .no ∨ q.freeze = .reset ∨ q.stage h ≠ some n ∨ s.shedding then s else f p q

/-- STAND_IN (R80, R81): a spare takes the logical identity. -/
def execStandIn (cluster core : Nat) (s : State) : Host.Outcome State Fault Refusal :=
  answer s (
    let h := cluster * 32 + core
    s.atStage h 0 fun p _ =>
      let r := s.takeSpare h
      if r.2 then r.1.modPart p fun q => q.setStage h 1
      else r.1.modPart p fun q => { q with standing := q.standing.filter (fun e => decide (e.1 ≠ h)), freeze := .retirement })

/-- Part j of core k's backup slot, if backup is on and the directory's CRC-32 holds (R51). -/
def State.backupPart (s : State) (c k j : Nat) : Option Bytes :=
  let cl := s.clu c
  let b := memRead s.mem (sramBase c + 0x580000 + k * 0x4000 + (if j = 0 then 0 else 8192 + (j - 1) * 1024)) (if j = 0 then 8192 else 1024)
  if cl.backupOn && decide (crc32 b = tget 0 cl.backup (k * 9 + j)) && !cl.dirBad.contains (k * 9 + j) then some b else none

/-- The same part from Gleryn's copy of the image (R51). -/
def State.imagePart (s : State) (c k j : Nat) : Bytes :=
  match s.regionOf c with
  | none => []
  | some rn => match s.region rn with
    | none => []
    | some r => match r.loaded with
      | none => []
      | some base =>
        let l := s.sects base (s.header base)
        let i := (r.clusters.findIdx? (· = c)).getD 0
        if j = 0 then (s.sectBytes base l sInstr ((i * 32 + k) * 8192) 8192).getD []
        else (s.sectBytes base l sPetals (((i * 32 + k) * 8 + j - 1) * 1024) 1024).getD []

/-- A restored petal: its record, with the logical counters it had (R83). -/
def Petal.restoredFrom (new old : Petal) : Petal := { new with mcycle := old.mcycle, minstret := old.minstret }

/-- STAND_IN_PETALS_RESTORED (R80): instruction memory and petals from bank 11, or from the image. -/
def execStandInPetalsRestored (cluster core : Nat) (s : State) : Host.Outcome State Fault Refusal :=
  answer s (
    let h := cluster * 32 + core
    s.atStage h 1 fun p _ =>
      let part := fun j => (s.backupPart cluster core j).getD (s.imagePart cluster core j)
      let c := s.core h
      let ps := (List.range 8).filterMap fun n =>
        let v := (petalOf (part (n + 1))).restoredFrom (tget {} c.petals n)
        if v = {} then none else some (n, v)
      let c := { c with imem := byteTbl (part 0), petals := ps, eng := [], running := false, halted := false, yielded := false,
                        wait := none, switchTo := none }
      (s.setCore h c).modPart p fun q => q.setStage h 2)

/-- STAND_IN_NEAR_STORE_RESTORED (R80): copied from the failed core, or, where its near store does not answer, from the
resident copies in HBM; its other bytes are then lost. -/
def execStandInNearStoreRestored (cluster core : Nat) (answers : Bool) (s : State) : Host.Outcome State Fault Refusal :=
  answer s (
    let h := cluster * 32 + core
    s.atStage h 2 fun p q =>
      let mine := fun (d : DataRec) => decide (nearBase h ≤ d.addr) && decide (d.addr < nearBase h + 0x40000)
      let s := if answers then s else (s.scramble (some p) (nearBase h) 0x40000).loadData 7 (q.data.filter mine)
      let s := if answers then s.ownMove cluster 7 0x40000 else s
      let pk := s.physOf h
      (s.setPhys pk { s.physCore pk with duty := 0 }).modPart p fun q => q.setStage h 3)

/-- REPLAY_RELEASE (R147, R149, R80): the repairs of R180 are made, and the step is replayed, or waits for the
epoch-advance limit. -/
def execReplayRelease (p : Nat) (s : State) : Host.Outcome State Fault Refusal :=
  answer s (match s.part p with
    | none => s
    | some q =>
      if q.freeze = .no ∨ q.freeze = .reset ∨ q.rateWait ∨ !s.restored p q then s
      else
        let s := s.repairRecords p
        let runs := match q.step with | none => false | some st => st.released
        if runs && s.rateLimited p then s.modPart p fun q => { q with rateWait := true }
        else s.replay p)

/-! ### Rotation (R82, R83) -/

/-- Engine activity of physical core pk since it began to count (R84). -/
def State.engBusy (s : State) (pk : Nat) : Nat := ((List.range 5).map fun e => s.reg64 (coreBase pk + 0x100 + 8 * e)).foldl (· + ·) 0

/-- Engine activity of logical core k of cluster c over the last interval: since the cluster's last rotation (R82). -/
def State.activity (s : State) (c k : Nat) : Nat := let pk := s.physOf (c * 32 + k); s.engBusy pk - (s.physCore pk).busyAt

/-- Logical core `core` is a busiest of cluster c (R82). -/
def State.busiest (s : State) (c core : Nat) : Bool := (List.range 32).all fun k => decide (s.activity c k ≤ s.activity c core)

/-- The region of cluster c stands at a step boundary: its part of a step has ended, and the next is not released to it (R82, R144). -/
def State.atBoundary (s : State) (c : Nat) : Bool :=
  match (s.regionOf c).bind s.region with | none => false | some r => r.ended

/-- Partition q, which holds cluster c, may rotate logical core `core` onto physical core `spare` now. -/
def State.mayRotate (s : State) (q : Part) (c core spare : Nat) : Bool :=
  let pk := s.physIn c spare
  let runs := match q.step with | none => false | some st => st.released
  s.atBoundary c && s.busiest c core &&
  q.rotate && !runs && decide (q.freeze = .no) && decide (q.freezeDue = .no) && decide (q.standing = [])
    && !q.rotated.contains c && decide ((s.physCore pk).duty = 2) && !(s.physCore pk).retired
    && (s.hartOf pk).isNone && decide (core < 32) && decide (spare < 34) && q.reset.isNone

/-- The core map names the spare for the logical core, the spare leaves idle duty and the physical core before it takes it, and a new interval
of engine activity begins (R82, R83). -/
def State.rotateMaps (s : State) (c core spare : Nat) : State :=
  let pk := s.physIn c spare
  let old := s.physOf (c * 32 + core)
  let cl := s.clu c
  let s := s.setClu c { cl with coreMap := cl.coreMap.set core spare }
  let s := s.setPhys pk { s.physCore pk with duty := 0 }
  let s := s.setPhys old { s.physCore old with duty := 2 }
  (List.range 34).foldl (fun s p => let k := s.physIn c p; s.setPhys k { s.physCore k with busyAt := s.engBusy k }) s

/-- The logical core moves, and its petal slot and near store, 16 KiB and 256 KiB, are copied (R82, R83). -/
def State.rotateOnto (s : State) (c core spare : Nat) : State := (s.rotateMaps c core spare).ownMove c 7 0x44000

/-- ROTATION (R82, R83): at a step boundary of a partition whose rotation is enabled, one logical core of a cluster
moves onto an idle spare and its physical core becomes the idle spare. -/
def execRotation (cluster core spare : Nat) (s : State) : Host.Outcome State Fault Refusal :=
  answer s (match s.partOf cluster with
    | none => s
    | some p => match s.part p with
      | none => s
      | some q =>
        if s.mayRotate q cluster core spare then
          (s.rotateOnto cluster core spare).modPart p fun q => { q with rotated := cluster :: q.rotated }
        else s)

end Sys2Proof.Machine
end

