-- ==== Sys2Proof/Machine/BulkMover.lean ====
section
/-! DEFINITION. The bulk movers (R187 to R198), the cache (R199 to R203) and the audit of resident data (R185, R186). -/

namespace Sys2Proof.Machine

/-! ### Descriptor fields (R189) -/

def bmf (d : BitVec 512) (byte lo w : Nat) : Nat := bits d.toNat (8 * byte + lo) w

def bmOp (d : BitVec 512) : Nat := bmf d 0 4 4
def bmCached (d : BitVec 512) : Bool := bmf d 1 0 1 = 1
def bmSrcLocal (d : BitVec 512) : Bool := bmf d 1 2 1 = 1
def bmDstLocal (d : BitVec 512) : Bool := bmf d 1 3 1 = 1
def bmSrcRemote (d : BitVec 512) : Bool := bmf d 1 4 1 = 1
def bmDstRemote (d : BitVec 512) : Bool := bmf d 1 5 1 = 1
def bmSrc (d : BitVec 512) : Nat := bmf d 2 0 48
def bmDst (d : BitVec 512) : Nat := bmf d 8 0 48
def bmEid (d : BitVec 512) : BitVec 24 := BitVec.ofNat 24 (bmf d 14 0 24)
/-- Bytes in an innermost run. -/
def bmLen (d : BitVec 512) : Nat := bmf d 22 0 16 + 1
/-- Repeat count and strides of dimension n, 1 to 4. -/
def bmCount (d : BitVec 512) (n : Nat) : Nat := bmf d (14 + 10 * n) 0 16 + 1
def bmSStride (d : BitVec 512) (n : Nat) : Int := sext 32 (bmf d (16 + 10 * n) 0 32)
def bmDStride (d : BitVec 512) (n : Nat) : Int := sext 32 (bmf d (20 + 10 * n) 0 32)
/-- A CONTRIB's first segment and element type. -/
def bmSegment (d : BitVec 512) : Nat := bmf d 8 0 16
def bmEtype (d : BitVec 512) : Nat := bmf d 8 16 3

abbrev opCopy : Nat := 1
abbrev opFill : Nat := 2
abbrev opCrc : Nat := 3
abbrev opInval : Nat := 4
abbrev opContrib : Nat := 5

/-- The runs of a walk in order: source and destination address of each (R190). -/
def bmRuns (d : BitVec 512) : List (Int × Int) :=
  let dim := fun (n : Nat) (l : List (Int × Int)) => l.flatMap fun b =>
    (List.range (bmCount d n)).map fun (i : Nat) => (b.1 + bmSStride d n * i, b.2 + bmDStride d n * i)
  dim 1 (dim 2 (dim 3 (dim 4 [((bmSrc d : Int), (bmDst d : Int))])))

/-- Lowest and highest byte address of a side. -/
def bmExtremes (d : BitVec 512) (base : Nat) (stride : Nat → Int) : Int × Int :=
  let reach := fun (n : Nat) => stride n * ((bmCount d n - 1 : Nat) : Int)
  ([1, 2, 3, 4].foldl (fun a n => if reach n < 0 then a + reach n else a) (base : Int),
   [1, 2, 3, 4].foldl (fun a n => if reach n < 0 then a else a + reach n) ((base + bmLen d - 1 : Nat) : Int))

def bmInside (x : Int × Int) : Bool := decide (0 ≤ x.1) && decide (x.2 < (2 ^ 48 : Nat))

/-- The check of R191: the status it ends with, if it fails. -/
def bmCheck (d : BitVec 512) : Option Nat :=
  let op := bmOp d
  let version := decide (bmf d 0 0 4 ≠ 1) || decide (op = 0) || decide (5 < op) || decide (bmf d 1 6 2 ≠ 0)
    || decide (bmf d 18 20 3 ≠ 0) || decide (bmf d 21 0 8 ≠ 0) || (decide (op = opFill) && decide (bmf d 6 0 16 ≠ 0))
    || (decide (op = opContrib) && (decide (bmf d 8 19 29 ≠ 0) || decide (6 ≤ bmEtype d)))
  let remote := bmSrcRemote d || bmDstRemote d
  let fault := (bmSrcLocal d && bmSrcRemote d) || (bmDstLocal d && bmDstRemote d) || (bmSrcRemote d && bmDstRemote d)
    || (remote && decide (bmEid d = 0))
    || (decide (op ≠ opFill) && !bmInside (bmExtremes d (bmSrc d) (bmSStride d)))
    || ((decide (op = opCopy) || decide (op = opFill)) && !bmInside (bmExtremes d (bmDst d) (bmDStride d)))
    || (decide (op = opCrc) && decide (2 ^ 48 < bmDst d + 4))
    || (decide (op = opContrib) && (!bmDstRemote d || decide (4096 < bmLen d) || decide (bmEtype d = 4) || decide (bmEtype d = 5)))
  if version then some stVersion else if fault then some stFault else none

/-- Panel addresses of n bytes at a walk address: with `_LOCAL`, offsets in cluster c's SRAM window (R190). -/
def bmSpans (c : Nat) (loc : Bool) (a n : Nat) : List (Nat × Nat) :=
  if !loc then [(a, n)]
  else
    let o := a % 0x1000000
    if o + n ≤ 0x1000000 then [(sramBase c + o, n)]
    else [(sramBase c + o, 0x1000000 - o), (sramBase c, o + n - 0x1000000)]

/-! ### Status (R192, R197) -/

/-- The ranking of R197; PARTIAL of R290 stands below the failures. -/
def bmRank (st : Nat) : Nat := if st = 7 then 5 else if st = 4 then 4 else if st = 5 then 3 else if st = 8 then 2 else if st = 1 then 1 else 0

def bmWorse (a b : Nat) : Nat := if bmRank a < bmRank b then b else a

/-- Change the descriptor at work in a channel. -/
def State.modRun (s : State) (c ch : Nat) (f : BmRun → BmRun) : State :=
  let cl := s.clu c
  let x := cl.chan ch
  match x.run with
  | none => s
  | some r => s.setClu c (cl.setChan ch { x with run := some (f r) })

/-- The descriptor of a channel meets a failure. -/
def State.bmFail (s : State) (c ch st : Nat) : State := s.modRun c ch fun r => { r with status := bmWorse r.status st }

/-- An access refused under R192: FAULT, and one count for the descriptor. -/
def State.bmRefused (s : State) (c ch : Nat) : State :=
  let first := match ((s.clu c).chan ch).run with | none => false | some r => !r.counted
  let s := (s.bmFail c ch stFault).modRun c ch fun r => { r with counted := true }
  if first then s.count (s.cluReg c 0x930) 1 else s

/-! ### The cache (R199 to R202) -/

def cacheSet (eid : BitVec 24) (a : Nat) : Nat := Nat.xor (bits a 9 9) (eid.toNat % 512)

def Cluster.lines (cl : Cluster) (k : Nat) : List Line := tget [] cl.cache k

def Line.holds (l : Line) (eid : BitVec 24) (a : Nat) : Bool := decide (l.tag = bits a 18 30) && decide (l.eid = eid)

/-- The line of an address, which becomes the most recently used. -/
def State.cacheGet (s : State) (c : Nat) (eid : BitVec 24) (a : Nat) : State × Option Bytes :=
  let cl := s.clu c
  let k := cacheSet eid a
  match (cl.lines k).find? fun l => l.holds eid a with
  | none => (s, none)
  | some l =>
    let rest := (cl.lines k).filter fun x => !x.holds eid a
    ((s.setClu c { cl with cache := tset [] cl.cache k (l :: rest) }).count64 (s.cluReg c 0x918) 1, some l.data)

/-- Fill a line, replacing the least recently used of eight. -/
def State.cachePut (s : State) (c : Nat) (eid : BitVec 24) (a : Nat) (bs : Bytes) : State :=
  let cl := s.clu c
  let k := cacheSet eid a
  let rest := ((cl.lines k).filter fun x => !x.holds eid a).take 7
  (s.setClu c { cl with cache := tset [] cl.cache k ({ tag := bits a 18 30, eid := eid, data := bs } :: rest) }).count64 (s.cluReg c 0x920) 1

/-- Bytes written by a cluster's own movers also go to the valid lines that hold their addresses (R201). -/
def State.cacheWrite (s : State) (c : Nat) (eid : BitVec 24) (a : Nat) (bs : Bytes) : State :=
  if !s.cacheMode c then s
  else
    let cl := s.clu c
    (List.range ((a + bs.length - 1) / 512 + 1 - a / 512)).foldl (fun s i =>
      let la := (a / 512 + i) * 512
      let k := cacheSet eid la
      let upd := fun (l : Line) => if !l.holds eid la then l
        else { l with data := (List.range 512).map fun j =>
          if a ≤ la + j ∧ la + j < a + bs.length then bs.getD (la + j - a) 0 else l.data.getD j 0 }
      let cl := s.clu c
      s.setClu c { cl with cache := tset [] cl.cache k ((cl.lines k).map upd) }) (s.setClu c cl)

/-- Every line of an address range goes. -/
def State.cacheDrop (s : State) (c : Nat) (eid : BitVec 24) (a n : Nat) : State :=
  (List.range ((a + n - 1) / 512 + 1 - a / 512)).foldl (fun s i =>
    let la := (a / 512 + i) * 512
    let cl := s.clu c
    s.setClu c { cl with cache := tset [] cl.cache (cacheSet eid la) ((cl.lines (cacheSet eid la)).filter fun l => !l.holds eid la) }) s

/-! ### Memory as a stack and a cluster serve it (R35, R192, R212, R233, R363) -/

/-- What the address says of an access by cluster c before its bytes move: an unmapped address is recorded (R35), a cluster in OFF or in
RETAIN as R363 gives. -/
def State.touch (s : State) (a c : Nat) : State :=
  if !s.mapped a then
    if !isSram a then s.noteUnmapped a (s.cluEid c)
    else if s.clusterHole (clusterOfAddr a) then s
    else s.noteOff a (s.cluEid c)
  else if isSram a then s.requestWake (clusterOfAddr a) else s

/-- The router of cluster c cannot reach where an address lies (R249). -/
def State.outOfReach (s : State) (c a : Nat) : Bool :=
  decide (s.addrTarget a ≠ .cluster c) && (s.reach c (s.addrTarget a)).isNone

/-- The stack of an address is lost or out of cluster c's reach (R233, R249). -/
def State.stackGone (s : State) (c a : Nat) : Bool :=
  isHbm a && (s.stackLost (stackOf a) || (s.reach c (.exit (stackOf a))).isNone)

/-- An access to where cluster c's router cannot reach is counted there (R249). -/
def State.countUnreach (s : State) (c a : Nat) : State := if s.outOfReach c a then s.count (s.fabReg c 0x00C) 1 else s

/-- An access to banks 12 to 15 of a cluster in cache mode is counted (R204). -/
def State.blockedRead (s : State) (a : Nat) : State :=
  if isSram a && blockedOffset ((a - 0x018000000000) % 0x1000000) && s.cacheMode (clusterOfAddr a) then
    s.count (s.cluReg (clusterOfAddr a) 0x92C) 1 else s

/-- Does the partition of a channel own n bytes at a? -/
def ownBlock (q : Option Part) (a n : Nat) : Bool := match q with | none => false | some q => q.owns a n

/-- The bytes of n at a that partition q may read: others yield zeros (R192). -/
def State.ownBytes (s : State) (q : Option Part) (a n : Nat) : Bytes :=
  (blocksOf a n).flatMap fun e => if ownBlock q e.1 e.2 then s.load e.1 e.2 else List.replicate e.2 0

def State.partAt (s : State) (c : Nat) : Option Part := (s.partOf c).bind s.part

/-- One line of a cached read: from the cache, or from HBM into it (R200). -/
def State.cacheRead (s : State) (c ch la : Nat) : State × Bytes :=
  let g := s.cacheGet c 0 la
  match g.2 with
  | some bs => (g.1, bs)
  | none =>
    let e := g.1.readStack la 512
    let s := if e.2 then e.1.bmFail c ch stFault else e.1
    (s.cachePut c 0 la (s.load la 512), s.load la 512)

/-- A channel reads n bytes at a, within one 64 KiB block (R192, R197, R200, R233, R249): what the partition does not own is not performed
and yields zeros, and so does a stack that is lost or a place out of reach. -/
def State.bmLoadBlock (s : State) (c ch a n : Nat) (cached : Bool) : State × Bytes :=
  let zeros : Bytes := List.replicate n 0
  if !ownBlock (s.partAt c) a n then (s.bmRefused c ch, zeros)
  else if s.stackGone c a then (((s.countUnreach c a).touch a c).bmFail c ch stFenced, zeros)
  else if s.outOfReach c a then (s.countUnreach c a, zeros)
  else
    let s := (s.touch a c).blockedRead a
    if cached && isHbm a && s.cacheMode c then
      let r := (List.range ((a + n - 1) / 512 + 1 - a / 512)).foldl (fun (r : State × Bytes) i =>
        let g := r.1.cacheRead c ch ((a / 512 + i) * 512)
        (g.1, r.2 ++ g.2)) (s, [])
      (r.1, slice r.2 (a % 512) n)
    else
      let e := s.readStack a n
      let s := if e.2 then e.1.bmFail c ch stFault else e.1
      (s, s.load a n)

/-- A channel reads n bytes of panel memory at a. -/
def State.bmLoad (s : State) (c ch a n : Nat) (cached : Bool) : State × Bytes :=
  (blocksOf a n).foldl (fun (r : State × Bytes) e =>
    let g := r.1.bmLoadBlock c ch e.1 e.2 cached
    (g.1, r.2 ++ g.2)) (s, [])

/-- Bytes of cluster memory that a mover writes are discarded: bank 11 of a backup, or banks in cache mode (R51, R204). -/
def State.discards (s : State) (a : Nat) : Bool :=
  let o := (a - 0x018000000000) % 0x1000000
  isSram a && ((bank11 o && (s.clu (clusterOfAddr a)).backupOn) || (blockedOffset o && s.cacheMode (clusterOfAddr a)))

/-- A channel writes bytes at a, within one 64 KiB block: what the partition does not own is discarded (R192), and so is what a lost stack
or a place out of reach would take (R233, R249). Bytes written are counted (R205). -/
def State.bmStoreBlock (s : State) (c ch a : Nat) (bs : Bytes) : State :=
  if !ownBlock (s.partAt c) a bs.length then s.bmRefused c ch
  else if s.stackGone c a then ((s.countUnreach c a).touch a c).bmFail c ch stFenced
  else if s.outOfReach c a then s.countUnreach c a
  else
    let lands := s.mapped a && !s.discards a
    let s := if s.mapped a then s.touch a c else s
    let s := if lands then (s.wroteStack a bs.length).count64 (s.cluReg c (if ch < 8 then 0x948 else 0x950)) bs.length else s
    let s := s.store .mover (s.cluEid c) a bs
    if isHbm a then s.cacheWrite c 0 a bs else s

/-- A channel writes bytes to panel memory at a. -/
def State.bmStore (s : State) (c ch a : Nat) (bs : Bytes) : State :=
  (blocksOf a bs.length).foldl (fun s e => s.bmStoreBlock c ch e.1 (slice bs (e.1 - a) e.2)) s

/-- The same over the spans of a walk address. -/
def State.bmLoadAll (s : State) (c ch : Nat) (spans : List (Nat × Nat)) (cached : Bool) : State × Bytes :=
  spans.foldl (fun r x => let e := r.1.bmLoad c ch x.1 x.2 cached; (e.1, r.2 ++ e.2)) (s, [])

def State.bmStoreAll (s : State) (c ch : Nat) (spans : List (Nat × Nat)) (bs : Bytes) : State :=
  (spans.foldl (fun (r : State × Bytes) x => (r.1.bmStore c ch x.1 (r.2.take x.2), r.2.drop x.2)) (s, bs)).1

/-! ### Remote accesses (R190, R195, R273, R278) -/

/-- A run in pieces of at most 4,096 bytes. -/
def bmCut (remote loc n : Nat) : List Piece :=
  (List.range (ceilDiv n 4096)).map fun i =>
    let k := Nat.min 4096 (n - 4096 * i)
    { remote := remote + 4096 * i, size := alignUp k 32, len := k, loc := loc + 4096 * i }

/-- A run that is read through the cache, line by line. -/
def bmCutLines (remote loc n : Nat) : List Piece :=
  (List.range ((remote + n - 1) / 512 + 1 - remote / 512)).map fun i =>
    let la := (remote / 512 + i) * 512
    let a := Nat.max remote la
    { remote := la, size := 512, off := a - la, len := Nat.min (la + 512) (remote + n) - a, loc := loc + (a - remote), line := true }

/-- Pattern bytes of a FILL at n addresses from a. -/
def bmPattern (d : BitVec 512) (a n : Nat) : Bytes := (List.range n).map fun i => BitVec.ofNat 8 (bmf d (2 + (a + i) % 4) 0 8)

/-- The packet of a remote write, with its payload padded to whole units; CONTRIB counts its bytes (R190, R273). -/
def bmPacket (d : BitVec 512) (src : BitVec 24) (x : Piece) (bs : Bytes) : Packet :=
  if bmOp d = opContrib then { mkPacket 3 0x30 (bmEid d) src x.remote false bs with vbytes := BitVec.ofNat 16 bs.length }
  else mkPacket 0 0x01 (bmEid d) src x.remote false bs

/-- Payload of a remote write: the source bytes, the pattern, or the CRC. -/
def State.bmPayload (s : State) (c ch : Nat) (r : BmRun) (x : Piece) : State × Bytes :=
  let d := r.desc
  if bmOp d = opFill then (s, bmPattern d x.remote x.len)
  else if bmOp d = opCrc then (s, natLe 4 (Nat.xor r.crc 0xFFFFFFFF))
  else s.bmLoadAll c ch (bmSpans c (bmSrcLocal d) x.loc x.len) (bmCached d)

/-- Send the remote writes that the flow takes now. -/
def State.bmWrites (s : State) (c ch : Nat) : Nat → State
  | 0 => s
  | n + 1 => match ((s.clu c).chan ch).run with
    | none => s
    | some r => match r.writes with
      | [] => s
      | x :: rest =>
        let key : FlowKey := { src := s.cluEid c, dest := bmEid r.desc, cls := if bmOp r.desc = opContrib then 3 else 0 }
        if !s.canSend c key then s
        else
          let b := s.bmPayload c ch r x
          let s := b.1.count64 (b.1.cluReg c (if ch < 8 then 0x948 else 0x950)) x.len
          let s := s.modRun c ch fun r => { r with writes := rest }
          let s := if bmOp r.desc = opContrib then s else s.cacheWrite c (bmEid r.desc) x.remote b.2
          let reread := match bmOp r.desc = opCopy || bmOp r.desc = opContrib, bmSpans c (bmSrcLocal r.desc) x.loc x.len with
            | true, [y] => some y.1
            | _, _ => none
          (s.sendOn c { pkt := bmPacket r.desc (s.cluEid c) x b.2, chan := some ch, src := reread }).bmWrites c ch n

/-- Entries of the pool that a channel holds (R195): those of the remote reads it has asked for and not yet landed, 512 bytes to an entry. -/
def Channel.poolHeld (x : Channel) : Nat :=
  match x.run with
  | none => 0
  | some r => ((r.reads.filter fun p => p.seq.isSome).map fun p => ceilDiv p.size 512).foldl (· + ·) 0

/-- Channel ch of cluster c may take n more entries: 32 for a channel, 4 of them its own, and 64 shared by all (R195). -/
def State.poolRoom (s : State) (c ch n : Nat) : Bool :=
  let cl := s.clu c
  let held := fun (i : Nat) => (cl.chan i).poolHeld + if i = ch then n else 0
  decide (held ch ≤ 32) && decide (((List.range 16).map fun i => held i - 4).foldl (· + ·) 0 ≤ 64)

/-- Ask for the remote reads that have not been asked for, as far as the pool has room; a cached line answers at once. -/
def State.bmReads (s : State) (c ch : Nat) : Nat → State
  | 0 => s
  | n + 1 => match ((s.clu c).chan ch).run with
    | none => s
    | some r => match r.reads.findIdx? fun x => x.seq.isNone && x.data.isNone with
      | none => s
      | some i => match r.reads[i]? with
        | none => s
        | some x =>
          let eid := bmEid r.desc
          let g := if x.line then s.cacheGet c eid x.remote else (s, none)
          match g.2 with
          | some bs => (g.1.modRun c ch fun r => { r with reads := r.reads.set i { x with data := some bs } }).bmReads c ch n
          | none =>
            let key : FlowKey := { src := s.cluEid c, dest := eid, cls := 0 }
            if !s.canSend c key || !s.poolRoom c ch (ceilDiv x.size 512) then s
            else
              let q := ((s.sendFlow key).map (·.next)).getD 0
              let p := { mkPacket 0 0x02 eid (s.cluEid c) x.remote false [] with rlen := BitVec.ofNat 7 (x.size / 32 - 1) }
              let s := s.modRun c ch fun r => { r with reads := r.reads.set i { x with seq := some q } }
              (s.sendOn c { pkt := p, chan := some ch }).bmReads c ch n

/-- n bytes from a and m from b share a byte. -/
def meets (a n b m : Nat) : Bool := decide (a < b + m) && decide (b < a + n)

/-- The four bytes of a local CRC32 overlap its source somewhere, and are then unpredictable (R192). -/
def bmCrcMeets (c : Nat) (d : BitVec 512) : Bool :=
  (bmRuns d).any fun x => (bmSpans c (bmSrcLocal d) x.1.toNat (bmLen d)).any fun a =>
    (bmSpans c (bmDstLocal d) (bmDst d) 4).any fun b => meets a.1 a.2 b.1 b.2

/-- Open bytes for some spans of memory (R14). -/
def State.openSpans (s : State) (p : Option Nat) (l : List (Nat × Nat)) : State × Bytes :=
  l.foldl (fun r x => let g := r.1.openBytes p x.1 x.2; (g.1, r.2 ++ g.2)) (s, [])

/-- The CRC-32 is complete: its four bytes go to `DST` (R190). -/
def State.bmCrcOut (s : State) (c ch : Nat) (r : BmRun) : State :=
  let d := r.desc
  let to_ := bmSpans c (bmDstLocal d) (bmDst d) 4
  if bmDstRemote d then s.modRun c ch fun r => { r with writes := [{ remote := bmDst d, size := 32, len := 4, loc := 0 }] }
  else if !bmSrcRemote d && bmCrcMeets c d then
    let g := s.openSpans (s.partOf c) to_
    g.1.bmStoreAll c ch to_ g.2
  else s.bmStoreAll c ch to_ (natLe 4 (Nat.xor r.crc 0xFFFFFFFF))

/-- Remote reads land in walk order (R190). -/
def State.bmLand (s : State) (c ch : Nat) : Nat → State
  | 0 => s
  | n + 1 => match ((s.clu c).chan ch).run with
    | none => s
    | some r => match r.reads with
      | [] => s
      | x :: rest => match x.data with
        | none => s
        | some bs =>
          let bs := slice bs x.off x.len
          let crc := bmOp r.desc = opCrc
          let s := s.modRun c ch fun r => { r with reads := rest, crc := if crc then crc32Part r.crc bs else r.crc }
          let s := if crc then s else s.bmStoreAll c ch (bmSpans c (bmDstLocal r.desc) x.loc x.len) bs
          let s := match ((s.clu c).chan ch).run with
            | none => s
            | some r => if crc && rest.isEmpty then s.bmCrcOut c ch r else s
          s.bmLand c ch n

/-- A local side of a walk meets a stack that has tripped, or a cluster whose die is being repaired: the descriptor waits (R36, R230). -/
def State.bmHeld (s : State) (c : Nat) (d : BitVec 512) : Bool :=
  let side := fun (remote loc : Bool) (a : Int) => !remote && (bmSpans c loc a.toNat (bmLen d)).any fun e =>
    (blocksOf e.1 e.2).any fun b => s.repairing b.1
  (bmRuns d).any fun x => (decide (bmOp d ≠ opFill) && decide (bmOp d ≠ opInval) && side (bmSrcRemote d) (bmSrcLocal d) x.1)
    || ((decide (bmOp d = opCopy) || decide (bmOp d = opFill)) && side (bmDstRemote d) (bmDstLocal d) x.2)

/-- Whatever a channel can do now, it does. -/
def State.bmPump (s : State) (c ch : Nat) : State :=
  match ((s.clu c).chan ch).run with
  | none => s
  | some r =>
    if s.bmHeld c r.desc then s else
    let s := (s.bmReads c ch r.reads.length).bmLand c ch r.reads.length
    match ((s.clu c).chan ch).run with
    | none => s
    | some r => s.bmWrites c ch r.writes.length

/-! ### Enqueue (R188) -/

/-- BM_DESCRIPTOR_ENQUEUE (R188): the token at the head of a queue bound to a channel. -/
def execBmDescriptorEnqueue (hart qo : Nat) (s : State) : Host.Outcome State Fault Refusal :=
  answer s (
    let k := s.core hart
    let o := k.outQ qo
    let c := hart / 32
    match o.tokens, s.outDest hart qo with
    | t :: ts, .packets eid =>
      if !isMoverEid eid || !s.flows c then s
      else
        let n := eid.toNat - 0xFFFFE0
        let taken := s.setCore hart (k.setOutQ qo { o with tokens := ts })
        if behind t.epoch (s.epochOf c) then taken.count (s.cluReg c 0x854) 1
        else if !imageChan n || t.kind != kData then taken.count (s.cluReg c 0x930) 1
        else
          let cl := s.clu c
          let x := cl.chan n
          if x.queue.length < 4 then taken.setClu c (cl.setChan n { x with queue := x.queue ++ [t.payload] }) else s
    | _, _ => s)

/-! ### Operations (R190) -/

/-- A channel starts its next descriptor if it is one of this operation, and the check of R191 lets it run. -/
def State.bmStart (s : State) (c ch op : Nat) (f : BitVec 512 → State → State) : State :=
  let cl := s.clu c
  let x := cl.chan ch
  match x.queue with
  | [] => s
  | d :: rest =>
    if x.run.isSome || !s.flows c || bmOp d ≠ op || s.bmHeld c d then s
    else
      let go := fun (r : BmRun) => s.setClu c (cl.setChan ch { x with queue := rest, run := some r })
      match bmCheck d with
      | some st => (go { desc := d, status := st, counted := true }).count (s.cluReg c 0x930) 1
      | none => (f d (go { desc := d })).bmPump c ch

/-- A local copy whose source and destination overlap somewhere leaves its destination unpredictable (R192). -/
def bmOverlaps (c : Nat) (d : BitVec 512) : Bool :=
  let at_ := fun (l : Bool) (a : Int) => bmSpans c l a.toNat (bmLen d)
  (bmRuns d).any fun x => (bmRuns d).any fun y =>
    (at_ (bmSrcLocal d) x.1).any fun a => (at_ (bmDstLocal d) y.2).any fun b => meets a.1 a.2 b.1 b.2

/-- Remote reads of a walk. -/
def bmReadPieces (d : BitVec 512) (cache : Bool) : List Piece :=
  (bmRuns d).flatMap fun x => (if cache then bmCutLines else bmCut) x.1.toNat x.2.toNat (bmLen d)

/-- COPY (R190). -/
def State.bmCopy (s : State) (c ch : Nat) (d : BitVec 512) : State :=
  if bmDstRemote d then
    s.modRun c ch fun r => { r with writes := (bmRuns d).flatMap fun x => bmCut x.2.toNat x.1.toNat (bmLen d) }
  else if bmSrcRemote d then
    let cache := bmCached d && s.cacheMode c
    s.modRun c ch fun r => { r with reads := bmReadPieces d cache }
  else
    let lost := bmOverlaps c d
    (bmRuns d).foldl (fun s x =>
      let r := s.bmLoadAll c ch (bmSpans c (bmSrcLocal d) x.1.toNat (bmLen d)) (bmCached d)
      let to_ := bmSpans c (bmDstLocal d) x.2.toNat (bmLen d)
      let r := if lost then r.1.openSpans (s.partOf c) to_ else r
      r.1.bmStoreAll c ch to_ r.2) s

/-- COPY (R190). -/
def execCopy (cluster ch : Nat) (s : State) : Host.Outcome State Fault Refusal :=
  answer s (s.bmStart cluster ch opCopy fun d s => s.bmCopy cluster ch d)

/-- FILL (R190): pattern byte j goes to each walk address A with A mod 4 = j. -/
def execFill (cluster ch : Nat) (s : State) : Host.Outcome State Fault Refusal :=
  answer s (s.bmStart cluster ch opFill fun d s =>
    if bmDstRemote d then
      s.modRun cluster ch fun r => { r with writes := (bmRuns d).flatMap fun x => bmCut x.2.toNat 0 (bmLen d) }
    else (bmRuns d).foldl (fun s x =>
      s.bmStoreAll cluster ch (bmSpans cluster (bmDstLocal d) x.2.toNat (bmLen d)) (bmPattern d x.2.toNat (bmLen d))) s)

/-- CRC32 (R190). -/
def execCrc32 (cluster ch : Nat) (s : State) : Host.Outcome State Fault Refusal :=
  answer s (s.bmStart cluster ch opCrc fun d s =>
    if bmSrcRemote d then
      let cache := bmCached d && s.cacheMode cluster
      s.modRun cluster ch fun r => { r with reads := bmReadPieces d cache }
    else
      let s := (bmRuns d).foldl (fun s x =>
        let r := s.bmLoadAll cluster ch (bmSpans cluster (bmSrcLocal d) x.1.toNat (bmLen d)) (bmCached d)
        r.1.modRun cluster ch fun y => { y with crc := crc32Part y.crc r.2 }) s
      match ((s.clu cluster).chan ch).run with
      | none => s
      | some r => s.bmCrcOut cluster ch r)

/-- INVALIDATE (R190): every line of the issuing cluster's cache that overlaps the source walk. -/
def execInvalidate (cluster ch : Nat) (s : State) : Host.Outcome State Fault Refusal :=
  answer s (s.bmStart cluster ch opInval fun d s =>
    if bmSrcLocal d then s
    else (bmRuns d).foldl (fun s x => s.cacheDrop cluster (if bmSrcRemote d then bmEid d else 0) x.1.toNat (bmLen d)) s)

/-- CONTRIB (R190): one packet for each innermost run. -/
def execContribDescriptor (cluster ch : Nat) (s : State) : Host.Outcome State Fault Refusal :=
  answer s (s.bmStart cluster ch opContrib fun d s =>
    let rs := bmRuns d
    let piece := fun (j : Nat) (x : Int × Int) =>
      ({ remote := (bmSegment d + j) % 65536 + bmEtype d * 65536, size := alignUp (bmLen d) 32, len := bmLen d, loc := x.1.toNat } : Piece)
    s.modRun cluster ch fun r => { r with writes := (List.zip (List.range rs.length) rs).map fun e => piece e.1 e.2 })

/-! ### Completion (R197, R290) -/

/-- A packet of channel ch of cluster c is not settled. -/
def State.bmOwes (s : State) (c ch : Nat) : Bool :=
  s.sends.any fun f => decide (f.key.src = s.cluEid c) && f.unack.any fun u => decide (u.chan = some ch)

/-- The descriptor of a channel has walked to its end, and everything it sent is answered. -/
def State.bmDone (s : State) (c ch : Nat) (r : BmRun) : Bool := r.writes.isEmpty && r.reads.isEmpty && !s.bmOwes c ch

/-- Write the completion word, and for a multicast the delivered count (R197, R290). -/
def State.bmComplete (s : State) (c ch : Nat) (r : BmRun) : State :=
  let cl := s.clu c
  let x := cl.chan ch
  let n := x.done + 1
  let tag := bmf r.desc 17 0 8
  let s := s.setClu c (cl.setChan ch { x with run := none, done := n })
  let a := s.cluReg c (0xA00 + ch * 16)
  let s := (s.setField a 6 8 tag).setField a 14 8 r.status
  if bmf r.desc 18 23 1 = 0 then s
  else
    let w := sramBase c + bmf r.desc 18 0 20 * 8
    let s := s.store .mover (s.cluEid c) w (u8 tag ++ u8 r.status ++ u8 1 ++ u8 ch ++ u32 n.toNat)
    if bmDstRemote r.desc && isGroup (bmEid r.desc) && bmOp r.desc ≠ opContrib then
      s.store .mover (s.cluEid c) (w + 8) (u32 (r.least.getD 0) ++ u32 (r.members.getD 0))
    else s

/-- BM_COMPLETION (R197): the descriptor at work has ended; a descriptor of a reserved operation ends here (R191). -/
def execBmCompletion (cluster ch : Nat) (s : State) : Host.Outcome State Fault Refusal :=
  answer s (
    let x := (s.clu cluster).chan ch
    if !s.flows cluster then s
    else match x.run, x.queue with
      | some r, _ => if s.bmDone cluster ch r then s.bmComplete cluster ch r else s
      | none, d :: rest =>
        if decide (1 ≤ bmOp d) && decide (bmOp d ≤ 5) then s
        else
          let r : BmRun := { desc := d, status := stVersion, counted := true }
          let s := s.setClu cluster ((s.clu cluster).setChan ch { x with queue := rest, run := some r })
          (s.count (s.cluReg cluster 0x930) 1).bmComplete cluster ch r
      | none, [] => s)

/-! ### Audit (R185, R186) -/

/-- Gleryn leaves partition q's records alone while something is writing them (R185). -/
def State.auditSkips (s : State) (rn : Nat) (q : Part) : Bool :=
  decide (q.freeze ≠ .no) || match s.region rn with | none => true | some r => r.act.isSome

/-- Part m of bank 11 of cluster c holds its directory's CRC-32. -/
def State.backupHolds (s : State) (c m : Nat) : Bool := (s.backupPart c (m / 9) (m % 9)).isSome

/-- The bytes of a DATA record's target, as an audit reads them, match its CRC-32: banks 12 to 15 of a cluster in cache mode read zero
(R204). -/
def State.dataHolds (s : State) (d : DataRec) : Bool := decide (crc32 (s.load d.addr d.length) = d.crc)

/-- An audit reads a DATA record's target through a channel of Gleryn's (R185, R187). -/
def State.auditRecord (s : State) (d : DataRec) : State :=
  let s := (blocksOf d.addr d.length).foldl (fun s e => s.blockedRead e.1) s
  (s.ownMove d.cluster 6 0).count64 (s.cluReg d.cluster 0x938) d.length

/-- Bank 11 of cluster c is checked: its bytes are counted, and if every part holds it is noted clean at a step count (R185). -/
def State.auditBank (s : State) (c : Nat) (steps : Dword) : State :=
  let s := (s.ownMove c 6 0).count64 (s.cluReg c 0x938) 0x80000
  if (List.range 288).all (s.backupHolds c) then s.setClu c { s.clu c with backupClean := steps } else s

/-- The pass of partition q's present period ends now: when the next period began or begins, and whether this one ended late (R185). -/
def Part.nextAudit (q : Part) (now : Nat) : Nat × Bool :=
  let t := usec (q.auditS * 1000000)
  (q.auditAt + ((now - q.auditAt) / t + 1) * t, decide (q.auditAt + t < now))

/-- An audit pass that has not ended in its period is counted in every cluster of the partition (R185, R205). -/
def State.countLateAudit (s : State) (cs : List Nat) : State := cs.foldl (fun t c => t.count (t.cluReg c 0x940) 1) s

/-- The reads of one audit pass of a partition (R185): its records, then the backup parts of its clusters. -/
def State.auditPass (s : State) (q : Part) : State :=
  let t := (q.data.filter fun d => !s.auditSkips d.region q).foldl (fun t d => t.auditRecord d) s
  let banks := q.clusters.filter fun c => (s.clu c).backupOn && match s.regionOf c with | none => false | some rn => !s.auditSkips rn q
  banks.foldl (fun t c => t.auditBank c q.stepCount) t

/-- RESIDENT_AUDIT (R185): once in a period every record and backup part of a partition is checked, and the matching ones are noted
clean at the present step count. A pass that ends after its period is counted in every cluster of the partition (log entry 35). -/
def execResidentAudit (p : Nat) (s : State) : Host.Outcome State Fault Refusal :=
  answer s (match s.part p with
    | none => s
    | some q =>
      if q.auditS = 0 ∨ s.now < q.auditAt then s
      else
        (if (q.nextAudit s.now).2 then (s.auditPass q).countLateAudit q.clusters else s.auditPass q).modPart p fun q => { q with
          data := q.data.map fun d => if !s.auditSkips d.region q && s.dataHolds d then { d with clean := q.stepCount } else d
          auditAt := (q.nextAudit s.now).1 })

/-- Where a record's bytes lie, for the rule of two mismatches within 24 hours: a near store, or a cluster-memory bank (R186). -/
def auditPlace (a : Nat) : Nat :=
  let c := clusterOfAddr a
  let o := (a - 0x018000000000) % 0x1000000
  if o < 0x800000 then c * 64 + o / 0x80000 else c * 64 + 16 + (o - 0x800000) / 0x40000

/-- Block b is to be tested at its next CLUSTER reset (R389). -/
def State.scheduleTest (s : State) (b : Nat) : State :=
  if s.sparing.testDue.contains b then s else { s with sparing := { s.sparing with testDue := s.sparing.testDue ++ [b] } }

/-- A mismatch of record index `rec` at cluster c (R186): counted, recorded, and restored at the next step boundary. A
second one at the same place within 24 hours schedules a test. -/
def State.mismatch (s : State) (p : Nat) (q : Part) (rec c region addr : Nat) (clean : Dword) : State :=
  let s := s.count (s.cluReg c 0x934) 1
  let s := s.record 0x0303 3 p region (onCluster c) (u32 rec ++ u64 clean.toNat ++ u64 q.stepCount.toNat)
  let w := auditPlace addr
  let again := q.auditHits.any fun e => decide (e.1 = w) && decide (s.trust.opTime < e.2 + 86400000)
  let s := if again then s.scheduleTest (s.blk c) else s
  let s := s.modPart p fun q => { q with
    auditHits := (w, s.trust.opTime) :: q.auditHits, repairRec := if q.repairRec.contains rec then q.repairRec else q.repairRec ++ [rec] }
  if q.step.isSome then s else s.repairRecords p

/-- AUDIT_MISMATCH (R186). Record numbers from the number of DATA records on name bank 11 parts, 288 to a cluster. -/
def execAuditMismatch (p record : Nat) (s : State) : Host.Outcome State Fault Refusal :=
  answer s (match s.part p with
    | none => s
    | some q => match q.data[record]? with
      | some d => if s.dataHolds d || s.auditSkips d.region q then s else s.mismatch p q record d.cluster d.region d.addr d.clean
      | none =>
        let m := record - q.data.length
        match q.clusters[m / 288]? with
        | none => s
        | some c => match s.regionOf c with
          | none => s
          | some rn =>
            if !(s.clu c).backupOn || s.backupHolds c (m % 288) || s.auditSkips rn q then s
            else s.mismatch p q record c rn (sramBase c + 0x580000) (s.clu c).backupClean)

end Sys2Proof.Machine
end

