-- ==== Sys2Proof/Machine/Collective.lean ====
section
/-! DEFINITION. What ends a packet at its source (R278, R279, R290) and the collective engines (R297 to R301). -/

namespace Sys2Proof.Machine

/-! ### Contexts (R297 to R300) -/

/-- Key of the context that an EID names. -/
def State.ctxOf (s : State) (eid : BitVec 24) : Option Nat :=
  (s.ctxs.find? fun e => match e.2 with | none => false | some x => decide (x.eid = eid)).map (·.1)

def State.ctx (s : State) (k : Nat) : Option CollCtx := tget none s.ctxs k
def State.setCtx (s : State) (k : Nat) (x : CollCtx) : State := { s with ctxs := tset none s.ctxs k (some x) }

def CollCtx.elemBytes (x : CollCtx) : Nat := if x.bf16 then 2 else 4

/-- Elements of segment k. -/
def CollCtx.elemsOf (x : CollCtx) (k : Nat) : Nat := if k + 1 = x.segs then x.lastElems else x.segElems

/-- A NaN result in BF16 (R299 fixes only that it is a NaN). -/
def nanBf16 : Word := (nan32 >>> 16) ||| 0x7F81#32

/-- Bits of a value in the context's type, rounded to nearest even. -/
def CollCtx.bitsOf (x : CollCtx) (v : Fp) : Word :=
  if x.bf16 then (if v.isNan then nanBf16 else BitVec.ofNat 32 (bf16Rne v)) else wordOfFp v

def CollCtx.value (x : CollCtx) (w : Word) : Fp := if x.bf16 then fpOfBf16 w.toNat else fpOfWord w

/-- Two elements combined (R299). -/
def CollCtx.combine (x : CollCtx) (a b : Word) : Word :=
  let u := x.value a
  let v := x.value b
  if u.isNan || v.isNan then x.bitsOf .nan
  else if x.op = 0 then x.bitsOf (u.add v)
  else if x.op = 1 then (if u.lt v then b else a)
  else if v.lt u then b else a

/-- Elements of a packet, widened exactly to the context's type. -/
def CollCtx.elemsIn (x : CollCtx) (p : Packet) : List Word :=
  let t := bits p.addr.toNat 16 3
  let w := otypeBytes t
  (List.range (p.vbytes.toNat / w)).map fun i =>
    let c := fld p.payload (i * w) w
    let own := decide (t = if x.bf16 then 1 else 0)
    if own then BitVec.ofNat 32 c else x.bitsOf (fpOfElem t c)

/-- What answers a contribution to context x: a status of R298; OK says that it combines. -/
def CollCtx.answer (x : CollCtx) (p : Packet) : Nat :=
  let k := bits p.addr.toNat 0 16
  let t := bits p.addr.toNat 16 3
  if 6 ≤ t then stVersion
  else if 4 ≤ t ∨ (x.bf16 ∧ t = 0) ∨ x.segs ≤ k ∨ p.vbytes.toNat ≠ x.elemsOf k * otypeBytes t then stFault
  else if x.doneSegs.contains k || (match x.present with | none => false | some l => !l.contains p.src) then stFenced
  else match tget none x.live (k % x.slots) with
    | none => stOk
    | some g => if g.seg = k then stOk else stBusy

/-- A contribution is combined into its segment. -/
def CollCtx.take (x : CollCtx) (p : Packet) (now : Nat) : CollCtx :=
  let k := bits p.addr.toNat 0 16
  let es := x.elemsIn p
  let g : Segment := match tget none x.live (k % x.slots) with
    | none => { seg := k, count := 1, elems := es, since := now, srcs := [p.src] }
    | some g => { g with count := g.count + 1, elems := List.zipWith x.combine g.elems es, srcs := p.src :: g.srcs }
  { x with live := tset none x.live (k % x.slots) (some g) }

/-- The parent is a context: this panel has it, or, for another panel's, no address is given (log entry 40). -/
def State.toContext (s : State) (x : CollCtx) : Bool := (s.ctxOf x.outEid).isSome || (decide (x.outAddr = 0) && decide (x.doneAddr = 0))

/-- The RESULT of a segment (R300). -/
def State.resultPacket (s : State) (x : CollCtx) (g : Segment) : Packet :=
  let n := x.elemBytes
  let bs := g.elems.flatMap fun w => natLe n w.toNat
  let addr := if s.toContext x then g.seg + (if x.bf16 then 0x10000 else 0) else x.outAddr + g.seg * x.segElems * n
  { mkPacket 3 0x31 x.outEid x.eid addr false bs with vbytes := BitVec.ofNat 16 bs.length }

/-- The completion record (R300). -/
def CollCtx.record (x : CollCtx) : Packet :=
  let bs := u32 (if x.fenced then stFenced else 0) ++ u32 x.minCount ++ u32 x.doneSegs.length ++ u32 0
  { mkPacket 3 0x31 x.outEid x.eid x.doneAddr true bs with vbytes := 16 }

def collKey (x : CollCtx) : FlowKey := { src := x.eid, dest := x.outEid, cls := 3 }

/-- The completion record leaves once the flow takes it (R276, R300). -/
def State.sendRecord (s : State) (k : Nat) : State :=
  match s.ctx k with
  | none => s
  | some x =>
    if x.recordDue && s.canSend (agEngine + k / 16) (collKey x) then
      (s.setCtx k { x with recordDue := false }).sendOn (agEngine + k / 16) { pkt := x.record }
    else s

/-- Complete the segment in a slot: its RESULT leaves and the slot is free; after the last, the record leaves (R300). -/
def State.collEmit (s : State) (k slot : Nat) : State :=
  match s.ctx k with
  | none => s
  | some x => match tget none x.live slot with
    | none => s
    | some g =>
      let done := g.seg :: x.doneSegs
      let last := decide (x.segs ≤ done.length) && !s.toContext x
      let y := { x with live := tset none x.live slot none, doneSegs := done, minCount := Nat.min x.minCount g.count, recordDue := last }
      ((s.setCtx k y).sendOn (agEngine + k / 16) { pkt := s.resultPacket x g }).sendRecord k

/-- Every segment that has its expected count completes, as far as the flow takes its RESULT; then the record. -/
def State.collPump (s : State) (k : Nat) : State :=
  match s.ctx k with
  | none => s
  | some x =>
    let full := x.live.filterMap fun e => match e.2 with | none => none | some g => if x.expect ≤ g.count then some e.1 else none
    (full.foldl (fun s slot => if s.canSend (agEngine + k / 16) (collKey x) then s.collEmit k slot else s) s).sendRecord k

/-- The context is FENCED (R290, R301): counted, and a WARNING names it and the segment. -/
def State.fenceCtx (s : State) (k seg : Nat) : State :=
  match s.ctx k with
  | none => s
  | some x =>
    let s := s.setCtx k { x with fenced := true }
    let s := if x.fenced then s else s.count (lnkBase (k / 64) + 0x604 + k / 16 % 4 * 16) 1
    s.record 0x0604 3 noPart 0 (onLinkDie (k / 64)) (u32 x.eid.toNat ++ u32 seg)

/-- COLL_SEGMENT_TIMEOUT (R301): a segment that has not reached its count within `TIMEOUT` of its first contribution completes with what it
holds; later segments expect that count, and those that have it complete as well. -/
def execCollSegmentTimeout (die engine ctx slot : Nat) (s : State) : Host.Outcome State Fault Refusal :=
  answer s (
    let k := (die * 4 + engine) * 16 + ctx
    match s.ctx k with
    | none => s
    | some x => match tget none x.live slot with
      | none => s
      | some g =>
        if x.expect ≤ g.count ∨ s.now < g.since + usec x.timeout then s
        else ((s.setCtx k { x with expect := g.count, present := some g.srcs }).fenceCtx k g.seg).collPump k)

/-! ### The end of a packet at its source (R278, R279, R290) -/

/-- The cluster whose EID this is. -/
def State.clusterOfEid (s : State) (eid : BitVec 24) : Option Nat := (s.ownEid eid).bind fun i => if i < 576 then some i else none

/-- Bytes of a READ that failed are free ones. -/
def State.failPieces (s : State) (c ch : Nat) (q : Half) : State :=
  let d := s.free
  let fill := fun (x : Piece) => if x.seq = some q && x.data.isNone then { x with data := some ((List.range x.size).map (Config.freeByte d)) } else x
  s.draw.modRun c ch fun r => { r with reads := r.reads.map fill }

/-- A packet of the flow that key names is answered or abandoned, with a status of R325; whoever sent it learns of it. -/
def State.settle (s : State) (key : FlowKey) (u : Unacked) (st : Nat) : State :=
  match s.sendFlow key with
  | none => s
  | some f =>
    let s := s.setSend { f with unack := f.unack.erase u, used := s.now }
    let tokens := u.pkt.opcode = 0x10
    let s : State := match s.clusterOfEid key.src with
      | none => s
      | some c =>
        let s := if st = stTimeout then s.count (s.fabReg c 0x048) 1
          else if st = stFenced ∨ st = stFault then s.count (s.fabReg c 0x054) 1 else s
        let s := if tokens && st ≠ stOk then
            let n := bits u.pkt.addr.toNat 0 6 + 1
            let s := s.returnCredit c key.dest n
            if st = stTimeout then
              s.record 0x0206 3 (s.partNo c) ((s.regionOf c).getD 0) (onCluster c) (u32 key.dest.toNat ++ u32 n)
            else s
          else s
        match u.chan with
        | none => s
        | some ch =>
          let s := if st = stOk then s else s.bmFail c ch st
          let s := if u.pkt.mcast then s.modRun c ch fun r => { r with
              members := f.members, least := some (match r.least with | none => u.acks | some n => Nat.min n u.acks) } else s
          let s := if u.pkt.opcode = 0x02 && st ≠ stOk then s.failPieces c ch u.pkt.seq else s
          s.bmPump c ch
    let s : State := match u.cmd with
      | none => s
      | some id => if st = stOk then s.streamPump id else s.fail id st
    match s.ctxOf key.src with
    | none => s
    | some k => (if st = stOk then s else s.fenceCtx k (bits u.pkt.addr.toNat 0 16)).collPump k

/-- Replace an unacknowledged packet's entry. -/
def State.setUnacked (s : State) (key : FlowKey) (u v : Unacked) : State :=
  match s.sendFlow key with
  | none => s
  | some f => s.setSend { f with unack := f.unack.map fun x => if x = u then v else x }

/-- The unacknowledged packet that an answer to (src, dest) with this SEQ meets, among flows of these classes. -/
def State.awaiting (s : State) (src dest : BitVec 24) (cls : List (BitVec 2)) (q : Half) : Option (FlowKey × Unacked) :=
  cls.findSome? fun k =>
    let key : FlowKey := { src := src, dest := dest, cls := k }
    match s.sendFlow key with
    | none => none
    | some f => (f.unack.find? fun u => decide (u.pkt.seq = q)).map fun u => (key, u)

/-- An ACK, or a COLL_ACK OK: a multicast counts it and ends once every member has answered (R290). -/
def State.acked (s : State) (key : FlowKey) (u : Unacked) : State :=
  if !u.pkt.mcast then s.settle key u stOk
  else
    let v := { u with acks := u.acks + 1 }
    let s := s.setUnacked key u v
    match (s.sendFlow key).bind (·.members) with
    | none => s
    | some m => if m ≤ v.acks then s.settle key v stOk else s

/-- A NACK, or a COLL_ACK of another status (R278, R290). -/
def State.nacked (s : State) (key : FlowKey) (u : Unacked) (st : Nat) : State :=
  if st = stBusy then s.setUnacked key u { u with busy := true }
  else if u.pkt.mcast && st = stFenced then s.setUnacked key u { u with fenced := true }
  else s.settle key u st

end Sys2Proof.Machine
end

