-- ==== Sys2Proof/Machine/Seams.lean ====
section
/-! DEFINITION. Names of ports and seams (R235 to R242, R255, R259, R310) and of pages and channels of stacks (R206, R217, R231). -/

namespace Sys2Proof.Machine

/-- Spare wires of a seam and direction. -/
abbrev spareWires : Nat := 64

/-- Wires replaced at a port (`FAB_SPARES` [15:8]; [7:0], the wires left, is their complement). -/
def State.replaced (s : State) (p : PortRef) : Nat := s.field (portReg p 0x38) 8 8

/-- Register o of a port's block (R310). -/
def linkReg (port o : Nat) : Nat := lnkBase (port / 6) + 0x100 + port % 6 * 0x40 + o

/-- Pages of a stack. -/
def State.stackPages (s : State) : Nat := s.stackBytes / 65536

/-- A page-table entry nothing has written: `EVER` 1. -/
def pteFree : BitVec 64 := 0x2000000000000000

/-- A channel's failed retrains of the present hour. -/
def Stack.failsOf (x : Stack) (ch opTime : Nat) : Nat :=
  (x.fails.filter fun e => decide (e.2 = ch) && decide (opTime < e.1 + 3600000)).length

/-! ### Temperatures (R369, R374, R380) -/

/-- Hottest sensor of a die now, and over a range of dies. -/
def State.dieTemp (s : State) (die : Nat) : Nat := s.field (thmBase + 0x100 + 4 * die) 0 8
def State.hottest (s : State) (dies : List Nat) : Nat := (dies.map s.dieTemp).foldl Nat.max 0

/-- Readings of a die's sensors from sensor i on, with `THM_DIE` and the hottest sensors of `THM_STATUS`. -/
def State.setTemps (s : State) (die i : Nat) (t : List Nat) : State :=
  let put := (List.range t.length).foldl (fun (m : Tbl Nat) k => tset 0xFF m (die * 16 + i + k) (t.getD k 0)) s.power.temps
  let s := { s with power := { s.power with temps := put } }
  let now := ((put.filter fun e => decide (e.1 / 16 = die)).map (·.2)).foldl Nat.max 0
  let a := thmBase + 0x100 + 4 * die
  let s := (s.setField a 0 8 now).setField a 8 8 (Nat.max now (s.field a 8 8))
  let s := s.setField thmBase 8 8 (s.hottest ((List.range 156) ++ (List.range 8).map (180 + ·)))
  s.setField thmBase 16 8 (s.hottest ((List.range 24).map (156 + ·)))

end Sys2Proof.Machine
end

