-- ==== Sys2Proof/Machine/Views.lean ====
section
/-! DEFINITION. What a register window returns when it is read (R6, R33, R37): the stored words, and the registers that
show state kept elsewhere (R84, R157, R205, R234, R259, R260, R310, R311, R411, R436). -/

namespace Sys2Proof.Machine

/-- The low or high half of a 64-bit value at an offset. -/
def half64 (v o : Nat) : Nat := if o % 8 < 4 then v % 0x100000000 else v / 0x100000000 % 0x100000000

/-! ### Compute dies -/

/-- `CORE_ID` and `CORE_STATUS` (R84). A core is clock-gated unless its cluster is in RUN, and as a follower or an idle
spare (R71, R361). -/
def State.coreIdView (s : State) (pk : Nat) : Nat :=
  match s.hartOf pk with
  | none => pk % 34 + 0x40 + 0x10000
  | some h => pk % 34 + h % 32 * 0x100 + 0x10000

def State.coreStatusView (s : State) (pk : Nat) : Nat :=
  let x := s.physCore pk
  let tail := x.duty * 0x100 + b2n x.retired * 0x8000
  match s.hartOf pk with
  | none =>
    let run := match s.blkCluster (pk / 34) with | none => false | some c => decide (s.power? c = 3)
    tail + b2n (!run || decide (x.duty ≠ 1)) * 0x4000
  | some h =>
    let c := s.core h
    let on := fun (k : Nat) => b2n (c.wait.isSome && decide (c.waitOn = k))
    let eng := match c.wait with | some (.ewait _) => true | some .yield => true | _ => c.yielded
    let lead := s.inBouquet h && s.leads h
    tail + c.petal % 8 + b2n c.running * 8 + on 0 * 0x10 + on 1 * 0x20 + b2n eng * 0x40 + b2n c.halted * 0x80
      + b2n (s.inBouquet h) * 0x400 + b2n lead * 0x800 + (if s.inBouquet h then h % 32 / 8 else 0) * 0x1000
      + b2n (decide (s.power? (h / 32) ≠ 3) || s.follower h) * 0x4000

/-- `CLU_EPOCH` (R157). -/
def State.epochView (s : State) (c : Nat) : Nat :=
  match s.regionOf c with
  | none => 0x10000
  | some rn =>
    let act := match s.region rn with
      | none => false
      | some r => r.act.isSome || match s.part r.part with
        | none => false
        | some q =>
          let runs := match q.step with | none => false | some st => st.released
          q.rateWait || decide (q.freeze = .standIn) || (runs && decide (q.freeze ≠ .no) && decide (q.freeze ≠ .reset))
    (s.epochOf c).toNat + b2n act * 8 + rn * 0x10 + 0x10000

/-- `CLU_BM_CH_STATUS` (R205). -/
def State.chanView (s : State) (c ch a : Nat) : Nat :=
  let x := (s.clu c).chan ch
  setBits (setBits (setBits (s.reg a).toNat 0 3 x.queue.length) 3 1 (b2n x.run.isSome)) 22 6 x.poolHeld

/-- `KIND` of a router's port (R236 to R239, R259). -/
def State.portKind (s : State) (c : Nat) (p : PortRef) : Nat :=
  if p.port = 4 then 7
  else if !p.onSeam then 0
  else if (c / 24 = 0 ∧ p.port = 0) ∨ (c / 24 = 23 ∧ p.port = 2) then 4
  else if c % 24 = 0 ∧ p.port = 3 then (if s.inUse (p.site / 13 * 13) then 5 else 6)
  else if c % 24 = 23 ∧ p.port = 1 then (if s.inUse (p.site / 13 * 13 + 12) then 5 else 6)
  else match s.peer p with
    | none => 0
    | some o => if p.port % 2 = 1 then (if dist p.site o.site = 1 then 1 else 2) else if p.site % 13 = o.site % 13 then 1 else 3

/-- The link die or memory interface at the other end of a port at the edge of the compute grid works (R238, R239). -/
def State.outsideUp (s : State) (p : PortRef) : Bool :=
  if p.port % 2 = 0 then true
  else match s.blkCluster p.blk with
    | none => false
    | some c => !s.linkLost (homeLink c)

/-- `STATE` of a port: a seam that joins no two logical neighbours is in training reset (R237), one that is offline retrains (R255), and one to
a lost link die has failed. -/
def State.portState (s : State) (p : PortRef) : Nat :=
  if !s.sparing.routesUp then 0
  else if p.port = 4 ∨ !p.onSeam then 1
  else if (s.seam p).offline then 2
  else if s.atEdge p then (if s.outsideUp p then 1 else 3)
  else b2n (s.peer p).isSome

/-- A word of a port's `FAB_` block. -/
def State.portView (s : State) (c : Nat) (p : PortRef) (x a : Nat) : Nat :=
  if x = 0 then
    setBits (setBits (setBits (setBits (s.reg a).toNat 0 3 (s.portKind c p)) 3 2 (s.portState p)) 5 1 (b2n (s.halfSeam p)))
      6 1 (b2n (decide (0 < (s.seam p).owed)))
  else if x = 4 then setBits (setBits (s.reg a).toNat 0 8 (s.pktNow p)) 16 7 (s.seam p).late.length
  else if x = 0x38 then (if p.onSeam then s.replaced p * 0x100 + (spareWires - s.replaced p) else 0)
  else (s.reg a).toNat

/-- The frame counter of router b runs in step (R240): bring-up has started it, and no seam of it is being retrained. -/
def State.frameLock (s : State) (b : Nat) : Bool := s.sparing.routesUp && !(List.range 4).any fun o => (s.seam (blkPort b o)).offline

/-- A word of a router's block, at offset r (R259, R311). -/
def State.fabView (s : State) (b r a : Nat) : Nat :=
  let c := (s.blkCluster b).getD 0x3FF
  let late := (List.range 5).any fun p => decide ((s.seam (blkPort b p)).late ≠ [])
  if r = 0 then c + b % 4 * 0x400 + 0x10000
  else if r = 4 then setBits (setBits (setBits (s.reg a).toNat 0 1 (b2n (s.frameLock b))) 1 1 (b2n s.sparing.routesUp)) 11 1 (b2n late)
  else if r = 0x4C then
    (s.sends.filter fun f => decide (f.key.src = s.cluEid c)).length + s.recvCount c * 0x10000
  else if 0x100 ≤ r ∧ r < 0x240 then s.portView c (blkPort b ((r - 0x100) / 0x40)) ((r - 0x100) % 0x40) a
  else if 0x400 ≤ r ∧ r < 0x480 then (s.exitWord ((r - 0x400) / 4)).toNat
  else if 0x10000 + 80 * s.field panelBase 0 9 ≤ r then 0
  else (s.reg a).toNat

/-- A word of a compute site's window, at offset o; a site that is not in use reads zeros (R37). -/
def State.siteView (s : State) (site o a : Nat) : Nat :=
  if !s.inUse site then 0
  else if 0x300000 ≤ o ∧ o < 0x302000 then half64 (s.resEntry ((o - 0x300000) / 8)) o
  else
    let b := site * 4 + o / 0x400000
    let q := o % 0x400000
    let c := (s.blkCluster b).getD 0
    if 0x200000 ≤ q ∧ q < 0x222000 then
      let pk := b * 34 + (q - 0x200000) / 0x1000
      if q % 0x1000 = 0 then s.coreIdView pk else if q % 0x1000 = 4 then s.coreStatusView pk else (s.reg a).toNat
    else if 0x100000 ≤ q ∧ q < 0x115000 then s.fabView b (q - 0x100000) a
    else if q = 0x840 then s.epochView c
    else if 0x1800 ≤ q ∧ q < 0x1C80 then (tget 0 (s.clu c).backup ((q - 0x1800) / 4)).toNat
    else if 0xA00 ≤ q ∧ q < 0xB00 then
      let ch := (q - 0xA00) / 16
      if q % 16 = 0 then s.chanView c ch a else if q % 16 = 4 then ((s.clu c).chan ch).done.toNat else (s.reg a).toNat
    else (s.reg a).toNat

/-! ### Stacks and link dies -/

def State.stepping (s : State) (die : Nat) : Nat := (tget 0 s.hw.stepping die).toNat

/-- [11:8] minor, [15:12] major stepping. -/
def State.idTail (s : State) (die : Nat) : Nat := s.stepping die * 0x100

/-- The site of the pair of stack n at position k or k + 1 has a working seam to it (R213). -/
def State.memSeam (s : State) (n e : Nat) : Bool :=
  s.sparing.routesUp && !s.stackLost n && s.inUse ((if n < 12 then 0 else 143) + n % 12 + e)

/-- A word of a stack's window (R234). -/
def State.stackView (s : State) (n o a : Nat) : Nat :=
  if o = 0 then (s.reg a).toNat + b2n (!s.hw.e48) * 0x20 + s.idTail (dieOfStack n)
  else if o = 4 then setBits (setBits (s.reg a).toNat 2 1 (b2n (s.memSeam n 0))) 3 1 (b2n (s.memSeam n 1))
  else if 0x100 ≤ o ∧ o < 0x180 then setBits (s.reg a).toNat 8 2 ((s.stack n).failsOf ((o - 0x100) / 4) s.trust.opTime)
  else if 0x800000 ≤ o ∧ o < 0x800000 + 8 * s.stackPages then half64 (tget pteFree (s.stack n).pte ((o - 0x800000) / 8)).toNat o
  else (s.reg a).toNat

/-- Contexts of an engine. -/
def State.ctxsOf (s : State) (die e : Nat) : List (Nat × CollCtx) :=
  (List.range 16).filterMap fun i => (s.ctx ((die * 4 + e) * 16 + i)).map fun x => (i, x)

def State.slotsFree (s : State) (die e : Nat) : Nat := 256 - ((s.ctxsOf die e).map fun x => x.2.slots).foldl (· + ·) 0

/-- A word of a link die's window (R310). -/
def State.linkView (s : State) (k o a : Nat) : Nat :=
  if o = 0 then (s.reg a).toNat + s.idTail (dieOfLink k)
  else if o = 4 then setBits (s.reg a).toNat 12 1 (b2n (decide (k = 0) && s.isBridge))
  else if 0x400 ≤ o ∧ o < 0x4E0 then half64 (tget 0 s.pgroups ((o - 0x400) / 8)).toNat o
  else if 0x600 ≤ o ∧ o < 0x640 ∧ o % 16 = 0 then
    let e := (o - 0x600) / 16
    ((s.ctxsOf k e).map fun x => 2 ^ x.1).foldl (· + ·) 0 + s.slotsFree k e * 0x10000
  else if 0x400000 ≤ o ∧ o < 0x500000 then bits (tget 0 s.mcast ((o - 0x400000) / 16)).toNat (o % 16 * 8) 32
  else if 0x800000 ≤ o then
    let i := (s.reg (lnkBase k + 0x40)).toNat % 4 * 4194304 + (o - 0x800000) / 2
    (tget 0 s.ept i).toNat + (tget 0 s.ept (i + 1)).toNat * 0x10000
  else (s.reg a).toNat

/-! ### Control dies -/

/-- A field-list entry as it stands in memory (R392). -/
def Defect.bytes (d : Defect) : Bytes :=
  u8 1 ++ u8 d.kind ++ u8 (d.source + d.cause * 16) ++ u8 d.clean ++ u16 d.die ++ u16 d.unit ++ u32 d.detail ++ u32 d.time

/-- A record as it stands in memory (R432). -/
def Event.bytes (e : Event) : Bytes :=
  let b := u32 e.seq.toNat ++ u16 e.code ++ u8 (e.sev + e.ct * 8 + 0x10) ++ u8 e.part ++ natLe 6 e.time ++ u8 e.region ++ u8 0 ++ u32 e.pcycle.toNat
    ++ u32 (e.skind + e.sindex * 16 + e.ssub * 0x10000) ++ padTo 32 e.data ++ u32 0
  b ++ natLe 4 (crc32 b).toNat

/-- The retained set: the event region and the unflushed records, by rising sequence number (R430). -/
def Recorder.retained (r : Recorder) : List Event := r.region ++ (r.buf.filter (·.2)).map (·.1)

def Recorder.oldest (r : Recorder) : Word := match r.retained with | [] => r.seq + 1 | e :: _ => e.seq

def Recorder.unflushed (r : Recorder) : Nat := (r.buf.filter (·.2)).length

/-- A word of the `BST_` block (R411). -/
def State.bstView (s : State) (o a : Nat) : Nat :=
  if o = 8 then s.sparing.inUse
  else if 0x100 ≤ o ∧ o < 0x3F0 then
    let i := (o - 0x100) / 4
    setBits (s.reg a).toNat 12 1 (Nat.max (s.field a 12 1) (b2n (s.sparing.stepFenced.contains i))) + s.stepping i + tget 0 s.hw.seamVer i * 0x100
  else if 0x10000 ≤ o ∧ o < 0x20000 then
    match s.sparing.fieldList[(o - 0x10000) / 16]? with
    | some (some d) => fld d.bytes (o % 16) 4
    | _ => 0
  else (s.reg a).toNat

/-- A word of the `SEC_` block (R436). -/
def State.secView (s : State) (o : Nat) : Nat :=
  let t := s.trust
  if o = 0 then b2n t.ownerHash.isSome + b2n t.debug * 2 + b2n t.keysBlocked * 4 + b2n t.unlockArg.isSome * 8 + t.svnFloor % 64 * 0x10
    + t.vkeyRevoked.toNat * 0x400 + 0x10000
  else if o = 4 then t.dikNext
  else if o = 8 then t.akNumber
  else if o = 0xC then t.akNext
  else if 0x20 ≤ o ∧ o < 0x40 then fld t.authNonce (o - 0x20) 4
  else if 0x40 ≤ o ∧ o < 0x60 then fld (t.ownerHash.getD []) (o - 0x40) 4
  else 0

/-- A word of the `EVR_` block (R436). -/
def State.evrView (s : State) (o a : Nat) : Nat :=
  if o = 4 then s.evr.seq.toNat
  else if o = 8 then s.evr.oldest.toNat
  else if o = 0xC then s.evr.unflushed
  else if o = 0x1C then s.trust.pcycle.toNat
  else if o = 0x20 ∨ o = 0x24 then half64 (s.trust.opTime % 0x1000000000000) o
  else if 0x80000 ≤ o ∧ o < 0x100000 then
    match s.evr.buf[(o - 0x80000) / 64]? with
    | none => 0
    | some e => fld e.1.bytes (o % 64) 4
  else (s.reg a).toNat

/-- Both control dies' windows show what the active die serves (R411, R436), its own image among it (R419). -/
def State.controlView (s : State) (o : Nat) : Nat :=
  if 0x200000 ≤ o ∧ o < 0x220000 then s.bstView (o - 0x200000) (ctBase 0 + o)
  else if 0x280000 ≤ o ∧ o < 0x280060 then s.secView (o - 0x280000)
  else if 0x300000 ≤ o ∧ o < 0x400000 then s.evrView (o - 0x300000) (ctBase 0 + o)
  else if 0x800000 ≤ o then fld (s.trust.slot.take (fld s.trust.slot 0x14 4)) (o - 0x800000) 4
  else 0

/-! ### All windows -/

/-- The address lies in a register window (R33). -/
def isRegister (a : Nat) : Bool :=
  (decide (0x020000000000 ≤ a) && decide (a < 0x02009C000000)) || (decide (0x020100000000 ≤ a) && decide (a < 0x020118000000))
    || (decide (0x020200000000 ≤ a) && decide (a < 0x020206000000)) || (decide (0x020300000000 ≤ a) && decide (a < 0x020302000000))
    || (decide (0x020400000000 ≤ a) && decide (a < 0x020401000000))

/-- The register at panel address a is word o of some port's block of a compute die in the site range (R259). -/
def isPortReg (o a : Nat) : Bool :=
  let q := a % 0x400000
  decide (0x020000000000 ≤ a) && decide (a < 0x02009C000000) && decide (0x100100 ≤ q) && decide (q < 0x100240) && decide ((q - 0x100100) % 0x40 = o)

/-- `FAB_RETRY_ALL` and `FAB_SLIP_ALL`: the sum of a counter of every port (R260). -/
def State.portSum (s : State) (o : Nat) : Nat := ((s.regs.filter fun e => isPortReg o e.1).map fun e => e.2.toNat).foldl (· + ·) 0

/-- The aligned 32-bit word at panel address a of a register window. -/
def State.readReg (s : State) (a : Nat) : Word :=
  BitVec.ofNat 32 <|
  let o := a % 0x1000000
  let k := a / 0x1000000 % 0x100
  if !isRegister a then 0
  else if a < 0x020100000000 then s.siteView k o a
  else if a < 0x020200000000 then s.stackView k o a
  else if a < 0x020300000000 then s.linkView k o a
  else if a < 0x020400000000 then s.controlView o
  else if panelBase + 0x10 ≤ a ∧ a < panelBase + 0x18 then half64 (s.portSum 0x28) a
  else if panelBase + 0x18 ≤ a ∧ a < panelBase + 0x20 then half64 (s.portSum 0x2C) a
  else if a = panelBase + 0x20 then s.sparing.halfSeams.length
  else if a = panelBase + 0x44 then (s.mgt 0x14).toNat % 0x1000000
  else (s.reg a).toNat

/-- n bytes read from panel address a of a register window: whole aligned words; anything else is unpredictable (R6). -/
def State.readRegs (s : State) (a n : Nat) : State × Bytes :=
  if a % 4 = 0 ∧ n % 4 = 0 then (s, (List.range (n / 4)).flatMap fun i => u32 (s.readReg (a + 4 * i)).toNat)
  else (s.draw, (List.range n).map fun i => s.openByte none 0 i)

end Sys2Proof.Machine
end

