-- ==== Sys2Proof/Machine/Deliver.lean ====
section
/-! DEFINITION. Packets at their endpoints (R273 to R282, R286, R290, R298), the timers of the end-to-end agents (R276,
R278, R281, R290), and the send buffer (R246, R247). -/

namespace Sys2Proof.Machine

/-! ### Panel memory for requesters other than movers (R33 to R38, R212, R234) -/

/-- Record an access to an unmapped address, and ask a sleeping cluster to wake (R35, R363). -/
def State.touchBy (s : State) (a : Nat) (eid : BitVec 24) : State :=
  if !s.mapped a then
    if !isSram a then s.noteUnmapped a eid
    else if s.clusterHole (clusterOfAddr a) then s
    else s.noteOff a eid
  else if isSram a then s.requestWake (clusterOfAddr a) else s

/-- What a read of n bytes at a, within one block, does beside returning bytes. -/
def State.readBlock (s : State) (eid : BitVec 24) (a n : Nat) : State :=
  let s := ((s.touchBy a eid).blockedRead a)
  let s := (s.readErrors a n).1
  if isHbm a && s.mapped a then s.count64 (sbdBase (stackOf a) + 0x10) n else s

/-- Read n bytes of panel memory for a requester. -/
def State.readPanel (s : State) (eid : BitVec 24) (a n : Nat) : State × Bytes :=
  let s := (blocksOf a n).foldl (fun s e => s.readBlock eid e.1 e.2) s
  (s, s.load a n)

/-- What a write of n bytes at a, within one block, does beside storing them. -/
def State.writeBlock (s : State) (eid : BitVec 24) (a n : Nat) : State :=
  let s := if s.mapped a then s.touchBy a eid else s
  if isHbm a && s.mapped a then s.count64 (sbdBase (stackOf a) + 0x18) n else s

/-- Write bytes to panel memory for a requester. -/
def State.writePanel (s : State) (eid : BitVec 24) (a : Nat) (bs : Bytes) : State :=
  ((blocksOf a bs.length).foldl (fun s e => s.writeBlock eid e.1 e.2) s).store .other eid a bs

/-- Read and write n bytes at an address of any window, as BAR2 and a bridge's packets to the panel EID do (R318): writes
to register windows are ignored. -/
def State.readAny (s : State) (eid : BitVec 24) (a n : Nat) : State × Bytes :=
  if isRegister a then s.readRegs a n else s.readPanel eid a n

def State.writeAny (s : State) (eid : BitVec 24) (a : Nat) (bs : Bytes) : State :=
  if isRegister a then s else s.writePanel eid a bs

/-- Serve one access that was held: a write lands, and an aperture read's bytes go to their place (R36). -/
def State.serveOne (s : State) (h : HeldAccess) : State :=
  match h.data with
  | some bs => s.writePanel h.eid h.addr bs
  | none =>
    let g := s.readPanel h.eid h.addr h.len
    { g.1 with host := { g.1.host with lastRead := patch g.1.host.lastRead h.place g.2 } }

/-- The repair of a die is done, or a stack's trip has ended: what was held for it is served, at the new site, in the order in which it came
(R36, R230). -/
def State.serveHeld (s : State) : State :=
  let due := s.sparing.waiting.filter fun h => !s.repairing h.addr
  due.foldl (fun s h => s.serveOne h) { s with sparing := { s.sparing with waiting := s.sparing.waiting.filter fun h => s.repairing h.addr } }

/-! ### What an endpoint does -/

/-- The partition that an endpoint of this panel belongs to. -/
def State.ownerOf (s : State) (eid : BitVec 24) : Option Nat :=
  match s.resFind eid with
  | some i => some (bits (s.resEntry i) 38 6)
  | none => (s.clusterOfEid eid).bind s.partOf

/-- Partition p drops what reaches its boundary (R405). -/
def State.absorbs (s : State) (p : Nat) : Bool :=
  match s.part p with
  | none => false
  | some q => match q.reset with | none => false | some r => r.absorb

def State.countAbsorbed (s : State) (p n : Nat) : State :=
  s.modPart p fun q => { q with reset := q.reset.map fun r => { r with absorbed := r.absorbed + n } }

/-- The partition of an endpoint absorbs traffic. -/
def State.absorbing (s : State) (eid : BitVec 24) : Option Nat := (s.ownerOf eid).bind fun p => if s.absorbs p then some p else none

/-- Bytes that a request touches at a memory endpoint. -/
def packetSpan (p : Packet) : Nat := if p.opcode = 0x02 then (p.rlen.toNat + 1) * 32 else if p.opcode = 0x31 then p.vbytes.toNat else p.payload.length

/-- The record of a resident queue endpoint: partition and index. -/
def State.endpointRec (s : State) (eid : BitVec 24) : Option (Nat × Nat) :=
  s.parts.findSome? fun e => match e.2 with
    | none => none
    | some q => (q.endpoint eid).map fun i => (e.1, i)

/-- Status with which agent a refuses a packet of classes 0, 1 or 3 (R282, R286, R287); one that has passed the table meets no later
fence, and a cluster in OFF holds no endpoint (R363). -/
def State.refusal (s : State) (a : Nat) (p : Packet) (passed : Bool) : Option Nat :=
  let op := p.opcode.toNat
  if agEngine ≤ a then (if op = 0x30 ∨ op = 0x31 then none else some stFault)
  else if agStack ≤ a then (if op = 0x10 then none else some stFault)
  else if a = agGleryn then (if op = 0x01 ∨ op = 0x02 ∨ op = 0x03 ∨ op = 0x11 then none else some stFault)
  else match s.resFind p.dest with
    | none => some stFault
    | some i =>
      let e := s.resEntry i
      let own := match s.part (bits e 38 6) with
        | none => false
        | some q => (List.range (packetSpan p)).all fun j => q.owns (p.addr.toNat + j) 1
      if (bitOf e 25 && !passed) || s.power? (bits e 28 10) = 0 then some stFenced
      else if bits e 26 2 = 0 then (if op = 0x10 ∧ (s.endpointRec p.dest).isSome = true then none else some stFault)
      else if bits e 26 2 = 1 then (if (op = 0x01 ∨ op = 0x02 ∨ op = 0x31) ∧ own = true then none else some stFault)
      else some stFault

/-- Whole groups in a list of tokens. -/
def groupsIn (l : List Token) : Nat := (l.filter Token.isMarker).length

/-- The whole groups of a token list, oldest first; the first argument bounds their number. -/
def chunkGroups : Nat → List Token → List (List Token)
  | 0, _ => []
  | f + 1, l => let r := firstGroup false l; if r.2.1 then r.1 :: chunkGroups f r.2.2 else []

/-- Tokens of cluster c arrive at a stack; groups they complete take their places in the order of arrival (R214, R227). -/
def Stack.receive (x : Stack) (c : Nat) (ts : List Token) : Stack :=
  let old := tget [] x.inbox c
  let new := old ++ ts
  let k := (chunkGroups new.length new).length - (chunkGroups old.length old).length
  { x with inbox := tset [] x.inbox c new, order := x.order ++ List.replicate k c }

/-- Requests that a stack has admitted and not answered (R215). -/
def Stack.admitted (x : Stack) : Nat := (x.inbox.map fun e => groupsIn e.2).foldl (· + ·) 0 + x.replies.length

/-- Tokens arrive at a resident queue endpoint: they stand in its receive buffer, and CREDIT goes to their sender (R281). -/
def State.tokensIn (s : State) (p : Packet) : State :=
  match s.endpointRec p.dest with
  | none => s
  | some (n, i) =>
    let s := match s.inbound n i with
      | none => s
      | some r => s.setInbound n i { r with producer := p.src }
    (packetTokens p).foldl (fun s t => s.landOn n i t) s

/-- Bytes of a relayed DATA_PLACE have landed: with its last ones, the placement is complete, and the partition's caches go if it placed into
HBM (R203, R343). -/
def State.notePlaced (s : State) (eid : BitVec 24) (a n : Nat) : State :=
  match s.host.placing.find? fun w => decide (w.eid = eid) && decide (w.addr ≤ a) && decide (a < w.addr + w.len) with
  | none => s
  | some w =>
    let rest := s.host.placing.erase w
    let left := if w.left ≤ n then [] else [{ w with left := w.left - n }]
    let s := { s with host := { s.host with placing := rest ++ left } }
    if n < w.left || !isHbm w.addr then s
    else match s.part w.part with
      | none => s
      | some q => q.clusters.foldl (fun s c => s.invalidateCache c) s

/-- What agent a does with a packet it delivers. -/
def State.deliver (s : State) (a : Nat) (p : Packet) : State :=
  let op := p.opcode.toNat
  if agStack ≤ a ∧ a < agEngine then
    let x := s.stack (a - agStack)
    match s.clusterOfEid p.src with
    | none => s
    | some c => s.setStack (a - agStack) (x.receive c (packetTokens p))
  else if a = agGleryn then
    if op = 0x01 then (s.writeAny p.src p.addr.toNat p.payload).notePlaced p.src p.addr.toNat p.payload.length
    else if op = 0x02 then
      let r := s.readAny p.src p.addr.toNat ((p.rlen.toNat + 1) * 32)
      r.1.launch a (readDataOf p r.2)
    else s.startPacket p
  else if op = 0x01 then s.writePanel p.src p.addr.toNat p.payload
  else if op = 0x02 then
    let r := s.readPanel p.src p.addr.toNat ((p.rlen.toNat + 1) * 32)
    r.1.launch a (readDataOf p r.2)
  else if op = 0x31 then s.writePanel p.src p.addr.toNat (p.payload.take p.vbytes.toNat)
  else if op = 0x10 then s.tokensIn p
  else s

/-- The ACK of a packet, where its opcode is answered by one (R273, R277). -/
def State.ackPacket (s : State) (a : Nat) (p : Packet) : State :=
  let op := p.opcode.toNat
  if op = 0x01 ∨ op = 0x10 ∨ op = 0x11 then s.launch a (ackOf p)
  else if op = 0x31 then s.launch a (collAckOf p stOk) else s

/-- A packet that meets an ABSORB reset: acknowledged and discarded, or answered FENCED (R405). -/
def State.absorbPacket (s : State) (a n : Nat) (p : Packet) : State :=
  if p.opcode = 0x02 then s.launch a (nackOf p stFenced)
  else
    let k := if p.opcode = 0x10 then bits p.addr.toNat 0 6 + 1 else 1
    let s := (s.ackPacket a p).countAbsorbed n k
    if p.opcode ≠ 0x10 then s
    else match s.endpointRec p.dest with
      | none => s
      | some (m, i) => match s.inbound m i with
        | none => s
        | some r =>
          let v := r.pops + BitVec.ofNat 32 k
          (s.setInbound m i { r with pops := v, credited := v }).launch a (mkPacket 2 0x23 p.src p.dest v.toNat false [])

/-- A stack holds 64 admitted requests and accepts no packet, which waits where it stands (R215). -/
def State.stackFull (s : State) (p : Packet) : Bool :=
  isAttention p.dest && decide (64 ≤ (s.stack (p.dest.toNat - 0xFFFFC0)).admitted)

/-- A packet to memory of a cluster whose die is being repaired waits where it stands (R36). -/
def State.accessHeld (s : State) (p : Packet) : Bool :=
  (p.opcode == 0x01 || p.opcode == 0x02 || p.opcode == 0x31) && s.repairing p.addr.toNat

/-- A request, tokens or a RESULT for memory arrives (R276, R277, R280, R405). An attention response is a reply, and no
answer meets it (R277, R291). -/
def State.requestIn (s : State) (p : Packet) : State :=
  if s.stackFull p || s.accessHeld p then s
  else
  let passed := s.passedTable p
  let s := s.arrives p
  match s.agentOf p.dest with
  | none => s
  | some a =>
    match s.absorbing p.dest with
    | some n => if p.cls = 2 then s.countAbsorbed n (bits p.addr.toNat 0 6 + 1) else s.absorbPacket a n p
    | none =>
      if p.cls = 2 then (if (s.refusal a p passed).isSome then s else s.deliver a p)
      else match s.refusal a p passed with
      | some st => s.receive a p (fun s => s.launch a (nackOf p st)) (fun s => s.launch a (nackOf p st)) fun s _ => s
      | none =>
        let again := fun (s : State) => if p.opcode = 0x02 ∨ p.opcode = 0x03 then s.deliver a p else s.ackPacket a p
        s.receive a p (fun s => s.ackPacket a p) again fun s q => s.deliver a q

/-- Run f on a packet whose opcode is this row's and that routers do not still hold. -/
def State.forOp (s : State) (op : Nat) (p : Packet) (f : State → State) : State := if p.opcode.toNat = op ∧ !s.underWay p then f s else s

/-- WRITE (R273, R286). -/
def execWrite (p : Packet) (s : State) : Host.Outcome State Fault Refusal := answer s (s.forOp 0x01 p fun s => s.requestIn p)

/-- READ (R273, R276): a duplicate is served again. -/
def execRead (p : Packet) (s : State) : Host.Outcome State Fault Refusal := answer s (s.forOp 0x02 p fun s => s.requestIn p)

/-- MGMT (R343). -/
def execMgmt (p : Packet) (s : State) : Host.Outcome State Fault Refusal := answer s (s.forOp 0x03 p fun s => s.requestIn p)

/-- TOKENS (R126, R281). -/
def execTokens (p : Packet) (s : State) : Host.Outcome State Fault Refusal := answer s (s.forOp 0x10 p fun s => s.requestIn p)

/-- RELAY (R343). -/
def execRelay (p : Packet) (s : State) : Host.Outcome State Fault Refusal := answer s (s.forOp 0x11 p fun s => s.requestIn p)

/-! ### Replies -/

/-- A reply arrives; in an ABSORB reset of its partition it is dropped at the boundary (R405). -/
def State.replyIn (s : State) (p : Packet) (f : State → State) : State :=
  let s := s.arrives p
  match s.absorbing p.dest with
  | some n => s.countAbsorbed n 1
  | none => f s

/-- ACK (R277, R290): up to 16 SEQs ending at the packet's. -/
def execAck (p : Packet) (s : State) : Host.Outcome State Fault Refusal :=
  answer s (s.forOp 0x20 p fun s => s.replyIn p fun s =>
    let n := bits p.addr.toNat 0 4 + 1
    (List.range n).foldl (fun s i =>
      match s.awaiting p.dest p.src [0, 1] (p.seq - BitVec.ofNat 16 (n - 1 - i)) with
      | none => s
      | some (k, u) => if u.pkt.opcode = 0x02 ∨ u.pkt.opcode = 0x03 then s else s.acked k u) s)

/-- NACK (R278, R290). -/
def execNack (p : Packet) (s : State) : Host.Outcome State Fault Refusal :=
  answer s (s.forOp 0x21 p fun s => s.replyIn p fun s =>
    match s.awaiting p.dest p.src [0, 1] p.seq with
    | none => s
    | some (k, u) => s.nacked k u (bits p.addr.toNat 0 8))

/-- Data of a READ of Gleryn's: of a BAR2 read (R318), or of a relayed DATA_FETCH, which goes to the host (R343). -/
def State.glerynData (s : State) (u : Unacked) (p : Packet) : State :=
  match u.cmd with
  | some id => match s.cmd id with
    | none => s
    | some c => s.hostWrite (c.arg 8 8 + (u.pkt.addr.toNat - c.arg 16 6)) (p.payload.take (c.arg 16 6 + c.arg 24 8 - u.pkt.addr.toNat))
  | none => match s.host.apWait.find? fun x => decide (x.seq = p.seq) with
    | none => s
    | some x =>
      let got := patch s.host.lastRead x.place (slice (padTo (x.skip + x.len) p.payload) x.skip x.len)
      { s with host := { s.host with lastRead := got, apWait := s.host.apWait.erase x } }

/-- READ_DATA (R277): matched to its request by `SEQ`; a second match is dropped. -/
def execReadData (p : Packet) (s : State) : Host.Outcome State Fault Refusal :=
  answer s (s.forOp 0x22 p fun s => s.replyIn p fun s =>
    match s.awaiting p.dest p.src [0] p.seq with
    | none => s
    | some (k, u) =>
      if u.pkt.opcode ≠ 0x02 then s
      else
        let s := match s.clusterOfEid p.dest, u.chan with
          | some c, some ch => match ((s.clu c).chan ch).run with
            | none => s
            | some r => match r.reads.find? fun (x : Piece) => decide (x.seq = some p.seq) && x.data.isNone with
              | none => s
              | some x =>
                let bs := padTo x.size p.payload
                let s := if x.line then s.cachePut c p.src x.remote bs else s
                let fill := fun (y : Piece) => if y = x then { y with data := some bs } else y
                s.modRun c ch fun r => { r with reads := r.reads.map fill }
          | _, _ => s.glerynData u p
        s.settle k u stOk)

/-- A cumulative CREDIT gives back what the count shows popped; an older one gives nothing back (R281). -/
def creditLeft (out : Nat) (total : Word) (pops : Nat) : Nat := Nat.min out (total - BitVec.ofNat 32 pops).toNat

/-- CREDIT (R281): to the loops of the cluster's output queues and steering outputs that lead to the endpoint. -/
def execCredit (p : Packet) (s : State) : Host.Outcome State Fault Refusal :=
  answer s (s.forOp 0x23 p fun s => s.replyIn p fun s =>
    match s.clusterOfEid p.dest with
    | none => s
    | some c =>
      let s := (s.boundTo c p.src).foldl (fun s e =>
        let k := s.core e.1
        let o := k.outQ e.2
        s.setCore e.1 (k.setOutQ e.2 { o with out := creditLeft o.out o.total p.addr.toNat })) s
      let cl := s.clu c
      (s.setClu c { cl with steerLoops := cl.steerLoops.map fun x =>
        if x.eid = p.src then { x with out := creditLeft x.out x.total p.addr.toNat } else x }).sendWaiting c)

/-- MC_COUNT (R290): the members of a group; packets that all of them have acknowledged are done. -/
def execMcCount (p : Packet) (s : State) : Host.Outcome State Fault Refusal :=
  answer s (s.forOp 0x25 p fun s => s.replyIn p fun s =>
    let m := bits p.addr.toNat 0 16
    [(0 : BitVec 2), 3].foldl (fun s cls =>
      let key : FlowKey := { src := p.dest, dest := p.src, cls := cls }
      match s.sendFlow key with
      | none => s
      | some f =>
        let s := s.setSend { f with members := some m }
        (f.unack.filter fun u => u.pkt.mcast && decide (m ≤ u.acks)).foldl (fun s u => s.settle key u stOk) s) s)

/-! ### Class 3 (R298, R300) -/

/-- Note the answer of a collective packet, for the duplicates that may follow it. -/
def State.noteAnswer (s : State) (key : FlowKey) (q : Half) (st : Nat) : State :=
  match s.recvFlow key with
  | none => s
  | some f => s.setRecv { f with answers := (tset stOk f.answers q.toNat st).filter fun e => decide ((f.e - BitVec.ofNat 16 e.1).toNat ≤ 1024) || decide ((BitVec.ofNat 16 e.1 - f.e).toNat < 1024) }

/-- A contribution, or a RESULT for a context, arrives at its engine (R298). BUSY leaves it new for the resend; a duplicate gets the answer of
the first copy again. -/
def State.contribIn (s : State) (k : Nat) (p : Packet) : State :=
  match s.ctx k with
  | none => s
  | some x =>
    let a := agEngine + k / 16
    let st := x.answer p
    let fresh := match s.recvFlow p.key with | none => true | some f => f.isNew p.seq
    let first := match s.recvFlow p.key with | none => stOk | some f => tget stOk f.answers p.seq.toNat
    if fresh && st = stBusy then s.launch a (collAckOf p stBusy)
    else
      s.receive a p (fun s => (s.noteAnswer p.key p.seq st).launch a (collAckOf p st)) (fun s => s.launch a (collAckOf p first)) fun s q =>
        if st = stOk then (s.setCtx k (x.take q s.now)).collPump k else s

/-- CONTRIB (R298): a context that is not set answers FAULT (R309). -/
def execContrib (p : Packet) (s : State) : Host.Outcome State Fault Refusal :=
  answer s (s.forOp 0x30 p fun s =>
    let s := s.arrives p
    match s.ctxOf p.dest with
    | some k => s.contribIn k p
    | none => s.launch agEngine (collAckOf p stFault))

/-- RESULT (R290, R298, R300): to a memory endpoint or a parent context. -/
def execResult (p : Packet) (s : State) : Host.Outcome State Fault Refusal :=
  answer s (s.forOp 0x31 p fun s => match s.ctxOf p.dest with
    | some k => (s.arrives p).contribIn k p
    | none => s.requestIn p)

/-- COLL_ACK (R278, R290, R298). -/
def execCollAck (p : Packet) (s : State) : Host.Outcome State Fault Refusal :=
  answer s (s.forOp 0x32 p fun s => s.replyIn p fun s =>
    match s.awaiting p.dest p.src [3] p.seq with
    | none => s
    | some (k, u) =>
      let st := bits p.addr.toNat 0 8
      if st = stOk then s.acked k u else s.nacked k u st)

/-! ### Timers -/

/-- Send an unacknowledged packet again: a bulk mover reads its source anew, and a source that changed makes the bytes
unpredictable (R278). -/
def State.resend (s : State) (f : FlowKey) (u : Unacked) (v : Unacked) : State :=
  match s.clusterOfEid f.src with
  | none => (s.setUnacked f u v).launch ((s.agentOf f.src).getD agGleryn) v.pkt
  | some c =>
    let n := if u.pkt.opcode = 0x30 then u.pkt.vbytes.toNat else u.pkt.payload.length
    let changed := match u.src with
      | none => false
      | some a => decide (padTo u.pkt.payload.length (s.ownBytes (s.partAt c) a n) ≠ u.pkt.payload)
    let d := s.free
    let s := if changed then s.draw else s
    let p := if changed then { v.pkt with payload := (List.range v.pkt.payload.length).map (Config.freeByte d) } else v.pkt
    ((s.setUnacked f u { v with pkt := p }).count (s.fabReg c 0x040) 1).launch c p

/-- RESEND_TIMEOUT (R278, R290): the next resend, or the end of the seven. One that a NACK BUSY asked for does not count. -/
def execResendTimeout (f : FlowKey) (seq : BitVec 16) (s : State) : Host.Outcome State Fault Refusal :=
  answer s (match s.sendFlow f with
    | none => s
    | some g => match g.unack.find? fun u => decide (u.pkt.seq = seq) with
      | none => s
      | some u =>
        if u.busy then s.resend f u { u with busy := false }
        else if u.resends < 7 then s.resend f u { u with resends := u.resends + 1 }
        else s.settle f u (if u.pkt.mcast && decide (0 < u.acks) then stPartial else stTimeout))

/-- MCAST_NACK_WAIT_END (R290): a multicast that met a NACK FENCED ends with PARTIAL one T later. -/
def execMcastNackWaitEnd (f : FlowKey) (s : State) : Host.Outcome State Fault Refusal :=
  answer s (match s.sendFlow f with
    | none => s
    | some g => (g.unack.filter fun u => u.fenced).foldl (fun s u => s.settle f u stPartial) s)

/-- FLOW_EXPIRY (R276): once it has been idle for G, a send flow with nothing unacknowledged is freed, and a receive flow is forgotten. -/
def execFlowExpiry (f : FlowKey) (sending : Bool) (s : State) : Host.Outcome State Fault Refusal :=
  answer s (
    let idle := fun (used : Nat) => decide (used + usec s.flowLife ≤ s.now)
    if sending then { s with sends := s.sends.filter fun g => decide (g.key ≠ f) || decide (g.unack ≠ []) || !idle g.used }
    else { s with recvs := s.recvs.filter fun g => decide (g.key ≠ f) || decide (g.store ≠ []) || !idle g.used })

/-- ENDPOINT_CREDIT_TIMER (R281): CREDIT after a pause in the pops, or while the receive buffer is empty. -/
def execEndpointCreditTimer (eid : BitVec 24) (s : State) : Host.Outcome State Fault Refusal :=
  answer s (match s.endpointRec eid with
    | none => s
    | some (p, i) => match s.inbound p i with
      | none => s
      | some r =>
        if r.producer = 0 ∨ (r.pops = r.credited ∧ r.land ≠ []) then s
        else (s.setInbound p i { r with credited := r.pops }).launch r.cluster
          (mkPacket 2 0x23 r.producer eid r.pops.toNat false []))

/-! ### The send buffer (R246, R247, R278) -/

/-- PACKET_SEND (R247): the first packet of the send buffer that may leave, after the marks that have credit (R155). -/
def execPacketSend (cluster : Nat) (s : State) : Host.Outcome State Fault Refusal :=
  answer s (
    let s := s.sendWaiting cluster
    let cl := s.clu cluster
    match cl.sendBuf.find? fun p => (p.isReply && !s.packetsHeld) || s.canSend cluster p.key with
    | none => s
    | some p =>
      let s := s.setClu cluster { cl with sendBuf := cl.sendBuf.erase p }
      if p.isReply then s.launch cluster p else s.sendOn cluster { pkt := p })

end Sys2Proof.Machine
end

