-- ==== Sys2Proof/Machine/Stack.lean ====
section
/-! DEFINITION. The memory stacks (R206 to R233): the page table, page requests and attention passes, responses, step tags
and discards, errors, temperature, retraining and loss. -/

namespace Sys2Proof.Machine

/-! ### KV pages (R206, R210, R216, R217) -/

/-- A page-table entry (R217). -/
structure Pte where
  valid    : Bool
  part     : Nat
  owned    : Bool
  fmt      : Nat
  hdim     : Nat
  fill     : Nat
  fillPrev : Nat
  ver      : Nat
  rgen     : Nat
  pend     : Bool
  poison   : Bool
  deriving DecidableEq, Repr

def pteOf (w : BitVec 64) : Pte :=
  let n := w.toNat
  { valid := bitOf n 0, part := bits n 1 6, owned := bitOf n 7, fmt := bits n 8 4, hdim := bits n 12 2, fill := bits n 14 10,
    fillPrev := bits n 24 10, ver := bits n 34 8, rgen := bits n 42 2, pend := bitOf n 44, poison := bitOf n 45 }

def Pte.word (e : Pte) : BitVec 64 :=
  BitVec.ofNat 64 (b2n e.valid + e.part * 2 + b2n e.owned * 2 ^ 7 + e.fmt * 2 ^ 8 + e.hdim * 2 ^ 12 + e.fill * 2 ^ 14
    + e.fillPrev * 2 ^ 24 + e.ver * 2 ^ 34 + e.rgen * 2 ^ 42 + b2n e.pend * 2 ^ 44 + b2n e.poison * 2 ^ 45 + 2 ^ 61)

def State.pte (s : State) (n page : Nat) : Pte := pteOf (tget pteFree (s.stack n).pte page)

def State.setPte (s : State) (n page : Nat) (e : Pte) : State :=
  s.setStack n { s.stack n with pte := tset pteFree (s.stack n).pte page e.word }

/-- A page format of R216. -/
def kvFormat (f : Nat) : Bool := f == 1 || f == 4 || f == 5 || f == 7

def headDim (hdim : Nat) : Nat := 64 * 2 ^ hdim

/-- Bytes of the fixed slot of a block. -/
def kvBlock (f : Nat) : Nat := if f = 7 then 23 else 25

/-- Bytes of a vector. -/
def kvVector (f d : Nat) : Nat := if f = 1 then d else d / 32 * kvBlock f

/-- RS: bytes of a slot. -/
def kvSlot (f d : Nat) : Nat := 2 * alignUp (kvVector f d) 4

def kvSlots (f d : Nat) : Nat := 65536 / kvSlot f d

/-- Panel address of slot t of a page. -/
def kvAddr (n page f d t : Nat) : Nat := hbmBase n + page * 65536 + t * kvSlot f d

/-- An encoded vector, with saturations, exception overflows and NaN inputs (R99, R108, R218). -/
def kvEncode (f : Nat) (v : List Fp) : Bytes × Nat × Nat × Nat :=
  if f = 1 then
    let r := v.map fun x => narrow 2 .rne (wordOfFp x)
    (r.map fun x => BitVec.ofNat 8 x.code, (r.filter fun x => x.sat).length, 0, (r.filter fun x => x.nan || x.inf).length)
  else
    (List.range (v.length / 32)).foldl (fun (a : Bytes × Nat × Nat × Nat) b =>
      let blk := (v.drop (32 * b)).take 32
      let e := if f = 7 then encodeMxfp4x blk else encodeMx f blk
      (a.1 ++ padTo (kvBlock f) (e.pack f), a.2.1 + e.sat, a.2.2.1 + e.ovf, a.2.2.2 + (blk.filter Fp.isNan).length)) ([], 0, 0, 0)

/-- A vector of a page, and how many of its blocks have a count field of 3 (R224). -/
def kvDecode (f d : Nat) (bs : Bytes) : List Fp × Nat :=
  if f = 1 then ((bs.take d).map fun b => fpOfE4m3 b.toNat, 0)
  else (List.range (d / 32)).foldl (fun (a : List Fp × Nat) b =>
    let r := packedBlock f (slice bs (kvBlock f * b) (kvBlock f))
    (a.1 ++ r.1, a.2 + r.2.2)) ([], 0)

/-! ### Step tags and discard (R219, R220) -/

/-- `SBD_PART_STEP` of partition p at stack n: tag, discarded tag, generation. -/
def State.partStep (s : State) (n p : Nat) : Nat × Nat × Nat :=
  let a := sbdBase n + 0x200 + 4 * p
  (s.field a 0 8, s.field a 8 8, s.field a 16 2)

/-- `resolve` of R219. -/
def Pte.resolve (e : Pte) (t : Nat × Nat × Nat) : Pte :=
  let e := if e.pend && decide (e.ver = t.2.1) && decide (e.rgen ≠ t.2.2) then { e with fill := e.fillPrev, pend := false } else e
  if e.pend && decide (e.ver ≠ t.1) then { e with pend := false } else e

/-- `versioned_change` of R219. -/
def Pte.change (e : Pte) (t : Nat × Nat × Nat) (fill : Nat) : Pte :=
  let e := e.resolve t
  let e := if e.pend then e else { e with fillPrev := e.fill, ver := t.1, rgen := t.2.2, pend := true }
  { e with fill := fill }

/-! ### Requests (R214, R222, R223) -/

/-- A request header (R222). -/
structure ReqHdr where
  ver    : Nat
  op     : Nat
  hq     : Nat
  npos   : Nat
  hdim   : Nat
  bf16   : Bool
  ack    : Bool
  tag    : Nat
  npages : Nat
  reply  : BitVec 24
  scale  : Word
  window : Nat
  ppn    : Nat
  slot   : Nat
  fmt    : Nat
  epoch  : BitVec 3
  deriving DecidableEq, Repr

def reqHdr (t : Token) : ReqHdr :=
  let b := payloadBytes t.payload
  let f := fld b
  { ver := f 0 1 % 16, op := f 0 1 / 16, hq := f 1 1 % 16 + 1, npos := f 1 1 / 16 + 1, hdim := f 2 1 % 4, bf16 := bitOf (f 2 1) 2,
    ack := bitOf (f 2 1) 3, tag := f 4 2, npages := f 6 2, reply := BitVec.ofNat 24 (f 8 3), scale := BitVec.ofNat 32 (f 12 4),
    window := f 16 3, ppn := f 20 3 % 0x100000, slot := f 24 2 % 1024, fmt := f 26 1 % 16, epoch := t.epoch }

def ReqHdr.d (h : ReqHdr) : Nat := headDim h.hdim

/-- The header of a request group; a group without tokens has none. -/
def reqOf (req : List Token) : ReqHdr := reqHdr (req.headD { tag := 0, payload := 0 })

/-- The header check of R222. -/
def ReqHdr.ok (h : ReqHdr) : Bool :=
  decide (h.ver = 1) && decide (1 ≤ h.op) && decide (h.op ≤ 5) && decide (h.hdim ≠ 3)
    && (decide (h.op ≠ 1) || (decide (1 ≤ h.npages) && decide (h.npages ≤ 1024)))

/-- Body tokens of R223. -/
def ReqHdr.body (h : ReqHdr) : Nat :=
  if h.op = 1 then 1 + ceilDiv h.npages 8 + h.hq * h.npos * h.d / 32 else if h.op = 2 then h.npos * h.d / 16 else 0

/-- The group has the count its header gives, and ends in an END_ROW. -/
def ReqHdr.counts (h : ReqHdr) (req : List Token) : Bool :=
  decide (req.length = h.body + 2) && match req.getLast? with | none => false | some t => t.kind == kEndRow

/-- The partition that `SBD_CLU_PART` gives cluster c at stack n (R214). -/
def State.cluPart (s : State) (n c : Nat) : Option Nat :=
  let b := s.field (sbdBase n + 0x400 + c / 4 * 4) (8 * (c % 4)) 8
  if bitOf b 7 then some (bits b 0 6) else none

/-- The whole groups that stand at a stack in the order in which they arrived: cluster and tokens (R227). -/
def groupsFrom : List Nat → Tbl (List Token) → List (Nat × List Token)
  | [], _ => []
  | c :: cs, box => let r := firstGroup false (tget [] box c); (c, r.1) :: groupsFrom cs (tset [] box c r.2.2)

def Stack.groups (x : Stack) : List (Nat × List Token) := groupsFrom x.order x.inbox

/-- The first whole group of a list that is g goes; the first argument bounds the search. -/
def dropGroup : Nat → List Token → List Token → List Token
  | 0, l, _ => l
  | f + 1, l, g =>
    let r := firstGroup false l
    if !r.2.1 then l else if r.1 = g then r.2.2 else r.1 ++ dropGroup f r.2.2 g

/-- It is the turn of a request group that stands at stack n (R227, R228): page operations take effect in order of arrival, whatever
passes wait before them, and a pass begins once it stands first of all. -/
def State.turnOf (s : State) (n c : Nat) (req : List Token) : Bool :=
  let gs := (s.stack n).groups
  if (reqOf req).op = 1 then decide (gs.head? = some (c, req))
  else decide ((gs.find? fun g => decide ((reqOf g.2).op ≠ 1)) = some (c, req))

/-- The request leaves what the stack has received from its cluster. -/
def State.takeRequest (s : State) (n c : Nat) (req : List Token) : State :=
  let x := s.stack n
  let l := tget [] x.inbox c
  match x.groups.findIdx? fun g => decide (g = (c, req)) with
  | none => s
  | some i => s.setStack n { x with inbox := tset [] x.inbox c (dropGroup l.length l req), order := x.order.eraseIdx i }

/-! ### Responses (R225, R233) -/

/-- Header bytes of a response. -/
def respHeader (h : ReqHdr) (status used excluded : Nat) (flags fill : Nat) : Bytes :=
  u8 (1 + h.op * 16) ++ u8 status ++ u16 0 ++ u16 h.tag ++ u16 0 ++ u32 used ++ u32 excluded ++ u8 flags ++ List.replicate 3 0
    ++ u16 fill

def respTokens (h : ReqHdr) (header : Bytes) (body : List Bytes) : List Token :=
  ((header :: body).map fun b => { tag := mkTag kData 0 h.epoch, payload := bytesPayload b }) ++ [{ tag := mkTag kEndRow 0 h.epoch, payload := 0 }]

/-- The running state of one position and head (R224). -/
structure Partial where
  m   : Word := 0xFF800000
  sum : Word := 0
  o   : List Word
  nan : Bool := false
  deriving DecidableEq, Repr

def Partial.start (d : Nat) : Partial := { o := List.replicate d 0 }

/-- The body of a PASS response: positions in order, in each the pairs and then the vectors. -/
def respBody (h : ReqHdr) (ps : List Partial) : List Bytes :=
  (List.range h.npos).flatMap fun j =>
    let mine := (ps.drop (j * h.hq)).take h.hq
    let pairs := (mine.flatMap fun p => u32 p.m.toNat ++ u32 p.sum.toNat)
    let vec := fun (p : Partial) =>
      let bs := p.o.flatMap fun w => if h.bf16 then natLe 2 (narrow 1 .rne w).code else u32 w.toNat
      chunks 64 64 bs
    chunks 64 64 pairs ++ mine.flatMap vec

/-- A FENCED response (R233). -/
def fencedTokens (h : ReqHdr) : List Token :=
  let body := if h.op = 1 ∧ h.hdim ≠ 3 then respBody h (List.replicate (h.hq * h.npos) (Partial.start h.d)) else []
  respTokens h (respHeader h stFenced 0 0 0 0) body

/-- Queue a response. -/
def State.respond (s : State) (n : Nat) (part : Option Nat) (h : ReqHdr) (ts : List Token) : State :=
  let x := s.stack n
  s.setStack n { x with replies := x.replies ++ [{
    eid := h.reply, part := part, pass := decide (h.op = 1), tokens := ts, fenced := fencedTokens h }] }

/-- A response of a header alone; a page request's only when its `ACK` is set, or its header failed its check. -/
def State.respondBare (s : State) (n : Nat) (part : Option Nat) (h : ReqHdr) (status fill : Nat) : State :=
  if h.op = 1 ∨ h.ack ∨ status = stVersion then s.respond n part h (respTokens h (respHeader h status 0 0 0 fill) []) else s

/-- Count a rejected request of partition p (R218, R223). -/
def State.rejectPage (s : State) (n p : Nat) : State := (s.count (sbdBase n + 0x38) 1).addRejects p n

/-- Stack n answers as a lost stack for cluster c: it is lost, or no route reaches it (R233, R249). -/
def State.stackFenced (s : State) (n c : Nat) : Bool := s.stackLost n || (s.exitFrom c n).isNone

/-- What every request that stands at a stack undergoes when its turn comes (R214, R222, R223, R227, R233, R405) before `run` serves it
for its partition. A lost stack answers FENCED whatever the request holds; a page request without `ACK` asks for no response (R222). -/
def State.request (s : State) (n c : Nat) (req : List Token) (row : Bool) (run : State → Nat → ReqHdr → State) : State :=
  let h := reqOf req
  if !row || decide (24 ≤ n) || s.field (sbdBase n + 4) 0 2 = 2 || !s.turnOf n c req then s
  else
    let s := s.takeRequest n c req
    let part := s.cluPart n c
    if (part.any fun p => s.absorbs p) then s
    else if s.stackFenced n c then (if h.op = 1 ∨ h.ack then s.respond n part h (fencedTokens h) else s)
    else if !h.ok then s.respondBare n part h stVersion 0
    else match part with
      | none => s.respondBare n none h stFault 0
      | some p => if h.counts req then run s p h else (s.rejectPage n p).respondBare n part h stFault 0

/-- The entry a page request names, resolved, if it names one of partition p (R218). -/
def State.pageOf (s : State) (n p : Nat) (h : ReqHdr) : Option Pte :=
  let e := (s.pte n h.ppn).resolve (s.partStep n p)
  if decide (h.ppn < s.stackPages) && e.owned && decide (e.part = p) then some e else none

/-- A page operation: `ok` is its own condition, `op` its effect on the entry and on the rest of the state (R218). -/
def State.pageOp (s : State) (n p : Nat) (h : ReqHdr) (ok : Pte → Bool) (op : State → Pte → Pte × State) : State :=
  match s.pageOf n p h with
  | none => (s.rejectPage n p).respondBare n (some p) h stFault 0
  | some e =>
    let s := s.setPte n h.ppn e
    if !ok e then (s.rejectPage n p).respondBare n (some p) h stFault e.fill
    else
      let r := op s e
      (r.2.setPte n h.ppn r.1).respondBare n (some p) h stOk r.1.fill

/-- BF16 vector v of d elements in the body's tokens, from token i on. -/
def bf16Vector (req : List Token) (i d : Nat) : List Fp :=
  let bs := ((req.drop i).take (d / 32)).flatMap fun t => payloadBytes t.payload
  (List.range d).map fun k => fpOfBf16 (fld bs (2 * k) 2)

/-- The positions of an APPEND go to slots from `FILL` on, encoded, and what they saturate counts (R218). -/
def State.appendSlots (s : State) (n : Nat) (h : ReqHdr) (e : Pte) (req : List Token) : State :=
  let half := kvSlot e.fmt h.d / 2
  let s := (List.range h.npos).foldl (fun s i =>
    let k := kvEncode e.fmt (bf16Vector req (1 + 2 * i * (h.d / 32)) h.d)
    let v := kvEncode e.fmt (bf16Vector req (1 + (2 * i + 1) * (h.d / 32)) h.d)
    let s := s.poke (kvAddr n h.ppn e.fmt h.d (h.slot + i)) (padTo half k.1 ++ padTo half v.1)
    let s := s.count (sbdBase n + 0x60) (k.2.1 + v.2.1)
    let s := s.count (sbdBase n + 0x64) (k.2.2.1 + v.2.2.1)
    s.count (sbdBase n + 0x68) (k.2.2.2 + v.2.2.2)) s
  (s.count64 (sbdBase n + 0x30) h.npos).count64 (sbdBase n + 0x18) (h.npos * kvSlot e.fmt h.d)

/-- APPEND (R218, R227). -/
def execAppend (stack cluster : Nat) (req : List Token) (s : State) : Host.Outcome State Fault Refusal :=
  answer s (s.request stack cluster req (decide ((reqOf req).op = 2)) fun s p h =>
    s.pageOp stack p h
      (fun e => e.valid && decide (e.hdim = h.hdim) && decide (h.slot = e.fill) && decide (h.slot + h.npos ≤ kvSlots e.fmt h.d))
      (fun s e => (e.change (s.partStep stack p) (e.fill + h.npos), s.appendSlots stack h e req)))

/-- PAGE_INIT (R218). -/
def execPageInit (stack cluster : Nat) (req : List Token) (s : State) : Host.Outcome State Fault Refusal :=
  answer s (s.request stack cluster req (decide ((reqOf req).op = 3)) fun s p h =>
    s.pageOp stack p h (fun _ => kvFormat h.fmt && decide (h.slot ≤ kvSlots h.fmt h.d))
      (fun s e => ({ e with valid := true, fmt := h.fmt, hdim := h.hdim, fill := h.slot, pend := false, poison := false }, s)))

/-- PAGE_FREE (R218). -/
def execPageFree (stack cluster : Nat) (req : List Token) (s : State) : Host.Outcome State Fault Refusal :=
  answer s (s.request stack cluster req (decide ((reqOf req).op = 4)) fun s p h =>
    s.pageOp stack p h (fun _ => true) (fun s e => ({ e with valid := false, pend := false, poison := false }, s)))

/-- PAGE_TRIM (R218). -/
def execPageTrim (stack cluster : Nat) (req : List Token) (s : State) : Host.Outcome State Fault Refusal :=
  answer s (s.request stack cluster req (decide ((reqOf req).op = 5)) fun s p h =>
    s.pageOp stack p h (fun e => e.valid && decide (h.slot ≤ e.fill)) (fun s e => (e.change (s.partStep stack p) h.slot, s)))

/-! ### Passes (R224, R226) -/

/-- q · k: exact 32-element block sums, added in ascending order with one FP32 rounding each. -/
def kvDot (q k : List Fp) : Word :=
  (List.range (q.length / 32)).foldl (fun (acc : Word) b =>
    let part := (List.zipWith Fp.mul ((q.drop (32 * b)).take 32) ((k.drop (32 * b)).take 32)).foldl Fp.add .zero
    wordOfFp ((fpOfWord acc).add part)) 0

/-- One used position (R224 step 4). -/
def Partial.take (x : Partial) (scale : Word) (q k v : List Fp) : Partial :=
  let score := fmul scale (kvDot q k)
  let m := fmaxW x.m score
  let a := fexp (fsub x.m m)
  let b := fexp (fsub score m)
  let sum := fadd (fmul x.sum a) b
  let o := List.zipWith (fun w e => fadd (fmul w a) (fmul b (wordOfFp e))) x.o v
  let bad := x.nan || ([score, a, b, sum] ++ o).any fun w => (fpOfWord w).isNan
  if bad then { m := nan32, sum := nan32, o := o.map fun _ => nan32, nan := true } else { m := m, sum := sum, o := o }

/-- What a pass has gathered: the partials, position-major, and its counts. -/
structure PassRun where
  parts : List Partial
  used  : Nat := 0
  excl  : Nat := 0
  ue    : Bool := false

/-- Page list entry i: page and BASE. -/
def passPage (req : List Token) (i : Nat) : Nat × Nat :=
  let b := payloadBytes ((req.getD (2 + i / 8) { tag := 0, payload := 0 }).payload)
  let v := fld b (8 * (i % 8)) 8
  (bits v 0 20, bits v 24 24)

def passLimit (req : List Token) (j : Nat) : Nat :=
  fld (payloadBytes ((req.getD 1 { tag := 0, payload := 0 }).payload)) (4 * j) 3

/-- Position p is used by query position j. -/
def ReqHdr.uses (h : ReqHdr) (limit p : Nat) : Bool :=
  decide (p ≤ limit) && (decide (h.window = 0) || decide (limit < p + h.window))

/-- One page of a pass: excluded, walked, or, after an uncorrectable error, poisoned and left out. -/
def State.passPageRun (s : State) (n p : Nat) (h : ReqHdr) (req : List Token) (qs : List (List Fp)) (i : Nat) (x : PassRun) : State × PassRun :=
  let g := passPage req i
  let own := decide (g.1 < s.stackPages) && (s.pte n g.1).owned && decide ((s.pte n g.1).part = p)
  let e := (s.pte n g.1).resolve (s.partStep n p)
  let s := if own then s.setPte n g.1 e else s
  if !own || !e.valid || e.poison || decide (e.hdim ≠ h.hdim) then (s, { x with excl := x.excl + 1 })
  else
    let rs := kvSlot e.fmt h.d
    let s := s.count64 (sbdBase n + 0x20) (e.fill * rs)
    let r := s.readErrors (kvAddr n g.1 e.fmt h.d 0) (e.fill * rs)
    if r.2 then (r.1.setPte n g.1 { e with poison := true }, { x with used := x.used + e.fill, ue := true })
    else
      let walk := (List.range e.fill).foldl (fun (a : List Partial × Nat) t =>
        let bs := memRead s.mem (kvAddr n g.1 e.fmt h.d t) rs
        let k := kvDecode e.fmt h.d bs
        let v := kvDecode e.fmt h.d (bs.drop (rs / 2))
        let upd := fun (y : Nat × Partial) =>
          if h.uses (passLimit req (y.1 / h.hq)) (g.2 + t) then y.2.take h.scale (qs.getD y.1 []) k.1 v.1 else y.2
        ((List.zip (List.range a.1.length) a.1).map upd, a.2 + k.2 + v.2)) (x.parts, 0)
      (r.1.count (sbdBase n + 0x74) walk.2, { x with parts := walk.1, used := x.used + e.fill })

/-- Run a pass and queue its response (R224 to R226). -/
def State.runPass (s : State) (n p : Nat) (h : ReqHdr) (req : List Token) : State :=
  let q0 := 2 + ceilDiv h.npages 8
  let qs := (List.range (h.hq * h.npos)).map fun y => bf16Vector req (q0 + y * (h.d / 32)) h.d
  let r := (List.range h.npages).foldl (fun (a : State × PassRun) i => a.1.passPageRun n p h req qs i a.2)
    (s, { parts := List.replicate (h.hq * h.npos) (Partial.start h.d) })
  let x := r.2
  let s := r.1.count64 (sbdBase n + 0x28) 1
  let s := s.count (sbdBase n + 0x3C) x.excl
  let s := s.count (sbdBase n + 0x68) (x.parts.filter fun y => y.nan).length
  let duty := decide (s.field (sbdBase n + 4) 4 3 ≠ 0)
  let st := if x.ue then stFault else if 0 < x.excl then stPartial else stOk
  s.respond n (some p) h (respTokens h (respHeader h st x.used x.excl (b2n x.ue + b2n duty * 2) 0) (respBody h x.parts))

/-- PASS (R222 to R228). A pass takes one of 16 units, which it keeps until its response has left (R215, R228), and starts no page while
SHED_L is asserted or the duty is 0% (R229, R230). A request of a reserved `OP` is answered here with VERSION. -/
def execPass (stack cluster : Nat) (req : List Token) (s : State) : Host.Outcome State Fault Refusal :=
  answer s (
    let op := (reqOf req).op
    let busy := decide (16 ≤ ((s.stack stack).replies.filter fun r => r.pass).length)
    let held := !s.stackFenced stack cluster && (s.field pwrBase 3 1 = 1 || s.field (sbdBase stack + 4) 4 3 = 4 || (busy && decide (op = 1)))
    s.request stack cluster req ((decide (op < 2) || decide (5 < op)) && !held) fun s p h => s.runPass stack p h req)

/-! ### Sending responses (R215, R225) -/

/-- The reply endpoint: a resident queue endpoint of the partition. -/
def State.replyTo (s : State) (x : Reply) : Option (Nat × Nat) :=
  match x.part, s.endpointRec x.eid with
  | some p, some (q, i) => if p = q ∧ (s.resFind x.eid).isSome = true then some (q, i) else none
  | _, _ => none

/-- Tokens of the loop to a reply endpoint that are sent and not popped (R133, R281). -/
def State.replyLoop (s : State) (n : Nat) (eid : BitVec 24) (r : Inbound) : Nat :=
  let mine := s.moving.filter fun m => decide (m.pkt.dest = eid) && decide (m.pkt.src.toNat = 0xFFFFC0 + n)
  let flying := (mine.map fun m => bits m.pkt.addr.toNat 0 6 + 1).foldl (· + ·) 0
  flying + r.land.length + r.bal.length + ((s.core r.consHart).inQ r.consQ).tokens.length

/-- The next tokens of a response have credit. -/
def State.replyCredit (s : State) (n : Nat) (x : Reply) : Bool :=
  match s.replyTo x with
  | none => true
  | some (q, i) => match s.inbound q i with
    | none => true
    | some r => decide (s.replyLoop n x.eid r + (packetRun 62 x.tokens).length ≤ 80 + r.b)

/-- PASS_RESPONSE (R215, R225): the next packet of the first response that has credit leaves, of class REPLY (R291); one to any EID but a
resident endpoint of the requester's partition is dropped. -/
def execPassResponse (stack : Nat) (s : State) : Host.Outcome State Fault Refusal :=
  answer s (
    let x := s.stack stack
    match x.replies.find? fun r => s.replyCredit stack r with
    | none => s
    | some r =>
      let rest := x.replies.erase r
      if (s.replyTo r).isNone then (s.setStack stack { x with replies := rest }).count (sbdBase stack + 0x70) 1
      else
        let run := packetRun 62 r.tokens
        let left := { r with tokens := r.tokens.drop run.length, begun := true }
        let s := s.setStack stack { x with replies := if left.tokens = [] then rest
                                                      else x.replies.map fun y => if y = r then left else y }
        let k := tokensPacket r.eid (BitVec.ofNat 24 (0xFFFFC0 + stack)) run
        s.launch (agStack + stack) ({ k with cls := 2 }).sealed)

/-! ### Sweep and discard (R219, R220) -/

/-- PAGE_TABLE_SWEEP (R219, R220): every entry is resolved, and discards made before are complete. -/
def execPageTableSweep (stack : Nat) (s : State) : Host.Outcome State Fault Refusal :=
  answer s (
    let x := s.stack stack
    let s := x.pte.foldl (fun s e =>
      let v := s.pte stack e.1
      if v.owned then s.setPte stack e.1 (v.resolve (s.partStep stack v.part)) else s) s
    (List.range 64).foldl (fun s p => s.setField (sbdBase stack + 0x200 + 4 * p) 18 1 0) s)

/-- A request packet of partition q is on its way to a stack: in a send buffer, unacknowledged, in the fabric, or whole
and not yet applied (R220). -/
def State.requestsFly (s : State) (q : Part) : Bool :=
  let cs := q.clusters
  let eids := cs.map s.cluEid
  let groups := fun (l : List Token) => (chunkGroups l.length l).any fun g => (reqOf g).op ≠ 1
  cs.any (fun c => (s.clu c).sendBuf.any fun p => isAttention p.dest)
    || s.sends.any (fun f => isAttention f.key.dest && decide (f.unack ≠ []) && eids.contains f.key.src)
    || s.moving.any (fun m => isAttention m.pkt.dest && eids.contains m.pkt.src)
    || (List.range 24).any fun n => cs.any fun c => groups (tget [] (s.stack n).inbox c)

/-- A token list without its whole pass groups; the first argument bounds the search. -/
def dropPasses : Nat → List Token → List Token
  | 0, l => l
  | f + 1, l =>
    let r := firstGroup false l
    if !r.2.1 then l else (if (reqOf r.1).op = 1 then [] else r.1) ++ dropPasses f r.2.2

/-- The passes of a partition with clusters cs that wait at a stack are gone (R220). -/
def Stack.withoutPasses (x : Stack) (cs : List Nat) : Stack :=
  let gone := fun (g : Nat × List Token) => cs.contains g.1 && decide ((reqOf g.2).op = 1)
  { x with
    order := (x.groups.filter fun g => !gone g).map (·.1),
    inbox := (x.inbox.map fun e => if cs.contains e.1 then (e.1, dropPasses e.2.length e.2) else e).filter fun e => decide (e.2 ≠ []) }

/-- Partition p's passes at stack n, queued or running, end without response (R220 step 1). -/
def State.endPasses (s : State) (n p : Nat) (cs : List Nat) : State :=
  let x := (s.stack n).withoutPasses cs
  s.setStack n { x with replies := x.replies.filter fun r => !(r.pass && decide (r.part = some p)) }

/-- The discard of partition p at stack n: parts of requests go, the discarded tag is its step count's, the generation moves on and the
discard is pending (R220 step 2). -/
def State.discardAt (s : State) (n p : Nat) (q : Part) : State :=
  let a := sbdBase n + 0x200 + 4 * p
  let x := s.stack n
  let s := s.setStack n { x with inbox := x.inbox.filter (fun e => !q.clusters.contains e.1), order := x.order.filter fun c => !q.clusters.contains c }
  ((s.setField a 8 8 (q.stepCount.toNat % 256)).setField a 16 2 ((s.field a 16 2 + 1) % 4)).setField a 18 1 1

/-- STACK_DISCARD (R220): the partition's passes end first; once the sweep of the last discard has passed and every page request that is
under way has been applied, the discard is made. -/
def execStackDiscard (part : Nat) (s : State) : Host.Outcome State Fault Refusal :=
  answer s (match s.part part with
    | none => s
    | some q =>
      if !q.discardDue then s
      else
        let s := (List.range 24).foldl (fun s n => s.endPasses n part q.clusters) s
        let pend := (List.range 24).any fun n => s.field (sbdBase n + 0x200 + 4 * part) 18 1 = 1
        if pend || s.requestsFly q then s
        else
          let s := (List.range 24).foldl (fun s n => s.discardAt n part q) s
          s.modPart part fun q => { q with discardDue := false })

/-! ### Errors (R212, R217) -/

/-- DRAM_UE (R212): the next read of the 64-byte unit reports an uncorrectable error. -/
def execDramUe (stack : Nat) (offset : BitVec 36) (s : State) : Host.Outcome State Fault Refusal :=
  answer s (
    let x := s.stack stack
    let u := offset.toNat / 64 * 64
    onlyIf (decide (stack < 24) && decide (u < s.stackBytes) && !s.stackLost stack && !x.ueUnits.contains u) s
      (s.setStack stack { x with ueUnits := x.ueUnits ++ [u] }))

/-- PAGE_TABLE_UE (R217). -/
def execPageTableUe (stack page : Nat) (s : State) : Host.Outcome State Fault Refusal :=
  answer s (onlyIf (decide (stack < 24) && decide (page < s.stackPages)) s (s.pageError stack page))

/-- PATROL_SCRUB (R212): the read of a row reports the uncorrectable errors that stand in it; a row whose read reported a corrected error
is counted and written back as it was read. -/
def execPatrolScrub (stack row : Nat) (corrected : Bool) (s : State) : Host.Outcome State Fault Refusal :=
  answer s (onlyIf (decide (stack < 24) && decide (row < 16384) && !s.stackLost stack) s (
    let s := (s.reportUnits stack fun u => decide ((dramPlace u).row = row)).1
    if corrected then s.count (sbdBase stack + 0x40) 1 else s))

/-! ### Temperature (R230) -/

/-- Row of R230 that a temperature falls in. -/
def heatRow (t : Nat) : Nat := if t < 85 then 0 else if t < 90 then 1 else if t < 92 then 2 else if t < 94 then 3 else if t < 95 then 4 else if t < 100 then 5 else 6

/-- Lower threshold of a row. -/
def heatFloor (r : Nat) : Nat := [0, 85, 90, 92, 94, 95, 100].getD r 0

/-- `DUTY` of a row. -/
def heatDuty (r : Nat) : Nat := [0, 0, 1, 2, 3, 4, 4].getD r 0

/-- The row that comes into force at a reading, and since when the stack has stayed cooler. -/
def Stack.cooled (x : Stack) (t now : Nat) : Nat × Option Nat :=
  if x.heat < heatRow t then (heatRow t, none)
  else if x.heat = 6 then (if t < 90 then (heatRow t, none) else (6, none))
  else if heatFloor x.heat < t + 2 then (x.heat, none)
  else match x.coolAt with
    | none => (x.heat, some now)
    | some a => if a + usec 1000 ≤ now then (heatRow t, none) else (x.heat, some a)

/-- A WARNING of a stack raises the flow target by 10%, a CRITICAL event lowers the stack limit by 1.0 kW (R375). -/
def State.stackHeat (s : State) (warning critical : Bool) : State :=
  let w := s.power
  let w := if warning then { w with qStar := w.qStar * 11 / 10 } else w
  { s with power := if critical then { w with stackLimit := w.stackLimit - 100, stackAt := some s.now } else w }

/-- STACK_TEMP_SAMPLE (R230, R375). -/
def execStackTempSample (stack : Nat) (t : List Nat) (s : State) : Host.Outcome State Fault Refusal :=
  answer s (
    if 24 ≤ stack ∨ s.stackLost stack then s
    else
      let x := s.stack stack
      let T := t.foldl Nat.max 0
      let a := sbdBase stack
      let s := s.setField (a + 8) 0 8 T
      let s := s.setField (a + 8) 8 8 (Nat.max T (s.field (a + 8) 8 8))
      let r := x.cooled T s.now
      let h := r.1
      let warn := fun (s : State) (row code sev : Nat) =>
        if x.heat < row ∧ row ≤ h then s.record code sev noPart 0 (onStack stack) (u8 T) else s
      let s := warn (warn (warn s 2 0x0404 3) 5 0x0405 5) 6 0x0406 5
      let s := (s.setTemps (156 + stack) 0 t).stackHeat (decide (x.heat < 2 ∧ 2 ≤ h)) (decide ((x.heat < 5 ∧ 5 ≤ h) ∨ (x.heat < 6 ∧ h = 6)))
      let s := s.setField (a + 4) 4 3 (heatDuty h)
      let s := s.setField (a + 4) 7 1 (b2n (decide (1 ≤ h) && decide (h ≤ 5)))
      let s := if h = 6 then s.setField (a + 4) 0 2 2 else if x.heat = 6 then s.setField (a + 4) 0 2 1 else s
      let s := s.setStack stack { x with heat := h, coolAt := r.2 }
      if x.heat = 6 ∧ h ≠ 6 then s.serveHeld else s)

/-! ### Loss (R232, R233) -/

/-- The bytes of stack n's window go. -/
def State.forgetHbm (s : State) (n : Nat) : State := { s with mem := s.mem.filter fun c => decide (stackOf c.1 ≠ n) }

/-- A stack is lost: its data, page table and pages go, and what it has not answered is answered FENCED (R233). -/
def State.loseStack (s : State) (n cause : Nat) : State :=
  if s.stackLost n then s
  else
    let x := s.stack n
    let swap := fun (r : Reply) => if r.begun then r else { r with tokens := r.fenced }
    let s := s.setStack n { x with pte := [], ueUnits := [], replies := x.replies.map swap, lostBy := some cause }
    let s := s.forgetHbm n
    let s := s.setField (sbdBase n + 4) 0 2 3
    let s := s.record 0x0408 5 noPart 0 (onStack n) (u8 cause)
    if s.mgtField 8 0 3 = 2 then s.setPanelState 3 else s

/-- STACK_LOST (R232, R233). -/
def execStackLost (stack cause : Nat) (s : State) : Host.Outcome State Fault Refusal :=
  answer s (onlyIf (decide (stack < 24) && decide (cause < 4)) s (s.loseStack stack cause))

/-- Neither memory seam of stack n can work: both of its sites are out of use (R213). -/
def State.seamless (s : State) (n : Nat) : Bool :=
  let site := (if n < 12 then 0 else 143) + n % 12
  !s.inUse site && !s.inUse (site + 1)

/-- A stack that has no working seam left is lost with cause 2 (R213, R232). -/
def State.loseSeamless (s : State) : State :=
  (List.range 24).foldl (fun s n => if s.seamless n && decide (s.field (sbdBase n + 4) 0 2 ≠ 0) then s.loseStack n 2 else s) s

/-! ### Channel retraining (R231) -/

/-- The next channel of stack n that waits for a retrain begins it. -/
def State.retrainNext (s : State) (n : Nat) : State :=
  let x := s.stack n
  match x.retrainDue with
  | [] => s
  | (ch, cmd) :: rest => (s.setStack n { x with retrainDue := rest }).retrainStart n ch cmd

/-- End the command that asked for a retrain, if one did. -/
def State.retrainEnds (s : State) (cmd : Option Nat) (status : Nat) : State :=
  match cmd with
  | none => s
  | some id => s.finishNoted id status 0 0

/-- An attempt to retrain the channel at work on stack n ends (R231): recorded; a failure is retried, and the third within an hour fails the
channel and loses the stack, and with it every retrain that waits. -/
def State.retrainOne (s : State) (n : Nat) (ok : Bool) : State :=
  let x := s.stack n
  match x.retrain with
  | none => s
  | some (ch, cmd) =>
    let a := sbdBase n + 0x100 + 4 * ch
    let s := s.record 0x0407 2 noPart 0 (onStack n ch) (u8 (b2n (!ok)))
    let idle := fun (s : State) (st : Nat) => ((s.setField (sbdBase n + 4) 8 1 0).setField a 0 2 st).setStack n { s.stack n with retrain := none }
    if ok then ((idle s 0).retrainEnds cmd stOk).retrainNext n
    else
      let x := { x with fails := (s.trust.opTime, ch) :: x.fails }
      let k := x.failsOf ch s.trust.opTime
      let s := (s.setStack n x).setField a 8 2 k
      if k < 3 then s.retrainGo n ch cmd
      else
        let due := x.retrainDue
        let s := (idle s 2).addDefect 1 13 kChannel (dieOfStack n) ch 0
        let s := (s.setStack n { s.stack n with retrainDue := [] }).loseStack n 1
        due.foldl (fun s e => s.retrainEnds e.2 stFault) (s.retrainEnds cmd stFault)

/-- CHANNEL_RETRAIN (R231): an attempt at the channel that is being retrained ends, well or not; of any other channel, its training monitor
calls for a retrain. -/
def execChannelRetrain (stack channel : Nat) (ok : Bool) (s : State) : Host.Outcome State Fault Refusal :=
  answer s (
    if ((s.stack stack).retrain.map (·.1)) = some channel then s.retrainOne stack ok else s.retrainStart stack channel none)

end Sys2Proof.Machine
end

