-- ==== Sys2Proof/Machine/Fabric.lean ====
section
/-! DEFINITION. Seams (R252 to R256): words, retry, slips and late units, retraining and half width, and the fabric's
tables (R241, R244, R257). -/

namespace Sys2Proof.Machine

/-! ### Words (R252, R253) -/

/-- CRC-32C (R252). -/
def crc32c (bs : Bytes) : Nat := Nat.xor (crcRefl 0x82F63B78 0xFFFFFFFF bs) 0xFFFFFFFF

/-- The word of eight units. -/
def seamWordOf (us : List (BitVec 552)) (seq : BitVec 3) (replay : Bool) : Bytes :=
  let b := us.flatMap (fun u => natLe 69 u.toNat) ++ natLe 1 (seq.toNat + b2n replay * 8)
  b ++ natLe 4 (crc32c b)

/-- The unit of lane l of a word. -/
def wordUnit (w : Bytes) (l : Nat) : BitVec 552 := BitVec.ofNat 552 (fld w (69 * l) 69)

def wordSeq (w : Bytes) : BitVec 3 := BitVec.ofNat 3 (fld w 552 1)
def wordReplay (w : Bytes) : Bool := bitOf (fld w 552 1) 3

def wordOk (w : Bytes) : Bool := decide (w.length = 557) && decide (crc32c (w.take 553) = fld w 553 4)

/-- The same word as a resend (R253). -/
def replayed (w : Bytes) : Bytes := seamWordOf ((List.range 8).map (wordUnit w)) (wordSeq w) true

/-- Lanes of a word that a seam carries (R256). -/
def State.seamLanes (s : State) (p : PortRef) : Nat := if s.halfSeam p then 4 else 8

/-! ### Sending (R244, R246, R250, R253) -/

/-- The packet under way, with its leg, that has a unit of a pair for an output port, and room at the far end (R250). -/
def State.readyUnit (s : State) (out : PortRef) (pair : Nat) : Option (Nat × Nat) :=
  match s.peer out with
  | none => none
  | some t =>
    if s.unitRoom t.key pair = 0 then none
    else (List.range s.moving.length).findSome? fun i => match s.moving[i]? with
      | none => none
      | some m =>
        if m.pair ≠ pair then none
        else (List.zip (List.range m.legs.length) m.legs).findSome? fun e =>
          if e.2.key / 5 = out.blk ∧ s.legOut m e.1 e.2 = out.port ∧ e.2.sent < e.2.got ∧ (0 < e.2.sent ∨ !s.outBusy m out) then some (i, e.1) else none

/-- The pairs that have a unit ready at an output port. -/
def State.readyPairs (s : State) (out : PortRef) : List Nat := (List.range 8).filter fun q => (s.readyUnit out q).isSome

/-- The pair served next: one that has waited 256 cycles, the longest first; else round-robin (R250). -/
def State.nextPair (s : State) (out : PortRef) : Option Nat :=
  let x := s.seam out
  let ready := s.readyPairs out
  let old := ready.foldl (fun best q =>
    let n := tget 0 x.waits q
    match best with
    | none => if 256 ≤ n then some q else none
    | some b => if tget 0 x.waits b < n then some q else best) none
  match old with
  | some q => some q
  | none => ((List.range 8).map fun k => (x.turn + 1 + k) % 8).find? ready.contains

/-- The next unit of a pair goes into a word. -/
def State.sendUnit (s : State) (out : PortRef) (pair : Nat) : State × BitVec 552 :=
  match s.readyUnit out pair, s.peer out with
  | some (i, j), some t => match s.moving[i]? with
    | none => (s, 0)
    | some m => match m.legs[j]? with
      | none => (s, 0)
      | some l =>
        let ls := m.legs.set j { l with sent := l.sent + 1 }
        let s := s.setMoving i { m with legs := if j = 0 then ⟨t.key, 0, 0⟩ :: ls else ls }
        let x := s.seam out
        (s.setSeam out { x with turn := pair, waits := tset 0 x.waits pair 0 }, packetUnitAt m.pkt m.net l.sent)
  | _, _ => (s, 0)

/-- What lane l of the word in an output port's next place carries: the circuit unit of its slot, else a packet unit, which lends a circuit's
slot or a replay cycle (R244, R246). -/
def State.fillLane (out : PortRef) (r : State × List (BitVec 552)) (l : Nat) : State × List (BitVec 552) :=
  let s := r.1
  let x := s.seam out
  match x.out.find? fun e => decide (e.1 = x.next) && decide (e.2.1 = l) with
  | some e => ((s.setSeam out { x with out := x.out.erase e }).count64 (portReg out 8) 1, r.2 ++ [withLane e.2.2 0])
  | none =>
    if s.seamLanes out ≤ l then (s, r.2 ++ [0])
    else match s.nextPair out with
      | none => (s, r.2 ++ [0])
      | some q =>
        let g := s.sendUnit out q
        let k := x.next % s.frameLen
        let lent := decide (k + 1 = s.frameLen) || !bitOf (s.slotEntry out.blk out.port k l) 15
        ((g.1.count64 (portReg out 0x10) 1).count64 (portReg out 0x20) (b2n lent), r.2 ++ [g.2])

/-- A port's place after a word: one that runs late is on time again after the replay cycle, in which no new word goes (R253). -/
def catchUp (frame place late : Nat) : Nat × Nat :=
  if (place + 1) % frame = 0 ∧ 0 < late then (place + 1, late - 1) else (place, late)

/-- An output port sends one word over its seam (R253): the one that is to be sent again, ahead of any new word, or a new one. -/
def State.sendWord (s : State) (out : PortRef) : State :=
  let x := s.seam out
  match x.again with
  | some _ => s.setSeam out { x with again := none, owed := x.owed + 1 }
  | none =>
    let ready := s.readyPairs out
    let g := (List.range 8).foldl (State.fillLane out) (s, [])
    let s := g.1
    let y := s.seam out
    let waits := (List.range 8).foldl (fun w q =>
      if !ready.contains q then tset 0 w q 0 else if y.turn = q && tget 0 w q = 0 then w else tset 0 w q (tget 0 w q + 1)) y.waits
    let at_ := catchUp s.frameLen (y.next + 1) y.owed
    let sent := y.sent ++ [seamWordOf g.2 y.seq false]
    s.setSeam out { y with seq := y.seq + 1, next := at_.1, owed := at_.2, waits := waits, sent := sent.drop (sent.length - 8) }

/-! ### Receiving (R252 to R254) -/

/-- A packet unit arrives over a seam (R246, R250): the next one of a packet under way there, or one of a packet that comes from outside the
compute grid, which this router resolves once it is whole (R284). A unit for which the buffer has no room is not taken. -/
def State.packetUnit (s : State) (p : PortRef) (u : BitVec 552) : State :=
  let due := (List.range s.moving.length).findSome? fun i => match s.moving[i]? with
    | none => none
    | some m => (List.range (m.legs.length - 1)).findSome? fun j => match m.legs[j]?, m.legs[j + 1]? with
      | some l, some up => if l.key = p.key ∧ l.got < up.sent ∧ packetUnitAt m.pkt m.net l.got = u then some (i, j) else none
      | _, _ => none
  match due with
  | some (i, j) => match s.moving[i]? with
    | none => s
    | some m => (s.setMoving i { m with legs := m.legs.modify j fun l => { l with got := l.got + 1 } }).notePeak p
  | none =>
    if s.unitRoom p.key (unitPair u) = 0 then s
    else
      let x := s.seam p
      let mine := x.units.filter fun v => decide (unitPair v = unitPair u)
      let all := (if unitHead u then [] else mine) ++ [u]
      let others := x.units.filter fun v => decide (unitPair v ≠ unitPair u)
      let t := (s.setSeam p { x with units := others ++ all }).notePeak p
      if !unitTail u then t
      else match s.blkCluster p.blk with
        | none => t
        | some c =>
          let k := packetOf (all.flatMap fun v => natLe 64 (v.setWidth 512).toNat)
          (t.setSeam p { x with units := others }).sourceRoute (s.resolve (homeLink c) k.dest) c c p.port k

/-- The units of a good word go to their places. A unit of the place n of the seam's words stands at the router in the frame cycle of n and
the hop's cycles (R242, R245); after a slip every circuit unit is late (R254). Seams to other dies than compute dies carry packet units alone
(R252), and a half-width seam its lower lanes. -/
def State.takeWord (s : State) (p : PortRef) (w : Bytes) (place : Nat) (late : Bool) : State :=
  (List.range (s.seamLanes p)).foldl (fun s l =>
    let u := wordUnit w l
    if !unitValid u then s
    else if unitPkt u then s.packetUnit p u
    else if (s.peer p).isNone then s.count (fabBase p.blk + 8) 1
    else s.carry p.blk p.port ((place + hopCycles p) % s.frameLen) l (if late then markLate u else u)) s

/-- The receiver accepts a word in order: after a resend its words are late by one more, and after the second in a frame, or while they are
late by two, their circuit units are late (R253, R254). -/
def State.acceptWord (s : State) (p : PortRef) (w : Bytes) : State :=
  let x := s.seam p
  let behind := x.behind + b2n (wordReplay w)
  let at_ := catchUp s.frameLen (x.place + 1) behind
  let late := decide (2 ≤ x.resends) || decide (2 ≤ behind)
  let y := { x with expect := x.expect + 1, nak := false, place := at_.1, behind := at_.2, resends := if at_.1 % s.frameLen = 0 then 0 else x.resends }
  (s.setSeam p y).takeWord p w x.place late

/-- Words in order from the expected number on. -/
def State.drainWords (s : State) (p : PortRef) : Nat → State
  | 0 => s
  | n + 1 =>
    let x := s.seam p
    match x.ahead.find? fun e => decide (e.1 = x.expect.toNat) with
    | none => s
    | some e => ((s.setSeam p { x with ahead := x.ahead.erase e }).acceptWord p e.2).drainWords p n

/-- The circuit units of a word would overfill a late queue (R254). -/
def State.lateFull (s : State) (p : PortRef) (w : Bytes) : Bool :=
  let x := s.seam p
  let late := decide (2 ≤ x.resends) || decide (2 ≤ x.behind + b2n (wordReplay w))
  let to_ := (List.range 8).filterMap fun l =>
    let u := wordUnit w l
    if unitValid u && !unitPkt u then
      match (s.circWay l (unitCirc u) (late || unitLate u) 4 p.blk p.port ((x.place + hopCycles p) % s.frameLen)).2 with
      | .late out => some out
      | _ => none
    else none
  to_.any fun o => decide (lateDepth < (s.seam o).late.length + (to_.filter fun q => decide (q = o)).length)

/-- The end of a seam that keeps what is reported of both: the one with the lower key. -/
def State.seamHome (s : State) (p : PortRef) : PortRef :=
  match s.peer p with | none => p | some o => if o.key < p.key then o else p

/-- A slip at a port: counted, and recorded at most once in a second for the seam (R254). -/
def State.slip (s : State) (p : PortRef) : State :=
  let s := s.count (portReg p 0x2C) 1
  let h := s.seamHome p
  let x := s.seam h
  let n := x.slips + 1
  let quiet := match x.slipAt with | none => true | some t => decide (t + usec 1000000 ≤ s.now)
  if quiet then
    (s.setSeam h { x with slips := 0, slipAt := some s.now }).record 0x0502 2 noPart 0 (onSite p.site (p.quad * 8 + p.port))
      (u32 n ++ u16 (match s.peer p with | none => p.site | some o => o.site))
  else s.setSeam h { x with slips := n }

/-- The port crosses an enabled seam of this panel that is not offline (R237, R255). -/
def State.seamRuns (s : State) (p : PortRef) : Bool :=
  p.valid && p.onSeam && s.inUse p.site && (s.portState p == 1)

/-- SEAM_WORD (R252 to R254): the fabric sends one word over the seam into port p, and `word` arrives there. A failed check is answered with a
negative acknowledgement, and the words behind the failed one wait for its resend; a full late queue stops the seam, which slips. -/
def execSeamWord (p : PortRef) (word : Bytes) (s : State) : Host.Outcome State Fault Refusal :=
  answer s (
    if !s.seamRuns p then s
    else if wordOk word && s.lateFull p word then s.slip p
    else
      let s := match s.peer p with | none => s | some o => s.sendWord o
      let x := s.seam p
      if !wordOk word then s.setSeam p { x with nak := true }
      else if wordSeq word = x.expect then ((((s.acceptWord p word).drainWords p 8).settleNet 16).settleSlots)
      else if x.nak ∧ !x.ahead.any (fun e => decide (e.1 = (wordSeq word).toNat)) then
        s.setSeam p { x with ahead := x.ahead ++ [((wordSeq word).toNat, word)] }
      else s)

/-! ### Retraining (R255) -/

/-- Circuit units of words, with their lanes. -/
def wordsLate (ws : List Bytes) : List (BitVec 552) :=
  ws.flatMap fun w => (List.range 8).filterMap fun l =>
    let u := wordUnit w l
    if unitValid u && !unitPkt u then some (withLane (markLate u) l) else none

/-- What an end of a seam holds when the seam goes offline: its units wait as late units, those of words that have not been passed on first. -/
def SeamEnd.stopped (x : SeamEnd) (unpassed : List Bytes) : SeamEnd :=
  { x with
    expect := 0, place := 0, behind := 0, nak := false, resends := 0, recent := [], ahead := [],
    seq := 0, next := 0, owed := 0, again := none, sent := [], out := [],
    late := wordsLate unpassed ++ (x.out.map fun e => withLane (markLate e.2.2) e.2.1) ++ x.late, offline := true }

/-- Packet units that a seam carried and that have not arrived are to be sent again. -/
def Moving.resync (m : Moving) (keys : List Nat) : Moving :=
  { m with legs := (List.zip (List.range m.legs.length) m.legs).map fun e => match e.1, m.legs[e.1 - 1]? with
      | 0, _ => e.2
      | _, some d => if keys.contains d.key then { e.2 with sent := d.got } else e.2
      | _, none => e.2 }

/-- The seam at port p goes offline (R255). -/
def State.takeOffline (s : State) (p : PortRef) : State :=
  let es := s.ends p
  let ws := es.map fun q => (q, s.unpassed q)
  let s := ws.foldl (fun s e => (s.setSeam e.1 ((s.seam e.1).stopped e.2)).noteLate e.1) s
  { s with moving := s.moving.map fun m => m.resync (es.map PortRef.key) }

/-- SEAM_RESEND (R253 to R255): the sender of the seam into port p answers a negative acknowledgement: it sends the failed word again, with
`REPLAY` set, ahead of any new word. The resend counts at the receiver; the second in a frame is a slip, and more than 64 within 1 ms start a
retrain. -/
def execSeamResend (p : PortRef) (s : State) : Host.Outcome State Fault Refusal :=
  answer s (
    let x := s.seam p
    if !s.seamRuns p ∨ !x.nak then s
    else
      let recent := s.now :: x.recent.filter fun t => decide (s.now < t + usec 1000)
      let s := (s.setSeam p { x with nak := false, resends := x.resends + 1, recent := recent }).count (portReg p 0x28) 1
      let s := match s.peer p with
        | none => s
        | some o =>
          let y := s.seam o
          s.setSeam o { y with again := (y.sent.find? fun w => decide (wordSeq w = x.expect)).map replayed }
      let s := if x.resends + 1 = 2 then s.slip p else s
      if 64 < recent.length then s.takeOffline p else s)

/-! ### Late units (R254) -/

/-- The first place at a seam from its next word on whose slot of this lane no unit has, behind the circuit's own units. -/
def SeamEnd.freePlace (x : SeamEnd) (frame lane circ : Nat) : Nat :=
  let own := (x.out.filter fun e => decide (unitCirc e.2.2 = circ)).map (·.1)
  let n := own.foldl (fun m k => Nat.max m (k + 1)) x.next
  let ok := fun k => decide ((k + 1) % frame ≠ 0) && !x.out.any fun e => decide (e.1 = k) && decide (e.2.1 = lane)
  (((List.range (2 * x.out.length + 3)).map (n + ·)).find? ok).getD (n + 2 * x.out.length + 3)

/-- LATE_UNIT_SEND (R254): the first late unit of a lane leaves by output port p in the first free slot of its lane, unless the queue that it
comes to is full. -/
def execLateUnitSend (p : PortRef) (lane : Nat) (s : State) : Host.Outcome State Fault Refusal :=
  answer s (
    let x := s.seam p
    match x.late.find? fun u => decide (unitLane u = lane) with
    | none => s
    | some u =>
      let gone := ((s.setSeam p { x with late := x.late.erase u }).noteLate p).count (portReg p 0x30) 1
      let v := withLane u 0
      if x.offline then s
      else if p.port = 4 then (if s.routerResets p.blk then gone else (gone.count64 (portReg p 8) 1).landUnit p.blk v).settleSlots
      else if p.onSeam then
        let n := x.freePlace s.frameLen lane (unitCirc u)
        let y := gone.seam p
        gone.setSeam p { y with out := y.out ++ [(n, lane, v)] }
      else match s.peer p with
        | none => s
        | some t =>
          let full := match (s.circWay lane (unitCirc u) true 4 t.blk t.port 0).2 with
            | .late o => decide (lateDepth ≤ (s.seam o).late.length)
            | _ => false
          if full then s else (((gone.count64 (portReg p 8) 1).carry t.blk t.port 0 lane v).settleSlots))

/-! ### Width (R256) -/

/-- The panel's degraded state follows a loss (R383). -/
def State.degrade (s : State) : State := if s.mgtField 8 0 3 = 2 then s.setPanelState 3 else s

/-- A seam trains at half width (R256): the die whose rod has a spare left, the lower site where both have, is retired
at the next step boundary; without a spare the seam stays so. -/
def State.halfWidth (s : State) (p : PortRef) : State :=
  if s.sparing.halfSeams.any (fun q => (s.ends p).contains q) then s
  else
    let other := (s.peer p).map (·.site)
    let s := { s with sparing := { s.sparing with halfSeams := s.sparing.halfSeams ++ [p] } }
    let s := (s.record 0x0504 3 noPart 0 (onSite p.site (p.quad * 8 + p.port)) (u16 (other.getD p.site))).degrade
    match other with
    | none => s
    | some o =>
      let a := Nat.min p.site o
      let b := Nat.max p.site o
      if s.hasSpare (a / 13) then s.retireDie a 11 none true
      else if s.hasSpare (b / 13) then s.retireDie b 11 none true else s

/-- The retrain of the seam at port p ends: it has replaced the wires of `badWires` in the direction that port p sends, and the seam runs again,
its routers' frame counters restarted in step (R255). -/
def State.endRetrain (s : State) (p : PortRef) (badWires : Nat) : State :=
  let bad := onesOf badWires 64
  let n := s.replaced p + bad.length
  let s := (s.ends p).foldl (fun s q =>
    let s := (s.setSeam q { s.seam q with offline := false }).count (portReg q 0x34) 1
    s.record 0x0503 2 noPart 0 (onSite q.site (q.quad * 8 + q.port))
      (u32 (s.reg (portReg q 0x34)).toNat ++ u16 (match s.peer q with | none => q.site | some o => o.site))) s
  let s := (s.restartFrames ((s.ends p).map PortRef.blk)).settleNet 16
  let s := bad.foldl (fun s w => s.addDefect 1 11 kWire p.site (p.quad * 8 + p.port) w) s
  if spareWires < n then s.halfWidth p else s.setField (portReg p 0x38) 8 8 n

/-- A whole retrain of the seam at port p. -/
def State.retrainPort (s : State) (p : PortRef) (badWires : Nat) : State := (s.takeOffline p).endRetrain p badWires

/-- SEAM_RETRAIN (R255): the first takes the seam offline, the next ends the retrain with the wires that it found bad. -/
def execSeamRetrain (p : PortRef) (badWires : Nat) (s : State) : Host.Outcome State Fault Refusal :=
  answer s (if (s.seam p).offline then s.endRetrain p badWires else onlyIf (s.seamRuns p) s (s.takeOffline p))

/-- SEAM_HALF_WIDTH (R256). -/
def execSeamHalfWidth (p : PortRef) (s : State) : Host.Outcome State Fault Refusal :=
  answer s (onlyIf (s.seamRuns p) s (s.halfWidth p))

/-- Partition q has a circuit entry on lanes 4 to 7 across a half-width seam between compute dies (R256). -/
def State.halfCircuits (s : State) (q : Part) : Bool :=
  s.sparing.halfSeams.any fun p => (s.ends p).any fun e =>
    (match s.blkCluster e.blk with | none => false | some c => q.clusters.contains c)
      && (List.range s.frameLen).any fun k => [4, 5, 6, 7].any fun l => !bitOf (s.slotEntry e.blk e.port k l) 15

/-! ### Tables (R257) -/

/-- FABRIC_TABLE_UE (R257). -/
def execFabricTableUe (p : PortRef) (table : FabTable) (entry : Nat) (s : State) : Host.Outcome State Fault Refusal :=
  answer s (match s.blkCluster p.blk with
    | none => s
    | some c => match table with
      | .slot => s.slotError c entry
      | .exit => s.exitError c entry
      | .route => s.routeError c entry)

end Sys2Proof.Machine
end

