-- ==== Sys2Proof/Machine/Link.lean ====
section
/-! DEFINITION. Links (R261 to R309): flits with their FEC, check and replay, credit, packet resolution at a link die,
multicast, retraining, and the laser modules and cables the ports depend on. -/

namespace Sys2Proof.Machine

/-! ### FEC (R267) -/

/-- Multiplication by α in GF(2^8) of x^8 + x^4 + x^3 + x^2 + 1. -/
def gfDouble (a : Nat) : Nat := if a < 128 then 2 * a else Nat.xor (2 * a % 256) 0x1D

def gfMulN : Nat → Nat → Nat → Nat
  | 0, _, _ => 0
  | n + 1, a, b => Nat.xor (if b % 2 = 1 then a else 0) (gfMulN n (gfDouble a) (b / 2))

def gfMul (a b : Nat) : Nat := gfMulN 8 a b

def gfPow (a : Nat) : Nat → Nat
  | 0 => 1
  | n + 1 => gfMul a (gfPow a n)

def gfInv (a : Nat) : Nat := gfPow a 254

/-- Coefficients of the generator below x^4, highest first: the product of (x − α^j), j = 0 to 3. -/
def fecGen : List Nat :=
  ((List.range 4).foldl (fun (p : List Nat) j =>
    let r := gfPow 2 j
    List.zipWith Nat.xor (p ++ [0]) (0 :: p.map (gfMul r))) [1]).drop 1

/-- Check symbols of a message, highest degree first. -/
def fecCheck (msg : List Nat) : List Nat :=
  msg.foldl (fun (r : List Nat) m =>
    let fb := Nat.xor m (r.headD 0)
    List.zipWith Nat.xor (r.drop 1 ++ [0]) (fecGen.map (gfMul fb))) [0, 0, 0, 0]

/-- Symbols of interleave i of a flit: the message, then the check symbols. -/
def interleave (f : Bytes) (i : Nat) : List Nat :=
  ((List.range 244).filter fun b => decide (b % 3 = i)).map (byteAt f) ++ (List.range 4).map fun j => byteAt f (244 + 3 * j + i)

/-- The value of a codeword at α^j. -/
def syndrome (c : List Nat) (j : Nat) : Nat := c.foldl (fun a x => Nat.xor (gfMul a (gfPow 2 j)) x) 0

/-- The errors of a codeword of n symbols with these syndromes: places (from the first symbol) and values, at most
two; none when no such pair explains them. -/
def fecErrors (n : Nat) (s0 s1 s2 s3 : Nat) : Option (List (Nat × Nat)) :=
  if s0 = 0 ∧ s1 = 0 ∧ s2 = 0 ∧ s3 = 0 then some []
  else
    let deg := List.range n
    match deg.find? fun d =>
        let x := gfPow 2 d
        decide (s0 ≠ 0) && decide (gfMul s0 x = s1) && decide (gfMul s1 x = s2) && decide (gfMul s2 x = s3) with
    | some d => some [(n - 1 - d, s0)]
    | none => deg.findSome? fun a => (List.range a).findSome? fun b =>
      let x := gfPow 2 a
      let y := gfPow 2 b
      let e := gfMul (Nat.xor (gfMul s0 y) s1) (gfInv (Nat.xor x y))
      let f := Nat.xor s0 e
      let at_ := fun (k : Nat) => Nat.xor (gfMul e (gfPow x k)) (gfMul f (gfPow y k))
      if at_ 2 = s2 ∧ at_ 3 = s3 then some [(n - 1 - a, e), (n - 1 - b, f)] else none

/-- Errors of each interleave, and none when one cannot be corrected. -/
def fecDecode (f : Bytes) : Option (List (List (Nat × Nat))) :=
  let r := (List.range 3).map fun i =>
    let c := interleave f i
    fecErrors c.length (syndrome c 0) (syndrome c 1) (syndrome c 2) (syndrome c 3)
  if r.all Option.isSome then some (r.map fun e => e.getD []) else none

/-- Byte of the flit that holds symbol k of interleave i. -/
def fecByte (i k : Nat) : Nat :=
  let n := ((List.range 244).filter fun b => decide (b % 3 = i)).length
  if k < n then 3 * k + i else 244 + 3 * (k - n) + i

/-- The flit with its errors put right, and how many symbols were. -/
def fecCorrect (f : Bytes) : Option (Bytes × Nat) :=
  (fecDecode f).map fun r =>
    let es := (List.zip (List.range 3) r).flatMap fun x => x.2.map fun e => (fecByte x.1 e.1, e.2)
    (es.foldl (fun b e => patch b e.1 [BitVec.ofNat 8 (Nat.xor (byteAt b e.1) e.2)]) f, es.length)

/-! ### Flits (R266, R268, R270) -/

def crc64 (bs : Bytes) : Nat := Nat.xor (crcRefl 0xC96C5795D7870F42 0xFFFFFFFFFFFFFFFF bs) 0xFFFFFFFFFFFFFFFF

/-- A flit of a header and a payload. -/
def mkFlit (header : Nat) (payload : Bytes) : Bytes :=
  let b := natLe 4 header ++ padTo 232 payload
  let b := b ++ natLe 8 (crc64 b)
  let checks := (List.range 3).map fun i => fecCheck (((List.range 244).filter fun k => decide (k % 3 = i)).map (byteAt b))
  b ++ (List.range 12).map fun k => BitVec.ofNat 8 ((checks.getD (k % 3) []).getD (k / 3) 0)

/-- A DATA flit of this end: `FSEQ`, the `ACKSEQ` and `NAK` of now, SVL and `SOP`. -/
def LinkPort.dataFlit (x : LinkPort) (fseq : BitVec 12) (svl : Nat) (sop : Bool) (payload : Bytes) : Bytes :=
  mkFlit (1 + fseq.toNat * 4 + x.rxSeq.toNat * 0x4000 + b2n x.nak * 0x4000000 + svl * 0x8000000 + b2n sop * 0x40000000) payload

/-- A CONTROL flit, or with no payload an IDLE one, which carries zeros (R266, R270). -/
def LinkPort.controlFlit (x : LinkPort) (payload : Bytes) : Bytes :=
  mkFlit ((if payload = [] then 0 else 2) + x.txSeq.toNat * 4 + x.rxSeq.toNat * 0x4000 + b2n x.nak * 0x4000000) payload

/-- The payload of a CREDIT flit (R270). -/
def LinkPort.creditPayload (x : LinkPort) : Bytes :=
  natLe 4 1 ++ ((List.range 8).flatMap fun v => natLe 2 (tget 0 x.owed v).toNat) ++ natLe 4 x.grant.toNat

/-! ### Lanes (R269) -/

/-- The level of a PAM4 symbol: its two bits are Gray-coded. -/
def pam4 (b : Nat) : Nat := if b % 4 = 0 then 0 else if b % 4 = 1 then 1 else if b % 4 = 3 then 2 else 3

/-- n bits of the sequence x^31 + x^28 + 1 from a state, the first in bit 0, and the state after them. -/
def prbs31 : Nat → Nat → Nat × Nat
  | 0, st => (0, st)
  | n + 1, st =>
    let b := (st / 2 ^ 30 + st / 2 ^ 27) % 2
    let r := prbs31 n ((st * 2 + b) % 2 ^ 31)
    (b + 2 * r.1, r.2)

/-- The levels of bytes on a lane whose scrambler is in a state, four symbols a byte with bits [1:0] first, and the state after them. -/
def laneLevels : Bytes → Nat → List Nat × Nat
  | [], st => ([], st)
  | b :: bs, st =>
    let m := prbs31 8 st
    let v := Nat.xor b.toNat m.1
    let r := laneLevels bs m.2
    ([pam4 v, pam4 (v / 4), pam4 (v / 16), pam4 (v / 64)] ++ r.1, r.2)

/-- The bytes of a flit on lane number i of w active ones: byte b goes on lane b mod w. -/
def laneBytes (w i : Nat) (f : Bytes) : Bytes := ((List.range f.length).filter fun b => decide (b % w = i)).map fun b => f.getD b 0

/-- A flit goes out on the active lanes of a port, in ascending number (R269). -/
def State.drive (s : State) (port : Nat) (f : Bytes) : State :=
  let lanes := onesOf (s.field (linkReg port 0) 6 8) 8
  let x := s.port port
  let each := (List.zip (List.range lanes.length) lanes).map fun e => (e.2, laneLevels (laneBytes lanes.length e.1 f) (tget e.2 x.scram e.2))
  s.setPort port { x with line := each.map fun e => (e.1, e.2.1), scram := each.foldl (fun m e => tset e.1 m e.1 e.2.2) x.scram }

/-- A CONTROL flit goes out. -/
def State.sendControl (s : State) (port : Nat) (payload : Bytes) : State :=
  let f := (s.port port).controlFlit payload
  (s.setPort port { s.port port with ctl := f }).drive port f

/-! ### Ports -/

/-- L0 and L1 of a bridge carry no native traffic (R262). -/
def State.native (s : State) (port : Nat) : Bool := decide (port < 36) && !(s.isBridge && decide (port < 2)) && !s.linkLost (port / 6)

/-- The port runs. -/
def State.linkUp (s : State) (port : Nat) : Bool := s.native port && decide (s.field (linkReg port 0) 0 2 = 1)

/-- Put a port into a state: 0 down, 1 running, 2 retraining, 3 fenced. -/
def State.setLink (s : State) (port st : Nat) : State :=
  let s := s.setField (linkReg port 0) 0 2 st
  let s := s.setField (lnkBase (port / 6) + 4) (port % 6) 1 (b2n (decide (st = 1)))
  let s := s.setField (lnkBase (port / 6) + 4) (6 + port % 6) 1 (b2n (decide (st = 3)))
  if st = 1 then s else (s.setField (linkReg port 0) 2 4 0).setField (linkReg port 0) 6 8 0

/-! ### Sending (R271, R272) -/

/-- The port has credit for one more flit of an SVL: shared allowance, or one of the 8 reserved flits. -/
def LinkPort.credit (x : LinkPort) (v : Nat) : Bool :=
  decide (x.replay.length < 4095)
    && (decide (x.sharedUsed ≠ x.shared) || decide ((tget 0 x.sent v - tget 0 x.freed v).toNat < 8))

/-- The first staged packet that may send a flit: the first of its SVL, with credit. -/
def LinkPort.turn (x : LinkPort) : List Staged → List Nat → Option Staged
  | [], _ => none
  | e :: es, seen =>
    let v := packetSvl e.pkt
    if !seen.contains v && x.credit v then some e else x.turn es (v :: seen)

/-- Send flits of staged packets while credit lasts. -/
def State.pumpPort (s : State) (port : Nat) : Nat → State
  | 0 => s
  | fuel + 1 =>
    let x := s.port port
    if !s.linkUp port then s
    else match x.turn x.staged [] with
      | none => s
      | some e =>
        let v := packetSvl e.pkt
        let flit := x.dataFlit (x.txSeq + 1) v (decide (e.sent = 0)) (slice e.pkt.bytes (232 * e.sent) 232)
        let staged := if e.sent + 1 < packetFlits e.pkt then x.staged.map fun y => if y = e then { e with sent := e.sent + 1 } else y
          else x.staged.erase e
        let x : LinkPort := { x with txSeq := x.txSeq + 1, replay := x.replay ++ [flit], staged := staged }
        let x := if x.sharedUsed ≠ x.shared then { x with sharedUsed := x.sharedUsed + 1 }
          else { x with sent := tset 0 x.sent v (tget 0 x.sent v + 1) }
        (((s.setPort port x).count64 (linkReg port 8) 1).drive port flit).pumpPort port fuel

/-- Flits a port still has to send. -/
def LinkPort.todo (x : LinkPort) : Nat := (x.staged.map fun e => packetFlits e.pkt).foldl (· + ·) 0

def State.pumpLink (s : State) (port : Nat) : State := s.pumpPort port (s.port port).todo

/-- A packet as it leaves by an egress with a `PATH` (R283, R292). -/
def pathed (path : Nat) (p : Packet) : Packet := ({ p with vl := if path = 0 then p.vl else if path = 2 then 0 else 1 }).sealed

/-- A packet may go from link die `die` to a port: there is a way round the rim, and the whole packet has room in the port's egress staging
(R292, R293). A lost die takes nothing, and loses what is sent to it. -/
def State.mayStage (s : State) (die port path : Nat) (p : Packet) : Bool :=
  s.linkLost (port / 6)
    || ((decide (port / 6 = die) || (s.rimWay die (port / 6)).isSome) && s.stageRoom port (packetSvl (pathed path p)) (packetFlits p))

/-! ### Resolution at a link die (R274, R282 to R290) -/

/-- Opcodes with their class (R273). -/
def opClass (op : Nat) : Option Nat :=
  if op = 1 ∨ op = 2 ∨ op = 3 then some 0 else if op = 0x10 ∨ op = 0x11 then some 1
  else if 0x20 ≤ op ∧ op ≤ 0x25 then some 2 else if 0x30 ≤ op ∧ op ≤ 0x32 then some 3 else none

/-- The check of R274. -/
def packetSound (p : Packet) : Bool :=
  decide (p.sealed.hcrc = p.hcrc) && decide (p.hver = 1) && decide (p.len.toNat ≤ 128) && decide (opClass p.opcode.toNat = some p.cls.toNat)

/-- A packet enters the egress staging of a port, over the rim where it is another die's, which checks it (R274, R292). -/
def State.egress (s : State) (die port path : Nat) (group : Option Nat) (since : Nat) (p : Packet) : State :=
  let q := pathed path p
  let s := if port / 6 = die then s else s.count64 (lnkBase die + 0x30) (packetFlits q)
  if s.linkLost (port / 6) then s
  else if port / 6 ≠ die ∧ !packetSound q then s.count (lnkBase (port / 6) + 0x10) 1
  else
    let x := s.port port
    (s.setPort port { x with staged := x.staged ++ [{ pkt := q, group := group, since := since }] }).pumpLink port

def State.eptEntry (s : State) (eid : BitVec 24) : Nat := (tget 0 s.ept eid.toNat).toNat

/-- Links of a path group that are up and not fenced, in ascending order. -/
def State.groupLinks (s : State) (g : Nat) : List Nat := (onesOf (tget 0 s.pgroups g).toNat 36).filter s.linkUp

/-- The member that a packet of a path group uses (R285). -/
def State.groupLink (s : State) (g : Nat) (p : Packet) : Option Nat :=
  let ls := s.groupLinks g
  let h := crc32 (natLe 3 p.dest.toNat ++ natLe 3 p.src.toNat ++ [BitVec.ofNat 8 p.cls.toNat])
  if ls = [] then none else ls[h.toNat % ls.length]?

/-- The source of a packet lies on this panel, so that this is the home link die of a multicast (R290). -/
def State.ownSource (s : State) (p : Packet) : Bool := (s.ownEid p.src).isSome || (s.ctxOf p.src).isSome || decide (p.src = 0xFFFFFE)

/-- A local packet goes to its collective engine, or into the fabric at an edge cluster (R284). It has passed the endpoint table (R287). A
context on another link die is reached there over the rim (log entry 109). -/
def State.enterPanel (s : State) (die : Nat) (p : Packet) : State :=
  match s.ctxOf p.dest with
  | some k => s.addMoving (.engine (k / 64) (k % 64)) (2000 + die) p
  | none => s.fromDie (24 + die) (2000 + die) (s.resolve die p.dest) p

/-- The memory endpoint of a group on this panel may be delivered to (R289). -/
def State.groupHere (s : State) (g : Nat) : Bool :=
  match s.resFind (BitVec.ofNat 24 (0xFE0000 + g)) with
  | none => false
  | some i => !bitOf (s.resEntry i) 25 && decide (bits (s.resEntry i) 26 2 = 1)

/-- The branches of a group entry that are served, whether one copy stays here, and how many are dropped (R289): a link that is down or fenced
is dropped, one that retrains is waited for. -/
def State.branches (s : State) (g : Nat) : List Nat × Bool × Nat :=
  let e := (tget 0 s.mcast g).toNat
  let links := onesOf (bits e 0 36) 36
  let fenced := bitOf e 38
  let runs := fun (l : Nat) => s.native l && (decide (s.field (linkReg l 0) 0 2 = 1) || decide (s.field (linkReg l 0) 0 2 = 2))
  let up := if fenced then [] else links.filter runs
  let here := bitOf e 36 && !fenced && s.groupHere g
  (up, here, (links.length - up.length) + b2n (bitOf e 36 && !here))

/-- This source may send this packet to a group (R288): a WRITE comes from a bulk mover or Gleryn, a RESULT from a collective engine. The first
link die, on the source's panel, can tell. -/
def State.groupSource (s : State) (p : Packet) : Bool :=
  if p.opcode = 0x01 then !(s.ctxOf p.src).isSome
  else p.opcode = 0x31 && (!(s.ownSource p) || (s.ctxOf p.src).isSome)

/-- Link die `die` resolves a packet that has been on the panel since `since` (R282 to R290); a contribution to a context that is set no longer
is answered FAULT (R309). Its own answers are resolved in turn, and never answered. -/
def State.dieRoute (s : State) (die since : Nat) (p : Packet) : Nat → State
  | 0 => s
  | fuel + 1 =>
    let a := lnkBase die
    let answer := fun (s : State) (st : Nat) => if p.isReply then s else s.dieRoute die s.now (nackOf p st) fuel
    let e := s.eptEntry p.dest
    let kind := bits e 12 2
    if p.dest = 0 ∨ 0xFF0000 ≤ p.dest.toNat then s.count (a + 0x14) 1
    else if !bitOf e 15 ∨ kind = 3 then answer (s.count (a + 0x14) 1) stFault
    else if bitOf e 14 then answer (s.count (a + 0x18) 1) stFenced
    else if p.mcast ≠ decide (kind = 2) then s.count (a + 0x1C) 1
    else if kind = 0 then
      if p.cls = 3 ∧ !p.isReply ∧ (s.ctxOf p.dest).isNone ∧ (s.resFind p.dest).isNone then answer s stFault else s.enterPanel die p
    else if kind = 1 then
      let dst := bits e 6 6
      if dst < 36 then s.egress die dst (bits e 4 2) none since p
      else match s.groupLink (dst - 36) p with
        | none => answer (s.count (a + 0x18) 1) stFenced
        | some port => s.egress die port (bits e 4 2) (some (dst - 36)) since p
    else if !s.groupSource p then answer (s.count (a + 0x1C) 1) stFault
    else
      let g := p.dest.toNat - 0xFE0000
      let m := (tget 0 s.mcast g).toNat
      if !isGroup p.dest ∨ !bitOf m 37 then answer (s.count (a + 0x14) 1) stFault
      else
        let s := if s.ownSource p then
            s.dieRoute die s.now ({ mkPacket 2 0x25 p.src p.dest (bits m 44 16) false [] with seq := p.seq }).sealed fuel
          else s
        let b := s.branches g
        let s := b.1.foldl (fun s port => s.egress die port (bits m 39 2) none since p) s
        let s := if b.2.1 then s.fromDie (24 + die) (2000 + die) (s.resolve die p.dest) p else s
        (List.range b.2.2).foldl (fun s _ => answer (s.count (a + 0x20) 1) stFenced) s

/-- Link die `die` can deal with a packet now: its egress, or every branch of its group, has room for all of it (R289, R292). -/
def State.dieReady (s : State) (die : Nat) (p : Packet) : Bool :=
  let e := s.eptEntry p.dest
  let kind := bits e 12 2
  if !bitOf e 15 || bitOf e 14 then true
  else if kind = 1 then
    let dst := bits e 6 6
    let port := if dst < 36 then some dst else s.groupLink (dst - 36) p
    match port with | none => true | some l => s.mayStage die l (bits e 4 2) p
  else if kind = 2 ∧ isGroup p.dest ∧ s.groupSource p then
    let g := p.dest.toNat - 0xFE0000
    (s.branches g).1.all fun l => s.linkUp l && s.mayStage die l (bits (tget 0 s.mcast g).toNat 39 2) p
  else true

/-- A packet arrives at a link die from a link, the rim or the fabric: checked, then resolved (R274, R284). Answers to
this panel's own endpoints resolve like any packet of theirs. -/
def State.dieReceive (s : State) (die since : Nat) (p : Packet) : State :=
  if !(packetSound p) then s.count (lnkBase die + 0x10) 1 else s.dieRoute die since p 3

/-- The copy of a packet that waits at link die `die`: from a link, or from the fabric or the rim. -/
def Moving.waitsAt (m : Moving) (die : Nat) : Bool :=
  decide (m.legs = []) && (decide (m.target = .exit (24 + die)) || match m.target with | .link q => decide (q / 6 = die) | _ => false)

/-- A packet that came by a link leaves its input buffer (R271): its shared flits go back into the shared allowance, the others to their SVL,
and a CREDIT flit says so. -/
def State.freeInput (s : State) (m : Moving) : State :=
  match m.target with
  | .link port =>
    let x := s.port port
    let v := packetSvl m.pkt
    let shared := match x.buffered.find? fun e => decide (e.1 = m.pkt) with | none => 0 | some e => e.2
    let y := { x with
      buffered := x.buffered.eraseP fun e => decide (e.1 = m.pkt), grant := x.grant + BitVec.ofNat 32 shared,
      owed := tset 0 x.owed v (tget 0 x.owed v + BitVec.ofNat 16 (packetFlits m.pkt - shared)) }
    (s.setPort port y).sendControl port y.creditPayload
  | _ => s

/-- LINK_PACKET_RECEIVE (R274, R284, R289): the die deals with a packet that waits at it, or with one that comes from outside; what it cannot
pass on yet goes on waiting. -/
def execLinkPacketReceive (die : Nat) (p : Packet) (s : State) : Host.Outcome State Fault Refusal :=
  answer s (
    if 6 ≤ die ∨ s.linkLost die ∨ (s.underWay p ∧ !s.moving.any fun m => decide (m.pkt = p) && m.waitsAt die) then s
    else
      let here := s.moving.find? fun m => decide (m.pkt = p) && m.waitsAt die
      if packetSound p && !s.dieReady die p then (if here.isSome then s else s.addMoving (.exit (24 + die)) (2000 + die) p)
      else match here with
        | none => s.dieReceive die s.now p
        | some m =>
          if m.src = agGleryn ∧ (s.rimWay (6 + s.activeCt) die).isNone then s
          else (({ s with moving := s.moving.erase m }).freeInput m).dieReceive die m.since p)

/-! ### Receiving flits (R268, R270, R272) -/

/-- `ACKSEQ` of a flit frees what it covers; `NAK` asks for the rest again. -/
def LinkPort.ackTo (x : LinkPort) (a : BitVec 12) (nak : Bool) : LinkPort :=
  let n := (a - x.acked).toNat
  let x := if n ≤ x.replay.length then { x with replay := x.replay.drop n, acked := a } else x
  if nak then { x with resend := x.replay } else x

/-- A CREDIT flit's payload (R270): cumulative counts per SVL, and the shared allowance. -/
def State.creditIn (s : State) (port : Nat) (payload : Bytes) : State :=
  if payload.length < 24 ∨ byteAt payload 0 ≠ 1 then s
  else
    let x := s.port port
    let freed := (List.range 8).foldl (fun t v => tset 0 t v (BitVec.ofNat 16 (fld payload (4 + 2 * v) 2))) x.freed
    (s.setPort port { x with freed := freed, shared := BitVec.ofNat 32 (fld payload 20 4) }).pumpLink port

/-- What the port keeps of a TRAIN flit (R305, R306): its fields, and the peer's epoch. -/
def State.noteTrain (s : State) (port : Nat) (payload : Bytes) : State :=
  (s.setPort port { s.port port with train := some (BitVec.ofNat 32 (fld payload 1 4)), heard := true }).setField (linkReg port 0) 22 8 (byteAt payload 1)

/-! ### The start of a retrain (R304 to R306) -/

/-- Lane sets, widest first (R304). -/
def laneSets : List (Nat × Nat) := [(8, 0xFF), (4, 0x0F), (4, 0xF0), (2, 0x03), (2, 0x0C), (2, 0x30), (2, 0xC0)]

/-- The widest set whose lanes all pass. -/
def proposal (ok : Nat) : Option (Nat × Nat) := laneSets.find? fun w => decide (Nat.land w.2 ok = w.2)

/-- Packets of path groups that wait at a port move to the groups' other members (R305, R309). -/
def State.moveStaged (s : State) (port : Nat) : State :=
  let x := s.port port
  let goes := fun (e : Staged) => match e.group with
    | none => none
    | some g => if e.sent = 0 then (s.groupLink g e.pkt).map fun l => (e, l) else none
  let moved := x.staged.filterMap goes
  let s := s.setPort port { x with staged := x.staged.filter fun e => (goes e).isNone }
  moved.foldl (fun s e =>
    let y := s.port e.2
    (s.setPort e.2 { y with staged := y.staged ++ [e.1] }).pumpLink e.2) s

/-- A TRAIN flit of this end: its epochs, a width and lane set, `CONFIRM`, and `RESET` after a reset of its own die (R306). -/
def State.trainPayload (s : State) (port : Nat) (w : Nat × Nat) (confirm : Bool) : Bytes :=
  let a := linkReg port 0
  let x := s.port port
  u8 2 ++ u8 (s.field a 14 8) ++ u8 (if x.heard then s.field a 22 8 else 0xFF) ++ u8 (w.1 + b2n confirm * 16 + b2n x.fresh * 32) ++ u8 w.2

/-- A retrain of a port starts (R305, R306): it is counted, the width epoch advances, and packets of path groups go to other members. A port that
was fenced begins to count its failures anew. -/
def State.startTraining (s : State) (port : Nat) : State :=
  let a := linkReg port 0
  let s := if s.field a 0 2 = 3 then s.setField a 30 2 0 else s
  let s := (s.count (linkReg port 0x28) 1).setLink port 2
  let s := s.setField a 14 8 ((s.field a 14 8 + 1) % 256)
  (s.setPort port { s.port port with train := none }).moveStaged port

/-- A TRAIN flit that is not one is ignored; one that a running port receives starts its retrain (R305, R306). -/
def State.trainIn (s : State) (port : Nat) (payload : Bytes) : State :=
  if payload.length < 5 ∨ byteAt payload 0 ≠ 2 then s
  else if s.field (linkReg port 0) 0 2 = 1 then (s.startTraining port).noteTrain port payload
  else s.noteTrain port payload

/-- Corrected symbols of a port within 1 ms above which it retrains: 10^-5 of the symbols that it receives in that time (R263, R305). -/
def State.fecLimit (s : State) (port : Nat) : Nat := s.field (linkReg port 0) 2 4 * 160

/-- n symbols of a flit were corrected (R305, R310). -/
def State.noteFec (s : State) (port n : Nat) : State :=
  let s := s.count64 (linkReg port 0x18) n
  if n = 0 then s
  else
    let x := s.port port
    let recent := (s.now, n) :: x.fec.filter fun e => decide (s.now < e.1 + usec 1000)
    let s := s.setPort port { x with fec := recent }
    if s.field (linkReg port 0) 0 2 = 1 ∧ s.fecLimit port < (recent.map (·.2)).foldl (· + ·) 0 then
      (s.setPort port { s.port port with fec := [] }).startTraining port
    else s

/-! ### Flits that arrive (R266 to R272) -/

/-- A DATA flit in order (R270 to R272): its bytes join those of its SVL, and a whole packet waits for the link die. The peer has spent shared
allowance first. -/
def State.dataIn (s : State) (port : Nat) (f : Bytes) : State :=
  let h := fld f 0 4
  let x := s.port port
  let v := bits h 27 3
  let sop := bitOf h 30
  let shared := decide (x.spent ≠ x.grant)
  let got := (if sop then [] else tget [] x.partIn v) ++ slice f 4 232
  let n := (if sop then 0 else tget 0 x.partShared v) + b2n shared
  let want := 32 + 32 * fld got 10 1
  let whole := decide (want ≤ got.length)
  let p := packetOf (got.take want)
  let s := s.setPort port { x with
    rxSeq := BitVec.ofNat 12 (bits h 2 12), nak := false, partIn := tset [] x.partIn v (if whole then [] else got),
    partShared := tset 0 x.partShared v (if whole then 0 else n), spent := if shared then x.spent + 1 else x.spent,
    buffered := if whole then x.buffered ++ [(p, n)] else x.buffered }
  let s := s.count64 (linkReg port 0x10) 1
  if whole then s.addMoving (.link port) (2000 + port / 6) p else s

/-- FLIT_RECEIVE (R266 to R272). -/
def execFlitReceive (port : Nat) (flit : Bytes) (s : State) : Host.Outcome State Fault Refusal :=
  answer s (
    let up := decide (s.field (linkReg port 0) 0 2 ≠ 0) && decide (s.field (linkReg port 0) 0 2 ≠ 3)
    if !s.native port ∨ !up ∨ flit.length ≠ 256 then s
    else
      let bad := fun (s : State) => (s.count (linkReg port 0x20) 1).setPort port { s.port port with nak := true }
      match fecCorrect flit with
      | none => bad s
      | some (f, n) =>
        let s := s.noteFec port n
        if crc64 (f.take 236) ≠ fld f 236 8 then bad s
        else
          let h := fld f 0 4
          let s := s.setPort port ((s.port port).ackTo (BitVec.ofNat 12 (bits h 14 12)) (bitOf h 26))
          let s := s.pumpLink port
          let x := s.port port
          let q := BitVec.ofNat 12 (bits h 2 12)
          if bits h 0 2 = 1 then
            if q = x.rxSeq + 1 then s.dataIn port f
            else if (x.rxSeq - q).toNat < 2048 then s
            else s.setPort port { x with nak := true }
          else
            let s := if q = x.rxSeq ∨ (x.rxSeq - q).toNat < 2048 then s else s.setPort port { x with nak := true }
            if bits h 0 2 = 2 then
              if byteAt f 4 = 1 then s.creditIn port (slice f 4 232) else if byteAt f 4 = 2 then s.trainIn port (slice f 4 232) else s
            else s)

/-- LINK_REPLAY (R272): the DATA flits from `ACKSEQ` + 1 are sent again; more than 1,000 replays within 1 ms start a
retrain. -/
def execLinkReplay (port : Nat) (s : State) : Host.Outcome State Fault Refusal :=
  answer s (
    let x := s.port port
    if !s.linkUp port ∨ x.resend = [] then s
    else
      let recent := s.now :: x.replays.filter fun t => decide (s.now < t + usec 1000)
      let s := (s.count (linkReg port 0x24) 1).count64 (linkReg port 8) x.resend.length
      let s := s.setPort port { x with resend := [], replays := if 1000 < recent.length then [] else recent }
      if 1000 < recent.length then s.startTraining port else x.resend.foldl (fun s f => s.drive port f) s)

/-- CREDIT_FLIT (R270, R271). -/
def execCreditFlit (port : Nat) (payload : Bytes) (s : State) : Host.Outcome State Fault Refusal :=
  answer s (onlyIf (s.native port) s (s.creditIn port payload))

/-- TRAIN_FLIT (R305, R306). -/
def execTrainFlit (port : Nat) (payload : Bytes) (s : State) : Host.Outcome State Fault Refusal :=
  answer s (onlyIf (s.native port) s (s.trainIn port payload))

/-! ### Retraining (R304 to R307) -/

/-- What both ends adopt: the narrower width and the lane set common to both masks, which must be a set of R304; the peer's flit must confirm
it (R306). -/
def agreed (mine : Nat × Nat) (width lanes : Nat) : Option (Nat × Nat) :=
  let w := (Nat.min mine.1 (width % 16), Nat.land mine.2 lanes)
  if laneSets.contains w && bitOf width 4 then some w else none

/-- A TRAIN flit of the peer's that has come in this retrain names this end's present epoch (R306). -/
def State.epochsMatch (s : State) (port : Nat) : Bool :=
  match (s.port port).train with
  | none => true
  | some t => decide (bits t.toNat 8 8 = s.field (linkReg port 0) 14 8)

/-- A retrain voided replay (R307): what stood in the replay buffer is lost, and credit starts anew. -/
def LinkPort.voided (x : LinkPort) : LinkPort :=
  { x with
    replay := [], resend := [], acked := x.txSeq, partIn := [], partShared := [], buffered := [],
    freed := [], sent := [], shared := 0, sharedUsed := 0, owed := [], grant := 8192, spent := 0,
    staged := x.staged.filter fun e => decide (e.sent = 0) }

/-- The port runs on a lane set: its scramblers start from their lane numbers, and its credit is told (R269 to R271, R307). -/
def State.portRuns (s : State) (port : Nat) (w : Nat × Nat) (reset : Bool) : State :=
  let x := s.port port
  let x := if reset || x.fresh then x.voided else { x with resend := x.replay }
  let s := (s.setPort port { x with train := none, fresh := false, scram := [], line := [] }).setLink port 1
  let s := ((s.setField (linkReg port 0) 2 4 w.1).setField (linkReg port 0) 6 8 w.2).setField (linkReg port 0) 30 2 0
  s.sendControl port (s.port port).creditPayload

/-- Agreement attempts of a retrain until one succeeds or the third in a row has failed (R306). In each, this end sends its proposal and, once
it has adopted a set, its confirmation. -/
def State.agree (s : State) (port : Nat) (mine : Option (Nat × Nat)) : List (Option (BitVec 8 × BitVec 8)) → State
  | [] => s
  | a :: as =>
    let s := s.sendControl port (s.trainPayload port (mine.getD (0, 0)) false)
    match if s.epochsMatch port then mine.bind fun m => a.bind fun p => agreed m p.1.toNat p.2.toNat else none with
    | some w =>
      let reset := match a with | none => false | some p => p.1.getLsbD 5
      (s.sendControl port (s.trainPayload port w true)).portRuns port w reset
    | none =>
      let n := s.field (linkReg port 0) 30 2 + 1
      let s := (s.count (linkReg port 0x2C) 1).setField (linkReg port 0) 30 2 (Nat.min n 3)
      if n < 3 then s.agree port mine as else s.setLink port 3

/-- One retrain of a port: it starts, unless it has; the attempts are made, and the outcome is recorded (R305, R306). -/
def State.retrainLinkAt (s : State) (port : Nat) (lanesOk : BitVec 8) (peer : List (Option (BitVec 8 × BitVec 8))) : State :=
  let a := linkReg port 0
  let s := if s.field a 0 2 = 2 then s else s.startTraining port
  let s := s.agree port (proposal lanesOk.toNat) peer
  let data := u8 (s.field a 2 4) ++ u8 (s.field a 14 8) ++ u8 (s.field a 22 8)
  let s := s.record 0x0602 2 noPart 0 (onLinkDie (port / 6) (port % 6)) data
  let s := if s.field a 0 2 = 3 then s.record 0x0603 4 noPart 0 (onLinkDie (port / 6) (port % 6)) data else s
  if s.linkUp port then s.pumpLink port else s.moveStaged port

/-- LINK_RETRAIN (R305, R306): a fenced port stays fenced. `peer` gives the `WIDTH` and `LANES` bytes of the peer's confirmation in each
agreement attempt, none where no confirmation with these epochs comes. -/
def execLinkRetrain (port : Nat) (lanesOk : BitVec 8) (peer : List (Option (BitVec 8 × BitVec 8))) (s : State) :
    Host.Outcome State Fault Refusal :=
  answer s (onlyIf (s.native port && decide (s.field (linkReg port 0) 0 2 ≠ 3)) s (s.retrainLinkAt port lanesOk peer))

/-- A port that fails to train (R264, R460). -/
def State.failPort (s : State) (port : Nat) : State :=
  if s.native port && decide (s.field (linkReg port 0) 0 2 ≠ 3) then s.retrainLinkAt port 0 [none, none, none] else s

/-! ### Hold (R294) -/

/-- HOLD_EXPIRY (R294): a packet that has been on the panel for longer than `HOLD` and waits at a link die, in egress staging or for the die
itself, is discarded. -/
def execHoldExpiry (die : Nat) (s : State) : Host.Outcome State Fault Refusal :=
  answer s (
    let aged := fun (since : Nat) => decide (since + usec s.holdTime < s.now)
    let drop := fun (s : State) => s.count (lnkBase die + 0x24) 1
    match ((List.range 6).map (die * 6 + ·)).findSome? fun q => ((s.port q).staged.find? fun e => decide (e.sent = 0) && aged e.since).map fun e => (q, e) with
    | some (q, e) =>
      let x := s.port q
      drop (s.setPort q { x with staged := x.staged.erase e })
    | none => match s.moving.find? fun m => m.waitsAt die && aged m.since with
      | some m => drop (({ s with moving := s.moving.erase m }).freeInput m)
      | none => s)

/-! ### The panel's state (R317, R383) -/

/-- Laser bay b: `LNK_LASER_STATUS`. -/
def laserReg (bay : Nat) : Nat := lnkBase (bay / 2 + 1) + 0x300 + bay % 2 * 8

/-- A hole, a lost stack or link die, a failed control die, a failed laser bay or a half-width seam. -/
def State.degraded (s : State) : Bool :=
  s.sparing.holes ≠ [] || (List.range 24).any s.stackLost || (List.range 6).any s.linkLost
    || decide (s.trust.ctA.role = 2) || decide (s.trust.ctB.role = 2)
    || (List.range 10).any (fun b => !bitOf (s.reg (laserReg b)).toNat 1) || s.sparing.halfSeams ≠ []

/-- `STATE` 2 and 3 follow what is lost. -/
def State.refreshState (s : State) : State :=
  let st := s.mgtField 8 0 3
  if st = 2 ∨ st = 3 then s.setPanelState (if s.degraded then 3 else 2) else s

/-- The module in a bay brings its operating hours, which the spec does not give (R310). -/
def State.moduleHours (s : State) (bay : Nat) : State := (s.setReg (laserReg bay + 4) (Config.freeWord s.free)).draw

/-! ### Lasers, dies and cables (R264, R265, R309, R451, R455, R460, R461) -/

/-- A module no longer carries light: its partner, if good, carries the whole load; without one the ports stop. -/
def State.bayDown (s : State) (bay : Nat) : State :=
  let a := laserReg bay
  let b := laserReg (bay / 2 * 2 + (1 - bay % 2))
  let s := (s.setField a 1 1 0).setField a 3 1 0
  if bitOf (s.reg b).toNat 1 then s.setField b 3 1 1
  else (List.range 6).foldl (fun s j => s.failPort ((bay / 2 + 1) * 6 + j)) s

/-- LASER_MODULE_FAIL (R264). -/
def execLaserModuleFail (bay : Nat) (withdrawn : Bool) (s : State) : Host.Outcome State Fault Refusal :=
  answer s (
    let a := laserReg bay
    if 10 ≤ bay ∨ !bitOf (s.reg a).toNat 0 then s
    else
      let s := if withdrawn then (s.setField a 0 1 0).setField a 2 1 0 else s
      ((s.bayDown bay).record 0x0601 3 noPart 0 (onBay bay) []).refreshState)

/-- The identity memory names this accepted part (R461). -/
def partIs (partNo : Bytes) (t : String) : Bool := padTo 16 partNo == padTo 16 (asciiBytes t)

/-- LASER_MODULE_INSERT (R265, R455). -/
def execLaserModuleInsert (bay : Nat) (partNo : Bytes) (s : State) : Host.Outcome State Fault Refusal :=
  answer s (
    let a := laserReg bay
    let b := laserReg (bay / 2 * 2 + (1 - bay % 2))
    if 10 ≤ bay ∨ bitOf (s.reg a).toNat 0 then s
    else
      let s := (s.setField a 0 1 1).setField a 2 1 0
      if !partIs partNo "VH1-LM-O13" then s.record 0x0605 3 noPart 0 (onBay bay) (padTo 16 partNo)
      else
        let s := (s.setField a 1 1 1).moduleHours bay
        let s := if bitOf (s.reg b).toNat 1 then (s.setField a 3 1 0).setField b 3 1 0 else s.setField a 3 1 1
        s.refreshState)

/-- The PCI Express link of the endpoint changes (R341, R347): while it is down, completions that wait pulse RDYBSY. -/
def State.setPcie (s : State) (up : Bool) : State :=
  let s := { s with host := { s.host with pcieUp := up } }
  if !up && (List.range 64).any (fun r => (s.ring r).posted ≠ (s.ring r).consumed) then s.pulse else s

/-- A link die is lost (R309): its packets, contexts and ports go, and its exit entry is the next die's. -/
def State.loseLink (s : State) (die : Nat) : State :=
  if 6 ≤ die ∨ s.linkLost die then s
  else
    let mine := fun (m : Moving) => match m.target with | .link q => decide (q / 6 = die) | .engine d _ => decide (d = die) | _ => false
    let s := (List.range 6).foldl (fun s j =>
      let x := s.port (die * 6 + j)
      (s.setLink (die * 6 + j) 0).setPort (die * 6 + j) { cable := x.cable, cablePwr := x.cablePwr }) s
    let s := { s with moving := s.moving.filter (fun m => !mine m), ctxs := s.ctxs.filter fun e => decide (e.1 / 64 ≠ die),
                      sparing := { s.sparing with lostDies := s.sparing.lostDies ++ [dieOfLink die] } }
    let s := if die = 0 && s.isBridge then s.setPcie false else s
    s.refreshState

/-- LINK_DIE_LOST (R309). -/
def execLinkDieLost (die : Nat) (s : State) : Host.Outcome State Fault Refusal := answer s (s.loseLink die)

/-- CABLE_PRESENT_CHANGE (R451, R460, R461): an accepted active cable is powered, an unknown one only as a passive
cable; a pulled one stops its port, and a bridge's host cable its PCI Express link. -/
def execCablePresentChange (port : Nat) (present : Bool) (partNo : Bytes) (s : State) : Host.Outcome State Fault Refusal :=
  answer s (
    if 6 ≤ port then s
    else
      let active := partIs partNo "VH1-CBL-A20" || partIs partNo "VH1-CBL-A30"
      let passive := partIs partNo "VH1-CBL-P05" || partIs partNo "VH1-CBL-P10"
      let s := s.setPort port { s.port port with cable := present, cablePwr := present && active }
      if present then
        (if active || passive then s else s.record 0x0606 2 noPart 0 (onLinkDie 0 port) (padTo 16 partNo))
      else if s.isBridge && decide (port < 2) then s.setPcie false
      else s.failPort port)

end Sys2Proof.Machine
end

