-- ==== Sys2Proof/Machine/HostIf.lean ====
section
/-! DEFINITION. The host interface (R312 to R326, R341 to R343): BAR0 registers and doorbells, dispatch, completions and
their signals, the BAR2 aperture, and the replies of relayed commands. -/

namespace Sys2Proof.Machine

/-! ### What the host reaches (R312, R383) -/

/-- The host's writes of BAR0 take effect: a bridge whose firmware serves it, over a link that runs. -/
def State.hostLive (s : State) : Bool := s.isBridge && s.sparing.bar0Live && s.host.pcieUp

/-- The rings are served: `STATE` 2, 3 or 4, or debug mode (R317, R428). -/
def State.serving (s : State) : Bool :=
  decide (s.mgtField 8 0 3 = 2 ∨ s.mgtField 8 0 3 = 3 ∨ s.mgtField 8 0 3 = 4) || s.trust.debug

/-! ### Rings (R319 to R323) -/

def Ring.waiting (x : Ring) : Nat := (x.tail - x.head).toNat
def Ring.unconsumed (x : Ring) : Nat := (x.posted - x.consumed).toNat

/-- Every command ring is full (R341). -/
def State.ringsFull (s : State) : Bool := (List.range 64).all fun r => decide ((s.ring r).waiting = 256)

/-- RDYBSY and `RINGS_FULL` follow the state and the rings (R317, R341). -/
def State.refreshRdy (s : State) : State :=
  let full := s.ringsFull
  let ok := decide (s.mgtField 8 0 3 = 2 ∨ s.mgtField 8 0 3 = 3 ∨ s.mgtField 8 0 3 = 4)
  (s.setMgtField 8 4 1 (b2n full)).setRdy (ok && !full)

/-- `SQ_HEAD` and `FULL` of a ring follow its counters (R317). -/
def State.showRing (s : State) (r : Nat) : State :=
  let x := s.ring r
  ((s.setMgtField (0x104 + 8 * r) 0 16 x.head.toNat).setMgtField (0x104 + 8 * r) 17 1 (b2n (decide (x.waiting = 256)))).refreshRdy

/-- A doorbell is refused (R321). -/
def State.refuseBell (s : State) (r bit v : Nat) : State :=
  (s.setMgtField (0x104 + 8 * r) bit 1 1).record 0x0702 2 noPart 0 (onHost r) (u64 v)

/-- A write of `DB_SQ_TAIL`. -/
def State.sqTail (s : State) (r : Nat) (v : Word) : State :=
  let t : Half := v.setWidth 16
  let x := s.ring r
  if 256 < (t - x.head).toNat then s.refuseBell r 16 t.toNat
  else ((s.setRing r { x with tail := t }).setMgtField (0x104 + 8 * r) 16 1 0).showRing r

/-- A write of `DB_CQ_HEAD`. -/
def State.cqHead (s : State) (r : Nat) (v : Word) : State :=
  let h : Half := v.setWidth 16
  let x := s.ring r
  if x.unconsumed < (h - x.consumed).toNat then s.refuseBell r 18 h.toNat
  else (s.setRing r { x with consumed := h }).setMgtField (0x104 + 8 * r) 18 1 0

/-- DB_SQ_TAIL (R321). -/
def execDbSqTail (ring : Nat) (v : Word) (s : State) : Host.Outcome State Fault Refusal :=
  answer s (onlyIf (s.hostLive && decide (ring < 64)) s (s.sqTail ring v))

/-- DB_CQ_HEAD (R321). -/
def execDbCqHead (ring : Nat) (v : Word) (s : State) : Host.Outcome State Fault Refusal :=
  answer s (onlyIf (s.hostLive && decide (ring < 64)) s (s.cqHead ring v))

/-- Slot i of ring r, as its words stand in BAR0. -/
def State.slotBytes (s : State) (r i : Nat) : Bytes :=
  (List.range 16).flatMap fun j => u32 (s.mgt (0x100000 + r * 0x4000 + i % 256 * 64 + 4 * j)).toNat

/-- Dispatched commands of ring r that have not ended. -/
def State.running (s : State) (r : Nat) : Bool := s.host.started.any fun e => decide (e.2.origin = .ring r)

/-- Ring r has a command that may be dispatched now (R321, R322). -/
def State.canDispatch (s : State) (r : Nat) : Bool :=
  let x := s.ring r
  decide (x.tail ≠ x.head) && !(decide (x.toPost ≠ []) && decide (x.unconsumed = 256))
    && !(slotFence (s.slotBytes r x.head.toNat) && s.running r)

/-- The command at the head of a ring stood there when a reset of its partition was dispatched (R329, R347). -/
def Ring.isDoomed (x : Ring) (slot : Bytes) : Bool :=
  partScope slot && !slotRemote slot && decide (fld slot 0 1 ≠ 0x10)
    && x.doomed.any fun e => decide (e.1 = slotPart slot) && decide (1 ≤ (e.2 - x.head).toNat) && decide ((e.2 - x.head).toNat ≤ 256)

/-- A PART_RESET or PART_DESTROY of partition p is dispatched: what stands in the rings is doomed (R329). -/
def State.doom (s : State) (p : Nat) : State :=
  (List.range 64).foldl (fun s r =>
    let x := s.ring r
    if x.tail = x.head then s else s.setRing r { x with doomed := (p, x.tail) :: x.doomed.filter fun e => decide (e.1 ≠ p) }) s

/-- Start a command; a PART_RESET or PART_DESTROY that passes its checks dooms what stands in the rings. -/
def State.dispatch (s : State) (o : Origin) (slot : Bytes) : State :=
  let id := s.host.nextId
  let s := s.startCmd o slot
  let op := fld slot 0 1
  let resets := op = 0x11 ∨ (op = 0x12 ∧ fld slot 8 1 ≤ 1)
  if (s.cmd id).isSome ∧ resets ∧ !slotRemote slot then s.doom (slotPart slot) else s

/-- COMMAND_DISPATCH (R321, R322, R326, R329): the next command of a ring is copied and checked, and `SQ_HEAD` advances.
Ring 0 goes first. -/
def execCommandDispatch (ring : Nat) (s : State) : Host.Outcome State Fault Refusal :=
  answer s (
    if 64 ≤ ring ∨ !s.serving ∨ !s.canDispatch ring ∨ (ring ≠ 0 ∧ s.canDispatch 0) then s
    else
      let x := s.ring ring
      let slot := s.slotBytes ring x.head.toNat
      let doomed := x.isDoomed slot
      let s := (s.setRing ring { x with head := x.head + 1 }).showRing ring
      let id := s.host.nextId
      if doomed then
        let s := { s with host := { s.host with nextId := id + 1, started := tput s.host.started id { origin := .ring ring, slot := slot } } }
        s.fail id stAborted
      else s.dispatch (.ring ring) slot)

/-! ### Completions (R320, R321, R323, R341) -/

/-- Write bytes into BAR0 as words. -/
def State.putBar0 (s : State) (o : Nat) (bs : Bytes) : State :=
  (List.range (bs.length / 4)).foldl (fun s j => s.setMgt (o + 4 * j) (BitVec.ofNat 32 (fld bs (4 * j) 4))) s

def State.ringVec (s : State) (r : Nat) : Nat := s.mgtField (0x100 + 8 * r) 0 11
def State.ringIrq (s : State) (r : Nat) : Bool := decide (s.mgtField (0x100 + 8 * r) 11 1 = 1)

/-- The message of a ring's vector leaves, and its count of unsignalled entries starts anew. -/
def State.ringSignal (s : State) (r : Nat) : State :=
  (s.setRing r { s.ring r with unsig := 0 }).signal (s.ringVec r) false

/-- A completion of ring r has become visible: RDYBSY pulses where R341 says so, and the message leaves at once, or when
enough entries wait. -/
def State.entryVisible (s : State) (r : Nat) : State :=
  let off := !s.host.msixOn || !s.host.pcieUp
  let s := if off || (s.ringIrq r && s.masked (s.ringVec r)) then s.pulse else s
  if !s.ringIrq r then s
  else
    let n := (s.ring r).unsig + 1
    let s := s.setRing r { s.ring r with unsig := n }
    if s.mgtField (0x100 + 8 * r) 24 8 = 0 ∨ Nat.max 1 (s.mgtField (0x100 + 8 * r) 16 8) ≤ n then s.ringSignal r else s

/-- COMPLETION_POST (R320, R321): the oldest waiting completion of a ring with room. -/
def execCompletionPost (ring : Nat) (s : State) : Host.Outcome State Fault Refusal :=
  answer s (
    let x := s.ring ring
    match x.toPost with
    | [] => s
    | k :: rest =>
      if 64 ≤ ring ∨ !s.serving ∨ 256 ≤ x.unconsumed then s
      else
        let n := x.posted.toNat
        let s := s.setRing ring { x with toPost := rest, posted := x.posted + 1 }
        let s := s.putBar0 (0x200000 + ring * 0x2000 + n % 256 * 32) (k.bytes (1 - n / 256 % 2) ring x.head.toNat)
        s.entryVisible ring)

/-- MSIX_COALESCE_TIMEOUT (R323). -/
def execMsixCoalesceTimeout (ring : Nat) (s : State) : Host.Outcome State Fault Refusal :=
  answer s (onlyIf (decide (ring < 64) && s.ringIrq ring && decide ((s.ring ring).unsig ≠ 0)) s (s.ringSignal ring))

/-- A completion of ring r is pending and calls for pulses (R341). -/
def State.pulsing (s : State) (r : Nat) : Bool :=
  decide ((s.ring r).posted ≠ (s.ring r).consumed)
    && (!s.host.msixOn || !s.host.pcieUp || (s.ringIrq r && s.masked (s.ringVec r)))

/-- RDYBSY_PULSE_REPEAT (R341). -/
def execRdybsyPulseRepeat (s : State) : Host.Outcome State Fault Refusal :=
  answer s (onlyIf ((List.range 64).any s.pulsing) s s.pulse)

/-- The die that runs Gleryn is at work. -/
def State.glerynRuns (s : State) : Bool := decide ((if s.activeCt = 0 then s.trust.ctA else s.trust.ctB).role = 0)

/-- MGT_HEARTBEAT_TICK (R317). -/
def execMgtHeartbeatTick (s : State) : Host.Outcome State Fault Refusal :=
  answer s (onlyIf (s.glerynRuns && s.sparing.bar0Live) s (s.setMgt 0xC (s.mgt 0xC + 1)))

/-! ### Resets of the endpoint (R314, R452) -/

/-- The rings become empty, MSI-X and the aperture are off; commands run on, and their completions are discarded. -/
def State.resetEndpoint (s : State) : State :=
  let f := fun (e : Nat × Started) => match e.2.origin with | .ring _ => (e.1, { e.2 with origin := .network }) | _ => e
  let s := { s with host := { s.host with rings := [], started := s.host.started.map f, msixOn := false, msixMask := false, apWait := [] } }
  let s := (List.range 64).foldl (fun s r => s.setMgt (0x104 + 8 * r) 0) s
  (((s.setMgt 0x20 0).setMgt 0x24 0).setMgt 0x28 0).refreshRdy

/-- FUNCTION_LEVEL_RESET (R314, R452). -/
def execFunctionLevelReset (s : State) : Host.Outcome State Fault Refusal :=
  answer s (onlyIf s.isBridge s s.resetEndpoint)

/-- PCIE_LINK_CHANGE (R341, R347, R452). -/
def execPcieLinkChange (up : Bool) (s : State) : Host.Outcome State Fault Refusal :=
  answer s (onlyIf s.isBridge s (s.setPcie up))

/-! ### BAR2 (R318) -/

/-- Panel address of BAR2 offset o. -/
def State.apAddr (s : State) (o : Nat) : Nat := (s.mgt 0x20).toNat + (s.mgt 0x24).toNat * 0x100000000 + o

/-- The panel of the aperture, if it is another one. -/
def State.apRemote (s : State) : Option (BitVec 24) :=
  let e : BitVec 24 := (s.mgt 0x28).setWidth 24
  if e = 0 ∨ e = s.panelEid then none else some e

/-- The parts of an access that do not cross a 64-byte boundary: address, place and length. -/
def apPieces (a n : Nat) : List (Nat × Nat × Nat) :=
  (List.range (ceilDiv (a % 64 + n) 64)).map fun i =>
    let lo := Nat.max a (a / 64 * 64 + 64 * i)
    let hi := Nat.min (a + n) (a / 64 * 64 + 64 * (i + 1))
    (lo, lo - a, hi - lo)

/-- A READ of one part of a BAR2 read. -/
def State.apRead (s : State) (e : BitVec 24) (x : Nat × Nat × Nat) : State :=
  let lo := x.1 / 32 * 32
  let units := ceilDiv (x.1 % 32 + x.2.2) 32
  let p := ({ mkPacket 0 0x02 e s.panelEid lo false [] with rlen := BitVec.ofNat 7 (units - 1) }).sealed
  let q := ((s.sendFlow p.key).getD { key := p.key }).next
  let piece : ApPiece := { seq := q, addr := x.1, place := x.2.1, skip := x.1 % 32, len := x.2.2 }
  let s := { s with host := { s.host with apWait := s.host.apWait ++ [piece] } }
  s.sendOn agGleryn { pkt := p }

/-- Read len bytes from aperture address a: on this panel at once, on a member by READ packets (R318). -/
def State.bar2Get (s : State) (a len : Nat) : State :=
  match s.apRemote with
  | some e =>
    let s := { s with host := { s.host with lastRead := List.replicate len 0 } }
    (apPieces a len).foldl (fun s x => s.apRead e x) s
  | none =>
    let r : State × Bytes :=
      if isRegister a ∧ len ≠ 4 then (s.draw, (List.range len).map fun i => s.openByte none 0 i)
      else (apPieces a len).foldl (fun (r : State × Bytes) x =>
        if r.1.repairing x.1 then
          (r.1.holdAccess { eid := r.1.panelEid, addr := x.1, place := x.2.1, len := x.2.2 }, r.2 ++ List.replicate x.2.2 0)
        else
          let g := r.1.readAny r.1.panelEid x.1 x.2.2
          (g.1, r.2 ++ g.2)) (s, [])
    { r.1 with host := { r.1.host with lastRead := r.2 } }

/-- Write bytes to aperture address a, on this panel or by WRITE packets to a member (R318, R346). -/
def State.bar2Put (s : State) (a : Nat) (data : Bytes) : State :=
  (apPieces a data.length).foldl (fun s x =>
    let bs := slice data x.2.1 x.2.2
    match s.apRemote with
    | some e => s.sendOn agGleryn { pkt := mkPacket 0 0x01 e s.panelEid x.1 false bs }
    | none => if s.repairing x.1 then s.holdAccess { eid := s.panelEid, addr := x.1, data := some bs } else s.writeAny s.panelEid x.1 bs) s

/-- Gleryn's flow to the member that the aperture names takes packets for n bytes from a now; else the access waits (R276). -/
def State.apReady (s : State) (a n : Nat) : Bool :=
  match s.apRemote with
  | none => true
  | some e => s.canSendN agGleryn { src := s.panelEid, dest := e, cls := 0 } (apPieces a n).length

/-- BAR2_READ (R6, R36, R318): on this panel it returns at once, but for bytes of a cluster whose die is being repaired; on a member it
waits for READ_DATA. -/
def execBar2Read (off len : Nat) (s : State) : Host.Outcome State Fault Refusal :=
  answer s (if !s.hostLive ∨ len = 0 ∨ 0x1000000000 < off + len ∨ s.host.apWait ≠ [] ∨ s.sparing.waiting.any (fun h => h.data.isNone) ∨ !s.apReady (s.apAddr off) len then s else s.bar2Get (s.apAddr off) len)

/-- BAR2_WRITE (R318, R346). -/
def execBar2Write (off : Nat) (data : Bytes) (s : State) : Host.Outcome State Fault Refusal :=
  answer s (if !s.hostLive ∨ 0x1000000000 < off + data.length ∨ !s.apReady (s.apAddr off) data.length then s else s.bar2Put (s.apAddr off) data)

/-- BAR2_READ_TIMEOUT (R318): the read's missing bytes stay zero. -/
def execBar2ReadTimeout (s : State) : Host.Outcome State Fault Refusal :=
  answer s (s.host.apWait.foldl (fun s x =>
    let s := { s with host := { s.host with apWait := s.host.apWait.erase x } }
    (s.setMgt 0x2C (BitVec.ofNat 32 (satAdd 32 (s.mgt 0x2C).toNat 1))).record 0x0701 2 noPart 0 onPanel (u64 x.addr)) s)

/-! ### Register writes (R6, R7, R316, R317) -/

/-- Set the bits of a register that a mask names. -/
def maskInto (old v : Word) (mask : Nat) : Word := (old &&& ~~~ (BitVec.ofNat 32 mask)) ||| (v &&& BitVec.ofNat 32 mask)

def State.writeMgt (s : State) (o : Nat) (v : Word) (mask : Nat) : State := s.setMgt o (maskInto (s.mgt o) v mask)

def State.writeField (s : State) (a : Nat) (v : Word) (mask : Nat) : State := s.setReg a (maskInto (s.reg a) v mask)

/-- A vector that is no longer masked sends what is pending (R323). -/
def State.unmaskAll (s : State) : State :=
  (List.range 2048).foldl (fun s v =>
    if decide (s.mgtField (0x308000 + v / 32 * 4) (v % 32) 1 = 1) && !s.masked v && s.host.msixOn && s.host.pcieUp then
      (s.setMgtField (0x308000 + v / 32 * 4) (v % 32) 1 0).signal v false
    else s) s

/-- A host write of an aligned word of BAR0. -/
def State.writeBar0 (s : State) (o : Nat) (v : Word) : State :=
  if o = 0x1C then s.writeMgt o v 0x7FFF
  else if o = 0x20 then s.writeMgt o v 0xC0000000
  else if o = 0x24 then s.writeMgt o v 0xFFFF
  else if o = 0x28 then s.writeMgt o v 0xFFFFFF
  else if o = 0x30 then s.writeMgt o v 0xFFF
  else if 0x100 ≤ o ∧ o < 0x300 ∧ o % 8 = 0 then s.writeMgt o v 0xFFFF0FFF
  else if 0x10000 ≤ o ∧ o < 0x10200 then (if o % 8 = 0 then s.sqTail ((o - 0x10000) / 8) v else s.cqHead ((o - 0x10000) / 8) v)
  else if 0x100000 ≤ o ∧ o < 0x200000 then s.setMgt o v
  else if 0x300000 ≤ o ∧ o < 0x308000 then
    if o % 16 = 0 then s.writeMgt o v 0xFFFFFFFC
    else if o % 16 = 12 then (s.writeMgt o v 1).unmaskAll
    else s.setMgt o v
  else s

/-- A write by a control die or the cluster sequencer: fields marked RW or RW1C, and the registers that R260, R310 and
R311 let only the control dies set. -/
def State.writeControl (s : State) (a : Nat) (v : Word) : State :=
  let o := a % 0x1000000
  let q := o % 0x400000
  if a % 4 ≠ 0 ∨ !isRegister a then s
  else if a < 0x020100000000 then
    if !s.inUse (a / 0x1000000 % 0x100) then s
    else if 0x200000 ≤ q ∧ q < 0x222000 ∧ q % 0x1000 = 8 then s.setReg a (s.reg a &&& ~~~ (v &&& 0x7F))
    else if q = 0x800 then s.writeField a v 0x1FFF
    else if q = 0x844 then s.writeField a v 0x7FF
    else if q = 0x848 ∨ q = 0x84C then s.setReg a v
    else s
  else if 0x020200000000 ≤ a ∧ a < 0x020300000000 then
    if o = 8 then s.writeField a v 0x3FF else if o = 0x40 then s.writeField a v 3 else s
  else if a = panelBase then s.writeField a v 0x1FF
  else if a = panelBase + 0x40 then s.writeField a v 0xFFFFF
  else if a = panelBase + 0x44 then s.writeMgt 0x14 v 0xFFFFFF
  else if a = pwrBase + 0x18 then s.writeField a v 0xFFFF
  else if a = thmBase + 0x10 then s.writeField a v 0x1F
  else s

/-- REGISTER_WRITE (R6, R7, R84, R316, R317): RW fields are set, RW1C fields cleared, every other write is ignored. A write that is not
aligned is UNPREDICTABLE within its block (R6); that it changes nothing is the model's choice (log entry 102). -/
def execRegisterWrite (space : RegSpace) (off : Nat) (v : Word) (s : State) : Host.Outcome State Fault Refusal :=
  answer s (match space with
    | .bar0 => onlyIf (s.hostLive && decide (off % 4 = 0)) s (s.writeBar0 off v)
    | .config =>
      onlyIf (s.isBridge && decide (off = 0)) s
        ({ s with host := { s.host with msixOn := v.getLsbD 31, msixMask := v.getLsbD 30 } }).unmaskAll
    | .controlDie => s.writeControl off v
    | .other => s)

/-! ### Replies of relayed commands (R343) -/

/-- Host address at which a command's output goes. -/
def Started.hostAddr (c : Started) : Nat := if c.opcode = 0x01 ∨ c.opcode = 0x03 then c.arg 8 8 else c.arg 16 8

/-- The completion that a MGMT_REPLY carries. -/
def completionOf (b : Bytes) : Completion :=
  { cmdId := BitVec.ofNat 16 (fld b 0 2), status := fld b 2 1, opcode := BitVec.ofNat 8 (fld b 6 1), result0 := BitVec.ofNat 64 (fld b 8 8),
    result1 := BitVec.ofNat 64 (fld b 16 8), detail := BitVec.ofNat 32 (fld b 24 4) }

/-- The reply of the command that was relayed under `rseq`: its output goes to the host, and it ends; an accepted
DATA_PLACE or DATA_FETCH moves its data first. -/
def State.relayed (s : State) (p : Packet) (rseq : Word) : State :=
  match s.host.started.find? fun e => decide (e.2.relayed = some rseq) with
  | none => s
  | some (id, c) =>
    let k := completionOf p.payload
    let out := slice p.payload 64 (fld p.payload 36 4)
    let s : State := match c.origin with
      | .ring _ => if out = [] then s else s.hostWrite c.hostAddr out
      | _ => s
    if (c.opcode = 0x22 ∨ c.opcode = 0x23) ∧ k.status = stOk ∧ c.reply = none then
      let ps := c.streamOf s.panelEid
      (s.modCmd id fun c => { c with stream := ps, reply := some k }).streamPump id
    else if c.reply.isSome then s
    else s.finishAs id k

/-- MGMT_REPLY (R277, R343): it answers an MGMT packet of this panel by `SEQ`, and a relayed command by `RSEQ`. -/
def execMgmtReply (p : Packet) (s : State) : Host.Outcome State Fault Refusal :=
  answer s (s.forOp 0x24 p fun s => s.replyIn p fun s =>
    let s : State := match s.awaiting p.dest p.src [0] p.seq with
      | none => s
      | some (k, u) => if u.pkt.opcode = 0x03 then s.settle k u stOk else s
    s.relayed p (BitVec.ofNat 32 (fld p.payload 32 4)))

end Sys2Proof.Machine
end

