-- ==== Sys2Proof/Machine/Partition.lean ====
section
/-! DEFINITION. Partitions (R214, R217, R329, R347, R404, R405): their creation, reset and removal. -/

namespace Sys2Proof.Machine

/-! ### Tables of the stacks (R214, R217) -/

/-- Byte of `SBD_CLU_PART` of cluster c, in every stack. -/
def State.writeCluPart (s : State) (c v : Nat) : State :=
  (List.range 24).foldl (fun s n => s.setField (sbdBase n + 0x400 + c / 4 * 4) (c % 4 * 8) 8 v) s

/-- Set every entry of a partition's pages to e. -/
def State.writePages (s : State) (q : Part) (e : BitVec 64) : State :=
  (onesOf q.stackTbl.toNat 24).foldl (fun s n =>
    (List.range q.pages).foldl (fun s i =>
      let x := s.stack n
      s.setStack n { x with pte := tset pteFree x.pte (q.firstPage + i) e }) s) s

/-- An entry with only `PART`, `OWNED` and `EVER` (R217). -/
def ownedPte (p : Nat) : BitVec 64 := pteFree + BitVec.ofNat 64 (p % 64 * 2 + 0x80)

/-! ### PART_CREATE -/

def overlap1 (a n b m : Nat) : Bool := decide (a < b + m) && decide (b < a + n)

/-- Two partitions share a cluster or a page. -/
def Part.overlaps (a b : Part) : Bool :=
  (overlap1 a.cx a.w b.cx b.w && overlap1 a.cy a.h b.cy b.h)
    || (decide (Nat.land a.stackTbl.toNat b.stackTbl.toNat ≠ 0) && overlap1 a.firstPage a.pages b.firstPage b.pages)

/-- The partition that a PART_CREATE asks for. -/
def Started.newPart (c : Started) : Part :=
  let own := decide (c.arg 16 3 ≠ 0) && decide (c.arg 24 4 ≠ 0)
  { cx := c.byte 8, cy := c.byte 9, w := c.byte 10, h := c.byte 11, rotate := bitOf (c.byte 12) 0,
    stackTbl := if own then BitVec.ofNat 24 (c.arg 16 3) else 0, firstPage := if own then c.arg 20 4 else 0,
    pages := if own then c.arg 24 4 else 0 }

/-- Spares of a new partition's cluster go on shadow duty; where cores may rotate, the higher stays idle for it (R76, R82). -/
def State.spareDuty (s : State) (rotate : Bool) (c : Nat) : State :=
  let free := ((List.range 34).map (s.physIn c)).filter fun pk =>
    (s.hartOf pk).isNone && !(s.physCore pk).retired && !s.sparing.badCore (pk / 34 / 4) (pk / 34 % 4) (pk % 34)
  let on := if rotate && decide (2 ≤ free.length) then free.take (free.length - 1) else free
  free.foldl (fun s pk => s.setPhys pk { s.physCore pk with duty := if on.contains pk then 1 else 2 }) s

/-- PART_CREATE (R206, R214, R217, R329). -/
def execPartCreate (id : Nat) (io : HostIo) (s : State) : Host.Outcome State Fault Refusal :=
  answer s (s.runCmd id 0x10 io fun c =>
    let p := c.partNo
    let q : Part := { c.newPart with auditAt := s.now }
    let taken := s.parts.any fun e => match e.2 with | none => false | some x => q.overlaps x
    if q.w = 0 ∨ 24 < q.cx + q.w then s.fail id stFault (if q.w = 0 then 10 else 8)
    else if q.h = 0 ∨ 24 < q.cy + q.h then s.fail id stFault (if q.h = 0 then 11 else 9)
    else if s.stackPages < q.firstPage + q.pages then s.fail id stFault 20
    else if (s.part p).isSome ∨ taken then s.fail id stNoResource
    else if q.clusters.any s.clusterHole ∨ (onesOf q.stackTbl.toNat 24).any s.stackLost then s.fail id stFenced
    else
      let s := s.setPart p q
      let s := s.writePages q (ownedPte p)
      let s := (List.range 24).foldl (fun s n => s.setReg (sbdBase n + 0x200 + 4 * p) 0) s
      let s := q.clusters.foldl (fun s c =>
        let s := (s.writeCluPart c (0x80 + p)).setReg (s.cluReg c 0x800) (regReset (s.cluReg c 0x800))
        (s.spareDuty q.rotate c).requestWake c) s
      s.finish id stOk 0 0)

/-! ### Reset and removal (R329, R405) -/

/-- A send flow of one of the partition's clusters. -/
def State.ownFlow (s : State) (q : Part) (f : SendFlow) : Bool :=
  match s.clusterOfEid f.key.src with | none => false | some c => q.clusters.contains c

/-- Requests of the partition that a stack has admitted and not answered. -/
def Stack.owes (x : Stack) (p : Nat) (q : Part) : Bool :=
  x.inbox.any (fun e => q.clusters.contains e.1 && decide (0 < groupsIn e.2)) || x.replies.any fun r => decide (r.part = some p)

/-- Nothing of the partition crosses its boundary any more. -/
def State.drained (s : State) (p : Nat) (q : Part) : Bool :=
  s.sends.all (fun f => !s.ownFlow q f || decide (f.unack = [])) && (List.range 24).all fun n => !(s.stack n).owes p q

/-- Abandon the partition's flows and drop its attention requests. -/
def State.abandon (s : State) (p : Nat) (q : Part) : State :=
  let s := { s with sends := s.sends.filter fun f => !s.ownFlow q f }
  (List.range 24).foldl (fun s n =>
    let x := s.stack n
    s.setStack n { x with inbox := x.inbox.filter (fun e => !q.clusters.contains e.1), order := x.order.filter (fun c => !q.clusters.contains c), replies := x.replies.filter fun r => decide (r.part ≠ some p) }) s

/-- End every dispatched command of partition p but command `id` with ABORTED. -/
def State.abortCmds (s : State) (p id : Nat) : State :=
  s.host.started.foldl (fun s e =>
    if partScope e.2.slot && decide (e.2.partNo = p) && decide (e.1 ≠ id) && e.2.relayed.isNone && decide (e.2.opcode ≠ 0x10)
    then s.fail e.1 stAborted else s) s

/-- The partition stops (R405): step, queued steps and activations end with ABORTED, and its tokens are discarded. -/
def State.stopPart (s : State) (p id : Nat) : State :=
  let s := s.endStep p stAborted
  let s := (s.regionsOf p).foldl (fun s e => s.dropActivation e.1 stAborted) s
  let s := s.abortCmds p id
  let s := s.clearPart p
  s.modPart p fun q => { q with queued := [], step := none, freeze := .reset }

/-- A reset begins: command, mode, and whether the partition goes. -/
def State.startReset (s : State) (p id : Nat) (absorb destroy : Bool) : State :=
  let s := (s.stopPart p id).modPart p fun q => { q with reset := some { cmd := id, absorb := absorb, destroy := destroy } }
  match s.part p with
  | none => s
  | some q => if absorb then s.abandon p q else s

/-- PART_RESET (R329, R405). -/
def execPartReset (id : Nat) (io : HostIo) (s : State) : Host.Outcome State Fault Refusal :=
  answer s (s.runCmd id 0x12 io fun c =>
    if 1 < c.byte 8 then s.fail id stVersion 8
    else if (match s.part c.partNo with | none => false | some q => q.reset.isSome) then s
    else s.startReset c.partNo id (decide (c.byte 8 = 1)) false)

/-- PART_DESTROY (R329, R405). -/
def execPartDestroy (id : Nat) (io : HostIo) (s : State) : Host.Outcome State Fault Refusal :=
  answer s (s.runCmd id 0x11 io fun c =>
    if (match s.part c.partNo with | none => false | some q => q.reset.isSome) then s
    else s.startReset c.partNo id false true)

/-- Regions and queue endpoints of partition p go. -/
def State.dropRegions (s : State) (p : Nat) (q : Part) : State :=
  let s := s.dropEndpoints ((q.records.filter fun r => !r.circuit).map (·.id))
  { s with regions := s.regions.filter fun e => match e.2 with | none => false | some r => decide (r.part ≠ p) }

/-- What remains of a partition after its reset: identity, pages, step count and results. -/
def Part.afterReset (q : Part) (hole : Bool) : Part :=
  { q with
    step := none, queued := [], freeze := .no, freezeDue := if q.freezeDue = .retirement then .retirement else .no, rotated := [], standing := [],
    records := [], data := [], reset := none, rateWait := false, discardDue := false, snap := [], repairRec := [], capsLost := false,
    fenced := hole, throttled := false, avgPower := [] }

/-- The partition ceases to exist (R214, R217, R329, R363): its clusters go OFF. -/
def State.removePart (s : State) (p : Nat) (q : Part) : State :=
  let s := s.writePages q pteFree
  let s := q.clusters.foldl (fun s c => (s.writeCluPart c 0).setReg (pwrClu c) (BitVec.ofNat 32 (setBits (setBits (s.reg (pwrClu c)).toNat 0 5 0) 15 1 0))) s
  let mine := (List.range 1024).filter fun i => bitOf (s.resEntry i) 24 && decide (bits (s.resEntry i) 38 6 = p)
  let s := mine.foldl (fun s i => s.setRes i residentFree) s
  { s with parts := tset none s.parts p none, power := { s.power with wakes := s.power.wakes.filter fun e => !q.clusters.contains e.1 } }

/-- Circuit units of the partition that have not moved on since its reset began are discarded in the routers of its clusters (R258). -/
def State.dropUnits (s : State) (q : Part) : State :=
  let bs := (q.clusters.filter fun c => !s.clusterHole c).map s.blk
  let s := { s with sparing := { s.sparing with slotsDue := s.sparing.slotsDue.filter fun e => !bs.contains e.1 } }
  (bs.flatMap fun b => (List.range 5).map (blkPort b)).foldl (fun s p =>
    let x := s.seam p
    if x.out = [] ∧ x.late = [] then s else (s.setSeam p { x with out := [], late := [] }).noteLate p) s

/-- The reset of partition p ends: its clusters are reset (R404), and the command completes. -/
def State.finishReset (s : State) (p : Nat) (q : Part) (r : Resetting) (late : Bool) : State :=
  let s := ((s.abandon p q).dropRegions p q).dropUnits q
  let s := (q.clusters.filter fun c => !s.clusterHole c).foldl (fun s c => s.resetCluster c) s
  let s : State := if r.destroy then s.removePart p q
    else
      let s := q.clusters.foldl (fun s c => (s.spareDuty q.rotate c).setPower c (Nat.min 2 (s.power? c))) s
      (s.writePages q (ownedPte p)).setPart p (q.afterReset (q.clusters.any s.clusterHole))
  s.finish r.cmd stOk r.absorbed (b2n late)

/-- PART_RESET_DRAIN_END (R405): what crosses the boundary has ended, or after 1 ms the rest is absorbed. -/
def execPartResetDrainEnd (part : Nat) (s : State) : Host.Outcome State Fault Refusal :=
  answer s (match s.part part with
    | none => s
    | some q => match q.reset with
      | none => s
      | some r => s.finishReset part q r (!r.absorb && !s.drained part q))

end Sys2Proof.Machine
end

