-- ==== Sys2Proof/Machine/Power.lean ====
section
/-! DEFINITION. Power (R350 to R369): feeds, modules and phases, wakes, clock steps, the cap, and shed. -/

namespace Sys2Proof.Machine

/-! ### Feeds (R350, R351, R444) -/

def State.feed (s : State) (f : Feed) : FeedState := match f with | .a => s.power.feedA | .b => s.power.feedB

def feedReg (f : Feed) : Nat := match f with | .a => pwrBase + 0xC | .b => pwrBase + 0x10

def FeedState.ok (x : FeedState) : Bool := decide (x = .operating) || decide (x = .brownout)

/-- Set a feed's state, with `FEED_A_OK`, `FEED_B_OK` and `BROWNOUT`. -/
def State.setFeed (s : State) (f : Feed) (x : FeedState) : State :=
  let w := s.power
  let s := { s with power := match f with | .a => { w with feedA := x } | .b => { w with feedB := x } }
  let s := (s.setField pwrBase 0 1 (b2n s.power.feedA.ok)).setField pwrBase 1 1 (b2n s.power.feedB.ok)
  s.setField pwrBase 2 1 (b2n (decide (s.power.feedA = .brownout) || decide (s.power.feedB = .brownout)))

/-- What a voltage (10 mV) held for a time makes of a feed (R351). -/
def feedNext (x : FeedState) (v us : Nat) : FeedState :=
  let gone := decide (x = .absent) || decide (x = .lost)
  if 4400 ≤ v ∧ v ≤ 6000 then (if gone then (if 1000000 ≤ us then .operating else x) else .operating)
  else if gone then x
  else if 4000 ≤ v ∧ v < 4400 then (if us ≤ 10000 then .brownout else .lost)
  else if 6000 < v ∧ v ≤ 6300 then (if us ≤ 100000 then x else .lost)
  else if v < 4000 ∧ us < 20 then x else .lost

def feedByte (f : Feed) : Nat := match f with | .a => 0 | .b => 1

/-- FEED_STATE_CHANGE (R350, R351). -/
def execFeedStateChange (f : Feed) (v10mV us : Nat) (s : State) : Host.Outcome State Fault Refusal :=
  answer s (
    let x := s.feed f
    let y := feedNext x v10mV us
    let s := (s.setField (feedReg f) 0 16 v10mV).setFeed f y
    if x ≠ .brownout ∧ y = .brownout then
      (s.count (pwrBase + 0x48) 1).record 0x0801 3 noPart 0 onPanel (u8 (feedByte f) ++ u16 v10mV)
    else if x.ok ∧ y = .lost then s.record 0x0802 4 noPart 0 onPanel (u8 (feedByte f) ++ u16 v10mV)
    else s)

/-- FEED_INSERT (R443, R444): the feed charges the plane, or in a running panel its own input stage, and joins under R351. -/
def execFeedInsert (f : Feed) (v10mV : Nat) (s : State) : Host.Outcome State Fault Refusal :=
  answer s (
    if s.feed f ≠ .absent then s
    else
      let s := (s.setField (feedReg f) 0 16 v10mV).setFeed f .lost
      { s with power := { s.power with plane := true } })

/-- Higher voltage of the feeds in use, 10 mV. -/
def State.feedVolts (s : State) : Nat :=
  Nat.max (if s.power.feedA.ok then s.field (pwrBase + 0xC) 0 16 else 0) (if s.power.feedB.ok then s.field (pwrBase + 0x10) 0 16 else 0)

/-! ### Caps and clock steps (R357, R360, R364, R365, R374) -/

/-- Highest n − 1 that failed phases leave: 1.5 A + 3.2 A × n within 32 A × (8 − f) ÷ 8 (R357, R358). -/
def phaseCap (f : Nat) : Nat := Nat.min 8 ((320 * (8 - f) / 8 - 15) / 32) - 1

def State.thermCap (s : State) (c : Nat) : Nat := tget 7 s.power.thermCap c
def State.panelCap (s : State) (c : Nat) : Nat := tget 7 s.power.panelCap c

/-- `CAP_M1`, `THERMAL` and the clock step of a cluster follow its caps. -/
def State.refreshCap (s : State) (c : Nat) : State :=
  let a := pwrClu c
  let cap := Nat.min (phaseCap (s.field a 8 3)) (Nat.min (s.thermCap c) (s.panelCap c))
  let s := (s.setField a 5 3 cap).setField a 13 1 (b2n (decide (s.thermCap c < 7)))
  s.setField a 2 3 (Nat.min (s.field a 2 3) cap)

def State.setThermCap (s : State) (c v : Nat) : State :=
  ({ s with power := { s.power with thermCap := tset 7 s.power.thermCap c v } }).refreshCap c

def State.setPanelCap (s : State) (c v : Nat) : State :=
  ({ s with power := { s.power with panelCap := tset 7 s.power.panelCap c v } }).refreshCap c

/-- Die of a cluster's VPM. -/
def State.dieOfCluster (s : State) (c : Nat) : Nat := s.blk c / 4

/-- Headroom of a VPM, 0.01 A (R364). -/
def State.headroom (s : State) (die : Nat) : Nat := 9000 - tget 0 s.power.vpmCur die - tget 0 s.power.reserved die

/-- Rise of the present 10 µs window, 0.1 W (R364). -/
def State.slewNow (s : State) : Nat := if s.now / usec 10 = s.power.slewAt / usec 10 then s.power.slewUsed else 0

/-- The slew limit allows a rise. -/
def State.slewOk (s : State) (n : Nat) : Bool := decide (s.slewNow + n ≤ 20000)

def State.takeSlew (s : State) (n : Nat) : State := { s with power := { s.power with slewUsed := s.slewNow + n, slewAt := s.now } }

/-- Rises that the model counts for a wake and for a clock step: 10 A and 1.8 A at 1.8 V, 0.1 W (R354, R364). -/
abbrev wakeRise : Nat := 180
abbrev stepRise : Nat := 33

/-! ### Wakes (R362 to R364) -/

/-- WAKE_REQUEST (R363, R364): a cluster in no partition never wakes. -/
def execWakeRequest (cluster : Nat) (s : State) : Host.Outcome State Fault Refusal :=
  answer s (onlyIf (decide (cluster < 576) && (s.partOf cluster).isSome && decide (s.field (pwrClu cluster) 14 1 = 0)) s (s.requestWake cluster))

/-- The cluster awaits a wake that may be granted at some time. -/
def State.wakePending (s : State) (c : Nat) : Bool :=
  decide (s.field (pwrClu c) 15 1 = 1) && decide (s.field (pwrClu c) 14 1 = 0) && !s.shedding && !s.clusterHole c

/-- The wake itself (R362): from OFF, every SRAM row is filled with zeros; the cluster comes to IDLE at n = 4. -/
def State.wake (s : State) (c : Nat) : State :=
  let s := if s.power? c = 0 then { s with mem := memZero s.mem (sramBase c) 0x1000000 } else s
  let s := ((s.setPower c 2).setField (pwrClu c) 15 1 0).setField (pwrClu c) 2 3 3
  let die := s.dieOfCluster c
  let s := { s with power := { s.power with
    wakes := tset none s.power.wakes c none, deferred := s.power.deferred.filter (· ≠ c), lastWake := tset none s.power.lastWake die (some s.now),
    reserved := tset 0 s.power.reserved die (tget 0 s.power.reserved die + 1000) } }
  ((s.takeSlew wakeRise).count64 (pwrBase + 0x20) 1).refreshCap c

/-- The VPM of a die granted no wake in the last 50 µs. -/
def State.vpmQuiet (s : State) (die : Nat) : Bool :=
  match tget none s.power.lastWake die with | none => true | some t => decide (t + usec 50 ≤ s.now)

/-- WAKE_GRANT (R364): granted, or counted once as deferred. -/
def execWakeGrant (cluster : Nat) (s : State) : Host.Outcome State Fault Refusal :=
  answer s (
    let die := s.dieOfCluster cluster
    if 576 ≤ cluster ∨ s.field (pwrClu cluster) 15 1 = 0 then s
    else if s.wakePending cluster && decide (1000 ≤ s.headroom die) && s.vpmQuiet die && s.slewOk wakeRise then s.wake cluster
    else if s.power.deferred.contains cluster then s
    else ({ s with power := { s.power with deferred := s.power.deferred ++ [cluster] } }).count64 (pwrBase + 0x28) 1)

/-- Running clusters of a die. -/
def State.runningOn (s : State) (die : Nat) : List Nat := ((List.range 576).filter fun c => decide (s.dieOfCluster c = die)).filter fun c => decide (s.power? c = 3)

/-- Lower the clock step of the fastest of a list of clusters; each step gives 1.8 A. -/
def State.lowerOne (s : State) (cs : List Nat) : State :=
  let top := (cs.map fun c => s.field (pwrClu c) 2 3).foldl Nat.max 0
  if top = 0 then s
  else match cs.find? fun c => decide (s.field (pwrClu c) 2 3 = top) with
    | none => s
    | some c => s.setField (pwrClu c) 2 3 (top - 1)

/-- WAKE_FORCED (R364): the VPM's running clusters slow down until 10 A of headroom exist. -/
def execWakeForced (cluster : Nat) (s : State) : Host.Outcome State Fault Refusal :=
  answer s (
    let die := s.dieOfCluster cluster
    if 576 ≤ cluster ∨ !s.wakePending cluster then s
    else
      let steps := ceilDiv (1000 - s.headroom die) 180
      let s := (List.range steps).foldl (fun s _ => s.lowerOne (s.runningOn die)) s
      (s.wake cluster).count (pwrBase + 0x30) 1)

/-- CLOCK_STEP_RAMP (R364): one step up, within the caps, the VPM's headroom and the slew limit. -/
def execClockStepRamp (cluster : Nat) (s : State) : Host.Outcome State Fault Refusal :=
  answer s (
    let a := pwrClu cluster
    let n := s.field a 2 3
    if 576 ≤ cluster ∨ s.power? cluster < 2 ∨ s.shedding ∨ s.field a 5 3 ≤ n ∨ s.headroom (s.dieOfCluster cluster) < 180 ∨ !s.slewOk stepRise then s
    else (s.setField a 2 3 (n + 1)).takeSlew stepRise)

/-- An accumulator file that has lost its contents: open values (R361). An engine that has accumulated nothing keeps its zeros. -/
def lostAcc (d : Nat) (acc : Tbl Word) : Tbl Word :=
  if acc = [] then [] else (List.range 2048).foldl (fun t i => tset 0 t i (Config.freeWord (d + i))) []

/-- A cluster enters RETAIN: latches, accumulators and activation buffers are lost (R361). -/
def State.retain (s : State) (c : Nat) : State :=
  let d := s.free
  let s := s.draw
  let lose := fun (e : Nat × Engine) => (e.1, { e.2 with kept := none, acc := lostAcc d e.2.acc, row := [] })
  let s := (hartsOf c).foldl (fun s h =>
    let k := s.core h
    s.setCore h { k with eng := (k.eng.map lose).filter fun e => decide (e.2 ≠ {}) }) s
  s.setPower c 1

/-- No step is in progress in the cluster's region, and its bulk-mover channels are idle (R362). -/
def State.mayRetain (s : State) (c : Nat) : Bool :=
  (match s.partOf c with
    | none => true
    | some p => match s.part p with
      | none => true
      | some q => match q.step with
        | none => true
        | some st => !(s.stepClusters p st).contains c)
    && (s.clu c).chans.all fun e => e.2.idle

/-- IDLE_RETAIN_TIMEOUT (R363). -/
def execIdleRetainTimeout (cluster : Nat) (s : State) : Host.Outcome State Fault Refusal :=
  answer s (onlyIf (decide (cluster < 576) && decide (s.power? cluster = 2) && decide (s.field (pwrBase + 0x18) 0 16 ≠ 0) && s.mayRetain cluster) s
    (s.retain cluster))

/-! ### The cap (R350, R365, R368) -/

/-- Commanded cap and shed level, in units of 10 W. -/
def State.cmdCap (s : State) : Nat := s.field (pwrBase + 8) 0 11
def State.shedLevel (s : State) : Nat := if s.power.lossShed then 110 else s.field (pwrBase + 4) 16 11

/-- The feed limit: 420 A at the higher feed, in units of 10 W. -/
def State.feedLimit (s : State) : Nat := 420 * s.feedVolts / 1000

/-- The effective cap and the flags that say what sets it. -/
def State.refreshLimit (s : State) : State :=
  let cmd := s.cmdCap
  let heat := Nat.min s.power.coolLimit s.power.stackLimit
  let cap := Nat.min cmd (Nat.min s.feedLimit heat)
  let s := (s.setField (pwrBase + 4) 0 11 cap).setField (pwrBase + 4) 16 11 (Nat.min (s.field (pwrBase + 8) 16 11) cmd)
  let s := s.setField pwrBase 6 1 (b2n (decide (s.feedLimit = cap) && decide (cap < cmd)))
  s.setField pwrBase 7 1 (b2n (decide (heat = cap) && decide (cap < cmd)))

/-- Clusters in RUN. -/
def State.runs (s : State) : List Nat := (List.range 576).filter fun c => decide (s.power? c = 3)

/-- Above the cap, the running clusters with the highest n go one step down; with every one at n = 1, `CAP_SHORT` is set. -/
def State.lowerAll (s : State) (pIn : Nat) : State :=
  let top := (s.runs.map fun c => s.field (pwrClu c) 2 3).foldl Nat.max 0
  if top = 0 then
    if s.field pwrBase 5 1 = 1 then s else (s.setField pwrBase 5 1 1).record 0x0805 3 noPart 0 onPanel (u32 pIn)
  else (s.runs.filter fun c => decide (s.field (pwrClu c) 2 3 = top)).foldl (fun s c => s.setPanelCap c (top - 1)) s

/-- Below the cap, capped clusters may rise one step again, under the slew limit. -/
def State.raiseAll (s : State) : State :=
  (s.power.panelCap.map (·.1)).foldl (fun s c =>
    if s.slewOk stepRise && decide (s.panelCap c < 7) then (s.setPanelCap c (s.panelCap c + 1)).takeSlew stepRise else s) s

/-- A running step takes a sample of the input power (R377). -/
def Part.noteDrawn (q : Part) (pIn : Nat) : Part :=
  { q with step := q.step.map fun st => if st.released then { st with drawn := st.drawn + pIn, samples := st.samples + 1 } else st }

/-- Store a sample of the power measurements. -/
def State.takeSample (s : State) (r : PowerReading) : State :=
  let s := (s.parts.map (·.1)).foldl (fun s p => s.modPart p fun q => q.noteDrawn r.pIn) s
  let s := (s.setField (pwrBase + 0x14) 0 24 r.pIn).setField (pwrBase + 0xC) 16 16 r.ampsA
  let s := s.setField (pwrBase + 0x10) 16 16 r.ampsB
  let s := r.slots.foldl (fun s e => if e.1 < 188 then s.setReg64 (pwrBase + 0x1000 + 8 * e.1) e.2.toNat else s) s
  { s with power := { s.power with
    vpmCur := r.vpm, dieIn := r.input, reserved := s.power.reserved.filter fun e => !s.vpmQuiet e.1 } }

/-- POWER_MANAGER_TICK (R350, R364, R365, R368). -/
def execPowerManagerTick (r : PowerReading) (s : State) : Host.Outcome State Fault Refusal :=
  answer s (
    let s := (s.takeSample r).refreshLimit
    let cap := s.field (pwrBase + 4) 0 11
    if cap * 100 < r.pIn then s.lowerAll r.pIn
    else
      let s := s.setField pwrBase 5 1 0
      if r.pIn + stepRise ≤ cap * 100 then s.raiseAll else s)

/-! ### Shed (R366, R367) -/

/-- Every cluster in RUN pauses at its pause boundary and enters IDLE. -/
def State.pauseAll (s : State) : State :=
  let cs := s.runs
  let s := cs.foldl (fun s c => s.setPower c 2) s
  { s with power := { s.power with paused := s.power.paused ++ cs.filter fun c => !s.power.paused.contains c } }

/-- Paused clusters run again at n = 4, or their cap below it; waits for wakes start anew (R367, R379). -/
def State.resumeAll (s : State) : State :=
  let s := s.power.paused.foldl (fun s c =>
    if s.power? c = 2 then ((s.setPower c 3).setField (pwrClu c) 2 3 (Nat.min 3 (s.field (pwrClu c) 5 3))).takeSlew stepRise else s) s
  let again := s.power.wakes.map fun e => (e.1, e.2.map fun _ => s.now)
  { s with power := { s.power with paused := [], wakes := again } }

/-- SHED_ASSERT (R366, R367). -/
def execShedAssert (s : State) : Host.Outcome State Fault Refusal :=
  answer s (onlyIf (decide (s.field pwrBase 3 1 = 0)) s (((s.setField pwrBase 3 1 1).count (pwrBase + 0x34) 1).pauseAll))

/-- SHED_LEVEL_CHECK (R367): 200 µs on, clusters without a step go to RETAIN, and a level still not met is noted. -/
def execShedLevelCheck (pIn pAfter : Nat) (s : State) : Host.Outcome State Fault Refusal :=
  answer s (
    let level := s.shedLevel * 100
    if !s.shedding ∨ pIn ≤ level then s
    else
      let cs := (List.range 576).filter fun c => decide (s.power? c = 2) && s.mayRetain c
      let s := cs.foldl (fun s c => s.retain c) s
      if pAfter ≤ level then s else (s.setField pwrBase 4 1 1).record 0x0806 3 noPart 0 onPanel (u32 pAfter))

/-- SHED_DEASSERT (R366, R367, R379): while LOSS sheds the panel, clusters do not resume. -/
def execShedDeassert (s : State) : Host.Outcome State Fault Refusal :=
  answer s (
    if s.field pwrBase 3 1 = 0 then s
    else
      let s := (s.setField pwrBase 3 1 0).setField pwrBase 4 1 0
      if s.power.lossShed then s else s.resumeAll)

/-! ### Faults of modules and phases (R354, R357, R358, R359) -/

/-- A control die stops (R416); the failover is a command of its own. -/
def State.stopControl (s : State) (d : Nat) : State :=
  { s with trust := if d = 0 then { s.trust with ctA := { s.trust.ctA with stopped := true } }
                    else { s.trust with ctB := { s.trust.ctB with stopped := true } } }

/-- A die is failed (R354, R372, R374): a compute die is retired, a stack or link die lost, a control die stops. -/
def State.failDie (s : State) (die cause lossCause : Nat) : State :=
  if die < 156 then s.retireDie die cause none false
  else if die < 180 then s.loseStack (die - 156) lossCause
  else if die < 186 then s.loseLink (die - 180)
  else if die < 188 then s.stopControl (die - 186) else s

/-- Switch a VPM on or off; `tripped` opens its switch. -/
def State.setVpm (s : State) (die : Nat) (on tripped : Bool) : State :=
  let a := pwrBase + 0x100 + 4 * die
  let s := s.setField a 0 1 (b2n on)
  if tripped then s.setField a 1 1 1 else s

/-- VPM_TRIP (R354): a tripped switch stays open. -/
def execVpmTrip (die : Nat) (s : State) : Host.Outcome State Fault Refusal :=
  answer s (
    if 188 ≤ die ∨ s.field (pwrBase + 0x100 + 4 * die) 1 1 = 1 then s
    else
      let s := (s.setVpm die false true).count (pwrBase + 0x38) 1
      let s := (s.record 0x0803 5 noPart 0 onPanel (u8 die)).addDefect 1 6 kDie die 0 0
      s.failDie die 6 0)

/-- A cluster reaches the dark threshold (R357, R358): its clock and rails stop, and its die is retired. -/
def State.goDark (s : State) (c site : Nat) : State :=
  let s := (s.setField (pwrClu c) 14 1 1).setPower c 0
  s.retireDie site 7 none false

/-- REGULATOR_PHASE_FAULT (R357, R358): domains 0 VDD_LOGIC, 1 VDD_SRAM, 2 VDD_LINK, 3 VDD_MIF. -/
def execRegulatorPhaseFault (site quad domain phase : Nat) (s : State) : Host.Outcome State Fault Refusal :=
  answer s (
    let known := decide (domain < 2) && s.sparing.listed kPhase site quad (domain * 256 + phase)
    if 156 ≤ site ∨ 4 ≤ quad ∨ 4 ≤ domain ∨ 8 ≤ phase ∨ known then s
    else
      let s := s.count (pwrBase + 0x3C) 1
      let s := s.record 0x0804 3 noPart 0 (onSite site quad) (u8 domain ++ u8 phase)
      if 2 ≤ domain then
        let k := site * 2 + (domain - 2)
        let n := tget 0 s.power.railFails k + 1
        let s := { s with power := { s.power with railFails := tset 0 s.power.railFails k n } }
        if n < 2 then s else s.failDie site 7 3
      else
        let s := s.addDefect 1 7 kPhase site quad (domain * 256 + phase)
        match s.blkCluster (site * 4 + quad) with
        | none => s
        | some c =>
          let a := pwrClu c
          let s := if domain = 0 then s.setField a 8 3 (Nat.min 3 (s.field a 8 3 + 1)) else s.setField a 11 2 (Nat.min 2 (s.field a 11 2 + 1))
          if s.field a 8 3 = 3 ∨ s.field a 11 2 = 2 then s.goDark c site else s.refreshCap c)

/-- DROOP_DETECT (R359): withheld clock pulses are counted. -/
def execDroopDetect (cluster pulses : Nat) (s : State) : Host.Outcome State Fault Refusal :=
  answer s (onlyIf (decide (cluster < 576) && decide (2 ≤ s.power? cluster)) s (s.count64 (pwrBase + 0x40) pulses))

end Sys2Proof.Machine
end

