-- ==== Sys2Proof/Machine/Thermal.lean ====
section
/-! DEFINITION. Clocks, temperatures and the coolant loop (R370 to R380). -/

namespace Sys2Proof.Machine

/-! ### Clocks (R370, R372) -/

def clkDie (die : Nat) : Nat := clkBase + 0x100 + 4 * die

/-- Inputs of a die that run, without the one that failed: 0 N, 1 E, 2 S, 3 W, 4 and 5 the rim. -/
def liveInputs (live : BitVec 6) (gone : Nat) : List Nat := (List.range 6).filter fun i => bitOf live.toNat i && decide (i ≠ gone)

/-- The input a die switches to: its backup, else the first live one in the order N, E, S, W, rim. -/
def nextInput (backup : Nat) (ins : List Nat) : Option Nat := if ins.contains backup then some backup else ins.head?

/-- Units that wait for their slots at an end of a seam become late. -/
def SeamEnd.allLate (x : SeamEnd) : SeamEnd :=
  { x with out := [], late := (x.out.map fun e => withLane (markLate e.2.2) e.2.1) ++ x.late }

/-- The clock of a compute die has changed (R240, R372): every seam port counts a slip, its units are late, and the die's routers restart their
frame counters. -/
def State.slipDie (s : State) (die : Nat) : State :=
  if 156 ≤ die then s
  else
    let s := (List.range 20).foldl (fun s i =>
      let p : PortRef := { site := die, quad := i / 5, port := i % 5 }
      if s.seamRuns p then ((s.slip p).setSeam p (s.seam p).allLate).noteLate p else s) s
    s.restartFrames ((List.range 4).map (die * 4 + ·))

/-- CLOCK_INPUT_LOSS (R372): the die's input changes, or it holds over. The stored offset of the new input and Gleryn's
new backup are free values. -/
def execClockInputLoss (die : Nat) (live : BitVec 6) (s : State) : Host.Outcome State Fault Refusal :=
  answer s (
    let a := clkDie die
    let cur := s.field a 6 3
    let ins := liveInputs live cur
    if 188 ≤ die ∨ s.field a 11 1 = 1 then s
    else match nextInput (s.field a 3 3) ins with
      | none =>
        if s.field a 10 1 = 1 then s
        else ((((s.setField a 3 3 7).setField a 6 3 7).setField a 10 1 1).count (clkBase + 8) 1).slipDie die
      | some k =>
        let rest := ins.filter (· ≠ k)
        let d := s.free
        let s := ((s.draw.setField a 6 3 k).setField a 9 1 1).setField a 10 1 0
        let s := s.setField a 12 8 (Config.freeByte d 0).toNat
        let s := s.setField a 3 3 (rest.getD (Config.choice d % rest.length) 7)
        (s.count (clkBase + 4) 1).slipDie die)

/-- CLOCK_HOLDOVER_EXPIRY (R372): a die without an input for 1 ms is failed. -/
def execClockHoldoverExpiry (die : Nat) (s : State) : Host.Outcome State Fault Refusal :=
  answer s (onlyIf (decide (die < 188) && decide (s.field (clkDie die) 10 1 = 1) && decide (s.field (clkDie die) 11 1 = 0)) s
    (((s.setField (clkDie die) 11 1 1).setField (clkDie die) 9 1 0).failDie die 9 3))

/-- REFERENCE_OSCILLATOR_LOSS (R370): CT-B's oscillator holds its last control value and becomes the reference. -/
def execReferenceOscillatorLoss (s : State) : Host.Outcome State Fault Refusal :=
  answer s (((s.setField clkBase 0 1 0).setField clkBase 2 1 1).setField clkBase 3 1 0)

/-! ### Junctions (R374) -/

/-- A die as the subject of a record. -/
def dieSubject (die : Nat) (sub : Nat := 0) : Subject :=
  if die < 156 then onSite die sub else if die < 180 then onStack (die - 156) else if die < 186 then onLinkDie (die - 180) else onControl (die - 186)

/-- One NOTICE per partition and step while a cluster is throttled. -/
def State.noteThrottle (s : State) (c quad : Nat) (t : List Nat) (hot : Nat) : State :=
  match s.partOf c with
  | none => s
  | some p => match s.part p with
    | none => s
    | some q =>
      if q.throttled then s
      else (s.setPart p { q with throttled := true }).record 0x0807 2 p 0 (onCluster c) (u8 (quad * 4 + (t.findIdx? (· = hot)).getD 0) ++ u8 hot)

/-- The cap of cluster c after a sample: one step lower from 95 °C on; one step higher each millisecond once it has read
below 92 °C for a millisecond. -/
def State.throttle (s : State) (c hot : Nat) : State :=
  let cool := fun (s : State) (t : Option Nat) => { s with power := { s.power with coolSince := tset none s.power.coolSince c t } }
  if 95 ≤ hot then (cool s none).setThermCap c (s.thermCap c - 1)
  else if 92 ≤ hot then cool s none
  else match tget none s.power.coolSince c with
    | none => cool s (some s.now)
    | some t => if s.now < t + usec 1000 then s else (cool s (some s.now)).setThermCap c (Nat.min 7 (s.thermCap c + 1))

/-- THERMAL_SAMPLE (R374): the four sensors of a cluster. -/
def execThermalSample (cluster : Nat) (t : List Nat) (s : State) : Host.Outcome State Fault Refusal :=
  answer s (
    if 576 ≤ cluster ∨ t.length ≠ 4 then s
    else
      let b := s.blk cluster
      let hot := t.foldl Nat.max 0
      let s := (s.setTemps (b / 4) (b % 4 * 4) t).throttle cluster hot
      if s.thermCap cluster < 7 then s.noteThrottle cluster (b % 4) t hot else s)

/-- THERMAL_TRIP (R374): the die stops and is handled as failed. -/
def execThermalTrip (die sensor celsius : Nat) (s : State) : Host.Outcome State Fault Refusal :=
  answer s (
    if 188 ≤ die ∨ celsius < 115 then s
    else
      let cs := (List.range 576).filter fun c => decide (s.dieOfCluster c = die) && decide (2 ≤ s.power? c)
      let s := cs.foldl (fun s c => s.retain c) s
      let s := s.setTemps die sensor [celsius]
      let s := (s.record 0x0808 5 noPart 0 (dieSubject die) (u8 sensor ++ u8 celsius)).count (thmBase + 0x20) 1
      s.failDie die 8 3)

/-! ### The flow target (R377) -/

/-- Heat that P (0.1 W) asks of the coolant, as a flow in 0.01 L/min: at least 4 L/min. -/
def State.flowFor (s : State) (p : Nat) : Nat :=
  let k := s.power.trCp * s.power.trRho * s.field (thmBase + 0x10) 0 5
  Nat.max 400 (if k = 0 then 0 else ceilDiv (p * 600000) k)

def State.setTarget (s : State) (q : Nat) : State :=
  let q := Nat.min q 0xFFFF
  ({ s with power := { s.power with qStar := q } }).setField (thmBase + 8) 16 16 q

/-- A higher target holds at once, a lower one once P has asked for less for 5 s. -/
def State.follow (s : State) (p : Nat) : State :=
  let want := s.flowFor p
  let since := fun (s : State) (t : Option Nat) => { s with power := { s.power with lowerAt := t } }
  if s.power.qStar ≤ want then (since s none).setTarget want
  else match s.power.lowerAt with
    | none => since s (some s.now)
    | some t => if s.now < t + usec 5000000 then s else (since s none).setTarget want

/-- Before the release of a step whose regions' last run is known, a higher target is written (R377). -/
def State.flowAhead (s : State) (q : Part) (regions : Nat) : State :=
  match q.avgPower.find? fun e => decide (e.1 = regions) with
  | none => s
  | some e => if s.power.qStar < s.flowFor e.2 then s.setTarget (s.flowFor e.2) else s

/-- While the hottest junction reads above 85 °C, the target rises by 10% every 100 ms. -/
def State.heatFlow (s : State) (hot : Nat) : State :=
  if hot ≤ 85 ∨ s.now < s.power.raisedAt + usec 100000 then s
  else
    let s := { s with power := { s.power with raisedAt := s.now, lowerAt := none } }
    s.setTarget (s.power.qStar * 11 / 10)

/-- The valve command moves so that the flow meets Q*; by how much is a free value. -/
def State.moveValve (s : State) (flow : Nat) : State :=
  let v := s.power.trValve
  let d := Config.choice s.free
  let v := if flow < s.power.qStar then v + d % (1001 - v) else if s.power.qStar < flow then v - d % (v + 1) else v
  ({ s.draw with power := { s.power with trValve := v } }).setField (thmBase + 0xC) 0 10 v

/-! ### Cooling states (R378) -/

/-- How long a condition has held: since when, or none. -/
def since (now : Nat) (c : Bool) (t : Option Nat) : Option Nat := if c then some (t.getD now) else none

/-- It has held for n microseconds. -/
def held (now n : Nat) (t : Option Nat) : Bool := match t with | none => false | some t => decide (t + usec n ≤ now)

/-- Take over a reading of the tray. -/
def State.readTray (s : State) (r : TrayReading) : State :=
  if !r.answers then s.setField thmBase 3 1 0
  else
    let w := s.power
    let moved := decide (r.seq ≠ w.traySeq)
    let s := { s with power := { w with traySeq := r.seq, trayAt := if moved then s.now else w.trayAt, trCp := r.cp.toNat, trRho := r.rho.toNat } }
    let s := (s.setField (thmBase + 4) 0 16 r.inlet.toNat).setField (thmBase + 4) 16 16 r.outlet.toNat
    let s := (s.setField (thmBase + 8) 0 16 r.flow.toNat).setField (thmBase + 0xC) 16 10 r.valve.toNat
    let s := (s.setField thmBase 4 1 (bits r.status.toNat 2 1)).setField thmBase 5 1 (bits r.status.toNat 0 1)
    s.setField thmBase 3 1 (b2n (decide (s.now < s.power.trayAt + usec 100000)))

/-- When the conditions that must last began (R378). -/
def State.coolTimes (s : State) (hot : Nat) : State :=
  let w := s.power
  let flow := s.field (thmBase + 8) 0 16
  let low := decide (flow * 5 < w.qStar * 4) && decide (950 ≤ s.field (thmBase + 0xC) 16 10)
  { s with power := { w with
    lowFlowAt := since s.now low w.lowFlowAt, hotAt := since s.now (decide (90 ≤ hot)) w.hotAt,
    lossFlowAt := since s.now (decide (flow < 200)) w.lossFlowAt } }

/-- Inlet temperature, 1/16 °C. -/
def State.inlet (s : State) : Int := sext 16 (s.field (thmBase + 4) 0 16)

/-- A condition of WARN holds; of DEGRADED; of LOSS. -/
def State.warnNow (s : State) (status : Nat) : Bool :=
  decide (45 * 16 < s.inlet) || held s.now 1000000 s.power.lowFlowAt || decide (bits status 1 5 ≠ 0)
    || decide (s.field thmBase 3 1 = 0) || held s.now 1000000 s.power.hotAt

def State.degradedNow (s : State) : Bool :=
  held s.now 10000000 s.power.warnAt || decide (50 * 16 < s.inlet) || decide (s.field (thmBase + 8) 0 16 * 2 < s.power.qStar)

def State.lossNow (s : State) : Bool := held s.now 1000000 s.power.lossFlowAt || decide (s.field thmBase 4 1 = 1)

/-- The cooling limit in units of 10 W: 20 kW, or what the measured flow carries at 20 K. -/
def State.coolCap (s : State) : Nat :=
  if s.field thmBase 0 3 < 2 then 2000
  else Nat.min 2000 (s.power.trRho * s.power.trCp * s.field (thmBase + 8) 0 16 * 20 / 60000000)

/-- A cooling state is entered: its event, whose cause byte is a free value; LOSS sheds the panel. -/
def State.enterCool (s : State) (n : Nat) : State :=
  let d := s.free
  let s := (s.draw.setField thmBase 0 3 n).record (0x0808 + n) (n + 2) noPart 0 onTray
    ([Config.freeByte d 0] ++ u16 (s.field (thmBase + 8) 0 16) ++ u16 (s.field (thmBase + 4) 0 16))
  let s := { s with power := { s.power with clearAt := none } }
  if n = 3 then ({ s with power := { s.power with lossShed := true, lossAt := some s.now } }).pauseAll else s

/-- LOSS is left for DEGRADED: clusters resume through wakes, unless SHED_L is asserted. -/
def State.leaveLoss (s : State) : State :=
  let s := { s with power := { s.power with lossShed := false, lossAt := none, clearAt := none } }
  let s := s.setField thmBase 0 3 2
  if s.field pwrBase 3 1 = 1 then s
  else
    let s := s.power.paused.foldl (fun s c => if s.power? c = 1 then s.requestWake c else s) s
    s.resumeAll

/-- The cooling state follows its conditions: up at once, down once they have been absent for 10 s; LOSS once the flow has
been 4 L/min for 1 s. -/
def State.coolStep (s : State) (status : Nat) : State :=
  let warn := s.warnNow status
  let s := { s with power := { s.power with warnAt := since s.now warn s.power.warnAt } }
  let level := if s.lossNow then 3 else if s.degradedNow then 2 else if warn then 1 else 0
  let st := s.field thmBase 0 3
  if 4 ≤ st then s
  else if st < level then s.enterCool level
  else
    let clear := if st = 3 then decide (level < 3) && decide (400 ≤ s.field (thmBase + 8) 0 16) else decide (level < st)
    let s := { s with power := { s.power with clearAt := since s.now clear s.power.clearAt } }
    if st = 3 then (if held s.now 1000000 s.power.clearAt then s.leaveLoss else s)
    else if held s.now 10000000 s.power.clearAt then
      { s.setField thmBase 0 3 level with power := { s.power with clearAt := none } }
    else s

/-- The stack limit (R375): lowered every 100 ms until every stack reads below 90 °C, then raised every second. -/
def State.stackSteps (s : State) : State :=
  match s.power.stackAt with
  | none => s
  | some t =>
    let hot := decide (90 ≤ s.field thmBase 16 8)
    let put := fun (l : Nat) (a : Option Nat) => { s with power := { s.power with stackLimit := l, stackAt := a } }
    if hot then (if s.now < t + usec 100000 then s else put (s.power.stackLimit - 100) (some s.now))
    else if s.now < t + usec 1000000 then s
    else
      let l := Nat.min 2000 (s.power.stackLimit + 100)
      put l (if l = 2000 then none else some s.now)

/-- COOLANT_LOOP_TICK (R375, R376, R377, R378): pIn is the panel input power, 0.1 W. -/
def execCoolantLoopTick (r : TrayReading) (pIn hotJunction : Nat) (s : State) : Host.Outcome State Fault Refusal :=
  answer s (
    let s := ((s.readTray r).follow pIn).heatFlow hotJunction
    let s := if r.answers then s.moveValve r.flow.toNat else s
    let s := ((s.coolTimes hotJunction).coolStep r.status.toNat).stackSteps
    ({ s with power := { s.power with coolLimit := s.coolCap } }).refreshLimit)

/-- LOSS goes on: running steps end with FAULT and every cluster goes to RETAIN. -/
def State.lossRetain (s : State) : State :=
  let s := (s.parts.map (·.1)).foldl (fun s p => s.endStep p stFault) s
  ((List.range 576).filter fun c => decide (2 ≤ s.power? c)).foldl (fun s c => s.retain c) s

/-- SAFE: every cluster OFF, `STATE` 4, data-plane contents lost. -/
def State.enterSafe (s : State) : State :=
  let s := s.enterCool 4
  let s := (List.range 576).foldl (fun s c => s.setPower c 0) s
  let s := (List.range 24).foldl (fun s n => s.setStack n { lostBy := (s.stack n).lostBy, fails := (s.stack n).fails, testDue := (s.stack n).testDue }) s
  let kept := (s.clusters.map fun e => (e.1, ({ coreMap := e.2.coreMap } : Cluster))).filter fun e => decide (e.2 ≠ {})
  { s.setPanelState 4 with mem := [], cores := [], clusters := kept, power := { s.power with paused := [] } }

/-- COOLING_LOSS_TIMEOUT (R378): 5 s into LOSS, or at 105 °C; and 30 s into it, when SAFE is entered. -/
def execCoolingLossTimeout (safe : Bool) (s : State) : Host.Outcome State Fault Refusal :=
  answer s (onlyIf (decide (s.field thmBase 0 3 = 3)) s (if safe then s.lossRetain.enterSafe else s.lossRetain))

/-- AUX_SENSOR_POLL (R376): a reading for each listed target. -/
def execAuxSensorPoll (readings : List Nat) (s : State) : Host.Outcome State Fault Refusal :=
  answer s (onlyIf (decide (readings.length = s.power.auxTargets.length)) s { s with power := { s.power with auxTemps := readings } })

end Sys2Proof.Machine
end

