-- ==== Sys2Proof/Machine/Events.lean ====
section
/-! DEFINITION. The event recorder and authorisations (R425, R429 to R435), and the commands that use them. -/

namespace Sys2Proof.Machine

/-! ### Records (R429, R433) -/

/-- The event codes and their severities. -/
def eventCodes : List (Nat × Nat) :=
  [(0x0101, 3), (0x0102, 3), (0x0103, 3), (0x0104, 2), (0x0201, 2), (0x0202, 2), (0x0203, 4), (0x0204, 3), (0x0205, 2), (0x0206, 3),
   (0x0301, 2), (0x0302, 3), (0x0303, 3), (0x0304, 4), (0x0305, 2), (0x0306, 2), (0x0401, 4), (0x0402, 4), (0x0403, 2), (0x0404, 3),
   (0x0405, 5), (0x0406, 5), (0x0407, 2), (0x0408, 5), (0x0501, 2), (0x0502, 2), (0x0503, 2), (0x0504, 3), (0x0505, 3), (0x0506, 2),
   (0x0601, 3), (0x0602, 2), (0x0603, 4), (0x0604, 3), (0x0605, 3), (0x0606, 2), (0x0701, 2), (0x0702, 2), (0x0801, 3), (0x0802, 4),
   (0x0803, 5), (0x0804, 3), (0x0805, 3), (0x0806, 3), (0x0807, 2), (0x0808, 5), (0x0809, 3), (0x080A, 4), (0x080B, 5), (0x080C, 6),
   (0x080D, 5), (0x0901, 2), (0x0902, 4), (0x0903, 3), (0x0904, 3), (0x0905, 3), (0x0906, 2), (0x0907, 1), (0x0908, 3)]
  ++ [(0x0A01, 4), (0x0A02, 3), (0x0A03, 2), (0x0A04, 2), (0x0A05, 2), (0x0A06, 4), (0x0A07, 5), (0x0A08, 1), (0x0A09, 2), (0x0A0A, 3),
   (0x0A0B, 3), (0x0B01, 2)]

/-- EVENT_RECORD (R429): a record of a listed code at its severity. -/
def execEventRecord (code sev part region skind sindex ssub : Nat) (data : Bytes) (s : State) : Host.Outcome State Fault Refusal :=
  answer s (onlyIf (eventCodes.contains (code, sev) && decide (skind < 9)) s
    (s.record code sev part region { kind := skind, index := sindex, sub := ssub } data))

/-! ### Flushing (R430) -/

/-- Remove the oldest event of severity at most `sev`. -/
def dropEvent (sev : Nat) : List Event → Option (List Event)
  | [] => none
  | e :: es => if e.sev ≤ sev then some es else (dropEvent sev es).map (e :: ·)

/-- Records of 64 bytes that the event region holds (R413). -/
abbrev regionSlots : Nat := 524288

/-- One record goes to flash: it takes a free place, or that of the oldest of equal or lower severity, or is dropped. -/
def State.flushOne (s : State) (e : Event) : State :=
  let put := fun (l : List Event) => { s with evr := { s.evr with region := l ++ [e] } }
  if s.evr.region.length < regionSlots then put s.evr.region
  else match dropEvent e.sev s.evr.region with
    | some l => put l
    | none => s.count (evrBase + 0x10) 1

/-- Flush the unflushed records in sequence order; where flash fails they are counted and stay in SRAM. -/
def State.flushAll (s : State) (ok : Bool) : State :=
  let new := (s.evr.buf.filter (·.2)).map (·.1)
  let s := s.setField evrBase 0 1 (b2n ok)
  if ok then
    let s := new.foldl (fun s e => s.flushOne e) s
    { s with evr := { s.evr with buf := s.evr.buf.map fun e => (e.1, false) } }
  else s.count (evrBase + 0x18) new.length

/-- EVENT_FLUSH (R430). -/
def execEventFlush (flashOk : Bool) (s : State) : Host.Outcome State Fault Refusal := answer s (s.flushAll flashOk)

/-- OPERATING_TIME_STORE (R431). -/
def execOperatingTimeStore (s : State) : Host.Outcome State Fault Refusal :=
  answer s { s with trust := { s.trust with opStored := s.trust.opTime } }

/-! ### Authorisations (R425) -/

/-- The record's signer may sign, and its signature verifies. -/
def State.signerOk (s : State) (b : Bytes) : Bool :=
  let t := s.trust
  let n := fld b 2 1
  let sound := fun (key : Bytes) => Config.verifies 0 key (slice b 0 60) (slice b 60 (fld b 56 4))
  match t.ownerHash with
  | some key => decide (n = 0) && sound key
  | none => decide (1 ≤ n) && decide (n ≤ 4) && !bitOf t.vkeyRevoked.toNat (n - 1) && sound (s.hw.vendorHash.getD (n - 1) [])

/-- An authorisation record for an action and its argument. -/
def State.authorised (s : State) (b : Bytes) (action : Nat) (arg : Option Nat) : Bool :=
  decide (fld b 0 1 = 1) && decide (fld b 1 1 = action) && decide (slice b 4 16 = padTo 16 s.hw.serial)
    && (match arg with | none => true | some a => decide (fld b 20 4 = a)) && decide (slice b 24 32 = s.trust.authNonce) && s.signerOk b

/-- `AUTH_NONCE` is drawn anew. -/
def State.renewNonce (s : State) : State :=
  let n := (List.range 4).flatMap fun i => u64 (Config.entropy (s.free + i)).toNat
  { s with free := s.free + 4, trust := { s.trust with authNonce := n } }

/-- A refused authorisation (event 0x0A0A). -/
def State.refuseAuth (s : State) (b : Bytes) : State := s.record 0x0A0A 3 noPart 0 onPanel (u8 (fld b 1 1) ++ u8 (fld b 2 1))

/-! ### EVENTS_READ and EVENTS_CLEAR (R434, R435) -/

/-- a lies before b, modulo 2^32. -/
def earlier (a b : Word) : Bool := decide (a ≠ b) && decide ((b - a).toNat < 0x80000000)

/-- Start point of a read. -/
def Recorder.startAt (r : Recorder) (from_ : Word) : Word :=
  if earlier from_ r.oldest then r.oldest else if earlier (r.seq + 1) from_ then r.seq + 1 else from_

/-- Examine records in order until `max` are written: those written, and one above the last examined. -/
def readEvents (minSev : Nat) : Nat → List Event → Word → List Event × Word
  | 0, _, at_ => ([], at_)
  | _, [], at_ => ([], at_)
  | max + 1, e :: es, _ =>
    if e.sev < minSev then readEvents minSev (max + 1) es (e.seq + 1)
    else
      let r := readEvents minSev max es (e.seq + 1)
      (e :: r.1, r.2)

/-- The command came in a RELAY or MGMT packet. -/
def Started.byPacket (c : Started) : Bool := match c.origin with | .packet _ _ _ _ => true | _ => false

/-- EVENTS_READ (R337, R343, R434). -/
def execEventsRead (id : Nat) (io : HostIo) (s : State) : Host.Outcome State Fault Refusal :=
  answer s (s.runCmd id 0x60 io fun c => s.withHost id c io fun _ =>
    let max := if c.byPacket then Nat.min 62 (c.arg 24 4) else c.arg 24 4
    let start := s.evr.startAt (BitVec.ofNat 32 (c.arg 28 4))
    let r := readEvents (c.byte 32) max (s.evr.retained.filter fun e => !earlier e.seq start) start
    s.finishOut id c (c.arg 16 8) (r.1.flatMap Event.bytes) stOk r.2.toNat r.1.length)

/-- All records go; the 0x0B01 record says how many, from which on, and by whose authority. -/
def State.clearEvents (s : State) (signer : Nat) : State :=
  let s := s.flushAll true
  let n := s.evr.retained.length
  let old := s.evr.oldest
  ({ s with evr := { s.evr with buf := [], region := [] } }).record 0x0B01 2 noPart 0 onPanel (u32 n ++ u32 old.toNat ++ u8 signer)

/-- EVENTS_CLEAR (R425, R435). -/
def execEventsClear (id : Nat) (io : HostIo) (s : State) : Host.Outcome State Fault Refusal :=
  answer s (s.runCmd id 0x61 io fun c => s.withHost id c io fun b =>
    let b := b.take (c.arg 24 4)
    if s.authorised b 1 (some 0) then (((s.clearEvents (fld b 2 1)).renewNonce).finishNoted id stOk 0 0)
    else (s.refuseAuth b).finishNoted id stAuthFail 0 0)

/-! ### DEFECT_CLEAR (R394) -/

/-- DEFECT_CLEAR (R338, R394, R425): an entry with three clean tests. -/
def execDefectClear (id : Nat) (io : HostIo) (s : State) : Host.Outcome State Fault Refusal :=
  answer s (s.runCmd id 0x82 io fun c => s.withHost id c io fun b =>
    let b := b.take (c.arg 24 4)
    let i := c.arg 12 4
    match s.sparing.fieldList[i]? with
    | some (some d) =>
      if d.clean < 3 then s.fail id stFault 12
      else if !s.authorised b 2 (some i) then (s.refuseAuth b).finishNoted id stAuthFail 0 0
      else
        let s := { s with sparing := { s.sparing with fieldList := s.sparing.fieldList.set i none } }
        ((s.record 0x0906 2 noPart 0 onPanel d.bytes).renewNonce).finishNoted id stOk 0 0
    | _ => s.fail id stFault 12)

end Sys2Proof.Machine
end

