-- ==== Sys2Proof/Machine/HostCmd.lean ====
section
/-! DEFINITION. The mailbox commands of identity, data, steps, routing, multicast, telemetry and maintenance (R283 to R287,
R297, R327 to R340, R365, R369). -/

namespace Sys2Proof.Machine

/-! ### Identity and inventory (R327, R328) -/

/-- The 64-byte identity header. -/
def State.identityHeader (s : State) : Bytes :=
  let used := (List.range 576).filter fun c => !s.clusterHole c
  padTo 64 (u32 0x00314856 ++ u16 1 ++ u16 0 ++ padTo 16 s.hw.partNo ++ padTo 16 s.hw.serial ++ u32 (s.mgt 0x10).toNat
    ++ u32 ((s.mgt 0x14).toNat % 0x1000000) ++ u64 (s.capsOf used) ++ u8 (s.mgtField 8 5 2) ++ u8 s.activeCt ++ u16 s.frameLen)

def State.identityRecord (s : State) : Bytes :=
  padTo 256 (s.identityHeader ++ (List.range 188).flatMap fun d => u8 (s.stepping d))

/-- IDENTIFY (R327). -/
def execIdentify (id : Nat) (io : HostIo) (s : State) : Host.Outcome State Fault Refusal :=
  answer s (s.runCmd id 0x01 io fun c => s.withHost id c io fun _ =>
    if c.arg 16 4 < 256 then s.fail id stFault 16
    else s.finishOut id c (c.arg 8 8) s.identityRecord stOk 0 0)

/-- QUERY_CAPS (R327): the capabilities of a rectangle, and what is free. -/
def execQueryCaps (id : Nat) (io : HostIo) (s : State) : Host.Outcome State Fault Refusal :=
  answer s (s.runCmd id 0x02 io fun c =>
    let cs := if c.byte 10 = 0 then List.range 576 else rect (c.byte 8) (c.byte 9) (c.byte 10) (c.byte 11)
    if c.byte 10 ≠ 0 ∧ c.byte 11 = 0 then s.fail id stFault 11
    else if c.byte 10 ≠ 0 ∧ (24 < c.byte 8 + c.byte 10 ∨ 24 < c.byte 9 + c.byte 11) then s.fail id stFault 8
    else if cs.any s.clusterHole then s.fail id stFenced
    else
      let free := 64 - (s.parts.filter fun e => e.2.isSome).length
      let res := ((List.range 1024).filter fun i => !bitOf (s.resEntry i) 24).length
      s.finish id stOk (s.capsOf cs) (s.frameLen + free * 0x200 + res * 0x10000))

/-- Fenced dark: a site that no sequencer firmware serves, or one of whose clusters is dark (R358, R402). -/
def State.siteDark (s : State) (site : Nat) : Bool :=
  s.sparing.stepFenced.contains site || (s.inUse site && (List.range 4).any fun q =>
    match s.blkCluster (site * 4 + q) with | none => false | some c => decide (s.field (pwrClu c) 14 1 = 1))

def State.rodEntry (s : State) (y : Nat) : Bytes :=
  let hs := (List.range 13).filter fun x => s.isHole (y * 13 + x)
  u8 (s.unassigned y) ++ u8 (b2n (!s.hasSpare y)) ++ u8 (hs.headD 0xFF) ++ u8 hs.length

def State.siteEntry (s : State) (site : Nat) : Bytes :=
  let spare := (s.siteDie site).isNone
  let st := if s.isHole site then 3 else if s.siteDark site then 4 else if !spare then 0 else if s.hasSpare (site / 13) then 1 else 2
  let xy := match s.siteDie site with | none => (0xFF, 0xFF) | some d => d
  let quads := (List.range 4).map fun q =>
    if st = 2 ∨ st = 3 ∨ s.sparing.badSite site ∨ s.sparing.named kCluster site q 0 then 0 else 2 ^ q
  u8 st ++ u8 xy.1 ++ u8 xy.2 ++ u8 (s.stepping site) ++ u8 (quads.foldl (· + ·) 0) ++ [0, 0, 0]

/-- Physical cores of cluster c that are spare and good. -/
def State.sparesLeft (s : State) (c : Nat) : Nat :=
  (((List.range 34).map (s.physIn c)).filter fun pk =>
    (s.hartOf pk).isNone && !(s.physCore pk).retired && !s.sparing.badCore (pk / 34 / 4) (pk / 34 % 4) (pk % 34)).length

def State.clusterEntry (s : State) (c : Nat) : Bytes :=
  u8 (Nat.min 3 (s.sparesLeft c) + b2n (!s.clusterHole c) * 4 + s.field (pwrClu c) 14 1 * 8 + b2n (s.partOf c).isSome * 16) ++ u8 (s.partNo c)

def State.stackEntry (s : State) (n : Nat) : Bytes :=
  let st := s.field (sbdBase n + 4) 0 2
  u8 (if st = 3 then 2 else if st = 2 then 1 else 0) ++ u8 (s.stackBytes / 0x40000000) ++ u8 (s.stepping (dieOfStack n))
    ++ u8 (b2n (s.memSeam n 0) + b2n (s.memSeam n 1) * 2) ++ [0, 0, 0, 0]

def State.linkEntry (s : State) (k : Nat) : Bytes :=
  let mask := fun (f : Nat → Bool) => ((List.range 6).map fun j => if f (k * 6 + j) then 2 ^ j else 0).foldl (· + ·) 0
  padTo 16 (u8 (b2n (s.linkLost k)) ++ u8 (s.stepping (dieOfLink k)) ++ u8 (mask s.linkUp)
    ++ u8 (mask fun p => decide (s.field (linkReg p 0) 0 2 = 3)) ++ u8 (b2n (decide (k = 0) && s.isBridge)))

def State.bayEntry (s : State) (b : Nat) : Bytes :=
  let w := (s.reg (laserReg b)).toNat
  padTo 4 (u8 (w % 16 + b2n (bitOf w 0 && !bitOf w 1) * 16))

def State.controlDie (s : State) (d : Nat) : ControlDie := if d = 0 then s.trust.ctA else s.trust.ctB

def State.controlEntry (s : State) (d : Nat) : Bytes :=
  u8 (s.controlDie d).role ++ u8 (s.stepping (dieOfControl d)) ++ [0, 0] ++ natLe 4 (fld (s.controlDie d).fw 0x0C 4)

def State.inventoryRecord (s : State) : Bytes :=
  padTo 0x80 (s.identityHeader ++ (List.range 12).flatMap s.rodEntry) ++ (List.range 156).flatMap s.siteEntry
    ++ (List.range 576).flatMap s.clusterEntry ++ (List.range 24).flatMap s.stackEntry ++ (List.range 6).flatMap s.linkEntry
    ++ (List.range 10).flatMap s.bayEntry ++ padTo 24 ((List.range 2).flatMap s.controlEntry)

/-- GET_INVENTORY (R328). -/
def execGetInventory (id : Nat) (io : HostIo) (s : State) : Host.Outcome State Fault Refusal :=
  answer s (s.runCmd id 0x03 io fun c => s.withHost id c io fun _ =>
    if c.arg 16 4 < 2880 then s.fail id stFault 16
    else s.finishOut id c (c.arg 8 8) s.inventoryRecord stOk (s.reg (bstBase + 4)).toNat 0)

/-! ### Data (R330) -/

/-- Bytes that two ranges share. -/
def shared (a n b m : Nat) : Nat := Nat.min (a + n) (b + m) - Nat.max a b

/-- Every byte of a range lies in the partition's HBM and SRAM windows. -/
def Part.covers (q : Part) (a n : Nat) : Bool :=
  let hbm := (onesOf q.stackTbl.toNat 24).map fun k => shared a n (hbmBase k + q.firstPage * 65536) (q.pages * 65536)
  let sram := q.clusters.map fun c => shared a n (sramBase c) 0x1000000
  decide ((hbm ++ sram).foldl (· + ·) 0 = n)

/-- A range cut where windows of stacks and clusters meet: address, place and length. -/
def windowPieces (a n : Nat) : List (Nat × Nat × Nat) :=
  let cut := fun (b m : Nat) =>
    let k := shared a n b m
    if k = 0 then none else some (Nat.max a b, Nat.max a b - a, k)
  ((List.range 24).filterMap fun k => cut (hbmBase k) 0x1000000000) ++ (List.range 576).filterMap fun c => cut (sramBase c) 0x1000000

/-- Gleryn writes and reads panel memory. -/
def State.placeBytes (s : State) (a : Nat) (bs : Bytes) : State :=
  (windowPieces a bs.length).foldl (fun s x => s.writePanel s.panelEid x.1 (slice bs x.2.1 x.2.2)) s

def State.fetchBytes (s : State) (a n : Nat) : State × Bytes :=
  (windowPieces a n).foldl (fun r x =>
    let g := r.1.readPanel r.1.panelEid x.1 x.2.2
    (g.1, r.2 ++ g.2)) (s, [])

/-- Invalidate the caches of a partition (R203). -/
def State.dropCaches (s : State) (q : Part) : State := q.clusters.foldl (fun s c => s.invalidateCache c) s

/-- The check of DATA_PLACE and DATA_FETCH. -/
def dataOk (q : Part) (c : Started) : Bool :=
  decide (1 ≤ c.arg 24 8) && decide (c.arg 24 8 ≤ 0x10000000000) && q.covers (c.arg 16 6) (c.arg 24 8)

/-- Some byte of a command's range lies in a cluster whose die is being repaired: the command waits (R36). -/
def State.rangeHeld (s : State) (c : Started) : Bool := (blocksOf (c.arg 16 6) (c.arg 24 8)).any fun e => s.repairing e.1

/-- Bytes that Gleryn placed in SRAM windows went through its movers' channels of their clusters (R187). -/
def State.placedBySram (s : State) (a n : Nat) : State :=
  (windowPieces a n).foldl (fun s x => if isSram x.1 then s.ownMove (clusterOfAddr x.1) 6 x.2.2 else s) s

/-- The caches of partition q go when data has been placed into its HBM (R203). -/
def State.placed (s : State) (q : Part) (a : Nat) : State := if isHbm a then s.dropCaches q else s

/-- DATA_PLACE (R203, R330): of a relayed one the data follows as WRITE packets (R343). -/
def execDataPlace (id : Nat) (io : HostIo) (s : State) : Host.Outcome State Fault Refusal :=
  answer s (s.runCmd id 0x22 io fun c => match s.part c.partNo with
    | none => s.fail id stFault 4
    | some q =>
      if !dataOk q c then s.fail id stFault 16
      else s.withHost id c io fun b =>
        let a := c.arg 16 6
        let n := c.arg 24 8
        if s.rangeHeld c then s
        else match c.origin with
          | .packet eid _ _ _ =>
            let w : Placing := { eid := eid, part := c.partNo, addr := a, len := n, left := n }
            ({ s with host := { s.host with placing := s.host.placing ++ [w] } } : State).finish id stOk 0 0
          | _ => (((s.placeBytes a (padTo n b)).placedBySram a n).placed q a).finish id stOk 0 0)

/-- DATA_FETCH (R330). -/
def execDataFetch (id : Nat) (io : HostIo) (s : State) : Host.Outcome State Fault Refusal :=
  answer s (s.runCmd id 0x23 io fun c => match s.part c.partNo with
    | none => s.fail id stFault 4
    | some q =>
      if !dataOk q c then s.fail id stFault 16
      else if c.byPacket then s.finish id stOk 0 0
      else if s.rangeHeld c then s
      else s.withHost id c io fun _ =>
        let g := s.fetchBytes (c.arg 16 6) (c.arg 24 8)
        g.1.finishOut id c (c.arg 8 8) g.2 stOk 0 0)

/-! ### Steps (R331, R333, R340, R377) -/

/-- The step that a STEP_RUN asks for. -/
def Started.stepOf (c : Started) (id : Nat) : StepRec :=
  { cmd := id, regions := BitVec.ofNat 256 c.regions, resAddr := c.arg 24 6, resLen := c.arg 20 4, inAddr := c.arg 8 6, inCount := c.arg 16 2 }

/-- The input list and its inputs are sound (R331, R332). -/
def State.inputsOk (s : State) (q : Part) (st : StepRec) : Bool :=
  decide (st.inCount = 0) || (decide (st.inAddr % 16 = 0) && q.covers st.inAddr (16 * st.inCount)
    && (List.range st.inCount).all fun i =>
      let e := s.inputEntry st i
      (q.endpoint e.1).isSome && (decide (e.2.1 = 0) || q.covers e.2.2 (66 * e.2.1)))

/-- The result buffer is sound. -/
def resultOk (q : Part) (st : StepRec) : Bool :=
  decide (st.resAddr = 0) || (decide (st.resAddr % 64 = 0) && decide (64 ≤ st.resLen) && q.covers st.resAddr st.resLen)

/-- What ends a STEP_RUN at once: FAULT (R331, R186, R399), FENCED (R233, R256, R358, R399) or VERSION (R403). -/
def State.stepCheck (s : State) (p : Nat) (q : Part) (st : StepRec) : Option (Nat × Nat) :=
  let named := onesOf st.regions.toNat 256
  let loaded := named.all fun rn => match s.region rn with | none => false | some r => decide (r.part = p) && r.loaded.isSome
  if !loaded then some (stFault, 32)
  else if !s.inputsOk q st then some (stFault, 8)
  else if !resultOk q st then some (stFault, 24)
  else if (s.regionsOf p).any (fun e => e.2.badCopy) then some (stFault, 0xFF)
  else if q.fenced || (onesOf q.stackTbl.toNat 24).any s.stackLost || (s.stepClusters p st).any s.clusterHole || s.halfCircuits q then some (stFenced, 0xFF)
  else if q.capsLost then some (stVersion, 0xFF)
  else none

/-- STEP_RUN (R331): it waits for an activation (R347), is checked, and begins or waits for the steps before it. Its
clusters are woken, and a higher flow target is written (R377). -/
def execStepRun (id : Nat) (io : HostIo) (s : State) : Host.Outcome State Fault Refusal :=
  answer s (s.runCmd id 0x30 io fun c => match s.part c.partNo with
    | none => s.fail id stFault 4
    | some q =>
      let p := c.partNo
      let st := c.stepOf id
      if (s.regionsOf p).any (fun e => e.2.act.isSome) || (q.queued ++ q.step.toList).any (fun x => decide (x.cmd = id)) then s
      else
        let s := if q.step.isNone then s.repairRecords p else s
        match s.stepCheck p q st with
        | some (status, off) => s.fail id status off
        | none =>
          let s := s.flowAhead q st.regions.toNat
          let s := (s.stepClusters p st).foldl (fun s c => s.requestWake c) s
          let s := s.modPart p fun q => { q with queued := q.queued ++ [st] }
          if q.step.isSome then s else s.promote p (q.queued.length + 1))

/-- STEP_ABORT (R333). -/
def execStepAbort (id : Nat) (io : HostIo) (s : State) : Host.Outcome State Fault Refusal :=
  answer s (s.runCmd id 0x31 io fun c => match s.part c.partNo with
    | none => s.fail id stFault 4
    | some q =>
      let p := c.partNo
      let s := if bitOf (c.byte 8) 0 then
          q.queued.foldl (fun s st => s.fail st.cmd stAborted) (s.modPart p fun q => { q with queued := [] })
        else s
      let s := if q.step.isSome then (s.endStep p stAborted).clearStep p [] else s
      s.finish id stOk (b2n q.step.isSome) 0)

/-- RESULT_RELEASE (R333, R340): `READY` falls, `SEQ` stays, and the payload becomes unpredictable. -/
def execResultRelease (id : Nat) (io : HostIo) (s : State) : Host.Outcome State Fault Refusal :=
  answer s (s.runCmd id 0x32 io fun c => match s.part c.partNo with
    | none => s.fail id stFault 4
    | some q =>
      let a := c.arg 24 6
      let running := match q.step with | none => false | some st => decide (st.resAddr = a) && decide (a ≠ 0)
      if running then s.fail id stBusy 24
      else match q.results.find? fun e => decide (e.1 = a) with
        | none => s.fail id stFault 24
        | some e =>
          let s := s.poke a [BitVec.ofNat 8 (setBits (memByte s.mem a).toNat 0 1 0)]
          let s := (s.scramble (some c.partNo) (a + 64) (e.2 - 64)).modPart c.partNo fun q => { q with results := q.results.filter fun e => decide (e.1 ≠ a) }
          s.finish id stOk 0 0)

/-! ### Routing and fencing (R282 to R287, R334) -/

/-- ROUTE_SET 0 (R282, R294, R311, R334). -/
def execRouteSetBase (id : Nat) (io : HostIo) (s : State) : Host.Outcome State Fault Refusal :=
  answer s (s.runFirst id 0x40 4 io fun c =>
    let base := c.arg 12 3
    let t := c.arg 28 4
    let hold := c.arg 32 2
    if base % 64 ≠ 0 ∨ base = 0 ∨ 0xFDFFFF < base + 639 then s.fail id stFault 12
    else if t < 2 ∨ 1000000 < t then s.fail id stFault 28
    else if hold < 10 ∨ 1000 < hold then s.fail id stFault 32
    else if s.parts.any fun e => e.2.isSome then s.fail id stBusy
    else
      let s := (s.setMgtField 0x14 0 24 base).setField (panelBase + 0x40) 0 20 t
      let s := (List.range 6).foldl (fun s k => s.setField (lnkBase k + 8) 0 10 hold) s
      s.finish id stOk 0 0)

/-- Records of 8 bytes of a ROUTE_SET. -/
def Started.records (c : Started) (b : Bytes) : List Bytes := (List.range (c.arg 24 4)).map fun i => padTo 8 (slice b (8 * i) 8)

/-- Write an endpoint-table entry: `EVER` advances (R283). -/
def State.writeEpt (s : State) (eid v : Nat) : State :=
  let ever := (bits (tget 0 s.ept eid).toNat 1 3 + 1) % 8
  { s with ept := tset 0 s.ept eid (BitVec.ofNat 16 (setBits (setBits v 1 3 ever) 0 1 0)) }

/-- ROUTE_SET 1 (R283): EIDs that may not be routed end with FAULT, a reserved `KIND` with VERSION. -/
def execRouteSetEndpoints (id : Nat) (io : HostIo) (s : State) : Host.Outcome State Fault Refusal :=
  answer s (s.runSub id 0x40 1 io fun c => s.withHost id c io fun b =>
    let rs := c.records b
    if rs.any fun r => decide (fld r 0 3 = 0) || decide (0xFEFFFF < fld r 0 3) then s.fail id stFault
    else if rs.any fun r => decide (bits (fld r 4 2) 12 2 = 3) then s.fail id stVersion
    else
      let s := rs.foldl (fun s r => s.writeEpt (fld r 0 3) (fld r 4 2)) s
      ((List.range 6).foldl (fun s k => s.setField (lnkBase k + 4) 13 1 1) s).finish id stOk 0 0)

/-- ROUTE_SET 2 (R285). -/
def execRouteSetPathGroups (id : Nat) (io : HostIo) (s : State) : Host.Outcome State Fault Refusal :=
  answer s (s.runSub id 0x40 2 io fun c => s.withHost id c io fun b =>
    let rs := c.records b
    if rs.any fun r => decide (28 ≤ fld r 0 1) then s.fail id stFault
    else
      let put := fun (s : State) (r : Bytes) => { s with pgroups := tset 0 s.pgroups (fld r 0 1) (BitVec.ofNat 36 (fld r 3 5)) }
      (rs.foldl put s).finish id stOk 0 0)

/-- Install or remove one memory endpoint of partition p; none where it finds no place (R286). -/
def State.memEndpointSet (s : State) (p : Nat) (r : Bytes) : Option State :=
  let eid : BitVec 24 := BitVec.ofNat 24 (fld r 0 3)
  if bitOf (fld r 3 1) 0 then
    if (s.resFind eid).isSome then none
    else s.resSlot.map fun i => s.setRes i (residentWord eid.toNat 1 (fld r 4 2) p 0 0)
  else match s.resFind eid with
    | none => some s
    | some i => some (if s.memEndpoint eid && decide (bits (s.resEntry i) 38 6 = p) then s.setRes i residentFree else s)

/-- ROUTE_SET 3 (R36, R286, R334). -/
def execRouteSetMemoryEndpoints (id : Nat) (io : HostIo) (s : State) : Host.Outcome State Fault Refusal :=
  answer s (s.runSub id 0x40 3 io fun c => s.withHost id c io fun b => match s.part c.partNo with
    | none => s.fail id stFault 4
    | some q =>
      let rs := c.records b
      if rs.any fun r => decide (fld r 0 3 = 0) || decide (0xFDFFFF < fld r 0 3) || (bitOf (fld r 3 1) 0 && !q.clusters.contains (fld r 4 2)) then
        s.fail id stFault
      else if rs.any fun r => bitOf (fld r 3 1) 0 && s.clusterHole (fld r 4 2) then s.fail id stFenced
      else match rs.foldl (fun (o : Option State) r => o.bind fun s => s.memEndpointSet c.partNo r) (some s) with
        | none => s.fail id stNoResource
        | some s => s.finish id stOk 0 0)

/-- Set or clear `FENCED` of an endpoint in every table (R287). -/
def State.fenceEndpoint (s : State) (eid : BitVec 24) (v : Nat) : State :=
  let s := if bitOf (s.eptEntry eid) 15 then s.writeEpt eid.toNat (setBits (s.eptEntry eid) 14 1 v) else s
  match s.resFind eid with
  | none => s
  | some i => s.setRes i (BitVec.ofNat 64 (setBits (s.resEntry i) 25 1 v))

def State.runFence (s : State) (id op : Nat) (io : HostIo) (v : Nat) : State :=
  s.runCmd id op io fun c =>
    let eid : BitVec 24 := BitVec.ofNat 24 (c.arg 8 3)
    if !bitOf (s.eptEntry eid) 15 && (s.resFind eid).isNone then s.fail id stFault 8
    else (s.fenceEndpoint eid v).finish id stOk 0 0

/-- ENDPOINT_FENCE (R287). -/
def execEndpointFence (id : Nat) (io : HostIo) (s : State) : Host.Outcome State Fault Refusal := answer s (s.runFence id 0x41 io 1)

/-- ENDPOINT_UNFENCE (R287). -/
def execEndpointUnfence (id : Nat) (io : HostIo) (s : State) : Host.Outcome State Fault Refusal := answer s (s.runFence id 0x42 io 0)

/-! ### Multicast (R288, R297, R335) -/

/-- MCAST_SET 0: a group's entry on all six link dies. -/
def execMcastSetGroup (id : Nat) (io : HostIo) (s : State) : Host.Outcome State Fault Refusal :=
  answer s (s.runFirst id 0x43 3 io fun c =>
    let g := c.arg 12 2
    let f := c.byte 21
    let ever := (bits (tget 0 s.mcast g).toNat 41 3 + 1) % 8
    let v := c.arg 16 5 % 2 ^ 36 + f % 2 * 2 ^ 36 + c.byte 24 % 2 * 2 ^ 37 + f / 2 % 2 * 2 ^ 38 + f / 4 % 4 * 2 ^ 39 + ever * 2 ^ 41 + c.arg 22 2 * 2 ^ 44
    ({ s with mcast := tset 0 s.mcast g (BitVec.ofNat 128 v) }).finish id stOk 0 0)

/-- The context that MCAST_SET 1 describes. -/
def Started.context (c : Started) : CollCtx :=
  let last := c.arg 44 2
  { eid := BitVec.ofNat 24 (c.arg 12 3), op := c.byte 15 % 4, bf16 := bitOf (c.byte 15) 2, n := c.arg 16 2, segs := c.arg 18 2 + 1, segElems := c.arg 20 2,
    lastElems := if last = 0 then c.arg 20 2 else last, slots := c.byte 22 + 1, outEid := BitVec.ofNat 24 (c.arg 24 3), outAddr := c.arg 28 6,
    doneAddr := c.arg 34 6, timeout := c.arg 40 4, expect := c.arg 16 2 }

/-- Byte of the first field of a context that is out of range. -/
def CollCtx.badField (x : CollCtx) : Option Nat :=
  if x.eid = 0 ∨ 0xFDFFFF < x.eid.toNat then some 12
  else if x.n = 0 ∨ 4096 < x.n then some 16
  else if x.segElems = 0 ∨ (if x.bf16 then 2048 else 1024) < x.segElems then some 20
  else if x.outEid = 0 ∨ 0xFEFFFF < x.outEid.toNat then some 24
  else if x.timeout < 10 ∨ 100000 < x.timeout then some 40
  else if x.segElems < x.lastElems then some 44
  else none

/-- Key of the context that bytes 9 to 11 name. -/
def Started.ctxKey (c : Started) : Option Nat :=
  if c.byte 9 < 6 ∧ c.byte 10 < 4 ∧ c.byte 11 < 16 then some ((c.byte 9 * 4 + c.byte 10) * 16 + c.byte 11) else none

/-- MCAST_SET 1 (R297, R335). -/
def execMcastSetContext (id : Nat) (io : HostIo) (s : State) : Host.Outcome State Fault Refusal :=
  answer s (s.runSub id 0x43 1 io fun c => match c.ctxKey with
    | none => s.fail id stFault 9
    | some k =>
      let x := c.context
      if x.op = 3 then s.fail id stVersion 15
      else match x.badField with
        | some off => s.fail id stFault off
        | none =>
          let own := match s.ctx k with | none => 0 | some y => y.slots
          if s.slotsFree (k / 64) (k / 16 % 4) + own < x.slots then s.fail id stNoResource 22
          else (s.setCtx k x).finish id stOk 0 0)

/-- MCAST_SET 2 (R335). -/
def execMcastClearContext (id : Nat) (io : HostIo) (s : State) : Host.Outcome State Fault Refusal :=
  answer s (s.runSub id 0x43 2 io fun c => match c.ctxKey with
    | none => s.fail id stFault 9
    | some k => ({ s with ctxs := tset none s.ctxs k none }).finish id stOk 0 0)

/-! ### Power, telemetry and sampling (R336, R365, R369) -/

/-- POWER_CAP_SET (R336, R365). -/
def execPowerCapSet (id : Nat) (io : HostIo) (s : State) : Host.Outcome State Fault Refusal :=
  answer s (s.runCmd id 0x50 io fun c =>
    let setCap := bitOf (c.byte 12) 0
    let setShed := bitOf (c.byte 12) 1
    let cap := if setCap then c.arg 8 2 else s.cmdCap
    let shed := if setShed then c.arg 10 2 else s.field (pwrBase + 8) 16 11
    if setCap ∧ (cap < 500 ∨ 2000 < cap) then s.fail id stFault 8
    else if setShed ∧ (shed < 110 ∨ cap < shed) then s.fail id stFault 10
    else (((s.setField (pwrBase + 8) 0 11 cap).setField (pwrBase + 8) 16 11 (Nat.min shed cap)).refreshLimit).finish id stOk 0 0)

/-- A rail phase of a die has failed. -/
def State.phaseFailed (s : State) (die : Nat) : Bool :=
  decide (die < 156) && ((List.range 2).any (fun r => decide (0 < tget 0 s.power.railFails (die * 2 + r))) || (List.range 4).any fun q =>
    match s.blkCluster (die * 4 + q) with | none => false | some c => decide (s.field (pwrClu c) 8 5 ≠ 0))

/-- Sensors i of n of a die. -/
def State.sensors (s : State) (die n : Nat) : Bytes := (List.range n).flatMap fun i => u8 (tget 0xFF s.power.temps (die * 16 + i))

/-- `CLU` byte of a cluster. -/
def State.clusterPower (s : State) (c : Nat) : Nat :=
  let w := (s.reg (pwrClu c)).toNat
  bits w 0 5 + bits w 13 1 * 0x20 + b2n (decide (bits w 8 3 ≠ 0)) * 0x40 + bits w 14 1 * 0x80

/-- The 5,520-byte record of set 0 (R369). -/
def State.powerRecord (s : State) : Bytes :=
  let die := fun (d : Nat) => u16 (tget 0 s.power.dieIn d) ++ u64 (s.reg64 (pwrBase + 0x1000 + 8 * d))
    ++ u8 (s.field (pwrBase + 0x100 + 4 * d) 0 2 + b2n (s.phaseFailed d) * 4) ++ [0]
  let head := u16 1 ++ u16 5520 ++ u32 s.power.sampleSeq.toNat ++ u64 (s.trust.opTime % 0x1000000000000) ++ u32 (s.reg (pwrBase + 0xC)).toNat
    ++ u32 (s.reg (pwrBase + 0x10)).toNat ++ u32 (s.reg (pwrBase + 0x14)).toNat ++ u16 (s.field (pwrBase + 4) 0 11) ++ u16 s.shedLevel
    ++ u32 (s.reg pwrBase).toNat ++ u32 (s.reg (thmBase + 4)).toNat ++ u32 (s.reg (thmBase + 8)).toNat
    ++ u16 (s.field (thmBase + 0xC) 0 10) ++ u16 (s.field (thmBase + 0xC) 16 10) ++ u8 (s.field thmBase 0 3)
  padTo 0x40 head ++ (List.range 188).flatMap die ++ (List.range 156).flatMap (s.sensors · 16) ++ (List.range 24).flatMap (fun n => s.sensors (156 + n) 4)
    ++ (List.range 6).flatMap (fun k => s.sensors (180 + k) 4) ++ (List.range 2).flatMap (fun d => s.sensors (186 + d) 4)
    ++ (List.range 576).flatMap fun c => u8 (s.clusterPower c)

/-- The record as of the latest 1 ms sample; before the first sample, as of now. -/
def State.lastSample (s : State) : Bytes := s.power.sample.getD s.powerRecord

/-- TELEMETRY_READ 0 (R369). -/
def execTelemetryPower (id : Nat) (io : HostIo) (s : State) : Host.Outcome State Fault Refusal :=
  answer s (s.runFirst id 0x51 3 io fun c => s.withHost id c io fun _ =>
    if c.arg 24 4 < 5520 then s.fail id stFault 24
    else s.finishOut id c (c.arg 16 8) s.lastSample stOk 0 0)

/-- The 112-byte record of set 1 (R336). -/
def State.partitionRecord (s : State) (q : Part) : Bytes :=
  let cs := q.clusters
  let blks := cs.map s.blk
  let sum := fun (f : Nat → Nat) => (cs.map f).foldl (· + ·) 0
  let tiles := sum fun c => ((hartsOf c).map fun h => ((List.range 4).map fun e => s.reg64 (s.coreReg h (0x140 + 8 * e))).foldl (· + ·) 0).foldl (· + ·) 0
  u64 q.stepCount.toNat ++ (List.range 8).flatMap (fun i => u64 (s.sentSum blks (4 * i))) ++ u64 (sum fun c => s.reg64 (s.cluReg c 0x808))
    ++ [0x810, 0x814, 0x818].flatMap (fun o => u64 (sum fun c => (s.reg (s.cluReg c o)).toNat)) ++ u64 tiles

/-- TELEMETRY_READ 1 (R336). -/
def execTelemetryPartition (id : Nat) (io : HostIo) (s : State) : Host.Outcome State Fault Refusal :=
  answer s (s.runSub id 0x51 1 io fun c => s.withHost id c io fun _ => match s.part c.partNo with
    | none => s.fail id stFault 4
    | some q =>
      if c.arg 24 4 < 112 then s.fail id stFault 24
      else s.finishOut id c (c.arg 16 8) (s.partitionRecord q) stOk 0 0)

/-- TELEMETRY_READ 2 (R336). -/
def execTelemetryRegisters (id : Nat) (io : HostIo) (s : State) : Host.Outcome State Fault Refusal :=
  answer s (s.runSub id 0x51 2 io fun c => s.withHost id c io fun _ =>
    let a := c.arg 32 6
    let n := c.arg 40 4
    if a % 4 ≠ 0 then s.fail id stFault 32
    else if n % 4 ≠ 0 ∨ 65536 < n then s.fail id stFault 40
    else if c.arg 24 4 < n then s.fail id stFault 24
    else
      let r := s.readRegs a n
      r.1.finishOut id c (c.arg 16 8) r.2 stOk 0 0)

/-- Byte of the first field of a SAMPLER_CONFIG that is applied and out of range. -/
def Started.badSampler (c : Started) : Option Nat :=
  let on := bitOf (c.byte 8)
  if on 0 && decide (20 < c.byte 9) then some 9
  else if on 0 && (decide (c.byte 11 < 4) || decide (20 < c.byte 11)) then some 11
  else if on 1 && (decide (c.byte 12 < 8) || decide (24 < c.byte 12)) then some 12
  else if on 1 && (decide (c.byte 14 < 4) || decide (20 < c.byte 14)) then some 14
  else if on 2 && decide (3600 < c.arg 24 4) then some 24
  else none

/-- The sampling registers of the i-th cluster c (R114, R157). -/
def State.setSampler (s : State) (k : Started) (i c : Nat) : State :=
  let fl := k.byte 10
  let s := if bitOf (k.byte 8) 0 then
      s.setField (s.cluReg c 0x800) 0 13 (k.byte 9 + fl % 4 * 0x20 + k.byte 11 * 0x80 + fl / 4 % 2 * 0x1000)
    else s
  if bitOf (k.byte 8) 1 then
    let s := s.setField (s.cluReg c 0x844) 0 11 (k.byte 12 + k.byte 13 % 2 * 0x20 + k.byte 14 * 0x40)
    s.setReg64 (s.cluReg c 0x848) (k.arg 16 6 + i * 2 ^ k.byte 14 * 320)
  else s

/-- SAMPLER_CONFIG (R109, R158, R185, R336). -/
def execSamplerConfig (id : Nat) (io : HostIo) (s : State) : Host.Outcome State Fault Refusal :=
  answer s (s.runCmd id 0x52 io fun c => match s.part c.partNo with
    | none => s.fail id stFault 4
    | some q => match c.badSampler with
      | some off => s.fail id stFault off
      | none =>
        let s := (List.range q.clusters.length).foldl (fun s i => s.setSampler c i (q.clusters.getD i 0)) s
        let s := if bitOf (c.byte 8) 2 then s.modPart c.partNo fun q => { q with auditS := c.arg 24 4, auditAt := s.now } else s
        s.finish id stOk 0 0)

/-! ### Maintenance (R231, R255, R265, R305, R338, R400) -/

/-- RETRAIN of a stack channel (R231, R338): BUSY while one runs in the stack; the command ends with its last attempt, which this row or
CHANNEL_RETRAIN reports. The channel with the least margin is a free choice. -/
def execRetrainChannel (id : Nat) (io : HostIo) (ok : Bool) (s : State) : Host.Outcome State Fault Refusal :=
  answer s (s.runFirst id 0x80 3 io fun c =>
    let n := c.byte 9
    let ch := c.byte 10
    let mine := (s.stack n).retrain.any fun e => decide (e.2 = some id)
    if mine then s.retrainOne n ok
    else if 24 ≤ n ∨ s.stackLost n then s.fail id stFault 9
    else if 32 ≤ ch ∧ ch ≠ 0xFF then s.fail id stFault 10
    else if (s.stack n).retrain.isSome then s.fail id stBusy
    else
      let k := if ch = 0xFF then Config.choice s.free % 32 else ch
      let s := (s.draw).retrainStart n k (some id)
      if (s.stack n).retrain.any (fun e => decide (e.2 = some id)) then s.retrainOne n ok else s)

/-- RETRAIN of a seam (R255). -/
def execRetrainSeam (id : Nat) (io : HostIo) (badWires : Nat) (s : State) : Host.Outcome State Fault Refusal :=
  answer s (s.runSub id 0x80 1 io fun c =>
    let p : PortRef := { site := c.arg 12 2, quad := c.byte 14 / 8 % 4, port := c.byte 14 % 8 }
    if (s.seam p).offline then s.fail id stBusy
    else if !s.seamRuns p then s.fail id stFault 12 else (s.retrainPort p badWires).finishNoted id stOk 0 0)

/-- RETRAIN of a link (R305, R306, R338): BUSY while the link retrains; it also ends the fence of a port. -/
def execRetrainLink (id : Nat) (io : HostIo) (lanesOk : BitVec 8) (peer : List (Option (BitVec 8 × BitVec 8))) (s : State) :
    Host.Outcome State Fault Refusal :=
  answer s (s.runSub id 0x80 2 io fun c =>
    let p := c.byte 9
    if !s.native p then s.fail id stFault 9
    else if s.field (linkReg p 0) 0 2 = 2 then s.fail id stBusy
    else
      let s := s.retrainLinkAt p lanesOk peer
      s.finishNoted id (if s.linkUp p then stOk else stFault) 0 0)

/-- REPAIR 0 (R400): the command ends when the retirement's replay or unfreeze has taken place. -/
def execRepairRetireDie (id : Nat) (io : HostIo) (s : State) : Host.Outcome State Fault Refusal :=
  answer s (s.runFirst id 0x81 4 io fun c =>
    let site := c.arg 12 2
    if 156 ≤ site ∨ !s.inUse site then s.fail id stFault 12
    else if s.sparing.retireDue.any fun e => decide (e.1 = site) then
      (if s.sparing.retireDue.any fun e => decide (e.2.2 = some id) then s else s.fail id stBusy)
    else if s.sparing.retireCmds.any fun e => decide (e.1 = id) then s
    else if !s.hasSpare (site / 13) then s.fail id stNoResource
    else s.retireDie site 15 (some id) true)

/-- REPAIR 1 (R265, R400): the bay's partner takes the whole load. -/
def execRepairLaserBay (id : Nat) (io : HostIo) (s : State) : Host.Outcome State Fault Refusal :=
  answer s (s.runSub id 0x81 1 io fun c =>
    let bay := c.byte 9
    let b := laserReg (bay / 2 * 2 + (1 - bay % 2))
    if 10 ≤ bay then s.fail id stFault 9
    else
      let s := (s.setField (laserReg bay) 2 1 1).setField (laserReg bay) 3 1 0
      let s := if bitOf (s.reg b).toNat 1 then s.setField b 3 1 1 else s
      s.finish id stOk 0 0)

/-- REPAIR 2 (R400). -/
def execRepairTestDie (id : Nat) (io : HostIo) (s : State) : Host.Outcome State Fault Refusal :=
  answer s (s.runSub id 0x81 2 io fun c =>
    let site := c.arg 12 2
    if 156 ≤ site then s.fail id stFault 12
    else
      let new := ((List.range 4).map (site * 4 + ·)).filter fun b => !s.sparing.testDue.contains b
      ({ s with sparing := { s.sparing with testDue := s.sparing.testDue ++ new } }).finish id stOk 0 0)

/-- REPAIR 3 (R400). -/
def execRepairTestStack (id : Nat) (io : HostIo) (s : State) : Host.Outcome State Fault Refusal :=
  answer s (s.runSub id 0x81 3 io fun c =>
    let n := c.byte 9
    if 24 ≤ n then s.fail id stFault 9
    else (s.setStack n { s.stack n with testDue := true }).finish id stOk 0 0)

end Sys2Proof.Machine
end

