-- ==== Sys2Proof/Machine/Bringup.lean ====
section
/-! DEFINITION. Self-tests, sparing, reset and bring-up (R381 to R407, R445). -/

namespace Sys2Proof.Machine

/-! ### Test results (R387 to R396, R412) -/

/-- The block's cores and shared block pass, and every row. -/
def passingTest : TestResult := { coreFail := 0, katFail := 0, sharedFail := false, badRows := [], badSpares := [], signature := 0 }

/-- Whether a test of block b covers the unit of a field-list or fuse entry, and what it finds. -/
def blockFinds (b : Nat) (r : TestResult) (kind die unit detail : Nat) : Option Bool :=
  let mine := decide (die = b / 4)
  let bad := Nat.lor r.coreFail.toNat r.katFail.toNat
  if kind = kCluster ∧ mine ∧ unit = b % 4 then some !r.sharedFail
  else if kind = kCore ∧ mine ∧ unit / 34 = b % 4 then some !bitOf bad (unit % 34)
  else if kind = kNsRow ∧ mine ∧ unit / 34 = b % 4 then some !r.badRows.contains (kind, unit, detail)
  else if kind = kCmRow ∧ mine ∧ unit = b % 4 then some !r.badRows.contains (kind, unit, detail)
  else none

/-- `CLEAN` of every entry that tests cover, and a contradiction for every fuse-bad unit that passed (R391, R394). -/
def State.noteTests (s : State) (found : Nat → Nat → Nat → Nat → Option Bool) : State :=
  let step := fun (e : Option Defect) => e.map fun d => match found d.kind d.die d.unit d.detail with
    | none => d
    | some true => { d with clean := Nat.min (d.clean + 1) 255 }
    | some false => { d with clean := 0 }
  let s := { s with sparing := { s.sparing with fieldList := s.sparing.fieldList.map step } }
  s.sparing.fuse.foldl (fun s u => if found u.1 u.2.1 u.2.2.1 u.2.2.2 = some true then s.addContradiction u.1 u.2.1 u.2.2.1 u.2.2.2 else s) s

/-- First failing block of a cluster: a core, 34 the shared block, or 63. -/
def firstBlock (r : TestResult) : Nat :=
  ((onesOf r.coreFail.toNat 34).head?).getD (if r.sharedFail then 34 else 63)

/-- The self-test registers of block b (R412). -/
def State.showTest (s : State) (b : Nat) (r : TestResult) : State :=
  let a := cluBase b + 0xB00
  let m := s.sparing
  let out := m.bankOut b
  let rows := ((List.range 16).map fun bank => (m.rows kCmRow (b / 4) (b % 4) 16 bank 1024).length).foldl (· + ·) 0
    + ((List.range 34).flatMap fun p => (List.range 4).map fun bank => (m.rows kNsRow (b / 4) (b % 4 * 34 + p) 16 bank 128).length).foldl (· + ·) 0
  let f := firstBlock r
  let s := s.setField a 0 9 (1 + b2n r.sharedFail * 2 + b2n out * 4 + f * 8)
  let s := (s.setReg64 (a + 8) r.coreFail.toNat).setReg64 (a + 0x10) r.katFail.toNat
  let s := (s.setReg64 (a + 0x18) (if f = 63 then 0 else r.signature.toNat)).setReg64 (a + 0x20) (if f = 63 then 0 else (tget 0 s.hw.expSig (b * 35 + f)).toNat)
  s.setReg (a + 0x28) (BitVec.ofNat 32 (r.badRows.length + rows * 0x10000))

/-- Physical cores of block b that are bad. -/
def State.badCores (s : State) (b : Nat) : List Nat := (List.range 34).filter fun p => s.sparing.badCore (b / 4) (b % 4) p

/-- Failed phases of a rail of block b in the defect map: 0 VDD_LOGIC, 1 VDD_SRAM. -/
def State.phasesOut (s : State) (b rail : Nat) : Nat :=
  let hit := fun (k d u x : Nat) => decide (k = kPhase) && decide (d = b / 4) && decide (u = b % 4) && decide (x / 256 = rail)
  (s.sparing.fuse.filter fun u => hit u.1 u.2.1 u.2.2.1 u.2.2.2).length + (s.sparing.fieldList.filter fun e => match e with
    | none => false
    | some d => hit d.kind d.die d.unit d.detail && decide (d.source ≠ 3)).length

/-- Block b cannot run as a cluster (R184, R358, R387, R396). -/
def State.unusable (s : State) (b : Nat) : Bool :=
  s.sparing.named kCluster (b / 4) (b % 4) 0 || s.sparing.bankOut b || decide (2 < (s.badCores b).length)
    || decide (3 ≤ s.phasesOut b 0) || decide (2 ≤ s.phasesOut b 1)

/-- What one test of block b adds: entries for failing cores, rows and the shared block, and the cores that leave service. -/
def State.testBlock (s : State) (b : Nat) (r : TestResult) (source : Nat) : State :=
  let site := b / 4
  let q := b % 4
  let s := (onesOf r.coreFail.toNat 34).foldl (fun s p => s.addDefect source 1 kCore site (q * 34 + p) 0) s
  let s := (onesOf r.katFail.toNat 34).foldl (fun s p => if bitOf r.coreFail.toNat p then s else s.addDefect source 3 kCore site (q * 34 + p) 0) s
  let s := r.badRows.foldl (fun s e => s.addDefect source 2 e.1 site e.2.1 e.2.2) s
  let mine := fun (e : Nat × Nat × Nat × Nat) => decide (e.2.1 = site) && decide ((if e.1 = kNsRow then e.2.2.1 / 34 else e.2.2.1) = q)
  let s : State := { s with sparing := { s.sparing with
    badSpares := s.sparing.badSpares.filter (fun e => !mine e) ++ (r.badSpares.map fun e => (e.1, site, e.2.1, e.2.2)) } }
  let s := ((List.range 34).filter (s.sparing.nearOut b)).foldl (fun s p => s.addDefect source 2 kCore site (q * 34 + p) 0) s
  let s := if r.sharedFail then s.addDefect source 1 kCluster site q 0 else s
  let s := (s.badCores b).foldl (fun s p => s.setPhys (b * 34 + p) { s.physCore (b * 34 + p) with retired := true }) s
  (s.writeRemaps b).showTest b r

/-- The logical cores of block b lie on its lowest good cores. -/
def State.coreMapOf (s : State) (b : Nat) : List Nat := ((List.range 34).filter fun p => !(s.badCores b).contains p).take 32

/-- SCHEDULED_CLUSTER_TEST (R388, R389, R400, R404): at a CLUSTER reset, while the cluster's partition is frozen or in reset, or
it has none. A cluster that fails has its die handled as failed. -/
def execScheduledClusterTest (site quad : Nat) (r : TestResult) (s : State) : Host.Outcome State Fault Refusal :=
  answer s (
    let b := site * 4 + quad
    let idle := match (s.blkCluster b).bind s.partOf with
      | none => true
      | some p => match s.part p with | none => true | some q => decide (q.freeze ≠ .no) || q.reset.isSome
    if 156 ≤ site ∨ 4 ≤ quad ∨ !s.sparing.testDue.contains b ∨ !idle then s
    else
      let s := { s with sparing := { s.sparing with testDue := s.sparing.testDue.filter (· ≠ b) } }
      let s := match s.blkCluster b with | none => s | some c => s.resetCluster c
      let s := (s.noteTests (blockFinds b r)).testBlock b r 2
      let s := match s.blkCluster b with
        | none => s
        | some c => s.setClu c { s.clu c with coreMap := s.coreMapOf b }
      if !s.unusable b then s
      else if (s.siteDie site).isNone then s.addDefect 2 1 kDie site 0 0
      else s.retireDie site 1 none false)

/-! ### Retirement (R27, R28, R398 to R403) -/

/-- Cluster c after its die has come into use or gone: power state, clock step and caps anew (R357, R380). -/
def State.freshPower (s : State) (c st : Nat) : State :=
  let b := s.blk c
  let l := Nat.min 3 (s.phasesOut b 0)
  let m := Nat.min 2 (s.phasesOut b 1)
  let s := { s with power := { s.power with
    thermCap := tset 7 s.power.thermCap c 7, panelCap := tset 7 s.power.panelCap c 7, coolSince := tset none s.power.coolSince c none,
    wakes := tset none s.power.wakes c none, paused := s.power.paused.filter (· ≠ c), deferred := s.power.deferred.filter (· ≠ c) } }
  (s.setReg (pwrClu c) (BitVec.ofNat 32 (st + (if 2 ≤ st then 12 else 0) + 7 * 32 + l * 0x100 + m * 0x800))).refreshCap c

/-- Clusters of a logical die. -/
def dieClusters (x y : Nat) : List Nat := [0, 1, 2, 3].map fun q => (y * 2 + q / 2) * 24 + x * 2 + q % 2

/-- Clusters of the logical dies at some sites. -/
def State.clustersAt (s : State) (sites : List Nat) : List Nat :=
  sites.flatMap fun site => match s.siteDie site with | none => [] | some d => dieClusters d.1 d.2

/-- Load cluster c again from its region's image; a missing capability is recorded (R398, R403). -/
def State.reloadCluster (s : State) (c : Nat) : State :=
  match s.regionOf c with
  | none => s
  | some rn => match s.region rn with
    | none => s
    | some r => match r.loaded with
      | none => s
      | some base =>
        let hd := s.header base
        let s := s.loadCluster base hd (s.sects base hd) ((r.clusters.findIdx? (· = c)).getD 0) c
        let s := match s.part r.part with | none => s | some q => s.setLanding q c
        let lacks := hd.caps - Nat.land hd.caps (s.capsAt (s.blk c / 4))
        if lacks = 0 then s
        else (s.modPart r.part fun q => { q with capsLost := true }).record 0x0905 3 r.part rn (onSite (s.blk c / 4)) (u64 lacks)

/-- Copy the DATA records of some clusters again; a copy that fails its CRC, or lies on a lost stack, marks its region bad
(R399). -/
def State.reloadData (s : State) (cs : List Nat) : State :=
  let ds := s.parts.flatMap fun e => match e.2 with | none => [] | some q => q.data.filter fun d => cs.contains d.cluster
  ds.foldl (fun s d =>
    if !s.stackLost (stackOf d.hbm) && decide (crc32 (memRead s.mem d.hbm d.length) = d.crc) then s.loadData 7 [d]
    else s.modRegion d.region fun r => { r with badCopy := true }) s

/-- The clusters of moved dies at their new sites: reset, woken if a partition owns them, and loaded (R398). -/
def State.settleMoved (s : State) (cs : List Nat) : State :=
  let s := cs.foldl (fun s c =>
    let s := s.resetCluster c
    let s := s.setClu c { s.clu c with coreMap := s.coreMapOf (s.blk c) }
    let rotate := match (s.partOf c).bind s.part with | none => false | some q => q.rotate
    let s := if (s.partOf c).isSome then s.spareDuty rotate c else s
    s.freshPower c (if (s.partOf c).isSome then 2 else 0)) s
  let s := cs.foldl (fun s c => s.reloadCluster c) s
  let keep := fun (q : Part) => { q with standing := q.standing.filter fun e => !cs.contains (e.1 / 32) }
  ((s.parts.map (·.1)).foldl (fun s p => s.modPart p keep) s).reloadData cs

/-- The map changes: its version advances, half-width seams of a site fall out of use, and what stood in its routers is lost (R256, R397). -/
def State.mapChanged (s : State) (site : Nat) : State :=
  let s := { s with
    sparing := { s.sparing with halfSeams := s.sparing.halfSeams.filter fun p => decide (p.site ≠ site) && (match s.peer p with | none => true | some o => decide (o.site ≠ site)) },
    seams := s.seams.filter (fun e => decide (e.1 / 20 ≠ site)),
    moving := s.moving.filter fun m => m.legs.all fun l => decide (l.key / 20 ≠ site) }
  s.setReg (bstBase + 4) (s.reg (bstBase + 4) + 1)

/-- `BST_DIE` shows a test of a die. -/
def State.showDie (s : State) (die : Nat) (ok : Bool) : State := s.setField (bstBase + 0x100 + 4 * die) 13 2 (1 + b2n ok * 2)

/-- The rod's spare takes over (R27). -/
def State.useSpare (s : State) (site cause : Nat) : State :=
  let rod := site / 13
  let spare := rod * 13 + s.unassigned rod
  let moved := s.movedSites site
  let cs := s.clustersAt moved
  let s := (s.mapChanged site).setVpm site false false
  let s := (s.setVpm spare true false).showDie spare true
  let s := { s with sparing := { s.sparing with
    unassigned := tset 6 s.sparing.unassigned rod (site % 13), usedSpare := s.sparing.usedSpare.filter (· ≠ rod) ++ [rod] } }
  let s := s.settleMoved cs
  (s.record 0x0904 3 noPart 0 (onSite site) (u16 site ++ u16 spare ++ u8 cause)).count (bstBase + 0x10) 1

/-- Packets on their way to a cluster that has become a hole's are answered as R249 gives (R258). -/
def State.answerHoles (s : State) : State :=
  let lost := fun (m : Moving) => match m.target with | .cluster c => s.clusterHole c | _ => false
  let ms := s.moving.filter lost
  ms.foldl (fun s m =>
    let n := if 2000 ≤ m.src then 24 + (m.src - 2000) else s.exitOfAgent m.src
    let router := if m.src < 576 then m.src else ((s.entryOf n m.pkt).map (·.1)).getD 0
    s.answerUnreach m.target m.src router m.pkt) { s with moving := s.moving.filter fun m => !lost m }

/-- Packets are on their way through the routers of `site`, or to another cluster whose die moves with it. They come to their old site before the
move begins (R258); a die that has failed forwards nothing. -/
def State.comingTo (s : State) (site cause : Nat) : Bool :=
  let works := decide (cause = 11) || decide (cause = 15)
  let moves := (s.movedSites site).filter fun x => works || decide (x ≠ site)
  s.moving.any fun m => decide (m.legs ≠ []) &&
    ((works && m.legs.any fun l => decide (l.key / 20 = site))
      || match m.target with | .cluster c => moves.contains (s.blk c / 4) | _ => false)

/-- The die becomes a hole (R28): its clusters are absent, and partitions that own one are fenced. -/
def State.makeHole (s : State) (site : Nat) : State :=
  let cs := s.clustersAt [site]
  let s := (s.mapChanged site).setVpm site false false
  let s := cs.foldl (fun s c => s.freshPower c 0) s
  let s := { s with cores := s.cores.filter fun e => !cs.contains (e.1 / 32) }
  let s := { s with sparing := { s.sparing with holes := s.sparing.holes ++ [site] }, mem := s.mem.filter fun e => !(isSram e.1 && cs.contains (clusterOfAddr e.1)) }
  let hit := s.parts.filterMap fun e => match e.2 with | none => none | some q => if q.clusters.any cs.contains then some e.1 else none
  let s := hit.foldl (fun s p =>
    let s := s.modPart p fun q => { q with fenced := true, standing := q.standing.filter fun e => !cs.contains (e.1 / 32) }
    match s.part p with
    | none => s
    | some q => if q.step.isSome then (s.endStep p stFenced).clearStep p [] else s) s
  s.answerHoles.refreshState

/-- Partition p is released where nothing else holds it (R147, R398). -/
def State.releaseFrozen (s : State) (p : Nat) : State :=
  match s.part p with
  | none => s
  | some q =>
    let runs := match q.step with | none => false | some st => st.released
    if q.freeze = .no ∨ q.freeze = .reset ∨ q.rateWait ∨ !s.restored p q then s
    else if runs && s.rateLimited p then s.modPart p fun q => { q with rateWait := true }
    else s.replay p

/-- DIE_RETIREMENT (R398, R399, R410): every partition concerned is frozen, for whatever cause, no packet is on its way to a
moving die, and the wakes of a spare's clusters may be granted (R379). -/
def execDieRetirement (site cause : Nat) (spareOk : Bool) (s : State) : Host.Outcome State Fault Refusal :=
  answer s (match s.sparing.retireDue.find? fun e => decide (e.1 = site) with
    | none => s
    | some (_, why, cmd) =>
      let ps := s.retireParts site
      let ready := ps.all fun p => match s.part p with | none => true | some q => decide (q.freeze ≠ .no)
      if cause ≠ why ∨ !ready ∨ s.comingTo site cause ∨ (s.hasSpare (site / 13) ∧ s.shedding) then s
      else
        let rod := site / 13
        let spare := rod * 13 + s.unassigned rod
        let had := s.hasSpare rod
        let s := { s with sparing := { s.sparing with retireDue := s.sparing.retireDue.filter fun e => decide (e.1 ≠ site) } }
        let s := if had && !spareOk then (s.addDefect 1 1 kDie spare 0 0).showDie spare false else s
        let s := (if had && spareOk then s.useSpare site why else s.makeHole site).loseSeamless
        let s := s.addDefect 1 why kDie site 0 0
        let s := match cmd with
          | none => s
          | some id => if ps = [] then s.finish id stOk 0 0 else { s with sparing := { s.sparing with retireCmds := s.sparing.retireCmds ++ [(id, ps)] } }
        ps.foldl (fun s p => s.releaseFrozen p) s.serveHeld)

/-- RIM_SEGMENT_FAIL (R21, R292, R408): rim traffic takes the longer way. -/
def execRimSegmentFail (segment : Nat) (s : State) : Host.Outcome State Fault Refusal :=
  answer s (onlyIf (decide (segment < 8) && !s.sparing.rimGaps.contains segment) s
    { s with sparing := { s.sparing with rimGaps := s.sparing.rimGaps ++ [segment] } })

/-! ### Panel reset (R404, R406) -/

/-- Registers that a panel reset keeps: the commanded cap, the feeds' readings, and the `BST_` and `EVR_` blocks. -/
def keptReg (a : Nat) : Bool :=
  a == pwrBase + 8 || a == pwrBase + 0xC || a == pwrBase + 0x10 || a == pwrBase + 0x14 || (decide (bstBase ≤ a) && decide (a < secBase))
    || (decide (evrBase ≤ a) && decide (a < ctBase 1))

/-- The data plane, its tables and its counters return to their reset values; flash, the defect map, the event record and
the cables stay. Only the control dies keep power. -/
def State.panelReset (s : State) : State :=
  let s := (s.flushAll true).renewNonce
  let flags := s.field pwrBase 0 4
  let safe := decide (s.field thmBase 0 3 = 4) && decide (s.field (thmBase + 8) 0 16 < 400)
  let active := s.activeCt
  let w := s.power
  let m := s.sparing
  let t := s.trust
  let keepDie := fun (d : ControlDie) => { d with role := 3, stopped := false, rebooted := false }
  let s : State := { State.reset with
    now := s.now, free := s.free, pending := s.pending, hw := s.hw, evr := s.evr,
    regs := s.regs.filter fun e => keptReg e.1,
    stackTbl := (s.stackTbl.map fun e => (e.1, ({ testDue := e.2.testDue } : Stack))).filter fun e => decide (e.2 ≠ {}),
    ports := (s.ports.map fun e => (e.1, ({ cable := e.2.cable, cablePwr := e.2.cablePwr } : LinkPort))).filter fun e => decide (e.2 ≠ {}),
    host := { mem := s.host.mem, msix := s.host.msix, pulses := s.host.pulses, pulseAt := s.host.pulseAt, pcieUp := s.host.pcieUp },
    power := { feedA := w.feedA, feedB := w.feedB, plane := w.plane, auxTargets := w.auxTargets, auxTemps := w.auxTemps },
    sparing := { unassigned := m.unassigned, usedSpare := m.usedSpare, holes := m.holes, fieldList := m.fieldList, fuse := m.fuse,
                 rimGaps := m.rimGaps, held := m.held, failing := m.failing },
    trust := { t with ctA := keepDie t.ctA, ctB := keepDie t.ctB, updating := false, swapping := none, debug := false, recovery := false, recoverySrc := none } }
  let s := (s.setField pwrBase 0 4 flags).setField thmBase 0 3 (if safe then 4 else 0)
  let s := ((s.setMgtField 8 5 2 t.role.toNat).setMgtField 8 7 1 active).setMgt 0x18 s.evr.seq
  (s.setVpm 186 true false).setVpm 187 true false

/-- PANEL_RESET (R338, R347, R386): its completion is posted first. -/
def execPanelReset (id : Nat) (io : HostIo) (s : State) : Host.Outcome State Fault Refusal :=
  answer s (s.runCmd id 0xF0 io fun c =>
    let s := s.finish id stOk 0 0
    let posted : State := match c.origin with
      | .ring r =>
        let x := s.ring r
        match x.toPost.reverse with
        | [] => s
        | k :: _ =>
          let n := x.posted.toNat
          if 256 ≤ x.unconsumed then s
          else (s.putBar0 (0x200000 + r * 0x2000 + n % 256 * 32) (k.bytes (1 - n / 256 % 2) r x.head.toNat)).entryVisible r
      | _ => s
    let ring := posted.bar0.filter fun e => decide (0x200000 ≤ e.1) && decide (e.1 < 0x280000)
    let s := posted.panelReset
    { s with bar0 := s.bar0 ++ ring, moving := posted.moving.filter fun m => decide (m.pkt.opcode = 0x24) })

/-- PANEL_RESET_L_ASSERT (R386, R445): the panel is reset and held. -/
def execPanelResetLAssert (s : State) : Host.Outcome State Fault Refusal :=
  answer s (onlyIf (!s.sparing.held) s (
    let s := s.panelReset
    { s with sparing := { s.sparing with held := true } }))

/-- PANEL_RESET_L_RELEASE (R445): bring-up may run. -/
def execPanelResetLRelease (s : State) : Host.Outcome State Fault Refusal :=
  answer s (onlyIf s.sparing.held s { s with sparing := { s.sparing with held := false } })

/-- A control die has power. -/
def State.powered (s : State) : Bool := decide (s.field (pwrBase + 0x100 + 4 * 186) 0 1 = 1) || decide (s.field (pwrBase + 0x100 + 4 * 187) 0 1 = 1)

/-- One-time indices resume at their durable limits (R421). -/
def Trust.resumed (t : Trust) : Trust := { t with akNext := t.akLimit, dikNext := t.dikLimit }

/-- POWER_FAIL (R352, R431): with both feeds lost the record and the operating time go to flash, and all else is lost. -/
def execPowerFail (s : State) : Host.Outcome State Fault Refusal :=
  answer s (
    if s.power.feedA.ok ∨ s.power.feedB.ok ∨ !s.powered ∨ s.sparing.failing then s
    else
      let s := (s.record 0x080D 5 noPart 0 onPanel []).panelReset
      let s := (s.setVpm 186 false false).setVpm 187 false false
      { s with trust := { s.trust.resumed with opStored := s.trust.opTime, opClean := true },
               sparing := { s.sparing with failing := true }, power := { s.power with plane := false } })

/-- POWER_GOOD (R381, R421, R425, R428, R431): the control dies start; debug mode has ended. -/
def execPowerGood (slotId : BitVec 6) (s : State) : Host.Outcome State Fault Refusal :=
  answer s (
    let up := decide (s.power.feedA = .operating) || decide (s.power.feedB = .operating)
    if !up ∨ s.powered then s
    else
      let t := s.trust
      let time := t.opStored + if t.opClean then 0 else 60000
      let t := { t.resumed with pcycle := t.pcycle + 1, opTime := time, opStored := time, opClean := false, debug := false, keysBlocked := false, slotId := slotId }
      let s := { s with trust := t, sparing := { s.sparing with failing := false } }
      let s := ((s.setVpm 186 true false).setVpm 187 true false).setMgtField 8 5 2 t.role.toNat
      s.renewNonce)

/-! ### Bring-up (R381 to R385, R392 to R397, R401, R402) -/

/-- What bring-up finds of one listed unit, where it tests it. -/
def bringupFinds (f : BringupFound) (kind die unit detail : Nat) : Option Bool :=
  let res := fun (b : Nat) => tget passingTest f.tests b
  if kind = kDie then
    if die < 156 then some (!f.badSites.contains die && (List.range 4).all fun q => decide (res (die * 4 + q) = passingTest))
    else if die < 180 then some !(f.badStacks.map (·.1)).contains (die - 156)
    else if die < 186 then some !f.badLinkDies.contains (die - 180)
    else some (if die = 186 then f.imageOk.1 else f.imageOk.2)
  else if kind = kDram then some !f.badDramRows.contains (die - 156, unit, detail)
  else if kind = kChannel then some !(f.badStacks.map (·.1)).contains (die - 156)
  else if kind = kLane then some (bitOf (tget (0, 0) f.portsUp unit).2.toNat detail)
  else if kind = kBay then some (f.lasersOk.contains unit)
  else if kind = kCluster then blockFinds (die * 4 + unit) (res (die * 4 + unit)) kind die unit detail
  else if kind = kCore ∨ kind = kNsRow then blockFinds (die * 4 + unit / 34) (res (die * 4 + unit / 34)) kind die unit detail
  else if kind = kCmRow then blockFinds (die * 4 + unit) (res (die * 4 + unit)) kind die unit detail
  else none

/-- The image that boots: the flash slot's, or the copy in memory that recovery brought and flash did not accept (R418). -/
def Trust.boot (t : Trust) : Bytes := if t.recoverySrc.isSome then t.ctA.fw else t.slot

/-- Minor steppings that the running image has sequencer firmware for (R402, R414); none where the slot holds no image. -/
def Trust.sequencers (t : Trust) : Option (List Nat) :=
  let b := t.boot
  if b = [] then none
  else
    let l := (List.range (fld b 0x18 2)).map fun i => sectOf (slice b (fld b 0x40 4 + 32 * i) 32)
    (findSect l 0x0102).map fun x => (List.range x.count).map fun i => fld b (x.off + i * (x.size / x.count)) 1

/-- Step 2 (R371, R401): clocks, and dies of another major stepping. -/
def State.startDies (s : State) (f : BringupFound) : State :=
  let s := ((s.setField clkBase 0 1 (b2n f.oscOk.1)).setField clkBase 1 1 (b2n f.oscOk.2)).setField clkBase 2 1 (b2n (!f.oscOk.1))
  let s := s.setField clkBase 3 1 (b2n (f.oscOk.1 && f.oscOk.2))
  let d := s.free
  let s := (List.range 186).foldl (fun s i =>
    let p := Config.choice (d + 2 * i) % 6
    s.setReg (clkDie i) (BitVec.ofNat 32 (p + Config.choice (d + 2 * i + 1) % 6 * 8 + p * 0x40 + 0x200 + (Config.freeByte d i).toNat * 0x1000))) s
  let s := { s with free := d + 372 }
  let s := [186, 187].foldl (fun s i => s.setReg (clkDie i) (BitVec.ofNat 32 (6 + 7 * 8 + 6 * 0x40 + 0x200))) s
  let other := (List.range 188).filter fun (i : Nat) => !(s.stepping i / 16 == s.hw.major)
  let s := other.foldl (fun s i => (s.addDefect 0 10 kDie i 0 0).setField (bstBase + 0x100 + 4 * i) 12 1 1) s
  f.badSites.foldl (fun s i => s.addDefect 0 1 kDie i 0 0) s

/-- Step 3 (R402): dies without sequencer firmware are fenced for this boot. -/
def State.fenceSteppings (s : State) : State :=
  match s.trust.sequencers with
  | none => s
  | some l =>
    let out := (List.range 156).filter fun i => !l.contains (s.stepping i % 16)
    let s := { s with sparing := { s.sparing with stepFenced := out } }
    out.foldl (fun s i => s.record 0x0908 3 noPart 0 (onSite i) (u8 (s.stepping i % 16))) s

/-- Steps 4, 5 and 7 (R387 to R396): every cluster's tests. -/
def State.testClusters (s : State) (f : BringupFound) : State :=
  (List.range 624).foldl (fun s b =>
    if f.badSites.contains (b / 4) then s
    else
      let r := tget passingTest f.tests b
      let s := s.testBlock b r 0
      let s := s.showDie (b / 4) (decide (r = passingTest) && (b % 4 == 0 || decide (s.field (bstBase + 0x100 + b / 4 * 4) 14 1 = 1)))
      if s.unusable b && !s.sparing.badSite (b / 4) then s.addDefect 0 1 kDie (b / 4) 0 0 else s) s

/-- Step 6 (R232, R395): stacks; link dies, ports and lasers come up alongside. -/
def State.trainStacks (s : State) (f : BringupFound) : State :=
  let s := f.badDramRows.foldl (fun s e => s.addDefect 0 12 kDram (156 + e.1) e.2.1 e.2.2) s
  (List.range 24).foldl (fun s n =>
    let s := s.setStack n {}
    let listed := s.sparing.named kDie (dieOfStack n) 0 0 || (List.range 32).any fun ch => s.sparing.named kChannel (dieOfStack n) ch 0
    match f.badStacks.find? fun e => decide (e.1 = n) with
    | some e => (s.addDefect 0 13 kDie (dieOfStack n) 0 0).loseStack n e.2
    | none => if listed then s.loseStack n 1 else s.setField (sbdBase n + 4) 0 2 1) s

def State.trainLinks (s : State) (f : BringupFound) : State :=
  let s := f.badLinkDies.foldl (fun s k => s.addDefect 0 1 kDie (dieOfLink k) 0 0) s
  let s := (List.range 6).foldl (fun s k => if s.sparing.named kDie (dieOfLink k) 0 0 then s.loseLink k else s) s
  let s := (List.range 10).foldl (fun s b => if f.lasersOk.contains b then (s.moduleHours b).setField (laserReg b) 0 4 (3 + b2n (!f.lasersOk.contains (b / 2 * 2 + (1 - b % 2))) * 8) else s) s
  f.portsUp.foldl (fun s e =>
    if !s.native e.1 || !laneSets.contains (e.2.1, e.2.2.toNat) then s
    else
      let a := linkReg e.1 0
      let s := s.setField a 14 8 ((s.field a 14 8 + 1) % 256)
      s.portRuns e.1 (e.2.1, e.2.2.toNat) true) s

/-- The site is bad in this boot. -/
def State.badNow (s : State) (site : Nat) : Bool := s.sparing.badSite site || s.sparing.stepFenced.contains site

/-- Rebuild one rod (R397): holes whose site is good again are given back, and bad sites are retired to a good unused site
or become holes, by ascending logical x. -/
def State.rebuildRod (s : State) (y : Nat) : State :=
  let m := s.sparing
  let u := y * 13 + s.unassigned y
  let s := { s with sparing := { m with
    holes := m.holes.filter (fun h => decide (h / 13 ≠ y) || s.badNow h),
    usedSpare := m.usedSpare.filter (fun r => decide (r ≠ y) || s.badNow u) } }
  (List.range 13).foldl (fun s p =>
    let site := y * 13 + p
    if (s.siteDie site).isNone || s.isHole site || !s.badNow site then s
    else if s.hasSpare y then
      { s with sparing := { s.sparing with unassigned := tset 6 s.sparing.unassigned y p, usedSpare := s.sparing.usedSpare.filter (· ≠ y) ++ [y] } }
    else { s with sparing := { s.sparing with holes := s.sparing.holes ++ [site] } }) s

/-- The physical cores of cluster c carry a logical core or are idle spares, as its core map says (R84). -/
def State.mapDuty (s : State) (c : Nat) : State :=
  (List.range 34).foldl (fun s p =>
    let pk := s.physIn c p
    let d := if (s.clu c).coreMap.contains p then 0 else 2
    if (s.physCore pk).duty = d then s else s.setPhys pk { s.physCore pk with duty := d }) s

/-- Step 8 (R25, R397): the map, the core maps, the caps of the clusters, and the power of the dies. -/
def State.rebuildMap (s : State) : State :=
  let old := (s.sparing.unassigned, s.sparing.holes)
  let s := (List.range 12).foldl (fun s y => s.rebuildRod y) s
  let s := if old = (s.sparing.unassigned, s.sparing.holes) then s else s.setReg (bstBase + 4) (s.reg (bstBase + 4) + 1)
  let s := (List.range 576).foldl (fun s c => ((s.setClu c { s.clu c with coreMap := s.coreMapOf (s.blk c) }).mapDuty c).freshPower c 0) s
  (List.range 186).foldl (fun s d => s.setVpm d (decide (156 ≤ d) || s.inUse d) false) s

/-- `STATE` at the end of bring-up (R385). -/
def State.finalState (s : State) (f : BringupFound) : Nat :=
  if s.field thmBase 0 3 = 4 ∨ !f.reachable ∨ 12 < s.sparing.holes.length ∨ 6 < ((List.range 24).filter s.stackLost).length then 4
  else if s.degraded then 3 else 2

/-- Step of the first failure (R411). -/
def failStep (f : BringupFound) : Nat :=
  let any := fun (g : TestResult → Bool) => f.tests.any fun e => g e.2
  if !f.imageOk.1 ∨ !f.imageOk.2 then 1
  else if f.badSites ≠ [] ∨ f.badLinkDies ≠ [] then 2
  else if any fun r => decide (r.coreFail ≠ 0) || r.sharedFail then 4
  else if any fun r => decide (r.badRows ≠ []) then 5
  else if f.badStacks ≠ [] ∨ f.badDramRows ≠ [] then 6
  else if any fun r => decide (r.katFail ≠ 0) then 7 else 0

/-- Set the role of a control die. -/
def State.setRole (s : State) (d role : Nat) : State :=
  { s with trust := if d = 0 then { s.trust with ctA := { s.trust.ctA with role := role } } else { s.trust with ctB := { s.trust.ctB with role := role } } }

/-- Step 1 (R382, R383): die d is active; the other stands by, or has failed. Firmware runs and BAR0 is served. -/
def State.startGleryn (s : State) (d : Nat) (otherOk : Bool) (f : BringupFound) : State :=
  let s := (s.setRole d 0).setRole (1 - d) (if otherOk then 1 else 2)
  let t := s.trust
  let s := { s with trust := { t with ctA := { t.ctA with fw := t.boot, beatAt := s.now }, ctB := { t.ctB with fw := t.boot, beatAt := s.now }, loadedFw := t.boot, lastActive := some d } }
  let s := { s with sparing := { s.sparing with bar0Live := true, fieldList := if f.flCopy.isNone then [] else s.sparing.fieldList },
                     bar0 := s.bar0.filter fun e => decide (e.1 < 0x100000) }
  let s := ((s.setMgtField 8 7 1 d).setMgtField 8 0 3 1).setMgt 0x10 (BitVec.ofNat 32 (fld t.boot 0x0C 4))
  let s := s.setReg bstBase (BitVec.ofNat 32 (0x10000 + f.flCopy.getD 0 % 2 * 0x40 + b2n f.flCopy.isNone * 0x80 + failStep f * 0x100))
  let s := if f.flCopy.isNone then s.record 0x0902 4 noPart 0 onPanel [] else s
  let s := if otherOk then s else s.record 0x0A07 5 noPart 0 (onControl (1 - d)) [Config.freeByte s.free 0]
  { s.draw with trust := s.trust }.setField panelBase 0 9 t.frameNext

/-- The die that becomes active: the one flash names, or CT-A; the other where that one is late or fails. -/
def Trust.chooseActive (t : Trust) (f : BringupFound) (okA okB : Bool) : Option Nat :=
  let named := t.lastActive.getD 0
  let ok := fun (d : Nat) => if d = 0 then okA else okB
  let order := if f.namedLate then [1 - named, named] else [named, 1 - named]
  order.find? ok

/-- Steps 2 to 7. -/
def State.testAll (s : State) (f : BringupFound) : State :=
  let s := (s.noteTests (bringupFinds f)).startDies f
  let s := ((s.fenceSteppings).testClusters f).trainStacks f
  let s := s.trainLinks f
  { s with power := { s.power with trFailsafe := 1000 } }

/-- Step 8. -/
def State.endBringup (s : State) (f : BringupFound) : State :=
  let s := s.rebuildMap.loseSeamless
  let st := if s.finalState f = 2 ∧ f.halfSeams ≠ [] then 3 else s.finalState f
  let s : State := if st = 4 then (List.range 186).foldl (fun s d => s.setVpm d false false) s
    else (f.halfSeams.filter fun p => s.inUse p.site).foldl State.halfWidth { s with sparing := { s.sparing with routesUp := true, frame0 := s.now, frames := [] } }
  let s := (s.setField bstBase 4 1 (b2n (decide (st = 3)))).setField bstBase 5 1 (b2n (decide (st = 4)))
  let s := (List.range 8).foldl (fun s k => s.setReg (bstBase + 0x20 + 4 * k) (BitVec.ofNat 32 (f.stepMs.getD k 0))) s
  let s := (s.setPanelState st).refreshRdy
  s.refreshLimit.record 0x0907 1 noPart 0 onPanel (u8 st ++ u32 (f.stepMs.foldl (· + ·) 0))

/-- Debug mode (R427, R428): secrets are blocked, the tests have overwritten memory, and the data plane stays down. -/
def State.enterDebug (s : State) (arg : Word) : State :=
  let s := { s with trust := { s.trust with debug := true, keysBlocked := true, unlockArg := none } }
  s.record 0x0A0B 3 noPart 0 onPanel (u32 arg.toNat)

/-- No control die has a valid image (R418): the boot ROM brings up the rim and the links, and waits for an offer. -/
def State.enterRecovery (s : State) (f : BringupFound) : State :=
  let s := { s with trust := { s.trust with recovery := true, recoverySrc := none } }
  let s := (List.range 6).foldl (fun s k => s.setVpm (180 + k) true false) s
  s.trainLinks f

/-- BRINGUP (R381). -/
def execBringup (f : BringupFound) (s : State) : Host.Outcome State Fault Refusal :=
  answer s (
    let bad := fun (d : Nat) => s.sparing.named kDie (dieOfControl d) 0 0 || decide (s.stepping (dieOfControl d) / 16 ≠ s.hw.major)
    let okA := f.imageOk.1 && !bad 0
    let okB := f.imageOk.2 && !bad 1
    if s.mgtField 8 0 3 ≠ 0 ∨ s.sparing.held ∨ s.sparing.failing ∨ !s.powered ∨ s.trust.recovery then s
    else match s.trust.chooseActive f okA okB with
      | none => s.enterRecovery f
      | some d =>
        let late := f.namedLate && decide (d ≠ s.trust.lastActive.getD 0)
        let otherOk := (if d = 0 then okB else okA) && !late
        let s := (s.startGleryn d otherOk f).testAll f
        match s.trust.unlockArg with
        | some arg => s.enterDebug arg
        | none => s.endBringup f)

end Sys2Proof.Machine
end

