-- ==== Sys2Proof/Machine/Scalar.lean ====
section
/-! DEFINITION. The scalar control core (R41 to R44): RV32IMC decoding, the 32-bit address map, the CSRs
and one instruction of the running petal. What an RV32IMC instruction computes is the RISC-V base's, to
which R41 refers (PRESUMED, log entry 11). -/

namespace Sys2Proof.Machine

/-- A decoded instruction. Register numbers and funct codes are kept as the encoding has them. -/
inductive Rv where
  | lui (rd : Nat) (imm : Word)
  | auipc (rd : Nat) (imm : Word)
  | jal (rd : Nat) (off : Word)
  | jalr (rd rs1 : Nat) (imm : Word)
  | branch (f3 rs1 rs2 : Nat) (off : Word)
  | load (rd rs1 : Nat) (imm : Word) (size : Nat) (signed : Bool)
  | store (rs1 rs2 : Nat) (imm : Word) (size : Nat)
  | opImm (f3 : Nat) (alt : Bool) (rd rs1 : Nat) (imm : Word)
  | op (f3 : Nat) (alt : Bool) (rd rs1 rs2 : Nat)
  | mulDiv (f3 rd rs1 rs2 : Nat)
  | fence
  | csr (f3 rd rs1 csr : Nat)
  | queue (f3 f7 f5 rs1 rd : Nat)
  | engine (f3 f7 f5 rs1 rd : Nat)
  | illegal

/-- A w-bit number sign-extended to 32 bits. -/
def sx (w n : Nat) : Word := (BitVec.ofNat w n).signExtend 32

/-- A 32-bit encoding. -/
def decode32 (n : Nat) : Rv :=
  let rd := bits n 7 5
  let f3 := bits n 12 3
  let rs1 := bits n 15 5
  let rs2 := bits n 20 5
  let f7 := bits n 25 7
  let immI := sx 12 (bits n 20 12)
  match bits n 0 7 with
  | 0x37 => .lui rd (BitVec.ofNat 32 (bits n 12 20 * 4096))
  | 0x17 => .auipc rd (BitVec.ofNat 32 (bits n 12 20 * 4096))
  | 0x6F => .jal rd (sx 21 (bits n 21 10 * 2 + bits n 20 1 * 2048 + bits n 12 8 * 4096 + bits n 31 1 * 0x100000))
  | 0x67 => if f3 = 0 then .jalr rd rs1 immI else .illegal
  | 0x63 => if f3 = 2 ∨ f3 = 3 then .illegal
            else .branch f3 rs1 rs2 (sx 13 (bits n 8 4 * 2 + bits n 25 6 * 32 + bits n 7 1 * 2048 + bits n 31 1 * 4096))
  | 0x03 => if f3 = 3 ∨ 5 < f3 then .illegal else .load rd rs1 immI (2 ^ (f3 % 4)) (f3 < 4)
  | 0x23 => if 2 < f3 then .illegal else .store rs1 rs2 (sx 12 (f7 * 32 + rd)) (2 ^ f3)
  | 0x13 => if f3 = 1 then (if f7 = 0 then .opImm 1 false rd rs1 (BitVec.ofNat 32 rs2) else .illegal)
            else if f3 = 5 then
              (if f7 = 0 then .opImm 5 false rd rs1 (BitVec.ofNat 32 rs2)
               else if f7 = 0x20 then .opImm 5 true rd rs1 (BitVec.ofNat 32 rs2) else .illegal)
            else .opImm f3 false rd rs1 immI
  | 0x33 => if f7 = 1 then .mulDiv f3 rd rs1 rs2
            else if f7 = 0 then .op f3 false rd rs1 rs2
            else if f7 = 0x20 ∧ (f3 = 0 ∨ f3 = 5) then .op f3 true rd rs1 rs2 else .illegal
  | 0x0F => if f3 = 0 then .fence else .illegal
  | 0x73 => if f3 = 0 ∨ f3 = 4 then .illegal else .csr f3 rd rs1 (bits n 20 12)
  | 0x0B => .queue f3 f7 rs2 rs1 rd
  | 0x2B => .engine f3 f7 rs2 rs1 rd
  | _ => .illegal

/-- A 16-bit encoding. -/
def decode16 (n : Nat) : Rv :=
  let r1 := bits n 7 5
  let r2 := bits n 2 5
  let c1 := bits n 7 3 + 8
  let c2 := bits n 2 3 + 8
  let imm6 := sx 6 (bits n 12 1 * 32 + bits n 2 5)
  let jOff := sx 12 (bits n 3 3 * 2 + bits n 11 1 * 16 + bits n 2 1 * 32 + bits n 7 1 * 64 + bits n 6 1 * 128
    + bits n 9 2 * 256 + bits n 8 1 * 1024 + bits n 12 1 * 2048)
  let bOff := sx 9 (bits n 3 2 * 2 + bits n 10 2 * 8 + bits n 2 1 * 32 + bits n 5 2 * 64 + bits n 12 1 * 256)
  let lwOff : Word := BitVec.ofNat 32 (bits n 6 1 * 4 + bits n 10 3 * 8 + bits n 5 1 * 64)
  let shamt := bits n 12 1 * 32 + bits n 2 5
  match bits n 0 2, bits n 13 3 with
  | 0, 0 =>
    let imm := bits n 6 1 * 4 + bits n 5 1 * 8 + bits n 11 2 * 16 + bits n 7 4 * 64
    if imm = 0 then .illegal else .opImm 0 false c2 2 (BitVec.ofNat 32 imm)
  | 0, 2 => .load c2 c1 lwOff 4 true
  | 0, 6 => .store c1 c2 lwOff 4
  | 1, 0 => .opImm 0 false r1 r1 imm6
  | 1, 1 => .jal 1 jOff
  | 1, 2 => .opImm 0 false r1 0 imm6
  | 1, 3 =>
    if shamt = 0 then .illegal
    else if r1 = 2 then
      .opImm 0 false 2 2 (sx 10 (bits n 6 1 * 16 + bits n 2 1 * 32 + bits n 5 1 * 64 + bits n 3 2 * 128 + bits n 12 1 * 512))
    else .lui r1 (imm6 <<< 12)
  | 1, 4 =>
    match bits n 10 2 with
    | 0 => if shamt < 32 then .opImm 5 false c1 c1 (BitVec.ofNat 32 shamt) else .illegal
    | 1 => if shamt < 32 then .opImm 5 true c1 c1 (BitVec.ofNat 32 shamt) else .illegal
    | 2 => .opImm 7 false c1 c1 imm6
    | _ =>
      if bits n 12 1 = 1 then .illegal
      else match bits n 5 2 with
        | 0 => .op 0 true c1 c1 c2
        | 1 => .op 4 false c1 c1 c2
        | 2 => .op 6 false c1 c1 c2
        | _ => .op 7 false c1 c1 c2
  | 1, 5 => .jal 0 jOff
  | 1, 6 => .branch 0 c1 0 bOff
  | 1, 7 => .branch 1 c1 0 bOff
  | 2, 0 => if shamt < 32 then .opImm 1 false r1 r1 (BitVec.ofNat 32 shamt) else .illegal
  | 2, 2 =>
    if r1 = 0 then .illegal
    else .load r1 2 (BitVec.ofNat 32 (bits n 4 3 * 4 + bits n 12 1 * 32 + bits n 2 2 * 64)) 4 true
  | 2, 4 =>
    if bits n 12 1 = 0 then
      if r2 = 0 then (if r1 = 0 then .illegal else .jalr 0 r1 0)
      else .op 0 false r1 0 r2
    else if r2 = 0 then (if r1 = 0 then .illegal else .jalr 1 r1 0)
    else .op 0 false r1 r1 r2
  | 2, 6 => .store 2 r2 (BitVec.ofNat 32 (bits n 9 4 * 4 + bits n 7 2 * 64)) 4
  | _, _ => .illegal

/-- The RV32I arithmetic of funct3, with its alternate form (SUB, SRA). -/
def alu (f3 : Nat) (alt : Bool) (a b : Word) : Word :=
  match f3 with
  | 0 => if alt then a - b else a + b
  | 1 => a <<< (b.toNat % 32)
  | 2 => if a.slt b then 1 else 0
  | 3 => if a.ult b then 1 else 0
  | 4 => a ^^^ b
  | 5 => if alt then a.sshiftRight (b.toNat % 32) else a >>> (b.toNat % 32)
  | 6 => a ||| b
  | _ => a &&& b

/-- The M extension: division by zero gives all ones and the dividend, and the one overflow wraps. -/
def mulDiv (f3 : Nat) (a b : Word) : Word :=
  match f3 with
  | 0 => a * b
  | 1 => BitVec.ofInt 32 (a.toInt * b.toInt / 0x100000000)
  | 2 => BitVec.ofInt 32 (a.toInt * (b.toNat : Int) / 0x100000000)
  | 3 => BitVec.ofNat 32 (a.toNat * b.toNat / 0x100000000)
  | 4 => if b = 0 then BitVec.ofNat 32 0xFFFFFFFF else a.sdiv b
  | 5 => if b = 0 then BitVec.ofNat 32 0xFFFFFFFF else a / b
  | 6 => if b = 0 then a else a.srem b
  | _ => if b = 0 then a else a % b

def branchTaken (f3 : Nat) (a b : Word) : Bool :=
  match f3 with
  | 0 => a == b
  | 1 => a != b
  | 4 => a.slt b
  | 5 => !a.slt b
  | 6 => a.ult b
  | _ => !a.ult b

/-! ### The address map (R43) -/

/-- Where a scalar address leads: a byte of panel memory, or an offset of the descriptor table. -/
inductive Where where
  | mem (a : Nat)
  | desc (off : Nat)
  deriving DecidableEq, Repr

/-- Resolve a load or store of `size` bytes at a scalar address, or the cause of its fault. An access not
wholly inside one window is an access fault; a misaligned one inside a window is a misaligned fault. -/
def State.locate (s : State) (h a size : Nat) : Where ⊕ Nat :=
  let win (lo n base : Nat) : Where ⊕ Nat :=
    if lo + n < a + size then .inr causeAccess
    else if a % size ≠ 0 then .inr causeMisalign
    else .inl (.mem (base + (a - lo)))
  if a < 0x40000 then win 0 0x40000 (nearBase h)
  else if 0x800000 ≤ a ∧ a < 0x1000000 then
    let o := a - 0x800000
    if 0x600000 ≤ o ∧ s.cacheMode (h / 32) then .inr causeAccess
    else win 0x800000 0x800000 (sramBase (h / 32))
  else if 0x4000000 ≤ a ∧ a < 0x4200000 ∧ s.leads h then
    win 0x4000000 0x200000 (nearBase h)
  else if 0x20000000 ≤ a ∧ a < 0x20000200 then
    if size ≠ 4 ∨ 0x20000200 < a + size then .inr causeAccess
    else if a % 4 ≠ 0 then .inr causeMisalign
    else .inl (.desc (a - 0x20000000))
  else .inr causeAccess

/-- The value a load brings, before sign extension. -/
def State.scalarRead (s : State) (h : Nat) (w : Where) (size : Nat) : Nat :=
  match w with
  | .mem a => leNat (s.load a size)
  | .desc o => leNat ((List.range size).map fun i => tget 0 (s.core h).pet.desc (o + i))

def State.scalarWrite (s : State) (h : Nat) (w : Where) (bs : Bytes) : State :=
  match w with
  | .mem a => s.store .scalar 0 a bs
  | .desc o =>
    let c := s.core h
    let d := (List.range bs.length).foldl (fun d i => tset 0 d (o + i) (bs.getD i 0)) c.pet.desc
    s.setCore h (c.setPet { c.pet with desc := d })

/-- Extend a loaded value of `size` bytes. -/
def extend (size : Nat) (signed : Bool) (n : Nat) : Word :=
  if signed then sx (8 * size) n else BitVec.ofNat 32 n

/-- A load of len instruction bytes (R43, R172). -/
def State.doLoad (s : State) (h rd rs1 : Nat) (imm : Word) (size : Nat) (signed : Bool) (len : Nat) : State :=
  let a := ((s.core h).xreg rs1 + imm).toNat
  match s.locate h a size with
  | .inr cause => s.halt h cause (s.core h).pc
  | .inl w => (s.setXreg h rd (extend size signed (s.scalarRead h w size))).retire h len

def State.doStore (s : State) (h rs1 rs2 : Nat) (imm : Word) (size len : Nat) : State :=
  let c := s.core h
  let a := (c.xreg rs1 + imm).toNat
  match s.locate h a size with
  | .inr cause => s.halt h cause c.pc
  | .inl w => (s.scalarWrite h w (natLe size (c.xreg rs2).toNat)).retire h len

/-! ### CSRs (R42) -/

/-- `QMASK`: input queues non-empty, output queues with credit. -/
def State.qmask (s : State) (h : Nat) : Nat :=
  let c := s.core h
  ((List.range 8).map fun i => if (c.inQ i).head.isSome then 2 ^ i else 0).foldl (· + ·) 0
    + ((List.range 8).map fun i => if s.hasCredit h i then 2 ^ (8 + i) else 0).foldl (· + ·) 0

/-- `BQ`: in a bouquet, member index, leader. -/
def State.bqCsr (s : State) (h : Nat) : Nat :=
  if s.inBouquet h then 1 + h % 8 * 2 + b2n (s.leads h) * 16 else 0

/-- A CSR read; none for an address that is not implemented. `RNG_SEED` is write-only and reads 0 (R7). -/
def State.csrRead (s : State) (h csr : Nat) : Option Word :=
  let p := (s.core h).pet
  match csr with
  | 0xF14 => some (BitVec.ofNat 32 h)
  | 0xB00 => some (p.mcycle.setWidth 32)
  | 0xB80 => some ((p.mcycle >>> 32).setWidth 32)
  | 0xB02 => some (p.minstret.setWidth 32)
  | 0xB82 => some ((p.minstret >>> 32).setWidth 32)
  | 0x7C0 => some (BitVec.ofNat 32 (s.core h).petal)
  | 0x7C1 => some (BitVec.ofNat 32 (s.bqCsr h))
  | 0x7C2 => some 0
  | 0x7C3 => some (BitVec.ofNat 32 (s.qmask h))
  | _ => none

/-- A 64-bit counter with one half replaced. -/
def setHalf (v : Dword) (high : Bool) (x : Word) : Dword :=
  if high then (x.setWidth 64 <<< 32) ||| (v &&& 0xFFFFFFFF#64) else (v &&& 0xFFFFFFFF00000000#64) ||| x.setWidth 64

/-- A CSR write: the read-only custom CSRs ignore it (R7), a write of `mhartid` is illegal (PRESUMED:
RISC-V's read-only CSR range), and `RNG_SEED` reseeds. -/
def State.csrWrite (s : State) (h csr : Nat) (v : Word) : Option State :=
  let c := s.core h
  let p := c.pet
  match csr with
  | 0xF14 => none
  | 0xB00 => some (s.setCore h (c.setPet { p with mcycle := setHalf p.mcycle false v }))
  | 0xB80 => some (s.setCore h (c.setPet { p with mcycle := setHalf p.mcycle true v }))
  | 0xB02 => some (s.setCore h (c.setPet { p with minstret := setHalf p.minstret false v }))
  | 0xB82 => some (s.setCore h (c.setPet { p with minstret := setHalf p.minstret true v }))
  | 0x7C2 => some (s.reseed h v)
  | _ => some s

/-- One CSR instruction (R41, R42): funct3 1 to 3 take rs1, 5 to 7 its number; set and clear with a zero
source write nothing. -/
def State.doCsr (s : State) (h f3 rd rs1 csr : Nat) : State :=
  let c := s.core h
  match s.csrRead h csr with
  | none => s.halt h causeIllegal c.pc
  | some old =>
    let src : Word := if f3 < 4 then c.xreg rs1 else BitVec.ofNat 32 rs1
    let new := if f3 % 4 = 1 then src else if f3 % 4 = 2 then old ||| src else old &&& ~~~src
    let w := if f3 % 4 ≠ 1 ∧ rs1 = 0 then some s else s.csrWrite h csr new
    match w with
    | none => s.halt h causeIllegal c.pc
    | some s => (s.setXreg h rd old).retire h 4

/-! ### One instruction -/

/-- Queue and loop-counter instructions, opcode 0x0B: a nonzero field marked 0 is illegal (R45). -/
def decodeQueue (f3 f7 f5 rs1 rd : Nat) : Option Instr :=
  if 8 ≤ f5 then none
  else match f3 with
    | 0 => if f7 = 0 ∧ rs1 = 0 then some (.qTag 0 rd f5) else none
    | 1 => if f7 < 16 ∧ rs1 = 0 then some (.qRdw 0 rd f5 f7) else none
    | 2 => if f7 = 0 ∧ rs1 = 0 ∧ rd = 0 then some (.qPop 0 f5) else none
    | 3 => if f7 < 16 ∧ rd = 0 then some (.qWrw 0 rs1 f5 f7) else none
    | 4 => if f7 = 0 ∧ rd = 0 then some (.qPush 0 rs1 f5) else none
    | 5 => if f7 < 8 ∧ rs1 = 0 ∧ rd = 0 then some (.qFwd 0 f5 f7) else none
    | 6 => if f7 < 2 ∧ rs1 = 0 then some (.qStat 0 rd f5 f7) else none
    | 7 => if f7 < 4 ∧ rd = 0 then some (.lcSet 0 f5 f7 rs1)
           else if 16 ≤ f7 ∧ f7 < 20 ∧ rs1 = 0 then some (.lcRd 0 rd f5 (f7 - 16)) else none
    | _ => none

/-- Engine and petal instructions, opcode 0x2B (R45). -/
def decodeEngine (f3 f7 f5 rs1 rd : Nat) : Option Instr :=
  match f3 with
  | 0 => if f7 < 5 ∧ rd = 0 then some (.eIssue 0 f7 rs1 f5) else none
  | 1 => if f7 < 32 ∧ f5 = 0 ∧ rs1 = 0 ∧ rd = 0 then some (.eWait 0 (BitVec.ofNat 5 f7)) else none
  | 2 => if f7 = 0 ∧ f5 = 0 ∧ rs1 = 0 then some (.eStat 0 rd) else none
  | 3 => if f7 = 0 ∧ f5 = 0 ∧ rs1 = 0 ∧ rd = 0 then some (.pYield 0) else none
  | 4 => if f7 = 0 ∧ f5 = 0 ∧ rs1 = 0 then some (.rnd 0 rd) else none
  | _ => none

/-- Carry out an instruction of the queue extension fetched at the pc. -/
def State.runExt (s : State) (h : Nat) : Option Instr → State
  | some (.qTag _ rd qi) => s.runWait h (.tag rd qi)
  | some (.qRdw _ rd qi w) => s.runWait h (.rdw rd qi w)
  | some (.qPop _ qi) => s.runWait h (.pop qi)
  | some (.qWrw _ rs1 qo w) => s.runDone h (opWrw s h rs1 qo w)
  | some (.qPush _ rs1 qo) => s.runWait h (.push rs1 qo)
  | some (.qFwd _ qi qo) => s.runWait h (.fwd qi qo)
  | some (.qStat _ rd q d) => s.runDone h (opStat s h rd q d)
  | some (.lcSet _ qi n rs1) => s.runDone h (opLcSet s h qi n rs1)
  | some (.lcRd _ rd qi n) => s.runDone h (opLcRd s h rd qi n)
  | some (.eIssue _ e rs1 rs2) => s.runWait h (.issue e rs1 rs2)
  | some (.eWait _ m) => s.runWait h (.ewait m)
  | some (.eStat _ rd) => s.runDone h (opEStat s h rd)
  | some (.pYield _) => opYield s h
  | some (.rnd _ rd) => s.runDone h (opRnd s h rd)
  | _ => s.halt h causeIllegal (s.core h).pc

/-- Jump: the pc becomes the target, rd the address after the instruction. -/
def State.jump (s : State) (h rd : Nat) (target : Word) (len : Nat) : State :=
  let c := s.core h
  let link := c.pet.pc + BitVec.ofNat 32 len
  let s := (s.setXreg h rd link).retire h len
  s.setCore h ((s.core h).setPc target.toNat)

/-- One decoded instruction of len bytes at the pc. -/
def State.runRv (s : State) (h len : Nat) (i : Rv) : State :=
  let c := s.core h
  match i with
  | .lui rd imm => (s.setXreg h rd imm).retire h len
  | .auipc rd imm => (s.setXreg h rd (c.pet.pc + imm)).retire h len
  | .jal rd off => s.jump h rd (c.pet.pc + off) len
  | .jalr rd rs1 imm => s.jump h rd ((c.xreg rs1 + imm) &&& ~~~1#32) len
  | .branch f3 rs1 rs2 off =>
    if branchTaken f3 (c.xreg rs1) (c.xreg rs2) then s.jump h 0 (c.pet.pc + off) len else s.retire h len
  | .load rd rs1 imm size signed => s.doLoad h rd rs1 imm size signed len
  | .store rs1 rs2 imm size => s.doStore h rs1 rs2 imm size len
  | .opImm f3 alt rd rs1 imm => (s.setXreg h rd (alu f3 alt (c.xreg rs1) imm)).retire h len
  | .op f3 alt rd rs1 rs2 => (s.setXreg h rd (alu f3 alt (c.xreg rs1) (c.xreg rs2))).retire h len
  | .mulDiv f3 rd rs1 rs2 => (s.setXreg h rd (mulDiv f3 (c.xreg rs1) (c.xreg rs2))).retire h len
  | .fence => s.retire h len
  | .csr f3 rd rs1 csr => s.doCsr h f3 rd rs1 csr
  | .queue f3 f7 f5 rs1 rd => s.runExt h (decodeQueue f3 f7 f5 rs1 rd)
  | .engine f3 f7 f5 rs1 rd => s.runExt h (decodeEngine f3 f7 f5 rs1 rd)
  | .illegal => s.halt h causeIllegal c.pc

/-- n bytes of a core's instruction memory from offset o. -/
def Core.fetch (c : Core) (o n : Nat) : Nat := leNat ((List.range n).map fun i => tget 0 c.imem (o + i))

/-- Fetch and run one instruction: a fetch at an odd address or from outside the instruction window
halts the petal there (R43, R44). -/
def State.scalarStep (s : State) (h : Nat) : State :=
  let c := s.core h
  let pc := c.pc
  if pc % 2 = 1 then s.halt h causeMisalign pc
  else if pc < 0x10000000 ∨ 0x10002000 ≤ pc then s.halt h causeAccess pc
  else
    let o := pc - 0x10000000
    let half := c.fetch o 2
    if half % 4 ≠ 3 then s.runRv h 2 (decode16 half)
    else if 0x2000 < o + 4 then s.halt h causeAccess pc
    else s.runRv h 4 (decode32 (c.fetch o 4))

def execScalarInstruction (h : Nat) (s : State) : Host.Outcome State Fault Refusal :=
  answer s (onlyIf (s.ready h) s (s.scalarStep h))

/-- SCALAR_LOAD of 1, 2 or 4 bytes (R43, R172). -/
def execScalarLoad (h rd rs1 : Nat) (imm : BitVec 12) (size : Nat) (signed : Bool) (s : State) :
    Host.Outcome State Fault Refusal :=
  answer s (onlyIf (s.ready h && (size == 1 || size == 2 || size == 4)) s (s.doLoad h rd rs1 (imm.signExtend 32) size signed 4))

/-- SCALAR_STORE of 1, 2 or 4 bytes (R43, R172). -/
def execScalarStore (h rs1 rs2 : Nat) (imm : BitVec 12) (size : Nat) (s : State) : Host.Outcome State Fault Refusal :=
  answer s (onlyIf (s.ready h && (size == 1 || size == 2 || size == 4)) s (s.doStore h rs1 rs2 (imm.signExtend 32) size 4))

/-- CSR_ACCESS (R41, R42): funct3 0 and 4 are no CSR instruction, and illegal. -/
def execCsrAccess (h : Nat) (f3 : BitVec 3) (rd rs1 : Nat) (csr : BitVec 12) (s : State) : Host.Outcome State Fault Refusal :=
  answer s (onlyIf (s.ready h) s
    (if f3.toNat % 4 = 0 then s.halt h causeIllegal (s.core h).pc else s.doCsr h f3.toNat rd rs1 csr.toNat))

/-- RNG_SEED_WRITE (R42, R101): the running petal's six streams are reseeded; the writing instruction
retires as a CSR_ACCESS or SCALAR_INSTRUCTION of its own. -/
def execRngSeedWrite (h : Nat) (v : Word) (s : State) : Host.Outcome State Fault Refusal :=
  answer s (onlyIf (s.ready h) s (s.reseed h v))

end Sys2Proof.Machine
end

