-- ==== Sys2Proof/Machine/Trust.lean ====
section
/-! DEFINITION. Firmware, control dies, keys and the management port (R413 to R428, R437, R438). -/

namespace Sys2Proof.Machine

/-! ### Control dies (R416) -/

/-- Change a control die. -/
def State.setControl (s : State) (d : Nat) (f : ControlDie → ControlDie) : State :=
  { s with trust := if d = 0 then { s.trust with ctA := f s.trust.ctA } else { s.trust with ctB := f s.trust.ctB } }

/-- CT_HEARTBEAT (R416). -/
def execCtHeartbeat (die : Nat) (s : State) : Host.Outcome State Fault Refusal :=
  answer s (onlyIf (decide (die < 2) && !(s.controlDie die).stopped && decide ((s.controlDie die).role < 2)) s
    (s.setControl die fun c => { c with beatAt := s.now }))

/-- GLERYN_WATCHDOG_EXPIRY (R416). -/
def execGlerynWatchdogExpiry (die : Nat) (s : State) : Host.Outcome State Fault Refusal :=
  answer s (onlyIf (decide (die < 2) && decide ((s.controlDie die).role < 2)) s (s.setControl die fun c => { c with stopped := true }))

/-- The active die has failed: it is stopped, or three heartbeats are missing. -/
def State.activeLost (s : State) : Bool :=
  let c := s.controlDie s.activeCt
  decide (c.role = 0) && (c.stopped || decide (c.beatAt + usec 300 ≤ s.now))

/-- The other die stands by and is sound. -/
def State.standbyOk (s : State) : Bool :=
  let c := s.controlDie (1 - s.activeCt)
  decide (c.role = 1) && !c.stopped

/-- Die d takes over: it serves the rings in `STATE` 5 and then in the state before. -/
def State.takeOver (s : State) (d : Nat) : State :=
  let st := s.mgtField 8 0 3
  let s := (s.setPanelState 5).setRdy false
  let s := (s.setControl d fun c => { c with role := 0 }).setMgtField 8 7 1 d
  let s := s.setMgt 0x10 (BitVec.ofNat 32 (fld (s.controlDie d).fw 0x0C 4))
  ((s.setPanelState st).refreshRdy).flushAll true

/-- CONTROL_DIE_FAILOVER (R416, R421, R438): the standby takes over, or, without one, no command is served. -/
def execControlDieFailover (cause : Nat) (s : State) : Host.Outcome State Fault Refusal :=
  answer s (
    let old := s.activeCt
    if !s.activeLost then s
    else
      let c := s.controlDie old
      if !s.standbyOk then (((s.setControl old fun c => { c with role := 2 }).setPanelState 5).setRdy false)
      else
        let s := s.setControl old fun c => { c with role := if c.rebooted then 2 else 3, rebooted := true }
        let s := { s with trust := s.trust.resumed }
        let s := { s with trust := { s.trust with lastActive := some (1 - old), swapping := none, updating := s.trust.updating && s.trust.swapping.isNone } }
        let s := (s.takeOver (1 - old)).record 0x0A06 4 noPart 0 (onControl old) (u8 cause)
        let s := if c.rebooted then (s.addDefect 1 1 kDie (dieOfControl old) 0 0).record 0x0A07 5 noPart 0 (onControl old) (u8 cause) else s
        s.refreshState)

/-- CONTROL_DIE_REBOOT_DONE (R416, R417): the die stands by, or has failed. -/
def execControlDieRebootDone (die : Nat) (ok : Bool) (s : State) : Host.Outcome State Fault Refusal :=
  answer s (
    if 2 ≤ die ∨ (s.controlDie die).role ≠ 3 ∨ !s.glerynRuns ∨ !s.sparing.bar0Live then s
    else if ok then s.setControl die fun c => { c with role := 1, stopped := false, beatAt := s.now, fw := s.trust.boot }
    else
      let d := s.free
      let s := (s.draw.setControl die fun c => { c with role := 2 }).addDefect 1 1 kDie (dieOfControl die) 0 0
      (s.record 0x0A07 5 noPart 0 (onControl die) [Config.freeByte d 0]).refreshState)

/-! ### The firmware image (R414, R415) -/

abbrev fwSignature : Nat := 0x01FF

def fwSects (b : Bytes) : List Sect := (List.range (fld b 0x18 2)).map fun i => sectOf (slice b (fld b 0x40 4 + 32 * i) 32)

/-- `DIGEST` over a firmware image, as R167 computes it. -/
def fwDigest (b : Bytes) : Bytes :=
  let l := fwSects b
  let n := match findSect l fwSignature with | none => fld b 0x14 4 | some x => x.off
  let b := patch (patch b 0x20 (List.replicate 32 0)) 0xFC (List.replicate 4 0)
  let b := match l.findIdx? (fun x => decide (x.type = fwSignature)) with
    | none => b
    | some i => patch b (fld b 0x40 4 + 32 * i) (List.replicate 32 0)
  shake256 (b.take n)

/-- Magic, header and section checksums, and the sections that every image has. -/
def fwSound (b : Bytes) : Bool :=
  let l := fwSects b
  decide (slice b 0 8 = [0x56, 0x48, 0x46, 0x57, 0x49, 0x4D, 0x47, 0x00]) && decide (fld b 0xFC 4 = (crc32 (slice b 0 0xFC)).toNat)
    && decide (fld b 0x14 4 ≤ 0x800000) && decide (fld b 0x14 4 ≤ b.length) && decide (6 ≤ fld b 0x18 2) && decide (fld b 0x18 2 ≤ 64)
    && l.all (fun x => decide (x.off + x.size ≤ fld b 0x14 4) && decide ((crc32 (slice b x.off x.size)).toNat = x.crc))
    && [0x0101, 0x0102, 0x0103, 0x0104, 0x0105, fwSignature].all fun t => (findSect l t).isSome

/-- Version, stepping and security version (R415). -/
def State.fwVersionOk (s : State) (b : Bytes) : Bool :=
  decide (fld b 9 1 = 1) && bitOf (fld b 0x1E 2) s.hw.major && decide (s.trust.svnFloor ≤ fld b 0x10 1)

/-- Sequencer firmware for every compute die fitted (R415). -/
def State.fwCovers (s : State) (b : Bytes) : Bool :=
  match ({ s.trust with slot := b, recoverySrc := none } : Trust).sequencers with
  | none => false
  | some l => (List.range 156).all fun i => l.contains (s.stepping i % 16)

/-- The vendor's key and signature (R415). -/
def State.fwSigned (s : State) (b : Bytes) : Bool :=
  let k := fld b 0x12 1
  match findSect (fwSects b) fwSignature with
  | none => false
  | some x =>
    let g := slice b x.off x.size
    decide (k < 4) && !bitOf s.trust.vkeyRevoked.toNat k && decide (shake256 (slice g 8 68) = s.hw.vendorHash.getD k [])
      && decide (slice b 0x20 32 = fwDigest b) && Config.verifies (fld g 0 4) (slice g 8 68) (fwDigest b) (slice g 76 (fld g 4 4))

/-- Status of an image under R415; `full` asks for sequencer firmware for every stepping too. -/
def State.fwStatus (s : State) (b : Bytes) (full : Bool) : Nat :=
  if !fwSound b then stFault
  else if !s.fwVersionOk b || (full && !s.fwCovers b) then stVersion
  else if !s.fwSigned b then stAuthFail
  else stOk

/-! ### Update (R417) -/

/-- FW_STAGE (R337, R343, R415, R417): the image comes from the host, or, relayed, as the pull from the bridge brought it. -/
def execFwStage (id : Nat) (io : HostIo) (s : State) : Host.Outcome State Fault Refusal :=
  answer s (s.runCmd id 0x70 io fun c =>
    let src := if c.byPacket then io else c.inputOf io
    match src with
    | .error => s.fail id stFault
    | .ok b =>
      let b := b.take (c.arg 24 8)
      if s.trust.swapping.isSome then s.fail id stBusy
      else
        let st := s.fwStatus b true
        if st ≠ stOk then s.fail id st
        else
          let s := { s with trust := { s.trust with slot := b, updating := true } }
          (s.record 0x0A04 2 noPart 0 onPanel (u32 (fld b 0x0C 4) ++ u8 (fld b 0x10 1))).finishNoted id stOk 0 0)

/-- FW_COMMIT (R417, R438): the swap begins, and the command ends at the handover. -/
def execFwCommit (id : Nat) (io : HostIo) (s : State) : Host.Outcome State Fault Refusal :=
  answer s (s.runCmd id 0x71 io fun _ =>
    let b := s.trust.slot
    let run := fld (s.controlDie s.activeCt).fw 0x1A 2
    if s.trust.swapping = some id then s
    else if s.trust.swapping.isSome then s.fail id stBusy
    else if !s.trust.updating then s.fail id stFault
    else if !s.standbyOk ∨ run < fld b 0x1C 2 ∨ fld b 0x1A 2 < run then s.fail id stBusy
    else
      let s := s.setControl (1 - s.activeCt) fun c => { c with role := 3, fw := b }
      { s with trust := { s.trust with swapping := some id } })

/-- FIRMWARE_SWAP_HANDOVER (R417, R438): the new Gleryn serves; the former active die reboots, and flash names it. If the
standby fails, the old Gleryn goes on. -/
def execFirmwareSwapHandover (ok : Bool) (s : State) : Host.Outcome State Fault Refusal :=
  answer s (match s.trust.swapping with
    | none => s
    | some id =>
      let old := s.activeCt
      let b := s.trust.slot
      if !ok then
        let s := (s.setControl (1 - old) fun c => { c with role := 2 }).refreshState
        ({ s with trust := { s.trust with swapping := none } }).fail id stFault
      else
        let s := (s.setControl old fun c => { c with role := 3, stopped := false, rebooted := false }).takeOver (1 - old)
        let t := s.trust
        let s := { s with trust := { t with swapping := none, updating := false, lastActive := some old, svnFloor := Nat.max t.svnFloor (fld b 0x11 1) } }
        (s.record 0x0A05 2 noPart 0 onPanel (u32 (fld b 0x0C 4) ++ u8 (fld b 0x10 1))).finishNoted id stOk 0 0)

/-! ### Recovery (R418, R419) -/

/-- The slot of an IDENTIFY command. -/
def identifySlot : Bytes := padTo 64 ([0x01, 0x01, 0, 0, 0xFF] ++ List.replicate 11 0 ++ u32 256)

/-- An answer BUSY to a recovery offer. -/
def State.answerBusy (s : State) (p : Packet) : State :=
  let k : Completion := { cmdId := BitVec.ofNat 16 (fld p.payload 2 2), status := stBusy, opcode := BitVec.ofNat 8 (fld p.payload 0 1), result0 := 0, result1 := 0, detail := 0xFF }
  s.glerynSend (s.mgmtReply (BitVec.ofNat 24 (fld p.payload 64 3)) (BitVec.ofNat 32 (fld p.payload 68 4)) p.seq k [])

/-- RECOVERY_OFFER (R418, R438): the first offer names the panel and its source; the image that the pull brings is checked,
written to flash and boots. A panel that runs answers IDENTIFY as usual. -/
def execRecoveryOffer (p : Packet) (port : Nat) (image : Bytes) (flashOk : Bool) (s : State) : Host.Outcome State Fault Refusal :=
  answer s (
    if p.opcode ≠ 0x03 ∨ fld p.payload 0 1 ≠ 0x01 ∨ 36 ≤ port then s
    else if !s.trust.recovery then s.requestIn p
    else if s.trust.recoverySrc.isSome then s.answerBusy p
    else
      let s := s.setMgtField 0x14 0 24 (p.dest.toNat + 0x1000000 - 576)
      let s := (s.writeEpt p.dest.toNat 0x8000).writeEpt p.src.toNat (0x8000 + 0x1000 + port * 0x40)
      let s := s.answerBusy p
      if s.fwStatus image false ≠ stOk then s
      else
        let t := s.trust
        let t := { t with recovery := false, slot := if flashOk then image else t.slot, recoverySrc := if flashOk then none else some p.src,
                          ctA := { t.ctA with fw := image }, ctB := { t.ctB with fw := image } }
        let s := if flashOk then { s with trust := t } else ({ s with trust := t }).count (evrBase + 0x18) 1
        let src := u32 p.src.toNat
        ((s.record 0x0A01 4 noPart 0 onPanel src).record 0x0A02 3 noPart 0 onPanel src).record 0x0A03 2 noPart 0 onPanel src)

/-- RECOVERY_OFFER_TIMER (R419): an IDENTIFY to a bed peer. -/
def execRecoveryOfferTimer (peer : BitVec 24) (s : State) : Host.Outcome State Fault Refusal :=
  answer s (
    let q := s.host.rseq + 1
    let p := mkPacket 0 0x03 peer s.panelEid 0 false (relayPayload identifySlot s.panelEid q [])
    if !s.glerynRuns ∨ !s.trust.peers.contains peer ∨ !s.canSend agGleryn p.key then s
    else ({ s with host := { s.host with rseq := q } }).sendOn agGleryn { pkt := p })

/-! ### Keys (R420 to R424) -/

/-- The next one-time index of the AK, below its durable reservation (R421). -/
def Trust.reserveAk (t : Trust) : Trust := if t.akNext < t.akLimit then t else { t with akLimit := t.akNext + 64 }

/-- The same for the DIK, whose range of 16,384 indices has its fuse blown first. -/
def Trust.reserveDik (t : Trust) : Trust :=
  let t := if t.dikNext < t.dikLimit then t else { t with dikLimit := t.dikNext + 64 }
  let r := t.dikNext / 16384
  if t.dikFuses.contains r then t else { t with dikFuses := t.dikFuses ++ [r] }

/-- Without a valid signing-state copy, the DIK resumes at the first range whose fuse is intact, and there is no AK. -/
def Trust.restoreSigning (t : Trust) : Trust :=
  if t.signState then t
  else
    let r := ((List.range 64).find? fun r => !t.dikFuses.contains r).getD 64
    { t with signState := true, akMade := false, dikNext := r * 16384, dikLimit := r * 16384 }

/-- Index 65,536 is past the last of an AK; 1,048,576 past the last of the DIK. -/
def Trust.akSpent (t : Trust) : Bool := !t.akMade || decide (65536 ≤ t.akNext)
def Trust.dikSpent (t : Trust) : Bool := decide (1048576 ≤ t.dikNext)

/-- A new AK: its number is the DIK index used (R422). -/
def State.makeAk (s : State) : State :=
  let t := s.trust.reserveDik
  let n := t.dikNext
  let t := { t with akNumber := n, akMade := true, akNext := 0, akLimit := 0, dikNext := n + 1 }
  ({ s with trust := t }).record 0x0A08 1 noPart 0 onPanel (u32 n)

/-- SHAKE256-256 over the digest of every staged configuration image. -/
def State.imageSet (s : State) : Bytes :=
  shake256 ((s.parts.map (·.1)).flatMap fun p => (s.regionsOf p).flatMap fun e =>
    match e.2.staged.orElse fun _ => e.2.loaded with
    | none => []
    | some base => s.img base 0x30 32)

/-- The 256-byte body of a report that index `i` signs (R423). -/
def State.attestBody (s : State) (nonce : Bytes) (i : Nat) : Bytes :=
  let t := s.trust
  let fw := (s.controlDie s.activeCt).fw
  u32 0x54414856 ++ u16 1 ++ u16 256 ++ padTo 32 nonce ++ padTo 16 s.hw.serial ++ padTo 16 s.hw.partNo ++ padTo 32 (slice fw 0x20 32)
    ++ padTo 32 (slice t.loadedFw 0x20 32) ++ u32 (fld fw 0x0C 4) ++ u8 (fld fw 0x10 1) ++ u8 t.svnFloor
    ++ u8 (b2n t.ownerHash.isSome + b2n t.unlockArg.isSome * 2) ++ u8 0 ++ padTo 32 (t.ownerHash.getD []) ++ s.imageSet ++ padTo 32 t.authNonce
    ++ natLe 6 t.opTime ++ u16 0 ++ u32 i ++ u32 t.akNumber

/-- The whole report. -/
def State.attestReport (s : State) (nonce : Bytes) (i : Nat) : Bytes :=
  let n := s.trust.akNumber
  let body := s.attestBody nonce i
  let pub := padTo 68 (Config.attestKey n)
  body ++ padTo 2692 (Config.sign (n + 1) i body) ++ pub ++ padTo 2820 (Config.sign 0 n (pub ++ u32 n)) ++ padTo 68 s.hw.dikPub
    ++ padTo 5605 s.hw.vendorSig ++ List.replicate 11 0

/-- ATTEST (R421 to R423, R428). -/
def execAttest (id : Nat) (io : HostIo) (s : State) : Host.Outcome State Fault Refusal :=
  answer s (s.runCmd id 0x72 io fun c => s.withHost id c io fun _ =>
    let n := c.arg 24 4
    if s.trust.keysBlocked ∨ n < 3016 ∨ (c.byPacket ∧ 11520 ≤ n) then s.fail id stFault (if n < 3016 then 24 else 0xFF)
    else
      let s := { s with trust := s.trust.restoreSigning }
      if s.trust.akSpent && s.trust.dikSpent then s.fail id stNoResource
      else
        let s := if s.trust.akSpent then s.makeAk else s
        let t := s.trust.reserveAk
        let i := t.akNext
        let s := { s with trust := { t with akNext := i + 1 } }
        let size := if 11520 ≤ n then 11520 else 3016
        s.finishOut id c (c.arg 16 8) ((s.attestReport (slice c.slot 32 32) i).take size) stOk i size)

/-- OWNER_KEY_SET (R424). -/
def execOwnerKeySet (id : Nat) (io : HostIo) (s : State) : Host.Outcome State Fault Refusal :=
  answer s (s.runCmd id 0x73 io fun c => s.withHost id c io fun b =>
    let b := b.take (c.arg 24 4)
    let key := slice b 0 68
    let h := shake256 key
    if s.trust.ownerHash.isSome then s.fail id stNoResource
    else if !Config.ownerSet (fld key 0 4) then s.fail id stVersion
    else if !Config.verifies (fld key 0 4) key (key ++ padTo 16 s.hw.serial) (slice b 72 (fld b 68 4)) then s.fail id stAuthFail
    else (({ s with trust := { s.trust with ownerHash := some h } }).record 0x0A09 2 noPart 0 onPanel h).finishNoted id stOk 0 0)

/-! ### Debug access (R426) -/

/-- An authorisation of ACTION 3 sets `UNLOCK_PENDING`. -/
def State.unlock (s : State) (b : Bytes) : State :=
  if s.authorised b 3 none then ({ s with trust := { s.trust with unlockArg := some (BitVec.ofNat 32 (fld b 20 4)) } }).renewNonce
  else s.refuseAuth b

/-- The management port is served. -/
def State.portServed (s : State) : Bool := s.glerynRuns && s.sparing.bar0Live

/-- DEBUG_UNLOCK (R425, R426). -/
def execDebugUnlock (auth : Bytes) (s : State) : Host.Outcome State Fault Refusal := answer s (onlyIf s.portServed s (s.unlock auth))

/-! ### The management port (R437) -/

/-- A panel-scope command slot with some fields. -/
def netSlot (op : Nat) (fields : List (Nat × Bytes)) : Bytes :=
  fields.foldl (fun b e => patch b e.1 e.2) (padTo 64 (u8 op ++ [0x01, 0, 0, 0xFF]))

/-- A command from the network, with its input data. -/
def State.netCommand (s : State) (slot input : Bytes) : State :=
  let id := s.host.nextId
  (s.dispatch .network slot).modCmd id fun c => { c with input := input }

/-- One request of an administrator. -/
def State.serve (s : State) (r : Redfish) : State :=
  match r with
  | .mailbox slot input => if input.length ≤ 4000 then s.netCommand (padTo 64 slot) input else s
  | .powerLimit w => s.netCommand (netSlot 0x50 [(8, u16 (w / 10)), (12, u8 1)]) []
  | .forceRestart => s.netCommand (netSlot 0xF0 []) []
  | .clearLog auth => s.netCommand (netSlot 0x61 [(24, u32 auth.length)]) auth
  | .updatePush image => s.netCommand (netSlot 0x70 [(24, u64 image.length)]) image
  | .commit => s.netCommand (netSlot 0x71 []) []
  | .attest nonce => s.netCommand (netSlot 0x72 [(24, u32 11520), (32, padTo 32 nonce)]) []
  | .authorise auth => s.unlock auth
  | .setRole role => if role = 3 then s else { s with trust := { s.trust with role := role } }
  | .setFrame f => if f < 16 ∨ 256 < f then s else { s with trust := { s.trust with frameNext := f } }
  | .setIdleRet ms => s.setField (pwrBase + 0x18) 0 16 ms.toNat
  | .setDtSet k => if k < 5 ∨ 20 < k then s else s.setField (thmBase + 0x10) 0 5 k
  | .setAuxTargets l => if 8 < l.length then s else { s with power := { s.power with auxTargets := l } }
  | .setPeers l => if 64 < l.length then s else { s with trust := { s.trust with peers := l } }
  | .readResource => s

/-- REDFISH_REQUEST (R437): only an administrator changes anything. -/
def execRedfishRequest (admin : Bool) (r : Redfish) (s : State) : Host.Outcome State Fault Refusal :=
  answer s (onlyIf (s.portServed && admin) s (s.serve r))

end Sys2Proof.Machine
end

