-- ==== Sys2Proof/Machine/Dispatch.lean ====
section
/-! DEFINITION. The meaning of every command: one arm per constructor of `Instr`, in the table's order. -/

namespace Sys2Proof.Machine

def exec (i : Instr) (s : State) : Host.Outcome State Fault Refusal :=
  match i with
  | .scalarInstruction hart => Sys2Proof.Machine.execScalarInstruction hart s
  | .scalarLoad hart rd rs1 imm size signed => Sys2Proof.Machine.execScalarLoad hart rd rs1 imm size signed s
  | .scalarStore hart rs1 rs2 imm size => Sys2Proof.Machine.execScalarStore hart rs1 rs2 imm size s
  | .csrAccess hart funct3 rd rs1 csr => Sys2Proof.Machine.execCsrAccess hart funct3 rd rs1 csr s
  | .rngSeedWrite hart v => Sys2Proof.Machine.execRngSeedWrite hart v s
  | .qTag hart rd qi => Sys2Proof.Machine.execQTag hart rd qi s
  | .qRdw hart rd qi w => Sys2Proof.Machine.execQRdw hart rd qi w s
  | .qPop hart qi => Sys2Proof.Machine.execQPop hart qi s
  | .qWrw hart rs1 qo w => Sys2Proof.Machine.execQWrw hart rs1 qo w s
  | .qPush hart rs1 qo => Sys2Proof.Machine.execQPush hart rs1 qo s
  | .qFwd hart qi qo => Sys2Proof.Machine.execQFwd hart qi qo s
  | .qStat hart rd q d => Sys2Proof.Machine.execQStat hart rd q d s
  | .lcSet hart qi n rs1 => Sys2Proof.Machine.execLcSet hart qi n rs1 s
  | .lcRd hart rd qi n => Sys2Proof.Machine.execLcRd hart rd qi n s
  | .eIssue hart e rs1 rs2 => Sys2Proof.Machine.execEIssue hart e rs1 rs2 s
  | .eWait hart m => Sys2Proof.Machine.execEWait hart m s
  | .eStat hart rd => Sys2Proof.Machine.execEStat hart rd s
  | .pYield hart => Sys2Proof.Machine.execPYield hart s
  | .rnd hart rd => Sys2Proof.Machine.execRnd hart rd s
  | .coreWaitReleased hart => Sys2Proof.Machine.execCoreWaitReleased hart s
  | .matmul hart e => Sys2Proof.Machine.execMatmul hart e s
  | .latch hart e => Sys2Proof.Machine.execLatch hart e s
  | .flush hart e => Sys2Proof.Machine.execFlush hart e s
  | .engineDescriptorComplete hart e => Sys2Proof.Machine.execEngineDescriptorComplete hart e s
  | .bouquetMatmul hart e => Sys2Proof.Machine.execBouquetMatmul hart e s
  | .add hart => Sys2Proof.Machine.execAdd hart s
  | .mul hart => Sys2Proof.Machine.execMul hart s
  | .fma hart => Sys2Proof.Machine.execFma hart s
  | .max hart => Sys2Proof.Machine.execMax hart s
  | .min hart => Sys2Proof.Machine.execMin hart s
  | .affine hart => Sys2Proof.Machine.execAffine hart s
  | .cast hart => Sys2Proof.Machine.execCast hart s
  | .rmsnorm hart => Sys2Proof.Machine.execRmsnorm hart s
  | .layernorm hart => Sys2Proof.Machine.execLayernorm hart s
  | .siluMul hart => Sys2Proof.Machine.execSiluMul hart s
  | .gelu hart => Sys2Proof.Machine.execGelu hart s
  | .exp hart => Sys2Proof.Machine.execExp hart s
  | .recip hart => Sys2Proof.Machine.execRecip hart s
  | .rsqrt hart => Sys2Proof.Machine.execRsqrt hart s
  | .tanh hart => Sys2Proof.Machine.execTanh hart s
  | .sigmoid hart => Sys2Proof.Machine.execSigmoid hart s
  | .rope hart => Sys2Proof.Machine.execRope hart s
  | .sum hart => Sys2Proof.Machine.execSum hart s
  | .maxred hart => Sys2Proof.Machine.execMaxred hart s
  | .smaxMerge hart => Sys2Proof.Machine.execSmaxMerge hart s
  | .smaxFinal hart => Sys2Proof.Machine.execSmaxFinal hart s
  | .argmax hart => Sys2Proof.Machine.execArgmax hart s
  | .topk hart => Sys2Proof.Machine.execTopk hart s
  | .topkMerge hart => Sys2Proof.Machine.execTopkMerge hart s
  | .sample hart => Sys2Proof.Machine.execSample hart s
  | .shadowCheck cluster spare => Sys2Proof.Machine.execShadowCheck cluster spare s
  | .shadowTiebreak cluster spare => Sys2Proof.Machine.execShadowTiebreak cluster spare s
  | .shadowBlameReplace cluster phys => Sys2Proof.Machine.execShadowBlameReplace cluster phys s
  | .controlStateParityError hart => Sys2Proof.Machine.execControlStateParityError hart s
  | .heartbeatLoss hart => Sys2Proof.Machine.execHeartbeatLoss hart s
  | .secdedUncorrectable cluster core which index => Sys2Proof.Machine.execSecdedUncorrectable cluster core which index s
  | .secdedCorrectable cluster core which => Sys2Proof.Machine.execSecdedCorrectable cluster core which s
  | .standIn cluster core => Sys2Proof.Machine.execStandIn cluster core s
  | .partitionFrozen part => Sys2Proof.Machine.execPartitionFrozen part s
  | .standInPetalsRestored cluster core => Sys2Proof.Machine.execStandInPetalsRestored cluster core s
  | .standInNearStoreRestored cluster core answers => Sys2Proof.Machine.execStandInNearStoreRestored cluster core answers s
  | .replayRelease part => Sys2Proof.Machine.execReplayRelease part s
  | .rotation cluster core spare => Sys2Proof.Machine.execRotation cluster core spare s
  | .tokenArrival src => Sys2Proof.Machine.execTokenArrival src s
  | .boundaryPortAdmit part rec => Sys2Proof.Machine.execBoundaryPortAdmit part rec s
  | .epochHoldExpiry part rec => Sys2Proof.Machine.execEpochHoldExpiry part rec s
  | .creditReturn hart qo => Sys2Proof.Machine.execCreditReturn hart qo s
  | .packetFormed hart qo => Sys2Proof.Machine.execPacketFormed hart qo s
  | .packetWaitTimeout hart qo => Sys2Proof.Machine.execPacketWaitTimeout hart qo s
  | .steerRoute cluster unit => Sys2Proof.Machine.execSteerRoute cluster unit s
  | .mergeArrival cluster unit => Sys2Proof.Machine.execMergeArrival cluster unit s
  | .mergeOrdered cluster unit => Sys2Proof.Machine.execMergeOrdered cluster unit s
  | .regionStall region => Sys2Proof.Machine.execRegionStall region s
  | .stepRelease part => Sys2Proof.Machine.execStepRelease part s
  | .stepEnd part => Sys2Proof.Machine.execStepEnd part s
  | .noticeDeferTimeout part => Sys2Proof.Machine.execNoticeDeferTimeout part s
  | .foldAdvance cluster => Sys2Proof.Machine.execFoldAdvance cluster s
  | .petalSwitch hart => Sys2Proof.Machine.execPetalSwitch hart s
  | .qsampSample cluster => Sys2Proof.Machine.execQsampSample cluster s
  | .bmDescriptorEnqueue hart qo => Sys2Proof.Machine.execBmDescriptorEnqueue hart qo s
  | .copy cluster ch => Sys2Proof.Machine.execCopy cluster ch s
  | .fill cluster ch => Sys2Proof.Machine.execFill cluster ch s
  | .crc32 cluster ch => Sys2Proof.Machine.execCrc32 cluster ch s
  | .invalidate cluster ch => Sys2Proof.Machine.execInvalidate cluster ch s
  | .contribDescriptor cluster ch => Sys2Proof.Machine.execContribDescriptor cluster ch s
  | .bmCompletion cluster ch => Sys2Proof.Machine.execBmCompletion cluster ch s
  | .residentAudit part => Sys2Proof.Machine.execResidentAudit part s
  | .auditMismatch part record => Sys2Proof.Machine.execAuditMismatch part record s
  | .append stack cluster req => Sys2Proof.Machine.execAppend stack cluster req s
  | .pageInit stack cluster req => Sys2Proof.Machine.execPageInit stack cluster req s
  | .pageFree stack cluster req => Sys2Proof.Machine.execPageFree stack cluster req s
  | .pageTrim stack cluster req => Sys2Proof.Machine.execPageTrim stack cluster req s
  | .pass stack cluster req => Sys2Proof.Machine.execPass stack cluster req s
  | .passResponse stack => Sys2Proof.Machine.execPassResponse stack s
  | .pageTableSweep stack => Sys2Proof.Machine.execPageTableSweep stack s
  | .stackDiscard part => Sys2Proof.Machine.execStackDiscard part s
  | .dramUe stack offset => Sys2Proof.Machine.execDramUe stack offset s
  | .pageTableUe stack page => Sys2Proof.Machine.execPageTableUe stack page s
  | .patrolScrub stack row corrected => Sys2Proof.Machine.execPatrolScrub stack row corrected s
  | .stackTempSample stack t => Sys2Proof.Machine.execStackTempSample stack t s
  | .channelRetrain stack channel ok => Sys2Proof.Machine.execChannelRetrain stack channel ok s
  | .stackLost stack cause => Sys2Proof.Machine.execStackLost stack cause s
  | .packetSend cluster => Sys2Proof.Machine.execPacketSend cluster s
  | .seamWord p word => Sys2Proof.Machine.execSeamWord p word s
  | .seamResend p => Sys2Proof.Machine.execSeamResend p s
  | .lateUnitSend p lane => Sys2Proof.Machine.execLateUnitSend p lane s
  | .seamRetrain p badWires => Sys2Proof.Machine.execSeamRetrain p badWires s
  | .seamHalfWidth p => Sys2Proof.Machine.execSeamHalfWidth p s
  | .fabricTableUe p table entry => Sys2Proof.Machine.execFabricTableUe p table entry s
  | .flitReceive port flit => Sys2Proof.Machine.execFlitReceive port flit s
  | .linkReplay port => Sys2Proof.Machine.execLinkReplay port s
  | .creditFlit port payload => Sys2Proof.Machine.execCreditFlit port payload s
  | .trainFlit port payload => Sys2Proof.Machine.execTrainFlit port payload s
  | .linkRetrain port lanesOk peer => Sys2Proof.Machine.execLinkRetrain port lanesOk peer s
  | .linkPacketReceive die p => Sys2Proof.Machine.execLinkPacketReceive die p s
  | .write p => Sys2Proof.Machine.execWrite p s
  | .read p => Sys2Proof.Machine.execRead p s
  | .mgmt p => Sys2Proof.Machine.execMgmt p s
  | .tokens p => Sys2Proof.Machine.execTokens p s
  | .relay p => Sys2Proof.Machine.execRelay p s
  | .ack p => Sys2Proof.Machine.execAck p s
  | .nack p => Sys2Proof.Machine.execNack p s
  | .readData p => Sys2Proof.Machine.execReadData p s
  | .credit p => Sys2Proof.Machine.execCredit p s
  | .mgmtReply p => Sys2Proof.Machine.execMgmtReply p s
  | .mcCount p => Sys2Proof.Machine.execMcCount p s
  | .contrib p => Sys2Proof.Machine.execContrib p s
  | .result p => Sys2Proof.Machine.execResult p s
  | .collAck p => Sys2Proof.Machine.execCollAck p s
  | .resendTimeout f seq => Sys2Proof.Machine.execResendTimeout f seq s
  | .holdExpiry die => Sys2Proof.Machine.execHoldExpiry die s
  | .flowExpiry f sending => Sys2Proof.Machine.execFlowExpiry f sending s
  | .endpointCreditTimer eid => Sys2Proof.Machine.execEndpointCreditTimer eid s
  | .mcastNackWaitEnd f => Sys2Proof.Machine.execMcastNackWaitEnd f s
  | .collSegmentTimeout die engine ctx slot => Sys2Proof.Machine.execCollSegmentTimeout die engine ctx slot s
  | .laserModuleFail bay withdrawn => Sys2Proof.Machine.execLaserModuleFail bay withdrawn s
  | .laserModuleInsert bay partNo => Sys2Proof.Machine.execLaserModuleInsert bay partNo s
  | .linkDieLost die => Sys2Proof.Machine.execLinkDieLost die s
  | .cablePresentChange port present partNo => Sys2Proof.Machine.execCablePresentChange port present partNo s
  | .dbSqTail ring v => Sys2Proof.Machine.execDbSqTail ring v s
  | .dbCqHead ring v => Sys2Proof.Machine.execDbCqHead ring v s
  | .commandDispatch ring => Sys2Proof.Machine.execCommandDispatch ring s
  | .completionPost ring => Sys2Proof.Machine.execCompletionPost ring s
  | .msixCoalesceTimeout ring => Sys2Proof.Machine.execMsixCoalesceTimeout ring s
  | .identify id io => Sys2Proof.Machine.execIdentify id io s
  | .queryCaps id io => Sys2Proof.Machine.execQueryCaps id io s
  | .getInventory id io => Sys2Proof.Machine.execGetInventory id io s
  | .partCreate id io => Sys2Proof.Machine.execPartCreate id io s
  | .partDestroy id io => Sys2Proof.Machine.execPartDestroy id io s
  | .partReset id io => Sys2Proof.Machine.execPartReset id io s
  | .partResetDrainEnd part => Sys2Proof.Machine.execPartResetDrainEnd part s
  | .imageLoad id io => Sys2Proof.Machine.execImageLoad id io s
  | .imageActivate id io => Sys2Proof.Machine.execImageActivate id io s
  | .activationDrainComplete region => Sys2Proof.Machine.execActivationDrainComplete region s
  | .activationLoadComplete region => Sys2Proof.Machine.execActivationLoadComplete region s
  | .activationDrainTimeout region => Sys2Proof.Machine.execActivationDrainTimeout region s
  | .epochRateWaitEnd region => Sys2Proof.Machine.execEpochRateWaitEnd region s
  | .dataPlace id io => Sys2Proof.Machine.execDataPlace id io s
  | .dataFetch id io => Sys2Proof.Machine.execDataFetch id io s
  | .stepRun id io => Sys2Proof.Machine.execStepRun id io s
  | .stepAbort id io => Sys2Proof.Machine.execStepAbort id io s
  | .resultRelease id io => Sys2Proof.Machine.execResultRelease id io s
  | .routeSetBase id io => Sys2Proof.Machine.execRouteSetBase id io s
  | .routeSetEndpoints id io => Sys2Proof.Machine.execRouteSetEndpoints id io s
  | .routeSetPathGroups id io => Sys2Proof.Machine.execRouteSetPathGroups id io s
  | .routeSetMemoryEndpoints id io => Sys2Proof.Machine.execRouteSetMemoryEndpoints id io s
  | .endpointFence id io => Sys2Proof.Machine.execEndpointFence id io s
  | .endpointUnfence id io => Sys2Proof.Machine.execEndpointUnfence id io s
  | .mcastSetGroup id io => Sys2Proof.Machine.execMcastSetGroup id io s
  | .mcastSetContext id io => Sys2Proof.Machine.execMcastSetContext id io s
  | .mcastClearContext id io => Sys2Proof.Machine.execMcastClearContext id io s
  | .powerCapSet id io => Sys2Proof.Machine.execPowerCapSet id io s
  | .telemetryPower id io => Sys2Proof.Machine.execTelemetryPower id io s
  | .telemetryPartition id io => Sys2Proof.Machine.execTelemetryPartition id io s
  | .telemetryRegisters id io => Sys2Proof.Machine.execTelemetryRegisters id io s
  | .samplerConfig id io => Sys2Proof.Machine.execSamplerConfig id io s
  | .eventsRead id io => Sys2Proof.Machine.execEventsRead id io s
  | .eventsClear id io => Sys2Proof.Machine.execEventsClear id io s
  | .fwStage id io => Sys2Proof.Machine.execFwStage id io s
  | .fwCommit id io => Sys2Proof.Machine.execFwCommit id io s
  | .attest id io => Sys2Proof.Machine.execAttest id io s
  | .ownerKeySet id io => Sys2Proof.Machine.execOwnerKeySet id io s
  | .retrainChannel id io ok => Sys2Proof.Machine.execRetrainChannel id io ok s
  | .retrainSeam id io badWires => Sys2Proof.Machine.execRetrainSeam id io badWires s
  | .retrainLink id io lanesOk peer => Sys2Proof.Machine.execRetrainLink id io lanesOk peer s
  | .repairRetireDie id io => Sys2Proof.Machine.execRepairRetireDie id io s
  | .repairLaserBay id io => Sys2Proof.Machine.execRepairLaserBay id io s
  | .repairTestDie id io => Sys2Proof.Machine.execRepairTestDie id io s
  | .repairTestStack id io => Sys2Proof.Machine.execRepairTestStack id io s
  | .defectClear id io => Sys2Proof.Machine.execDefectClear id io s
  | .panelReset id io => Sys2Proof.Machine.execPanelReset id io s
  | .functionLevelReset => Sys2Proof.Machine.execFunctionLevelReset s
  | .bar2Read off len => Sys2Proof.Machine.execBar2Read off len s
  | .bar2Write off data => Sys2Proof.Machine.execBar2Write off data s
  | .bar2ReadTimeout => Sys2Proof.Machine.execBar2ReadTimeout s
  | .registerWrite space off v => Sys2Proof.Machine.execRegisterWrite space off v s
  | .rdybsyPulseRepeat => Sys2Proof.Machine.execRdybsyPulseRepeat s
  | .feedStateChange f v10mV us => Sys2Proof.Machine.execFeedStateChange f v10mV us s
  | .feedInsert f v10mV => Sys2Proof.Machine.execFeedInsert f v10mV s
  | .powerFail => Sys2Proof.Machine.execPowerFail s
  | .vpmTrip die => Sys2Proof.Machine.execVpmTrip die s
  | .regulatorPhaseFault site quad domain phase => Sys2Proof.Machine.execRegulatorPhaseFault site quad domain phase s
  | .droopDetect cluster pulses => Sys2Proof.Machine.execDroopDetect cluster pulses s
  | .powerManagerTick r => Sys2Proof.Machine.execPowerManagerTick r s
  | .wakeRequest cluster => Sys2Proof.Machine.execWakeRequest cluster s
  | .wakeGrant cluster => Sys2Proof.Machine.execWakeGrant cluster s
  | .wakeForced cluster => Sys2Proof.Machine.execWakeForced cluster s
  | .clockStepRamp cluster => Sys2Proof.Machine.execClockStepRamp cluster s
  | .idleRetainTimeout cluster => Sys2Proof.Machine.execIdleRetainTimeout cluster s
  | .shedAssert => Sys2Proof.Machine.execShedAssert s
  | .shedLevelCheck pIn pAfter => Sys2Proof.Machine.execShedLevelCheck pIn pAfter s
  | .shedDeassert => Sys2Proof.Machine.execShedDeassert s
  | .clockInputLoss die live => Sys2Proof.Machine.execClockInputLoss die live s
  | .clockHoldoverExpiry die => Sys2Proof.Machine.execClockHoldoverExpiry die s
  | .referenceOscillatorLoss => Sys2Proof.Machine.execReferenceOscillatorLoss s
  | .thermalSample cluster t => Sys2Proof.Machine.execThermalSample cluster t s
  | .thermalTrip die sensor celsius => Sys2Proof.Machine.execThermalTrip die sensor celsius s
  | .coolantLoopTick r pIn hotJunction => Sys2Proof.Machine.execCoolantLoopTick r pIn hotJunction s
  | .coolingLossTimeout safe => Sys2Proof.Machine.execCoolingLossTimeout safe s
  | .auxSensorPoll readings => Sys2Proof.Machine.execAuxSensorPoll readings s
  | .powerGood slotId => Sys2Proof.Machine.execPowerGood slotId s
  | .bringup found => Sys2Proof.Machine.execBringup found s
  | .panelResetLAssert => Sys2Proof.Machine.execPanelResetLAssert s
  | .dieRetirement site cause spareOk => Sys2Proof.Machine.execDieRetirement site cause spareOk s
  | .scheduledClusterTest site quad r => Sys2Proof.Machine.execScheduledClusterTest site quad r s
  | .ctHeartbeat die => Sys2Proof.Machine.execCtHeartbeat die s
  | .glerynWatchdogExpiry die => Sys2Proof.Machine.execGlerynWatchdogExpiry die s
  | .controlDieFailover cause => Sys2Proof.Machine.execControlDieFailover cause s
  | .firmwareSwapHandover ok => Sys2Proof.Machine.execFirmwareSwapHandover ok s
  | .recoveryOffer p port image flashOk => Sys2Proof.Machine.execRecoveryOffer p port image flashOk s
  | .recoveryOfferTimer peer => Sys2Proof.Machine.execRecoveryOfferTimer peer s
  | .eventRecord code sev part region skind sindex ssub data => Sys2Proof.Machine.execEventRecord code sev part region skind sindex ssub data s
  | .eventFlush flashOk => Sys2Proof.Machine.execEventFlush flashOk s
  | .operatingTimeStore => Sys2Proof.Machine.execOperatingTimeStore s
  | .debugUnlock auth => Sys2Proof.Machine.execDebugUnlock auth s
  | .redfishRequest admin r => Sys2Proof.Machine.execRedfishRequest admin r s
  | .panelResetLRelease => Sys2Proof.Machine.execPanelResetLRelease s
  | .pcieLinkChange up => Sys2Proof.Machine.execPcieLinkChange up s
  | .controlDieRebootDone die ok => Sys2Proof.Machine.execControlDieRebootDone die ok s
  | .rimSegmentFail segment => Sys2Proof.Machine.execRimSegmentFail segment s
  | .mgtHeartbeatTick => Sys2Proof.Machine.execMgtHeartbeatTick s

end Sys2Proof.Machine
end

