-- ==== Sys2Proof/Machine/Tick.lean ====
section
/-! DEFINITION. One fast cycle of an idle block: the clock advances, and what the spec counts in fast
cycles or milliseconds counts (log entry 1). Counts of the compute domain advance only in the cycles in
which it receives a pulse (R360, log entry 43). -/

namespace Sys2Proof.Machine

/-- The compute domain of cluster c receives a clock pulse in this fast cycle: n of 8 while it runs at
step n, none in another power state (R360, R361). -/
def State.pulses (s : State) (c : Nat) : Bool :=
  decide (s.power? c = 3) && decide (s.now % 8 ≤ s.field (pwrClu c) 2 3)

/-- A core's own counters over one fast cycle: those of R360 with the compute clock, those of R47 with every
fast cycle. -/
def State.tickCore (s : State) (h : Nat) : State :=
  if !s.mayRun h then s
  else
    let c := s.core h
    let s : State := if s.pulses (h / 32) then
        (s.setCore h (c.setPet { c.pet with mcycle := c.pet.mcycle + 1 })).count64 (s.coreReg h 0x20) 1
      else s
    match c.wait with
    | none => s
    | some _ => s.count64 (s.coreReg h (if c.waitOn = 0 then 0x28 else if c.waitOn = 1 then 0x30 else 0x38)) 1

/-- `ENG_BUSY` of a core's engines (R84). -/
def State.tickEngines (s : State) (h : Nat) : State :=
  if !s.pulses (h / 32) then s
  else (List.range 5).foldl (fun s e =>
    if !bitOf (s.busyMask h) e then s else s.count64 (s.coreReg h (0x100 + 8 * e)) 1) s

/-- A petal switch of cluster c waits: one that the sequencer has ordered, or those into the fold entry that comes next (R145, R146). -/
def State.foldWaits (s : State) (c : Nat) : Bool :=
  (hartsOf c).any (fun h => match (s.core h).switchTo with | none => false | some p => !s.switchOk h p)
    || match s.foldNext c with | none => false | some (j, _) => !s.foldReady c j

/-- `CLU_FOLD_WAIT` and `CLU_STEER_STALL` over one fast cycle (R130, R146). -/
def State.tickCluster (s : State) (c : Nat) : State :=
  if !s.flows c then s
  else
    let s : State := if s.foldWaits c then s.count (s.cluReg c 0x86C) 1 else s
    if (List.range 4).any fun u => (List.range 4).any fun o => !s.steerGoes c u o then s.count64 (s.cluReg c 0x870) 1 else s

/-! ### The watchdog (R141) -/

/-- Units of circuits wait as late units at the routers of cluster c: a late region counts as moving (R254). -/
def State.lateIn (s : State) (c : Nat) : Bool := (List.range 5).any fun o => decide ((s.seam (blkPort (s.blk c) o)).late ≠ [])

/-- The present fast cycle does not count for the watchdog of region r: its partition is frozen, a cluster of it is paused, or a petal switch
of it goes on. -/
def State.watchOff (s : State) (r : Region) : Bool :=
  s.frozen r.part || r.clusters.any fun c => s.power.paused.contains c
    || (hartsOf c).any fun h => match (s.core h).switchTo with | none => false | some p => s.switchOk h p

/-- The watchdog of region rn over one fast cycle (R141). -/
def State.tickRegion (s : State) (rn : Nat) : State :=
  match s.region rn with
  | none => s
  | some r => match s.part r.part with
    | none => s
    | some q =>
      let moving := r.clusters.any fun c => s.movedIn.contains c || s.lateIn c
      let n := if moving || !s.pendingIn q rn r then 0 else if s.watchOff r then r.still else Nat.min watchLimit (r.still + 1)
      if n = r.still then s else s.setRegion rn { r with still := n }

/-- Clusters a port of which holds a token, under R150 or closed by an activation (R151, R153). -/
def State.holders (s : State) : List Nat :=
  (s.parts.flatMap fun e => match e.2 with
    | none => []
    | some q => (q.records.filter fun r => r.held || (r.boundary && r.closed && !r.land.isEmpty)).map (·.cluster)).eraseDups

/-- `SBD_THROTTLE` and `SBD_RESP_STALL` of a stack over one fast cycle (R215, R230). -/
def State.tickStack (s : State) (n : Nat) : State :=
  let x := s.stack n
  let s : State := if x.heat < 2 then s else s.count64 (sbdBase n + 0x50) 1
  if x.replies.any fun r => r.pass && !s.replyCredit n r then s.count64 (sbdBase n + 0x58) 1 else s

/-- Output ports over seams at which a packet unit stands ready (R259). -/
def State.unitWaits (s : State) : List PortRef :=
  (s.moving.flatMap fun m => (List.zip (List.range m.legs.length) m.legs).filterMap fun e =>
    let out := blkPort (e.2.key / 5) (s.legOut m e.1 e.2)
    if e.2.sent < e.2.got then some out else none).eraseDups

/-- A flit of a port with w active lanes begins in this fast cycle: 2 ns, or 2.2 fast cycles, at full width (R263, R266). -/
def flitStarts (w now : Nat) : Bool := decide (now * 5 * w % 88 < 5 * w)

/-- One fast cycle of a port: `LNK_CREDIT_WAIT` (R272), and an IDLE flit where nothing can be sent (R266, R270). -/
def State.tickPort (s : State) (port : Nat) : State :=
  let x := s.port port
  if !s.linkUp port || (x.turn x.staged []).isSome then s
  else
    let s := if x.staged = [] then s else s.count64 (linkReg port 0x30) 1
    if flitStarts (s.field (linkReg port 0) 2 4) s.now then s.sendControl port [] else s

/-- The panel's frame counters start a frame in this fast cycle (R240). -/
def State.frameStarts (s : State) : Bool := decide ((s.now - s.sparing.frame0) % s.frameLen = 0)

/-- `THM_THROTTLED` (R374) and `FAB_FRAMES` (R260) over one fast cycle. -/
def State.tickPanel (s : State) : State :=
  let s : State := if s.power.thermCap.any fun e => decide (e.2 < 7) then s.count64 (thmBase + 0x18) 1 else s
  if 2 ≤ s.mgtField 8 0 3 ∧ s.frameStarts then s.count64 (panelBase + 8) 1 else s

/-- Each hour of operating time counts for the laser modules in use (R310). -/
def State.tickModules (s : State) : State :=
  if s.trust.opTime % 3600000 ≠ 0 then s
  else (List.range 10).foldl (fun s b => if bitOf (s.reg (laserReg b)).toNat 1 then s.count (laserReg b + 4) 1 else s) s

/-- Each millisecond the operating time advances (R431) and the power record is sampled (R369). -/
def State.tickTime (s : State) : State :=
  if s.now % usec 1000 ≠ 0 then s
  else
    let s := { s with trust := { s.trust with opTime := s.trust.opTime + 1 },
                      power := { s.power with sampleSeq := s.power.sampleSeq + 1 } }
    { s with power := { s.power with sample := some s.powerRecord } }.tickModules

/-- One fast cycle. -/
def State.tick (s : State) : State :=
  let s := { s with now := s.now + 1 }
  let s := s.cores.foldl (fun t e => (t.tickCore e.1).tickEngines e.1) s
  let s := s.clusters.foldl (fun t e => t.tickCluster e.1) s
  let s := { s.regions.foldl (fun t e => t.tickRegion e.1) s with movedIn := [] }
  let s := s.holders.foldl (fun t c => t.count (t.cluReg c 0x85C) 1) s
  let s := s.stackTbl.foldl (fun t e => t.tickStack e.1) s
  let s := s.ports.foldl (fun t e => t.tickPort e.1) s
  let s := s.unitWaits.foldl (fun t p => t.count64 (portReg p 0x18) 1) s
  let s := if s.frameStarts then s.settleSlots else s
  s.tickPanel.tickTime

end Sys2Proof.Machine
end

