-- ==== Sys2Proof/Safety.lean ====
section
/-! DEFINITION. What a safe run of the block is, and the words the claims use: what a scalar core is after an instruction,
what a token queue holds, what a register file keeps, what a command's completion says. -/

namespace Sys2Proof.Safety

open Sys2Proof.Machine

/-- k steps from s meet neither a fault nor a refusal. -/
def runsFor : Nat → State → Prop
  | 0, _ => True
  | k + 1, s => ∃ t, step s = .next t ∧ runsFor k t

/-- Panel memory is in canonical form: addresses strictly rising, no cell that reads as an unlisted one. -/
def memoryCanonical (s : State) : Prop := Memory.wf s.mem = true

/-- A core past one instruction of len bytes: the pc is len further, `minstret` one more (R41, R42). -/
def advanced (len : Nat) (c : Core) : Core :=
  c.setPet { c.pet with pc := c.pet.pc + BitVec.ofNat 32 len, minstret := c.pet.minstret + 1 }

/-- A core past one four-byte instruction, waiting at nothing. -/
def retired (c : Core) : Core := { advanced 4 c with wait := none }

/-- Core c with v in register rd; x0 discards it (R41). -/
def withX (c : Core) (rd : Nat) (v : Word) : Core := if rd = 0 then c else c.setPet { c.pet with x := tset 0 c.pet.x rd v }

/-- A core past one four-byte instruction that writes v to register rd and does nothing else (R41). -/
def wrote (c : Core) (rd : Nat) (v : Word) : Core := retired (withX c rd v)

/-- A core that waits at instruction op, counted under k of R47's counters (0 IN, 1 OUT, 2 ENG). -/
def waiting (c : Core) (op : WaitOp) (k : Nat) : Core := { c with wait := some op, waitOn := k }

/-- 32-bit word w of 512 bits. -/
def wordOf (v : BitVec 512) (w : Nat) : Word := (v >>> (32 * w)).setWidth 32

/-- Instruction i of len bytes stands whole at the pc of core c, at an even address of instruction memory (R41, R43). -/
def stands (c : Core) (len : Nat) (i : Rv) : Prop :=
  c.pc % 2 = 0 ∧ 0x10000000 ≤ c.pc ∧ c.pc + len ≤ 0x10002000
    ∧ (len = 2 ∧ c.fetch (c.pc - 0x10000000) 2 % 4 ≠ 3 ∧ decode16 (c.fetch (c.pc - 0x10000000) 2) = i
      ∨ len = 4 ∧ c.fetch (c.pc - 0x10000000) 2 % 4 = 3 ∧ decode32 (c.fetch (c.pc - 0x10000000) 4) = i)

/-- Core c after a jump of len bytes: its pc at the target and the link in rd (R41). -/
def jumped (c : Core) (len rd : Nat) (target : Word) : Core :=
  let d := advanced len (withX c rd (c.pet.pc + BitVec.ofNat 32 len))
  d.setPet { d.pet with pc := target }

/-- Command c answers the next state t, with the queue, the clock and the fixed facts of the part as they were. -/
def runs (c : Instr) (s t : State) : Prop := exec c s = .next (t.keeping s)

/-- The commands of the vector engine and their operation codes (R63). -/
def vectorTable : List ((Nat → Instr) × Nat) :=
  [(.add, 0x01), (.mul, 0x02), (.fma, 0x03), (.max, 0x04), (.min, 0x05), (.affine, 0x06), (.cast, 0x07), (.rmsnorm, 0x10),
   (.layernorm, 0x11), (.siluMul, 0x12), (.gelu, 0x13), (.exp, 0x14), (.recip, 0x15), (.rsqrt, 0x16), (.tanh, 0x17),
   (.sigmoid, 0x18), (.rope, 0x19), (.sum, 0x20), (.maxred, 0x21), (.smaxMerge, 0x30), (.smaxFinal, 0x31), (.argmax, 0x40),
   (.topk, 0x41), (.topkMerge, 0x42), (.sample, 0x43)]

/-- The bytes a vector descriptor writes: its raw words, then its words narrowed to OTYPE in order (R69, R99). -/
def vecBytes (s : State) (h : Nat) (d : VDesc) : Bytes :=
  (s.vecYield h d).raw ++ (State.narrowAll h 5 d.otype d.stoch (s.vecYield h d).words (s.afterDraw h d)).1

/-- The accumulators of slice sl after its K steps from step j on, by kstep alone (R97, R98). -/
def sliceAcc (d : MDesc) (elems : Bytes) (side : List SideRec) (rows : List Bytes) (sl : Nat) : Nat → Nat → List Word → List Word
  | 0, _, acc => acc
  | n + 1, j, acc =>
    sliceAcc d elems side rows sl n (j + 1) (kstep (stepIn d elems side rows sl j).cols (stepIn d elems side rows sl j).rows acc).1

/-- The accumulator file after a MATMUL of ns slices by weight block w: each slice from its accumulators under ACC_IN, else from zero. -/
def matAcc (d : MDesc) (w : Kept) (rows : List Bytes) (ns : Nat) (acc : Tbl Word) : Tbl Word :=
  (List.range ns).foldl (fun acc sl => accPut acc (sl * d.m * 32)
    (sliceAcc d w.elems ((sideSlices d.wfmt w.side (blockRows d.wfmt d.k) 0 ns).1.getD sl []) rows sl (ceilDiv d.k (tileDepth d.wfmt)) 0
      (if d.accIn then accSlice acc d.m sl else List.replicate (d.m * 32) 0))) acc

/-- Rows of words narrowed one after another on stream u of hart h: the bytes of each row (R99, R101). -/
def narrowRows (h u otype : Nat) (stoch : Bool) : List (List Word) → State → List Bytes
  | [], _ => []
  | r :: rs, s => (State.narrowAll h u otype stoch r s).1 :: narrowRows h u otype stoch rs (State.narrowAll h u otype stoch r s).2.2

/-- The M result rows of an accumulator file, as the bytes engine e of hart h writes for descriptor d. -/
def resultRows (s : State) (h e : Nat) (d : MDesc) (acc : Tbl Word) : List Bytes :=
  narrowRows h (e + 1) d.otype d.stoch ((List.range d.m).map (accRow acc d.m d.nt)) s

/-- A write of n bytes at a lands: every part of it is mapped, in no cache bank and in no backed-up cluster (R33, R35, R51, R204). -/
def plainAt (s : State) (a n : Nat) : Prop :=
  ∀ e ∈ blocksOf a n, s.mapped e.1 = true ∧ s.cacheMode (clusterOfAddr e.1) = false ∧ (s.clu (clusterOfAddr e.1)).backupOn = false

/-- Writes to the result rows of d land, and the register block of hart h's core is apart from the registers that say so. -/
def plainRows (s : State) (h : Nat) (d : MDesc) : Prop :=
  ∀ r, r < d.m → plainAt s (nearBase h + d.oaddr + r * d.ostride) (d.nt * 32 * otypeBytes d.otype)
    ∧ ∀ e ∈ blocksOf (nearBase h + d.oaddr + r * d.ostride) (d.nt * 32 * otypeBytes d.otype), ∀ o, o < 0x1000 →
        s.coreReg h o ≠ pwrClu (clusterOfAddr e.1) ∧ s.coreReg h o ≠ s.cluReg (clusterOfAddr e.1) 0x900

/-- What writing result rows back does to hart h: in the near store the bytes at OADDR + r × OSTRIDE and nothing else, else
each row's tokens behind those that wait (R62, R121). -/
def wroteBack (s t : State) (h e : Nat) (d : MDesc) (rows : List Bytes) : Prop :=
  (d.oMem = true → (∀ q, (t.core h).outQ q = (s.core h).outQ q) ∧ ((t.core h).engine e).wb = ((s.core h).engine e).wb
    ∧ ∀ b, (∀ r, r < d.m → b < nearBase h + d.oaddr + r * d.ostride ∨ nearBase h + d.oaddr + r * d.ostride + d.nt * 32 * otypeBytes d.otype ≤ b) →
        memByte t.mem b = memByte s.mem b)
  ∧ (d.oMem = true → plainRows s h d →
      t.mem = ((List.range d.m).zip rows).foldl (fun m r => memWrite m (nearBase h + d.oaddr + r.1 * d.ostride) r.2) s.mem)
  ∧ (d.oMem = false → t.mem = s.mem ∧ (∀ q, q ≠ d.oq → (t.core h).outQ q = (s.core h).outQ q)
    ∧ ((t.core h).outQ d.oq).tokens ++ ((t.core h).engine e).wb = ((s.core h).outQ d.oq).tokens ++ ((s.core h).engine e).wb
        ++ rows.flatMap fun b => rowTokens (otypeBytes d.otype) (s.epochOf (h / 32)) (b.length + 1) b)

/-- Descriptor x heads the queue of engine e of hart h, the engine runs, has not computed it, and may take it up (R58, R74). -/
def taken (s : State) (h e : Nat) (x : EngDesc) (rest : List EngDesc) (bq : Bool) : Prop :=
  e < 4 ∧ ((s.core h).engine e).queue = x :: rest ∧ s.engineRuns h = true ∧ ((s.core h).engine e).busy = false
    ∧ s.mayTake h e bq = true ∧ ((mdesc x).bq && s.leads h) = bq

/-- A mismatch of a tile is settled (who: 0 the checked core, 1 the spare, 2 both): each core named is blamed at the present operating
time and no other core is; no scalar core, byte of memory, partition or region changes (R78, R112). -/
def blamed (s t : State) (pk : Nat) (who : Nat) (x : Tile) : Prop :=
  (t.physCore x.checked).blames = (if who = 1 then (s.physCore x.checked).blames else s.trust.opTime :: (s.physCore x.checked).blames)
  ∧ (t.physCore pk).blames = (if who = 0 then (s.physCore pk).blames else s.trust.opTime :: (s.physCore pk).blames)
  ∧ (∀ k, k ≠ x.checked → k ≠ pk → t.physCore k = s.physCore k)
  ∧ t.cores = s.cores ∧ t.mem = s.mem ∧ t.parts = s.parts ∧ t.regions = s.regions

/-- The commands of a core fault that a stand-in answers, with the bit of CORE_FAULT each sets (R79, R180). -/
def coreFaults (c k i : Nat) : List (Instr × Nat) :=
  [(.controlStateParityError (c * 32 + k), 4), (.heartbeatLoss (c * 32 + k), 5), (.secdedUncorrectable c k .petalStorage i, 6),
   (.secdedUncorrectable c k .queueControl i, 4), (.secdedUncorrectable c k .nsRemap i, 6)]

/-- A whole request of cluster c's partition p whose turn at stack n has come and which the stack serves: u is the state once it is taken
from what the stack has received (R214, R222, R223, R227). -/
def served (s u : State) (n c p : Nat) (req : List Token) : Prop :=
  n < 24 ∧ s.field (sbdBase n + 4) 0 2 ≠ 2 ∧ s.turnOf n c req = true ∧ u = s.takeRequest n c req ∧ u.cluPart n c = some p ∧ u.absorbs p = false ∧ (reqOf req).ok = true
    ∧ u.stackFenced n c = false ∧ (reqOf req).counts req = true

/-- A dispatched command runs here: it has number id and operation op, is not relayed, and waits for no reset of its partition (R322, R343, R405). -/
def dispatched (s : State) (id op : Nat) (c : Started) : Prop :=
  s.cmd id = some c ∧ c.opcode = op ∧ c.relayed = none ∧ slotRemote c.slot = false ∧ s.waitsReset id c = false

end Sys2Proof.Safety
end

