-- ==== Sys2Proof/Certificates/Slice0/Obligations.lean ====
section
/-! DEFINITION. The statements for the provers. `runs c s t` says that command c answers state t with the waiting commands, the
clock and the fixed facts of s (EveryCommandCompletes says they stand); the other words of the statements are in Safety.lean. A statement about a value the
model chose names the log entry of notes/assumptions. -/

open Sys2Proof Sys2Proof.Machine Sys2Proof.Safety

/-! ### The block -/

/-- Reset leaves panel memory in canonical form with nothing listed, no command waiting, `STATE` 0 under the magic number and interface version 1.0, every cluster OFF with
its whole clock range allowed, both caps at 20 kW and the shed level at 6 kW, `IDLE_RET` at 10 ms, `DT_SET` at 12 K and frames of 64 cycles (R8, R317, R365, R380). -/
def Obligations.ResetLeaves : Prop :=
  memoryCanonical State.reset ∧ State.reset.mem = [] ∧ State.reset.pending = [] ∧ State.reset.mgt 0 = 0x00314856 ∧ State.reset.mgt 4 = 0x0100
    ∧ State.reset.mgtField 8 0 3 = 0
    ∧ (∀ c, c < 576 → State.reset.power? c = 0 ∧ State.reset.field (pwrClu c) 5 3 = 7 ∧ State.reset.field (pwrClu c) 15 1 = 0)
    ∧ State.reset.field (pwrBase + 8) 0 11 = 2000 ∧ State.reset.field (pwrBase + 4) 0 11 = 2000 ∧ State.reset.field (pwrBase + 8) 16 11 = 600
    ∧ State.reset.field (pwrBase + 0x18) 0 16 = 10 ∧ State.reset.field (thmBase + 0x10) 0 5 = 12 ∧ State.reset.field panelBase 0 9 = 64

/-- No row of the table gives bits: no word spells a command, and none reaches the queue that way (log entry 7) (R326). -/
def Obligations.NoWordSpellsACommand : Prop :=
  ∀ (s : State) (nbits w : Nat), decodeTableWord nbits w = none ∧ s.withFetchWord nbits w = s

/-- Every command at the front of the queue runs as exec says, with the queue's rest behind it; commands take no time (log entry 1: DESIGN CHOICE) (R326). -/
def Obligations.StepRunsTheFrontCommand : Prop :=
  ∀ (s : State) (c : Instr) (rest : List Instr), s.pending = c :: rest → step s = exec c { s with pending := rest }

/-- With no command waiting a fast cycle passes (log entry 1: DESIGN CHOICE): the clock moves by one, and panel memory and the fixed facts stand (R36). -/
def Obligations.IdleStepIsOneCycle : Prop :=
  ∀ s : State, s.pending = [] → ∃ t, step s = .next t ∧ t.now = s.now + 1 ∧ t.mem = s.mem ∧ t.pending = [] ∧ t.hw = s.hw

/-- Every command answers a next state; none touches the waiting commands, the clock or the fixed facts of the part. An event whose conditions do not hold leaves the state as it was (log entry 4: DESIGN CHOICE) (R47). -/
def Obligations.EveryCommandCompletes : Prop :=
  ∀ (c : Instr) (s : State), ∃ t, exec c s = .next t ∧ t.pending = s.pending ∧ t.now = s.now ∧ t.hw = s.hw

/-- Every step keeps panel memory in canonical form: an unlisted byte reads 0x00 (log entry 2: DESIGN CHOICE), addresses rise and no cell repeats that value (R32). -/
def Obligations.StepKeepsMemoryCanonical : Prop :=
  ∀ s t : State, memoryCanonical s → step s = .next t → memoryCanonical t

/-! ### Scalar cores (chapter 02) -/

/-- Q.TAG, Q.RDW, Q.STAT, LC.RD and E.STAT write one register and do nothing else (R45). -/
def Obligations.QueueReadsWriteOneRegister : Prop :=
  ∀ (s : State) (h rd q : Nat), s.ready h = true →
    (∀ t, (s.core h).heldIn q = false → ((s.core h).inQ q).head = some t →
      exec (.qTag h rd q) s = .next (s.setCore h (wrote (s.core h) rd (t.tag.setWidth 32)))
      ∧ ∀ w, exec (.qRdw h rd q w) s = .next (s.setCore h (wrote (s.core h) rd (wordOf t.payload w))))
    ∧ (∀ t rest, ((s.core h).inQ q).virt = none → ((s.core h).inQ q).tokens = t :: rest →
      exec (.qStat h rd q 0) s = .next (s.setCore h (wrote (s.core h) rd (BitVec.ofNat 32 (rest.length + 1 + t.kind * 32 + 256)))))
    ∧ (((s.core h).outQ q).tokens = [] → exec (.qStat h rd q 1) s = .next (s.setCore h (wrote (s.core h) rd 0)))
    ∧ (∀ n, exec (.lcRd h rd q n) s = .next (s.setCore h (wrote (s.core h) rd (BitVec.ofNat 32 ((s.core h).pet.cnt q n)))))
    ∧ exec (.eStat h rd) s
      = .next (s.setCore h (wrote (s.core h) rd (BitVec.ofNat 32 (s.busyMask h + (s.core h).lastTag.toNat * 256))))

/-- An empty input queue holds Q.TAG, Q.RDW, Q.POP and Q.FWD: the core waits, counted under IN, at the same pc (R45, R47).
Once a token stands in the queue, CORE_WAIT_RELEASED carries the waiting Q.TAG out (R47). -/
def Obligations.WaitsAtQueues : Prop :=
  (∀ (s : State) (h rd q : Nat), s.ready h = true → (s.core h).heldIn q = false → ((s.core h).inQ q).head = none →
    exec (.qTag h rd q) s = .next (s.setCore h (waiting (s.core h) (.tag rd q) 0))
    ∧ (∀ w, exec (.qRdw h rd q w) s = .next (s.setCore h (waiting (s.core h) (.rdw rd q w) 0)))
    ∧ exec (.qPop h q) s = .next (s.setCore h (waiting (s.core h) (.pop q) 0))
    ∧ ∀ qo, s.bound h qo = true → exec (.qFwd h q qo) s = .next (s.setCore h (waiting (s.core h) (.fwd q qo) 0)))
  ∧ (∀ (s : State) (h rd q : Nat) (t : Token), s.mayRun h = true → (s.core h).wait = some (.tag rd q) → (s.core h).heldIn q = false →
    ((s.core h).inQ q).head = some t →
    exec (.coreWaitReleased h) s = .next (s.setCore h (wrote (s.core h) rd (t.tag.setWidth 32))))

/-- Q.WRW sets one word of the staging area, LC.SET a loop limit, E.ISSUE queues a copy of a descriptor with rs2,
halts the petal where the descriptor fails its checks and waits while two are queued, and RND draws from stream 0; E.WAIT on idle engines only retires; P.YIELD stands at the yield point (R45, R58, R101). -/
def Obligations.QueueWrites : Prop :=
  ∀ (s : State) (h : Nat), s.ready h = true →
    (∀ rs1 qo w, w < 16 → ∃ v, exec (.qWrw h rs1 qo w) s
        = .next (s.setCore h (retired ((s.core h).setOutQ qo { (s.core h).outQ qo with stage := v })))
      ∧ ∀ i, i < 16 → wordOf v i = if i = w then (s.core h).xreg rs1 else wordOf ((s.core h).outQ qo).stage i)
    ∧ (∀ qi n rs1, exec (.lcSet h qi n rs1) s
        = .next (s.setCore h (retired ((s.core h).setPet ((s.core h).pet.setLimit qi n ((s.core h).xreg rs1).toNat)))))
    ∧ (∀ e rs1 rs2, ((s.core h).engine e).queue.length < 2 →
        (let d : EngDesc := { d := (s.core h).pet.descAt (((s.core h).xreg rs1).toNat % 16), off := (s.core h).xreg rs2 }
         (d.ok s h e = true → exec (.eIssue h e rs1 rs2) s
            = .next (s.setCore h (retired ((s.core h).setEngine e { (s.core h).engine e with queue := ((s.core h).engine e).queue ++ [d] }))))
         ∧ (d.ok s h e = false → ∃ t, exec (.eIssue h e rs1 rs2) s = .next t ∧ t.core h = { s.core h with halted := true, wait := none })))
    ∧ (∀ e rs1 rs2, 2 ≤ ((s.core h).engine e).queue.length →
        exec (.eIssue h e rs1 rs2) s = .next (s.setCore h (waiting (s.core h) (.issue e rs1 rs2) 2)))
    ∧ (∀ m : BitVec 5, Nat.land (s.busyMask h) m.toNat = 0 → exec (.eWait h m) s = .next (s.setCore h (retired (s.core h))))
    ∧ (∀ rd, exec (.rnd h rd) s
        = .next (s.setCore h (wrote ((s.core h).setPet ((s.core h).pet.setStream 0 (rngNext ((s.core h).pet.stream 0)).2)) rd
            (rngNext ((s.core h).pet.stream 0)).1)))
    ∧ exec (.pYield h) s = .next (s.setCore h { s.core h with yielded := true, wait := some .yield, waitOn := 2 })

/-- Q.PUSH enqueues the staged bytes with tag rs1[15:0], its epoch the cluster's, takes one credit and zeroes the staging area (R45, R120);
Q.POP of a control token takes it away and Q.FWD puts the head token, tag and payload, on the output queue (R45, R127); a push to an
unbound queue halts the petal (R123). -/
def Obligations.PushPopForward : Prop :=
  ∀ (s : State) (h : Nat), s.ready h = true →
    (∀ rs1 qo, s.bound h qo = true → (s.core h).heldOut qo = false → s.hasCredit h qo = true →
      exec (.qPush h rs1 qo) s = .next ((s.stir (h / 32)).setCore h (retired ((s.core h).setOutQ qo { (s.core h).outQ qo with
        tokens := ((s.core h).outQ qo).tokens
          ++ [Token.restamp { tag := ((s.core h).xreg rs1).setWidth 16, payload := ((s.core h).outQ qo).stage } (s.epochOf (h / 32))],
        out := ((s.core h).outQ qo).out + 1, total := ((s.core h).outQ qo).total + 1, stage := 0 }))))
    ∧ (∀ qi t rest, (s.core h).heldIn qi = false → ((s.core h).inQ qi).virt = none → ((s.core h).inQ qi).tokens = t :: rest →
      t.kind ≠ kData → t.isMarker = false →
      (∃ u, exec (.qPop h qi) s = .next u ∧ u.core h = retired ((s.core h).setInQ qi { (s.core h).inQ qi with tokens := rest })
        ∧ (∀ k, k ≠ h → u.core k = s.core k) ∧ u.mem = s.mem ∧ u.regs = s.regs)
      ∧ ∀ qo, s.bound h qo = true → (s.core h).heldOut qo = false → s.hasCredit h qo = true →
        ∃ u, exec (.qFwd h qi qo) s = .next u ∧ ((u.core h).inQ qi).tokens = rest
          ∧ ((u.core h).outQ qo).tokens = ((s.core h).outQ qo).tokens ++ [t] ∧ ((u.core h).outQ qo).out = ((s.core h).outQ qo).out + 1
          ∧ (u.core h).pet.pc = (s.core h).pet.pc + 4 ∧ (∀ k, k ≠ h → u.core k = s.core k) ∧ u.mem = s.mem)
    ∧ ∀ rs1 qo, s.bound h qo = false → ∃ u, exec (.qPush h rs1 qo) s = .next u
        ∧ u.core h = { s.core h with halted := true, wait := none }

/-- SCALAR_INSTRUCTION carries out the 16- or 32-bit instruction at the pc: the register forms write rd alone, a jump links and goes,
a branch goes or falls through; a load, a store and a CSR form of four bytes are SCALAR_LOAD, SCALAR_STORE and CSR_ACCESS (R41; what
RV32IMC computes is PRESUMED from the base architecture, log entry 11). -/
def Obligations.ScalarInstructionRuns : Prop :=
  ∀ (s : State) (h len : Nat) (i : Rv), s.ready h = true → stands (s.core h) len i →
    (∀ rd imm, i = .lui rd imm → exec (.scalarInstruction h) s = .next (s.setCore h (advanced len (withX (s.core h) rd imm))))
    ∧ (∀ rd imm, i = .auipc rd imm →
        exec (.scalarInstruction h) s = .next (s.setCore h (advanced len (withX (s.core h) rd ((s.core h).pet.pc + imm)))))
    ∧ (∀ f3 alt rd rs1 imm, i = .opImm f3 alt rd rs1 imm →
        exec (.scalarInstruction h) s = .next (s.setCore h (advanced len (withX (s.core h) rd (alu f3 alt ((s.core h).xreg rs1) imm)))))
    ∧ (∀ f3 alt rd rs1 rs2, i = .op f3 alt rd rs1 rs2 →
        exec (.scalarInstruction h) s
          = .next (s.setCore h (advanced len (withX (s.core h) rd (alu f3 alt ((s.core h).xreg rs1) ((s.core h).xreg rs2))))))
    ∧ (∀ f3 rd rs1 rs2, i = .mulDiv f3 rd rs1 rs2 →
        exec (.scalarInstruction h) s
          = .next (s.setCore h (advanced len (withX (s.core h) rd (mulDiv f3 ((s.core h).xreg rs1) ((s.core h).xreg rs2))))))
    ∧ (∀ rd off, i = .jal rd off →
        exec (.scalarInstruction h) s = .next (s.setCore h (jumped (s.core h) len rd ((s.core h).pet.pc + off))))
    ∧ (∀ rd rs1 imm, i = .jalr rd rs1 imm →
        exec (.scalarInstruction h) s = .next (s.setCore h (jumped (s.core h) len rd (((s.core h).xreg rs1 + imm) &&& ~~~1#32))))
    ∧ (∀ f3 rs1 rs2 off, i = .branch f3 rs1 rs2 off →
        exec (.scalarInstruction h) s = .next (s.setCore h
          (if branchTaken f3 ((s.core h).xreg rs1) ((s.core h).xreg rs2) then jumped (s.core h) len 0 ((s.core h).pet.pc + off)
           else advanced len (s.core h))))
    ∧ (i = .fence → exec (.scalarInstruction h) s = .next (s.setCore h (advanced len (s.core h))))
    ∧ (∀ rd rs1 (imm : BitVec 12) size signed, i = .load rd rs1 (imm.signExtend 32) size signed → len = 4 → (size = 1 ∨ size = 2 ∨ size = 4) →
        exec (.scalarInstruction h) s = exec (.scalarLoad h rd rs1 imm size signed) s)
    ∧ (∀ rs1 rs2 (imm : BitVec 12) size, i = .store rs1 rs2 (imm.signExtend 32) size → len = 4 → (size = 1 ∨ size = 2 ∨ size = 4) →
        exec (.scalarInstruction h) s = exec (.scalarStore h rs1 rs2 imm size) s)
    ∧ (∀ (f3 : BitVec 3) rd rs1 (csr : BitVec 12), i = .csr f3.toNat rd rs1 csr.toNat → f3.toNat % 4 ≠ 0 →
        exec (.scalarInstruction h) s = exec (.csrAccess h f3 rd rs1 csr) s)

/-- A fetch at an odd address, or from outside instruction memory, halts the petal there, and so does an illegal instruction:
the core is halted with its pc and registers as they were, and no other core changes (R43, R44).
A scalar access outside every window, and a misaligned one inside the near store, halt the petal (R43, R44). -/
def Obligations.ScalarFaults : Prop :=
  (∀ (s : State) (h : Nat), s.ready h = true →
    ((s.core h).pc % 2 = 1 ∨ (s.core h).pc < 0x10000000 ∨ 0x10002000 ≤ (s.core h).pc ∨ (∃ len, stands (s.core h) len .illegal)) →
    ∃ t, exec (.scalarInstruction h) s = .next t ∧ t.core h = { s.core h with halted := true, wait := none } ∧ ∀ k, k ≠ h → t.core k = s.core k)
  ∧ (∀ (s : State) (h rd rs1 : Nat) (imm : BitVec 12) (size a : Nat) (signed : Bool), s.ready h = true → (size = 1 ∨ size = 2 ∨ size = 4) →
    a = ((s.core h).xreg rs1 + imm.signExtend 32).toNat →
    (0x40000 ≤ a ∧ a < 0x800000 ∨ 0x20000200 ≤ a ∨ a + size ≤ 0x40000 ∧ a % size ≠ 0) →
    (∃ t, exec (.scalarLoad h rd rs1 imm size signed) s = .next t ∧ t.core h = { s.core h with halted := true, wait := none })
    ∧ ∀ rs2, ∃ t, exec (.scalarStore h rs1 rs2 imm size) s = .next t ∧ t.core h = { s.core h with halted := true, wait := none })

/-- A load of 1, 2 or 4 aligned bytes of the own near store writes rd with the bytes, zero- or sign-extended; a store changes
exactly those bytes of memory A store lands at once (log entry 26: DESIGN CHOICE) (R43, R172). -/
def Obligations.NearStoreLoadAndStore : Prop :=
  ∀ (s : State) (h rs1 : Nat) (imm : BitVec 12) (size a : Nat), s.ready h = true → (size = 1 ∨ size = 2 ∨ size = 4) →
    a = ((s.core h).xreg rs1 + imm.signExtend 32).toNat → a + size ≤ 0x40000 → a % size = 0 →
    (∀ rd signed, exec (.scalarLoad h rd rs1 imm size signed) s
      = .next (s.setCore h (wrote (s.core h) rd (extend size signed (leNat (s.load (nearBase h + a) size))))))
    ∧ (∀ rs2, s.mapped (nearBase h + a) = true → s.cacheMode (clusterOfAddr (nearBase h + a)) = false →
        (s.clu (clusterOfAddr (nearBase h + a))).backupOn = false →
      ∃ t, exec (.scalarStore h rs1 rs2 imm size) s = .next t
        ∧ t = { s.setCore h (retired (s.core h)) with mem := t.mem }
        ∧ (∀ i, i < size → memByte t.mem (nearBase h + a + i) = BitVec.ofNat 8 (((s.core h).xreg rs2).toNat / 256 ^ i))
        ∧ ∀ b, b < nearBase h + a ∨ nearBase h + a + size ≤ b → memByte t.mem b = memByte s.mem b)

/-- CSR_ACCESS: mhartid reads the hart's number, the read-only custom CSRs ignore a write, an address of no CSR halts the petal; a
write of v to RNG_SEED reseeds the six streams, which RNG_SEED_WRITE is (R7, R42, R101). -/
def Obligations.CsrAccess : Prop :=
  ∀ (s : State) (h rd : Nat), s.ready h = true →
    exec (.csrAccess h 2 rd 0 0xF14) s = .next (s.setCore h (wrote (s.core h) rd (BitVec.ofNat 32 h)))
    ∧ (∀ rs1, exec (.csrAccess h 1 rd rs1 0x7C0) s = .next (s.setCore h (wrote (s.core h) rd (BitVec.ofNat 32 (s.core h).petal))))
    ∧ (∀ (f3 : BitVec 3) rs1 (csr : BitVec 12), s.csrRead h csr.toNat = none → f3.toNat % 4 ≠ 0 →
        ∃ t, exec (.csrAccess h f3 rd rs1 csr) s = .next t ∧ t.core h = { s.core h with halted := true, wait := none })
    ∧ (∀ v, exec (.rngSeedWrite h v) s = .next (s.setCore h ((s.core h).setPet { (s.core h).pet with
        streams := seedAll v h (s.stepCountOf h) })))
    ∧ ∀ rs1, exec (.csrAccess h 1 rd rs1 0x7C2) s = .next (s.setCore h (wrote ((s.core h).setPet { (s.core h).pet with
        streams := seedAll ((s.core h).xreg rs1) h (s.stepCountOf h) }) rd 0))

/-- E.ISSUE of a descriptor that its engine's checks pass puts a copy of it on the engine's queue; a store to the descriptor table changes the table
and no descriptor that an engine has (R50). -/
def Obligations.IssueCopiesTheDescriptor : Prop :=
  ∀ (s : State) (h rs1 rs2 : Nat) (imm : BitVec 12), s.ready h = true →
    (∀ e, ((s.core h).engine e).queue.length < 2 →
      (let d : EngDesc := { d := (s.core h).pet.descAt (((s.core h).xreg rs1).toNat % 16), off := (s.core h).xreg rs2 }
       d.ok s h e = true → ∃ t, exec (.eIssue h e rs1 rs2) s = .next t
        ∧ ((t.core h).engine e).queue = ((s.core h).engine e).queue ++ [d] ∧ (t.core h).pet.desc = (s.core h).pet.desc))
    ∧ (let a := ((s.core h).xreg rs1 + imm.signExtend 32).toNat
       0x20000000 ≤ a → a < 0x20000200 → a % 4 = 0 → ∃ t, exec (.scalarStore h rs1 rs2 imm 4) s = .next t
        ∧ (∀ k e, (t.core k).engine e = (s.core k).engine e)
        ∧ ∀ j, tget 0 (t.core h).pet.desc j = if a - 0x20000000 ≤ j ∧ j < a - 0x20000000 + 4
            then BitVec.ofNat 8 (((s.core h).xreg rs2).toNat / 256 ^ (j - (a - 0x20000000))) else tget 0 (s.core h).pet.desc j)

/-! ### Engines (chapters 02 and 03) -/

/-- MATMUL with its activation rows at hand: the accumulators of every slice go through the K steps of R97 and R98, the latch keeps
the block as R61 says, and without HOLD the results are narrowed and written back. Shadow sampling is off, or the descriptor is not eligible. -/
def Obligations.MatmulAccumulates : Prop :=
  ∀ (s : State) (h e : Nat) (x : EngDesc) (rest : List EngDesc), taken s h e x rest false → (mdesc x).op = 1 →
    ((mdesc x).shadow = false ∨ s.field (s.cluReg (h / 32) 0x800) 5 1 ≠ 1) →
    ((mdesc x).aMem = true ∨ (mdesc x).m ≤ ((s.core h).engine e).rows.length) →
    ∃ t, exec (.matmul h e) s = .next t
      ∧ (let d := mdesc x
         let w := s.weights h e d d.nt
         let rows := if d.aMem then memRows s h d else ((s.core h).engine e).rows
         let acc := matAcc d w.1 rows d.nt ((s.core h).engine e).acc
         ((t.core h).engine e).acc = acc ∧ ((t.core h).engine e).kept
            = keptAfter d w.1 w.2 (sideSlices d.wfmt w.1.side (blockRows d.wfmt d.k) 0 d.nt).1 d.nt
          ∧ (d.hold = true → t.mem = s.mem ∧ (((s.core h).engine e).wb = [] → (∀ q, (t.core h).outQ q = (s.core h).outQ q) ∧ ((t.core h).engine e).wb = []))
          ∧ (d.hold = false → wroteBack s t h e d (resultRows s h e d acc)))
      ∧ ((t.core h).engine e).queue = x :: rest ∧ ((t.core h).engine e).busy = true ∧ ((t.core h).engine e).rows = []
      ∧ (∀ i, i ≠ e → (t.core h).engine i = (s.core h).engine i) ∧ (t.core h).inq = (s.core h).inq ∧ (∀ k, k ≠ h → t.core k = s.core k)

/-- LATCH loads the block into the latch and keeps it, FLUSH narrows the accumulators and writes them back; neither changes an accumulator (R61, R62). -/
def Obligations.LatchAndFlush : Prop :=
  ∀ (s : State) (h e : Nat) (x : EngDesc) (rest : List EngDesc), taken s h e x rest false →
    ((mdesc x).op = 2 → ((s.core h).engine e).wb = [] → ∃ t, exec (.latch h e) s = .next t ∧ t.mem = s.mem ∧ (∀ k, k ≠ h → t.core k = s.core k)
      ∧ (t.core h).engine e = { (s.core h).engine e with
          taken := true, busy := true, rows := [], row := [], kept := some (s.weights h e (mdesc x) (mdesc x).nt).1 }
      ∧ (∀ q, (t.core h).outQ q = (s.core h).outQ q) ∧ (t.core h).inq = (s.core h).inq)
    ∧ ((mdesc x).op = 3 → ∃ t, exec (.flush h e) s = .next t ∧ (∀ k, k ≠ h → t.core k = s.core k)
      ∧ (t.core h).engine e = { (s.core h).engine e with
          taken := true, busy := true, rows := [], row := [], wb := ((t.core h).engine e).wb }
      ∧ wroteBack s t h e (mdesc x) (resultRows s h e (mdesc x) ((s.core h).engine e).acc) ∧ (t.core h).inq = (s.core h).inq)

/-- BOUQUET_MATMUL of a LATCH: each engine of the bouquet that has a share of the slices keeps the block of its own core's near
store; memory, queues and accumulators stand (R72, R73). -/
def Obligations.BouquetLatches : Prop :=
  ∀ (s : State) (h e : Nat) (x : EngDesc) (rest : List EngDesc), taken s h e x rest true → (mdesc x).op = 2 → ((s.core h).engine e).wb = [] →
    ∃ t, exec (.bouquetMatmul h e) s = .next t ∧ t.mem = s.mem ∧ ((t.core h).engine e).busy = true
      ∧ (∀ j n, j < 32 → n = (bqShare (mdesc x).nt j).length → 0 < n →
          ((t.core (h + j / 4)).engine (j % 4)).kept = some (s.weights (h + j / 4) (j % 4) (mdesc x) n).1)
      ∧ (∀ k i, ((t.core k).engine i).acc = ((s.core k).engine i).acc) ∧ (∀ k i, (t.core k).outQ i = (s.core k).outQ i)

/-- ENGINE_DESCRIPTOR_COMPLETE once no result waits, or when the queue takes the last: the descriptor leaves its engine's queue,
and a matrix descriptor's TAG is what E.STAT reports (R45, R173).
An operand row its queue cannot give yet holds a descriptor: nothing changes but that its engine has taken it. A control token where DATA is
needed halts the petal, with the descriptor gone (R44, R125). -/
def Obligations.EnginesEndDescriptors : Prop :=
  (∀ (s : State) (h e : Nat) (x : EngDesc) (rest : List EngDesc), ((s.core h).engine e).queue = x :: rest → s.engineRuns h = true →
    ((s.core h).engine e).busy = true →
    (((s.core h).engine e).wb = [] → exec (.engineDescriptorComplete h e) s = .next (s.setCore h
        { (s.core h).setEngine e { (s.core h).engine e with queue := rest, taken := false, rows := [], row := [], busy := false } with
          lastTag := if e = 4 then (s.core h).lastTag else BitVec.ofNat 8 (dfield x.d 31 0 8) }))
    ∧ (∀ q t, x.dest e = some q → ((s.core h).engine e).wb = [t] → s.hasCredit h q = true →
        exec (.engineDescriptorComplete h e) s = .next ((s.stir (h / 32)).setCore h
          { ((s.core h).setOutQ q { (s.core h).outQ q with
              tokens := ((s.core h).outQ q).tokens ++ [t], out := ((s.core h).outQ q).out + 1, total := ((s.core h).outQ q).total + 1 }).setEngine e
              { (s.core h).engine e with queue := rest, taken := false, rows := [], row := [], busy := false, wb := [] } with
            lastTag := if e = 4 then (s.core h).lastTag else BitVec.ofNat 8 (dfield x.d 31 0 8) })))
  ∧ (∀ (s : State) (h e : Nat) (x : EngDesc) (rest : List EngDesc), taken s h e x rest false → (mdesc x).op = 1 →
    (mdesc x).aMem = false → ((s.core h).engine e).rows.length < (mdesc x).m →
    (((s.core h).inQ (mdesc x).aq).head = none →
      exec (.matmul h e) s = .next (s.setCore h ((s.core h).setEngine e { (s.core h).engine e with taken := true })))
    ∧ ((∃ t, ((s.core h).inQ (mdesc x).aq).head = some t ∧ t.kind ≠ kData ∧ (((s.core h).engine e).row ≠ [] ∨ t.kind ≠ kEndRow ∧ t.kind ≠ kEndTile)) →
      ∃ t, exec (.matmul h e) s = .next t ∧ (t.core h).halted = true ∧ ((t.core h).engine e).queue = rest))

/-- A vector command whose descriptor heads engine 4's queue and that has its operand rows runs: the engine holds
the finished descriptor. With a near-store destination panel memory changes by the result bytes at DADDR alone and no queue
changes; with a queue destination memory stands, and the result's tokens (a row of R121) follow those that were waiting. No other core changes.
The words an elementwise vector operation yields from operands a, b and c: one FP32 operation, rounded once, on each element (R63). -/
def Obligations.VectorOperations : Prop :=
  (∀ e ∈ vectorTable, ∀ (s : State) (h : Nat) (x : EngDesc) (rest : List EngDesc),
    ((s.core h).engine 4).queue = x :: rest → s.engineRuns h = true → ((s.core h).engine 4).busy = false →
    (vdesc x).op = e.2 →
    ((vdesc x).sMem = true ∨ (vdesc x).aRows.1 ≤ ((s.core h).engine 4).rows.length) →
    ∃ t, exec (e.1 h) s = .next t
      ∧ ((t.core h).engine 4).queue = x :: rest ∧ ((t.core h).engine 4).busy = true ∧ ((t.core h).engine 4).rows = []
      ∧ (∀ i, i ≠ 4 → (t.core h).engine i = (s.core h).engine i) ∧ (t.core h).inq = (s.core h).inq ∧ (∀ k, k ≠ h → t.core k = s.core k)
      ∧ ((vdesc x).dMem = true → (∀ q, (t.core h).outQ q = (s.core h).outQ q) ∧ ((t.core h).engine 4).wb = ((s.core h).engine 4).wb
        ∧ (∀ b, b < nearBase h + (vdesc x).dst ∨ nearBase h + (vdesc x).dst + (vecBytes s h (vdesc x)).length ≤ b →
            memByte t.mem b = memByte s.mem b)
        ∧ (vecBytes s h (vdesc x) ≠ [] → plainAt s (nearBase h + (vdesc x).dst) (vecBytes s h (vdesc x)).length →
            t.mem = memWrite s.mem (nearBase h + (vdesc x).dst) (vecBytes s h (vdesc x))))
      ∧ ((vdesc x).dMem = false → t.mem = s.mem ∧ (∀ q, q ≠ (vdesc x).dq → (t.core h).outQ q = (s.core h).outQ q)
        ∧ ((t.core h).outQ (vdesc x).dq).tokens ++ ((t.core h).engine 4).wb
          = ((s.core h).outQ (vdesc x).dq).tokens ++ ((s.core h).engine 4).wb
            ++ rowTokens (if (s.vecYield h (vdesc x)).words = [] then 4 else otypeBytes (vdesc x).otype) (s.epochOf (h / 32))
                ((vecBytes s h (vdesc x)).length + 1) (vecBytes s h (vdesc x))))
  ∧ (∀ (d : VDesc) (rows : List Bytes) (bb cb : Bytes) (u free : Nat),
    (let a := elemsOf d.itype d.len (rows.headD [])
     let b := elemsOf d.itype d.len bb
     let c := elemsOf d.itype d.len cb
     (d.op = 0x01 → (vecRun d rows bb cb u free).words = List.zipWith (fun x y => wordOfFp ((fpOfWord x).add (fpOfWord y))) a b)
     ∧ (d.op = 0x02 → (vecRun d rows bb cb u free).words = List.zipWith (fun x y => wordOfFp ((fpOfWord x).mul (fpOfWord y))) a b)
     ∧ (d.op = 0x03 → (vecRun d rows bb cb u free).words = zip3 ffma a b c)
     ∧ (d.op = 0x06 → (vecRun d rows bb cb u free).words = a.map fun x => ffma x d.imm0 d.imm1)
     ∧ (d.op = 0x07 → (vecRun d rows bb cb u free).words = a)
     ∧ (d.op = 0x31 → (fpOfWord (BitVec.ofNat 32 (fld bb 0 4))).isZero = true → (vecRun d rows bb cb u free).words = a.map fun _ => 0)
     ∧ (d.op = 0x43 → (fpOfWord d.imm0).isZero = true →
        (vecRun d rows bb cb u free).raw = u32 ((pairsOf d.len (rows.headD [])).headD (0, 0)).2)))

/-! ### Spares and faults (chapters 02 and 03) -/

/-- SHADOW_CHECK of the first tile of a spare on shadow duty: it leaves the queue and CLU_SHADOW_TILES counts it; a tile that agrees
ends there, one that does not waits for the other spare under TIEBREAK if one can take it, and else both cores are blamed (R110 to R112).
SHADOW_TIEBREAK: with a second spare's results that agree with the first spare's the checked core is blamed, with its own
results the first spare, with neither both; with no second spare both (R112). -/
def Obligations.ShadowChecks : Prop :=
  (∀ (s : State) (c spare : Nat) (t : Tile) (ts : List Tile), (s.physCore (s.physIn c spare)).tiles = t :: ts →
    (s.physCore (s.physIn c spare)).duty = 1 → (s.physCore (s.physIn c spare)).retired = false → (s.physCore (s.physIn c spare)).tie = none →
    (s.field (s.cluReg c 0x800) 6 1 ≠ 1 ∨ fp8Exact (tileIn t).1.wfmt (tileIn t).1.afmt = true) →
    (let rs := tileCheck t (decide (s.field (s.cluReg c 0x800) 6 1 = 1))
     let u := (s.setPhys (s.physIn c spare) { s.physCore (s.physIn c spare) with tiles := ts }).count64 (s.cluReg c 0x808) 1
     let bad := tileMismatch (s.field (s.cluReg c 0x800) 7 5) t t.result rs
     (bad = false → exec (.shadowCheck c spare) s = .next u)
     ∧ (bad = true → s.field (s.cluReg c 0x800) 12 1 = 1 → s.otherSpares c spare ≠ [] → exec (.shadowCheck c spare) s
        = .next (u.setPhys (s.physIn c spare) { s.physCore (s.physIn c spare) with tiles := ts, tie := some (t, rs) }))
     ∧ (bad = true → s.field (s.cluReg c 0x800) 12 1 ≠ 1 → t.checked ≠ s.physIn c spare →
        ∃ v, exec (.shadowCheck c spare) s = .next v ∧ blamed u v (s.physIn c spare) 2 t)))
  ∧ (∀ (s : State) (c spare : Nat) (t : Tile) (rs : List Word), (s.physCore (s.physIn c spare)).tie = some (t, rs) →
    t.checked ≠ s.physIn c spare →
    (let u := s.setPhys (s.physIn c spare) { s.physCore (s.physIn c spare) with tie := none }
     let r2 := tileCheck t (s.field (s.cluReg c 0x800) 6 1 = 1 && fp8Exact (tileIn t).1.wfmt (tileIn t).1.afmt)
     let k := s.field (s.cluReg c 0x800) 7 5
     ∃ v, exec (.shadowTiebreak c spare) s = .next v ∧ blamed u v (s.physIn c spare)
       (if s.otherSpares c spare = [] then 2 else if tileMismatch k t rs r2 = false then 0 else if tileMismatch k t t.result r2 = false then 1 else 2) t))

/-- A core fault sets its bit of CORE_FAULT and CORE_FAULT_PC, and the partition is to freeze for a stand-in of that core at its next
flow-token boundary; nothing else changes. HEARTBEAT_LOSS is of a running core that waits on nothing with no engine active (R79, R80).
SECDED errors that reach no core: balancing-queue, steering and bulk-mover state is replayed, the cache tags are invalidated and
counted, a directory entry is bad, a page-table entry is invalid and poisoned with its owner kept; a corrected error is counted in its block's
counter and does nothing else (R180, R217, R257). -/
def Obligations.CoreErrors : Prop :=
  (∀ (s : State) (c k i p : Nat) (q : Part) (e : Instr × Nat), e ∈ coreFaults c k i → k < 32 → s.partOf c = some p → s.part p = some q →
    q.standing = [] → q.freeze = .no →
    (s.core (c * 32 + k)).running = true → (s.core (c * 32 + k)).halted = false → (s.core (c * 32 + k)).wait = none →
    (s.core (c * 32 + k)).yielded = false → (s.core (c * 32 + k)).busyMask = 0 →
    exec e.1 s = .next (((s.setField (s.coreReg (c * 32 + k) 8) e.2 1 1).setReg (s.coreReg (c * 32 + k) 0xC)
        (BitVec.ofNat 32 (s.core (c * 32 + k)).pc)).setPart p
      { q with freezeDue := .standIn, freezeLate := false, standing := [(c * 32 + k, 0)], standAt := s.now, standBit := e.2 }))
  ∧ (∀ (s : State) (c k i : Nat),
    (∀ p q w, (w = Secded.balqSteer ∨ w = Secded.bmChannel) → s.partOf c = some p → s.part p = some q → q.freeze = .no →
      exec (.secdedUncorrectable c k w i) s = .next (s.setPart p { q with freezeDue := .repair, freezeLate := false }))
    ∧ (s.cacheMode c = true → exec (.secdedUncorrectable c k .cacheTag i) s
        = .next ((s.setClu c { s.clu c with cache := [] }).count (s.cluReg c 0x928) 1))
    ∧ (∃ t, exec (.secdedUncorrectable c k .backupDir i) s = .next t ∧ i ∈ (t.clu c).dirBad ∧ (∀ j, j ≠ c → t.clu j = s.clu j) ∧ t.cores = s.cores)
    ∧ (∃ t, exec (.secdedUncorrectable c k .pageTable i) s = .next t
        ∧ bits (tget 0x2000000000000000 (t.stack c).pte i).toNat 0 1 = 0 ∧ bits (tget 0x2000000000000000 (t.stack c).pte i).toNat 45 1 = 1
        ∧ t.mem = s.mem ∧ t.cores = s.cores)
    ∧ (∀ w, (w = Secded.petalStorage ∨ w = .queueControl ∨ w = .nsRemap) →
        exec (.secdedCorrectable c k w) s = .next (s.count (s.coreReg (c * 32 + k) 0x10) 1))
    ∧ (∀ w, (w = Secded.cmRemap ∨ w = .balqSteer ∨ w = .bmChannel ∨ w = .cacheTag ∨ w = .backupDir) →
        exec (.secdedCorrectable c k w) s = .next (s.count (s.cluReg c 0x904) 1)))

/-- PARTITION_FROZEN: the freeze that is due begins, and a running step's KV appends await their discard; one due at the step boundary
waits while a step runs (R80, R398).
The stand-in of hart h = c × 32 + k: STAND_IN moves the hart onto the first spare, which holds no tile and stands in, and retires
the failed core; STAND_IN_PETALS_RESTORED loads instruction memory and petals from bank 11 or the image and stops the core;
STAND_IN_NEAR_STORE_RESTORED with an answering near store moves its 256 KiB and ends it; while the panel sheds it waits (R80, R81, R379).
REPLAY_RELEASE once nothing the partition is frozen for remains: without a released step the partition leaves its freeze; with one
whose regions may not advance their epoch yet it waits (R147, R149). -/
def Obligations.FreezesAndStandIns : Prop :=
  (∀ (s : State) (p : Nat) (q : Part), s.part p = some q → q.freezeDue ≠ .no → q.freeze = .no → ∀ runs, (q.step = none → runs = false) → (∀ st, q.step = some st → runs = st.released) →
    ((q.freezeLate && runs) = false →
      exec (.partitionFrozen p) s
        = .next (s.setPart p { q with freeze := q.freezeDue, freezeDue := .no, freezeLate := false, discardDue := q.discardDue || runs }))
    ∧ ((q.freezeLate && runs) = true → exec (.partitionFrozen p) s = .next (s.setPart p q)))
  ∧ (∀ (s : State) (c k p : Nat) (q : Part), k < 32 → s.partOf c = some p → s.part p = some q → q.freeze ≠ .no → q.freeze ≠ .reset →
    (s.shedding = true → exec (.standIn c k) s = .next s ∧ exec (.standInPetalsRestored c k) s = .next s
      ∧ ∀ a, exec (.standInNearStoreRestored c k a) s = .next s)
    ∧ (∀ pk rest, s.shedding = false → q.stage (c * 32 + k) = some 0 → s.spares c = pk :: rest → (s.clu c).coreMap.length = 32 →
      ∃ t, exec (.standIn c k) s = .next t ∧ t.physOf (c * 32 + k) = pk ∧ (t.physCore pk).tiles = [] ∧ (t.physCore pk).duty = 3
        ∧ t.part p = some (q.setStage (c * 32 + k) 1) ∧ t.cores = s.cores ∧ t.mem = s.mem)
    ∧ (s.shedding = false → q.stage (c * 32 + k) = some 1 →
      ∃ t, exec (.standInPetalsRestored c k) s = .next t
        ∧ (t.core (c * 32 + k)).imem = byteTbl ((s.backupPart c k 0).getD (s.imagePart c k 0))
        ∧ (t.core (c * 32 + k)).running = false ∧ (t.core (c * 32 + k)).eng = [] ∧ (t.core (c * 32 + k)).inq = (s.core (c * 32 + k)).inq
        ∧ t.part p = some (q.setStage (c * 32 + k) 2) ∧ (∀ j, j ≠ c * 32 + k → t.core j = s.core j) ∧ t.mem = s.mem ∧ t.regs = s.regs)
    ∧ (s.shedding = false → q.stage (c * 32 + k) = some 2 →
      (let u := s.ownMove c 7 0x40000
       exec (.standInNearStoreRestored c k true) s = .next ((u.setPhys (u.physOf (c * 32 + k)) { u.physCore (u.physOf (c * 32 + k)) with
        duty := 0 }).setPart p (q.setStage (c * 32 + k) 3)))))
  ∧ (∀ (s : State) (p : Nat) (q : Part), s.part p = some q → q.freeze ≠ .no → q.freeze ≠ .reset → q.rateWait = false → s.restored p q = true →
    q.repairRec = [] →
    (q.step = none → ∃ t, exec (.replayRelease p) s = .next t
        ∧ t.part p = some { q with freeze := .no, rateWait := false, standing := [] } ∧ t.cores = s.cores ∧ t.mem = s.mem)
    ∧ (∀ st, q.step = some st → st.released = true → s.rateLimited p = true →
        exec (.replayRelease p) s = .next ((s.setPart p q).setPart p { q with rateWait := true })))

/-- ROTATION of a busiest core whose region is between steps: the logical core's entry of the core map names the spare, the spare carries the hart and its old physical
core is the idle spare; petals, near store and every register but the cluster's bulk-mover channels and byte counts are as they were (R82, R83).
SHADOW_BLAME_REPLACE of a physical core blamed three times within 24 hours, its partition between steps: a logical core asks for
a stand-in; a spare is retired and its pending tiles count as skipped (R78). -/
def Obligations.CoresChangePlace : Prop :=
  (∀ (s : State) (c k spare p : Nat) (q : Part), s.partOf c = some p → s.part p = some q → k < 32 → spare < 34 → q.rotate = true → q.step = none →
    q.freeze = .no → q.freezeDue = .no → q.standing = [] → q.rotated.contains c = false → q.reset = none →
    (s.physCore (s.physIn c spare)).duty = 2 → (s.physCore (s.physIn c spare)).retired = false → s.hartOf (s.physIn c spare) = none →
    s.atBoundary c = true → s.busiest c k = true →
    ∃ t, exec (.rotation c k spare) s = .next t ∧ (t.clu c).coreMap = (s.clu c).coreMap.set k spare
      ∧ (s.physOf (c * 32 + k) ≠ s.physIn c spare → (t.physCore (s.physIn c spare)).duty = 0)
      ∧ (t.physCore (s.physOf (c * 32 + k))).duty = 2
      ∧ t.part p = some { q with rotated := c :: q.rotated } ∧ t.cores = s.cores ∧ t.mem = s.mem
      ∧ ∀ b, (∀ o, 0x948 ≤ o → o < 0xB00 → b ≠ s.cluReg c o) → t.reg b = s.reg b)
  ∧ (∀ (s : State) (c n p : Nat) (q : Part), 3 ≤ s.blameCount (s.physIn c n) → (s.physCore (s.physIn c n)).retired = false →
    s.partOf c = some p → s.part p = some q → q.freeze = .no → q.step = none → q.standing = [] →
    (∀ h, s.hartOf (s.physIn c n) = some h → h / 32 = c →
      ∃ t, exec (.shadowBlameReplace c n) s = .next t ∧ (∃ b, t.part p = some { q with freezeDue := .standIn, freezeLate := false, standing := [(h, 0)], standAt := s.now, standBit := b })
        ∧ t.cores = s.cores ∧ t.mem = s.mem ∧ t.regs = s.regs)
    ∧ (s.hartOf (s.physIn c n) = none → ∃ t, exec (.shadowBlameReplace c n) s = .next t ∧ (t.physCore (s.physIn c n)).retired = true
        ∧ (t.physCore (s.physIn c n)).tiles = [] ∧ t.parts = s.parts ∧ t.cores = s.cores ∧ t.mem = s.mem))

/-! ### Dataflow (chapter 04) -/

/-- TOKEN_ARRIVAL moves one head token: from an output queue to the tail of the input queue it is bound to, or into the next slot of its
circuit at its cluster's router where the circuit has one and no mark waits ahead, and from a balancing queue, which holds its tokens in
cluster memory, to the tail of its input queue (R123, R124, R139, R242). The token moves whole; the regions of the clusters it leaves and
enters have made progress (R141), and nothing else changes.
BOUNDARY_PORT_ADMIT on an open port that expects epoch x: a token behind x is dropped and counted, a token ahead is held at the head,
one at x enters the region with its tag's epoch made the region's. EPOCH_HOLD_EXPIRY drops the held run and counts every token of it
(R150, R151). -/
def Obligations.TokensMoveAndEnter : Prop :=
  (∀ (s : State) (t : Token) (ts : List Token), t.isMarker = false →
    (∀ h qo k q, s.flows (h / 32) = true → ((s.core h).outQ qo).tokens = t :: ts → s.outDest h qo = .queue k q →
      behind t.epoch (s.epochOf (k / 32)) = false →
      (let u := (s.setCore h ((s.core h).setOutQ qo { (s.core h).outQ qo with tokens := ts })).stir (h / 32)
       exec (.tokenArrival (.outQueue h qo)) s
        = .next ((u.stir (k / 32)).setCore k ((u.core k).setInQ q { (u.core k).inQ q with tokens := ((u.core k).inQ q).tokens ++ [t] }))))
    ∧ (∀ h qo p i r, s.flows (h / 32) = true → ((s.core h).outQ qo).tokens = t :: ts → s.outDest h qo = .record p i →
      s.inbound p i = some r → r.marks = [] → s.mayEnter (s.blk (h / 32)) r.id.toNat = true →
      exec (.tokenArrival (.outQueue h qo)) s
        = .next (((s.setCore h ((s.core h).setOutQ qo { (s.core h).outQ qo with tokens := ts })).stir (h / 32)).enterCircuit (h / 32) r.id.toNat t))
    ∧ ∀ p i r, s.inbound p i = some r → s.flows r.cluster = true → r.marks = [] → r.bal ≠ [] → s.balHead r = t →
      s.room r.consHart r.consQ = true → (r.gated = false ∨ 0 < r.released) → behind t.epoch (s.epochOf (r.consHart / 32)) = false →
      exec (.tokenArrival (.record p i)) s
        = .next (((s.setInbound p i { r with bal := r.bal.drop 1, released := r.released - 1 }).stir (r.consHart / 32)).setCore r.consHart
            ((s.core r.consHart).setInQ r.consQ
              { (s.core r.consHart).inQ r.consQ with tokens := ((s.core r.consHart).inQ r.consQ).tokens ++ [t] })))
  ∧ (∀ (s : State) (p i : Nat) (r : Inbound) (t : Token) (ts : List Token) (x : BitVec 3), s.inbound p i = some r → r.boundary = true → r.closed = false →
    r.land = t :: ts → r.expect = some x → t.kind ≠ kEpochMark →
    (s.flows r.cluster = true →
      (behind t.epoch x = true → exec (.boundaryPortAdmit p i) s
        = .next ((s.setInbound p i { r with land := ts }).count (s.cluReg r.cluster 0x854) 1))
      ∧ (behind t.epoch x = false → aheadOf t.epoch x = true → r.dropEp ≠ some t.epoch → exec (.boundaryPortAdmit p i) s
        = .next (s.setInbound p i { r with held := true }))
      ∧ (behind t.epoch x = false → aheadOf t.epoch x = false → r.b = 0 → t.kind = kData → t.isMarker = false →
        s.room r.consHart r.consQ = true → s.epochOf (r.consHart / 32) = s.epochOf r.cluster →
        exec (.boundaryPortAdmit p i) s
          = .next (((s.setInbound p i { r with land := ts, dropEp := none, held := false }).stir (r.consHart / 32)).setCore r.consHart ((s.core r.consHart).setInQ r.consQ
            { (s.core r.consHart).inQ r.consQ with tokens := ((s.core r.consHart).inQ r.consQ).tokens ++ [t.restamp (s.epochOf r.cluster)] }))))
    ∧ (r.held = true → ∃ u, exec (.epochHoldExpiry p i) s = .next u
        ∧ (let run := r.land.takeWhile fun v => decide (v.epoch = t.epoch) && v.kind != kEpochMark
           u.inbound p i = some { r with held := false, dropEp := some t.epoch, land := r.land.drop run.length })
        ∧ u.cores = s.cores ∧ u.mem = s.mem))

/-- Inside a region an input queue, a landing position and a balancing queue drop a token that arrives with an epoch 1 to 3 behind the region's, and count it in
`CLU_EPOCH_DISCARD` (R152). -/
def Obligations.StaleTokensAreDropped : Prop :=
  ∀ (s : State) (t : Token) (ts : List Token),
    (∀ e x : BitVec 3, behind e x = true ↔ (x.toNat + 8 - e.toNat) % 8 ∈ [1, 2, 3])
    ∧ (∀ h qo k q, s.flows (h / 32) = true → ((s.core h).outQ qo).tokens = t :: ts → s.outDest h qo = .queue k q → behind t.epoch (s.epochOf (k / 32)) = true →
        exec (.tokenArrival (.outQueue h qo)) s
          = .next (((s.setCore h ((s.core h).setOutQ qo { (s.core h).outQ qo with tokens := ts })).stir (h / 32)).count (s.cluReg (k / 32) 0x854) 1))
    ∧ ∀ p i r, s.inbound p i = some r →
        (r.boundary = false → behind t.epoch (s.epochOf r.cluster) = true → s.landOn p i t = (s.setInbound p i r).count (s.cluReg r.cluster 0x854) 1)
        ∧ (s.flows r.cluster = true → r.marks = [] →
          (s.canPass r = true → behind (s.balHead r).epoch (s.epochOf r.cluster) = true →
            exec (.tokenArrival (.record p i)) s = .next ((s.setInbound p i { r with bal := r.bal.drop 1, released := r.released - 1 }).count (s.cluReg r.cluster 0x854) 1))
          ∧ (s.canPass r = false → r.boundary = false → r.land = t :: ts → behind t.epoch (s.epochOf r.cluster) = true →
            exec (.tokenArrival (.record p i)) s = .next ((s.setInbound p i { r with land := ts }).count (s.cluReg r.cluster 0x854) 1)))

/-- CREDIT_RETURN gives output queue qo a credit back while its loop holds fewer tokens than credits out. A token of a packet-bound output
queue is packed behind those of the packet that is not closed; PACKET_FORMED puts a closed packet, and PACKET_WAIT_TIMEOUT what is packed while
no token stands behind it, into the cluster's send buffer as one packet, once no mark to the endpoint waits ahead (R126, R133, R155).
A steering unit with a whole group at hand: STEER_ROUTE drops and counts a group that no STEER token heads, and sends the copies that a
STEER token's predicates call for; MERGE_ARRIVAL and MERGE_ORDERED put the chosen input's group, whole and in order, behind the tokens of
output 0 (R130 to R132). -/
def Obligations.CreditsPacketsAndGroups : Prop :=
  (∀ (s : State) (h qo : Nat),
    (s.inLoop h qo < ((s.core h).outQ qo).out →
      exec (.creditReturn h qo) s
        = .next (s.setCore h ((s.core h).setOutQ qo { (s.core h).outQ qo with out := ((s.core h).outQ qo).out - 1 })))
    ∧ ∀ eid, s.outDest h qo = .packets eid → s.flows (h / 32) = true →
      (∀ t ts, isMoverEid eid = false → ((s.core h).outQ qo).tokens = t :: ts → closedRun ((s.core h).outQ qo).pack = false →
        exec (.tokenArrival (.outQueue h qo)) s
          = .next ((s.setCore h ((s.core h).setOutQ qo { (s.core h).outQ qo with tokens := ts, pack := ((s.core h).outQ qo).pack ++ [t] })).stir (h / 32)))
      ∧ (((s.core h).outQ qo).pack ≠ [] → (∀ x ∈ (s.clu (h / 32)).marks, x.1 ≠ eid) →
        (let t := ((s.setCore h ((s.core h).setOutQ qo { (s.core h).outQ qo with pack := [] })).stir (h / 32)).setClu (h / 32)
            { s.clu (h / 32) with sendBuf := (s.clu (h / 32)).sendBuf ++ [packTokens eid (s.cluEid (h / 32)) ((s.core h).outQ qo).pack] }
         (((s.core h).outQ qo).tokens = [] → exec (.packetWaitTimeout h qo) s = .next t)
         ∧ (closedRun ((s.core h).outQ qo).pack = true → exec (.packetFormed h qo) s = .next t))))
  ∧ (∀ (s : State) (c u i : Nat) (t : Token) (rest tail : List Token), s.flows c = true →
    firstGroup false (((s.clu c).unit u).input i) = (t :: rest, true, tail) →
    (i = 0 → tget 0 (s.clu c).steerMode u = 1 → ((s.clu c).unit u).outputs = [] → tokenAlone t = false →
      (let y := { ((s.clu c).unit u).setInput 0 tail with order := orderPast 0 ((s.clu c).unit u).order }
       (t.kind ≠ kSteer → exec (.steerRoute c u) s = .next (((s.stir c).setClu c ((s.clu c).setUnit u y)).count (s.cluReg c 0x860) 1))
       ∧ (t.kind = kSteer →
          (let r := sendCopies (rest.length + 1) (steerCopies (fun j => (tget 0 (s.clu c).steerTbl (256 * u + j)).toNat) t rest) [] y
           exec (.steerRoute c u) s = .next (((s.stir c).setClu c ((s.clu c).setUnit u r.1)).count (s.cluReg c 0x860) r.2)))))
    ∧ (∀ n more, tget 0 (s.clu c).steerMode u = 2 → ((s.clu c).unit u).order = (n, i) :: more →
      exec (.mergeArrival c u) s = .next ((s.stir c).setClu c ((s.clu c).setUnit u
        { (((s.clu c).unit u).setInput i tail).setOutput 0 (((s.clu c).unit u).output 0 ++ (t :: rest).map fun x => (x, 0)) with order := more })))
    ∧ (∀ m ms, tget 0 (s.clu c).steerMode u = 3 → ((s.clu c).unit u).input 3 = m :: ms → m.kind = kSteer → tokenPay m 0 1 = i → i ≤ 2 →
      ∃ v, exec (.mergeOrdered c u) s = .next ((s.stir c).setClu c ((s.clu c).setUnit u v)) ∧ v.input 3 = ms ∧ v.input i = tail
        ∧ v.output 0 = ((s.clu c).unit u).output 0 ++ (t :: rest).map fun x => (x, 0)))

/-- STEP_RELEASE of a step whose conditions hold marks it released at the present cycle; STEP_END of a released step whose regions are all
done leaves the partition without a step and stops the step's cores; NOTICE_DEFER_TIMEOUT between steps takes note of the sentinel
counters without touching core or memory (R143, R144, R331, R463).
REGION_STALL of a region that holds a pending token and has made no progress for 2^20 counted fast cycles, in a partition that is not
frozen: every cluster of the region counts the stall, event 0x0203 names the clusters, the step ends with TIMEOUT and its traffic is cleared.
A region that has made progress since is left as it is (R141, R142). -/
def Obligations.StepsAndStalls : Prop :=
  (∀ (s : State) (p : Nat) (q : Part), s.part p = some q →
    (∀ st, q.step = some st → s.canRelease p q st = true →
      ∃ t q', exec (.stepRelease p) s = .next t ∧ t.part p = some q' ∧ q'.step = some { st with released := true, start := s.now }
        ∧ q'.lastRel = some s.now ∧ q'.stepCount = q.stepCount ∧ t.mem = s.mem)
    ∧ (∀ st, q.step = some st → st.released = true → q.freeze = .no →
      (∀ e ∈ s.stepRegions p st, s.regionDone q e.1 e.2 = true) →
      ∃ t q', exec (.stepEnd p) s = .next t ∧ t.part p = some q' ∧ q'.step = none ∧ q'.stepCount = q.stepCount
        ∧ ∀ h, h / 32 ∈ s.stepClusters p st → (t.core h).running = false)
    ∧ (q.step = none → ∃ t q', exec (.noticeDeferTimeout p) s = .next t ∧ t.part p = some q'
        ∧ tget 0 q'.snap 0x10400 = s.sentSum (q.clusters.map s.blk) 0x10 ∧ t.cores = s.cores ∧ t.mem = s.mem))
  ∧ (∀ (s : State) (rn : Nat) (r : Region) (q : Part), s.region rn = some r → s.part r.part = some q → r.act = none → q.freeze = .no →
    (0x100000 ≤ r.still → s.pendingIn q rn r = true →
      (let u := r.clusters.foldl (fun s c => s.count (s.cluReg c 0x868) 1) (s.modRegion rn fun r => { r with still := 0 })
       let v := u.record 0x0203 4 r.part rn onPanel (u.stallData r.clusters)
       runs (.regionStall rn) s ((v.endStep r.part stTimeout v.evr.seq.toNat).clearStep r.part [])))
    ∧ (r.still < 0x100000 → exec (.regionStall rn) s = .next s))

/-- FOLD_ADVANCE past an entry whose loop count is spent, with every core of its mask at rest: once the switches that the next entry needs may
go it is in force, each of its cores that runs another petal is to switch, and those that yielded from its petal resume; before that nothing
happens (R145, R146). A bouquet's followers switch with their leader (R71).
PETAL_SWITCH of a core whose engines are idle and whose rebound queues are empty, with their loops' credits back: in it, or in every core of
the bouquet that it leads, the new petal runs where it stood, accumulators and staging areas are cleared, and the petals' registers and the
input queues' tokens stay; other cores stay as they are (R49, R71, R146). QSAMP_SAMPLE of a cluster that samples into HBM of its partition
writes its 320 bytes at the ring's next place, and the sequence word (R158). -/
def Obligations.FoldsPetalsAndSamples : Prop :=
  (∀ (s : State) (c : Nat), s.flows c = true → (s.clu c).foldAt + 1 < (s.clu c).foldCount →
    (let e := (s.clu c).foldE (s.clu c).foldAt
     let n := (s.clu c).foldE ((s.clu c).foldAt + 1)
     (∀ k ∈ onesOf e.mask.toNat 32, ((s.core (c * 32 + k)).yielded = true ∨ (s.core (c * 32 + k)).running = false) ∧ (s.core (c * 32 + k)).switchTo = none) →
     (e.loopTo = 0xFF ∨ e.loopCnt ≤ tget 0 (s.clu c).foldLoops (s.clu c).foldAt) →
     (s.foldReady c ((s.clu c).foldAt + 1) = true →
       ∃ t, exec (.foldAdvance c) s = .next t ∧ (t.clu c).foldAt = (s.clu c).foldAt + 1
        ∧ (∀ k ∈ onesOf n.mask.toNat 32,
            ((s.core (c * 32 + k)).petal ≠ n.petal → s.follower (c * 32 + k) = false → (t.core (c * 32 + k)).switchTo = some n.petal)
            ∧ ((s.core (c * 32 + k)).petal = n.petal → (t.core (c * 32 + k)).yielded = false))
        ∧ t.mem = s.mem ∧ t.regs = s.regs)
     ∧ (s.foldReady c ((s.clu c).foldAt + 1) = false → exec (.foldAdvance c) s = .next s)))
  ∧ (∀ (s : State) (h c : Nat),
    (∀ p, (s.core h).switchTo = some p → (s.core h).yielded = false → s.flows (h / 32) = true → s.switchOk h p = true →
      ∃ t, exec (.petalSwitch h) s = .next t
        ∧ (∀ k ∈ s.groupOf h, (t.core k).petal = p ∧ (t.core k).petals = (s.core k).petals ∧ (t.core k).switchTo = none
            ∧ (t.core k).inq = (s.core k).inq
            ∧ (p ≠ (s.core k).petal → (∀ e, ((t.core k).engine e).acc = []) ∧ ∀ qo, ((t.core k).outQ qo).stage = 0))
        ∧ (∀ k, k ∉ s.groupOf h → t.core k = s.core k) ∧ t.mem = s.mem ∧ t.regs = s.regs)
    ∧ (s.field (s.cluReg c 0x844) 5 1 = 1 → ∀ p q, s.partOf c = some p → s.part p = some q →
      (let seq := ((s.reg (s.cluReg c 0x850)).toNat + 1) % 0x100000000
       let at_ := s.reg64 (s.cluReg c 0x848) % 0x1000000000000 + seq % 2 ^ s.field (s.cluReg c 0x844) 6 5 * 320
       q.ownsHbm at_ 320 = true →
       exec (.qsampSample c) s
         = .next (((s.poke at_ (s.sample320 c seq)).wroteStack at_ 320).setReg (s.cluReg c 0x850) (BitVec.ofNat 32 seq)))))

/-! ### Bulk movers (chapter 05) -/

/-- BM_DESCRIPTOR_ENQUEUE moves the payload of a DATA token from a queue bound to an image channel into the channel's queue while that
holds fewer than four; any other token there, and one for a host channel, is dropped and counted (R188).
BM_COMPLETION of a descriptor whose packets are all answered: the channel is at rest, DONE_COUNT one more, tag and status stand in the
channel's register, and the completion word is stored if the descriptor asks for it (R197). -/
def Obligations.MoverQueuesAndEnds : Prop :=
  (∀ (s : State) (h qo : Nat) (t : Token) (ts : List Token) (eid : BitVec 24), ((s.core h).outQ qo).tokens = t :: ts →
    s.outDest h qo = .packets eid → isMoverEid eid = true → s.flows (h / 32) = true → behind t.epoch (s.epochOf (h / 32)) = false →
    (let n := eid.toNat - 0xFFFFE0
     let u := s.setCore h ((s.core h).setOutQ qo { (s.core h).outQ qo with tokens := ts })
     let x := (s.clu (h / 32)).chan n
     (imageChan n = true → t.kind = kData → x.queue.length < 4 → exec (.bmDescriptorEnqueue h qo) s
        = .next (u.setClu (h / 32) ((s.clu (h / 32)).setChan n { x with queue := x.queue ++ [t.payload] })))
     ∧ ((imageChan n = false ∨ t.kind ≠ kData) → exec (.bmDescriptorEnqueue h qo) s = .next (u.count (s.cluReg (h / 32) 0x930) 1))))
  ∧ (∀ (s : State) (c ch : Nat) (r : BmRun), ((s.clu c).chan ch).run = some r → s.flows c = true → s.bmDone c ch r = true →
    (let n := ((s.clu c).chan ch).done + 1
     let a := s.cluReg c (0xA00 + ch * 16)
     let u := s.setClu c ((s.clu c).setChan ch { (s.clu c).chan ch with run := none, done := n })
     let v := (u.setField a 6 8 (bmf r.desc 17 0 8)).setField a 14 8 r.status
     (bmf r.desc 18 23 1 = 0 → exec (.bmCompletion c ch) s = .next v)
     ∧ (bmf r.desc 18 23 1 = 1 → bmDstRemote r.desc = false → runs (.bmCompletion c ch) s (v.store .mover (s.cluEid c)
          (sramBase c + bmf r.desc 18 0 20 * 8) (natLe 1 (bmf r.desc 17 0 8) ++ natLe 1 r.status ++ [1] ++ natLe 1 ch ++ natLe 4 n.toNat)))))

/-- A channel at rest takes the descriptor at the head of its queue when the command of its operation comes; one whose walk meets a die that is
being repaired waits (R36). One that fails the check of
R191 moves no byte, counts as a fault and waits for its completion with the status of the check; any other does its operation over the walk of
R190, local runs at once and remote ones as packets the flow takes. -/
def Obligations.MoverOperations : Prop :=
  ∀ (s : State) (c ch : Nat) (d : BitVec 512) (rest : List (BitVec 512)), ((s.clu c).chan ch).queue = d :: rest → ((s.clu c).chan ch).run = none →
    s.flows c = true →
    (s.bmHeld c d = true →
      ∀ i ∈ [Instr.copy c ch, .fill c ch, .crc32 c ch, .invalidate c ch, .contribDescriptor c ch], exec i s = .next s)
    ∧ (s.bmHeld c d = false → (let go := fun (r : BmRun) => s.setClu c ((s.clu c).setChan ch { (s.clu c).chan ch with queue := rest, run := some r })
     let u := go { desc := d }
     (∀ e ∈ [(Instr.copy c ch, opCopy), (.fill c ch, opFill), (.crc32 c ch, opCrc), (.invalidate c ch, opInval), (.contribDescriptor c ch, opContrib)],
        ∀ st, bmOp d = e.2 → bmCheck d = some st →
        exec e.1 s = .next ((go { desc := d, status := st, counted := true }).count (s.cluReg c 0x930) 1))
     ∧ (bmCheck d = none →
        (bmOp d = opCopy → bmDstRemote d = true → runs (.copy c ch) s
          ((u.modRun c ch fun r => { r with writes := (bmRuns d).flatMap fun x => bmCut x.2.toNat x.1.toNat (bmLen d) }).bmPump c ch))
        ∧ (bmOp d = opCopy → bmDstRemote d = false → bmSrcRemote d = false → bmOverlaps c d = false → runs (.copy c ch) s
          (((bmRuns d).foldl (fun s x =>
            let r := s.bmLoadAll c ch (bmSpans c (bmSrcLocal d) x.1.toNat (bmLen d)) (bmCached d)
            r.1.bmStoreAll c ch (bmSpans c (bmDstLocal d) x.2.toNat (bmLen d)) r.2) u).bmPump c ch))
        ∧ (bmOp d = opFill → bmDstRemote d = false → runs (.fill c ch) s
          (((bmRuns d).foldl (fun s x =>
            s.bmStoreAll c ch (bmSpans c (bmDstLocal d) x.2.toNat (bmLen d)) (bmPattern d x.2.toNat (bmLen d))) u).bmPump c ch))
        ∧ (bmOp d = opCrc → bmSrcRemote d = true → runs (.crc32 c ch) s
          ((u.modRun c ch fun r => { r with reads := bmReadPieces d (bmCached d && u.cacheMode c) }).bmPump c ch))
        ∧ (bmOp d = opInval → bmSrcLocal d = false → runs (.invalidate c ch) s
          (((bmRuns d).foldl (fun s x => s.cacheDrop c (if bmSrcRemote d then bmEid d else 0) x.1.toNat (bmLen d)) u).bmPump c ch))
        ∧ (bmOp d = opContrib → runs (.contribDescriptor c ch) s
          ((u.modRun c ch fun r => { r with writes := (List.zip (List.range (bmRuns d).length) (bmRuns d)).map fun e =>
              { remote := (bmSegment d + e.1) % 65536 + bmEtype d * 65536, size := alignUp (bmLen d) 32, len := bmLen d, loc := e.2.1.toNat } }).bmPump c ch)))))

/-- RESIDENT_AUDIT of a partition whose period has begun notes each DATA record that its CRC-32 still matches as clean at the present step
count, changes neither memory nor core, and counts the records' bytes; the pass after is due when the next period begins, and before
that the command finds nothing to do (R185). AUDIT_MISMATCH of a record that no longer matches is counted and recorded, and with a step
running the record is to be restored at the step's end (R186). -/
def Obligations.AuditOfResidentData : Prop :=
  ∀ (s : State) (p : Nat) (q : Part), s.part p = some q →
    (q.auditS ≠ 0 → q.auditAt ≤ s.now → ∃ t, exec (.residentAudit p) s = .next t ∧ t.mem = s.mem ∧ t.cores = s.cores
      ∧ ∃ q', t.part p = some q'
        ∧ q'.auditAt = q.auditAt + ((s.now - q.auditAt) / usec (q.auditS * 1000000) + 1) * usec (q.auditS * 1000000)
        ∧ q'.data = q.data.map fun d => if !s.auditSkips d.region q && s.dataHolds d then { d with clean := q.stepCount } else d)
    ∧ (s.now < q.auditAt → exec (.residentAudit p) s = .next s)
    ∧ (∀ rec d, q.data[rec]? = some d → s.dataHolds d = false → s.auditSkips d.region q = false → q.step.isSome = true → q.repairRec.contains rec = false →
      ∃ t q', exec (.auditMismatch p rec) s = .next t ∧ t.part p = some q' ∧ q'.repairRec = q.repairRec ++ [rec] ∧ t.mem = s.mem ∧ t.cores = s.cores)

/-! ### Stacks (chapter 06) -/

/-- PAGE_INIT, PAGE_FREE, PAGE_TRIM and APPEND of a page the partition owns, within their conditions, leave the entry that R218 says, resolved
first (R219), and answer OK with the new FILL; APPEND also writes the slots. A request whose condition fails is rejected and counted and
changes no entry but for the resolution. PASS, while one of the 16 units is free and the stack takes up passes, runs its pages and queues
its response (R224, R228 to R230).
PASS_RESPONSE: the first response that has credit sends its next packet, of class REPLY and with at most 62 tokens; one whose
endpoint is not resident in the requester's partition is dropped and counted The credit a response needs is the model's reading (log entry 45: DEDUCED) (R215, R225, R291). -/
def Obligations.PagesAndResponses : Prop :=
  (∀ (s u : State) (n c p : Nat) (req : List Token) (e : Pte), served s u n c p req → u.pageOf n p (reqOf req) = some e →
    (let h := reqOf req
     let w := u.setPte n h.ppn e
     let done := fun (e' : Pte) (v : State) => (v.setPte n h.ppn e').respondBare n (some p) h stOk e'.fill
     (h.op = 3 → kvFormat h.fmt = true → h.slot ≤ kvSlots h.fmt h.d → runs (.pageInit n c req) s
        (done { e with valid := true, fmt := h.fmt, hdim := h.hdim, fill := h.slot, pend := false, poison := false } w))
     ∧ (h.op = 4 → runs (.pageFree n c req) s (done { e with valid := false, pend := false, poison := false } w))
     ∧ (h.op = 5 → e.valid = true → h.slot ≤ e.fill → runs (.pageTrim n c req) s (done (e.change (w.partStep n p) h.slot) w))
     ∧ (h.op = 5 → (e.valid = false ∨ e.fill < h.slot) → runs (.pageTrim n c req) s ((w.rejectPage n p).respondBare n (some p) h stFault e.fill))
     ∧ (h.op = 2 → e.valid = true → e.hdim = h.hdim → h.slot = e.fill → h.slot + h.npos ≤ kvSlots e.fmt h.d → runs (.append n c req) s
        (done (e.change (w.partStep n p) (e.fill + h.npos)) (w.appendSlots n h e req)))
     ∧ (h.op = 1 → s.stackFenced n c = false → s.field pwrBase 3 1 = 0 → s.field (sbdBase n + 4) 4 3 ≠ 4 →
        ((s.stack n).replies.filter fun r => r.pass).length < 16 → runs (.pass n c req) s (u.runPass n p h req))))
  ∧ (∀ (s : State) (n : Nat) (r : Reply), (s.stack n).replies.find? (fun r => s.replyCredit n r) = some r →
    (s.replyTo r = none → exec (.passResponse n) s
      = .next ((s.setStack n { s.stack n with replies := (s.stack n).replies.erase r }).count (sbdBase n + 0x70) 1))
    ∧ (s.replyTo r ≠ none →
      (let run := packetRun 62 r.tokens
       let left := { r with tokens := r.tokens.drop run.length, begun := true }
       let others := if left.tokens = [] then (s.stack n).replies.erase r else (s.stack n).replies.map fun y => if y = r then left else y
       runs (.passResponse n) s ((s.setStack n { s.stack n with replies := others }).launch (agStack + n)
          ({ tokensPacket r.eid (BitVec.ofNat 24 (0xFFFFC0 + n)) run with cls := 2 }).sealed))))

/-- What befalls a stack: a sweep completes every discard; a discard that is due first ends the partition's passes, and once its page requests
are applied and the last sweep has passed is entered at all stacks and no longer due; an
uncorrectable DRAM error stands until the unit is read; a page-table error invalidates and poisons its entry; a corrected row is counted;
a temperature sample that stays in its row moves only the readings; a retrain that the training monitor calls for begins, and a good one is
recorded and gives the channel back; a lost stack reads as zeros, its page table
is empty, other windows keep their bytes (R212, R217, R219, R220, R230, R231, R233). -/
def Obligations.StackEvents : Prop :=
  ∀ (s : State) (n : Nat), n < 24 →
    (∃ t, exec (.pageTableSweep n) s = .next t ∧ t.mem = s.mem ∧ t.cores = s.cores ∧ ∀ p, p < 64 → t.field (sbdBase n + 0x200 + 4 * p) 18 1 = 0)
    ∧ (∀ p q, s.part p = some q → q.discardDue = true →
        (let u := (List.range 24).foldl (fun s k => s.endPasses k p q.clusters) s
         (u.requestsFly q = true → runs (.stackDiscard p) s u)
         ∧ (u.requestsFly q = false → (∀ k, k < 24 → s.field (sbdBase k + 0x200 + 4 * p) 18 1 ≠ 1) →
            ∃ t, exec (.stackDiscard p) s = .next t ∧ t.part p = some { q with discardDue := false } ∧ t.mem = s.mem ∧ t.cores = s.cores)))
    ∧ (∀ o : BitVec 36, o.toNat < s.stackBytes → s.stackLost n = false → (s.stack n).ueUnits.contains (o.toNat / 64 * 64) = false →
        exec (.dramUe n o) s = .next (s.setStack n { s.stack n with ueUnits := (s.stack n).ueUnits ++ [o.toNat / 64 * 64] }))
    ∧ (∀ page, page < s.stackPages → runs (.pageTableUe n page) s (s.pageError n page))
    ∧ (∀ row, row < 16384 → s.stackLost n = false → (∀ u ∈ (s.stack n).ueUnits, (dramPlace u).row ≠ row) →
        exec (.patrolScrub n row true) s = .next (s.count (sbdBase n + 0x40) 1))
    ∧ (∀ ts, s.stackLost n = false → (s.stack n).cooled (ts.foldl Nat.max 0) s.now = ((s.stack n).heat, (s.stack n).coolAt) → (s.stack n).heat ≠ 6 →
        ∃ t, exec (.stackTempSample n ts) s = .next t ∧ t.stack n = s.stack n ∧ t.field (sbdBase n + 8) 0 8 = ts.foldl Nat.max 0 % 256
          ∧ t.mem = s.mem ∧ t.evr = s.evr)
    ∧ (∀ ch ok, ch < 32 → s.stackLost n = false → s.field (sbdBase n + 0x100 + 4 * ch) 0 2 ≠ 2 → (s.stack n).retrain = none →
        (let u := ((s.setField (sbdBase n + 4) 8 1 1).setField (sbdBase n + 0x100 + 4 * ch) 0 2 1).count (sbdBase n + 0x6C) 1
         runs (.channelRetrain n ch ok) s ((u.setField (sbdBase n + 0x100 + 4 * ch) 2 6
            (satAdd 6 (s.field (sbdBase n + 0x100 + 4 * ch) 2 6) 1)).setStack n { s.stack n with retrain := some (ch, none) })))
    ∧ (∀ ch, (s.stack n).retrain = some (ch, none) → (s.stack n).retrainDue = [] →
        (let u := s.record 0x0407 2 noPart 0 (onStack n ch) (natLe 1 0)
         runs (.channelRetrain n ch true) s (((u.setField (sbdBase n + 4) 8 1 0).setField (sbdBase n + 0x100 + 4 * ch) 0 2 0).setStack n
            { s.stack n with retrain := none })))
    ∧ (∀ cause, cause < 4 → s.stackLost n = false → ∃ t, exec (.stackLost n cause) s = .next t ∧ t.stackLost n = true ∧ (t.stack n).pte = []
        ∧ (∀ a, memByte t.mem a = if stackOf a = n then 0 else memByte s.mem a) ∧ t.cores = s.cores)

/-- On the VH1-P156-E48 stack offsets from 0xC_0000_0000 on are unmapped, and a page number from 786,432 on is no partition's page (R210). -/
def Obligations.SmallerStacksEndEarlier : Prop :=
  ∀ s : State, s.hw.e48 = true →
    (∀ n off, n < 24 → 0xC00000000 ≤ off → off < 0x1000000000 → s.mapped (hbmBase n + off) = false)
    ∧ ∀ n p (h : ReqHdr), 786432 ≤ h.ppn → s.pageOf n p h = none

/-! ### Fabric and links (chapters 07 and 08) -/

/-- PACKET_SEND first lets the marks that have credit into the send buffer, and then takes the first packet that may leave out of it: a reply is
launched as it is; any other takes the next SEQ of its flow and is kept there until it is answered (R155, R246, R247, R276). -/
def Obligations.PacketsLeaveTheSendBuffer : Prop :=
  ∀ (s v : State) (c : Nat) (p : Packet), v = s.sendWaiting c →
    (v.clu c).sendBuf.find? (fun p => (p.isReply && !v.packetsHeld) || v.canSend c p.key) = some p →
    (let u := v.setClu c { v.clu c with sendBuf := (v.clu c).sendBuf.erase p }
     let f := (v.sendFlow p.key).getD { key := p.key }
     let q := ({ p with seq := f.next }).sealed
     (p.isReply = true → runs (.packetSend c) s (u.launch c p))
     ∧ (p.isReply = false → ∃ t g, exec (.packetSend c) s = .next t ∧ t.sendFlow p.key = some g ∧ g.next = f.next + 1
        ∧ g.unack = f.unack ++ [{ pkt := q }] ∧ (t.clu c).sendBuf = (v.clu c).sendBuf.erase p ∧ t.mem = v.mem ∧ t.cores = v.cores))

/-- With each word that arrives the sender at the far end has sent one. A word whose check fails is owed again; a good one in order is accepted, its
units go to their places, and words that waited behind it follow; one behind a failed word waits; a good word that a full late queue stops is a slip.
A resend that the receiver has asked for is counted there, and the sender sends the failed word again, with REPLAY set; the second in a frame is a
slip, and more than 64 in a millisecond take the seam offline. LATE_UNIT_SEND over a seam takes the lane's first late unit out of the queue into the
lane's first free place and counts it (R252 to R255).
SEAM_RETRAIN takes a seam that runs offline, with nothing left to send at its ends but late units; the next ends the retrain, and one that the
spares can serve leaves both ends running and the replaced wires counted at the port. SEAM_HALF_WIDTH leaves the seam one of the half-width seams.
An uncorrectable error replays a slot table's partition, is recorded for an exit entry, drops the packet of a bad route state
(R255 to R257). -/
def Obligations.SeamsCarryAndRetrain : Prop :=
  (∀ (s : State) (p : PortRef) (w : Bytes) (lane : Nat),
    (s.seamRuns p = true →
      (let u := (s.peer p).elim s fun o => s.sendWord o
       (wordOk w = false → runs (.seamWord p w) s (u.setSeam p { u.seam p with nak := true }))
       ∧ (wordOk w = true → s.lateFull p w = true → runs (.seamWord p w) s (s.slip p))
       ∧ (wordOk w = true → s.lateFull p w = false → wordSeq w = (u.seam p).expect →
          runs (.seamWord p w) s (((u.acceptWord p w).drainWords p 8).settleNet 16).settleSlots)
       ∧ (wordOk w = true → s.lateFull p w = false → wordSeq w ≠ (u.seam p).expect → (u.seam p).nak = true →
          (∀ e ∈ (u.seam p).ahead, e.1 ≠ (wordSeq w).toNat) →
          runs (.seamWord p w) s (u.setSeam p { u.seam p with ahead := (u.seam p).ahead ++ [((wordSeq w).toNat, w)] })))
      ∧ ∀ o, s.peer p = some o → (s.seam p).nak = true →
          (let x := s.seam p
           let recent := s.now :: x.recent.filter fun t => decide (s.now < t + usec 1000)
           let u := (s.setSeam p { x with nak := false, resends := x.resends + 1, recent := recent }).count (portReg p 0x28) 1
           let v := u.setSeam o { u.seam o with again := (((u.seam o).sent.find? fun w => decide (wordSeq w = x.expect)).map replayed) }
           recent.length ≤ 64 → (x.resends ≠ 1 → runs (.seamResend p) s v) ∧ (x.resends = 1 → runs (.seamResend p) s (v.slip p))))
    ∧ ∀ u, (s.seam p).late.find? (fun u => decide (unitLane u = lane)) = some u → p.onSeam = true → (s.seam p).offline = false →
        (let v := ((s.setSeam p { s.seam p with late := (s.seam p).late.erase u }).noteLate p).count (portReg p 0x30) 1
         runs (.lateUnitSend p lane) s (v.setSeam p { v.seam p with
           out := (v.seam p).out ++ [((s.seam p).freePlace s.frameLen lane (unitCirc u), lane, withLane u 0)] })))
  ∧ (∀ (s : State) (p : PortRef) (w c e : Nat),
    (s.seamRuns p = true → (s.seam p).offline = false →
      ∃ t, exec (.seamRetrain p w) s = .next t ∧ ∀ q ∈ s.ends p, (t.seam q).offline = true ∧ (t.seam q).out = [])
    ∧ ((s.seam p).offline = true → s.replaced p + (onesOf w 64).length ≤ 64 →
      ∃ t, exec (.seamRetrain p w) s = .next t ∧ t.replaced p = s.replaced p + (onesOf w 64).length
        ∧ ∀ q ∈ s.ends p, (t.seam q).offline = false)
    ∧ (s.seamRuns p = true → ∃ t, exec (.seamHalfWidth p) s = .next t ∧ ∃ q ∈ s.ends p, q ∈ t.sparing.halfSeams)
    ∧ (s.blkCluster p.blk = some c → runs (.fabricTableUe p .slot e) s (s.slotError c e)
        ∧ runs (.fabricTableUe p .exit e) s (s.record 0x0506 2 noPart 0 (onSite (s.blk c / 4) (quadOf c)) (u32 e))
        ∧ ∀ m, (s.moving.filter fun m => m.legs.any fun l => decide (l.key / 5 = s.blk c))[e]? = some m →
          runs (.fabricTableUe p .route e) s (({ s with moving := s.moving.erase m }).count (s.fabReg c 0x014) 1)))

/-- FLIT_RECEIVE at a port that trains or runs: a flit that FEC or CRC64 refuses is discarded, counted and asked for again; otherwise its
corrected symbols are counted, ACKSEQ and NAK act, and a DATA flit in FSEQ order joins its packet, one received before is discarded, and one past a
gap is discarded and asked for. LINK_REPLAY sends again what the peer asked for, and past 1,000 in 1 ms starts a retrain (R268, R270, R272).
CREDIT_FLIT takes over the eight counts of freed flits and the shared allowance, and sending goes on. TRAIN_FLIT is kept with the peer's
epoch, and starts the retrain of a running port. LINK_RETRAIN of a port that is not fenced, whose first attempt agrees, leaves the port running at the
width and the lanes agreed on, with no failed attempt; a retrain that starts with it advances the width epoch (R270, R304 to R306). -/
def Obligations.LinksReplayAndTrain : Prop :=
  (∀ (s : State) (port : Nat) (flit : Bytes), s.native port = true →
    (s.field (linkReg port 0) 0 2 ≠ 0 → s.field (linkReg port 0) 0 2 ≠ 3 → flit.length = 256 →
      (let bad := fun (u : State) => (u.count (linkReg port 0x20) 1).setPort port { u.port port with nak := true }
       (fecCorrect flit = none → runs (.flitReceive port flit) s (bad s))
       ∧ ∀ f n, fecCorrect flit = some (f, n) →
        (let u := s.noteFec port n
         let h := fld f 0 4
         let v := (u.setPort port ((u.port port).ackTo (BitVec.ofNat 12 (bits h 14 12)) (bitOf h 26))).pumpLink port
         let q := BitVec.ofNat 12 (bits h 2 12)
         (crc64 (f.take 236) ≠ fld f 236 8 → runs (.flitReceive port flit) s (bad u))
         ∧ (crc64 (f.take 236) = fld f 236 8 → bits h 0 2 = 1 →
            (q = (v.port port).rxSeq + 1 → runs (.flitReceive port flit) s (v.dataIn port f))
            ∧ (q ≠ (v.port port).rxSeq + 1 → ((v.port port).rxSeq - q).toNat < 2048 → runs (.flitReceive port flit) s v)
            ∧ (q ≠ (v.port port).rxSeq + 1 → 2048 ≤ ((v.port port).rxSeq - q).toNat →
                runs (.flitReceive port flit) s (v.setPort port { v.port port with nak := true }))))))
    ∧ (s.field (linkReg port 0) 0 2 = 1 → (s.port port).resend ≠ [] →
      (let recent := s.now :: (s.port port).replays.filter fun t => decide (s.now < t + usec 1000)
       let u := (s.count (linkReg port 0x24) 1).count64 (linkReg port 8) (s.port port).resend.length
       (recent.length ≤ 1000 → runs (.linkReplay port) s
          ((s.port port).resend.foldl (fun s f => s.drive port f) (u.setPort port { s.port port with resend := [], replays := recent })))
       ∧ (1000 < recent.length → runs (.linkReplay port) s ((u.setPort port { s.port port with resend := [], replays := [] }).startTraining port)))))
  ∧ (∀ (s : State) (port : Nat) (b : Bytes), s.native port = true →
    (24 ≤ b.length → byteAt b 0 = 1 → runs (.creditFlit port b) s
      ((s.setPort port { s.port port with
          freed := (List.range 8).foldl (fun t v => tset 0 t v (BitVec.ofNat 16 (fld b (4 + 2 * v) 2))) (s.port port).freed,
          shared := BitVec.ofNat 32 (fld b 20 4) }).pumpLink port))
    ∧ (5 ≤ b.length → byteAt b 0 = 2 → ∃ t, exec (.trainFlit port b) s = .next t ∧ (t.port port).train = some (BitVec.ofNat 32 (fld b 1 4))
        ∧ t.field (linkReg port 0) 22 8 = byteAt b 1 % 256
        ∧ t.field (linkReg port 0) 0 2 = (if s.field (linkReg port 0) 0 2 = 1 then 2 else s.field (linkReg port 0) 0 2) ∧ t.mem = s.mem)
    ∧ ∀ (ok : BitVec 8) (p : BitVec 8 × BitVec 8) rest mine w, s.field (linkReg port 0) 0 2 ≠ 3 →
        (s.field (linkReg port 0) 0 2 = 2 → s.epochsMatch port = true) → proposal ok.toNat = some mine →
        agreed mine p.1.toNat p.2.toNat = some w →
        ∃ t, exec (.linkRetrain port ok (some p :: rest)) s = .next t ∧ t.field (linkReg port 0) 0 2 = 1 ∧ t.field (linkReg port 0) 2 4 = w.1
          ∧ t.field (linkReg port 0) 6 8 = w.2 ∧ t.field (linkReg port 0) 30 2 = 0
          ∧ t.field (linkReg port 0) 14 8 = (if s.field (linkReg port 0) 0 2 = 2 then s.field (linkReg port 0) 14 8
              else (s.field (linkReg port 0) 14 8 + 1) % 256))

/-- LINK_PACKET_RECEIVE of a packet that waits at the die frees its input buffer and checks it, and one that comes from outside is checked: a bad one
is dropped and counted; one whose endpoint entry is valid and not fenced enters this panel if the entry is local, or joins the staging of the port it
names; while there is no room for it there, one that waits goes on waiting (R271, R274, R283, R284, R292). -/
def Obligations.LinkDieResolves : Prop :=
  ∀ (s : State) (die : Nat) (p : Packet), die < 6 → s.linkLost die = false →
    (∀ m, s.moving.find? (fun m => decide (m.pkt = p) && m.waitsAt die) = some m → packetSound p = true → s.dieReady die p = false →
      exec (.linkPacketReceive die p) s = .next s)
    ∧ ∀ u since, ((∃ m, s.moving.find? (fun m => decide (m.pkt = p) && m.waitsAt die) = some m ∧ m.src ≠ agGleryn
          ∧ u = ({ s with moving := s.moving.erase m }).freeInput m ∧ since = m.since)
        ∨ (s.moving.find? (fun m => decide (m.pkt = p) && m.waitsAt die) = none ∧ s.underWay p = false ∧ u = s ∧ since = s.now)) →
      (let e := u.eptEntry p.dest
       (packetSound p = false → runs (.linkPacketReceive die p) s (u.count (lnkBase die + 0x10) 1))
       ∧ (packetSound p = true → s.dieReady die p = true → p.dest ≠ 0 → p.dest.toNat < 0xFF0000 → bitOf e 15 = true → bitOf e 14 = false →
          p.mcast = false →
          (bits e 12 2 = 0 → p.cls ≠ 3 → runs (.linkPacketReceive die p) s (u.enterPanel die p))
          ∧ (bits e 12 2 = 1 → bits e 6 6 < 36 → runs (.linkPacketReceive die p) s (u.egress die (bits e 6 6) (bits e 4 2) none since p)))
       ∧ (packetSound p = true → s.dieReady die p = true → (p.dest = 0 ∨ 0xFF0000 ≤ p.dest.toNat) →
          runs (.linkPacketReceive die p) s (u.count (lnkBase die + 0x14) 1)))

/-- A request (WRITE, READ, MGMT, TOKENS, RELAY) that has come to agent a, which refuses it on no ground and holds no access of it: a new packet advances its flow, is
acknowledged, and is delivered at once, unless it is fenced and a lower SEQ is missing, when the reorder store keeps it if it has room; a
duplicate is not delivered again, except a READ or an MGMT; a new flow beyond the agent's receive flows is answered with NACK BUSY
(R276, R277, R280). -/
def Obligations.RequestsAreReceived : Prop :=
  ∀ (s : State) (p : Packet) (a : Nat), ∀ c ∈ [(Instr.write p, 0x01), (.read p, 0x02), (.mgmt p, 0x03), (.tokens p, 0x10), (.relay p, 0x11)],
    p.opcode.toNat = c.2 → s.underWay p = false → s.stackFull p = false → s.accessHeld p = false → p.cls ≠ 2 →
    (let u := s.arrives p
     let f := (u.recvFlow p.key).getD { key := p.key, e := p.seq }
     let g := ({ f with seen := p.seq.toNat :: f.seen, used := u.now }).advance 1025
     u.agentOf p.dest = some a → u.absorbing p.dest = none → u.refusal a p (s.passedTable p) = none →
     ((u.recvFlow p.key).isSome = true ∨ u.recvCount a < recvLimit a →
       (f.isNew p.seq = true →
         (p.fence = false ∨ 1024 ≤ g.ahead p.seq →
           runs c.1 s ((((u.setRecv g).ackPacket a p).deliver a p).flush p.key (fun s q => s.deliver a q) 64))
         ∧ (p.fence = true → g.ahead p.seq < 1024 → u.stored a < storeLimit a →
           runs c.1 s ((u.setRecv { g with store := g.store ++ [p] }).ackPacket a p)))
       ∧ (f.isNew p.seq = false →
         (let d := (if a < 576 then u.count (u.fabReg a 0x044) 1 else u).setRecv { f with used := u.now }
          runs c.1 s (if p.opcode = 0x02 ∨ p.opcode = 0x03 then d.deliver a p else d.ackPacket a p))))
     ∧ (u.recvFlow p.key = none → recvLimit a ≤ u.recvCount a →
         runs c.1 s ((if a < 576 then u.count (u.fabReg a 0x050) 1 else u).launch a (nackOf p 2))))

/-- Answers that a partition does not absorb meet the packet they answer: an ACK of one packet, or a COLL_ACK OK, ends it with OK; a NACK, or
a COLL_ACK of another status, ends it with that status, BUSY only marks it for a resend; READ_DATA fills its channel's piece first; CREDIT lowers
the credits out of the queue and of the steering outputs bound to its sender, never raises them, and tokens that waited for them leave
(R277, R278, R281). -/
def Obligations.AnswersSettlePackets : Prop :=
  ∀ (s u : State) (p : Packet), u = s.arrives p → s.underWay p = false → u.absorbing p.dest = none →
    (∀ key w, (p.opcode.toNat = 0x20 → p.addr = 0 → u.awaiting p.dest p.src [0, 1] p.seq = some (key, w) → w.pkt.opcode ≠ 0x02 →
        w.pkt.opcode ≠ 0x03 → w.pkt.mcast = false → runs (.ack p) s (u.settle key w stOk))
      ∧ (p.opcode.toNat = 0x21 → u.awaiting p.dest p.src [0, 1] p.seq = some (key, w) → w.pkt.mcast = false →
        runs (.nack p) s (if bits p.addr.toNat 0 8 = stBusy then u.setUnacked key w { w with busy := true }
          else u.settle key w (bits p.addr.toNat 0 8)))
      ∧ (p.opcode.toNat = 0x32 → u.awaiting p.dest p.src [3] p.seq = some (key, w) → w.pkt.mcast = false →
        runs (.collAck p) s (if bits p.addr.toNat 0 8 = stBusy then u.setUnacked key w { w with busy := true }
          else u.settle key w (bits p.addr.toNat 0 8)))
      ∧ (∀ c ch r x, p.opcode.toNat = 0x22 → u.awaiting p.dest p.src [0] p.seq = some (key, w) → w.pkt.opcode = 0x02 → u.clusterOfEid p.dest = some c →
        w.chan = some ch → ((u.clu c).chan ch).run = some r → r.reads.find? (fun y => decide (y.seq = some p.seq) && y.data.isNone) = some x →
        x.line = false → runs (.readData p) s ((u.modRun c ch fun r => { r with
          reads := r.reads.map fun y => if y = x then { y with data := some (padTo x.size p.payload) } else y }).settle key w stOk)))
    ∧ (∀ c h qo, p.opcode.toNat = 0x23 → u.clusterOfEid p.dest = some c → u.boundTo c p.src = [(h, qo)] →
        (let o := (u.core h).outQ qo
         let v := u.setCore h ((u.core h).setOutQ qo { o with out := Nat.min o.out (o.total - BitVec.ofNat 32 p.addr.toNat).toNat })
         runs (.credit p) s ((v.setClu c { v.clu c with steerLoops := (v.clu c).steerLoops.map fun x =>
          if x.eid = p.src then { x with out := Nat.min x.out (x.total - BitVec.ofNat 32 p.addr.toNat).toNat } else x }).sendWaiting c)))

/-- MC_COUNT tells the source's flow the group's members; MGMT_REPLY to a relayed command writes its output to the host and ends the command
with the reply's completion; CONTRIB, and a RESULT for a context, that is new and fits its segment is acknowledged with OK, which is noted, and
combined
(R290, R298, R299, R343). -/
def Obligations.GroupsAndContexts : Prop :=
  ∀ (s u : State) (p : Packet), u = s.arrives p → s.underWay p = false →
    (∀ f, p.opcode.toNat = 0x25 → u.absorbing p.dest = none → u.sendFlow { src := p.dest, dest := p.src, cls := 0 } = some f →
      u.sendFlow { src := p.dest, dest := p.src, cls := 3 } = none → f.unack = [] →
      ∃ t, exec (.mcCount p) s = .next t ∧ t.sendFlow { src := p.dest, dest := p.src, cls := 0 } = some { f with members := some (bits p.addr.toNat 0 16) }
        ∧ t.mem = u.mem ∧ t.cores = u.cores)
    ∧ (∀ id c, p.opcode.toNat = 0x24 → u.absorbing p.dest = none → u.awaiting p.dest p.src [0] p.seq = none →
        u.host.started.find? (fun e => decide (e.2.relayed = some (BitVec.ofNat 32 (fld p.payload 32 4)))) = some (id, c) →
        c.opcode ≠ 0x22 → c.opcode ≠ 0x23 → c.reply = none →
        (let out := slice p.payload 64 (fld p.payload 36 4)
         runs (.mgmtReply p) s ((match c.origin with | .ring _ => if out = [] then u else u.hostWrite c.hostAddr out | _ => u).finishAs id (completionOf p.payload))))
    ∧ ∀ k x, u.ctxOf p.dest = some k → u.ctx k = some x → x.answer p = stOk →
        (let v := u.setRecv (({ (u.recvFlow p.key).getD { key := p.key, e := p.seq } with
            seen := p.seq.toNat :: ((u.recvFlow p.key).getD { key := p.key, e := p.seq }).seen, used := u.now }).advance 1025)
         ((u.recvFlow p.key).isSome = true ∨ u.recvCount (agEngine + k / 16) < recvLimit (agEngine + k / 16)) →
         ((u.recvFlow p.key).getD { key := p.key, e := p.seq }).isNew p.seq = true → p.fence = false →
         ∀ i ∈ [(Instr.contrib p, 0x30), (.result p, 0x31)], p.opcode.toNat = i.2 →
          (let w := (v.noteAnswer p.key p.seq stOk).launch (agEngine + k / 16) (collAckOf p stOk)
           runs i.1 s (((w.setCtx k (x.take p w.now)).collPump k).flush p.key (fun s q => (s.setCtx k (x.take q s.now)).collPump k) 64)))

/-- The timers of the end-to-end agents and the engines: RESEND_TIMEOUT sends again and counts up to seven resends, then ends the packet with
TIMEOUT, or PARTIAL after some ACK of a multicast; MCAST_NACK_WAIT_END ends the fenced ones with PARTIAL; FLOW_EXPIRY frees a flow that has been
idle for G; ENDPOINT_CREDIT_TIMER sends the cumulative count of pops; HOLD_EXPIRY discards and counts a packet that has been on the panel for longer
than HOLD and waits at a link die; COLL_SEGMENT_TIMEOUT of a segment short of its count past TIMEOUT fences the context, lowers the count it expects
to the segment's, and completes what has that count (R276, R278, R281, R290, R294, R301). -/
def Obligations.TimersAct : Prop :=
  ∀ (s : State) (f : FlowKey),
    (∀ g q u, s.sendFlow f = some g → g.unack.find? (fun u => decide (u.pkt.seq = q)) = some u →
      runs (.resendTimeout f q) s (
        if u.busy then s.resend f u { u with busy := false }
        else if u.resends < 7 then s.resend f u { u with resends := u.resends + 1 }
        else s.settle f u (if u.pkt.mcast && decide (0 < u.acks) then stPartial else stTimeout)))
    ∧ (∀ g, s.sendFlow f = some g →
        runs (.mcastNackWaitEnd f) s ((g.unack.filter fun u => u.fenced).foldl (fun s u => s.settle f u stPartial) s))
    ∧ (∃ t, exec (.flowExpiry f true) s = .next t ∧ (∀ g ∈ t.sends, g.key = f → g.unack ≠ [] ∨ s.now < g.used + usec s.flowLife)
        ∧ (∀ g ∈ s.sends, g.key ≠ f ∨ g.unack ≠ [] ∨ s.now < g.used + usec s.flowLife → g ∈ t.sends)
        ∧ t.recvs = s.recvs ∧ t.mem = s.mem)
    ∧ (∃ t, exec (.flowExpiry f false) s = .next t ∧ (∀ g ∈ t.recvs, g.key = f → g.store ≠ [] ∨ s.now < g.used + usec s.flowLife)
        ∧ (∀ g ∈ s.recvs, g.key ≠ f ∨ g.store ≠ [] ∨ s.now < g.used + usec s.flowLife → g ∈ t.recvs)
        ∧ t.sends = s.sends ∧ t.mem = s.mem)
    ∧ (∀ eid p i r, s.endpointRec eid = some (p, i) → s.inbound p i = some r → r.producer ≠ 0 → (r.pops ≠ r.credited ∨ r.land = []) →
        runs (.endpointCreditTimer eid) s ((s.setInbound p i { r with credited := r.pops }).launch r.cluster
          (mkPacket 2 0x23 r.producer eid r.pops.toNat false [])))
    ∧ (∀ die, (let late := fun (since : Nat) => decide (since + usec s.holdTime < s.now)
        let staged := ((List.range 6).map (die * 6 + ·)).findSome? fun q => ((s.port q).staged.find? fun e => decide (e.sent = 0) && late e.since).map fun e => (q, e)
        (∀ q e, staged = some (q, e) →
          runs (.holdExpiry die) s ((s.setPort q { s.port q with staged := (s.port q).staged.erase e }).count (lnkBase die + 0x24) 1))
        ∧ (∀ m, staged = none → s.moving.find? (fun m => m.waitsAt die && late m.since) = some m →
          runs (.holdExpiry die) s ((({ s with moving := s.moving.erase m }).freeInput m).count (lnkBase die + 0x24) 1))
        ∧ (staged = none → s.moving.find? (fun m => m.waitsAt die && late m.since) = none → exec (.holdExpiry die) s = .next s)))
    ∧ (∀ die engine ctx slot x g, s.ctx ((die * 4 + engine) * 16 + ctx) = some x → tget none x.live slot = some g →
        (let k := (die * 4 + engine) * 16 + ctx
         (x.expect ≤ g.count ∨ s.now < g.since + usec x.timeout → exec (.collSegmentTimeout die engine ctx slot) s = .next s)
         ∧ (g.count < x.expect → g.since + usec x.timeout ≤ s.now → runs (.collSegmentTimeout die engine ctx slot) s
            (((s.setCtx k { x with expect := g.count, present := some g.srcs }).fenceCtx k g.seg).collPump k))))

/-- Laser modules, link dies and cables: a failed module goes out of service, its good partner carries the whole load, and without one the six
ports stop; an accepted module in an empty bay shares the load again, another is only recorded; a lost link die loses its contexts and
carries nothing; an active cable that is accepted is powered, a pulled one stops its port (R264, R265, R309, R451, R455, R460, R461). -/
def Obligations.LightAndCables : Prop :=
  ∀ (s : State) (bay port die : Nat) (part : Bytes),
    (bay < 10 →
      (let a := laserReg bay
       let b := laserReg (bay / 2 * 2 + (1 - bay % 2))
       (∀ wd, bitOf (s.reg a).toNat 0 = true →
        (let v := if wd then (s.setField a 0 1 0).setField a 2 1 0 else s
         let w := (v.setField a 1 1 0).setField a 3 1 0
         runs (.laserModuleFail bay wd) s (((if bitOf (w.reg b).toNat 1 then w.setField b 3 1 1
            else (List.range 6).foldl (fun s j => s.failPort ((bay / 2 + 1) * 6 + j)) w).record 0x0601 3 noPart 0 (onBay bay) []).refreshState)))
       ∧ (bitOf (s.reg a).toNat 0 = false →
        (let v := (s.setField a 0 1 1).setField a 2 1 0
         (partIs part "VH1-LM-O13" = false → runs (.laserModuleInsert bay part) s (v.record 0x0605 3 noPart 0 (onBay bay) (padTo 16 part)))
         ∧ (partIs part "VH1-LM-O13" = true →
            (let w := (v.setField a 1 1 1).moduleHours bay
             runs (.laserModuleInsert bay part) s
              (if bitOf (w.reg b).toNat 1 then (w.setField a 3 1 0).setField b 3 1 0 else w.setField a 3 1 1).refreshState))))))
    ∧ (die < 6 → s.linkLost die = false → ∃ t, exec (.linkDieLost die) s = .next t ∧ t.linkLost die = true ∧ (∀ e ∈ t.ctxs, e.1 / 64 ≠ die)
        ∧ (∀ d, d ≠ die → t.linkLost d = s.linkLost d) ∧ t.mem = s.mem ∧ t.cores = s.cores)
    ∧ (port < 6 →
        (partIs part "VH1-CBL-A20" = true → runs (.cablePresentChange port true part) s (s.setPort port { s.port port with cable := true, cablePwr := true }))
        ∧ (let v := s.setPort port { s.port port with cable := false, cablePwr := false }
           runs (.cablePresentChange port false part) s (if s.isBridge && decide (port < 2) then v.setPcie false else v.failPort port)))

/-! ### Panel (chapters 01, 09, 11 to 13) -/

/-- Logical die (x, y) has y = rod; its x is its rank, counted from the west, among the assigned sites of the rod; the index y × 12 + x runs from 0 to 143, and
every index is some site's (R26). -/
def Obligations.LogicalDiesAreRanks : Prop :=
  ∀ s : State, (∀ rod, rod < 12 → s.unassigned rod < 13) →
    (∀ site x y, site < 156 → s.siteDie site = some (x, y) →
      y = site / 13 ∧ x = ((List.range (site % 13)).filter fun k => (s.siteDie (y * 13 + k)).isSome).length ∧ y * 12 + x < 144)
    ∧ ∀ i, i < 144 → ∃ site, site < 156 ∧ s.siteDie site = some (i % 12, i / 12)

/-- The rings: an accepted DB_SQ_TAIL moves the tail, an accepted DB_CQ_HEAD what the host has consumed, and one out of range is refused;
COMMAND_DISPATCH takes the command at the head, a doomed one to ABORTED; COMPLETION_POST writes the oldest waiting completion at the next entry
with its phase and makes it visible; MSIX_COALESCE_TIMEOUT sends the vector (R319 to R323, R326, R329).
The host's other accesses: FUNCTION_LEVEL_RESET and PCIE_LINK_CHANGE of a bridge; BAR2_READ and BAR2_WRITE go to the panel address the
aperture names, once a member's flow takes their packets, and a READ that is never answered reads zeros, is counted and recorded; REGISTER_WRITE of BAR0 sets the RW bits of
EVT_IRQ; a pending completion repeats the pulse of RDYBSY; the heartbeat advances (R6, R7, R314, R316 to R318, R341, R452). -/
def Obligations.HostReachesPanel : Prop :=
  (∀ (s : State) (r : Nat), r < 64 →
    (let x := s.ring r
     (∀ v : Word, s.hostLive = true →
       (256 < ((v.setWidth 16 : Half) - x.head).toNat → runs (.dbSqTail r v) s (s.refuseBell r 16 (v.setWidth 16 : Half).toNat))
       ∧ (((v.setWidth 16 : Half) - x.head).toNat ≤ 256 → runs (.dbSqTail r v) s
          (((s.setRing r { x with tail := v.setWidth 16 }).setMgtField (0x104 + 8 * r) 16 1 0).showRing r))
       ∧ (x.unconsumed < ((v.setWidth 16 : Half) - x.consumed).toNat → runs (.dbCqHead r v) s (s.refuseBell r 18 (v.setWidth 16 : Half).toNat))
       ∧ (((v.setWidth 16 : Half) - x.consumed).toNat ≤ x.unconsumed → ∃ t, exec (.dbCqHead r v) s = .next t
          ∧ t.ring r = { x with consumed := v.setWidth 16 } ∧ (∀ k, k ≠ r → t.ring k = s.ring k) ∧ t.mem = s.mem))
     ∧ (s.serving = true → s.canDispatch r = true → (r = 0 ∨ s.canDispatch 0 = false) →
       (let slot := s.slotBytes r x.head.toNat
        let u := (s.setRing r { x with head := x.head + 1 }).showRing r
        (x.isDoomed slot = false → runs (.commandDispatch r) s (u.dispatch (.ring r) slot))
        ∧ (x.isDoomed slot = true → runs (.commandDispatch r) s
            (({ u with host := { u.host with nextId := u.host.nextId + 1, started := tput u.host.started u.host.nextId { origin := .ring r, slot := slot } } }).fail
              u.host.nextId stAborted))))
     ∧ (∀ k rest, x.toPost = k :: rest → s.serving = true → x.unconsumed < 256 → runs (.completionPost r) s
          (((s.setRing r { x with toPost := rest, posted := x.posted + 1 }).putBar0 (0x200000 + r * 0x2000 + x.posted.toNat % 256 * 32)
            (k.bytes (1 - x.posted.toNat / 256 % 2) r x.head.toNat)).entryVisible r))
     ∧ (s.ringIrq r = true → x.unsig ≠ 0 → runs (.msixCoalesceTimeout r) s ((s.setRing r { x with unsig := 0 }).signal (s.ringVec r) false))))
  ∧ (∀ (s : State),
    (s.isBridge = true → runs .functionLevelReset s s.resetEndpoint ∧ ∀ up, runs (.pcieLinkChange up) s (s.setPcie up))
    ∧ (s.hostLive = true →
      (∀ off len, len ≠ 0 → off + len ≤ 0x1000000000 → s.host.apWait = [] → s.sparing.waiting.any (fun h => h.data.isNone) = false →
        (s.apReady (s.apAddr off) len = true → runs (.bar2Read off len) s (s.bar2Get (s.apAddr off) len))
        ∧ (s.apReady (s.apAddr off) len = false → exec (.bar2Read off len) s = .next s))
      ∧ (∀ off data, off + data.length ≤ 0x1000000000 →
        (s.apReady (s.apAddr off) data.length = true → runs (.bar2Write off data) s (s.bar2Put (s.apAddr off) data))
        ∧ (s.apReady (s.apAddr off) data.length = false → exec (.bar2Write off data) s = .next s))
      ∧ ∀ v : Word, ∃ t, exec (.registerWrite .bar0 0x1C v) s = .next t ∧ t.mgt 0x1C = ((s.mgt 0x1C &&& ~~~ 0x7FFF#32) ||| (v &&& 0x7FFF#32))
          ∧ (∀ o, o ≠ 0x1C → t.mgt o = s.mgt o) ∧ t.regs = s.regs ∧ t.mem = s.mem)
    ∧ (∀ x, s.host.apWait = [x] → ∃ t, exec .bar2ReadTimeout s = .next t ∧ t.host.apWait = []
        ∧ t.mgt 0x2C = BitVec.ofNat 32 (satAdd 32 (s.mgt 0x2C).toNat 1) ∧ t.mem = s.mem)
    ∧ ((∃ r < 64, s.pulsing r = true) → runs .rdybsyPulseRepeat s s.pulse)
    ∧ (s.glerynRuns = true → s.sparing.bar0Live = true → ∃ t, exec .mgtHeartbeatTick s = .next t ∧ t.mgt 0xC = s.mgt 0xC + 1
        ∧ (∀ o, o ≠ 0xC → t.mgt o = s.mgt o) ∧ t.mem = s.mem ∧ t.regs = s.regs))

/-- The commands that read: IDENTIFY, QUERY_CAPS, GET_INVENTORY, the three sets of TELEMETRY_READ, EVENTS_READ and ATTEST, with a buffer that
is large enough, end with OK and the record the spec lays out; ATTEST signs with the next index of an AK that has one left
Register reads are those of the sample log entry 98 describes (R327, R328, R336, R369, R423, R434). -/
def Obligations.ReadingCommandsAnswer : Prop :=
  ∀ (s : State) (id op : Nat) (c : Started) (io : HostIo) (b : Bytes), dispatched s id op c → c.inputOf io = .ok b →
    (op = 0x01 → 256 ≤ c.arg 16 4 → runs (.identify id io) s (s.finishOut id c (c.arg 8 8) s.identityRecord stOk 0 0))
    ∧ (op = 0x02 → (let cs := if c.byte 10 = 0 then List.range 576 else rect (c.byte 8) (c.byte 9) (c.byte 10) (c.byte 11)
        (c.byte 10 = 0 ∨ (c.byte 11 ≠ 0 ∧ c.byte 8 + c.byte 10 ≤ 24 ∧ c.byte 9 + c.byte 11 ≤ 24)) → cs.any s.clusterHole = false →
        runs (.queryCaps id io) s (s.finish id stOk (s.capsOf cs) (s.frameLen + (64 - (s.parts.filter fun e => e.2.isSome).length) * 0x200
          + ((List.range 1024).filter fun i => !bitOf (s.resEntry i) 24).length * 0x10000))))
    ∧ (op = 0x03 → 2880 ≤ c.arg 16 4 → runs (.getInventory id io) s (s.finishOut id c (c.arg 8 8) s.inventoryRecord stOk (s.reg (bstBase + 4)).toNat 0))
    ∧ (op = 0x51 → (c.byte 8 = 0 → 5520 ≤ c.arg 24 4 → runs (.telemetryPower id io) s (s.finishOut id c (c.arg 16 8) s.lastSample stOk 0 0))
      ∧ (∀ q, c.byte 8 = 1 → s.part c.partNo = some q → 112 ≤ c.arg 24 4 →
          runs (.telemetryPartition id io) s (s.finishOut id c (c.arg 16 8) (s.partitionRecord q) stOk 0 0))
      ∧ (c.byte 8 = 2 → c.arg 32 6 % 4 = 0 → c.arg 40 4 % 4 = 0 → c.arg 40 4 ≤ 65536 → c.arg 40 4 ≤ c.arg 24 4 →
          runs (.telemetryRegisters id io) s ((s.readRegs (c.arg 32 6) (c.arg 40 4)).1.finishOut id c (c.arg 16 8) (s.readRegs (c.arg 32 6) (c.arg 40 4)).2 stOk 0 0)))
    ∧ (op = 0x60 →
        (let start := s.evr.startAt (BitVec.ofNat 32 (c.arg 28 4))
         let r := readEvents (c.byte 32) (if c.byPacket then Nat.min 62 (c.arg 24 4) else c.arg 24 4) (s.evr.retained.filter fun e => !earlier e.seq start) start
         runs (.eventsRead id io) s (s.finishOut id c (c.arg 16 8) (r.1.flatMap Event.bytes) stOk r.2.toNat r.1.length)))
    ∧ (op = 0x72 → s.trust.keysBlocked = false → 3016 ≤ c.arg 24 4 → c.byPacket = false → s.trust.signState = true → s.trust.akSpent = false →
        (let t := s.trust.reserveAk
         let u := { s with trust := { t with akNext := t.akNext + 1 } }
         let size := if 11520 ≤ c.arg 24 4 then 11520 else 3016
         runs (.attest id io) s (u.finishOut id c (c.arg 16 8) ((u.attestReport (slice c.slot 32 32) t.akNext).take size) stOk t.akNext size)))

/-- Partitions: PART_CREATE of a free number, on free and present resources, owns its pages and clusters, all of which are asked to wake; PART_RESET
and PART_DESTROY stop the partition and begin its reset; when it ends, its clusters are reset and what is destroyed is gone (R214, R217, R329, R404, R405). -/
def Obligations.PartitionsComeAndGo : Prop :=
  ∀ (s : State) (id op : Nat) (c : Started) (io : HostIo), dispatched s id op c →
    (let p := c.partNo
     let q : Part := { c.newPart with auditAt := s.now }
     op = 0x10 → q.w ≠ 0 → q.cx + q.w ≤ 24 → q.h ≠ 0 → q.cy + q.h ≤ 24 → q.firstPage + q.pages ≤ s.stackPages → s.part p = none →
       (∀ e ∈ s.parts, ∀ x, e.2 = some x → q.overlaps x = false) →
       q.clusters.any s.clusterHole = false → (onesOf q.stackTbl.toNat 24).any s.stackLost = false →
       (let u := (s.setPart p q).writePages q (ownedPte p)
        let v := (List.range 24).foldl (fun s n => s.setReg (sbdBase n + 0x200 + 4 * p) 0) u
        runs (.partCreate id io) s ((q.clusters.foldl (fun s c =>
          (((s.writeCluPart c (0x80 + p)).setReg (s.cluReg c 0x800) (regReset (s.cluReg c 0x800))).spareDuty q.rotate c).requestWake c) v).finish id stOk 0 0)))
    ∧ (∀ q, s.part c.partNo = some q → q.reset = none →
        (op = 0x12 → c.byte 8 ≤ 1 → runs (.partReset id io) s (s.startReset c.partNo id (decide (c.byte 8 = 1)) false))
        ∧ (op = 0x11 → runs (.partDestroy id io) s (s.startReset c.partNo id false true)))
    ∧ ∀ p q r, s.part p = some q → q.reset = some r →
        runs (.partResetDrainEnd p) s (s.finishReset p q r (!r.absorb && !s.drained p q))

/-- IMAGE_LOAD of a sound image for a free place stages it, and installs the endpoints of a region's first image; IMAGE_ACTIVATE of staged regions starts their activations and wakes their
clusters (R153, R154, R168, R330).
What follows an activation: a drained region stops its cores; a region that drained loads its image, advances its epoch and opens its
ports again, unless its data or its endpoints end the activation with FAULT or NO_RESOURCE; a drain that takes too long ends with TIMEOUT; and an activation that waited for the limit of R149 starts (R149, R153, R155, R156). -/
def Obligations.ImagesComeIntoUse : Prop :=
  (∀ (s : State) (id op : Nat) (c : Started) (io : HostIo) (b : Bytes), dispatched s id op c → c.inputOf io = .ok b →
    (∀ q, op = 0x20 → s.part c.partNo = some q → c.byte 16 = 0 → headCheck (padTo 128 b) = stOk →
      (let rn := c.byte 19
       let dst := c.arg 24 6
       let n := fld (padTo 128 b) 0x20 8
       let u := s.stageImage c (padTo n b)
       let hd := u.header dst
       let l := u.sects dst hd
       let r : Region := (u.region rn).getD { part := c.partNo, cx := c.byte 17, cy := c.byte 18, w := hd.w, h := hd.h }
       let v := u.setRegion rn { r with staged := some dst }
       let w := if r.loaded.isNone then v.installStaged rn dst else v
       (∀ x, s.region rn = some x → x.part = c.partNo ∧ x.cx = c.byte 17 ∧ x.cy = c.byte 18) → dst % 64 = 0 → q.ownsHbm dst n = true →
       u.checkImage q dst rn (c.byte 17) (c.byte 18) = stOk → u.endpointsFit q rn (u.inboundsOf dst rn (c.byte 17) (c.byte 18) l) = true →
       runs (.imageLoad id io) s ((if r.loaded.isNone && !bitOf hd.flags 0 then
          (List.range (hd.w * hd.h)).foldl (fun s i => s.writeBackup dst l i ((rect (c.byte 17) (c.byte 18) hd.w hd.h).getD i 0)) w
        else w).finish id stOk 0 0)))
    ∧ (op = 0x21 → c.byte 8 ≤ 2 →
      (let named := onesOf c.regions 256
       (∀ rn ∈ named, ∃ r, s.region rn = some r ∧ r.part = c.partNo ∧ r.staged.isSome = true ∧ r.act = none) →
       (let u := named.foldl (fun s rn => match s.region rn with
          | none => s
          | some r => s.startActivation rn (decide (c.byte 8 = 2) || (decide (c.byte 8 = 0)
              && decide ((match r.staged with | none => 0 | some b => (s.header b).mode) = 1))) id) s
        runs (.imageActivate id io) s (((named.flatMap fun rn => match u.region rn with | none => [] | some r => r.clusters).foldl
          (fun s c => s.requestWake c) u).settleActivation id)))))
  ∧ (∀ (s : State) (rn : Nat) (r : Region) (a : Activation), s.region rn = some r → r.act = some a →
    (a.phase = .draining → s.frozen r.part = false → s.shedding = false → r.clusters.all (fun c => !s.power.paused.contains c) = true →
      (s.regionEmpty rn r = true → runs (.activationDrainComplete rn) s
        (r.clusters.foldl (fun s c => s.stopCluster c) (s.setRegion rn { r with act := some { a with phase := .drained } })))
      ∧ runs (.activationDrainTimeout rn) s (s.dropActivation rn stTimeout))
    ∧ (∀ base q, a.phase = .drained → s.frozen r.part = false → s.shedding = false → r.limited s.now = false → r.staged = some base → s.part r.part = some q →
        r.clusters.all (fun c => decide (2 ≤ s.power? c) && !s.power.paused.contains c) = true →
        (let ds := (s.recordsOf base (s.sects base (s.header base)) sData 32).map (dataOf rn r.cx r.cy)
         let fits := s.endpointsFit q rn (s.inboundsOf base rn r.cx r.cy (s.sects base (s.header base)))
         (s.dataOk ds = false → runs (.activationLoadComplete rn) s (s.dropActivation rn stFault))
         ∧ (s.dataOk ds = true → fits = false → runs (.activationLoadComplete rn) s (s.dropActivation rn stNoResource))
         ∧ (s.dataOk ds = true → fits = true → ∀ x, (s.loadRegion rn base).region rn = some x →
            runs (.activationLoadComplete rn) s (((((((s.loadRegion rn base).rebaseRegion x).advanceEpoch rn true).modRegion rn fun r => { r with act := none }).setPorts
              rn false).modPart r.part fun q => { q with capsLost := false }).settleActivation a.cmd))))
    ∧ (∀ q, a.phase = .rateWait → r.limited s.now = false → (s.startActivation rn a.discard a.cmd).part r.part = some q → q.rateWait = false →
        runs (.epochRateWaitEnd rn) s (s.startActivation rn a.discard a.cmd)))

/-- DATA_PLACE and DATA_FETCH of a range the partition owns move its bytes, the first also invalidating its caches; STEP_RUN, after the repairs
that a partition without a step makes first, that passes its checks wakes its clusters and queues its step; STEP_ABORT ends the running step with ABORTED and reports whether there was one; RESULT_RELEASE clears
READY of a result that no running step holds (R203, R330, R331, R333, R340). -/
def Obligations.DataAndSteps : Prop :=
  ∀ (s : State) (id op : Nat) (c : Started) (io : HostIo) (b : Bytes) (q : Part), dispatched s id op c → c.inputOf io = .ok b → s.part c.partNo = some q →
    (dataOk q c = true → c.byPacket = false → s.rangeHeld c = false →
      (op = 0x22 → runs (.dataPlace id io) s ((((s.placeBytes (c.arg 16 6) (padTo (c.arg 24 8) b)).placedBySram (c.arg 16 6) (c.arg 24 8)).placed
        q (c.arg 16 6)).finish id stOk 0 0))
      ∧ (op = 0x23 → runs (.dataFetch id io) s
          ((s.fetchBytes (c.arg 16 6) (c.arg 24 8)).1.finishOut id c (c.arg 8 8) (s.fetchBytes (c.arg 16 6) (c.arg 24 8)).2 stOk 0 0)))
    ∧ (op = 0x30 → (∀ e ∈ s.regionsOf c.partNo, e.2.act = none) → (∀ x ∈ q.queued ++ q.step.toList, x.cmd ≠ id) →
        (let s' := if q.step.isNone then s.repairRecords c.partNo else s
         s'.stepCheck c.partNo q (c.stepOf id) = none →
         let u := s'.flowAhead q (c.stepOf id).regions.toNat
         let v := ((u.stepClusters c.partNo (c.stepOf id)).foldl (fun s c => s.requestWake c) u).modPart c.partNo fun q => { q with queued := q.queued ++ [c.stepOf id] }
         (q.step.isSome = true → runs (.stepRun id io) s v)
         ∧ (q.step = none → runs (.stepRun id io) s (v.promote c.partNo (q.queued.length + 1)))))
    ∧ (op = 0x31 →
        (let u := if bitOf (c.byte 8) 0 then
            q.queued.foldl (fun s st => s.fail st.cmd stAborted) (s.modPart c.partNo fun q => { q with queued := [] }) else s
         runs (.stepAbort id io) s ((if q.step.isSome then (u.endStep c.partNo stAborted).clearStep c.partNo [] else u).finish id stOk (b2n q.step.isSome) 0)))
    ∧ ∀ e, op = 0x32 → (∀ st, q.step = some st → st.resAddr ≠ c.arg 24 6 ∨ st.resAddr = 0) → q.results.find? (fun e => decide (e.1 = c.arg 24 6)) = some e →
        runs (.resultRelease id io) s ((((s.poke (c.arg 24 6) [BitVec.ofNat 8 (setBits (memByte s.mem (c.arg 24 6)).toNat 0 1 0)]).scramble (some c.partNo) (c.arg 24 6 + 64) (e.2 - 64)).modPart
          c.partNo fun q => { q with results := q.results.filter fun e => decide (e.1 ≠ c.arg 24 6) }).finish id stOk 0 0)

/-- ROUTE_SET writes what its records say: the base, T and HOLD of a panel without partitions; endpoint entries; path groups; the memory
endpoints of a partition that find a place, none of them of a cluster in a hole. ENDPOINT_FENCE and ENDPOINT_UNFENCE of an endpoint that some table holds (R282, R283, R285 to R287, R334).
MCAST_SET writes a group's entry on all six link dies, sets a context whose fields are in range and for which its engine has slots, and
clears one (R288, R297, R335). -/
def Obligations.RoutesAndGroupsAreSet : Prop :=
  (∀ (s : State) (id op : Nat) (c : Started) (io : HostIo) (b : Bytes), dispatched s id op c → c.inputOf io = .ok b →
    (op = 0x40 →
      (c.byte 8 = 0 → c.arg 12 3 % 64 = 0 → c.arg 12 3 ≠ 0 → c.arg 12 3 + 639 ≤ 0xFDFFFF → 2 ≤ c.arg 28 4 → c.arg 28 4 ≤ 1000000 → 10 ≤ c.arg 32 2 →
        c.arg 32 2 ≤ 1000 → (∀ e ∈ s.parts, e.2 = none) →
        runs (.routeSetBase id io) s (((List.range 6).foldl (fun s k => s.setField (lnkBase k + 8) 0 10 (c.arg 32 2))
          ((s.setMgtField 0x14 0 24 (c.arg 12 3)).setField (panelBase + 0x40) 0 20 (c.arg 28 4))).finish id stOk 0 0))
      ∧ (c.byte 8 = 1 → (∀ r ∈ c.records b, fld r 0 3 ≠ 0 ∧ fld r 0 3 ≤ 0xFEFFFF ∧ bits (fld r 4 2) 12 2 ≠ 3) →
        runs (.routeSetEndpoints id io) s (((List.range 6).foldl (fun s k => s.setField (lnkBase k + 4) 13 1 1)
          ((c.records b).foldl (fun s r => s.writeEpt (fld r 0 3) (fld r 4 2)) s)).finish id stOk 0 0))
      ∧ (c.byte 8 = 2 → (∀ r ∈ c.records b, fld r 0 1 < 28) →
        runs (.routeSetPathGroups id io) s (((c.records b).foldl (fun (s : State) r =>
          { s with pgroups := tset 0 s.pgroups (fld r 0 1) (BitVec.ofNat 36 (fld r 3 5)) }) s).finish id stOk 0 0))
      ∧ (∀ q u, c.byte 8 = 3 → s.part c.partNo = some q →
        (∀ r ∈ c.records b, fld r 0 3 ≠ 0 ∧ fld r 0 3 ≤ 0xFDFFFF ∧ (bitOf (fld r 3 1) 0 = true → q.clusters.contains (fld r 4 2) = true)) →
        ((c.records b).any (fun r => bitOf (fld r 3 1) 0 && s.clusterHole (fld r 4 2)) = true →
          runs (.routeSetMemoryEndpoints id io) s (s.fail id stFenced))
        ∧ ((c.records b).any (fun r => bitOf (fld r 3 1) 0 && s.clusterHole (fld r 4 2)) = false →
          (c.records b).foldl (fun (o : Option State) r => o.bind fun s => s.memEndpointSet c.partNo r) (some s) = some u →
          runs (.routeSetMemoryEndpoints id io) s (u.finish id stOk 0 0))))
    ∧ (let eid : BitVec 24 := BitVec.ofNat 24 (c.arg 8 3)
       (bitOf (s.eptEntry eid) 15 = true ∨ (s.resFind eid).isSome = true) →
        (op = 0x41 → runs (.endpointFence id io) s ((s.fenceEndpoint eid 1).finish id stOk 0 0))
        ∧ (op = 0x42 → runs (.endpointUnfence id io) s ((s.fenceEndpoint eid 0).finish id stOk 0 0))))
  ∧ (∀ (s : State) (id : Nat) (c : Started) (io : HostIo), dispatched s id 0x43 c →
    (c.byte 8 = 0 →
      (let g := c.arg 12 2
       ∃ v : BitVec 128, runs (.mcastSetGroup id io) s (({ s with mcast := tset 0 s.mcast g v }).finish id stOk 0 0)
        ∧ bits v.toNat 0 36 = c.arg 16 5 % 2 ^ 36 ∧ bits v.toNat 36 1 = bits (c.byte 21) 0 1 ∧ bits v.toNat 37 1 = bits (c.byte 24) 0 1
        ∧ bits v.toNat 38 1 = bits (c.byte 21) 1 1 ∧ bits v.toNat 39 2 = bits (c.byte 21) 2 2
        ∧ bits v.toNat 41 3 = (bits (tget 0 s.mcast g).toNat 41 3 + 1) % 8 ∧ bits v.toNat 44 16 = c.arg 22 2))
    ∧ (∀ k, c.byte 8 = 1 → c.ctxKey = some k → c.context.op ≠ 3 → c.context.badField = none →
        c.context.slots ≤ s.slotsFree (k / 64) (k / 16 % 4) + (match s.ctx k with | none => 0 | some y => y.slots) →
        runs (.mcastSetContext id io) s ((s.setCtx k c.context).finish id stOk 0 0))
    ∧ (∀ k, c.byte 8 = 2 → c.ctxKey = some k → runs (.mcastClearContext id io) s (({ s with ctxs := tset none s.ctxs k none }).finish id stOk 0 0)))

/-- The commands that set something else: POWER_CAP_SET and SAMPLER_CONFIG within their ranges; FW_STAGE of an image that R415 accepts, FW_COMMIT
of a staged image that a sound standby can run, the first OWNER_KEY_SET with a key that verifies; EVENTS_CLEAR and DEFECT_CLEAR with an
authorisation for them; PANEL_RESET, whose completion is posted first (R336, R337, R338, R365, R394, R417, R424, R425, R435, R347).
RETRAIN, of one that retrains already only to BUSY, and REPAIR, of a stack channel that is in use, a seam that runs, a native link, a die whose rod has a spare, a laser bay, and of a die or
stack for testing (R231, R255, R265, R305, R338, R400). -/
def Obligations.HostCommandsSetAndMaintain : Prop :=
  (∀ (s : State) (id op : Nat) (c : Started) (io : HostIo) (b : Bytes), dispatched s id op c → c.inputOf io = .ok b →
    (op = 0x50 → (let cap := if bitOf (c.byte 12) 0 then c.arg 8 2 else s.cmdCap
        let shed := if bitOf (c.byte 12) 1 then c.arg 10 2 else s.field (pwrBase + 8) 16 11
        (bitOf (c.byte 12) 0 = true → 500 ≤ cap ∧ cap ≤ 2000) → (bitOf (c.byte 12) 1 = true → 110 ≤ shed ∧ shed ≤ cap) →
        runs (.powerCapSet id io) s ((((s.setField (pwrBase + 8) 0 11 cap).setField (pwrBase + 8) 16 11 (Nat.min shed cap)).refreshLimit).finish id stOk 0 0)))
    ∧ (∀ q, op = 0x52 → s.part c.partNo = some q → c.badSampler = none →
        (let u := (List.range q.clusters.length).foldl (fun s i => s.setSampler c i (q.clusters.getD i 0)) s
         runs (.samplerConfig id io) s ((if bitOf (c.byte 8) 2 then u.modPart c.partNo fun q => { q with auditS := c.arg 24 4, auditAt := u.now }
          else u).finish id stOk 0 0)))
    ∧ (op = 0x61 → s.authorised (b.take (c.arg 24 4)) 1 (some 0) = true →
        runs (.eventsClear id io) s (((s.clearEvents (fld (b.take (c.arg 24 4)) 2 1)).renewNonce).finishNoted id stOk 0 0))
    ∧ (∀ d, op = 0x82 → s.sparing.fieldList[c.arg 12 4]? = some (some d) → 3 ≤ d.clean → s.authorised (b.take (c.arg 24 4)) 2 (some (c.arg 12 4)) = true →
        (let u : State := { s with sparing := { s.sparing with fieldList := s.sparing.fieldList.set (c.arg 12 4) none } }
         runs (.defectClear id io) s (((u.record 0x0906 2 noPart 0 onPanel d.bytes).renewNonce).finishNoted id stOk 0 0)))
    ∧ (op = 0x70 → c.byPacket = false → s.trust.swapping = none → s.fwStatus (b.take (c.arg 24 8)) true = stOk →
        (let m := b.take (c.arg 24 8)
         let u : State := { s with trust := { s.trust with slot := m, updating := true } }
         runs (.fwStage id io) s ((u.record 0x0A04 2 noPart 0 onPanel (u32 (fld m 0x0C 4) ++ u8 (fld m 0x10 1))).finishNoted id stOk 0 0)))
    ∧ (op = 0x71 → s.trust.swapping = none → s.trust.updating = true → s.standbyOk = true →
        fld s.trust.slot 0x1C 2 ≤ fld (s.controlDie s.activeCt).fw 0x1A 2 → fld (s.controlDie s.activeCt).fw 0x1A 2 ≤ fld s.trust.slot 0x1A 2 →
        (let u := s.setControl (1 - s.activeCt) fun c => { c with role := 3, fw := s.trust.slot }
         runs (.fwCommit id io) s { u with trust := { u.trust with swapping := some id } }))
    ∧ (op = 0x73 → (let m := b.take (c.arg 24 4)
        let key := slice m 0 68
        s.trust.ownerHash = none → Config.ownerSet (fld key 0 4) = true →
        Config.verifies (fld key 0 4) key (key ++ padTo 16 s.hw.serial) (slice m 72 (fld m 68 4)) = true →
        runs (.ownerKeySet id io) s ((({ s with trust := { s.trust with ownerHash := some (shake256 key) } }).record 0x0A09 2 noPart 0 onPanel
          (shake256 key)).finishNoted id stOk 0 0)))
    ∧ (op = 0xF0 → ∃ t, exec (.panelReset id io) s = .next t ∧ t.mem = [] ∧ t.parts = [] ∧ t.regions = [] ∧ t.cores = []
        ∧ t.ept = [] ∧ t.host.rings = [] ∧ t.trust.ownerHash = s.trust.ownerHash ∧ t.sparing.fieldList = s.sparing.fieldList))
  ∧ (∀ (s : State) (id op : Nat) (c : Started) (io : HostIo), dispatched s id op c →
    (op = 0x80 →
      (∀ ok, c.byte 8 = 0 →
        ((s.stack (c.byte 9)).retrain.any (fun e => decide (e.2 = some id)) = true → runs (.retrainChannel id io ok) s (s.retrainOne (c.byte 9) ok))
        ∧ (c.byte 9 < 24 → s.stackLost (c.byte 9) = false → c.byte 10 < 32 →
          ((s.stack (c.byte 9)).retrain = none → (let u := s.draw.retrainStart (c.byte 9) (c.byte 10) (some id)
            runs (.retrainChannel id io ok) s (if (u.stack (c.byte 9)).retrain.any (fun e => decide (e.2 = some id)) then u.retrainOne (c.byte 9) ok else u)))
          ∧ (∀ x, (s.stack (c.byte 9)).retrain = some x → x.2 ≠ some id → runs (.retrainChannel id io ok) s (s.fail id stBusy))))
      ∧ (∀ w, c.byte 8 = 1 → (let p : PortRef := { site := c.arg 12 2, quad := c.byte 14 / 8 % 4, port := c.byte 14 % 8 }
          ((s.seam p).offline = true → runs (.retrainSeam id io w) s (s.fail id stBusy))
          ∧ ((s.seam p).offline = false → s.seamRuns p = true → runs (.retrainSeam id io w) s ((s.retrainPort p w).finishNoted id stOk 0 0))))
      ∧ (∀ lanes peer, c.byte 8 = 2 → s.native (c.byte 9) = true → (let u := s.retrainLinkAt (c.byte 9) lanes peer
          (s.field (linkReg (c.byte 9) 0) 0 2 = 2 → runs (.retrainLink id io lanes peer) s (s.fail id stBusy))
          ∧ (s.field (linkReg (c.byte 9) 0) 0 2 ≠ 2 →
            runs (.retrainLink id io lanes peer) s (u.finishNoted id (if u.linkUp (c.byte 9) then stOk else stFault) 0 0)))))
    ∧ (op = 0x81 →
      (c.byte 8 = 0 → c.arg 12 2 < 156 → s.inUse (c.arg 12 2) = true → (∀ e ∈ s.sparing.retireDue, e.1 ≠ c.arg 12 2) → (∀ e ∈ s.sparing.retireCmds, e.1 ≠ id) →
        s.hasSpare (c.arg 12 2 / 13) = true → runs (.repairRetireDie id io) s (s.retireDie (c.arg 12 2) 15 (some id) true))
      ∧ (c.byte 8 = 1 → c.byte 9 < 10 → (let b := laserReg (c.byte 9 / 2 * 2 + (1 - c.byte 9 % 2))
          let u := (s.setField (laserReg (c.byte 9)) 2 1 1).setField (laserReg (c.byte 9)) 3 1 0
          runs (.repairLaserBay id io) s ((if bitOf (u.reg b).toNat 1 then u.setField b 3 1 1 else u).finish id stOk 0 0)))
      ∧ (c.byte 8 = 2 → c.arg 12 2 < 156 → (let new := ((List.range 4).map (c.arg 12 2 * 4 + ·)).filter fun b => !s.sparing.testDue.contains b
          runs (.repairTestDie id io) s (({ s with sparing := { s.sparing with testDue := s.sparing.testDue ++ new } }).finish id stOk 0 0)))
      ∧ (c.byte 8 = 3 → c.byte 9 < 24 →
          runs (.repairTestStack id io) s ((s.setStack (c.byte 9) { s.stack (c.byte 9) with testDue := true }).finish id stOk 0 0))))

/-- EVENTS_CLEAR under an authorisation of action 1 flushes, removes every retained record and makes a 0x0B01 record, the first after the clear; sequence numbers
go on and the recorder's counters are kept (R435). -/
def Obligations.EventsClearLeavesOneRecord : Prop :=
  ∀ (s : State) (id : Nat) (c : Started) (io : HostIo) (b : Bytes), dispatched s id 0x61 c → c.inputOf io = .ok b → s.authorised (b.take (c.arg 24 4)) 1 (some 0) = true →
    ∃ t e, exec (.eventsClear id io) s = .next t ∧ t.evr.retained = [e] ∧ e.code = 0x0B01 ∧ e.seq = s.evr.seq + 1 ∧ t.evr.seq = e.seq
      ∧ ∀ o, o = 0x10 ∨ o = 0x14 ∨ o = 0x18 → t.reg (evrBase + o) = (s.flushAll true).reg (evrBase + o)

/-- Power as it comes and goes: a voltage and how long it held set the state of its feed, a brownout is counted and recorded and a loss recorded; a feed that
is plugged in joins the plane as a lost one until it has held; with both feeds gone the record and the operating time are kept, the control dies lose their
power and the rest of the panel is reset; a module that trips is switched off, once, counted, recorded and its
die listed and failed (R351, R352, R354, R444).
The power manager lowers running clusters above the cap and raises capped ones below it; SHED_L pauses every running cluster, is counted, and 200 µs on a level
still not met is recorded; when it goes, clusters run again unless cooling LOSS holds them (R365 to R368). -/
def Obligations.PowerAndShed : Prop :=
  (∀ (s : State) (f : Feed) (v us die : Nat),
    (let put := fun x : FeedState => (s.setField (feedReg f) 0 16 v).setFeed f x
     (s.feed f = .operating → 4000 ≤ v → v < 4400 → us ≤ 10000 →
        runs (.feedStateChange f v us) s (((put .brownout).count (pwrBase + 0x48) 1).record 0x0801 3 noPart 0 onPanel (u8 (feedByte f) ++ u16 v)))
     ∧ ((s.feed f).ok = true → (v < 4000 ∧ 20 ≤ us ∨ 4000 ≤ v ∧ v < 4400 ∧ 10000 < us ∨ 6000 < v ∧ v ≤ 6300 ∧ 100000 < us ∨ 6300 < v) →
        runs (.feedStateChange f v us) s ((put .lost).record 0x0802 4 noPart 0 onPanel (u8 (feedByte f) ++ u16 v)))
     ∧ (4400 ≤ v → v ≤ 6000 → ((s.feed f).ok = true ∨ 1000000 ≤ us) → runs (.feedStateChange f v us) s (put .operating))
     ∧ ((s.feed f).ok = false → (us < 1000000 ∨ v < 4400 ∨ 6000 < v) → runs (.feedStateChange f v us) s (put (s.feed f)))
     ∧ (s.feed f = .absent → ∃ t, exec (.feedInsert f v) s = .next t ∧ t.power.plane = true ∧ t.feed f = .lost ∧ t.mem = s.mem ∧ t.cores = s.cores)
     ∧ (s.feed f ≠ .absent → runs (.feedInsert f v) s s))
    ∧ (s.power.feedA.ok = false → s.power.feedB.ok = false → s.powered = true → s.sparing.failing = false →
        ∃ t, exec .powerFail s = .next t ∧ t.mem = [] ∧ t.cores = [] ∧ t.parts = [] ∧ t.regions = [] ∧ t.powered = false ∧ t.power.plane = false
          ∧ t.sparing.failing = true ∧ t.trust.opStored = s.trust.opTime ∧ t.trust.opClean = true ∧ t.trust.ownerHash = s.trust.ownerHash
          ∧ t.sparing.fieldList = s.sparing.fieldList)
    ∧ (die < 188 → s.field (pwrBase + 0x100 + 4 * die) 1 1 = 1 → exec (.vpmTrip die) s = .next s)
    ∧ (die < 188 → s.field (pwrBase + 0x100 + 4 * die) 1 1 = 0 → (let u := ((s.setVpm die false true).count (pwrBase + 0x38) 1).record 0x0803 5 noPart 0 onPanel (u8 die)
        runs (.vpmTrip die) s ((u.addDefect 1 6 kDie die 0 0).failDie die 6 0))))
  ∧ (∀ (s : State) (r : PowerReading) (pIn pAfter : Nat),
    (let u := (s.takeSample r).refreshLimit
     let cap := u.field (pwrBase + 4) 0 11
     (cap * 100 < r.pIn → runs (.powerManagerTick r) s (u.lowerAll r.pIn))
     ∧ (r.pIn ≤ cap * 100 → cap * 100 < r.pIn + stepRise → runs (.powerManagerTick r) s (u.setField pwrBase 5 1 0))
     ∧ (r.pIn + stepRise ≤ cap * 100 → runs (.powerManagerTick r) s (u.setField pwrBase 5 1 0).raiseAll))
    ∧ (s.field pwrBase 3 1 = 0 → ∃ t, exec .shedAssert s = .next t ∧ t.shedding = true ∧ t.runs = [] ∧ t.mem = s.mem ∧ t.cores = s.cores ∧ t.parts = s.parts)
    ∧ (s.shedding = true → s.shedLevel * 100 < pIn →
        (let u := (((List.range 576).filter fun c => decide (s.power? c = 2) && s.mayRetain c)).foldl (fun s c => s.retain c) s
         runs (.shedLevelCheck pIn pAfter) s (if pAfter ≤ s.shedLevel * 100 then u else (u.setField pwrBase 4 1 1).record 0x0806 3 noPart 0 onPanel (u32 pAfter))))
    ∧ (s.field pwrBase 3 1 = 1 → s.power.lossShed = true → ∃ t, exec .shedDeassert s = .next t ∧ t.field pwrBase 3 1 = 0 ∧ t.field pwrBase 4 1 = 0
        ∧ t.power = s.power ∧ (∀ c, t.power? c = s.power? c) ∧ t.mem = s.mem)
    ∧ (s.field pwrBase 3 1 = 1 → s.power.lossShed = false →
        runs .shedDeassert s (((s.setField pwrBase 3 1 0).setField pwrBase 4 1 0)).resumeAll))

/-- A wake is granted where 10 A of headroom exist, the module was quiet for 50 µs and the slew limit allows it; else it is deferred, counted once; a forced one
first slows the module's running clusters. A step of the clock rises by one within the cap, the headroom and the slew limit; an idle cluster goes to RETAIN,
withheld pulses are counted, and a failed phase is counted, recorded, listed and lowers the cap, at three (two of VDD_SRAM) darkening the cluster and retiring
the die The currents a wake and a step draw against the slew limit are the model's (log entry 72: DESIGN CHOICE) (R357, R358, R359, R363, R364). -/
def Obligations.WakesAndSteps : Prop :=
  ∀ (s : State) (c pulses site quad domain phase : Nat), c < 576 →
    (let a := pwrClu c
     let die := s.dieOfCluster c
     ((s.partOf c).isSome = true → s.field a 14 1 = 0 → s.power? c < 2 → s.field a 15 1 = 0 →
        ∃ t, exec (.wakeRequest c) s = .next t ∧ t.field a 15 1 = 1 ∧ tget none t.power.wakes c = some s.now ∧ t.power? c = s.power? c ∧ t.mem = s.mem ∧ t.cores = s.cores)
     ∧ (s.partOf c = none → runs (.wakeRequest c) s s)
     ∧ (s.wakePending c = true → 1000 ≤ s.headroom die → s.vpmQuiet die = true → s.slewOk wakeRise = true →
        ∃ t, exec (.wakeGrant c) s = .next t ∧ t.power? c = 2 ∧ t.field a 15 1 = 0 ∧ tget none t.power.wakes c = none ∧ tget none t.power.lastWake die = some s.now
          ∧ t.mem = (if s.power? c = 0 then memZero s.mem (sramBase c) 0x1000000 else s.mem) ∧ t.cores = s.cores ∧ t.parts = s.parts)
     ∧ (s.field a 15 1 = 1 → (s.headroom die < 1000 ∨ s.vpmQuiet die = false ∨ s.slewOk wakeRise = false ∨ s.shedding = true) →
        runs (.wakeGrant c) s (if s.power.deferred.contains c then s
          else ({ s with power := { s.power with deferred := s.power.deferred ++ [c] } }).count64 (pwrBase + 0x28) 1))
     ∧ (s.wakePending c = true → runs (.wakeForced c) s
          ((((List.range (ceilDiv (1000 - s.headroom die) 180)).foldl (fun s _ => s.lowerOne (s.runningOn die)) s).wake c).count (pwrBase + 0x30) 1))
     ∧ (2 ≤ s.power? c → s.shedding = false → s.field a 2 3 < s.field a 5 3 → 180 ≤ s.headroom die → s.slewOk stepRise = true →
        ∃ t, exec (.clockStepRamp c) s = .next t ∧ t.field a 2 3 = s.field a 2 3 + 1 ∧ t.power? c = s.power? c ∧ t.power.slewUsed = s.slewNow + stepRise ∧ t.mem = s.mem
          ∧ t.cores = s.cores)
     ∧ (s.power? c = 2 → s.field (pwrBase + 0x18) 0 16 ≠ 0 → s.mayRetain c = true →
        ∃ t, exec (.idleRetainTimeout c) s = .next t ∧ t.power? c = 1 ∧ t.mem = s.mem ∧ t.parts = s.parts ∧ (∀ h, h / 32 ≠ c → t.core h = s.core h)
          ∧ ∀ h, h / 32 = c → (t.core h).pet = (s.core h).pet)
     ∧ (2 ≤ s.power? c → runs (.droopDetect c pulses) s (s.count64 (pwrBase + 0x40) pulses)))
    ∧ (site < 156 → quad < 4 → phase < 8 →
        (let u := (s.count (pwrBase + 0x3C) 1).record 0x0804 3 noPart 0 (onSite site quad) (u8 domain ++ u8 phase)
         let w := u.addDefect 1 7 kPhase site quad (domain * 256 + phase)
         (domain < 2 → s.sparing.listed kPhase site quad (domain * 256 + phase) = false →
            (∀ k, w.blkCluster (site * 4 + quad) = some k →
              (let x := if domain = 0 then w.setField (pwrClu k) 8 3 (Nat.min 3 (w.field (pwrClu k) 8 3 + 1))
                        else w.setField (pwrClu k) 11 2 (Nat.min 2 (w.field (pwrClu k) 11 2 + 1))
               runs (.regulatorPhaseFault site quad domain phase) s
                 (if x.field (pwrClu k) 8 3 = 3 ∨ x.field (pwrClu k) 11 2 = 2 then x.goDark k site else x.refreshCap k)))
            ∧ (w.blkCluster (site * 4 + quad) = none → runs (.regulatorPhaseFault site quad domain phase) s w))
         ∧ (2 ≤ domain → domain < 4 →
            (let k := site * 2 + (domain - 2)
             let n := tget 0 u.power.railFails k + 1
             let x : State := { u with power := { u.power with railFails := tset 0 u.power.railFails k n } }
             runs (.regulatorPhaseFault site quad domain phase) s (if n < 2 then x else x.failDie site 7 3)))))

/-- A die whose clock input stops switches to its backup or the first live input in the order N, E, S, W, rim, under that input's stored offset and with a new
backup (both values the spec leaves open), which is counted and slips its seams; with none left it holds over, once counted, and after 1 ms without an input it is
failed with cause 9. When the reference oscillator is lost CT-B's becomes the reference (R370, R372).
A cluster whose hottest sensor reads 95 °C or more has its thermal cap lowered by one step; below 92 °C for a millisecond it rises by one; in between it stays.
A die at 115 °C keeps only what RETAIN keeps, is recorded and counted and failed with cause 8. The coolant loop takes the tray's reading, sets the flow target and
the valve, follows the cooling states and the stack limit and sets the cap; LOSS that goes on ends the steps and retains every cluster, and at its end enters
SAFE; an auxiliary poll stores its readings (R374 to R378). -/
def Obligations.ClocksAndHeat : Prop :=
  (∀ (s : State) (die : Nat) (live : BitVec 6),
    (die < 188 → s.field (clkDie die) 11 1 = 0 →
      (let a := clkDie die
       let ins := liveInputs live (s.field a 6 3)
       (∀ k, nextInput (s.field a 3 3) ins = some k → ∃ v b, (b = 7 ∨ b ∈ ins ∧ b ≠ k)
          ∧ runs (.clockInputLoss die live) s ((((((((s.draw.setField a 6 3 k).setField a 9 1 1).setField a 10 1 0).setField a 12 8 v).setField a 3 3 b).count (clkBase + 4) 1)).slipDie die))
       ∧ (nextInput (s.field a 3 3) ins = none → s.field a 10 1 = 0 →
          runs (.clockInputLoss die live) s (((((s.setField a 3 3 7).setField a 6 3 7).setField a 10 1 1).count (clkBase + 8) 1).slipDie die))
       ∧ (s.field a 10 1 = 1 → runs (.clockHoldoverExpiry die) s (((s.setField a 11 1 1).setField a 9 1 0).failDie die 9 3))))
    ∧ ∃ t, exec .referenceOscillatorLoss s = .next t ∧ t.field clkBase 0 1 = 0 ∧ t.field clkBase 2 1 = 1 ∧ t.field clkBase 3 1 = 0 ∧ t.mem = s.mem ∧ t.cores = s.cores
        ∧ t.parts = s.parts ∧ ∀ a, a ≠ clkBase → t.reg a = s.reg a)
  ∧ (∀ (s : State) (c die sensor celsius : Nat) (temps : List Nat) (r : TrayReading) (pIn hot : Nat) (safe : Bool),
    (c < 576 → temps.length = 4 → ∃ t, exec (.thermalSample c temps) s = .next t ∧ t.mem = s.mem ∧ t.cores = s.cores
        ∧ (95 ≤ temps.foldl Nat.max 0 → t.thermCap c = s.thermCap c - 1)
        ∧ (92 ≤ temps.foldl Nat.max 0 → temps.foldl Nat.max 0 < 95 → t.thermCap c = s.thermCap c)
        ∧ (temps.foldl Nat.max 0 < 92 → ∀ at_, tget none s.power.coolSince c = some at_ →
            t.thermCap c = if s.now < at_ + usec 1000 then s.thermCap c else Nat.min 7 (s.thermCap c + 1))
        ∧ (temps.foldl Nat.max 0 < 92 → tget none s.power.coolSince c = none → t.thermCap c = s.thermCap c ∧ tget none t.power.coolSince c = some s.now))
    ∧ (die < 188 → 115 ≤ celsius →
        (let cs := (List.range 576).filter fun c => decide (s.dieOfCluster c = die) && decide (2 ≤ s.power? c)
         runs (.thermalTrip die sensor celsius) s ((((((cs.foldl (fun s c => s.retain c) s).setTemps die sensor [celsius]).record 0x0808 5 noPart 0 (dieSubject die)
           (u8 sensor ++ u8 celsius)).count (thmBase + 0x20) 1)).failDie die 8 3)))
    ∧ (let u := ((s.readTray r).follow pIn).heatFlow hot
       let v := (((if r.answers then u.moveValve r.flow.toNat else u).coolTimes hot).coolStep r.status.toNat).stackSteps
       runs (.coolantLoopTick r pIn hot) s ({ v with power := { v.power with coolLimit := v.coolCap } } : State).refreshLimit)
    ∧ (s.field thmBase 0 3 = 3 → runs (.coolingLossTimeout safe) s (if safe then s.lossRetain.enterSafe else s.lossRetain))
    ∧ (temps.length = s.power.auxTargets.length → ∃ t, exec (.auxSensorPoll temps) s = .next t ∧ t.power.auxTemps = temps ∧ t.regs = s.regs ∧ t.mem = s.mem))

/-- A die whose partitions are all frozen, to which no packet is on its way and whose spare may be woken, is retired: a rod with a good spare takes it into use, one without makes a hole, and a spare that fails is listed
first; stacks that lose both seams are lost; the die is listed under its cause, the command that asked for it ends or waits for its partitions, the accesses held for it are served, and they are
released. A scheduled test runs at a reset of
its cluster and what it finds is listed; a block no longer usable has its die retired. A rim segment that fails is listed once (R28, R292, R388, R398, R400).
With a feed operating, power starts the control dies: the power cycle is counted, the operating time goes on from flash (a minute later after an unclean end),
debug mode has ended. PANEL_RESET_L holds the panel in reset, its memory, cores and partitions gone, until it is released. Bring-up then starts the die that flash
names or the other, tests everything and ends in debug mode where an unlock is pending; with no valid image it waits for an offer (R381 to R386, R418, R428, R431). -/
def Obligations.SparingAndBringup : Prop :=
  (∀ (s : State) (site cause quad segment : Nat) (spareOk : Bool) (cmd : Option Nat) (r : TestResult),
    (s.sparing.retireDue.find? (fun e => decide (e.1 = site)) = some (site, cause, cmd) →
      (∀ p ∈ s.retireParts site, ∀ q, s.part p = some q → q.freeze ≠ .no) → s.comingTo site cause = false →
      (s.hasSpare (site / 13) = true → s.shedding = false) →
      (let ps := s.retireParts site
       let rod := site / 13
       let spare := rod * 13 + s.unassigned rod
       let u : State := { s with sparing := { s.sparing with retireDue := s.sparing.retireDue.filter fun e => decide (e.1 ≠ site) } }
       let bad := (u.addDefect 1 1 kDie spare 0 0).showDie spare false
       let v := (if s.hasSpare rod then (if spareOk then u.useSpare site cause else bad.makeHole site) else u.makeHole site).loseSeamless.addDefect 1 cause kDie site 0 0
       (cmd = none → runs (.dieRetirement site cause spareOk) s (ps.foldl (fun s p => s.releaseFrozen p) v.serveHeld))
       ∧ (∀ id, cmd = some id → ps = [] → runs (.dieRetirement site cause spareOk) s (v.finish id stOk 0 0).serveHeld)
       ∧ (∀ id, cmd = some id → ps ≠ [] → runs (.dieRetirement site cause spareOk) s
            (ps.foldl (fun s p => s.releaseFrozen p)
              ({ v with sparing := { v.sparing with retireCmds := v.sparing.retireCmds ++ [(id, ps)] } } : State).serveHeld))))
    ∧ (site < 156 → quad < 4 → s.sparing.testDue.contains (site * 4 + quad) = true →
        (∀ c p q, s.blkCluster (site * 4 + quad) = some c → s.partOf c = some p → s.part p = some q → q.freeze ≠ .no ∨ q.reset.isSome = true) →
        (let b := site * 4 + quad
         let u : State := { s with sparing := { s.sparing with testDue := s.sparing.testDue.filter (· ≠ b) } }
         (∀ c w k, s.blkCluster b = some c → w = ((u.resetCluster c).noteTests (blockFinds b r)).testBlock b r 2 → w.blkCluster b = some k →
            (let x := w.setClu k { w.clu k with coreMap := w.coreMapOf b }
             runs (.scheduledClusterTest site quad r) s (if x.unusable b then (if (x.siteDie site).isNone then x.addDefect 2 1 kDie site 0 0 else x.retireDie site 1 none false) else x)))
         ∧ (∀ w, s.blkCluster b = none → w = (u.noteTests (blockFinds b r)).testBlock b r 2 → w.blkCluster b = none →
            runs (.scheduledClusterTest site quad r) s (if w.unusable b then (if (w.siteDie site).isNone then w.addDefect 2 1 kDie site 0 0 else w.retireDie site 1 none false) else w))))
    ∧ (segment < 8 → s.sparing.rimGaps.contains segment = false →
        ∃ t, exec (.rimSegmentFail segment) s = .next t ∧ t.sparing.rimGaps = s.sparing.rimGaps ++ [segment] ∧ t.moving = s.moving ∧ t.mem = s.mem ∧ t.regs = s.regs))
  ∧ (∀ (s : State) (slot : BitVec 6) (f : BringupFound),
    ((s.power.feedA = .operating ∨ s.power.feedB = .operating) → s.powered = false →
        ∃ t, exec (.powerGood slot) s = .next t ∧ t.powered = true ∧ t.trust.pcycle = s.trust.pcycle + 1 ∧ t.trust.slotId = slot ∧ t.trust.debug = false
          ∧ t.trust.opTime = s.trust.opStored + (if s.trust.opClean then 0 else 60000) ∧ t.trust.opClean = false ∧ t.sparing.failing = false ∧ t.mem = s.mem)
    ∧ (s.sparing.held = false → ∃ t, exec .panelResetLAssert s = .next t ∧ t.sparing.held = true ∧ t.mem = [] ∧ t.cores = [] ∧ t.parts = [] ∧ t.regions = []
        ∧ t.sparing.fieldList = s.sparing.fieldList ∧ t.trust.ownerHash = s.trust.ownerHash)
    ∧ (s.sparing.held = true → ∃ t, exec .panelResetLRelease s = .next t ∧ t.sparing.held = false ∧ t.regs = s.regs ∧ t.mem = s.mem ∧ t.power = s.power)
    ∧ (s.mgtField 8 0 3 = 0 → s.sparing.held = false → s.sparing.failing = false → s.powered = true → s.trust.recovery = false →
        (let bad := fun (d : Nat) => s.sparing.named kDie (dieOfControl d) 0 0 || decide (s.stepping (dieOfControl d) / 16 ≠ s.hw.major)
         let okA := f.imageOk.1 && !bad 0
         let okB := f.imageOk.2 && !bad 1
         (s.trust.chooseActive f okA okB = none → runs (.bringup f) s (s.enterRecovery f))
         ∧ (∀ d, s.trust.chooseActive f okA okB = some d →
            (let other := (if d = 0 then okB else okA) && !(f.namedLate && decide (d ≠ s.trust.lastActive.getD 0))
             let u := (s.startGleryn d other f).testAll f
             (∀ arg, u.trust.unlockArg = some arg → runs (.bringup f) s (u.enterDebug arg))
             ∧ (u.trust.unlockArg = none → runs (.bringup f) s (u.endBringup f)))))))

/-- The control dies watch each other: a heartbeat is noted; a hung firmware stops its die; when the active one is lost a sound standby takes over and becomes the one
flash names, the old one reboots, and on a second loss it has failed and is listed; with no standby the panel is in `STATE` 5 and serves no command. A die that
reboots stands by again with the running image, or has failed. A firmware swap hands over to the standby, ends the update and its command; one whose standby fails
goes on as before (R416, R417, R421). -/
def Obligations.ControlDiesTakeOver : Prop :=
  ∀ (s : State) (d cause id : Nat),
    (d < 2 → (s.controlDie d).role < 2 →
        ((s.controlDie d).stopped = false → ∃ t, exec (.ctHeartbeat d) s = .next t ∧ (t.controlDie d).beatAt = s.now ∧ (t.controlDie d).stopped = false
          ∧ t.controlDie (1 - d) = s.controlDie (1 - d) ∧ t.regs = s.regs ∧ t.mem = s.mem)
        ∧ ∃ t, exec (.glerynWatchdogExpiry d) s = .next t ∧ (t.controlDie d).stopped = true ∧ t.controlDie (1 - d) = s.controlDie (1 - d) ∧ t.regs = s.regs ∧ t.mem = s.mem)
    ∧ (s.activeLost = true →
        (let old := s.activeCt
         let c := s.controlDie old
         (s.standbyOk = false → runs (.controlDieFailover cause) s (((s.setControl old fun c => { c with role := 2 }).setPanelState 5).setRdy false))
         ∧ (s.standbyOk = true →
            (let u := s.setControl old fun c => { c with role := if c.rebooted then 2 else 3, rebooted := true }
             let v : State := { u with trust := u.trust.resumed }
             let w : State := { v with trust := { v.trust with lastActive := some (1 - old), swapping := none, updating := v.trust.updating && v.trust.swapping.isNone } }
             let x := (w.takeOver (1 - old)).record 0x0A06 4 noPart 0 (onControl old) (u8 cause)
             runs (.controlDieFailover cause) s
              (if c.rebooted then (x.addDefect 1 1 kDie (dieOfControl old) 0 0).record 0x0A07 5 noPart 0 (onControl old) (u8 cause) else x).refreshState))))
    ∧ (d < 2 → (s.controlDie d).role = 3 → s.glerynRuns = true → s.sparing.bar0Live = true →
        (∃ t, exec (.controlDieRebootDone d true) s = .next t ∧ (t.controlDie d).role = 1 ∧ (t.controlDie d).stopped = false ∧ (t.controlDie d).fw = s.trust.boot
          ∧ t.controlDie (1 - d) = s.controlDie (1 - d) ∧ t.regs = s.regs ∧ t.mem = s.mem)
        ∧ ∃ b, runs (.controlDieRebootDone d false) s
          ((((s.draw.setControl d fun c => { c with role := 2 }).addDefect 1 1 kDie (dieOfControl d) 0 0).record 0x0A07 5 noPart 0 (onControl d) [b]).refreshState))
    ∧ (s.trust.swapping = some id →
        (let old := s.activeCt
         (let u := (s.setControl (1 - old) fun c => { c with role := 2 }).refreshState
          runs (.firmwareSwapHandover false) s (({ u with trust := { u.trust with swapping := none } } : State).fail id stFault))
         ∧ (let u := (s.setControl old fun c => { c with role := 3, stopped := false, rebooted := false }).takeOver (1 - old)
            let b := s.trust.slot
            let v : State := { u with trust := { u.trust with swapping := none, updating := false, lastActive := some old, svnFloor := Nat.max u.trust.svnFloor (fld b 0x11 1) } }
            runs (.firmwareSwapHandover true) s ((v.record 0x0A05 2 noPart 0 onPanel (u32 (fld b 0x0C 4) ++ u8 (fld b 0x10 1))).finishNoted id stOk 0 0))))

/-- A record of a listed code and severity is made as asked; a flush writes what is unflushed, or counts it where flash fails, and the operating time is stored. An
authorisation of action 3 sets the pending unlock, another is recorded as refused. An administrator's request has its effect and another's none. The first recovery
offer to a panel that waits for one names the panel and its peer and brings an image, which boots if it is sound; offers go out to bed peers
(R418, R419, R426, R429 to R431, R437). -/
def Obligations.RecordsAndRequests : Prop :=
  ∀ (s : State) (code sev part region kind index sub : Nat) (data auth image : Bytes) (r : Redfish) (p : Packet) (port : Nat) (ok : Bool) (peer : BitVec 24),
    (eventCodes.contains (code, sev) = true → kind < 9 →
        runs (.eventRecord code sev part region kind index sub data) s (s.record code sev part region { kind := kind, index := index, sub := sub } data))
    ∧ (∃ t, exec (.eventFlush true) s = .next t ∧ (∀ e ∈ t.evr.buf, e.2 = false) ∧ t.evr.buf.map (·.1) = s.evr.buf.map (·.1) ∧ t.mem = s.mem ∧ t.cores = s.cores)
    ∧ (∃ t, exec (.eventFlush false) s = .next t ∧ t.evr = s.evr ∧ t.field evrBase 0 1 = 0 ∧ t.mem = s.mem ∧ t.cores = s.cores)
    ∧ (∃ t, exec .operatingTimeStore s = .next t ∧ t.trust.opStored = s.trust.opTime ∧ t.regs = s.regs ∧ t.mem = s.mem)
    ∧ (s.portServed = true →
        (s.authorised auth 3 none = true → ∃ t, exec (.debugUnlock auth) s = .next t ∧ t.trust.unlockArg = some (BitVec.ofNat 32 (fld auth 20 4)) ∧ t.regs = s.regs ∧ t.mem = s.mem)
        ∧ (s.authorised auth 3 none = false → runs (.debugUnlock auth) s (s.refuseAuth auth))
        ∧ runs (.redfishRequest true r) s (s.serve r) ∧ runs (.redfishRequest false r) s s)
    ∧ (p.opcode = 0x03 → fld p.payload 0 1 = 0x01 → port < 36 →
        (s.trust.recovery = false → runs (.recoveryOffer p port image ok) s (s.requestIn p))
        ∧ (s.trust.recovery = true → s.trust.recoverySrc.isSome = true → runs (.recoveryOffer p port image ok) s (s.answerBusy p))
        ∧ (s.trust.recovery = true → s.trust.recoverySrc = none →
            (let u := (((s.setMgtField 0x14 0 24 (p.dest.toNat + 0x1000000 - 576)).writeEpt p.dest.toNat 0x8000).writeEpt p.src.toNat (0x8000 + 0x1000 + port * 0x40)).answerBusy p
             (u.fwStatus image false ≠ stOk → runs (.recoveryOffer p port image ok) s u)
             ∧ (u.fwStatus image false = stOk → ∃ t, exec (.recoveryOffer p port image ok) s = .next t ∧ t.trust.recovery = false ∧ t.trust.ctA.fw = image ∧ t.trust.ctB.fw = image
                ∧ t.trust.slot = (if ok then image else u.trust.slot) ∧ t.trust.recoverySrc = (if ok then none else some p.src)))))
    ∧ (s.glerynRuns = true → s.trust.peers.contains peer = true →
        (let q := s.host.rseq + 1
         let k := mkPacket 0 0x03 peer s.panelEid 0 false (relayPayload identifySlot s.panelEid q [])
         s.canSend agGleryn k.key = true → runs (.recoveryOfferTimer peer) s (({ s with host := { s.host with rseq := q } } : State).sendOn agGleryn { pkt := k })))
end

