-- ==== Sys2Proof/Laws/Bits.lean ====
section
/-! SUPPORT. Reads of bit fields after a field is replaced. -/

namespace Sys2Proof.Laws

open Sys2Proof.Machine

/-- A number is its bits above a field, the field, and the bits below. -/
theorem bits_split (n lo w : Nat) : n = (n / 2 ^ (lo + w) * 2 ^ w + bits n lo w) * 2 ^ lo + n % 2 ^ lo := by
  unfold bits
  have h1 := Nat.div_add_mod n (2 ^ lo)
  have h2 := Nat.div_add_mod (n / 2 ^ lo) (2 ^ w)
  rw [Nat.div_div_eq_div_mul, ← Nat.pow_add] at h2
  calc n = 2 ^ lo * (n / 2 ^ lo) + n % 2 ^ lo := h1.symm
    _ = _ := by rw [Nat.mul_comm, Nat.mul_comm (n / 2 ^ (lo + w)), h2]

theorem setBits_split (n lo w v : Nat) : setBits n lo w v = (n / 2 ^ (lo + w) * 2 ^ w + v % 2 ^ w) * 2 ^ lo + n % 2 ^ lo := by
  have h := bits_split n lo w
  unfold setBits
  rw [Nat.add_mul] at h ⊢
  omega

theorem bits_of_split (m f r lo w : Nat) (hf : f < 2 ^ w) (hr : r < 2 ^ lo) : bits ((m * 2 ^ w + f) * 2 ^ lo + r) lo w = f := by
  unfold bits
  rw [Nat.mul_comm _ (2 ^ lo), Nat.mul_add_div (Nat.two_pow_pos lo), Nat.div_eq_of_lt hr, Nat.add_zero, Nat.mul_comm m, Nat.mul_add_mod, Nat.mod_eq_of_lt hf]

/-- The field replaced reads as the new value. -/
theorem bits_setBits_same (n lo w v : Nat) : bits (setBits n lo w v) lo w = v % 2 ^ w := by
  rw [setBits_split]
  exact bits_of_split _ _ _ _ _ (Nat.mod_lt _ (Nat.two_pow_pos w)) (Nat.mod_lt _ (Nat.two_pow_pos lo))

/-- A field below the one replaced reads as before. -/
theorem bits_setBits_below (n lo w v lo' w' : Nat) (h : lo' + w' ≤ lo) : bits (setBits n lo w v) lo' w' = bits n lo' w' := by
  have key : setBits n lo w v % 2 ^ lo = n % 2 ^ lo := by
    rw [setBits_split, Nat.mul_comm, Nat.mul_add_mod, Nat.mod_mod]
  have red : ∀ x, bits x lo' w' = bits (x % 2 ^ lo) lo' w' := by
    intro x
    unfold bits
    obtain ⟨k, rfl⟩ := Nat.exists_eq_add_of_le h
    rw [Nat.pow_add, Nat.pow_add, Nat.mul_assoc, Nat.mod_mul_right_div_self, Nat.mod_mul_right_mod]
  rw [red, key, ← red]

/-- A field above the one replaced reads as before. -/
theorem bits_setBits_above (n lo w v lo' w' : Nat) (h : lo + w ≤ lo') : bits (setBits n lo w v) lo' w' = bits n lo' w' := by
  have key : setBits n lo w v / 2 ^ (lo + w) = n / 2 ^ (lo + w) := by
    rw [setBits_split]
    have hlt : v % 2 ^ w * 2 ^ lo + n % 2 ^ lo < 2 ^ (lo + w) := by
      have h1 : v % 2 ^ w + 1 ≤ 2 ^ w := Nat.mod_lt _ (Nat.two_pow_pos w)
      have h2 := Nat.mod_lt n (Nat.two_pow_pos lo)
      have h3 := Nat.mul_le_mul_right (2 ^ lo) h1
      rw [Nat.add_mul, Nat.one_mul, ← Nat.pow_add, Nat.add_comm w] at h3
      omega
    rw [Nat.add_mul, Nat.mul_assoc, ← Nat.pow_add, Nat.add_comm w, Nat.add_assoc, Nat.mul_comm, Nat.mul_add_div (Nat.two_pow_pos _), Nat.div_eq_of_lt hlt, Nat.add_zero]
  unfold bits
  obtain ⟨k, rfl⟩ := Nat.exists_eq_add_of_le h
  rw [Nat.pow_add 2 (lo + w) k, ← Nat.div_div_eq_div_mul, ← Nat.div_div_eq_div_mul, key]

theorem setBits_lt (n lo w v m : Nat) (hn : n < 2 ^ m) (h : lo + w ≤ m) : setBits n lo w v < 2 ^ m := by
  have key : setBits n lo w v / 2 ^ m = 0 := by
    have := bits_setBits_above n lo w v m 0 h
    obtain ⟨k, rfl⟩ := Nat.exists_eq_add_of_le h
    rw [setBits_split]
    have hlt : v % 2 ^ w * 2 ^ lo + n % 2 ^ lo < 2 ^ (lo + w) := by
      have h1 : v % 2 ^ w + 1 ≤ 2 ^ w := Nat.mod_lt _ (Nat.two_pow_pos w)
      have h2 := Nat.mod_lt n (Nat.two_pow_pos lo)
      have h3 := Nat.mul_le_mul_right (2 ^ lo) h1
      rw [Nat.add_mul, Nat.one_mul, ← Nat.pow_add, Nat.add_comm w] at h3
      omega
    rw [Nat.pow_add 2 (lo + w) k, ← Nat.div_div_eq_div_mul, Nat.add_mul, Nat.mul_assoc, ← Nat.pow_add, Nat.add_comm w, Nat.add_assoc, Nat.mul_comm,
      Nat.mul_add_div (Nat.two_pow_pos _), Nat.div_eq_of_lt hlt, Nat.add_zero, Nat.div_div_eq_div_mul, ← Nat.pow_add, Nat.div_eq_of_lt hn]
  exact (Nat.div_eq_zero_iff_lt (Nat.two_pow_pos m)).mp key

end Sys2Proof.Laws
end

