-- ==== Sys2Proof/Laws/Boot.lean ====
section
/-! SUPPORT. What bring-up leaves of a pending debug unlock: each of its parts keeps it, so that it is decided by the state before. -/

namespace Sys2Proof.Laws

open Sys2Proof Sys2Proof.Machine

set_option linter.unusedTactic false
set_option linter.unreachableTactic false
set_option linter.unusedVariables false

theorem ite_unlock {c : Prop} [Decidable c] {arg : Option Word} (s t : State) (hs : s.trust.unlockArg = arg) (ht : t.trust.unlockArg = arg) : (if c then s else t).trust.unlockArg = arg := by
  by_cases h : c
  · rw [if_pos h]; exact hs
  · rw [if_neg h]; exact ht

theorem foldl_unlock {α : Type} {arg : Option Word} (g : State → α → State) (h : ∀ s x, s.trust.unlockArg = arg → (g s x).trust.unlockArg = arg) (l : List α)
    (s : State) (hs : s.trust.unlockArg = arg) : (l.foldl g s).trust.unlockArg = arg := by
  induction l generalizing s with
  | nil => exact hs
  | cons x xs ih => rw [List.foldl_cons]; exact ih _ (h _ _ hs)

theorem foldl_fst_unlock {α β : Type} {arg : Option Word} (g : State × β → α → State × β) (h : ∀ r x, r.1.trust.unlockArg = arg → (g r x).1.trust.unlockArg = arg) (l : List α)
    (z : State × β) (hz : z.1.trust.unlockArg = arg) : (l.foldl g z).1.trust.unlockArg = arg := by
  induction l generalizing z with
  | nil => exact hz
  | cons x xs ih => rw [List.foldl_cons]; exact ih _ (h _ _ hz)

theorem foldl_eq_unlock {α : Type} {arg : Option Word} (g : State → α → State) (h : ∀ s x t, s.trust.unlockArg = arg → t = g s x → t.trust.unlockArg = arg) (l : List α)
    (s : State) (hs : s.trust.unlockArg = arg) : (l.foldl g s).trust.unlockArg = arg :=
  foldl_unlock g (fun s x hs => h s x (g s x) hs rfl) l s hs

theorem State.setReg_unlock {arg : Option Word} (s : State) (a : Nat) (v : Word) (hwf : s.trust.unlockArg = arg) : (State.setReg s a v).trust.unlockArg = arg := by
  unfold State.setReg
  repeat' (first | with_reducible assumption | dsimp only)

theorem State.setMgt_unlock {arg : Option Word} (s : State) (o : Nat) (v : Word) (hwf : s.trust.unlockArg = arg) : (State.setMgt s o v).trust.unlockArg = arg := by
  unfold State.setMgt
  repeat' (first | with_reducible assumption | dsimp only)

theorem State.setField_unlock {arg : Option Word} (s : State) (a lo w v : Nat) (hwf : s.trust.unlockArg = arg) : (State.setField s a lo w v).trust.unlockArg = arg := by
  unfold State.setField
  repeat' (first | with_reducible assumption | with_reducible apply State.setReg_unlock | dsimp only)

theorem State.setMgtField_unlock {arg : Option Word} (s : State) (o lo w v : Nat) (hwf : s.trust.unlockArg = arg) : (State.setMgtField s o lo w v).trust.unlockArg = arg := by
  unfold State.setMgtField
  repeat' (first | with_reducible assumption | with_reducible apply State.setMgt_unlock | dsimp only)

theorem State.setReg64_unlock {arg : Option Word} (s : State) (a v : Nat) (hwf : s.trust.unlockArg = arg) : (State.setReg64 s a v).trust.unlockArg = arg := by
  unfold State.setReg64
  repeat' (first | with_reducible assumption | with_reducible apply State.setReg_unlock | dsimp only)

theorem State.count_unlock {arg : Option Word} (s : State) (a n : Nat) (hwf : s.trust.unlockArg = arg) : (State.count s a n).trust.unlockArg = arg := by
  unfold State.count
  repeat' (first | with_reducible assumption | with_reducible apply State.setReg_unlock | with_reducible apply ite_unlock | split | dsimp only)

theorem State.count64_unlock {arg : Option Word} (s : State) (a n : Nat) (hwf : s.trust.unlockArg = arg) : (State.count64 s a n).trust.unlockArg = arg := by
  unfold State.count64
  repeat' (first | with_reducible assumption | with_reducible apply State.setReg64_unlock | with_reducible apply ite_unlock | split | dsimp only)

theorem State.draw_unlock {arg : Option Word} (s : State) (hwf : s.trust.unlockArg = arg) : (State.draw s).trust.unlockArg = arg := by
  unfold State.draw
  repeat' (first | with_reducible assumption | dsimp only)

theorem State.setClu_unlock {arg : Option Word} (s : State) (c : Nat) (v : Cluster) (hwf : s.trust.unlockArg = arg) : (State.setClu s c v).trust.unlockArg = arg := by
  unfold State.setClu
  repeat' (first | with_reducible assumption | dsimp only)

theorem State.setCore_unlock {arg : Option Word} (s : State) (h : Nat) (c : Core) (hwf : s.trust.unlockArg = arg) : (State.setCore s h c).trust.unlockArg = arg := by
  unfold State.setCore
  repeat' (first | with_reducible assumption | dsimp only)

theorem State.setPhys_unlock {arg : Option Word} (s : State) (pk : Nat) (v : Phys) (hwf : s.trust.unlockArg = arg) : (State.setPhys s pk v).trust.unlockArg = arg := by
  unfold State.setPhys
  repeat' (first | with_reducible assumption | with_reducible apply ite_unlock | split | dsimp only)

theorem State.setPart_unlock {arg : Option Word} (s : State) (p : Nat) (v : Part) (hwf : s.trust.unlockArg = arg) : (State.setPart s p v).trust.unlockArg = arg := by
  unfold State.setPart
  repeat' (first | with_reducible assumption | dsimp only)

theorem State.setRegion_unlock {arg : Option Word} (s : State) (r : Nat) (v : Region) (hwf : s.trust.unlockArg = arg) : (State.setRegion s r v).trust.unlockArg = arg := by
  unfold State.setRegion
  repeat' (first | with_reducible assumption | dsimp only)

theorem State.setStack_unlock {arg : Option Word} (s : State) (n : Nat) (v : Stack) (hwf : s.trust.unlockArg = arg) : (State.setStack s n v).trust.unlockArg = arg := by
  unfold State.setStack
  repeat' (first | with_reducible assumption | dsimp only)

theorem State.setPort_unlock {arg : Option Word} (s : State) (n : Nat) (v : LinkPort) (hwf : s.trust.unlockArg = arg) : (State.setPort s n v).trust.unlockArg = arg := by
  unfold State.setPort
  repeat' (first | with_reducible assumption | dsimp only)

theorem State.setRing_unlock {arg : Option Word} (s : State) (r : Nat) (v : Ring) (hwf : s.trust.unlockArg = arg) : (State.setRing s r v).trust.unlockArg = arg := by
  unfold State.setRing
  repeat' (first | with_reducible assumption | dsimp only)

theorem State.modPart_unlock {arg : Option Word} (s : State) (p : Nat) (f : Part → Part) (hwf : s.trust.unlockArg = arg) : (State.modPart s p f).trust.unlockArg = arg := by
  unfold State.modPart
  repeat' (first | with_reducible assumption | with_reducible apply State.setPart_unlock | with_reducible apply ite_unlock | split | dsimp only)

theorem State.setPower_unlock {arg : Option Word} (s : State) (c v : Nat) (hwf : s.trust.unlockArg = arg) : (State.setPower s c v).trust.unlockArg = arg := by
  unfold State.setPower
  repeat' (first | with_reducible assumption | with_reducible apply State.setField_unlock | dsimp only)

theorem State.poke_unlock {arg : Option Word} (s : State) (a : Nat) (bs : Bytes) (hwf : s.trust.unlockArg = arg) : (s.poke a bs).trust.unlockArg = arg := hwf

theorem State.pulse_unlock {arg : Option Word} (s : State) (hwf : s.trust.unlockArg = arg) : (State.pulse s).trust.unlockArg = arg := by
  unfold State.pulse
  repeat' (first | with_reducible assumption | with_reducible apply ite_unlock | split | dsimp only)

theorem State.signal_unlock {arg : Option Word} (s : State) (v : Nat) (pulse : Bool) (hwf : s.trust.unlockArg = arg) : (State.signal s v pulse).trust.unlockArg = arg := by
  unfold State.signal
  repeat' (first | with_reducible assumption | with_reducible apply State.pulse_unlock | with_reducible apply State.setMgtField_unlock | with_reducible apply ite_unlock | split | dsimp only)

theorem State.setPanelState_unlock {arg : Option Word} (s : State) (v : Nat) (hwf : s.trust.unlockArg = arg) : (State.setPanelState s v).trust.unlockArg = arg := by
  unfold State.setPanelState
  repeat' (first | with_reducible assumption | with_reducible apply State.setMgtField_unlock | with_reducible apply State.signal_unlock | with_reducible apply ite_unlock | split | dsimp only)

theorem State.alarm_unlock {arg : Option Word} (s : State) (sev : Nat) (hwf : s.trust.unlockArg = arg) : (State.alarm s sev).trust.unlockArg = arg := by
  unfold State.alarm
  repeat' (first | with_reducible assumption | with_reducible apply State.pulse_unlock | with_reducible apply State.signal_unlock | with_reducible apply ite_unlock | split | dsimp only)

theorem State.keepRecord_unlock {arg : Option Word} (s : State) (e : Event) (buf : List (Event × Bool)) (hwf : s.trust.unlockArg = arg) : (State.keepRecord s e buf).trust.unlockArg = arg := by
  unfold State.keepRecord
  repeat' (first | with_reducible assumption | with_reducible apply State.alarm_unlock | with_reducible apply State.setMgt_unlock | dsimp only)

theorem State.record_unlock {arg : Option Word} (s : State) (code sev part region : Nat) (sub : Subject) (data : Bytes) (hwf : s.trust.unlockArg = arg) : (State.record s code sev part region sub data).trust.unlockArg = arg := by
  unfold State.record
  repeat' (first | with_reducible assumption | with_reducible apply State.count_unlock | with_reducible apply State.keepRecord_unlock | with_reducible apply ite_unlock | split | dsimp only)

theorem State.glerynSend_unlock {arg : Option Word} (s : State) (p : Packet) (hwf : s.trust.unlockArg = arg) : (State.glerynSend s p).trust.unlockArg = arg := by
  unfold State.glerynSend
  repeat' (first | with_reducible assumption | dsimp only)

theorem State.finish_unlock {arg : Option Word} (s : State) (id status r0 r1 : Nat) (detail : Nat) (out : Bytes) (evt : Nat) (hwf : s.trust.unlockArg = arg) : (State.finish s id status r0 r1 detail out evt).trust.unlockArg = arg := by
  unfold State.finish
  repeat' (first | with_reducible assumption | with_reducible apply State.glerynSend_unlock | with_reducible apply State.setRing_unlock | (with_reducible refine foldl_unlock _ (fun s x h => ?_) _ _ ?_) | (with_reducible refine foldl_fst_unlock _ (fun r x h => ?_) _ _ ?_) | with_reducible apply ite_unlock | split | dsimp only)

theorem State.openBytes_unlock {arg : Option Word} (s : State) (p : Option Nat) (a n : Nat) (hwf : s.trust.unlockArg = arg) : (State.openBytes s p a n).1.trust.unlockArg = arg := by
  unfold State.openBytes
  repeat' (first | with_reducible assumption | with_reducible apply State.draw_unlock | dsimp only)

theorem State.scramble_unlock {arg : Option Word} (s : State) (p : Option Nat) (a n : Nat) (hwf : s.trust.unlockArg = arg) : (State.scramble s p a n).trust.unlockArg = arg := by
  unfold State.scramble
  repeat' (first | with_reducible assumption | with_reducible apply State.openBytes_unlock | with_reducible apply State.poke_unlock | dsimp only)

theorem State.seedPetal_unlock {arg : Option Word} (s : State) (h : Nat) (p : Petal) (hwf : s.trust.unlockArg = arg) : (State.seedPetal s h p).2.trust.unlockArg = arg := by
  unfold State.seedPetal
  repeat' (first | with_reducible assumption | with_reducible apply ite_unlock | split | dsimp only)

theorem State.setSeam_unlock {arg : Option Word} (s : State) (p : PortRef) (v : SeamEnd) (hwf : s.trust.unlockArg = arg) : (State.setSeam s p v).trust.unlockArg = arg := by
  unfold State.setSeam
  repeat' (first | with_reducible assumption | dsimp only)

theorem State.noteLate_unlock {arg : Option Word} (s : State) (p : PortRef) (hwf : s.trust.unlockArg = arg) : (State.noteLate s p).trust.unlockArg = arg := by
  unfold State.noteLate
  repeat' (first | with_reducible assumption | with_reducible apply State.setField_unlock | dsimp only)

theorem State.takeSlot_unlock {arg : Option Word} (s : State) (out : PortRef) (cycle lane : Nat) (u : BitVec 552) (hwf : s.trust.unlockArg = arg) : (State.takeSlot s out cycle lane u).trust.unlockArg = arg := by
  unfold State.takeSlot
  repeat' (first | with_reducible assumption | with_reducible apply State.setSeam_unlock | dsimp only)

theorem State.joinLate_unlock {arg : Option Word} (s : State) (out : PortRef) (lane : Nat) (u : BitVec 552) (hwf : s.trust.unlockArg = arg) : (State.joinLate s out lane u).trust.unlockArg = arg := by
  unfold State.joinLate
  repeat' (first | with_reducible assumption | with_reducible apply State.noteLate_unlock | with_reducible apply State.setSeam_unlock | dsimp only)

theorem State.addDefect_unlock {arg : Option Word} (s : State) (source cause kind die unit detail : Nat) (hwf : s.trust.unlockArg = arg) : (State.addDefect s source cause kind die unit detail).trust.unlockArg = arg := by
  unfold State.addDefect
  repeat' (first | with_reducible assumption | with_reducible apply State.record_unlock | with_reducible apply ite_unlock | split | dsimp only)

theorem State.addContradiction_unlock {arg : Option Word} (s : State) (kind die unit detail : Nat) (hwf : s.trust.unlockArg = arg) : (State.addContradiction s kind die unit detail).trust.unlockArg = arg := by
  unfold State.addContradiction
  repeat' (first | with_reducible assumption | with_reducible apply State.addDefect_unlock | with_reducible apply State.count_unlock | with_reducible apply State.record_unlock | with_reducible apply ite_unlock | split | dsimp only)

theorem State.setInbound_unlock {arg : Option Word} (s : State) (p i : Nat) (r : Inbound) (hwf : s.trust.unlockArg = arg) : (State.setInbound s p i r).trust.unlockArg = arg := by
  unfold State.setInbound
  repeat' (first | with_reducible assumption | with_reducible apply State.modPart_unlock | dsimp only)

theorem State.landOn_unlock {arg : Option Word} (s : State) (p i : Nat) (t : Token) (hwf : s.trust.unlockArg = arg) : (State.landOn s p i t).trust.unlockArg = arg := by
  unfold State.landOn
  repeat' (first | with_reducible assumption | with_reducible apply State.count_unlock | with_reducible apply State.setInbound_unlock | with_reducible apply ite_unlock | split | dsimp only)

theorem State.landUnit_unlock {arg : Option Word} (s : State) (b : Nat) (u : BitVec 552) (hwf : s.trust.unlockArg = arg) : (State.landUnit s b u).trust.unlockArg = arg := by
  unfold State.landUnit
  repeat' (first | with_reducible assumption | with_reducible apply State.count_unlock | with_reducible apply State.landOn_unlock | with_reducible apply ite_unlock | split | dsimp only)

theorem State.carry_unlock {arg : Option Word} (s : State) (b port cycle lane : Nat) (u : BitVec 552) (hwf : s.trust.unlockArg = arg) : (State.carry s b port cycle lane u).trust.unlockArg = arg := by
  unfold State.carry
  repeat' (first | with_reducible assumption | with_reducible apply State.count_unlock | with_reducible apply State.count64_unlock | with_reducible apply State.joinLate_unlock | with_reducible apply State.landUnit_unlock | with_reducible apply State.takeSlot_unlock | (with_reducible refine foldl_unlock _ (fun s x h => ?_) _ _ ?_) | (with_reducible refine foldl_fst_unlock _ (fun r x h => ?_) _ _ ?_) | with_reducible apply ite_unlock | split | dsimp only)

theorem State.enterCircuit_unlock {arg : Option Word} (s : State) (c circ : Nat) (t : Token) (hwf : s.trust.unlockArg = arg) : (State.enterCircuit s c circ t).trust.unlockArg = arg := by
  unfold State.enterCircuit
  repeat' (first | with_reducible assumption | with_reducible apply State.carry_unlock | with_reducible apply ite_unlock | split | dsimp only)

theorem State.chargeLoop_unlock {arg : Option Word} (s : State) (p i : Nat) (hwf : s.trust.unlockArg = arg) : (State.chargeLoop s p i).trust.unlockArg = arg := by
  unfold State.chargeLoop
  repeat' (first | with_reducible assumption | with_reducible apply State.record_unlock | with_reducible apply State.setCore_unlock | with_reducible apply ite_unlock | split | dsimp only)

theorem State.placeMark_unlock {arg : Option Word} (s : State) (p i : Nat) (m : Token) (hwf : s.trust.unlockArg = arg) : (State.placeMark s p i m).trust.unlockArg = arg := by
  unfold State.placeMark
  repeat' (first | with_reducible assumption | with_reducible apply State.chargeLoop_unlock | with_reducible apply State.enterCircuit_unlock | with_reducible apply State.setInbound_unlock | with_reducible apply ite_unlock | split | dsimp only)

theorem State.sendPacket_unlock {arg : Option Word} (s : State) (c : Nat) (p : Packet) (hwf : s.trust.unlockArg = arg) : (State.sendPacket s c p).trust.unlockArg = arg := by
  unfold State.sendPacket
  repeat' (first | with_reducible assumption | with_reducible apply State.setClu_unlock | dsimp only)

theorem State.rebase_unlock {arg : Option Word} (s : State) (h : Nat) (hwf : s.trust.unlockArg = arg) : (State.rebase s h).trust.unlockArg = arg := by
  unfold State.rebase
  repeat' (first | with_reducible assumption | with_reducible apply State.setCore_unlock | (with_reducible refine foldl_unlock _ (fun s x h => ?_) _ _ ?_) | with_reducible apply ite_unlock | split | dsimp only)

theorem State.invalidateCache_unlock {arg : Option Word} (s : State) (c : Nat) (hwf : s.trust.unlockArg = arg) : (State.invalidateCache s c).trust.unlockArg = arg := by
  unfold State.invalidateCache
  repeat' (first | with_reducible assumption | with_reducible apply State.count_unlock | with_reducible apply State.setClu_unlock | with_reducible apply ite_unlock | split | dsimp only)

theorem State.stopRuns_unlock {arg : Option Word} (s : State) (c : Nat) (hwf : s.trust.unlockArg = arg) : (State.stopRuns s c).trust.unlockArg = arg := by
  unfold State.stopRuns
  repeat' (first | with_reducible assumption | with_reducible apply State.scramble_unlock | (with_reducible refine foldl_unlock _ (fun s x h => ?_) _ _ ?_) | (with_reducible refine foldl_fst_unlock _ (fun r x h => ?_) _ _ ?_) | with_reducible apply ite_unlock | split | dsimp only)

theorem State.clearCluster_unlock {arg : Option Word} (s : State) (c : Nat) (counted : Bool) (hwf : s.trust.unlockArg = arg) : (State.clearCluster s c counted).trust.unlockArg = arg := by
  unfold State.clearCluster
  repeat' (first | with_reducible assumption | with_reducible apply State.count_unlock | with_reducible apply State.setClu_unlock | with_reducible apply State.setCore_unlock | with_reducible apply State.stopRuns_unlock | (with_reducible refine foldl_unlock _ (fun s x h => ?_) _ _ ?_) | with_reducible apply ite_unlock | split | dsimp only)

theorem State.clearRegion_unlock {arg : Option Word} (s : State) (p rn : Nat) (r : Region) (counted ports : Bool) (hwf : s.trust.unlockArg = arg) : (State.clearRegion s p rn r counted ports).trust.unlockArg = arg := by
  unfold State.clearRegion
  repeat' (first | with_reducible assumption | with_reducible apply State.clearCluster_unlock | with_reducible apply State.count_unlock | with_reducible apply State.modPart_unlock | (with_reducible refine foldl_unlock _ (fun s x h => ?_) _ _ ?_) | with_reducible apply ite_unlock | split | dsimp only)

theorem State.chargeEndpoint_unlock {arg : Option Word} (s : State) (c : Nat) (eid : BitVec 24) (n : Nat) (hwf : s.trust.unlockArg = arg) : (State.chargeEndpoint s c eid n).trust.unlockArg = arg := by
  unfold State.chargeEndpoint
  repeat' (first | with_reducible assumption | with_reducible apply State.setCore_unlock | with_reducible apply ite_unlock | split | dsimp only)

theorem State.sendWaiting_unlock {arg : Option Word} (s : State) (c : Nat) (hwf : s.trust.unlockArg = arg) : (State.sendWaiting s c).trust.unlockArg = arg := by
  unfold State.sendWaiting
  repeat' (first | with_reducible assumption | with_reducible apply State.chargeEndpoint_unlock | with_reducible apply State.sendPacket_unlock | with_reducible apply State.setClu_unlock | (with_reducible refine foldl_unlock _ (fun s x h => ?_) _ _ ?_) | (with_reducible refine foldl_fst_unlock _ (fun r x h => ?_) _ _ ?_) | with_reducible apply ite_unlock | split | dsimp only)

theorem State.sendMarks_unlock {arg : Option Word} (s : State) (p rn : Nat) (r : Region) (prev next : BitVec 3) (hwf : s.trust.unlockArg = arg) : (State.sendMarks s p rn r prev next).trust.unlockArg = arg := by
  unfold State.sendMarks
  repeat' (first | with_reducible assumption | with_reducible apply State.placeMark_unlock | with_reducible apply State.record_unlock | with_reducible apply State.sendWaiting_unlock | with_reducible apply State.setClu_unlock | (with_reducible refine foldl_unlock _ (fun s x h => ?_) _ _ ?_) | (with_reducible refine foldl_fst_unlock _ (fun r x h => ?_) _ _ ?_) | with_reducible apply ite_unlock | split | dsimp only)

theorem State.advanceEpoch_unlock {arg : Option Word} (s : State) (rn : Nat) (adopt : Bool) (hwf : s.trust.unlockArg = arg) : (State.advanceEpoch s rn adopt).trust.unlockArg = arg := by
  unfold State.advanceEpoch
  repeat' (first | with_reducible assumption | with_reducible apply State.modPart_unlock | with_reducible apply State.sendMarks_unlock | with_reducible apply State.setRegion_unlock | with_reducible apply ite_unlock | split | dsimp only)

theorem State.runPetal_unlock {arg : Option Word} (s : State) (h p : Nat) (hwf : s.trust.unlockArg = arg) : (State.runPetal s h p).trust.unlockArg = arg := by
  unfold State.runPetal
  repeat' (first | with_reducible assumption | with_reducible apply State.rebase_unlock | with_reducible apply State.setCore_unlock | with_reducible apply ite_unlock | split | dsimp only)

theorem State.freshPetals_unlock {arg : Option Word} (s : State) (h : Nat) (hwf : s.trust.unlockArg = arg) : (State.freshPetals s h).trust.unlockArg = arg := by
  unfold State.freshPetals
  repeat' (first | with_reducible assumption | with_reducible apply State.seedPetal_unlock | with_reducible apply State.setCore_unlock | (with_reducible refine foldl_unlock _ (fun s x h => ?_) _ _ ?_) | (with_reducible refine foldl_fst_unlock _ (fun r x h => ?_) _ _ ?_) | dsimp only)

theorem State.releaseCluster_unlock {arg : Option Word} (s : State) (c : Nat) (hwf : s.trust.unlockArg = arg) : (State.releaseCluster s c).trust.unlockArg = arg := by
  unfold State.releaseCluster
  repeat' (first | with_reducible assumption | with_reducible apply State.freshPetals_unlock | with_reducible apply State.runPetal_unlock | with_reducible apply State.setClu_unlock | (with_reducible refine foldl_unlock _ (fun s x h => ?_) _ _ ?_) | (with_reducible refine foldl_fst_unlock _ (fun r x h => ?_) _ _ ?_) | with_reducible apply ite_unlock | split | dsimp only)

theorem State.stopCluster_unlock {arg : Option Word} (s : State) (c : Nat) (hwf : s.trust.unlockArg = arg) : (State.stopCluster s c).trust.unlockArg = arg := by
  unfold State.stopCluster
  repeat' (first | with_reducible assumption | with_reducible apply State.setCore_unlock | (with_reducible refine foldl_unlock _ (fun s x h => ?_) _ _ ?_) | dsimp only)

theorem State.inject_unlock {arg : Option Word} (s : State) (p : Nat) (st : StepRec) (hwf : s.trust.unlockArg = arg) : (State.inject s p st).trust.unlockArg = arg := by
  unfold State.inject
  repeat' (first | with_reducible assumption | with_reducible apply State.setInbound_unlock | (with_reducible refine foldl_unlock _ (fun s x h => ?_) _ _ ?_) | (with_reducible refine foldl_fst_unlock _ (fun r x h => ?_) _ _ ?_) | with_reducible apply ite_unlock | split | dsimp only)

theorem State.clearEnds_unlock {arg : Option Word} (s : State) (p : Nat) (rs : List Nat) (hwf : s.trust.unlockArg = arg) : (State.clearEnds s p rs).trust.unlockArg = arg := by
  unfold State.clearEnds
  repeat' (first | with_reducible assumption | with_reducible apply State.modPart_unlock | with_reducible apply ite_unlock | split | dsimp only)

theorem State.clearPart_unlock {arg : Option Word} (s : State) (p : Nat) (hwf : s.trust.unlockArg = arg) : (State.clearPart s p).trust.unlockArg = arg := by
  unfold State.clearPart
  repeat' (first | with_reducible assumption | with_reducible apply State.clearRegion_unlock | with_reducible apply State.stopCluster_unlock | (with_reducible refine foldl_unlock _ (fun s x h => ?_) _ _ ?_) | (with_reducible refine foldl_fst_unlock _ (fun r x h => ?_) _ _ ?_) | dsimp only)

theorem State.advanceAll_unlock {arg : Option Word} (s : State) (p : Nat) (keep : List Nat) (hwf : s.trust.unlockArg = arg) : (State.advanceAll s p keep).trust.unlockArg = arg := by
  unfold State.advanceAll
  repeat' (first | with_reducible assumption | with_reducible apply State.advanceEpoch_unlock | (with_reducible refine foldl_unlock _ (fun s x h => ?_) _ _ ?_) | (with_reducible refine foldl_fst_unlock _ (fun r x h => ?_) _ _ ?_) | with_reducible apply ite_unlock | split | dsimp only)

theorem State.freezeDone_unlock {arg : Option Word} (s : State) (p : Nat) (hwf : s.trust.unlockArg = arg) : (State.freezeDone s p).trust.unlockArg = arg := by
  unfold State.freezeDone
  repeat' (first | with_reducible assumption | with_reducible apply State.finish_unlock | with_reducible apply State.record_unlock | (with_reducible refine foldl_unlock _ (fun s x h => ?_) _ _ ?_) | (with_reducible refine foldl_fst_unlock _ (fun r x h => ?_) _ _ ?_) | with_reducible apply ite_unlock | split | dsimp only)

theorem State.replay_unlock {arg : Option Word} (s : State) (p : Nat) (hwf : s.trust.unlockArg = arg) : (State.replay s p).trust.unlockArg = arg := by
  unfold State.replay
  repeat' (first | with_reducible assumption | with_reducible apply State.advanceAll_unlock | with_reducible apply State.clearEnds_unlock | with_reducible apply State.clearPart_unlock | with_reducible apply State.freezeDone_unlock | with_reducible apply State.freshPetals_unlock | with_reducible apply State.inject_unlock | with_reducible apply State.invalidateCache_unlock | with_reducible apply State.modPart_unlock | with_reducible apply State.releaseCluster_unlock | with_reducible apply State.setPower_unlock | (with_reducible refine foldl_unlock _ (fun s x h => ?_) _ _ ?_) | (with_reducible refine foldl_fst_unlock _ (fun r x h => ?_) _ _ ?_) | with_reducible apply ite_unlock | split | dsimp only)

theorem State.writeRemap_unlock {arg : Option Word} (s : State) (a n : Nat) (good : List Nat) (rows : List (Nat × Nat)) (hwf : s.trust.unlockArg = arg) : (State.writeRemap s a n good rows).trust.unlockArg = arg := by
  unfold State.writeRemap
  repeat' (first | with_reducible assumption | with_reducible apply State.setReg_unlock | (with_reducible refine foldl_unlock _ (fun s x h => ?_) _ _ ?_) | (with_reducible refine foldl_fst_unlock _ (fun r x h => ?_) _ _ ?_) | with_reducible apply ite_unlock | split | dsimp only)

theorem State.writeRemaps_unlock {arg : Option Word} (s : State) (b : Nat) (hwf : s.trust.unlockArg = arg) : (State.writeRemaps s b).trust.unlockArg = arg := by
  unfold State.writeRemaps
  repeat' (first | with_reducible assumption | with_reducible apply State.setField_unlock | with_reducible apply State.writeRemap_unlock | (with_reducible refine foldl_unlock _ (fun s x h => ?_) _ _ ?_) | dsimp only)

theorem State.unitsOut_unlock {arg : Option Word} (s : State) (out : PortRef) (n : Nat) (hwf : s.trust.unlockArg = arg) : (State.unitsOut s out n).trust.unlockArg = arg := by
  unfold State.unitsOut
  repeat' (first | with_reducible assumption | with_reducible apply State.count64_unlock | dsimp only)

theorem State.setMoving_unlock {arg : Option Word} (s : State) (i : Nat) (m : Moving) (hwf : s.trust.unlockArg = arg) : (State.setMoving s i m).trust.unlockArg = arg := by
  unfold State.setMoving
  repeat' (first | with_reducible assumption | dsimp only)

theorem State.notePeak_unlock {arg : Option Word} (s : State) (p : PortRef) (hwf : s.trust.unlockArg = arg) : (State.notePeak s p).trust.unlockArg = arg := by
  unfold State.notePeak
  repeat' (first | with_reducible assumption | with_reducible apply State.setField_unlock | with_reducible apply ite_unlock | split | dsimp only)

theorem State.passLeg_unlock {arg : Option Word} (s : State) (i j : Nat) (hwf : s.trust.unlockArg = arg) : (State.passLeg s i j).trust.unlockArg = arg := by
  unfold State.passLeg
  repeat' (first | with_reducible assumption | with_reducible apply State.notePeak_unlock | with_reducible apply State.setMoving_unlock | with_reducible apply State.unitsOut_unlock | with_reducible apply ite_unlock | split | dsimp only)

theorem State.passPacket_unlock {arg : Option Word} (s : State) (i : Nat) (hwf : s.trust.unlockArg = arg) : (State.passPacket s i).trust.unlockArg = arg := by
  unfold State.passPacket
  repeat' (first | with_reducible assumption | with_reducible apply State.passLeg_unlock | (with_reducible refine foldl_unlock _ (fun s x h => ?_) _ _ ?_) | with_reducible apply ite_unlock | split | dsimp only)

theorem State.settleNet_unlock {arg : Option Word} (s : State) (n : Nat) (hwf : s.trust.unlockArg = arg) : (State.settleNet s n).trust.unlockArg = arg := by
  induction n generalizing s with
  | zero => exact hwf
  | succ n ih =>
    rw [State.settleNet]
    repeat' (first | with_reducible assumption | with_reducible apply ih | with_reducible apply State.passPacket_unlock | (with_reducible refine foldl_unlock _ (fun s x h => ?_) _ _ ?_) | with_reducible apply ite_unlock | split | dsimp only)

theorem State.addMoving_unlock {arg : Option Word} (s : State) (t : Target) (a : Nat) (p : Packet) (hwf : s.trust.unlockArg = arg) : (State.addMoving s t a p).trust.unlockArg = arg := by
  unfold State.addMoving
  repeat' (first | with_reducible assumption | dsimp only)

theorem State.enterNet_unlock {arg : Option Word} (s : State) (t : Target) (r : BitVec 1 × Nat) (a c port : Nat) (p : Packet) (hwf : s.trust.unlockArg = arg) : (State.enterNet s t r a c port p).trust.unlockArg = arg := by
  unfold State.enterNet
  repeat' (first | with_reducible assumption | with_reducible apply State.settleNet_unlock | dsimp only)

theorem State.answerUnreach_unlock {arg : Option Word} (s : State) (t : Target) (a c : Nat) (p : Packet) (hwf : s.trust.unlockArg = arg) : (State.answerUnreach s t a c p).trust.unlockArg = arg := by
  unfold State.answerUnreach
  repeat' (first | with_reducible assumption | with_reducible apply State.addMoving_unlock | with_reducible apply State.count_unlock | with_reducible apply ite_unlock | split | dsimp only)

theorem State.sourceRoute_unlock {arg : Option Word} (s : State) (t : Target) (a c port : Nat) (p : Packet) (hwf : s.trust.unlockArg = arg) : (State.sourceRoute s t a c port p).trust.unlockArg = arg := by
  unfold State.sourceRoute
  repeat' (first | with_reducible assumption | with_reducible apply State.answerUnreach_unlock | with_reducible apply State.enterNet_unlock | with_reducible apply ite_unlock | split | dsimp only)

theorem State.fromDie_unlock {arg : Option Word} (s : State) (n a : Nat) (t : Target) (p : Packet) (hwf : s.trust.unlockArg = arg) : (State.fromDie s n a t p).trust.unlockArg = arg := by
  unfold State.fromDie
  repeat' (first | with_reducible assumption | with_reducible apply State.addMoving_unlock | with_reducible apply State.sourceRoute_unlock | with_reducible apply ite_unlock | split | dsimp only)

theorem State.launch_unlock {arg : Option Word} (s : State) (a : Nat) (p : Packet) (hwf : s.trust.unlockArg = arg) : (State.launch s a p).trust.unlockArg = arg := by
  unfold State.launch
  repeat' (first | with_reducible assumption | with_reducible apply State.addMoving_unlock | with_reducible apply State.fromDie_unlock | with_reducible apply State.sourceRoute_unlock | with_reducible apply ite_unlock | split | dsimp only)

theorem State.setSend_unlock {arg : Option Word} (s : State) (f : SendFlow) (hwf : s.trust.unlockArg = arg) : (State.setSend s f).trust.unlockArg = arg := by
  unfold State.setSend
  repeat' (first | with_reducible assumption | with_reducible apply ite_unlock | split | dsimp only)

theorem State.setUnacked_unlock {arg : Option Word} (s : State) (key : FlowKey) (u v : Unacked) (hwf : s.trust.unlockArg = arg) : (State.setUnacked s key u v).trust.unlockArg = arg := by
  unfold State.setUnacked
  repeat' (first | with_reducible assumption | with_reducible apply State.setSend_unlock | with_reducible apply ite_unlock | split | dsimp only)

theorem State.resend_unlock {arg : Option Word} (s : State) (f : FlowKey) (u : Unacked) (v : Unacked) (hwf : s.trust.unlockArg = arg) : (State.resend s f u v).trust.unlockArg = arg := by
  unfold State.resend
  repeat' (first | with_reducible assumption | with_reducible apply State.count_unlock | with_reducible apply State.draw_unlock | with_reducible apply State.launch_unlock | with_reducible apply State.setUnacked_unlock | with_reducible apply ite_unlock | split | dsimp only)

theorem State.forgetHbm_unlock {arg : Option Word} (s : State) (n : Nat) (hwf : s.trust.unlockArg = arg) : (s.forgetHbm n).trust.unlockArg = arg := hwf

theorem State.loseStack_unlock {arg : Option Word} (s : State) (n cause : Nat) (hwf : s.trust.unlockArg = arg) : (State.loseStack s n cause).trust.unlockArg = arg := by
  unfold State.loseStack
  repeat' (first | with_reducible assumption | with_reducible apply State.forgetHbm_unlock | with_reducible apply State.record_unlock | with_reducible apply State.setField_unlock | with_reducible apply State.setPanelState_unlock | with_reducible apply State.setStack_unlock | with_reducible apply ite_unlock | split | dsimp only)

theorem State.drive_unlock {arg : Option Word} (s : State) (port : Nat) (f : Bytes) (hwf : s.trust.unlockArg = arg) : (State.drive s port f).trust.unlockArg = arg := by
  unfold State.drive
  repeat' (first | with_reducible assumption | with_reducible apply State.setPort_unlock | (with_reducible refine foldl_unlock _ (fun s x h => ?_) _ _ ?_) | (with_reducible refine foldl_fst_unlock _ (fun r x h => ?_) _ _ ?_) | dsimp only)

theorem State.sendControl_unlock {arg : Option Word} (s : State) (port : Nat) (payload : Bytes) (hwf : s.trust.unlockArg = arg) : (State.sendControl s port payload).trust.unlockArg = arg := by
  unfold State.sendControl
  repeat' (first | with_reducible assumption | with_reducible apply State.drive_unlock | with_reducible apply State.setPort_unlock | dsimp only)

theorem State.setLink_unlock {arg : Option Word} (s : State) (port st : Nat) (hwf : s.trust.unlockArg = arg) : (State.setLink s port st).trust.unlockArg = arg := by
  unfold State.setLink
  repeat' (first | with_reducible assumption | with_reducible apply State.setField_unlock | with_reducible apply ite_unlock | split | dsimp only)

theorem State.portRuns_unlock {arg : Option Word} (s : State) (port : Nat) (w : Nat × Nat) (reset : Bool) (hwf : s.trust.unlockArg = arg) : (State.portRuns s port w reset).trust.unlockArg = arg := by
  unfold State.portRuns
  repeat' (first | with_reducible assumption | with_reducible apply State.replay_unlock | with_reducible apply State.resend_unlock | with_reducible apply State.sendControl_unlock | with_reducible apply State.setField_unlock | with_reducible apply State.setLink_unlock | with_reducible apply State.setPort_unlock | with_reducible apply ite_unlock | split | dsimp only)

theorem State.refreshState_unlock {arg : Option Word} (s : State) (hwf : s.trust.unlockArg = arg) : (State.refreshState s).trust.unlockArg = arg := by
  unfold State.refreshState
  repeat' (first | with_reducible assumption | with_reducible apply State.setPanelState_unlock | with_reducible apply ite_unlock | split | dsimp only)

theorem State.moduleHours_unlock {arg : Option Word} (s : State) (bay : Nat) (hwf : s.trust.unlockArg = arg) : (State.moduleHours s bay).trust.unlockArg = arg := by
  unfold State.moduleHours
  repeat' (first | with_reducible assumption | with_reducible apply State.draw_unlock | with_reducible apply State.setReg_unlock | dsimp only)

theorem State.setPcie_unlock {arg : Option Word} (s : State) (up : Bool) (hwf : s.trust.unlockArg = arg) : (State.setPcie s up).trust.unlockArg = arg := by
  unfold State.setPcie
  repeat' (first | with_reducible assumption | with_reducible apply State.pulse_unlock | with_reducible apply ite_unlock | split | dsimp only)

theorem State.loseLink_unlock {arg : Option Word} (s : State) (die : Nat) (hwf : s.trust.unlockArg = arg) : (State.loseLink s die).trust.unlockArg = arg := by
  unfold State.loseLink
  repeat' (first | with_reducible assumption | with_reducible apply State.refreshState_unlock | with_reducible apply State.setLink_unlock | with_reducible apply State.setPcie_unlock | with_reducible apply State.setPort_unlock | (with_reducible refine foldl_unlock _ (fun s x h => ?_) _ _ ?_) | (with_reducible refine foldl_fst_unlock _ (fun r x h => ?_) _ _ ?_) | with_reducible apply ite_unlock | split | dsimp only)

theorem State.noteTests_unlock {arg : Option Word} (s : State) (found : Nat → Nat → Nat → Nat → Option Bool) (hwf : s.trust.unlockArg = arg) : (State.noteTests s found).trust.unlockArg = arg := by
  unfold State.noteTests
  repeat' (first | with_reducible assumption | with_reducible apply State.addContradiction_unlock | (with_reducible refine foldl_unlock _ (fun s x h => ?_) _ _ ?_) | (with_reducible refine foldl_fst_unlock _ (fun r x h => ?_) _ _ ?_) | with_reducible apply ite_unlock | split | dsimp only)

theorem State.showTest_unlock {arg : Option Word} (s : State) (b : Nat) (r : TestResult) (hwf : s.trust.unlockArg = arg) : (State.showTest s b r).trust.unlockArg = arg := by
  unfold State.showTest
  repeat' (first | with_reducible assumption | with_reducible apply State.setField_unlock | with_reducible apply State.setReg_unlock | with_reducible apply State.setReg64_unlock | (with_reducible refine foldl_unlock _ (fun s x h => ?_) _ _ ?_) | with_reducible apply ite_unlock | split | dsimp only)

theorem State.testBlock_unlock {arg : Option Word} (s : State) (b : Nat) (r : TestResult) (source : Nat) (hwf : s.trust.unlockArg = arg) : (State.testBlock s b r source).trust.unlockArg = arg := by
  unfold State.testBlock
  repeat' (first | with_reducible assumption | with_reducible apply State.addDefect_unlock | with_reducible apply State.setPhys_unlock | with_reducible apply State.showTest_unlock | with_reducible apply State.writeRemaps_unlock | (with_reducible refine foldl_unlock _ (fun s x h => ?_) _ _ ?_) | (with_reducible refine foldl_fst_unlock _ (fun r x h => ?_) _ _ ?_) | with_reducible apply ite_unlock | split | dsimp only)

theorem State.showDie_unlock {arg : Option Word} (s : State) (die : Nat) (ok : Bool) (hwf : s.trust.unlockArg = arg) : (State.showDie s die ok).trust.unlockArg = arg := by
  unfold State.showDie
  repeat' (first | with_reducible assumption | with_reducible apply State.setField_unlock | dsimp only)

theorem State.startDies_unlock {arg : Option Word} (s : State) (f : BringupFound) (hwf : s.trust.unlockArg = arg) : (State.startDies s f).trust.unlockArg = arg := by
  unfold State.startDies
  repeat' (first | with_reducible assumption | with_reducible apply State.addDefect_unlock | with_reducible apply State.setField_unlock | with_reducible apply State.setReg_unlock | (with_reducible refine foldl_unlock _ (fun s x h => ?_) _ _ ?_) | (with_reducible refine foldl_fst_unlock _ (fun r x h => ?_) _ _ ?_) | dsimp only)

theorem State.fenceSteppings_unlock {arg : Option Word} (s : State) (hwf : s.trust.unlockArg = arg) : (State.fenceSteppings s).trust.unlockArg = arg := by
  unfold State.fenceSteppings
  repeat' (first | with_reducible assumption | with_reducible apply State.record_unlock | (with_reducible refine foldl_unlock _ (fun s x h => ?_) _ _ ?_) | with_reducible apply ite_unlock | split | dsimp only)

theorem State.testClusters_unlock {arg : Option Word} (s : State) (f : BringupFound) (hwf : s.trust.unlockArg = arg) : (State.testClusters s f).trust.unlockArg = arg := by
  unfold State.testClusters
  repeat' (first | with_reducible assumption | with_reducible apply State.addDefect_unlock | with_reducible apply State.showDie_unlock | with_reducible apply State.testBlock_unlock | (with_reducible refine foldl_unlock _ (fun s x h => ?_) _ _ ?_) | with_reducible apply ite_unlock | split | dsimp only)

theorem State.trainStacks_unlock {arg : Option Word} (s : State) (f : BringupFound) (hwf : s.trust.unlockArg = arg) : (State.trainStacks s f).trust.unlockArg = arg := by
  unfold State.trainStacks
  repeat' (first | with_reducible assumption | with_reducible apply State.addDefect_unlock | with_reducible apply State.loseStack_unlock | with_reducible apply State.setField_unlock | with_reducible apply State.setStack_unlock | (with_reducible refine foldl_unlock _ (fun s x h => ?_) _ _ ?_) | (with_reducible refine foldl_fst_unlock _ (fun r x h => ?_) _ _ ?_) | with_reducible apply ite_unlock | split | dsimp only)

theorem State.trainLinks_unlock {arg : Option Word} (s : State) (f : BringupFound) (hwf : s.trust.unlockArg = arg) : (State.trainLinks s f).trust.unlockArg = arg := by
  unfold State.trainLinks
  repeat' (first | with_reducible assumption | with_reducible apply State.addDefect_unlock | with_reducible apply State.loseLink_unlock | with_reducible apply State.moduleHours_unlock | with_reducible apply State.portRuns_unlock | with_reducible apply State.setField_unlock | (with_reducible refine foldl_unlock _ (fun s x h => ?_) _ _ ?_) | (with_reducible refine foldl_fst_unlock _ (fun r x h => ?_) _ _ ?_) | with_reducible apply ite_unlock | split | dsimp only)

theorem State.setRole_unlock {arg : Option Word} (s : State) (d role : Nat) (hwf : s.trust.unlockArg = arg) : (State.setRole s d role).trust.unlockArg = arg := by
  unfold State.setRole
  repeat' (first | with_reducible assumption | with_reducible apply ite_unlock | split | dsimp only)

theorem State.startGleryn_unlock {arg : Option Word} (s : State) (d : Nat) (otherOk : Bool) (f : BringupFound) (hwf : s.trust.unlockArg = arg) : (State.startGleryn s d otherOk f).trust.unlockArg = arg := by
  unfold State.startGleryn
  repeat' (first | with_reducible assumption | with_reducible apply State.draw_unlock | with_reducible apply State.record_unlock | with_reducible apply State.setField_unlock | with_reducible apply State.setMgt_unlock | with_reducible apply State.setMgtField_unlock | with_reducible apply State.setReg_unlock | with_reducible apply State.setRole_unlock | with_reducible apply ite_unlock | split | dsimp only)

theorem State.testAll_unlock {arg : Option Word} (s : State) (f : BringupFound) (hwf : s.trust.unlockArg = arg) : (State.testAll s f).trust.unlockArg = arg := by
  unfold State.testAll
  repeat' (first | with_reducible assumption | with_reducible apply State.fenceSteppings_unlock | with_reducible apply State.noteTests_unlock | with_reducible apply State.startDies_unlock | with_reducible apply State.testClusters_unlock | with_reducible apply State.trainLinks_unlock | with_reducible apply State.trainStacks_unlock | dsimp only)

end Sys2Proof.Laws
end

