-- ==== Sys2Proof/Laws/Table.lean ====
section
/-! SUPPORT. Tables and memory: reads after writes, and that every memory operation keeps the canonical form. -/

namespace Sys2Proof.Laws

open Sys2Proof.Machine

theorem foldl_wf {α : Type} (g : State → α → State) (h : ∀ s x, Memory.wf s.mem = true → Memory.wf (g s x).mem = true) (l : List α)
    (s : State) (hs : Memory.wf s.mem = true) : Memory.wf (l.foldl g s).mem = true := by
  induction l generalizing s with
  | nil => exact hs
  | cons x xs ih => rw [List.foldl_cons]; exact ih _ (h _ _ hs)

/-- The same with the result of each step named: the kernel then never unfolds the step to compare two spellings of it. -/
theorem foldl_eq_wf {α : Type} (g : State → α → State) (h : ∀ s x t, Memory.wf s.mem = true → t = g s x → Memory.wf t.mem = true) (l : List α)
    (s : State) (hs : Memory.wf s.mem = true) : Memory.wf (l.foldl g s).mem = true :=
  foldl_wf g (fun s x hs => h s x (g s x) hs rfl) l s hs

theorem ite_wf {c : Prop} [Decidable c] (s t : State) (hs : Memory.wf s.mem = true) (ht : Memory.wf t.mem = true) : Memory.wf (if c then s else t).mem = true := by
  by_cases h : c
  · rw [if_pos h]; exact hs
  · rw [if_neg h]; exact ht

theorem tblFrom_mono {α : Type} [DecidableEq α] (d : α) : ∀ (t : Tbl α) (a b : Nat), b ≤ a → tblFrom d a t = true → tblFrom d b t = true := by
  intro t a b hab h
  cases t with
  | nil => rfl
  | cons e t =>
    obtain ⟨k, v⟩ := e
    simp only [tblFrom, Bool.and_eq_true, decide_eq_true_eq] at h ⊢
    exact ⟨⟨Nat.le_trans hab h.1.1, h.1.2⟩, h.2⟩

theorem tblFrom_filter {α : Type} [DecidableEq α] (d : α) (p : Nat × α → Bool) : ∀ (t : Tbl α) (a : Nat), tblFrom d a t = true → tblFrom d a (t.filter p) = true := by
  intro t
  induction t with
  | nil => intro a h; exact h
  | cons e t ih =>
    intro a h
    obtain ⟨k, v⟩ := e
    simp only [tblFrom, Bool.and_eq_true, decide_eq_true_eq] at h
    rw [List.filter_cons]
    split
    · simp only [tblFrom, Bool.and_eq_true, decide_eq_true_eq]
      exact ⟨h.1, ih _ h.2⟩
    · exact tblFrom_mono d _ _ _ (Nat.le_succ_of_le h.1.1) (ih _ h.2)

/-- A table from a bound whose keys lie below another followed by one from there. -/
theorem tblFrom_append {α : Type} [DecidableEq α] (d : α) (u : Tbl α) (m : Nat) (hu : tblFrom d m u = true) : ∀ (t : Tbl α) (a : Nat),
    a ≤ m → (∀ e ∈ t, e.1 < m) → tblFrom d a t = true → tblFrom d a (t ++ u) = true := by
  intro t
  induction t with
  | nil => intro a ha _ _; exact tblFrom_mono d _ _ _ ha hu
  | cons e t ih =>
    intro a _ hk h
    obtain ⟨k, v⟩ := e
    simp only [List.cons_append, tblFrom, Bool.and_eq_true, decide_eq_true_eq] at h ⊢
    exact ⟨h.1, ih _ (hk (k, v) (by simp)) (fun e he => hk e (by simp [he])) h.2⟩

theorem tblFrom_raise {α : Type} [DecidableEq α] (d : α) (m : Nat) : ∀ (t : Tbl α) (a : Nat),
    (∀ e ∈ t, m ≤ e.1) → tblFrom d a t = true → tblFrom d m t = true := by
  intro t
  cases t with
  | nil => intro a _ h; exact h
  | cons e t =>
    intro a hk h
    obtain ⟨k, v⟩ := e
    simp only [tblFrom, Bool.and_eq_true, decide_eq_true_eq] at h ⊢
    exact ⟨⟨hk (k, v) (by simp), h.1.2⟩, h.2⟩

theorem wf_filter (m : List Host.Cell) (p : Host.Cell → Bool) (h : Memory.wf m = true) : Memory.wf (m.filter p) = true :=
  tblFrom_filter _ _ _ _ h

theorem cellsAt_bounds : ∀ (bs : Bytes) (a : Nat), ∀ e ∈ cellsAt a bs, a ≤ e.1 ∧ e.1 < a + bs.length := by
  intro bs
  induction bs with
  | nil => intro a e he; simp [cellsAt] at he
  | cons b bs ih =>
    intro a e he
    simp only [cellsAt] at he
    split at he
    · have := ih _ e he
      simp only [List.length_cons]; omega
    · rcases List.mem_cons.mp he with h | h
      · subst h; simp
      · have := ih _ e h
        simp only [List.length_cons]; omega

theorem cellsAt_wf : ∀ (bs : Bytes) (a : Nat), tblFrom unlistedByte a (cellsAt a bs) = true := by
  intro bs
  induction bs with
  | nil => intro a; rfl
  | cons b bs ih =>
    intro a
    simp only [cellsAt]
    split
    · exact tblFrom_mono _ _ _ _ (Nat.le_succ a) (ih _)
    · rename_i hb
      simp only [tblFrom, Bool.and_eq_true, decide_eq_true_eq]
      exact ⟨⟨Nat.le_refl _, hb⟩, ih _⟩

/-- Memory made of the cells below a, a middle part within [a, b), and the cells from b. -/
theorem wf_splice (m mid : List Host.Cell) (a b : Nat) (hab : a ≤ b) (h : Memory.wf m = true)
    (hm : tblFrom unlistedByte a mid = true) (hb : ∀ e ∈ mid, e.1 < b) :
    Memory.wf (m.filter (fun c => decide (c.1 < a)) ++ mid ++ m.filter (fun c => decide (b ≤ c.1))) = true := by
  unfold Memory.wf
  rw [List.append_assoc]
  apply tblFrom_append _ _ a
  · apply tblFrom_append _ _ b
    · apply tblFrom_raise _ _ _ 0
      · intro e he
        simpa using (List.mem_filter.mp he).2
      · exact wf_filter _ _ h
    · exact hab
    · exact hb
    · exact hm
  · omega
  · intro e he
    simpa using (List.mem_filter.mp he).2
  · exact wf_filter _ _ h

theorem memWrite_wf (m : List Host.Cell) (a : Nat) (bs : Bytes) (h : Memory.wf m = true) : Memory.wf (memWrite m a bs) = true :=
  wf_splice m _ a (a + bs.length) (by omega) h (cellsAt_wf bs a) fun e he => (cellsAt_bounds bs a e he).2

theorem tblFrom_shift (src dst : Nat) : ∀ (t : List Host.Cell) (lo : Nat), src ≤ lo → (∀ e ∈ t, src ≤ e.1) → tblFrom unlistedByte lo t = true →
    tblFrom unlistedByte (lo - src + dst) (t.map fun c => (c.1 - src + dst, c.2)) = true := by
  intro t
  induction t with
  | nil => intro lo _ _ _; rfl
  | cons e t ih =>
    intro lo hs hk h
    obtain ⟨k, v⟩ := e
    simp only [List.map_cons, tblFrom, Bool.and_eq_true, decide_eq_true_eq] at h ⊢
    have hk' := hk (k, v) (by simp)
    simp only at hk'
    refine ⟨⟨by omega, h.1.2⟩, ?_⟩
    have := ih (k + 1) (by omega) (fun e he => hk e (by simp [he])) h.2
    rwa [show k + 1 - src + dst = k - src + dst + 1 by omega] at this

theorem memCopy_wf (m : List Host.Cell) (src dst n : Nat) (h : Memory.wf m = true) : Memory.wf (memCopy m src dst n) = true := by
  apply wf_splice m _ dst (dst + n) (by omega) h
  · have h1 : tblFrom unlistedByte src (m.filter fun c => decide (src ≤ c.1) && decide (c.1 < src + n)) = true := by
      apply tblFrom_raise _ _ _ 0
      · intro e he
        have := (List.mem_filter.mp he).2
        simp only [Bool.and_eq_true, decide_eq_true_eq] at this
        exact this.1
      · exact wf_filter _ _ h
    have := tblFrom_shift src dst _ src (Nat.le_refl _) (by
      intro e he
      have := (List.mem_filter.mp he).2
      simp only [Bool.and_eq_true, decide_eq_true_eq] at this
      exact this.1) h1
    rwa [Nat.sub_self, Nat.zero_add] at this
  · intro e he
    obtain ⟨c, hc, rfl⟩ := List.mem_map.mp he
    have := (List.mem_filter.mp hc).2
    simp only [Bool.and_eq_true, decide_eq_true_eq] at this
    simp only; omega

theorem memZero_wf (m : List Host.Cell) (a n : Nat) (h : Memory.wf m = true) : Memory.wf (memZero m a n) = true := by
  have := wf_splice m [] a (a + n) (by omega) h rfl (by simp)
  rwa [List.append_nil] at this

theorem foldl_fst_wf {α β : Type} (g : State × β → α → State × β) (h : ∀ r x, Memory.wf r.1.mem = true → Memory.wf (g r x).1.mem = true) (l : List α)
    (z : State × β) (hz : Memory.wf z.1.mem = true) : Memory.wf (l.foldl g z).1.mem = true := by
  induction l generalizing z with
  | nil => exact hz
  | cons x xs ih => rw [List.foldl_cons]; exact ih _ (h _ _ hz)

theorem tget_del {α : Type} (d : α) (t : Tbl α) (k k' : Nat) : tget d (tdel t k) k' = if k = k' then d else tget d t k' := by
  induction t with
  | nil => simp [tdel, tget]
  | cons e t ih =>
    obtain ⟨j, v⟩ := e
    unfold tdel at ih ⊢
    rw [List.filter_cons]
    by_cases hj : j = k
    · subst hj
      simp only [bne_self_eq_false, Bool.false_eq_true, if_false, ih, tget]
      by_cases h : j = k'
      · simp [h]
      · simp [h, Ne.symm h]
    · have : (j != k) = true := by simpa using hj
      simp only [this, if_true, tget, ih]
      by_cases h : k' = j
      · subst h
        simp [Ne.symm hj]
      · simp [h]

theorem tget_put {α : Type} (d : α) (t : Tbl α) (k k' : Nat) (v : α) (h : ∀ e ∈ t, e.1 ≠ k) : tget d (tput t k v) k' = if k = k' then v else tget d t k' := by
  induction t with
  | nil =>
    simp only [tput, tget]
    by_cases e : k = k' <;> simp [e, eq_comm]
  | cons e t ih =>
    obtain ⟨j, w⟩ := e
    have hj : j ≠ k := h (j, w) (by simp)
    have ih := ih fun e he => h e (by simp [he])
    simp only [tput]
    split
    · simp only [tget]
      by_cases e : k = k' <;> simp [e, eq_comm]
    · simp only [tget, ih]
      by_cases e : k' = j
      · subst e
        simp [Ne.symm hj]
      · simp [e]

theorem tdel_no_key {α : Type} (t : Tbl α) (k : Nat) : ∀ e ∈ tdel t k, e.1 ≠ k := by
  intro e he
  simpa using (List.mem_filter.mp he).2

/-- A read after a write gives the value written, and every other place is left alone. -/
theorem tget_tset {α : Type} [DecidableEq α] (d : α) (t : Tbl α) (k k' : Nat) (v : α) : tget d (tset d t k v) k' = if k = k' then v else tget d t k' := by
  unfold tset
  split
  · rename_i h
    rw [tget_del, h]
  · rw [tget_put _ _ _ _ _ (tdel_no_key t k), tget_del]
    by_cases e : k = k' <;> simp [e]

/-- The same of another place, whatever the defaults of the two are. -/
theorem tget_tset_ne {α : Type} [DecidableEq α] (d d' : α) (t : Tbl α) (k k' : Nat) (v : α) (e : k ≠ k') : tget d' (tset d t k v) k' = tget d' t k' := by
  unfold tset
  split
  · rw [tget_del, if_neg e]
  · rw [tget_put _ _ _ _ _ (tdel_no_key t k), if_neg e, tget_del, if_neg e]

theorem memByte_of_lt (a : Nat) : ∀ (m : List Host.Cell) (lo : Nat), tblFrom unlistedByte lo m = true → a < lo → memByte m a = unlistedByte := by
  intro m
  induction m with
  | nil => intro lo _ _; rfl
  | cons e m ih =>
    intro lo h hl
    obtain ⟨k, v⟩ := e
    simp only [tblFrom, Bool.and_eq_true, decide_eq_true_eq] at h
    have hne : a ≠ k := by omega
    have := ih (k + 1) h.2 (by omega)
    unfold memByte at this ⊢
    simp only [tget, hne, if_false, this]

theorem tget_append {α : Type} (d : α) (t u : Tbl α) (k : Nat) (h : ∀ e ∈ t, e.1 ≠ k) : tget d (t ++ u) k = tget d u k := by
  induction t with
  | nil => rfl
  | cons e t ih =>
    obtain ⟨j, v⟩ := e
    have hj : k ≠ j := Ne.symm (h (j, v) (by simp))
    simp only [List.cons_append, tget, hj, if_false]
    exact ih fun e he => h e (by simp [he])

theorem tget_append_left {α : Type} (d : α) (t u : Tbl α) (k : Nat) (h : ∀ e ∈ u, e.1 ≠ k) : tget d (t ++ u) k = tget d t k := by
  induction t with
  | nil =>
    simp only [List.nil_append, tget]
    induction u with
    | nil => rfl
    | cons e u ih =>
      obtain ⟨j, v⟩ := e
      have hj : k ≠ j := Ne.symm (h (j, v) (by simp))
      simp only [tget, hj, if_false]
      exact ih fun e he => h e (by simp [he])
  | cons e t ih =>
    obtain ⟨j, v⟩ := e
    simp only [List.cons_append, tget, ih]

theorem tget_filter {α : Type} (d : α) (t : Tbl α) (k : Nat) (p : Nat × α → Bool) (h : ∀ v, p (k, v) = true) : tget d (t.filter p) k = tget d t k := by
  induction t with
  | nil => rfl
  | cons e t ih =>
    obtain ⟨j, v⟩ := e
    rw [List.filter_cons]
    by_cases e : k = j
    · subst e
      rw [h v]
      simp [tget]
    · split
      · simp only [tget, e, if_false, ih]
      · simp only [tget, e, if_false, ih]

theorem tget_cellsAt : ∀ (bs : Bytes) (a k : Nat), a ≤ k → k < a + bs.length → tget unlistedByte (cellsAt a bs) k = bs.getD (k - a) 0 := by
  intro bs
  induction bs with
  | nil => intro a k h1 h2; simp at h2; omega
  | cons b bs ih =>
    intro a k h1 h2
    simp only [List.length_cons] at h2
    simp only [cellsAt]
    by_cases e : k = a
    · subst e
      rw [Nat.sub_self]
      split
      · rename_i hb
        rw [hb]
        exact memByte_of_lt k _ (k + 1) (cellsAt_wf bs (k + 1)) (by omega)
      · simp [tget]
    · have hk : k - a = (k - (a + 1)) + 1 := by omega
      have := ih (a + 1) k (by omega) (by omega)
      split
      · rw [this, hk, List.getD_cons_succ]
      · simp only [tget, e, if_false]
        rw [this, hk, List.getD_cons_succ]

/-- Outside the bytes written, memory reads as before. -/
theorem memByte_write_out (m : List Host.Cell) (a k : Nat) (bs : Bytes) (h : k < a ∨ a + bs.length ≤ k) : memByte (memWrite m a bs) k = memByte m k := by
  unfold memByte memWrite
  rcases h with h | h
  · rw [List.append_assoc, tget_append_left, tget_filter]
    · intro v; simpa using h
    · intro e he
      rcases List.mem_append.mp he with he | he
      · have := cellsAt_bounds bs a e he; omega
      · have := (List.mem_filter.mp he).2
        simp only [decide_eq_true_eq] at this
        omega
  · rw [tget_append, tget_filter]
    · intro v; simpa using h
    · intro e he
      rcases List.mem_append.mp he with he | he
      · have := (List.mem_filter.mp he).2
        simp only [decide_eq_true_eq] at this
        omega
      · have := cellsAt_bounds bs a e he; omega

/-- The bytes written read back. -/
theorem memByte_write_in (m : List Host.Cell) (a k : Nat) (bs : Bytes) (h1 : a ≤ k) (h2 : k < a + bs.length) :
    memByte (memWrite m a bs) k = bs.getD (k - a) 0 := by
  unfold memByte memWrite
  rw [List.append_assoc, tget_append, tget_append_left, tget_cellsAt bs a k h1 h2]
  · intro e he
    have := (List.mem_filter.mp he).2
    simp only [decide_eq_true_eq] at this
    omega
  · intro e he
    have := (List.mem_filter.mp he).2
    simp only [decide_eq_true_eq] at this
    omega

theorem tdel_noop {α : Type} (t : Tbl α) (k : Nat) (h : ∀ e ∈ t, e.1 ≠ k) : tdel t k = t := by
  unfold tdel
  rw [List.filter_eq_self]
  intro e he
  simpa using h e he

theorem tdel_put {α : Type} (t : Tbl α) (k : Nat) (v : α) (h : ∀ e ∈ t, e.1 ≠ k) : tdel (tput t k v) k = t := by
  induction t with
  | nil => simp [tput, tdel]
  | cons e t ih =>
    obtain ⟨j, w⟩ := e
    have hj : j ≠ k := h (j, w) (by simp)
    have ih := ih fun e he => h e (by simp [he])
    simp only [tput]
    split
    · unfold tdel
      rw [List.filter_cons]
      simp only [bne_self_eq_false, Bool.false_eq_true, if_false]
      exact tdel_noop _ _ h
    · unfold tdel at ih ⊢
      rw [List.filter_cons, ih]
      simp [hj]

/-- A second write to the same place leaves only the second. -/
theorem tset_tset {α : Type} [DecidableEq α] (d : α) (t : Tbl α) (k : Nat) (v w : α) : tset d (tset d t k v) k w = tset d t k w := by
  have h : tdel (tset d t k v) k = tdel t k := by
    unfold tset
    split
    · exact tdel_noop _ _ (tdel_no_key t k)
    · exact tdel_put _ _ _ (tdel_no_key t k)
  unfold tset at h ⊢
  rw [h]

end Sys2Proof.Laws
end

