-- ==== Sys2Proof/Laws/Canon.lean ====
section
/-! SUPPORT. Each operation of Regs, Ops, Random, Operands, Flags, Circuits, DefectMap leaves panel memory in canonical form. -/

namespace Sys2Proof.Laws

open Sys2Proof.Machine

set_option linter.unusedTactic false
set_option linter.unreachableTactic false
set_option linter.unusedVariables false

theorem State.setReg_wf (s : State) (a : Nat) (v : Word) (hwf : Memory.wf s.mem = true) : Memory.wf (State.setReg s a v).mem = true := by
  unfold State.setReg
  repeat' (first | with_reducible assumption | dsimp only)

theorem State.setMgt_wf (s : State) (o : Nat) (v : Word) (hwf : Memory.wf s.mem = true) : Memory.wf (State.setMgt s o v).mem = true := by
  unfold State.setMgt
  repeat' (first | with_reducible assumption | dsimp only)

theorem State.setField_wf (s : State) (a lo w v : Nat) (hwf : Memory.wf s.mem = true) : Memory.wf (State.setField s a lo w v).mem = true := by
  unfold State.setField
  repeat' (first | with_reducible assumption | with_reducible apply State.setReg_wf | dsimp only)

theorem State.setMgtField_wf (s : State) (o lo w v : Nat) (hwf : Memory.wf s.mem = true) : Memory.wf (State.setMgtField s o lo w v).mem = true := by
  unfold State.setMgtField
  repeat' (first | with_reducible assumption | with_reducible apply State.setMgt_wf | dsimp only)

theorem State.setReg64_wf (s : State) (a v : Nat) (hwf : Memory.wf s.mem = true) : Memory.wf (State.setReg64 s a v).mem = true := by
  unfold State.setReg64
  repeat' (first | with_reducible assumption | with_reducible apply State.setReg_wf | dsimp only)

theorem State.count_wf (s : State) (a n : Nat) (hwf : Memory.wf s.mem = true) : Memory.wf (State.count s a n).mem = true := by
  unfold State.count
  repeat' (first | with_reducible assumption | with_reducible apply State.setReg_wf | with_reducible apply ite_wf | split | dsimp only)

theorem State.count64_wf (s : State) (a n : Nat) (hwf : Memory.wf s.mem = true) : Memory.wf (State.count64 s a n).mem = true := by
  unfold State.count64
  repeat' (first | with_reducible assumption | with_reducible apply State.setReg64_wf | with_reducible apply ite_wf | split | dsimp only)

theorem State.clearRegs_wf (s : State) (p : Nat → Bool) (hwf : Memory.wf s.mem = true) : Memory.wf (State.clearRegs s p).mem = true := by
  unfold State.clearRegs
  repeat' (first | with_reducible assumption | dsimp only)

theorem onlyIf_wf (c : Bool) (s t : State) (hwf : Memory.wf s.mem = true) (h : Memory.wf t.mem = true) : Memory.wf (onlyIf c s t).mem = true := by
  cases c
  · exact hwf
  · exact h

theorem State.draw_wf (s : State) (hwf : Memory.wf s.mem = true) : Memory.wf (State.draw s).mem = true := by
  unfold State.draw
  repeat' (first | with_reducible assumption | dsimp only)

theorem State.setClu_wf (s : State) (c : Nat) (v : Cluster) (hwf : Memory.wf s.mem = true) : Memory.wf (State.setClu s c v).mem = true := by
  unfold State.setClu
  repeat' (first | with_reducible assumption | dsimp only)

theorem State.setCore_wf (s : State) (h : Nat) (c : Core) (hwf : Memory.wf s.mem = true) : Memory.wf (State.setCore s h c).mem = true := by
  unfold State.setCore
  repeat' (first | with_reducible assumption | dsimp only)

theorem State.setPhys_wf (s : State) (pk : Nat) (v : Phys) (hwf : Memory.wf s.mem = true) : Memory.wf (State.setPhys s pk v).mem = true := by
  unfold State.setPhys
  repeat' (first | with_reducible assumption | with_reducible apply ite_wf | split | dsimp only)

theorem State.setPart_wf (s : State) (p : Nat) (v : Part) (hwf : Memory.wf s.mem = true) : Memory.wf (State.setPart s p v).mem = true := by
  unfold State.setPart
  repeat' (first | with_reducible assumption | dsimp only)

theorem State.setRegion_wf (s : State) (r : Nat) (v : Region) (hwf : Memory.wf s.mem = true) : Memory.wf (State.setRegion s r v).mem = true := by
  unfold State.setRegion
  repeat' (first | with_reducible assumption | dsimp only)

theorem State.setStack_wf (s : State) (n : Nat) (v : Stack) (hwf : Memory.wf s.mem = true) : Memory.wf (State.setStack s n v).mem = true := by
  unfold State.setStack
  repeat' (first | with_reducible assumption | dsimp only)

theorem State.setPort_wf (s : State) (n : Nat) (v : LinkPort) (hwf : Memory.wf s.mem = true) : Memory.wf (State.setPort s n v).mem = true := by
  unfold State.setPort
  repeat' (first | with_reducible assumption | dsimp only)

theorem State.setRing_wf (s : State) (r : Nat) (v : Ring) (hwf : Memory.wf s.mem = true) : Memory.wf (State.setRing s r v).mem = true := by
  unfold State.setRing
  repeat' (first | with_reducible assumption | dsimp only)

theorem State.modPart_wf (s : State) (p : Nat) (f : Part → Part) (hwf : Memory.wf s.mem = true) : Memory.wf (State.modPart s p f).mem = true := by
  unfold State.modPart
  repeat' (first | with_reducible assumption | with_reducible apply State.setPart_wf | with_reducible apply ite_wf | split | dsimp only)

theorem State.modRegion_wf (s : State) (r : Nat) (f : Region → Region) (hwf : Memory.wf s.mem = true) : Memory.wf (State.modRegion s r f).mem = true := by
  unfold State.modRegion
  repeat' (first | with_reducible assumption | with_reducible apply State.setRegion_wf | with_reducible apply ite_wf | split | dsimp only)

theorem State.setPower_wf (s : State) (c v : Nat) (hwf : Memory.wf s.mem = true) : Memory.wf (State.setPower s c v).mem = true := by
  unfold State.setPower
  repeat' (first | with_reducible assumption | with_reducible apply State.setField_wf | dsimp only)

theorem State.poke_wf (s : State) (a : Nat) (bs : Bytes) (hwf : Memory.wf s.mem = true) : Memory.wf (s.poke a bs).mem = true :=
  memWrite_wf _ _ _ hwf

theorem State.pulse_wf (s : State) (hwf : Memory.wf s.mem = true) : Memory.wf (State.pulse s).mem = true := by
  unfold State.pulse
  repeat' (first | with_reducible assumption | with_reducible apply ite_wf | split | dsimp only)

theorem State.signal_wf (s : State) (v : Nat) (pulse : Bool) (hwf : Memory.wf s.mem = true) : Memory.wf (State.signal s v pulse).mem = true := by
  unfold State.signal
  repeat' (first | with_reducible assumption | with_reducible apply State.pulse_wf | with_reducible apply State.setMgtField_wf | with_reducible apply ite_wf | split | dsimp only)

theorem State.setPanelState_wf (s : State) (v : Nat) (hwf : Memory.wf s.mem = true) : Memory.wf (State.setPanelState s v).mem = true := by
  unfold State.setPanelState
  repeat' (first | with_reducible assumption | with_reducible apply State.setMgtField_wf | with_reducible apply State.signal_wf | with_reducible apply ite_wf | split | dsimp only)

theorem State.setRdy_wf (s : State) (b : Bool) (hwf : Memory.wf s.mem = true) : Memory.wf (State.setRdy s b).mem = true := by
  unfold State.setRdy
  repeat' (first | with_reducible assumption | with_reducible apply State.setMgtField_wf | dsimp only)

theorem State.alarm_wf (s : State) (sev : Nat) (hwf : Memory.wf s.mem = true) : Memory.wf (State.alarm s sev).mem = true := by
  unfold State.alarm
  repeat' (first | with_reducible assumption | with_reducible apply State.pulse_wf | with_reducible apply State.signal_wf | with_reducible apply ite_wf | split | dsimp only)

theorem State.keepRecord_wf (s : State) (e : Event) (buf : List (Event × Bool)) (hwf : Memory.wf s.mem = true) : Memory.wf (State.keepRecord s e buf).mem = true := by
  unfold State.keepRecord
  repeat' (first | with_reducible assumption | with_reducible apply State.alarm_wf | with_reducible apply State.setMgt_wf | dsimp only)

theorem State.record_wf (s : State) (code sev part region : Nat) (sub : Subject) (data : Bytes) (hwf : Memory.wf s.mem = true) : Memory.wf (State.record s code sev part region sub data).mem = true := by
  unfold State.record
  repeat' (first | with_reducible assumption | with_reducible apply State.count_wf | with_reducible apply State.keepRecord_wf | with_reducible apply ite_wf | split | dsimp only)

theorem State.noteUnmapped_wf (s : State) (a : Nat) (eid : BitVec 24) (hwf : Memory.wf s.mem = true) : Memory.wf (State.noteUnmapped s a eid).mem = true := by
  unfold State.noteUnmapped
  repeat' (first | with_reducible assumption | with_reducible apply State.record_wf | dsimp only)

theorem State.noteOff_wf (s : State) (a : Nat) (eid : BitVec 24) (hwf : Memory.wf s.mem = true) : Memory.wf (State.noteOff s a eid).mem = true := by
  unfold State.noteOff
  repeat' (first | with_reducible assumption | with_reducible apply State.record_wf | dsimp only)

theorem State.storeSram_wf (s : State) (who : Requester) (c o a : Nat) (bs : Bytes) (hwf : Memory.wf s.mem = true) : Memory.wf (State.storeSram s who c o a bs).mem = true := by
  unfold State.storeSram
  repeat' (first | with_reducible assumption | with_reducible apply State.count_wf | with_reducible apply State.poke_wf | with_reducible apply State.record_wf | with_reducible apply ite_wf | split | dsimp only)

theorem State.storeBlock_wf (s : State) (who : Requester) (eid : BitVec 24) (a : Nat) (bs : Bytes) (hwf : Memory.wf s.mem = true) : Memory.wf (State.storeBlock s who eid a bs).mem = true := by
  unfold State.storeBlock
  repeat' (first | with_reducible assumption | with_reducible apply State.noteOff_wf | with_reducible apply State.noteUnmapped_wf | with_reducible apply State.poke_wf | with_reducible apply State.storeSram_wf | with_reducible apply ite_wf | split | dsimp only)

theorem State.store_wf (s : State) (who : Requester) (eid : BitVec 24) (a : Nat) (bs : Bytes) (hwf : Memory.wf s.mem = true) : Memory.wf (State.store s who eid a bs).mem = true := by
  unfold State.store
  repeat' (first | with_reducible assumption | with_reducible apply State.storeBlock_wf | (with_reducible refine foldl_wf _ (fun s x h => ?_) _ _ ?_) | (with_reducible refine foldl_fst_wf _ (fun r x h => ?_) _ _ ?_) | dsimp only)

theorem State.glerynSend_wf (s : State) (p : Packet) (hwf : Memory.wf s.mem = true) : Memory.wf (State.glerynSend s p).mem = true := by
  unfold State.glerynSend
  repeat' (first | with_reducible assumption | dsimp only)

theorem State.finish_wf (s : State) (id status r0 r1 : Nat) (detail : Nat) (out : Bytes) (evt : Nat) (hwf : Memory.wf s.mem = true) : Memory.wf (State.finish s id status r0 r1 detail out evt).mem = true := by
  unfold State.finish
  repeat' (first | with_reducible assumption | with_reducible apply State.glerynSend_wf | with_reducible apply State.setRing_wf | (with_reducible refine foldl_wf _ (fun s x h => ?_) _ _ ?_) | (with_reducible refine foldl_fst_wf _ (fun r x h => ?_) _ _ ?_) | with_reducible apply ite_wf | split | dsimp only)

theorem State.finishNoted_wf (s : State) (id status r0 r1 : Nat) (hwf : Memory.wf s.mem = true) : Memory.wf (State.finishNoted s id status r0 r1).mem = true := by
  unfold State.finishNoted
  repeat' (first | with_reducible assumption | with_reducible apply State.finish_wf | dsimp only)

theorem State.hostWrite_wf (s : State) (a : Nat) (bs : Bytes) (hwf : Memory.wf s.mem = true) : Memory.wf (State.hostWrite s a bs).mem = true := by
  unfold State.hostWrite
  repeat' (first | with_reducible assumption | dsimp only)

theorem State.openBytes_wf (s : State) (p : Option Nat) (a n : Nat) (hwf : Memory.wf s.mem = true) : Memory.wf (State.openBytes s p a n).1.mem = true := by
  unfold State.openBytes
  repeat' (first | with_reducible assumption | with_reducible apply State.draw_wf | dsimp only)

theorem State.scramble_wf (s : State) (p : Option Nat) (a n : Nat) (hwf : Memory.wf s.mem = true) : Memory.wf (State.scramble s p a n).mem = true := by
  unfold State.scramble
  repeat' (first | with_reducible assumption | with_reducible apply State.openBytes_wf | with_reducible apply State.poke_wf | dsimp only)

theorem State.readyResult_wf (s : State) (p : Nat) (st : StepRec) (status : Nat) (count : Dword) (hwf : Memory.wf s.mem = true) : Memory.wf (State.readyResult s p st status count).mem = true := by
  unfold State.readyResult
  repeat' (first | with_reducible assumption | with_reducible apply State.count_wf | with_reducible apply State.poke_wf | with_reducible apply State.scramble_wf | with_reducible apply ite_wf | split | dsimp only)

theorem State.noteRise_wf (s : State) (p code key now : Nat) (sub : Subject) (hwf : Memory.wf s.mem = true) : Memory.wf (State.noteRise s p code key now sub).mem = true := by
  unfold State.noteRise
  repeat' (first | with_reducible assumption | with_reducible apply State.record_wf | with_reducible apply State.setPart_wf | with_reducible apply ite_wf | split | dsimp only)

theorem State.addRejects_wf (s : State) (p n : Nat) (hwf : Memory.wf s.mem = true) : Memory.wf (State.addRejects s p n).mem = true := by
  unfold State.addRejects
  repeat' (first | with_reducible assumption | with_reducible apply State.modPart_wf | dsimp only)

theorem State.noteSentinels_wf (s : State) (p : Nat) (q : Part) (hwf : Memory.wf s.mem = true) : Memory.wf (State.noteSentinels s p q).mem = true := by
  unfold State.noteSentinels
  repeat' (first | with_reducible assumption | with_reducible apply State.record_wf | with_reducible apply State.setPart_wf | with_reducible apply ite_wf | split | dsimp only)

theorem State.noteCluster_wf (s : State) (p c : Nat) (hwf : Memory.wf s.mem = true) : Memory.wf (State.noteCluster s p c).mem = true := by
  unfold State.noteCluster
  repeat' (first | with_reducible assumption | with_reducible apply State.noteRise_wf | dsimp only)

theorem State.noteUnreached_wf (s : State) (p : Nat) (q : Part) (hwf : Memory.wf s.mem = true) : Memory.wf (State.noteUnreached s p q).mem = true := by
  unfold State.noteUnreached
  repeat' (first | with_reducible assumption | with_reducible apply State.noteRise_wf | (with_reducible refine foldl_wf _ (fun s x h => ?_) _ _ ?_) | dsimp only)

theorem State.noteRejects_wf (s : State) (p n : Nat) (hwf : Memory.wf s.mem = true) : Memory.wf (State.noteRejects s p n).mem = true := by
  unfold State.noteRejects
  repeat' (first | with_reducible assumption | with_reducible apply State.record_wf | with_reducible apply State.setPart_wf | with_reducible apply ite_wf | split | dsimp only)

theorem State.stepNotices_wf (s : State) (p : Nat) (hwf : Memory.wf s.mem = true) : Memory.wf (State.stepNotices s p).mem = true := by
  unfold State.stepNotices
  repeat' (first | with_reducible assumption | with_reducible apply State.noteCluster_wf | with_reducible apply State.noteRejects_wf | with_reducible apply State.noteSentinels_wf | with_reducible apply State.noteUnreached_wf | (with_reducible refine foldl_wf _ (fun s x h => ?_) _ _ ?_) | with_reducible apply ite_wf | split | dsimp only)

theorem State.idleClusters_wf (s : State) (q : Part) (hwf : Memory.wf s.mem = true) : Memory.wf (State.idleClusters s q).mem = true := by
  unfold State.idleClusters
  repeat' (first | with_reducible assumption | with_reducible apply State.setPower_wf | (with_reducible refine foldl_wf _ (fun s x h => ?_) _ _ ?_) | with_reducible apply ite_wf | split | dsimp only)

theorem State.endStep_wf (s : State) (p status : Nat) (evt : Nat) (hwf : Memory.wf s.mem = true) : Memory.wf (State.endStep s p status evt).mem = true := by
  unfold State.endStep
  repeat' (first | with_reducible assumption | with_reducible apply State.finish_wf | with_reducible apply State.idleClusters_wf | with_reducible apply State.readyResult_wf | with_reducible apply State.setPart_wf | with_reducible apply State.stepNotices_wf | with_reducible apply ite_wf | split | dsimp only)

theorem State.halt_wf (s : State) (h cause pc : Nat) (eng : Option Nat) (hwf : Memory.wf s.mem = true) : Memory.wf (State.halt s h cause pc eng).mem = true := by
  unfold State.halt
  repeat' (first | with_reducible assumption | with_reducible apply State.endStep_wf | with_reducible apply State.record_wf | with_reducible apply State.setCore_wf | with_reducible apply State.setField_wf | with_reducible apply State.setReg_wf | with_reducible apply ite_wf | split | dsimp only)

theorem State.reseed_wf (s : State) (h : Nat) (v : Word) (hwf : Memory.wf s.mem = true) : Memory.wf (State.reseed s h v).mem = true := by
  unfold State.reseed
  repeat' (first | with_reducible assumption | with_reducible apply State.setCore_wf | dsimp only)

theorem State.seedPetal_wf (s : State) (h : Nat) (p : Petal) (hwf : Memory.wf s.mem = true) : Memory.wf (State.seedPetal s h p).2.mem = true := by
  unfold State.seedPetal
  repeat' (first | with_reducible assumption | with_reducible apply ite_wf | split | dsimp only)

theorem State.setSeam_wf (s : State) (p : PortRef) (v : SeamEnd) (hwf : Memory.wf s.mem = true) : Memory.wf (State.setSeam s p v).mem = true := by
  unfold State.setSeam
  repeat' (first | with_reducible assumption | dsimp only)

theorem State.restartFrames_wf (s : State) (bs : List Nat) (hwf : Memory.wf s.mem = true) : Memory.wf (State.restartFrames s bs).mem = true := by
  unfold State.restartFrames
  repeat' (first | with_reducible assumption | (with_reducible refine foldl_wf _ (fun s x h => ?_) _ _ ?_) | dsimp only)

theorem State.noteLate_wf (s : State) (p : PortRef) (hwf : Memory.wf s.mem = true) : Memory.wf (State.noteLate s p).mem = true := by
  unfold State.noteLate
  repeat' (first | with_reducible assumption | with_reducible apply State.setField_wf | dsimp only)

theorem State.takeSlot_wf (s : State) (out : PortRef) (cycle lane : Nat) (u : BitVec 552) (hwf : Memory.wf s.mem = true) : Memory.wf (State.takeSlot s out cycle lane u).mem = true := by
  unfold State.takeSlot
  repeat' (first | with_reducible assumption | with_reducible apply State.setSeam_wf | dsimp only)

theorem State.joinLate_wf (s : State) (out : PortRef) (lane : Nat) (u : BitVec 552) (hwf : Memory.wf s.mem = true) : Memory.wf (State.joinLate s out lane u).mem = true := by
  unfold State.joinLate
  repeat' (first | with_reducible assumption | with_reducible apply State.noteLate_wf | with_reducible apply State.setSeam_wf | dsimp only)

theorem State.putSlots_wf (s : State) (b : Nat) (ws : List Word) (hwf : Memory.wf s.mem = true) : Memory.wf (State.putSlots s b ws).mem = true := by
  unfold State.putSlots
  repeat' (first | with_reducible assumption | with_reducible apply State.setReg_wf | (with_reducible refine foldl_wf _ (fun s x h => ?_) _ _ ?_) | dsimp only)

theorem State.newSlots_wf (s : State) (b : Nat) (ws : List Word) (hwf : Memory.wf s.mem = true) : Memory.wf (State.newSlots s b ws).mem = true := by
  unfold State.newSlots
  repeat' (first | with_reducible assumption | with_reducible apply State.putSlots_wf | with_reducible apply ite_wf | split | dsimp only)

theorem State.settleSlots_wf (s : State) (hwf : Memory.wf s.mem = true) : Memory.wf (State.settleSlots s).mem = true := by
  unfold State.settleSlots
  repeat' (first | with_reducible assumption | with_reducible apply State.newSlots_wf | (with_reducible refine foldl_wf _ (fun s x h => ?_) _ _ ?_) | (with_reducible refine foldl_fst_wf _ (fun r x h => ?_) _ _ ?_) | dsimp only)

theorem State.addDefect_wf (s : State) (source cause kind die unit detail : Nat) (hwf : Memory.wf s.mem = true) : Memory.wf (State.addDefect s source cause kind die unit detail).mem = true := by
  unfold State.addDefect
  repeat' (first | with_reducible assumption | with_reducible apply State.record_wf | with_reducible apply ite_wf | split | dsimp only)

theorem State.addContradiction_wf (s : State) (kind die unit detail : Nat) (hwf : Memory.wf s.mem = true) : Memory.wf (State.addContradiction s kind die unit detail).mem = true := by
  unfold State.addContradiction
  repeat' (first | with_reducible assumption | with_reducible apply State.addDefect_wf | with_reducible apply State.count_wf | with_reducible apply State.record_wf | with_reducible apply ite_wf | split | dsimp only)

theorem State.tested_wf (s : State) (kind die unit detail : Nat) (pass : Bool) (hwf : Memory.wf s.mem = true) : Memory.wf (State.tested s kind die unit detail pass).mem = true := by
  unfold State.tested
  repeat' (first | with_reducible assumption | with_reducible apply ite_wf | split | dsimp only)

theorem State.reportUe_wf (s : State) (k u : Nat) (hwf : Memory.wf s.mem = true) : Memory.wf (State.reportUe s k u).mem = true := by
  unfold State.reportUe
  repeat' (first | with_reducible assumption | with_reducible apply State.addDefect_wf | with_reducible apply State.count_wf | with_reducible apply State.record_wf | with_reducible apply State.setReg64_wf | dsimp only)

theorem State.reportUnits_wf (s : State) (k : Nat) (f : Nat → Bool) (hwf : Memory.wf s.mem = true) : Memory.wf (State.reportUnits s k f).1.mem = true := by
  unfold State.reportUnits
  repeat' (first | with_reducible assumption | with_reducible apply State.reportUe_wf | with_reducible apply State.setStack_wf | (with_reducible refine foldl_wf _ (fun s x h => ?_) _ _ ?_) | with_reducible apply ite_wf | split | dsimp only)

theorem State.readErrors_wf (s : State) (a n : Nat) (hwf : Memory.wf s.mem = true) : Memory.wf (State.readErrors s a n).1.mem = true := by
  unfold State.readErrors
  repeat' (first | with_reducible assumption | with_reducible apply State.reportUnits_wf | with_reducible apply ite_wf | split | dsimp only)

theorem State.readStack_wf (s : State) (a n : Nat) (hwf : Memory.wf s.mem = true) : Memory.wf (State.readStack s a n).1.mem = true := by
  unfold State.readStack
  repeat' (first | with_reducible assumption | with_reducible apply State.count64_wf | with_reducible apply State.readErrors_wf | with_reducible apply ite_wf | split | dsimp only)

theorem State.retrainGo_wf (s : State) (n ch : Nat) (cmd : Option Nat) (hwf : Memory.wf s.mem = true) : Memory.wf (State.retrainGo s n ch cmd).mem = true := by
  unfold State.retrainGo
  repeat' (first | with_reducible assumption | with_reducible apply State.count_wf | with_reducible apply State.setField_wf | with_reducible apply State.setStack_wf | dsimp only)

theorem State.retrainStart_wf (s : State) (n ch : Nat) (cmd : Option Nat) (hwf : Memory.wf s.mem = true) : Memory.wf (State.retrainStart s n ch cmd).mem = true := by
  unfold State.retrainStart
  repeat' (first | with_reducible assumption | with_reducible apply State.retrainGo_wf | with_reducible apply State.setStack_wf | with_reducible apply ite_wf | split | dsimp only)

theorem State.noteCorrected_wf (s : State) (n ch : Nat) (hwf : Memory.wf s.mem = true) : Memory.wf (State.noteCorrected s n ch).mem = true := by
  unfold State.noteCorrected
  repeat' (first | with_reducible assumption | with_reducible apply State.count_wf | with_reducible apply State.retrainStart_wf | with_reducible apply State.setStack_wf | with_reducible apply ite_wf | split | dsimp only)

theorem State.wroteStack_wf (s : State) (a n : Nat) (hwf : Memory.wf s.mem = true) : Memory.wf (State.wroteStack s a n).mem = true := by
  unfold State.wroteStack
  repeat' (first | with_reducible assumption | with_reducible apply State.count64_wf | with_reducible apply ite_wf | split | dsimp only)

theorem State.stir_wf (s : State) (c : Nat) (hwf : Memory.wf s.mem = true) : Memory.wf (State.stir s c).mem = true := by
  unfold State.stir
  repeat' (first | with_reducible assumption | with_reducible apply ite_wf | split | dsimp only)

theorem State.enqueue_wf (s : State) (h qo : Nat) (t : Token) (hwf : Memory.wf s.mem = true) : Memory.wf (State.enqueue s h qo t).mem = true := by
  unfold State.enqueue
  repeat' (first | with_reducible assumption | with_reducible apply State.setCore_wf | with_reducible apply State.stir_wf | dsimp only)

theorem State.creditOut_wf (s : State) (p h qi : Nat) (hwf : Memory.wf s.mem = true) : Memory.wf (State.creditOut s p h qi).mem = true := by
  unfold State.creditOut
  repeat' (first | with_reducible assumption | with_reducible apply State.modPart_wf | with_reducible apply State.setClu_wf | with_reducible apply ite_wf | split | dsimp only)

theorem State.popHead_wf (s : State) (h qi : Nat) (hwf : Memory.wf s.mem = true) : Memory.wf (State.popHead s h qi).mem = true := by
  unfold State.popHead
  repeat' (first | with_reducible assumption | with_reducible apply State.count_wf | with_reducible apply State.creditOut_wf | with_reducible apply State.modPart_wf | with_reducible apply State.setCore_wf | with_reducible apply State.stir_wf | with_reducible apply ite_wf | split | dsimp only)

theorem State.arriveIn_wf (s : State) (h qi : Nat) (t : Token) (hwf : Memory.wf s.mem = true) : Memory.wf (State.arriveIn s h qi t).mem = true := by
  unfold State.arriveIn
  repeat' (first | with_reducible assumption | with_reducible apply State.count_wf | with_reducible apply State.setCore_wf | with_reducible apply State.stir_wf | with_reducible apply ite_wf | split | dsimp only)

theorem State.countSent_wf (s : State) (a : Nat) (n : Sent) (hwf : Memory.wf s.mem = true) : Memory.wf (State.countSent s a n).mem = true := by
  unfold State.countSent
  repeat' (first | with_reducible assumption | with_reducible apply State.count_wf | dsimp only)

theorem State.sentinels_wf (s : State) (h e : Nat) (n : Sent) (hwf : Memory.wf s.mem = true) : Memory.wf (State.sentinels s h e n).mem = true := by
  unfold State.sentinels
  repeat' (first | with_reducible assumption | with_reducible apply State.countSent_wf | dsimp only)

end Sys2Proof.Laws
end

