-- ==== Sys2Proof/Laws/CanonCore.lean ====
section
/-! SUPPORT. Each operation of Matrix, Vector, QueueExt, Scalar, Shadow, Tokens leaves panel memory in canonical form. -/

namespace Sys2Proof.Laws

open Sys2Proof.Machine

set_option linter.unusedTactic false
set_option linter.unreachableTactic false
set_option linter.unusedVariables false

/-- A result of the queue extension that is done leaves memory in canonical form. -/
def QResOk (r : QRes) : Prop := ∀ t, r = .done t → Memory.wf t.mem = true

theorem qresOk_done (t : State) (h : Memory.wf t.mem = true) : QResOk (.done t) := by
  intro u hu
  injection hu with hu
  exact hu ▸ h
theorem qresOk_wait (n : Nat) : QResOk (.wait n) := by intro u hu; exact absurd hu (by simp)
theorem qresOk_halt (n : Nat) : QResOk (.halt n) := by intro u hu; exact absurd hu (by simp)
theorem qresOk_badDesc (n : Nat) : QResOk (.badDesc n) := by intro u hu; exact absurd hu (by simp)

/-- Every outcome of gathering rows leaves memory in canonical form. -/
def GatherOk : Gather → Prop
  | .full t => Memory.wf t.mem = true
  | .dry t => Memory.wf t.mem = true
  | .bad t => Memory.wf t.mem = true

theorem State.sample_wf (s : State) (c : Nat) (t : Tile) (hwf : Memory.wf s.mem = true) : Memory.wf (State.sample s c t).mem = true := by
  unfold State.sample
  repeat' (first | with_reducible assumption | with_reducible apply State.count_wf | with_reducible apply State.draw_wf | with_reducible apply State.setPhys_wf | with_reducible apply ite_wf | split | dsimp only)

theorem runSlice_wf (d : MDesc) (elems : Bytes) (side : List SideRec) (rows : List Bytes) (c sl : Nat) (tile : Option Tile) (fuel j : Nat) (s : State)
    (acc : List Word) (n : Sent) (hwf : Memory.wf s.mem = true) : Memory.wf (runSlice d elems side rows c sl tile fuel j s acc n).1.mem = true := by
  induction fuel generalizing j s acc n with
  | zero => exact hwf
  | succ fuel ih =>
    simp only [runSlice]
    apply ih
    cases tile with
    | none => exact hwf
    | some t => exact State.sample_wf _ _ _ hwf

theorem sliceOnto_wf (d : MDesc) (w : Kept) (side : List (List SideRec)) (rows : List Bytes) (c : Nat) (tile : Option Tile)
    (x : State × Tbl Word × Sent) (sl : Nat) (hwf : Memory.wf x.1.mem = true) : Memory.wf (sliceOnto d w side rows c tile x sl).1.mem = true :=
  runSlice_wf _ _ _ _ _ _ _ _ _ _ _ _ hwf

theorem State.product_wf (s : State) (h e : Nat) (d : MDesc) (desc : BitVec 256) (ns : Nat) (rows : List Bytes) (hwf : Memory.wf s.mem = true) : Memory.wf (State.product s h e d desc ns rows).mem = true := by
  unfold State.product
  repeat' (first | with_reducible assumption | with_reducible apply State.count64_wf | with_reducible apply State.sentinels_wf | with_reducible apply State.setCore_wf | with_reducible apply sliceOnto_wf | (with_reducible refine foldl_wf _ (fun s x h => ?_) _ _ ?_) | (with_reducible refine foldl_fst_wf _ (fun r x h => ?_) _ _ ?_) | with_reducible apply ite_wf | split | dsimp only)

theorem State.latchBlock_wf (s : State) (h e : Nat) (d : MDesc) (ns : Nat) (hwf : Memory.wf s.mem = true) : Memory.wf (State.latchBlock s h e d ns).mem = true := by
  unfold State.latchBlock
  repeat' (first | with_reducible assumption | with_reducible apply State.sentinels_wf | with_reducible apply State.setCore_wf | with_reducible apply ite_wf | split | dsimp only)

theorem State.narrowOne_wf (s : State) (h u : Nat) (otype : Nat) (stoch : Bool) (w : Word) (hwf : Memory.wf s.mem = true) : Memory.wf (State.narrowOne s h u otype stoch w).2.mem = true := by
  unfold State.narrowOne
  repeat' (first | with_reducible assumption | with_reducible apply State.setCore_wf | with_reducible apply ite_wf | split | dsimp only)

theorem State.narrowAll_wf (h u otype : Nat) (stoch : Bool) (n : List Word) (s : State) (hwf : Memory.wf s.mem = true) : Memory.wf (State.narrowAll h u otype stoch n s).2.2.mem = true := by
  induction n generalizing h u otype stoch s with
  | nil => exact hwf
  | cons a n ih =>
    rw [State.narrowAll]
    repeat' (first | with_reducible assumption | with_reducible apply ih | with_reducible apply State.narrowOne_wf | dsimp only)

theorem State.writeBack_wf (s : State) (h e : Nat) (d : MDesc) (ns : Nat) (hwf : Memory.wf s.mem = true) : Memory.wf (State.writeBack s h e d ns).mem = true := by
  unfold State.writeBack
  repeat' (first | with_reducible assumption | with_reducible apply State.narrowAll_wf | with_reducible apply State.sentinels_wf | with_reducible apply State.setCore_wf | with_reducible apply State.store_wf | (with_reducible refine foldl_wf _ (fun s x h => ?_) _ _ ?_) | (with_reducible refine foldl_fst_wf _ (fun r x h => ?_) _ _ ?_) | with_reducible apply ite_wf | split | dsimp only)

theorem State.gather_wf (h e qi len want n : Nat) (s : State) (hwf : Memory.wf s.mem = true) : GatherOk (State.gather h e qi len want n s) := by
  induction n generalizing s with
  | zero => exact hwf
  | succ n ih =>
    rw [State.gather]
    dsimp only
    split
    · exact hwf
    · split
      · exact hwf
      · split
        · exact ih _ (State.setCore_wf _ _ _ (State.popHead_wf _ _ _ hwf))
        · split
          · exact ih _ (State.popHead_wf _ _ _ hwf)
          · exact hwf

theorem State.dropHead_wf (s : State) (h e : Nat) (hwf : Memory.wf s.mem = true) : Memory.wf (State.dropHead s h e).mem = true := by
  unfold State.dropHead
  repeat' (first | with_reducible assumption | with_reducible apply State.setCore_wf | dsimp only)

theorem State.descFault_wf (s : State) (h e : Nat) (hwf : Memory.wf s.mem = true) : Memory.wf (State.descFault s h e).mem = true := by
  unfold State.descFault
  repeat' (first | with_reducible assumption | with_reducible apply State.dropHead_wf | with_reducible apply State.halt_wf | dsimp only)

theorem State.setBusy_wf (s : State) (h e : Nat) (hwf : Memory.wf s.mem = true) : Memory.wf (State.setBusy s h e).mem = true := by
  unfold State.setBusy
  repeat' (first | with_reducible assumption | with_reducible apply State.setCore_wf | dsimp only)

theorem State.setTaken_wf (s : State) (h e : Nat) (hwf : Memory.wf s.mem = true) : Memory.wf (State.setTaken s h e).mem = true := by
  unfold State.setTaken
  repeat' (first | with_reducible assumption | with_reducible apply State.setCore_wf | dsimp only)

theorem State.drain_wf (h e oq : Nat) (n : Nat) (s : State) (hwf : Memory.wf s.mem = true) : Memory.wf (State.drain h e oq n s).mem = true := by
  induction n generalizing h e oq s with
  | zero => exact hwf
  | succ n ih =>
    rw [State.drain]
    repeat' (first | with_reducible assumption | with_reducible apply ih | with_reducible apply State.enqueue_wf | with_reducible apply State.setCore_wf | with_reducible apply ite_wf | split | dsimp only)

theorem State.actRows_wf (s : State) (h e : Nat) (d : MDesc) (hwf : Memory.wf s.mem = true) : GatherOk (s.actRows h e d) := by
  unfold State.actRows
  split
  · exact hwf
  · exact State.gather_wf _ _ _ _ _ _ _ hwf

theorem State.runShares_wf (s : State) (h e : Nat) (d : MDesc) (desc : BitVec 256) (bq : Bool) (rows : List Bytes) (hwf : Memory.wf s.mem = true) : Memory.wf (State.runShares s h e d desc bq rows).mem = true := by
  unfold State.runShares
  repeat' (first | with_reducible assumption | with_reducible apply State.latchBlock_wf | with_reducible apply State.narrowAll_wf | with_reducible apply State.product_wf | with_reducible apply State.sentinels_wf | with_reducible apply State.setCore_wf | with_reducible apply State.writeBack_wf | (with_reducible refine foldl_wf _ (fun s x h => ?_) _ _ ?_) | (with_reducible refine foldl_fst_wf _ (fun r x h => ?_) _ _ ?_) | with_reducible apply ite_wf | split | dsimp only)

theorem State.matrixStep_wf (s : State) (h e : Nat) (bq : Bool) (hwf : Memory.wf s.mem = true) : Memory.wf (s.matrixStep h e bq).mem = true := by
  unfold State.matrixStep
  split
  · exact hwf
  · rename_i x rest hq
    dsimp only
    split
    · exact hwf
    · have hc := State.setTaken_wf s h e hwf
      have hg : GatherOk (if (mdesc x).op = 1 then (s.setTaken h e).actRows h e (mdesc x) else Gather.full (s.setTaken h e)) := by
        split
        · exact State.actRows_wf _ _ _ _ hc
        · exact hc
      split
      · rename_i t ht
        rw [ht] at hg
        exact State.descFault_wf _ _ _ hg
      · rename_i t ht
        rw [ht] at hg
        exact hg
      · rename_i t ht
        rw [ht] at hg
        have := State.setBusy_wf _ h e (State.runShares_wf t h e (mdesc x) x.d bq
          (if (mdesc x).op ≠ 1 then [] else if (mdesc x).aMem = true then memRows t h (mdesc x) else ((t.core h).engine e).rows) hg)
        split
        · exact this
        · exact State.drain_wf _ _ _ _ _ this

theorem State.vecWrite_wf (s : State) (h : Nat) (d : VDesc) (o : VOut) (hwf : Memory.wf s.mem = true) : Memory.wf (State.vecWrite s h d o).mem = true := by
  unfold State.vecWrite
  repeat' (first | with_reducible assumption | with_reducible apply State.narrowAll_wf | with_reducible apply State.sentinels_wf | with_reducible apply State.setCore_wf | with_reducible apply State.store_wf | with_reducible apply ite_wf | split | dsimp only)

theorem State.afterDraw_wf (s : State) (h : Nat) (d : VDesc) (hwf : Memory.wf s.mem = true) : Memory.wf (State.afterDraw s h d).mem = true := by
  unfold State.afterDraw
  repeat' (first | with_reducible assumption | with_reducible apply State.draw_wf | with_reducible apply State.setCore_wf | with_reducible apply ite_wf | split | dsimp only)

theorem State.vectorStep_wf (s : State) (h : Nat) (hwf : Memory.wf s.mem = true) : Memory.wf (s.vectorStep h).mem = true := by
  unfold State.vectorStep
  split
  · exact hwf
  · rename_i x rest hq
    dsimp only
    split
    · exact hwf
    · have hc := State.setTaken_wf s h 4 hwf
      have hg : GatherOk (if (vdesc x).sMem = true then Gather.full (s.setTaken h 4)
          else State.gather h 4 (vdesc x).sq (vdesc x).aRows.2 (vdesc x).aRows.1 gatherFuel (s.setTaken h 4)) := by
        split
        · exact hc
        · exact State.gather_wf _ _ _ _ _ _ _ hc
      split
      · rename_i t ht
        rw [ht] at hg
        exact State.descFault_wf _ _ _ hg
      · rename_i t ht
        rw [ht] at hg
        exact hg
      · rename_i t ht
        rw [ht] at hg
        change Memory.wf t.mem = true at hg
        repeat' (first | with_reducible exact hg | with_reducible apply State.drain_wf | with_reducible apply State.setBusy_wf | with_reducible apply State.vecWrite_wf | with_reducible apply State.afterDraw_wf | with_reducible apply State.setCore_wf | split | dsimp only)

theorem State.vecRow_wf (s : State) (h op : Nat) (hwf : Memory.wf s.mem = true) : Memory.wf (State.vecRow s h op).mem = true := by
  unfold State.vecRow
  repeat' (first | with_reducible assumption | with_reducible apply onlyIf_wf | with_reducible apply State.vectorStep_wf | dsimp only)

theorem State.setXreg_wf (s : State) (h rd : Nat) (v : Word) (hwf : Memory.wf s.mem = true) : Memory.wf (State.setXreg s h rd v).mem = true := by
  unfold State.setXreg
  repeat' (first | with_reducible assumption | with_reducible apply State.setCore_wf | dsimp only)

theorem opTag_wf (s : State) (h rd qi : Nat) (hwf : Memory.wf s.mem = true) : QResOk (opTag s h rd qi) := by
  unfold opTag
  repeat' (first | with_reducible assumption | with_reducible apply qresOk_done | with_reducible apply qresOk_wait | with_reducible apply State.setXreg_wf | with_reducible apply ite_wf | split | dsimp only)

theorem opRdw_wf (s : State) (h rd qi w : Nat) (hwf : Memory.wf s.mem = true) : QResOk (opRdw s h rd qi w) := by
  unfold opRdw
  repeat' (first | with_reducible assumption | with_reducible apply qresOk_done | with_reducible apply qresOk_wait | with_reducible apply State.setXreg_wf | with_reducible apply ite_wf | split | dsimp only)

theorem opPop_wf (s : State) (h qi : Nat) (hwf : Memory.wf s.mem = true) : QResOk (opPop s h qi) := by
  unfold opPop
  repeat' (first | with_reducible assumption | with_reducible apply qresOk_done | with_reducible apply qresOk_wait | with_reducible apply State.popHead_wf | with_reducible apply ite_wf | split | dsimp only)

theorem opWrw_wf (s : State) (h rs1 qo w : Nat) (hwf : Memory.wf s.mem = true) : QResOk (opWrw s h rs1 qo w) :=
  qresOk_done _ (State.setCore_wf _ _ _ hwf)

theorem opPush_wf (s : State) (h rs1 qo : Nat) (hwf : Memory.wf s.mem = true) : QResOk (opPush s h rs1 qo) := by
  unfold opPush
  repeat' (first | with_reducible assumption | with_reducible apply qresOk_done | with_reducible apply qresOk_wait | with_reducible apply qresOk_halt | with_reducible apply State.setCore_wf | with_reducible apply State.enqueue_wf | with_reducible apply ite_wf | split | dsimp only)

theorem opFwd_wf (s : State) (h qi qo : Nat) (hwf : Memory.wf s.mem = true) : QResOk (opFwd s h qi qo) := by
  unfold opFwd
  repeat' (first | with_reducible assumption | with_reducible apply qresOk_done | with_reducible apply qresOk_wait | with_reducible apply qresOk_halt | with_reducible apply State.popHead_wf | with_reducible apply State.enqueue_wf | with_reducible apply ite_wf | split | dsimp only)

theorem opStat_wf (s : State) (h rd q d : Nat) (hwf : Memory.wf s.mem = true) : QResOk (opStat s h rd q d) :=
  qresOk_done _ (State.setXreg_wf _ _ _ _ hwf)

theorem opLcSet_wf (s : State) (h qi n rs1 : Nat) (hwf : Memory.wf s.mem = true) : QResOk (opLcSet s h qi n rs1) :=
  qresOk_done _ (State.setCore_wf _ _ _ hwf)

theorem opLcRd_wf (s : State) (h rd qi n : Nat) (hwf : Memory.wf s.mem = true) : QResOk (opLcRd s h rd qi n) :=
  qresOk_done _ (State.setXreg_wf _ _ _ _ hwf)

theorem opIssue_wf (s : State) (h e rs1 rs2 : Nat) (hwf : Memory.wf s.mem = true) : QResOk (opIssue s h e rs1 rs2) := by
  unfold opIssue
  repeat' (first | with_reducible assumption | with_reducible apply qresOk_badDesc | with_reducible apply qresOk_done | with_reducible apply qresOk_wait | with_reducible apply State.setCore_wf | with_reducible apply ite_wf | split | dsimp only)

theorem opWait_wf (s : State) (h : Nat) (m : BitVec 5) (hwf : Memory.wf s.mem = true) : QResOk (opWait s h m) := by
  unfold opWait
  repeat' (first | with_reducible assumption | with_reducible apply qresOk_done | with_reducible apply qresOk_wait | with_reducible apply ite_wf | split | dsimp only)

theorem opEStat_wf (s : State) (h rd : Nat) (hwf : Memory.wf s.mem = true) : QResOk (opEStat s h rd) :=
  qresOk_done _ (State.setXreg_wf _ _ _ _ hwf)

theorem opYield_wf (s : State) (h : Nat) (hwf : Memory.wf s.mem = true) : Memory.wf (opYield s h).mem = true := by
  unfold opYield
  repeat' (first | with_reducible assumption | with_reducible apply State.setCore_wf | dsimp only)

theorem opRnd_wf (s : State) (h rd : Nat) (hwf : Memory.wf s.mem = true) : QResOk (opRnd s h rd) :=
  qresOk_done _ (State.setCore_wf _ _ _ hwf)

theorem State.retire_wf (s : State) (h len : Nat) (hwf : Memory.wf s.mem = true) : Memory.wf (State.retire s h len).mem = true := by
  unfold State.retire
  repeat' (first | with_reducible assumption | with_reducible apply State.setCore_wf | dsimp only)

theorem State.settleOp_wf (s : State) (h : Nat) (op : WaitOp) (r : QRes) (hwf : Memory.wf s.mem = true) (hr : QResOk r) : Memory.wf (s.settleOp h op r).mem = true := by
  cases r with
  | done t => exact State.retire_wf _ _ _ (State.setCore_wf _ _ _ (hr t rfl))
  | wait n => exact State.setCore_wf _ _ _ hwf
  | halt c => exact State.halt_wf _ _ _ _ _ hwf
  | badDesc e => exact State.halt_wf _ _ _ _ _ hwf

theorem State.runWait_wf (s : State) (h : Nat) (op : WaitOp) (hwf : Memory.wf s.mem = true) : Memory.wf (s.runWait h op).mem = true := by
  cases op
  · exact State.settleOp_wf _ _ _ _ hwf (opTag_wf _ _ _ _ hwf)
  · exact State.settleOp_wf _ _ _ _ hwf (opRdw_wf _ _ _ _ _ hwf)
  · exact State.settleOp_wf _ _ _ _ hwf (opPop_wf _ _ _ hwf)
  · exact State.settleOp_wf _ _ _ _ hwf (opPush_wf _ _ _ _ hwf)
  · exact State.settleOp_wf _ _ _ _ hwf (opFwd_wf _ _ _ _ hwf)
  · exact State.settleOp_wf _ _ _ _ hwf (opIssue_wf _ _ _ _ _ hwf)
  · exact State.settleOp_wf _ _ _ _ hwf (opWait_wf _ _ _ hwf)
  · exact hwf

theorem State.runDone_wf (s : State) (h : Nat) (r : QRes) (hwf : Memory.wf s.mem = true) (hr : QResOk r) : Memory.wf (s.runDone h r).mem = true := by
  cases r with
  | done t => exact State.retire_wf _ _ _ (hr t rfl)
  | wait n => exact hwf
  | halt c => exact State.halt_wf _ _ _ _ _ hwf
  | badDesc e => exact State.halt_wf _ _ _ _ _ hwf

theorem State.scalarWrite_wf (s : State) (h : Nat) (w : Where) (bs : Bytes) (hwf : Memory.wf s.mem = true) : Memory.wf (State.scalarWrite s h w bs).mem = true := by
  unfold State.scalarWrite
  repeat' (first | with_reducible assumption | with_reducible apply State.setCore_wf | with_reducible apply State.store_wf | (with_reducible refine foldl_wf _ (fun s x h => ?_) _ _ ?_) | with_reducible apply ite_wf | split | dsimp only)

theorem State.doLoad_wf (s : State) (h rd rs1 : Nat) (imm : Word) (size : Nat) (signed : Bool) (len : Nat) (hwf : Memory.wf s.mem = true) : Memory.wf (State.doLoad s h rd rs1 imm size signed len).mem = true := by
  unfold State.doLoad
  repeat' (first | with_reducible assumption | with_reducible apply State.halt_wf | with_reducible apply State.retire_wf | with_reducible apply State.setXreg_wf | with_reducible apply ite_wf | split | dsimp only)

theorem State.doStore_wf (s : State) (h rs1 rs2 : Nat) (imm : Word) (size len : Nat) (hwf : Memory.wf s.mem = true) : Memory.wf (State.doStore s h rs1 rs2 imm size len).mem = true := by
  unfold State.doStore
  repeat' (first | with_reducible assumption | with_reducible apply State.halt_wf | with_reducible apply State.retire_wf | with_reducible apply State.scalarWrite_wf | with_reducible apply ite_wf | split | dsimp only)

theorem State.csrWrite_wf (s : State) (h csr : Nat) (v : Word) (hwf : Memory.wf s.mem = true) : ∀ t, s.csrWrite h csr v = some t → Memory.wf t.mem = true := by
  intro t ht
  unfold State.csrWrite at ht
  dsimp only at ht
  split at ht
  · exact absurd ht (by simp)
  all_goals
    injection ht with ht
    subst ht
    first | exact State.setCore_wf _ _ _ hwf | exact State.reseed_wf _ _ _ hwf | exact hwf

theorem State.doCsr_wf (s : State) (h f3 rd rs1 csr : Nat) (hwf : Memory.wf s.mem = true) : Memory.wf (s.doCsr h f3 rd rs1 csr).mem = true := by
  unfold State.doCsr
  dsimp only
  split
  · exact State.halt_wf _ _ _ _ _ hwf
  · split
    · exact State.halt_wf _ _ _ _ _ hwf
    · rename_i t ht
      refine State.retire_wf _ _ _ (State.setXreg_wf _ _ _ _ ?_)
      split at ht
      · injection ht with ht
        exact ht ▸ hwf
      · exact State.csrWrite_wf _ _ _ _ hwf _ ht

theorem State.runExt_wf (s : State) (h : Nat) (i : Option Instr) (hwf : Memory.wf s.mem = true) : Memory.wf (s.runExt h i).mem = true := by
  unfold State.runExt
  split
  all_goals with_reducible first
    | exact State.runWait_wf _ _ _ hwf
    | exact State.halt_wf _ _ _ _ _ hwf
    | exact opYield_wf _ _ hwf
    | exact State.runDone_wf _ _ _ hwf (opWrw_wf _ _ _ _ _ hwf)
    | exact State.runDone_wf _ _ _ hwf (opStat_wf _ _ _ _ _ hwf)
    | exact State.runDone_wf _ _ _ hwf (opLcSet_wf _ _ _ _ _ hwf)
    | exact State.runDone_wf _ _ _ hwf (opLcRd_wf _ _ _ _ _ hwf)
    | exact State.runDone_wf _ _ _ hwf (opEStat_wf _ _ _ hwf)
    | exact State.runDone_wf _ _ _ hwf (opRnd_wf _ _ _ hwf)

theorem State.jump_wf (s : State) (h rd : Nat) (target : Word) (len : Nat) (hwf : Memory.wf s.mem = true) : Memory.wf (State.jump s h rd target len).mem = true := by
  unfold State.jump
  repeat' (first | with_reducible assumption | with_reducible apply State.retire_wf | with_reducible apply State.setCore_wf | with_reducible apply State.setXreg_wf | dsimp only)

theorem State.runRv_wf (s : State) (h len : Nat) (i : Rv) (hwf : Memory.wf s.mem = true) : Memory.wf (State.runRv s h len i).mem = true := by
  unfold State.runRv
  repeat' (first | with_reducible assumption | with_reducible apply State.doCsr_wf | with_reducible apply State.doLoad_wf | with_reducible apply State.doStore_wf | with_reducible apply State.halt_wf | with_reducible apply State.jump_wf | with_reducible apply State.retire_wf | with_reducible apply State.runExt_wf | with_reducible apply State.setXreg_wf | with_reducible apply State.store_wf | with_reducible apply ite_wf | split | dsimp only)

theorem State.scalarStep_wf (s : State) (h : Nat) (hwf : Memory.wf s.mem = true) : Memory.wf (State.scalarStep s h).mem = true := by
  unfold State.scalarStep
  repeat' (first | with_reducible assumption | with_reducible apply State.halt_wf | with_reducible apply State.runRv_wf | with_reducible apply ite_wf | split | dsimp only)

theorem State.blame_wf (s : State) (pk : Nat) (hwf : Memory.wf s.mem = true) : Memory.wf (State.blame s pk).mem = true := by
  unfold State.blame
  repeat' (first | with_reducible assumption | with_reducible apply State.setPhys_wf | dsimp only)

theorem State.blameBy_wf (s : State) (c spare who : Nat) (t : Tile) (hwf : Memory.wf s.mem = true) : Memory.wf (State.blameBy s c spare who t).mem = true := by
  unfold State.blameBy
  repeat' (first | with_reducible assumption | with_reducible apply State.blame_wf | with_reducible apply ite_wf | split | dsimp only)

theorem State.warnMismatch_wf (s : State) (c v : Nat) (t : Tile) (hwf : Memory.wf s.mem = true) : Memory.wf (State.warnMismatch s c v t).mem = true := by
  unfold State.warnMismatch
  repeat' (first | with_reducible assumption | with_reducible apply State.record_wf | with_reducible apply State.setClu_wf | with_reducible apply ite_wf | split | dsimp only)

theorem State.settleMismatch_wf (s : State) (c spare who : Nat) (t : Tile) (rs : List Word) (hwf : Memory.wf s.mem = true) : Memory.wf (State.settleMismatch s c spare who t rs).mem = true := by
  unfold State.settleMismatch
  repeat' (first | with_reducible assumption | with_reducible apply State.blameBy_wf | with_reducible apply State.count_wf | with_reducible apply State.setReg_wf | with_reducible apply State.warnMismatch_wf | dsimp only)

theorem State.dropTiles_wf (s : State) (c pk : Nat) (hwf : Memory.wf s.mem = true) : Memory.wf (State.dropTiles s c pk).mem = true := by
  unfold State.dropTiles
  repeat' (first | with_reducible assumption | with_reducible apply State.count_wf | with_reducible apply State.setPhys_wf | with_reducible apply State.settleMismatch_wf | with_reducible apply ite_wf | split | dsimp only)

theorem State.setRes_wf (s : State) (i : Nat) (v : BitVec 64) (hwf : Memory.wf s.mem = true) : Memory.wf (State.setRes s i v).mem = true := by
  unfold State.setRes
  repeat' (first | with_reducible assumption | dsimp only)

theorem State.setInbound_wf (s : State) (p i : Nat) (r : Inbound) (hwf : Memory.wf s.mem = true) : Memory.wf (State.setInbound s p i r).mem = true := by
  unfold State.setInbound
  repeat' (first | with_reducible assumption | with_reducible apply State.modPart_wf | dsimp only)

theorem State.landOn_wf (s : State) (p i : Nat) (t : Token) (hwf : Memory.wf s.mem = true) : Memory.wf (State.landOn s p i t).mem = true := by
  unfold State.landOn
  repeat' (first | with_reducible assumption | with_reducible apply State.count_wf | with_reducible apply State.setInbound_wf | with_reducible apply ite_wf | split | dsimp only)

theorem State.landUnit_wf (s : State) (b : Nat) (u : BitVec 552) (hwf : Memory.wf s.mem = true) : Memory.wf (State.landUnit s b u).mem = true := by
  unfold State.landUnit
  repeat' (first | with_reducible assumption | with_reducible apply State.count_wf | with_reducible apply State.landOn_wf | with_reducible apply ite_wf | split | dsimp only)

theorem State.carry_wf (s : State) (b port cycle lane : Nat) (u : BitVec 552) (hwf : Memory.wf s.mem = true) : Memory.wf (State.carry s b port cycle lane u).mem = true := by
  unfold State.carry
  repeat' (first | with_reducible assumption | with_reducible apply State.count_wf | with_reducible apply State.count64_wf | with_reducible apply State.joinLate_wf | with_reducible apply State.landUnit_wf | with_reducible apply State.takeSlot_wf | (with_reducible refine foldl_wf _ (fun s x h => ?_) _ _ ?_) | (with_reducible refine foldl_fst_wf _ (fun r x h => ?_) _ _ ?_) | with_reducible apply ite_wf | split | dsimp only)

theorem State.enterCircuit_wf (s : State) (c circ : Nat) (t : Token) (hwf : Memory.wf s.mem = true) : Memory.wf (State.enterCircuit s c circ t).mem = true := by
  unfold State.enterCircuit
  repeat' (first | with_reducible assumption | with_reducible apply State.carry_wf | with_reducible apply ite_wf | split | dsimp only)

theorem State.chargeLoop_wf (s : State) (p i : Nat) (hwf : Memory.wf s.mem = true) : Memory.wf (State.chargeLoop s p i).mem = true := by
  unfold State.chargeLoop
  repeat' (first | with_reducible assumption | with_reducible apply State.record_wf | with_reducible apply State.setCore_wf | with_reducible apply ite_wf | split | dsimp only)

theorem State.placeMark_wf (s : State) (p i : Nat) (m : Token) (hwf : Memory.wf s.mem = true) : Memory.wf (State.placeMark s p i m).mem = true := by
  unfold State.placeMark
  repeat' (first | with_reducible assumption | with_reducible apply State.chargeLoop_wf | with_reducible apply State.enterCircuit_wf | with_reducible apply State.setInbound_wf | with_reducible apply ite_wf | split | dsimp only)

theorem State.intoBal_wf (s : State) (p i : Nat) (r : Inbound) (t : Token) (hwf : Memory.wf s.mem = true) : Memory.wf (State.intoBal s p i r t).mem = true := by
  unfold State.intoBal
  repeat' (first | with_reducible assumption | with_reducible apply State.count64_wf | with_reducible apply State.poke_wf | with_reducible apply State.setInbound_wf | with_reducible apply State.stir_wf | with_reducible apply ite_wf | split | dsimp only)

theorem State.takeIn_wf (s : State) (p i : Nat) (r : Inbound) (t : Token) (hwf : Memory.wf s.mem = true) : Memory.wf (State.takeIn s p i r t).mem = true := by
  unfold State.takeIn
  repeat' (first | with_reducible assumption | with_reducible apply State.arriveIn_wf | with_reducible apply State.intoBal_wf | with_reducible apply State.setInbound_wf | with_reducible apply ite_wf | split | dsimp only)

theorem State.moveRecord_wf (s : State) (p i : Nat) (hwf : Memory.wf s.mem = true) : Memory.wf (State.moveRecord s p i).mem = true := by
  unfold State.moveRecord
  repeat' (first | with_reducible assumption | with_reducible apply State.arriveIn_wf | with_reducible apply State.chargeLoop_wf | with_reducible apply State.count_wf | with_reducible apply State.enterCircuit_wf | with_reducible apply State.setInbound_wf | with_reducible apply State.takeIn_wf | with_reducible apply ite_wf | split | dsimp only)

theorem State.intoSteer_wf (s : State) (c u i : Nat) (t : Token) (hwf : Memory.wf s.mem = true) : Memory.wf (State.intoSteer s c u i t).mem = true := by
  unfold State.intoSteer
  repeat' (first | with_reducible assumption | with_reducible apply State.setClu_wf | with_reducible apply ite_wf | split | dsimp only)

theorem State.sendPacket_wf (s : State) (c : Nat) (p : Packet) (hwf : Memory.wf s.mem = true) : Memory.wf (State.sendPacket s c p).mem = true := by
  unfold State.sendPacket
  repeat' (first | with_reducible assumption | with_reducible apply State.setClu_wf | dsimp only)

theorem State.formPacket_wf (s : State) (h qo : Nat) (eid : BitVec 24) (hwf : Memory.wf s.mem = true) : Memory.wf (State.formPacket s h qo eid).mem = true := by
  unfold State.formPacket
  repeat' (first | with_reducible assumption | with_reducible apply State.sendPacket_wf | with_reducible apply State.setCore_wf | with_reducible apply State.stir_wf | dsimp only)

theorem State.rebase_wf (s : State) (h : Nat) (hwf : Memory.wf s.mem = true) : Memory.wf (State.rebase s h).mem = true := by
  unfold State.rebase
  repeat' (first | with_reducible assumption | with_reducible apply State.setCore_wf | (with_reducible refine foldl_wf _ (fun s x h => ?_) _ _ ?_) | with_reducible apply ite_wf | split | dsimp only)

theorem State.ownMove_wf (s : State) (c own n : Nat) (hwf : Memory.wf s.mem = true) : Memory.wf (State.ownMove s c own n).mem = true := by
  unfold State.ownMove
  repeat' (first | with_reducible assumption | with_reducible apply State.count64_wf | with_reducible apply State.draw_wf | with_reducible apply State.setClu_wf | with_reducible apply State.setField_wf | with_reducible apply ite_wf | split | dsimp only)

theorem State.invalidateCache_wf (s : State) (c : Nat) (hwf : Memory.wf s.mem = true) : Memory.wf (State.invalidateCache s c).mem = true := by
  unfold State.invalidateCache
  repeat' (first | with_reducible assumption | with_reducible apply State.count_wf | with_reducible apply State.setClu_wf | with_reducible apply ite_wf | split | dsimp only)

theorem State.requestWake_wf (s : State) (c : Nat) (hwf : Memory.wf s.mem = true) : Memory.wf (State.requestWake s c).mem = true := by
  unfold State.requestWake
  repeat' (first | with_reducible assumption | with_reducible apply State.setField_wf | with_reducible apply ite_wf | split | dsimp only)

theorem State.stopRuns_wf (s : State) (c : Nat) (hwf : Memory.wf s.mem = true) : Memory.wf (State.stopRuns s c).mem = true := by
  unfold State.stopRuns
  repeat' (first | with_reducible assumption | with_reducible apply State.scramble_wf | (with_reducible refine foldl_wf _ (fun s x h => ?_) _ _ ?_) | (with_reducible refine foldl_fst_wf _ (fun r x h => ?_) _ _ ?_) | with_reducible apply ite_wf | split | dsimp only)

theorem State.clearCluster_wf (s : State) (c : Nat) (counted : Bool) (hwf : Memory.wf s.mem = true) : Memory.wf (State.clearCluster s c counted).mem = true := by
  unfold State.clearCluster
  repeat' (first | with_reducible assumption | with_reducible apply State.count_wf | with_reducible apply State.setClu_wf | with_reducible apply State.setCore_wf | with_reducible apply State.stopRuns_wf | (with_reducible refine foldl_wf _ (fun s x h => ?_) _ _ ?_) | with_reducible apply ite_wf | split | dsimp only)

theorem State.clearRegion_wf (s : State) (p rn : Nat) (r : Region) (counted ports : Bool) (hwf : Memory.wf s.mem = true) : Memory.wf (State.clearRegion s p rn r counted ports).mem = true := by
  unfold State.clearRegion
  repeat' (first | with_reducible assumption | with_reducible apply State.clearCluster_wf | with_reducible apply State.count_wf | with_reducible apply State.modPart_wf | (with_reducible refine foldl_wf _ (fun s x h => ?_) _ _ ?_) | with_reducible apply ite_wf | split | dsimp only)

theorem State.chargeEndpoint_wf (s : State) (c : Nat) (eid : BitVec 24) (n : Nat) (hwf : Memory.wf s.mem = true) : Memory.wf (State.chargeEndpoint s c eid n).mem = true := by
  unfold State.chargeEndpoint
  repeat' (first | with_reducible assumption | with_reducible apply State.setCore_wf | with_reducible apply ite_wf | split | dsimp only)

theorem State.sendWaiting_wf (s : State) (c : Nat) (hwf : Memory.wf s.mem = true) : Memory.wf (State.sendWaiting s c).mem = true := by
  unfold State.sendWaiting
  repeat' (first | with_reducible assumption | with_reducible apply State.chargeEndpoint_wf | with_reducible apply State.sendPacket_wf | with_reducible apply State.setClu_wf | (with_reducible refine foldl_wf _ (fun s x h => ?_) _ _ ?_) | (with_reducible refine foldl_fst_wf _ (fun r x h => ?_) _ _ ?_) | with_reducible apply ite_wf | split | dsimp only)

theorem State.sendMarks_wf (s : State) (p rn : Nat) (r : Region) (prev next : BitVec 3) (hwf : Memory.wf s.mem = true) : Memory.wf (State.sendMarks s p rn r prev next).mem = true := by
  unfold State.sendMarks
  repeat' (first | with_reducible assumption | with_reducible apply State.placeMark_wf | with_reducible apply State.record_wf | with_reducible apply State.sendWaiting_wf | with_reducible apply State.setClu_wf | (with_reducible refine foldl_wf _ (fun s x h => ?_) _ _ ?_) | (with_reducible refine foldl_fst_wf _ (fun r x h => ?_) _ _ ?_) | with_reducible apply ite_wf | split | dsimp only)

theorem State.advanceEpoch_wf (s : State) (rn : Nat) (adopt : Bool) (hwf : Memory.wf s.mem = true) : Memory.wf (State.advanceEpoch s rn adopt).mem = true := by
  unfold State.advanceEpoch
  repeat' (first | with_reducible assumption | with_reducible apply State.modPart_wf | with_reducible apply State.sendMarks_wf | with_reducible apply State.setRegion_wf | with_reducible apply ite_wf | split | dsimp only)

theorem State.runPetal_wf (s : State) (h p : Nat) (hwf : Memory.wf s.mem = true) : Memory.wf (State.runPetal s h p).mem = true := by
  unfold State.runPetal
  repeat' (first | with_reducible assumption | with_reducible apply State.rebase_wf | with_reducible apply State.setCore_wf | with_reducible apply ite_wf | split | dsimp only)

theorem State.freshPetals_wf (s : State) (h : Nat) (hwf : Memory.wf s.mem = true) : Memory.wf (State.freshPetals s h).mem = true := by
  unfold State.freshPetals
  repeat' (first | with_reducible assumption | with_reducible apply State.seedPetal_wf | with_reducible apply State.setCore_wf | (with_reducible refine foldl_wf _ (fun s x h => ?_) _ _ ?_) | (with_reducible refine foldl_fst_wf _ (fun r x h => ?_) _ _ ?_) | dsimp only)

theorem State.releaseCluster_wf (s : State) (c : Nat) (hwf : Memory.wf s.mem = true) : Memory.wf (State.releaseCluster s c).mem = true := by
  unfold State.releaseCluster
  repeat' (first | with_reducible assumption | with_reducible apply State.freshPetals_wf | with_reducible apply State.runPetal_wf | with_reducible apply State.setClu_wf | (with_reducible refine foldl_wf _ (fun s x h => ?_) _ _ ?_) | (with_reducible refine foldl_fst_wf _ (fun r x h => ?_) _ _ ?_) | with_reducible apply ite_wf | split | dsimp only)

theorem State.stopCluster_wf (s : State) (c : Nat) (hwf : Memory.wf s.mem = true) : Memory.wf (State.stopCluster s c).mem = true := by
  unfold State.stopCluster
  repeat' (first | with_reducible assumption | with_reducible apply State.setCore_wf | (with_reducible refine foldl_wf _ (fun s x h => ?_) _ _ ?_) | dsimp only)

end Sys2Proof.Laws
end

