-- ==== Sys2Proof/Laws/CanonFlow.lean ====
section
/-! SUPPORT. Each operation of Image, Mailbox, Steps, Defects, Net, Relay, CoreFaults, Dataflow, Activate leaves panel memory in canonical form. -/

namespace Sys2Proof.Laws

open Sys2Proof.Machine

set_option linter.unusedTactic false
set_option linter.unreachableTactic false
set_option linter.unusedVariables false

theorem State.dropEndpoints_wf (s : State) (es : List (BitVec 24)) (hwf : Memory.wf s.mem = true) : Memory.wf (State.dropEndpoints s es).mem = true := by
  unfold State.dropEndpoints
  repeat' (first | with_reducible assumption | with_reducible apply State.setRes_wf | (with_reducible refine foldl_wf _ (fun s x h => ?_) _ _ ?_) | with_reducible apply ite_wf | split | dsimp only)

theorem State.addEndpoint_wf (s : State) (p : Nat) (r : Inbound) (hwf : Memory.wf s.mem = true) : Memory.wf (State.addEndpoint s p r).mem = true := by
  unfold State.addEndpoint
  repeat' (first | with_reducible assumption | with_reducible apply State.setRes_wf | with_reducible apply ite_wf | split | dsimp only)

theorem State.setLanding_wf (s : State) (q : Part) (c : Nat) (hwf : Memory.wf s.mem = true) : Memory.wf (State.setLanding s q c).mem = true := by
  unfold State.setLanding
  repeat' (first | with_reducible assumption | with_reducible apply State.setField_wf | (with_reducible refine foldl_wf _ (fun s x h => ?_) _ _ ?_) | dsimp only)

theorem State.writeBackup_wf (s : State) (base : Nat) (l : List Sect) (i c : Nat) (hwf : Memory.wf s.mem = true) : Memory.wf (State.writeBackup s base l i c).mem = true := by
  unfold State.writeBackup
  repeat' (first | with_reducible assumption | with_reducible apply State.poke_wf | with_reducible apply State.setClu_wf | (with_reducible refine foldl_wf _ (fun s x h => ?_) _ _ ?_) | dsimp only)

theorem State.writeSlots_wf (s : State) (base : Nat) (l : List Sect) (frame i c : Nat) (hwf : Memory.wf s.mem = true) : Memory.wf (State.writeSlots s base l frame i c).mem = true := by
  unfold State.writeSlots
  repeat' (first | with_reducible assumption | with_reducible apply State.newSlots_wf | dsimp only)

theorem State.loadCore_wf (s : State) (base : Nat) (l : List Sect) (i c k : Nat) (hwf : Memory.wf s.mem = true) : Memory.wf (State.loadCore s base l i c k).mem = true := by
  unfold State.loadCore
  repeat' (first | with_reducible assumption | with_reducible apply State.setCore_wf | with_reducible apply wf_filter | with_reducible apply ite_wf | split | dsimp only)

theorem State.loadCluster_wf (s : State) (base : Nat) (hd : Header) (l : List Sect) (i c : Nat) (hwf : Memory.wf s.mem = true) : Memory.wf (State.loadCluster s base hd l i c).mem = true := by
  unfold State.loadCluster
  repeat' (first | with_reducible assumption | with_reducible apply State.invalidateCache_wf | with_reducible apply State.loadCore_wf | with_reducible apply State.setClu_wf | with_reducible apply State.setField_wf | with_reducible apply State.writeBackup_wf | with_reducible apply State.writeSlots_wf | (with_reducible refine foldl_wf _ (fun s x h => ?_) _ _ ?_) | with_reducible apply memZero_wf | with_reducible apply ite_wf | split | dsimp only)

theorem State.copyBlock_wf (s : State) (d : DataRec) (a n : Nat) (hwf : Memory.wf s.mem = true) : Memory.wf (State.copyBlock s d a n).mem = true := by
  unfold State.copyBlock
  repeat' (first | with_reducible assumption | with_reducible apply State.count_wf | with_reducible apply memCopy_wf | with_reducible apply ite_wf | split | dsimp only)

theorem State.copyRecord_wf (s : State) (p : Nat) (q : Part) (own : Nat) (d : DataRec) (hwf : Memory.wf s.mem = true) : Memory.wf (State.copyRecord s p q own d).mem = true := by
  unfold State.copyRecord
  split
  · exact State.draw_wf _ hwf
  · split
    · exact State.scramble_wf _ _ _ _ hwf
    · refine State.ownMove_wf _ _ _ _ (foldl_eq_wf _ (fun s x t h e => ?_) _ _ (State.readStack_wf _ _ _ hwf))
      have e : t = s.copyBlock d x.1 x.2 := e
      rw [e]
      exact State.copyBlock_wf s d x.1 x.2 h

theorem State.loadData_wf (s : State) (own : Nat) (ds : List DataRec) (hwf : Memory.wf s.mem = true) : Memory.wf (s.loadData own ds).mem = true := by
  refine foldl_wf _ (fun s d h => ?_) _ _ hwf
  split
  · exact h
  · split
    · exact h
    · exact State.copyRecord_wf _ _ _ _ _ h

theorem State.loadRegion_wf (s : State) (rn base : Nat) (hwf : Memory.wf s.mem = true) : Memory.wf (State.loadRegion s rn base).mem = true := by
  unfold State.loadRegion
  repeat' (first | with_reducible assumption | with_reducible apply State.addEndpoint_wf | with_reducible apply State.dropEndpoints_wf | with_reducible apply State.loadCluster_wf | with_reducible apply State.loadData_wf | with_reducible apply State.setLanding_wf | with_reducible apply State.setPart_wf | with_reducible apply State.setRegion_wf | (with_reducible refine foldl_wf _ (fun s x h => ?_) _ _ ?_) | with_reducible apply ite_wf | split | dsimp only)

theorem State.installStaged_wf (s : State) (rn base : Nat) (hwf : Memory.wf s.mem = true) : Memory.wf (State.installStaged s rn base).mem = true := by
  unfold State.installStaged
  repeat' (first | with_reducible assumption | with_reducible apply State.addEndpoint_wf | with_reducible apply State.dropEndpoints_wf | with_reducible apply State.setLanding_wf | with_reducible apply State.setPart_wf | (with_reducible refine foldl_wf _ (fun s x h => ?_) _ _ ?_) | with_reducible apply ite_wf | split | dsimp only)

theorem State.rebaseRegion_wf (s : State) (r : Region) (hwf : Memory.wf s.mem = true) : Memory.wf (State.rebaseRegion s r).mem = true := by
  unfold State.rebaseRegion
  repeat' (first | with_reducible assumption | with_reducible apply State.rebase_wf | (with_reducible refine foldl_wf _ (fun s x h => ?_) _ _ ?_) | dsimp only)

theorem State.startCmd_wf (s : State) (o : Origin) (slot : Bytes) (hwf : Memory.wf s.mem = true) : Memory.wf (State.startCmd s o slot).mem = true := by
  unfold State.startCmd
  repeat' (first | with_reducible assumption | with_reducible apply State.finish_wf | with_reducible apply ite_wf | split | dsimp only)

theorem State.startPacket_wf (s : State) (p : Packet) (hwf : Memory.wf s.mem = true) : Memory.wf (State.startPacket s p).mem = true := by
  unfold State.startPacket
  repeat' (first | with_reducible assumption | with_reducible apply State.glerynSend_wf | with_reducible apply State.startCmd_wf | with_reducible apply ite_wf | split | dsimp only)

theorem State.fail_wf (s : State) (id status : Nat) (detail : Nat) (hwf : Memory.wf s.mem = true) : Memory.wf (State.fail s id status detail).mem = true := by
  unfold State.fail
  repeat' (first | with_reducible assumption | with_reducible apply State.finish_wf | dsimp only)

theorem State.noteFailure_wf (s : State) (id status : Nat) (hwf : Memory.wf s.mem = true) : Memory.wf (State.noteFailure s id status).mem = true := by
  unfold State.noteFailure
  repeat' (first | with_reducible assumption | with_reducible apply ite_wf | split | dsimp only)

theorem State.settleActivation_wf (s : State) (id : Nat) (hwf : Memory.wf s.mem = true) : Memory.wf (State.settleActivation s id).mem = true := by
  unfold State.settleActivation
  repeat' (first | with_reducible assumption | with_reducible apply State.finish_wf | with_reducible apply ite_wf | split | dsimp only)

theorem State.setPorts_wf (s : State) (rn : Nat) (closed : Bool) (hwf : Memory.wf s.mem = true) : Memory.wf (State.setPorts s rn closed).mem = true := by
  unfold State.setPorts
  repeat' (first | with_reducible assumption | with_reducible apply State.modPart_wf | with_reducible apply ite_wf | split | dsimp only)

theorem State.dropActivation_wf (s : State) (rn status : Nat) (hwf : Memory.wf s.mem = true) : Memory.wf (State.dropActivation s rn status).mem = true := by
  unfold State.dropActivation
  repeat' (first | with_reducible assumption | with_reducible apply State.noteFailure_wf | with_reducible apply State.setPorts_wf | with_reducible apply State.setRegion_wf | with_reducible apply State.settleActivation_wf | with_reducible apply ite_wf | split | dsimp only)

theorem State.beginStep_wf (s : State) (p : Nat) (st : StepRec) (hwf : Memory.wf s.mem = true) : Memory.wf (State.beginStep s p st).mem = true := by
  unfold State.beginStep
  repeat' (first | with_reducible assumption | with_reducible apply State.fail_wf | with_reducible apply State.poke_wf | with_reducible apply State.setPart_wf | with_reducible apply ite_wf | split | dsimp only)

theorem State.promote_wf (s : State) (p : Nat) (n : Nat) (hwf : Memory.wf s.mem = true) : Memory.wf (State.promote s p n).mem = true := by
  induction n generalizing s p with
  | zero => exact hwf
  | succ n ih =>
    rw [State.promote]
    repeat' (first | with_reducible assumption | with_reducible apply ih | with_reducible apply State.beginStep_wf | with_reducible apply State.fail_wf | with_reducible apply State.setPart_wf | with_reducible apply ite_wf | split | dsimp only)

theorem State.inject_wf (s : State) (p : Nat) (st : StepRec) (hwf : Memory.wf s.mem = true) : Memory.wf (State.inject s p st).mem = true := by
  unfold State.inject
  repeat' (first | with_reducible assumption | with_reducible apply State.setInbound_wf | (with_reducible refine foldl_wf _ (fun s x h => ?_) _ _ ?_) | (with_reducible refine foldl_fst_wf _ (fun r x h => ?_) _ _ ?_) | with_reducible apply ite_wf | split | dsimp only)

theorem State.writeTags_wf (s : State) (p tag : Nat) (hwf : Memory.wf s.mem = true) : Memory.wf (State.writeTags s p tag).mem = true := by
  unfold State.writeTags
  repeat' (first | with_reducible assumption | with_reducible apply State.setField_wf | (with_reducible refine foldl_wf _ (fun s x h => ?_) _ _ ?_) | dsimp only)

theorem State.clearEnds_wf (s : State) (p : Nat) (rs : List Nat) (hwf : Memory.wf s.mem = true) : Memory.wf (State.clearEnds s p rs).mem = true := by
  unfold State.clearEnds
  repeat' (first | with_reducible assumption | with_reducible apply State.modPart_wf | with_reducible apply ite_wf | split | dsimp only)

theorem State.release_wf (s : State) (p : Nat) (st : StepRec) (hwf : Memory.wf s.mem = true) : Memory.wf (State.release s p st).mem = true := by
  unfold State.release
  repeat' (first | with_reducible assumption | with_reducible apply State.clearEnds_wf | with_reducible apply State.inject_wf | with_reducible apply State.modPart_wf | with_reducible apply State.releaseCluster_wf | with_reducible apply State.setPower_wf | with_reducible apply State.setRegion_wf | with_reducible apply State.writeTags_wf | (with_reducible refine foldl_wf _ (fun s x h => ?_) _ _ ?_) | (with_reducible refine foldl_fst_wf _ (fun r x h => ?_) _ _ ?_) | with_reducible apply ite_wf | split | dsimp only)

theorem State.repairRecord_wf (s : State) (p rec : Nat) (hwf : Memory.wf s.mem = true) : Memory.wf (State.repairRecord s p rec).mem = true := by
  unfold State.repairRecord
  repeat' (first | with_reducible assumption | with_reducible apply State.loadData_wf | with_reducible apply State.modRegion_wf | with_reducible apply State.record_wf | with_reducible apply State.writeBackup_wf | with_reducible apply ite_wf | split | dsimp only)

theorem State.repairRecords_wf (s : State) (p : Nat) (hwf : Memory.wf s.mem = true) : Memory.wf (State.repairRecords s p).mem = true := by
  unfold State.repairRecords
  repeat' (first | with_reducible assumption | with_reducible apply State.modPart_wf | with_reducible apply State.repairRecord_wf | (with_reducible refine foldl_wf _ (fun s x h => ?_) _ _ ?_) | with_reducible apply ite_wf | split | dsimp only)

theorem State.clearPart_wf (s : State) (p : Nat) (hwf : Memory.wf s.mem = true) : Memory.wf (State.clearPart s p).mem = true := by
  unfold State.clearPart
  repeat' (first | with_reducible assumption | with_reducible apply State.clearRegion_wf | with_reducible apply State.stopCluster_wf | (with_reducible refine foldl_wf _ (fun s x h => ?_) _ _ ?_) | (with_reducible refine foldl_fst_wf _ (fun r x h => ?_) _ _ ?_) | dsimp only)

theorem State.advanceAll_wf (s : State) (p : Nat) (keep : List Nat) (hwf : Memory.wf s.mem = true) : Memory.wf (State.advanceAll s p keep).mem = true := by
  unfold State.advanceAll
  repeat' (first | with_reducible assumption | with_reducible apply State.advanceEpoch_wf | (with_reducible refine foldl_wf _ (fun s x h => ?_) _ _ ?_) | (with_reducible refine foldl_fst_wf _ (fun r x h => ?_) _ _ ?_) | with_reducible apply ite_wf | split | dsimp only)

theorem State.clearStep_wf (s : State) (p : Nat) (keep : List Nat) (hwf : Memory.wf s.mem = true) : Memory.wf (State.clearStep s p keep).mem = true := by
  unfold State.clearStep
  repeat' (first | with_reducible assumption | with_reducible apply State.advanceAll_wf | with_reducible apply State.clearPart_wf | with_reducible apply State.modPart_wf | with_reducible apply ite_wf | split | dsimp only)

theorem State.freezeDone_wf (s : State) (p : Nat) (hwf : Memory.wf s.mem = true) : Memory.wf (State.freezeDone s p).mem = true := by
  unfold State.freezeDone
  repeat' (first | with_reducible assumption | with_reducible apply State.finish_wf | with_reducible apply State.record_wf | (with_reducible refine foldl_wf _ (fun s x h => ?_) _ _ ?_) | (with_reducible refine foldl_fst_wf _ (fun r x h => ?_) _ _ ?_) | with_reducible apply ite_wf | split | dsimp only)

theorem State.replay_wf (s : State) (p : Nat) (hwf : Memory.wf s.mem = true) : Memory.wf (State.replay s p).mem = true := by
  unfold State.replay
  repeat' (first | with_reducible assumption | with_reducible apply State.advanceAll_wf | with_reducible apply State.clearEnds_wf | with_reducible apply State.clearPart_wf | with_reducible apply State.freezeDone_wf | with_reducible apply State.freshPetals_wf | with_reducible apply State.inject_wf | with_reducible apply State.invalidateCache_wf | with_reducible apply State.modPart_wf | with_reducible apply State.releaseCluster_wf | with_reducible apply State.setPower_wf | (with_reducible refine foldl_wf _ (fun s x h => ?_) _ _ ?_) | (with_reducible refine foldl_fst_wf _ (fun r x h => ?_) _ _ ?_) | with_reducible apply ite_wf | split | dsimp only)

theorem State.retireDie_wf (s : State) (site cause : Nat) (cmd : Option Nat) (late : Bool) (hwf : Memory.wf s.mem = true) : Memory.wf (State.retireDie s site cause cmd late).mem = true := by
  unfold State.retireDie
  repeat' (first | with_reducible assumption | with_reducible apply State.modPart_wf | (with_reducible refine foldl_wf _ (fun s x h => ?_) _ _ ?_) | (with_reducible refine foldl_fst_wf _ (fun r x h => ?_) _ _ ?_) | with_reducible apply ite_wf | split | dsimp only)

theorem State.holdAccess_wf (s : State) (h : HeldAccess) (hwf : Memory.wf s.mem = true) : Memory.wf (State.holdAccess s h).mem = true := by
  unfold State.holdAccess
  repeat' (first | with_reducible assumption | dsimp only)

theorem State.writeRemap_wf (s : State) (a n : Nat) (good : List Nat) (rows : List (Nat × Nat)) (hwf : Memory.wf s.mem = true) : Memory.wf (State.writeRemap s a n good rows).mem = true := by
  unfold State.writeRemap
  repeat' (first | with_reducible assumption | with_reducible apply State.setReg_wf | (with_reducible refine foldl_wf _ (fun s x h => ?_) _ _ ?_) | (with_reducible refine foldl_fst_wf _ (fun r x h => ?_) _ _ ?_) | with_reducible apply ite_wf | split | dsimp only)

theorem State.writeRemaps_wf (s : State) (b : Nat) (hwf : Memory.wf s.mem = true) : Memory.wf (State.writeRemaps s b).mem = true := by
  unfold State.writeRemaps
  repeat' (first | with_reducible assumption | with_reducible apply State.setField_wf | with_reducible apply State.writeRemap_wf | (with_reducible refine foldl_wf _ (fun s x h => ?_) _ _ ?_) | dsimp only)

theorem State.resetPhys_wf (s : State) (b : Nat) (hwf : Memory.wf s.mem = true) : Memory.wf (State.resetPhys s b).mem = true := by
  unfold State.resetPhys
  repeat' (first | with_reducible assumption | with_reducible apply State.setPhys_wf | (with_reducible refine foldl_wf _ (fun s x h => ?_) _ _ ?_) | with_reducible apply ite_wf | split | dsimp only)

theorem State.resetCluster_wf (s : State) (c : Nat) (hwf : Memory.wf s.mem = true) : Memory.wf (State.resetCluster s c).mem = true := by
  unfold State.resetCluster
  repeat' (first | with_reducible assumption | with_reducible apply State.clearRegs_wf | with_reducible apply State.resetPhys_wf | with_reducible apply State.scramble_wf | with_reducible apply State.setClu_wf | with_reducible apply State.writeRemaps_wf | dsimp only)

theorem State.unitsOut_wf (s : State) (out : PortRef) (n : Nat) (hwf : Memory.wf s.mem = true) : Memory.wf (State.unitsOut s out n).mem = true := by
  unfold State.unitsOut
  repeat' (first | with_reducible assumption | with_reducible apply State.count64_wf | dsimp only)

theorem State.setMoving_wf (s : State) (i : Nat) (m : Moving) (hwf : Memory.wf s.mem = true) : Memory.wf (State.setMoving s i m).mem = true := by
  unfold State.setMoving
  repeat' (first | with_reducible assumption | dsimp only)

theorem State.notePeak_wf (s : State) (p : PortRef) (hwf : Memory.wf s.mem = true) : Memory.wf (State.notePeak s p).mem = true := by
  unfold State.notePeak
  repeat' (first | with_reducible assumption | with_reducible apply State.setField_wf | with_reducible apply ite_wf | split | dsimp only)

theorem State.passLeg_wf (s : State) (i j : Nat) (hwf : Memory.wf s.mem = true) : Memory.wf (State.passLeg s i j).mem = true := by
  unfold State.passLeg
  repeat' (first | with_reducible assumption | with_reducible apply State.notePeak_wf | with_reducible apply State.setMoving_wf | with_reducible apply State.unitsOut_wf | with_reducible apply ite_wf | split | dsimp only)

theorem State.passPacket_wf (s : State) (i : Nat) (hwf : Memory.wf s.mem = true) : Memory.wf (State.passPacket s i).mem = true := by
  unfold State.passPacket
  repeat' (first | with_reducible assumption | with_reducible apply State.passLeg_wf | (with_reducible refine foldl_wf _ (fun s x h => ?_) _ _ ?_) | with_reducible apply ite_wf | split | dsimp only)

theorem State.settleNet_wf (s : State) (n : Nat) (hwf : Memory.wf s.mem = true) : Memory.wf (State.settleNet s n).mem = true := by
  induction n generalizing s with
  | zero => exact hwf
  | succ n ih =>
    rw [State.settleNet]
    repeat' (first | with_reducible assumption | with_reducible apply ih | with_reducible apply State.passPacket_wf | (with_reducible refine foldl_wf _ (fun s x h => ?_) _ _ ?_) | with_reducible apply ite_wf | split | dsimp only)

theorem State.addMoving_wf (s : State) (t : Target) (a : Nat) (p : Packet) (hwf : Memory.wf s.mem = true) : Memory.wf (State.addMoving s t a p).mem = true := by
  unfold State.addMoving
  repeat' (first | with_reducible assumption | dsimp only)

theorem State.enterNet_wf (s : State) (t : Target) (r : BitVec 1 × Nat) (a c port : Nat) (p : Packet) (hwf : Memory.wf s.mem = true) : Memory.wf (State.enterNet s t r a c port p).mem = true := by
  unfold State.enterNet
  repeat' (first | with_reducible assumption | with_reducible apply State.settleNet_wf | dsimp only)

theorem State.answerUnreach_wf (s : State) (t : Target) (a c : Nat) (p : Packet) (hwf : Memory.wf s.mem = true) : Memory.wf (State.answerUnreach s t a c p).mem = true := by
  unfold State.answerUnreach
  repeat' (first | with_reducible assumption | with_reducible apply State.addMoving_wf | with_reducible apply State.count_wf | with_reducible apply ite_wf | split | dsimp only)

theorem State.sourceRoute_wf (s : State) (t : Target) (a c port : Nat) (p : Packet) (hwf : Memory.wf s.mem = true) : Memory.wf (State.sourceRoute s t a c port p).mem = true := by
  unfold State.sourceRoute
  repeat' (first | with_reducible assumption | with_reducible apply State.answerUnreach_wf | with_reducible apply State.enterNet_wf | with_reducible apply ite_wf | split | dsimp only)

theorem State.fromDie_wf (s : State) (n a : Nat) (t : Target) (p : Packet) (hwf : Memory.wf s.mem = true) : Memory.wf (State.fromDie s n a t p).mem = true := by
  unfold State.fromDie
  repeat' (first | with_reducible assumption | with_reducible apply State.addMoving_wf | with_reducible apply State.sourceRoute_wf | with_reducible apply ite_wf | split | dsimp only)

theorem State.launch_wf (s : State) (a : Nat) (p : Packet) (hwf : Memory.wf s.mem = true) : Memory.wf (State.launch s a p).mem = true := by
  unfold State.launch
  repeat' (first | with_reducible assumption | with_reducible apply State.addMoving_wf | with_reducible apply State.fromDie_wf | with_reducible apply State.sourceRoute_wf | with_reducible apply ite_wf | split | dsimp only)

theorem State.setSend_wf (s : State) (f : SendFlow) (hwf : Memory.wf s.mem = true) : Memory.wf (State.setSend s f).mem = true := by
  unfold State.setSend
  repeat' (first | with_reducible assumption | with_reducible apply ite_wf | split | dsimp only)

theorem State.sendOn_wf (s : State) (a : Nat) (u : Unacked) (hwf : Memory.wf s.mem = true) : Memory.wf (State.sendOn s a u).mem = true := by
  unfold State.sendOn
  repeat' (first | with_reducible assumption | with_reducible apply State.launch_wf | with_reducible apply State.setSend_wf | dsimp only)

theorem State.setRecv_wf (s : State) (f : RecvFlow) (hwf : Memory.wf s.mem = true) : Memory.wf (State.setRecv s f).mem = true := by
  unfold State.setRecv
  repeat' (first | with_reducible assumption | with_reducible apply ite_wf | split | dsimp only)

theorem State.flush_wf (s : State) (k : FlowKey) (deliver : State → Packet → State) (n : Nat) (hwf : Memory.wf s.mem = true)
    (hd : ∀ s p, Memory.wf s.mem = true → Memory.wf (deliver s p).mem = true) : Memory.wf (s.flush k deliver n).mem = true := by
  induction n generalizing s with
  | zero => exact hwf
  | succ n ih =>
    rw [State.flush]
    split
    · exact hwf
    · split
      · exact hwf
      · exact ih _ (hd _ _ (State.setRecv_wf _ _ hwf))

theorem State.receive_wf (s : State) (a : Nat) (p : Packet) (ack again : State → State) (deliver : State → Packet → State) (hwf : Memory.wf s.mem = true)
    (ha : ∀ s, Memory.wf s.mem = true → Memory.wf (ack s).mem = true) (hg : ∀ s, Memory.wf s.mem = true → Memory.wf (again s).mem = true)
    (hd : ∀ s p, Memory.wf s.mem = true → Memory.wf (deliver s p).mem = true) : Memory.wf (s.receive a p ack again deliver).mem = true := by
  unfold State.receive
  repeat' (first | with_reducible assumption | with_reducible apply State.launch_wf | with_reducible apply State.count_wf | with_reducible apply State.setRecv_wf | (with_reducible refine State.flush_wf _ _ _ _ ?_ hd) | with_reducible apply ha | with_reducible apply hg | with_reducible apply hd | with_reducible apply ite_wf | split | dsimp only)

theorem State.arrives_wf (s : State) (p : Packet) (hwf : Memory.wf s.mem = true) : Memory.wf (State.arrives s p).mem = true := by
  unfold State.arrives
  repeat' (first | with_reducible assumption | with_reducible apply ite_wf | split | dsimp only)

theorem State.returnCredit_wf (s : State) (c : Nat) (dest : BitVec 24) (n : Nat) (hwf : Memory.wf s.mem = true) : Memory.wf (State.returnCredit s c dest n).mem = true := by
  unfold State.returnCredit
  repeat' (first | with_reducible assumption | with_reducible apply State.setClu_wf | with_reducible apply State.setCore_wf | with_reducible apply ite_wf | split | dsimp only)

theorem State.modCmd_wf (s : State) (id : Nat) (f : Started → Started) (hwf : Memory.wf s.mem = true) : Memory.wf (State.modCmd s id f).mem = true := by
  unfold State.modCmd
  repeat' (first | with_reducible assumption | with_reducible apply ite_wf | split | dsimp only)

theorem State.withHost_wf (s : State) (id : Nat) (c : Started) (io : HostIo) (f : Bytes → State) (hwf : Memory.wf s.mem = true)
    (hf : ∀ b, Memory.wf (f b).mem = true) : Memory.wf (s.withHost id c io f).mem = true := by
  unfold State.withHost
  split
  · exact State.fail_wf _ _ _ _ hwf
  · exact hf _

theorem State.finishOut_wf (s : State) (id : Nat) (c : Started) (a : Nat) (out : Bytes) (st r0 r1 : Nat) (hwf : Memory.wf s.mem = true) : Memory.wf (State.finishOut s id c a out st r0 r1).mem = true := by
  unfold State.finishOut
  repeat' (first | with_reducible assumption | with_reducible apply State.fail_wf | with_reducible apply State.finish_wf | with_reducible apply State.hostWrite_wf | with_reducible apply ite_wf | split | dsimp only)

theorem State.relayCmd_wf (s : State) (id : Nat) (c : Started) (io : HostIo) (hwf : Memory.wf s.mem = true) : Memory.wf (s.relayCmd id c io).mem = true := by
  unfold State.relayCmd
  refine State.withHost_wf _ _ _ _ _ hwf fun b => ?_
  repeat' (first | with_reducible assumption | with_reducible apply State.fail_wf | with_reducible apply State.sendOn_wf | with_reducible apply State.modCmd_wf | with_reducible apply ite_wf | split | dsimp only)

theorem State.streamSend_wf (s : State) (id : Nat) (n : Nat) (hwf : Memory.wf s.mem = true) : Memory.wf (State.streamSend s id n).mem = true := by
  induction n generalizing s id with
  | zero => exact hwf
  | succ n ih =>
    rw [State.streamSend]
    repeat' (first | with_reducible assumption | with_reducible apply ih | with_reducible apply State.modCmd_wf | with_reducible apply State.sendOn_wf | with_reducible apply ite_wf | split | dsimp only)

theorem State.finishAs_wf (s : State) (id : Nat) (k : Completion) (hwf : Memory.wf s.mem = true) : Memory.wf (State.finishAs s id k).mem = true := by
  unfold State.finishAs
  repeat' (first | with_reducible assumption | with_reducible apply State.finish_wf | dsimp only)

theorem State.streamPump_wf (s : State) (id : Nat) (hwf : Memory.wf s.mem = true) : Memory.wf (State.streamPump s id).mem = true := by
  unfold State.streamPump
  repeat' (first | with_reducible assumption | with_reducible apply State.finishAs_wf | with_reducible apply State.streamSend_wf | with_reducible apply ite_wf | split | dsimp only)

theorem State.runCmd_wf (s : State) (id op : Nat) (io : HostIo) (f : Started → State) (hwf : Memory.wf s.mem = true)
    (hf : ∀ c, Memory.wf (f c).mem = true) : Memory.wf (s.runCmd id op io f).mem = true := by
  unfold State.runCmd
  repeat' (first | with_reducible assumption | with_reducible apply hf | with_reducible apply State.relayCmd_wf | with_reducible apply ite_wf | split | dsimp only)

theorem State.runFirst_wf (s : State) (id op n : Nat) (io : HostIo) (f : Started → State) (hwf : Memory.wf s.mem = true)
    (hf : ∀ c, Memory.wf (f c).mem = true) : Memory.wf (s.runFirst id op n io f).mem = true := by
  unfold State.runFirst
  split
  · exact hwf
  · split
    · exact State.runCmd_wf _ _ _ _ _ hwf hf
    · split
      · exact State.runCmd_wf _ _ _ _ _ hwf fun _ => State.fail_wf _ _ _ _ hwf
      · exact hwf

theorem State.runSub_wf (s : State) (id op sub : Nat) (io : HostIo) (f : Started → State) (hwf : Memory.wf s.mem = true)
    (hf : ∀ c, Memory.wf (f c).mem = true) : Memory.wf (s.runSub id op sub io f).mem = true := by
  unfold State.runSub
  split
  · exact hwf
  · split
    · exact State.runCmd_wf _ _ _ _ _ hwf hf
    · exact hwf

theorem State.retireCore_wf (s : State) (pk cause : Nat) (hwf : Memory.wf s.mem = true) : Memory.wf (State.retireCore s pk cause).mem = true := by
  unfold State.retireCore
  repeat' (first | with_reducible assumption | with_reducible apply State.addDefect_wf | with_reducible apply State.setPhys_wf | dsimp only)

theorem State.takeSpare_wf (s : State) (h : Nat) (hwf : Memory.wf s.mem = true) : Memory.wf (State.takeSpare s h).1.mem = true := by
  unfold State.takeSpare
  repeat' (first | with_reducible assumption | with_reducible apply State.dropTiles_wf | with_reducible apply State.invalidateCache_wf | with_reducible apply State.retireCore_wf | with_reducible apply State.retireDie_wf | with_reducible apply State.setClu_wf | with_reducible apply State.setPhys_wf | (with_reducible refine foldl_wf _ (fun s x h => ?_) _ _ ?_) | with_reducible apply ite_wf | split | dsimp only)

theorem State.coreFault_wf (s : State) (h : Nat) (bit : Option Nat) (hwf : Memory.wf s.mem = true) : Memory.wf (State.coreFault s h bit).mem = true := by
  unfold State.coreFault
  repeat' (first | with_reducible assumption | with_reducible apply State.draw_wf | with_reducible apply State.modPart_wf | with_reducible apply State.setField_wf | with_reducible apply State.setPhys_wf | with_reducible apply State.setReg_wf | with_reducible apply State.takeSpare_wf | with_reducible apply ite_wf | split | dsimp only)

theorem State.replayDue_wf (s : State) (c : Nat) (hwf : Memory.wf s.mem = true) : Memory.wf (State.replayDue s c).mem = true := by
  unfold State.replayDue
  repeat' (first | with_reducible assumption | with_reducible apply State.modPart_wf | with_reducible apply ite_wf | split | dsimp only)

theorem State.remapError_wf (s : State) (c bank : Nat) (hwf : Memory.wf s.mem = true) : Memory.wf (State.remapError s c bank).mem = true := by
  unfold State.remapError
  repeat' (first | with_reducible assumption | with_reducible apply State.modPart_wf | with_reducible apply State.record_wf | with_reducible apply State.writeRemaps_wf | with_reducible apply ite_wf | split | dsimp only)

theorem State.slotError_wf (s : State) (c entry : Nat) (hwf : Memory.wf s.mem = true) : Memory.wf (State.slotError s c entry).mem = true := by
  unfold State.slotError
  repeat' (first | with_reducible assumption | with_reducible apply State.putSlots_wf | with_reducible apply State.record_wf | with_reducible apply State.replayDue_wf | with_reducible apply ite_wf | split | dsimp only)

theorem State.exitError_wf (s : State) (c entry : Nat) (hwf : Memory.wf s.mem = true) : Memory.wf (State.exitError s c entry).mem = true := by
  unfold State.exitError
  repeat' (first | with_reducible assumption | with_reducible apply State.record_wf | dsimp only)

theorem State.routeError_wf (s : State) (c n : Nat) (hwf : Memory.wf s.mem = true) : Memory.wf (State.routeError s c n).mem = true := by
  unfold State.routeError
  repeat' (first | with_reducible assumption | with_reducible apply State.count_wf | with_reducible apply ite_wf | split | dsimp only)

theorem State.pageError_wf (s : State) (n page : Nat) (hwf : Memory.wf s.mem = true) : Memory.wf (State.pageError s n page).mem = true := by
  unfold State.pageError
  repeat' (first | with_reducible assumption | with_reducible apply State.record_wf | with_reducible apply State.setStack_wf | with_reducible apply ite_wf | split | dsimp only)

theorem State.endpointError_wf (s : State) (die eid : Nat) (hwf : Memory.wf s.mem = true) : Memory.wf (State.endpointError s die eid).mem = true := by
  unfold State.endpointError
  repeat' (first | with_reducible assumption | with_reducible apply State.count_wf | with_reducible apply ite_wf | split | dsimp only)

theorem State.atStage_wf (s : State) (h n : Nat) (f : Nat → Part → State) (hwf : Memory.wf s.mem = true)
    (hf : ∀ p q, Memory.wf (f p q).mem = true) : Memory.wf (s.atStage h n f).mem = true := by
  unfold State.atStage
  repeat' (first | with_reducible assumption | with_reducible apply hf | with_reducible apply ite_wf | split | dsimp only)

theorem State.rotateMaps_wf (s : State) (c core spare : Nat) (hwf : Memory.wf s.mem = true) : Memory.wf (State.rotateMaps s c core spare).mem = true := by
  unfold State.rotateMaps
  repeat' (first | with_reducible assumption | with_reducible apply State.setClu_wf | with_reducible apply State.setPhys_wf | (with_reducible refine foldl_wf _ (fun s x h => ?_) _ _ ?_) | dsimp only)

theorem State.rotateOnto_wf (s : State) (c core spare : Nat) (hwf : Memory.wf s.mem = true) : Memory.wf (State.rotateOnto s c core spare).mem = true := by
  unfold State.rotateOnto
  repeat' (first | with_reducible assumption | with_reducible apply State.ownMove_wf | with_reducible apply State.rotateMaps_wf | dsimp only)

theorem State.ontoRecord_wf (s : State) (c p i : Nat) (t : Token) (hwf : Memory.wf s.mem = true) : Memory.wf (State.ontoRecord s c p i t).mem = true := by
  unfold State.ontoRecord
  repeat' (first | with_reducible assumption | with_reducible apply State.enterCircuit_wf | with_reducible apply ite_wf | split | dsimp only)

theorem State.outArrive_wf (s : State) (h qo : Nat) (hwf : Memory.wf s.mem = true) : Memory.wf (State.outArrive s h qo).mem = true := by
  unfold State.outArrive
  repeat' (first | with_reducible assumption | with_reducible apply State.arriveIn_wf | with_reducible apply State.intoSteer_wf | with_reducible apply State.ontoRecord_wf | with_reducible apply State.record_wf | with_reducible apply State.setCore_wf | with_reducible apply State.stir_wf | with_reducible apply ite_wf | split | dsimp only)

theorem State.steerArrive_wf (s : State) (c u o : Nat) (hwf : Memory.wf s.mem = true) : Memory.wf (State.steerArrive s c u o).mem = true := by
  unfold State.steerArrive
  repeat' (first | with_reducible assumption | with_reducible apply State.arriveIn_wf | with_reducible apply State.intoSteer_wf | with_reducible apply State.ontoRecord_wf | with_reducible apply State.record_wf | with_reducible apply State.sendPacket_wf | with_reducible apply State.setClu_wf | with_reducible apply State.stir_wf | with_reducible apply ite_wf | split | dsimp only)

theorem State.portMark_wf (s : State) (p i : Nat) (r : Inbound) (e : BitVec 3) (rest : List Token) (hwf : Memory.wf s.mem = true) : Memory.wf (State.portMark s p i r e rest).mem = true := by
  unfold State.portMark
  repeat' (first | with_reducible assumption | with_reducible apply State.count_wf | with_reducible apply State.setInbound_wf | with_reducible apply ite_wf | split | dsimp only)

theorem State.portStep_wf (s : State) (p i : Nat) (r : Inbound) (hwf : Memory.wf s.mem = true) : Memory.wf (State.portStep s p i r).mem = true := by
  unfold State.portStep
  repeat' (first | with_reducible assumption | with_reducible apply State.count_wf | with_reducible apply State.portMark_wf | with_reducible apply State.setInbound_wf | with_reducible apply State.takeIn_wf | with_reducible apply ite_wf | split | dsimp only)

theorem State.resume_wf (s : State) (h : Nat) (hwf : Memory.wf s.mem = true) : Memory.wf (State.resume s h).mem = true := by
  unfold State.resume
  repeat' (first | with_reducible assumption | with_reducible apply State.retire_wf | with_reducible apply State.setCore_wf | with_reducible apply ite_wf | split | dsimp only)

theorem State.enterFold_wf (s : State) (c j : Nat) (hwf : Memory.wf s.mem = true) : Memory.wf (State.enterFold s c j).mem = true := by
  unfold State.enterFold
  repeat' (first | with_reducible assumption | with_reducible apply State.resume_wf | with_reducible apply State.setCore_wf | (with_reducible refine foldl_wf _ (fun s x h => ?_) _ _ ?_) | with_reducible apply ite_wf | split | dsimp only)

theorem State.stageImage_wf (s : State) (c : Started) (host : Bytes) (hwf : Memory.wf s.mem = true) : Memory.wf (State.stageImage s c host).mem = true := by
  unfold State.stageImage
  repeat' (first | with_reducible assumption | with_reducible apply State.poke_wf | with_reducible apply memCopy_wf | with_reducible apply ite_wf | split | dsimp only)

theorem State.startActivation_wf (s : State) (rn : Nat) (discard : Bool) (cmd : Nat) (hwf : Memory.wf s.mem = true) : Memory.wf (State.startActivation s rn discard cmd).mem = true := by
  unfold State.startActivation
  repeat' (first | with_reducible assumption | with_reducible apply State.clearRegion_wf | with_reducible apply State.setPorts_wf | with_reducible apply State.setRegion_wf | with_reducible apply State.stopCluster_wf | (with_reducible refine foldl_wf _ (fun s x h => ?_) _ _ ?_) | with_reducible apply ite_wf | split | dsimp only)

end Sys2Proof.Laws
end

