-- ==== Sys2Proof/Laws/CanonStack.lean ====
section
/-! SUPPORT. Each operation of BulkMover, Collective, Seams, Views, Deliver, Stack leaves panel memory in canonical form. -/

namespace Sys2Proof.Laws

open Sys2Proof.Machine

set_option linter.unusedTactic false
set_option linter.unreachableTactic false
set_option linter.unusedVariables false

theorem State.modRun_wf (s : State) (c ch : Nat) (f : BmRun → BmRun) (hwf : Memory.wf s.mem = true) : Memory.wf (State.modRun s c ch f).mem = true := by
  unfold State.modRun
  repeat' (first | with_reducible assumption | with_reducible apply State.setClu_wf | with_reducible apply ite_wf | split | dsimp only)

theorem State.bmFail_wf (s : State) (c ch st : Nat) (hwf : Memory.wf s.mem = true) : Memory.wf (State.bmFail s c ch st).mem = true := by
  unfold State.bmFail
  repeat' (first | with_reducible assumption | with_reducible apply State.modRun_wf | dsimp only)

theorem State.bmRefused_wf (s : State) (c ch : Nat) (hwf : Memory.wf s.mem = true) : Memory.wf (State.bmRefused s c ch).mem = true := by
  unfold State.bmRefused
  repeat' (first | with_reducible assumption | with_reducible apply State.bmFail_wf | with_reducible apply State.count_wf | with_reducible apply State.modRun_wf | with_reducible apply ite_wf | split | dsimp only)

theorem State.cacheGet_wf (s : State) (c : Nat) (eid : BitVec 24) (a : Nat) (hwf : Memory.wf s.mem = true) : Memory.wf (State.cacheGet s c eid a).1.mem = true := by
  unfold State.cacheGet
  repeat' (first | with_reducible assumption | with_reducible apply State.count64_wf | with_reducible apply State.setClu_wf | with_reducible apply ite_wf | split | dsimp only)

theorem State.cachePut_wf (s : State) (c : Nat) (eid : BitVec 24) (a : Nat) (bs : Bytes) (hwf : Memory.wf s.mem = true) : Memory.wf (State.cachePut s c eid a bs).mem = true := by
  unfold State.cachePut
  repeat' (first | with_reducible assumption | with_reducible apply State.count64_wf | with_reducible apply State.setClu_wf | dsimp only)

theorem State.cacheWrite_wf (s : State) (c : Nat) (eid : BitVec 24) (a : Nat) (bs : Bytes) (hwf : Memory.wf s.mem = true) : Memory.wf (State.cacheWrite s c eid a bs).mem = true := by
  unfold State.cacheWrite
  repeat' (first | with_reducible assumption | with_reducible apply State.setClu_wf | (with_reducible refine foldl_wf _ (fun s x h => ?_) _ _ ?_) | with_reducible apply ite_wf | split | dsimp only)

theorem State.cacheDrop_wf (s : State) (c : Nat) (eid : BitVec 24) (a n : Nat) (hwf : Memory.wf s.mem = true) : Memory.wf (State.cacheDrop s c eid a n).mem = true := by
  unfold State.cacheDrop
  repeat' (first | with_reducible assumption | with_reducible apply State.setClu_wf | (with_reducible refine foldl_wf _ (fun s x h => ?_) _ _ ?_) | dsimp only)

theorem State.touch_wf (s : State) (a c : Nat) (hwf : Memory.wf s.mem = true) : Memory.wf (State.touch s a c).mem = true := by
  unfold State.touch
  repeat' (first | with_reducible assumption | with_reducible apply State.noteOff_wf | with_reducible apply State.noteUnmapped_wf | with_reducible apply State.requestWake_wf | with_reducible apply ite_wf | split | dsimp only)

theorem State.countUnreach_wf (s : State) (c a : Nat) (hwf : Memory.wf s.mem = true) : Memory.wf (State.countUnreach s c a).mem = true := by
  unfold State.countUnreach
  repeat' (first | with_reducible assumption | with_reducible apply State.count_wf | with_reducible apply ite_wf | split | dsimp only)

theorem State.blockedRead_wf (s : State) (a : Nat) (hwf : Memory.wf s.mem = true) : Memory.wf (State.blockedRead s a).mem = true := by
  unfold State.blockedRead
  repeat' (first | with_reducible assumption | with_reducible apply State.count_wf | with_reducible apply ite_wf | split | dsimp only)

theorem State.cacheRead_wf (s : State) (c ch la : Nat) (hwf : Memory.wf s.mem = true) : Memory.wf (State.cacheRead s c ch la).1.mem = true := by
  unfold State.cacheRead
  repeat' (first | with_reducible assumption | with_reducible apply State.bmFail_wf | with_reducible apply State.cacheGet_wf | with_reducible apply State.cachePut_wf | with_reducible apply State.readStack_wf | with_reducible apply ite_wf | split | dsimp only)

theorem State.bmLoadBlock_wf (s : State) (c ch a n : Nat) (cached : Bool) (hwf : Memory.wf s.mem = true) : Memory.wf (State.bmLoadBlock s c ch a n cached).1.mem = true := by
  unfold State.bmLoadBlock
  repeat' (first | with_reducible assumption | with_reducible apply State.blockedRead_wf | with_reducible apply State.bmFail_wf | with_reducible apply State.bmRefused_wf | with_reducible apply State.cacheRead_wf | with_reducible apply State.countUnreach_wf | with_reducible apply State.readStack_wf | with_reducible apply State.touch_wf | (with_reducible refine foldl_wf _ (fun s x h => ?_) _ _ ?_) | (with_reducible refine foldl_fst_wf _ (fun r x h => ?_) _ _ ?_) | with_reducible apply ite_wf | split | dsimp only)

theorem State.bmLoad_wf (s : State) (c ch a n : Nat) (cached : Bool) (hwf : Memory.wf s.mem = true) : Memory.wf (State.bmLoad s c ch a n cached).1.mem = true := by
  unfold State.bmLoad
  repeat' (first | with_reducible assumption | with_reducible apply State.bmLoadBlock_wf | (with_reducible refine foldl_wf _ (fun s x h => ?_) _ _ ?_) | (with_reducible refine foldl_fst_wf _ (fun r x h => ?_) _ _ ?_) | dsimp only)

theorem State.bmStoreBlock_wf (s : State) (c ch a : Nat) (bs : Bytes) (hwf : Memory.wf s.mem = true) : Memory.wf (State.bmStoreBlock s c ch a bs).mem = true := by
  unfold State.bmStoreBlock
  repeat' (first | with_reducible assumption | with_reducible apply State.bmFail_wf | with_reducible apply State.bmRefused_wf | with_reducible apply State.cacheWrite_wf | with_reducible apply State.count64_wf | with_reducible apply State.countUnreach_wf | with_reducible apply State.store_wf | with_reducible apply State.touch_wf | with_reducible apply State.wroteStack_wf | with_reducible apply ite_wf | split | dsimp only)

theorem State.bmStore_wf (s : State) (c ch a : Nat) (bs : Bytes) (hwf : Memory.wf s.mem = true) : Memory.wf (State.bmStore s c ch a bs).mem = true := by
  unfold State.bmStore
  repeat' (first | with_reducible assumption | with_reducible apply State.bmStoreBlock_wf | (with_reducible refine foldl_wf _ (fun s x h => ?_) _ _ ?_) | (with_reducible refine foldl_fst_wf _ (fun r x h => ?_) _ _ ?_) | dsimp only)

theorem State.bmLoadAll_wf (s : State) (c ch : Nat) (spans : List (Nat × Nat)) (cached : Bool) (hwf : Memory.wf s.mem = true) : Memory.wf (State.bmLoadAll s c ch spans cached).1.mem = true := by
  unfold State.bmLoadAll
  repeat' (first | with_reducible assumption | with_reducible apply State.bmLoad_wf | (with_reducible refine foldl_wf _ (fun s x h => ?_) _ _ ?_) | (with_reducible refine foldl_fst_wf _ (fun r x h => ?_) _ _ ?_) | dsimp only)

theorem State.bmStoreAll_wf (s : State) (c ch : Nat) (spans : List (Nat × Nat)) (bs : Bytes) (hwf : Memory.wf s.mem = true) : Memory.wf (State.bmStoreAll s c ch spans bs).mem = true := by
  unfold State.bmStoreAll
  repeat' (first | with_reducible assumption | with_reducible apply State.bmStore_wf | (with_reducible refine foldl_wf _ (fun s x h => ?_) _ _ ?_) | (with_reducible refine foldl_fst_wf _ (fun r x h => ?_) _ _ ?_) | dsimp only)

theorem State.bmPayload_wf (s : State) (c ch : Nat) (r : BmRun) (x : Piece) (hwf : Memory.wf s.mem = true) : Memory.wf (State.bmPayload s c ch r x).1.mem = true := by
  unfold State.bmPayload
  repeat' (first | with_reducible assumption | with_reducible apply State.bmLoadAll_wf | with_reducible apply ite_wf | split | dsimp only)

theorem State.bmWrites_wf (s : State) (c ch : Nat) (n : Nat) (hwf : Memory.wf s.mem = true) : Memory.wf (State.bmWrites s c ch n).mem = true := by
  induction n generalizing s c ch with
  | zero => exact hwf
  | succ n ih =>
    rw [State.bmWrites]
    repeat' (first | with_reducible assumption | with_reducible apply ih | with_reducible apply State.bmPayload_wf | with_reducible apply State.cacheWrite_wf | with_reducible apply State.count64_wf | with_reducible apply State.modRun_wf | with_reducible apply State.sendOn_wf | with_reducible apply ite_wf | split | dsimp only)

theorem State.bmReads_wf (s : State) (c ch : Nat) (n : Nat) (hwf : Memory.wf s.mem = true) : Memory.wf (State.bmReads s c ch n).mem = true := by
  induction n generalizing s c ch with
  | zero => exact hwf
  | succ n ih =>
    rw [State.bmReads]
    repeat' (first | with_reducible assumption | with_reducible apply ih | with_reducible apply State.cacheGet_wf | with_reducible apply State.modRun_wf | with_reducible apply State.sendOn_wf | with_reducible apply ite_wf | split | dsimp only)

theorem State.openSpans_wf (s : State) (p : Option Nat) (l : List (Nat × Nat)) (hwf : Memory.wf s.mem = true) : Memory.wf (State.openSpans s p l).1.mem = true := by
  unfold State.openSpans
  repeat' (first | with_reducible assumption | with_reducible apply State.openBytes_wf | (with_reducible refine foldl_wf _ (fun s x h => ?_) _ _ ?_) | (with_reducible refine foldl_fst_wf _ (fun r x h => ?_) _ _ ?_) | dsimp only)

theorem State.bmCrcOut_wf (s : State) (c ch : Nat) (r : BmRun) (hwf : Memory.wf s.mem = true) : Memory.wf (State.bmCrcOut s c ch r).mem = true := by
  unfold State.bmCrcOut
  repeat' (first | with_reducible assumption | with_reducible apply State.bmStoreAll_wf | with_reducible apply State.modRun_wf | with_reducible apply State.openSpans_wf | with_reducible apply ite_wf | split | dsimp only)

theorem State.bmLand_wf (s : State) (c ch : Nat) (n : Nat) (hwf : Memory.wf s.mem = true) : Memory.wf (State.bmLand s c ch n).mem = true := by
  induction n generalizing s c ch with
  | zero => exact hwf
  | succ n ih =>
    rw [State.bmLand]
    repeat' (first | with_reducible assumption | with_reducible apply ih | with_reducible apply State.bmCrcOut_wf | with_reducible apply State.bmStoreAll_wf | with_reducible apply State.modRun_wf | with_reducible apply ite_wf | split | dsimp only)

theorem State.bmPump_wf (s : State) (c ch : Nat) (hwf : Memory.wf s.mem = true) : Memory.wf (State.bmPump s c ch).mem = true := by
  unfold State.bmPump
  repeat' (first | with_reducible assumption | with_reducible apply State.bmLand_wf | with_reducible apply State.bmReads_wf | with_reducible apply State.bmWrites_wf | with_reducible apply ite_wf | split | dsimp only)

theorem State.bmStart_wf (s : State) (c ch op : Nat) (f : BitVec 512 → State → State) (hwf : Memory.wf s.mem = true)
    (hf : ∀ d s, Memory.wf s.mem = true → Memory.wf (f d s).mem = true) : Memory.wf (s.bmStart c ch op f).mem = true := by
  unfold State.bmStart
  repeat' (first | with_reducible assumption | with_reducible apply State.bmPump_wf | with_reducible apply hf | with_reducible apply State.count_wf | with_reducible apply State.setClu_wf | with_reducible apply ite_wf | split | dsimp only)

theorem State.bmCopy_wf (s : State) (c ch : Nat) (d : BitVec 512) (hwf : Memory.wf s.mem = true) : Memory.wf (State.bmCopy s c ch d).mem = true := by
  unfold State.bmCopy
  repeat' (first | with_reducible assumption | with_reducible apply State.bmLoadAll_wf | with_reducible apply State.bmStoreAll_wf | with_reducible apply State.modRun_wf | with_reducible apply State.openSpans_wf | (with_reducible refine foldl_wf _ (fun s x h => ?_) _ _ ?_) | (with_reducible refine foldl_fst_wf _ (fun r x h => ?_) _ _ ?_) | with_reducible apply ite_wf | split | dsimp only)

theorem State.bmComplete_wf (s : State) (c ch : Nat) (r : BmRun) (hwf : Memory.wf s.mem = true) : Memory.wf (State.bmComplete s c ch r).mem = true := by
  unfold State.bmComplete
  repeat' (first | with_reducible assumption | with_reducible apply State.setClu_wf | with_reducible apply State.setField_wf | with_reducible apply State.store_wf | with_reducible apply ite_wf | split | dsimp only)

theorem State.auditRecord_wf (s : State) (d : DataRec) (hwf : Memory.wf s.mem = true) : Memory.wf (State.auditRecord s d).mem = true := by
  unfold State.auditRecord
  repeat' (first | with_reducible assumption | with_reducible apply State.blockedRead_wf | with_reducible apply State.count64_wf | with_reducible apply State.ownMove_wf | (with_reducible refine foldl_wf _ (fun s x h => ?_) _ _ ?_) | (with_reducible refine foldl_fst_wf _ (fun r x h => ?_) _ _ ?_) | dsimp only)

theorem State.auditBank_wf (s : State) (c : Nat) (steps : Dword) (hwf : Memory.wf s.mem = true) : Memory.wf (State.auditBank s c steps).mem = true := by
  unfold State.auditBank
  repeat' (first | with_reducible assumption | with_reducible apply State.count64_wf | with_reducible apply State.ownMove_wf | with_reducible apply State.setClu_wf | with_reducible apply ite_wf | split | dsimp only)

theorem State.countLateAudit_wf (s : State) (cs : List Nat) (hwf : Memory.wf s.mem = true) : Memory.wf (s.countLateAudit cs).mem = true := by
  refine foldl_eq_wf _ (fun s x t h e => ?_) _ _ hwf
  have e : t = s.count (s.cluReg x 0x940) 1 := e
  rw [e]
  exact State.count_wf _ _ _ h

theorem State.auditPass_wf (s : State) (q : Part) (hwf : Memory.wf s.mem = true) : Memory.wf (State.auditPass s q).mem = true := by
  unfold State.auditPass
  repeat' (first | with_reducible assumption | with_reducible apply State.auditBank_wf | with_reducible apply State.auditRecord_wf | (with_reducible refine foldl_wf _ (fun s x h => ?_) _ _ ?_) | with_reducible apply ite_wf | split | dsimp only)

theorem State.scheduleTest_wf (s : State) (b : Nat) (hwf : Memory.wf s.mem = true) : Memory.wf (State.scheduleTest s b).mem = true := by
  unfold State.scheduleTest
  repeat' (first | with_reducible assumption | with_reducible apply ite_wf | split | dsimp only)

theorem State.mismatch_wf (s : State) (p : Nat) (q : Part) (rec c region addr : Nat) (clean : Dword) (hwf : Memory.wf s.mem = true) : Memory.wf (State.mismatch s p q rec c region addr clean).mem = true := by
  unfold State.mismatch
  repeat' (first | with_reducible assumption | with_reducible apply State.count_wf | with_reducible apply State.modPart_wf | with_reducible apply State.record_wf | with_reducible apply State.repairRecords_wf | with_reducible apply State.scheduleTest_wf | with_reducible apply ite_wf | split | dsimp only)

theorem State.setCtx_wf (s : State) (k : Nat) (x : CollCtx) (hwf : Memory.wf s.mem = true) : Memory.wf (State.setCtx s k x).mem = true := by
  unfold State.setCtx
  repeat' (first | with_reducible assumption | dsimp only)

theorem State.sendRecord_wf (s : State) (k : Nat) (hwf : Memory.wf s.mem = true) : Memory.wf (State.sendRecord s k).mem = true := by
  unfold State.sendRecord
  repeat' (first | with_reducible assumption | with_reducible apply State.record_wf | with_reducible apply State.sendOn_wf | with_reducible apply State.setCtx_wf | with_reducible apply ite_wf | split | dsimp only)

theorem State.collEmit_wf (s : State) (k slot : Nat) (hwf : Memory.wf s.mem = true) : Memory.wf (State.collEmit s k slot).mem = true := by
  unfold State.collEmit
  repeat' (first | with_reducible assumption | with_reducible apply State.count_wf | with_reducible apply State.sendOn_wf | with_reducible apply State.sendRecord_wf | with_reducible apply State.setCtx_wf | with_reducible apply ite_wf | split | dsimp only)

theorem State.collPump_wf (s : State) (k : Nat) (hwf : Memory.wf s.mem = true) : Memory.wf (State.collPump s k).mem = true := by
  unfold State.collPump
  repeat' (first | with_reducible assumption | with_reducible apply State.collEmit_wf | with_reducible apply State.count_wf | with_reducible apply State.sendRecord_wf | (with_reducible refine foldl_wf _ (fun s x h => ?_) _ _ ?_) | (with_reducible refine foldl_fst_wf _ (fun r x h => ?_) _ _ ?_) | with_reducible apply ite_wf | split | dsimp only)

theorem State.fenceCtx_wf (s : State) (k seg : Nat) (hwf : Memory.wf s.mem = true) : Memory.wf (State.fenceCtx s k seg).mem = true := by
  unfold State.fenceCtx
  repeat' (first | with_reducible assumption | with_reducible apply State.count_wf | with_reducible apply State.record_wf | with_reducible apply State.setCtx_wf | with_reducible apply ite_wf | split | dsimp only)

theorem State.failPieces_wf (s : State) (c ch : Nat) (q : Half) (hwf : Memory.wf s.mem = true) : Memory.wf (State.failPieces s c ch q).mem = true := by
  unfold State.failPieces
  repeat' (first | with_reducible assumption | with_reducible apply State.draw_wf | with_reducible apply State.modRun_wf | with_reducible apply ite_wf | split | dsimp only)

theorem State.settle_wf (s : State) (key : FlowKey) (u : Unacked) (st : Nat) (hwf : Memory.wf s.mem = true) : Memory.wf (State.settle s key u st).mem = true := by
  unfold State.settle
  repeat' (first | with_reducible assumption | with_reducible apply State.bmFail_wf | with_reducible apply State.bmPump_wf | with_reducible apply State.collPump_wf | with_reducible apply State.count_wf | with_reducible apply State.fail_wf | with_reducible apply State.failPieces_wf | with_reducible apply State.fenceCtx_wf | with_reducible apply State.modRun_wf | with_reducible apply State.record_wf | with_reducible apply State.returnCredit_wf | with_reducible apply State.setSend_wf | with_reducible apply State.streamPump_wf | with_reducible apply ite_wf | split | dsimp only)

theorem State.setUnacked_wf (s : State) (key : FlowKey) (u v : Unacked) (hwf : Memory.wf s.mem = true) : Memory.wf (State.setUnacked s key u v).mem = true := by
  unfold State.setUnacked
  repeat' (first | with_reducible assumption | with_reducible apply State.setSend_wf | with_reducible apply ite_wf | split | dsimp only)

theorem State.acked_wf (s : State) (key : FlowKey) (u : Unacked) (hwf : Memory.wf s.mem = true) : Memory.wf (State.acked s key u).mem = true := by
  unfold State.acked
  repeat' (first | with_reducible assumption | with_reducible apply State.setUnacked_wf | with_reducible apply State.settle_wf | with_reducible apply ite_wf | split | dsimp only)

theorem State.nacked_wf (s : State) (key : FlowKey) (u : Unacked) (st : Nat) (hwf : Memory.wf s.mem = true) : Memory.wf (State.nacked s key u st).mem = true := by
  unfold State.nacked
  repeat' (first | with_reducible assumption | with_reducible apply State.setUnacked_wf | with_reducible apply State.settle_wf | with_reducible apply ite_wf | split | dsimp only)

theorem State.setTemps_wf (s : State) (die i : Nat) (t : List Nat) (hwf : Memory.wf s.mem = true) : Memory.wf (State.setTemps s die i t).mem = true := by
  unfold State.setTemps
  repeat' (first | with_reducible assumption | with_reducible apply State.setField_wf | (with_reducible refine foldl_wf _ (fun s x h => ?_) _ _ ?_) | (with_reducible refine foldl_fst_wf _ (fun r x h => ?_) _ _ ?_) | dsimp only)

theorem State.readRegs_wf (s : State) (a n : Nat) (hwf : Memory.wf s.mem = true) : Memory.wf (State.readRegs s a n).1.mem = true := by
  unfold State.readRegs
  repeat' (first | with_reducible assumption | with_reducible apply State.draw_wf | with_reducible apply ite_wf | split | dsimp only)

theorem State.touchBy_wf (s : State) (a : Nat) (eid : BitVec 24) (hwf : Memory.wf s.mem = true) : Memory.wf (State.touchBy s a eid).mem = true := by
  unfold State.touchBy
  repeat' (first | with_reducible assumption | with_reducible apply State.noteOff_wf | with_reducible apply State.noteUnmapped_wf | with_reducible apply State.requestWake_wf | with_reducible apply ite_wf | split | dsimp only)

theorem State.readBlock_wf (s : State) (eid : BitVec 24) (a n : Nat) (hwf : Memory.wf s.mem = true) : Memory.wf (State.readBlock s eid a n).mem = true := by
  unfold State.readBlock
  repeat' (first | with_reducible assumption | with_reducible apply State.blockedRead_wf | with_reducible apply State.count64_wf | with_reducible apply State.readErrors_wf | with_reducible apply State.touchBy_wf | with_reducible apply ite_wf | split | dsimp only)

theorem State.readPanel_wf (s : State) (eid : BitVec 24) (a n : Nat) (hwf : Memory.wf s.mem = true) : Memory.wf (State.readPanel s eid a n).1.mem = true := by
  unfold State.readPanel
  repeat' (first | with_reducible assumption | with_reducible apply State.readBlock_wf | (with_reducible refine foldl_wf _ (fun s x h => ?_) _ _ ?_) | (with_reducible refine foldl_fst_wf _ (fun r x h => ?_) _ _ ?_) | dsimp only)

theorem State.writeBlock_wf (s : State) (eid : BitVec 24) (a n : Nat) (hwf : Memory.wf s.mem = true) : Memory.wf (State.writeBlock s eid a n).mem = true := by
  unfold State.writeBlock
  repeat' (first | with_reducible assumption | with_reducible apply State.count64_wf | with_reducible apply State.touchBy_wf | with_reducible apply ite_wf | split | dsimp only)

theorem State.writePanel_wf (s : State) (eid : BitVec 24) (a : Nat) (bs : Bytes) (hwf : Memory.wf s.mem = true) : Memory.wf (State.writePanel s eid a bs).mem = true := by
  unfold State.writePanel
  repeat' (first | with_reducible assumption | with_reducible apply State.store_wf | with_reducible apply State.writeBlock_wf | (with_reducible refine foldl_wf _ (fun s x h => ?_) _ _ ?_) | (with_reducible refine foldl_fst_wf _ (fun r x h => ?_) _ _ ?_) | dsimp only)

theorem State.readAny_wf (s : State) (eid : BitVec 24) (a n : Nat) (hwf : Memory.wf s.mem = true) : Memory.wf (State.readAny s eid a n).1.mem = true := by
  unfold State.readAny
  repeat' (first | with_reducible assumption | with_reducible apply State.readPanel_wf | with_reducible apply State.readRegs_wf | with_reducible apply ite_wf | split | dsimp only)

theorem State.writeAny_wf (s : State) (eid : BitVec 24) (a : Nat) (bs : Bytes) (hwf : Memory.wf s.mem = true) : Memory.wf (State.writeAny s eid a bs).mem = true := by
  unfold State.writeAny
  repeat' (first | with_reducible assumption | with_reducible apply State.writePanel_wf | with_reducible apply ite_wf | split | dsimp only)

theorem State.serveOne_wf (s : State) (h : HeldAccess) (hwf : Memory.wf s.mem = true) : Memory.wf (State.serveOne s h).mem = true := by
  unfold State.serveOne
  repeat' (first | with_reducible assumption | with_reducible apply State.readPanel_wf | with_reducible apply State.writePanel_wf | with_reducible apply ite_wf | split | dsimp only)

theorem State.serveHeld_wf (s : State) (hwf : Memory.wf s.mem = true) : Memory.wf (State.serveHeld s).mem = true := by
  unfold State.serveHeld
  repeat' (first | with_reducible assumption | with_reducible apply State.serveOne_wf | (with_reducible refine foldl_wf _ (fun s x h => ?_) _ _ ?_) | dsimp only)

theorem State.countAbsorbed_wf (s : State) (p n : Nat) (hwf : Memory.wf s.mem = true) : Memory.wf (State.countAbsorbed s p n).mem = true := by
  unfold State.countAbsorbed
  repeat' (first | with_reducible assumption | with_reducible apply State.modPart_wf | dsimp only)

theorem State.tokensIn_wf (s : State) (p : Packet) (hwf : Memory.wf s.mem = true) : Memory.wf (State.tokensIn s p).mem = true := by
  unfold State.tokensIn
  repeat' (first | with_reducible assumption | with_reducible apply State.landOn_wf | with_reducible apply State.setInbound_wf | (with_reducible refine foldl_wf _ (fun s x h => ?_) _ _ ?_) | with_reducible apply ite_wf | split | dsimp only)

theorem State.notePlaced_wf (s : State) (eid : BitVec 24) (a n : Nat) (hwf : Memory.wf s.mem = true) : Memory.wf (State.notePlaced s eid a n).mem = true := by
  unfold State.notePlaced
  repeat' (first | with_reducible assumption | with_reducible apply State.invalidateCache_wf | (with_reducible refine foldl_wf _ (fun s x h => ?_) _ _ ?_) | with_reducible apply ite_wf | split | dsimp only)

theorem State.deliver_wf (s : State) (a : Nat) (p : Packet) (hwf : Memory.wf s.mem = true) : Memory.wf (State.deliver s a p).mem = true := by
  unfold State.deliver
  repeat' (first | with_reducible assumption | with_reducible apply State.launch_wf | with_reducible apply State.notePlaced_wf | with_reducible apply State.readAny_wf | with_reducible apply State.readPanel_wf | with_reducible apply State.receive_wf | with_reducible apply State.setStack_wf | with_reducible apply State.startPacket_wf | with_reducible apply State.tokensIn_wf | with_reducible apply State.writeAny_wf | with_reducible apply State.writePanel_wf | with_reducible apply ite_wf | split | dsimp only)

theorem State.ackPacket_wf (s : State) (a : Nat) (p : Packet) (hwf : Memory.wf s.mem = true) : Memory.wf (State.ackPacket s a p).mem = true := by
  unfold State.ackPacket
  repeat' (first | with_reducible assumption | with_reducible apply State.launch_wf | with_reducible apply ite_wf | split | dsimp only)

theorem State.absorbPacket_wf (s : State) (a n : Nat) (p : Packet) (hwf : Memory.wf s.mem = true) : Memory.wf (State.absorbPacket s a n p).mem = true := by
  unfold State.absorbPacket
  repeat' (first | with_reducible assumption | with_reducible apply State.ackPacket_wf | with_reducible apply State.countAbsorbed_wf | with_reducible apply State.launch_wf | with_reducible apply State.setInbound_wf | with_reducible apply ite_wf | split | dsimp only)

theorem State.requestIn_wf (s : State) (p : Packet) (hwf : Memory.wf s.mem = true) : Memory.wf (s.requestIn p).mem = true := by
  unfold State.requestIn
  repeat' (first | with_reducible assumption | with_reducible apply State.arrives_wf | with_reducible apply State.countAbsorbed_wf | with_reducible apply State.absorbPacket_wf | with_reducible apply State.deliver_wf | with_reducible apply State.launch_wf | with_reducible apply State.ackPacket_wf | (with_reducible refine State.receive_wf _ _ _ _ _ _ ?_ (fun s h => ?_) (fun s h => ?_) (fun s p h => ?_)) | with_reducible apply ite_wf | split | dsimp only)

theorem State.forOp_wf (s : State) (op : Nat) (p : Packet) (f : State → State) (hwf : Memory.wf s.mem = true)
    (hf : Memory.wf (f s).mem = true) : Memory.wf (s.forOp op p f).mem = true := by
  unfold State.forOp
  split
  · exact hf
  · exact hwf

theorem State.replyIn_wf (s : State) (p : Packet) (f : State → State) (hwf : Memory.wf s.mem = true)
    (hf : ∀ s, Memory.wf s.mem = true → Memory.wf (f s).mem = true) : Memory.wf (s.replyIn p f).mem = true := by
  unfold State.replyIn
  dsimp only
  split
  · exact State.countAbsorbed_wf _ _ _ (State.arrives_wf _ _ hwf)
  · exact hf _ (State.arrives_wf _ _ hwf)

theorem State.glerynData_wf (s : State) (u : Unacked) (p : Packet) (hwf : Memory.wf s.mem = true) : Memory.wf (State.glerynData s u p).mem = true := by
  unfold State.glerynData
  repeat' (first | with_reducible assumption | with_reducible apply State.hostWrite_wf | with_reducible apply ite_wf | split | dsimp only)

theorem State.noteAnswer_wf (s : State) (key : FlowKey) (q : Half) (st : Nat) (hwf : Memory.wf s.mem = true) : Memory.wf (State.noteAnswer s key q st).mem = true := by
  unfold State.noteAnswer
  repeat' (first | with_reducible assumption | with_reducible apply State.setRecv_wf | with_reducible apply ite_wf | split | dsimp only)

theorem State.contribIn_wf (s : State) (k : Nat) (p : Packet) (hwf : Memory.wf s.mem = true) : Memory.wf (s.contribIn k p).mem = true := by
  unfold State.contribIn
  dsimp only
  split
  · exact hwf
  · apply ite_wf
    · exact State.launch_wf _ _ _ hwf
    · refine State.receive_wf _ _ _ _ _ _ hwf (fun s h => State.launch_wf _ _ _ (State.noteAnswer_wf _ _ _ _ h)) (fun s h => State.launch_wf _ _ _ h) (fun s p h => ?_)
      split
      · exact State.collPump_wf _ _ (State.setCtx_wf _ _ _ h)
      · exact h

theorem State.resend_wf (s : State) (f : FlowKey) (u : Unacked) (v : Unacked) (hwf : Memory.wf s.mem = true) : Memory.wf (State.resend s f u v).mem = true := by
  unfold State.resend
  repeat' (first | with_reducible assumption | with_reducible apply State.count_wf | with_reducible apply State.draw_wf | with_reducible apply State.launch_wf | with_reducible apply State.setUnacked_wf | with_reducible apply ite_wf | split | dsimp only)

theorem State.setPte_wf (s : State) (n page : Nat) (e : Pte) (hwf : Memory.wf s.mem = true) : Memory.wf (State.setPte s n page e).mem = true := by
  unfold State.setPte
  repeat' (first | with_reducible assumption | with_reducible apply State.setStack_wf | dsimp only)

theorem State.takeRequest_wf (s : State) (n c : Nat) (req : List Token) (hwf : Memory.wf s.mem = true) : Memory.wf (State.takeRequest s n c req).mem = true := by
  unfold State.takeRequest
  repeat' (first | with_reducible assumption | with_reducible apply State.setStack_wf | with_reducible apply ite_wf | split | dsimp only)

theorem State.respond_wf (s : State) (n : Nat) (part : Option Nat) (h : ReqHdr) (ts : List Token) (hwf : Memory.wf s.mem = true) : Memory.wf (State.respond s n part h ts).mem = true := by
  unfold State.respond
  repeat' (first | with_reducible assumption | with_reducible apply State.setStack_wf | dsimp only)

theorem State.respondBare_wf (s : State) (n : Nat) (part : Option Nat) (h : ReqHdr) (status fill : Nat) (hwf : Memory.wf s.mem = true) : Memory.wf (State.respondBare s n part h status fill).mem = true := by
  unfold State.respondBare
  repeat' (first | with_reducible assumption | with_reducible apply State.respond_wf | with_reducible apply ite_wf | split | dsimp only)

theorem State.rejectPage_wf (s : State) (n p : Nat) (hwf : Memory.wf s.mem = true) : Memory.wf (State.rejectPage s n p).mem = true := by
  unfold State.rejectPage
  repeat' (first | with_reducible assumption | with_reducible apply State.addRejects_wf | with_reducible apply State.count_wf | dsimp only)

theorem State.request_wf (s : State) (n c : Nat) (req : List Token) (row : Bool) (run : State → Nat → ReqHdr → State) (hwf : Memory.wf s.mem = true)
    (hr : ∀ s p h, Memory.wf s.mem = true → Memory.wf (run s p h).mem = true) : Memory.wf (s.request n c req row run).mem = true := by
  unfold State.request
  repeat' (first | with_reducible assumption | with_reducible apply State.takeRequest_wf | with_reducible apply State.respondBare_wf | with_reducible apply State.respond_wf | with_reducible apply State.rejectPage_wf | with_reducible apply hr | with_reducible apply ite_wf | split | dsimp only)

theorem State.pageOp_wf (s : State) (n p : Nat) (h : ReqHdr) (good : Pte → Bool) (op : State → Pte → Pte × State) (hwf : Memory.wf s.mem = true)
    (ho : ∀ s e, Memory.wf s.mem = true → Memory.wf (op s e).2.mem = true) : Memory.wf (s.pageOp n p h good op).mem = true := by
  unfold State.pageOp
  repeat' (first | with_reducible assumption | with_reducible apply State.respondBare_wf | with_reducible apply State.setPte_wf | with_reducible apply State.rejectPage_wf | with_reducible apply ho | with_reducible apply ite_wf | split | dsimp only)

theorem State.appendSlots_wf (s : State) (n : Nat) (h : ReqHdr) (e : Pte) (req : List Token) (hwf : Memory.wf s.mem = true) : Memory.wf (State.appendSlots s n h e req).mem = true := by
  unfold State.appendSlots
  repeat' (first | with_reducible assumption | with_reducible apply State.count_wf | with_reducible apply State.count64_wf | with_reducible apply State.poke_wf | (with_reducible refine foldl_wf _ (fun s x h => ?_) _ _ ?_) | (with_reducible refine foldl_fst_wf _ (fun r x h => ?_) _ _ ?_) | dsimp only)

theorem State.passPageRun_wf (s : State) (n p : Nat) (h : ReqHdr) (req : List Token) (qs : List (List Fp)) (i : Nat) (x : PassRun) (hwf : Memory.wf s.mem = true) : Memory.wf (State.passPageRun s n p h req qs i x).1.mem = true := by
  unfold State.passPageRun
  repeat' (first | with_reducible assumption | with_reducible apply State.count_wf | with_reducible apply State.count64_wf | with_reducible apply State.readErrors_wf | with_reducible apply State.setPte_wf | (with_reducible refine foldl_wf _ (fun s x h => ?_) _ _ ?_) | (with_reducible refine foldl_fst_wf _ (fun r x h => ?_) _ _ ?_) | with_reducible apply ite_wf | split | dsimp only)

theorem State.runPass_wf (s : State) (n p : Nat) (h : ReqHdr) (req : List Token) (hwf : Memory.wf s.mem = true) : Memory.wf (State.runPass s n p h req).mem = true := by
  unfold State.runPass
  repeat' (first | with_reducible assumption | with_reducible apply State.count_wf | with_reducible apply State.count64_wf | with_reducible apply State.passPageRun_wf | with_reducible apply State.respond_wf | (with_reducible refine foldl_wf _ (fun s x h => ?_) _ _ ?_) | (with_reducible refine foldl_fst_wf _ (fun r x h => ?_) _ _ ?_) | with_reducible apply ite_wf | split | dsimp only)

theorem State.endPasses_wf (s : State) (n p : Nat) (cs : List Nat) (hwf : Memory.wf s.mem = true) : Memory.wf (State.endPasses s n p cs).mem = true := by
  unfold State.endPasses
  repeat' (first | with_reducible assumption | with_reducible apply State.setStack_wf | dsimp only)

theorem State.discardAt_wf (s : State) (n p : Nat) (q : Part) (hwf : Memory.wf s.mem = true) : Memory.wf (State.discardAt s n p q).mem = true := by
  unfold State.discardAt
  repeat' (first | with_reducible assumption | with_reducible apply State.setField_wf | with_reducible apply State.setStack_wf | dsimp only)

theorem State.stackHeat_wf (s : State) (warning critical : Bool) (hwf : Memory.wf s.mem = true) : Memory.wf (State.stackHeat s warning critical).mem = true := by
  unfold State.stackHeat
  repeat' (first | with_reducible assumption | with_reducible apply ite_wf | split | dsimp only)

theorem State.forgetHbm_wf (s : State) (n : Nat) (hwf : Memory.wf s.mem = true) : Memory.wf (s.forgetHbm n).mem = true :=
  wf_filter _ _ hwf

theorem State.loseStack_wf (s : State) (n cause : Nat) (hwf : Memory.wf s.mem = true) : Memory.wf (State.loseStack s n cause).mem = true := by
  unfold State.loseStack
  repeat' (first | with_reducible assumption | with_reducible apply State.forgetHbm_wf | with_reducible apply State.record_wf | with_reducible apply State.setField_wf | with_reducible apply State.setPanelState_wf | with_reducible apply State.setStack_wf | with_reducible apply ite_wf | split | dsimp only)

theorem State.loseSeamless_wf (s : State) (hwf : Memory.wf s.mem = true) : Memory.wf (State.loseSeamless s).mem = true := by
  unfold State.loseSeamless
  repeat' (first | with_reducible assumption | with_reducible apply State.loseStack_wf | (with_reducible refine foldl_wf _ (fun s x h => ?_) _ _ ?_) | with_reducible apply ite_wf | split | dsimp only)

theorem State.retrainNext_wf (s : State) (n : Nat) (hwf : Memory.wf s.mem = true) : Memory.wf (State.retrainNext s n).mem = true := by
  unfold State.retrainNext
  repeat' (first | with_reducible assumption | with_reducible apply State.retrainStart_wf | with_reducible apply State.setStack_wf | with_reducible apply ite_wf | split | dsimp only)

theorem State.retrainEnds_wf (s : State) (cmd : Option Nat) (status : Nat) (hwf : Memory.wf s.mem = true) : Memory.wf (State.retrainEnds s cmd status).mem = true := by
  unfold State.retrainEnds
  repeat' (first | with_reducible assumption | with_reducible apply State.finishNoted_wf | with_reducible apply ite_wf | split | dsimp only)

theorem State.retrainOne_wf (s : State) (n : Nat) (ok : Bool) (hwf : Memory.wf s.mem = true) : Memory.wf (State.retrainOne s n ok).mem = true := by
  unfold State.retrainOne
  repeat' (first | with_reducible assumption | with_reducible apply State.addDefect_wf | with_reducible apply State.loseStack_wf | with_reducible apply State.record_wf | with_reducible apply State.retrainEnds_wf | with_reducible apply State.retrainGo_wf | with_reducible apply State.retrainNext_wf | with_reducible apply State.setField_wf | with_reducible apply State.setStack_wf | (with_reducible refine foldl_wf _ (fun s x h => ?_) _ _ ?_) | with_reducible apply ite_wf | split | dsimp only)

end Sys2Proof.Laws
end

