-- ==== Sys2Proof/Laws/CanonPanel.lean ====
section
/-! SUPPORT. Each operation of Fabric, Link, HostIf, Partition, Power, Thermal leaves panel memory in canonical form. -/

namespace Sys2Proof.Laws

open Sys2Proof.Machine

set_option linter.unusedTactic false
set_option linter.unreachableTactic false
set_option linter.unusedVariables false

theorem State.sendUnit_wf (s : State) (out : PortRef) (pair : Nat) (hwf : Memory.wf s.mem = true) : Memory.wf (State.sendUnit s out pair).1.mem = true := by
  unfold State.sendUnit
  repeat' (first | with_reducible assumption | with_reducible apply State.setMoving_wf | with_reducible apply State.setSeam_wf | with_reducible apply ite_wf | split | dsimp only)

theorem State.fillLane_wf (out : PortRef) (r : State × List (BitVec 552)) (lane : Nat) (hwf : Memory.wf r.1.mem = true) : Memory.wf (State.fillLane out r lane).1.mem = true := by
  unfold State.fillLane
  repeat' (first | with_reducible assumption | with_reducible apply State.setSeam_wf | with_reducible apply State.setPort_wf | with_reducible apply State.count64_wf | with_reducible apply State.sendUnit_wf | with_reducible apply ite_wf | split | dsimp only)

theorem State.sendWord_wf (s : State) (out : PortRef) (hwf : Memory.wf s.mem = true) : Memory.wf (State.sendWord s out).mem = true := by
  unfold State.sendWord
  repeat' (first | with_reducible assumption | with_reducible apply State.fillLane_wf | with_reducible apply State.setSeam_wf | (with_reducible refine foldl_wf _ (fun s x h => ?_) _ _ ?_) | (with_reducible refine foldl_fst_wf _ (fun r x h => ?_) _ _ ?_) | with_reducible apply ite_wf | split | dsimp only)

theorem State.packetUnit_wf (s : State) (p : PortRef) (u : BitVec 552) (hwf : Memory.wf s.mem = true) : Memory.wf (State.packetUnit s p u).mem = true := by
  unfold State.packetUnit
  repeat' (first | with_reducible assumption | with_reducible apply State.notePeak_wf | with_reducible apply State.setMoving_wf | with_reducible apply State.setSeam_wf | with_reducible apply State.sourceRoute_wf | with_reducible apply ite_wf | split | dsimp only)

theorem State.takeWord_wf (s : State) (p : PortRef) (w : Bytes) (place : Nat) (late : Bool) (hwf : Memory.wf s.mem = true) : Memory.wf (State.takeWord s p w place late).mem = true := by
  unfold State.takeWord
  repeat' (first | with_reducible assumption | with_reducible apply State.carry_wf | with_reducible apply State.count_wf | with_reducible apply State.packetUnit_wf | (with_reducible refine foldl_wf _ (fun s x h => ?_) _ _ ?_) | with_reducible apply ite_wf | split | dsimp only)

theorem State.acceptWord_wf (s : State) (p : PortRef) (w : Bytes) (hwf : Memory.wf s.mem = true) : Memory.wf (State.acceptWord s p w).mem = true := by
  unfold State.acceptWord
  repeat' (first | with_reducible assumption | with_reducible apply State.setSeam_wf | with_reducible apply State.takeWord_wf | with_reducible apply ite_wf | split | dsimp only)

theorem State.drainWords_wf (s : State) (p : PortRef) (n : Nat) (hwf : Memory.wf s.mem = true) : Memory.wf (State.drainWords s p n).mem = true := by
  induction n generalizing s p with
  | zero => exact hwf
  | succ n ih =>
    rw [State.drainWords]
    repeat' (first | with_reducible assumption | with_reducible apply ih | with_reducible apply State.acceptWord_wf | with_reducible apply State.setSeam_wf | with_reducible apply ite_wf | split | dsimp only)

theorem State.slip_wf (s : State) (p : PortRef) (hwf : Memory.wf s.mem = true) : Memory.wf (State.slip s p).mem = true := by
  unfold State.slip
  repeat' (first | with_reducible assumption | with_reducible apply State.count_wf | with_reducible apply State.record_wf | with_reducible apply State.setSeam_wf | with_reducible apply ite_wf | split | dsimp only)

theorem State.takeOffline_wf (s : State) (p : PortRef) (hwf : Memory.wf s.mem = true) : Memory.wf (State.takeOffline s p).mem = true := by
  unfold State.takeOffline
  repeat' (first | with_reducible assumption | with_reducible apply State.noteLate_wf | with_reducible apply State.setSeam_wf | (with_reducible refine foldl_wf _ (fun s x h => ?_) _ _ ?_) | (with_reducible refine foldl_fst_wf _ (fun r x h => ?_) _ _ ?_) | dsimp only)

theorem State.degrade_wf (s : State) (hwf : Memory.wf s.mem = true) : Memory.wf (State.degrade s).mem = true := by
  unfold State.degrade
  repeat' (first | with_reducible assumption | with_reducible apply State.setPanelState_wf | with_reducible apply ite_wf | split | dsimp only)

theorem State.halfWidth_wf (s : State) (p : PortRef) (hwf : Memory.wf s.mem = true) : Memory.wf (State.halfWidth s p).mem = true := by
  unfold State.halfWidth
  repeat' (first | with_reducible assumption | with_reducible apply State.degrade_wf | with_reducible apply State.record_wf | with_reducible apply State.retireDie_wf | with_reducible apply ite_wf | split | dsimp only)

theorem State.endRetrain_wf (s : State) (p : PortRef) (badWires : Nat) (hwf : Memory.wf s.mem = true) : Memory.wf (State.endRetrain s p badWires).mem = true := by
  unfold State.endRetrain
  repeat' (first | with_reducible assumption | with_reducible apply State.addDefect_wf | with_reducible apply State.count_wf | with_reducible apply State.halfWidth_wf | with_reducible apply State.record_wf | with_reducible apply State.restartFrames_wf | with_reducible apply State.setField_wf | with_reducible apply State.setSeam_wf | with_reducible apply State.settleNet_wf | (with_reducible refine foldl_wf _ (fun s x h => ?_) _ _ ?_) | with_reducible apply ite_wf | split | dsimp only)

theorem State.retrainPort_wf (s : State) (p : PortRef) (badWires : Nat) (hwf : Memory.wf s.mem = true) : Memory.wf (State.retrainPort s p badWires).mem = true := by
  unfold State.retrainPort
  repeat' (first | with_reducible assumption | with_reducible apply State.endRetrain_wf | with_reducible apply State.takeOffline_wf | dsimp only)

theorem State.drive_wf (s : State) (port : Nat) (f : Bytes) (hwf : Memory.wf s.mem = true) : Memory.wf (State.drive s port f).mem = true := by
  unfold State.drive
  repeat' (first | with_reducible assumption | with_reducible apply State.setPort_wf | (with_reducible refine foldl_wf _ (fun s x h => ?_) _ _ ?_) | (with_reducible refine foldl_fst_wf _ (fun r x h => ?_) _ _ ?_) | dsimp only)

theorem State.sendControl_wf (s : State) (port : Nat) (payload : Bytes) (hwf : Memory.wf s.mem = true) : Memory.wf (State.sendControl s port payload).mem = true := by
  unfold State.sendControl
  repeat' (first | with_reducible assumption | with_reducible apply State.drive_wf | with_reducible apply State.setPort_wf | dsimp only)

theorem State.setLink_wf (s : State) (port st : Nat) (hwf : Memory.wf s.mem = true) : Memory.wf (State.setLink s port st).mem = true := by
  unfold State.setLink
  repeat' (first | with_reducible assumption | with_reducible apply State.setField_wf | with_reducible apply ite_wf | split | dsimp only)

theorem State.pumpPort_wf (s : State) (port : Nat) (n : Nat) (hwf : Memory.wf s.mem = true) : Memory.wf (State.pumpPort s port n).mem = true := by
  induction n generalizing s port with
  | zero => exact hwf
  | succ n ih =>
    rw [State.pumpPort]
    repeat' (first | with_reducible assumption | with_reducible apply ih | with_reducible apply State.count64_wf | with_reducible apply State.drive_wf | with_reducible apply State.replay_wf | with_reducible apply State.setPort_wf | with_reducible apply ite_wf | split | dsimp only)

theorem State.pumpLink_wf (s : State) (port : Nat) (hwf : Memory.wf s.mem = true) : Memory.wf (State.pumpLink s port).mem = true := by
  unfold State.pumpLink
  repeat' (first | with_reducible assumption | with_reducible apply State.pumpPort_wf | dsimp only)

theorem State.egress_wf (s : State) (die port path : Nat) (group : Option Nat) (since : Nat) (p : Packet) (hwf : Memory.wf s.mem = true) : Memory.wf (State.egress s die port path group since p).mem = true := by
  unfold State.egress
  repeat' (first | with_reducible assumption | with_reducible apply State.count_wf | with_reducible apply State.count64_wf | with_reducible apply State.pumpLink_wf | with_reducible apply State.setPort_wf | with_reducible apply ite_wf | split | dsimp only)

theorem State.enterPanel_wf (s : State) (die : Nat) (p : Packet) (hwf : Memory.wf s.mem = true) : Memory.wf (State.enterPanel s die p).mem = true := by
  unfold State.enterPanel
  repeat' (first | with_reducible assumption | with_reducible apply State.addMoving_wf | with_reducible apply State.fromDie_wf | with_reducible apply ite_wf | split | dsimp only)

theorem State.dieRoute_wf (s : State) (die since : Nat) (p : Packet) (n : Nat) (hwf : Memory.wf s.mem = true) : Memory.wf (State.dieRoute s die since p n).mem = true := by
  induction n generalizing s die since p with
  | zero => exact hwf
  | succ n ih =>
    rw [State.dieRoute]
    repeat' (first | with_reducible assumption | with_reducible apply ih | with_reducible apply State.count_wf | with_reducible apply State.egress_wf | with_reducible apply State.enterPanel_wf | with_reducible apply State.fromDie_wf | (with_reducible refine foldl_wf _ (fun s x h => ?_) _ _ ?_) | (with_reducible refine foldl_fst_wf _ (fun r x h => ?_) _ _ ?_) | with_reducible apply ite_wf | split | dsimp only)

theorem State.dieReceive_wf (s : State) (die since : Nat) (p : Packet) (hwf : Memory.wf s.mem = true) : Memory.wf (State.dieReceive s die since p).mem = true := by
  unfold State.dieReceive
  repeat' (first | with_reducible assumption | with_reducible apply State.count_wf | with_reducible apply State.dieRoute_wf | with_reducible apply ite_wf | split | dsimp only)

theorem State.freeInput_wf (s : State) (m : Moving) (hwf : Memory.wf s.mem = true) : Memory.wf (State.freeInput s m).mem = true := by
  unfold State.freeInput
  repeat' (first | with_reducible assumption | with_reducible apply State.sendControl_wf | with_reducible apply State.setPort_wf | with_reducible apply ite_wf | split | dsimp only)

theorem State.creditIn_wf (s : State) (port : Nat) (payload : Bytes) (hwf : Memory.wf s.mem = true) : Memory.wf (State.creditIn s port payload).mem = true := by
  unfold State.creditIn
  repeat' (first | with_reducible assumption | with_reducible apply State.pumpLink_wf | with_reducible apply State.setPort_wf | (with_reducible refine foldl_wf _ (fun s x h => ?_) _ _ ?_) | with_reducible apply ite_wf | split | dsimp only)

theorem State.noteTrain_wf (s : State) (port : Nat) (payload : Bytes) (hwf : Memory.wf s.mem = true) : Memory.wf (State.noteTrain s port payload).mem = true := by
  unfold State.noteTrain
  repeat' (first | with_reducible assumption | with_reducible apply State.setField_wf | with_reducible apply State.setPort_wf | dsimp only)

theorem State.moveStaged_wf (s : State) (port : Nat) (hwf : Memory.wf s.mem = true) : Memory.wf (State.moveStaged s port).mem = true := by
  unfold State.moveStaged
  repeat' (first | with_reducible assumption | with_reducible apply State.pumpLink_wf | with_reducible apply State.setPort_wf | (with_reducible refine foldl_wf _ (fun s x h => ?_) _ _ ?_) | (with_reducible refine foldl_fst_wf _ (fun r x h => ?_) _ _ ?_) | with_reducible apply ite_wf | split | dsimp only)

theorem State.startTraining_wf (s : State) (port : Nat) (hwf : Memory.wf s.mem = true) : Memory.wf (State.startTraining s port).mem = true := by
  unfold State.startTraining
  repeat' (first | with_reducible assumption | with_reducible apply State.count_wf | with_reducible apply State.moveStaged_wf | with_reducible apply State.setField_wf | with_reducible apply State.setLink_wf | with_reducible apply State.setPort_wf | with_reducible apply ite_wf | split | dsimp only)

theorem State.trainIn_wf (s : State) (port : Nat) (payload : Bytes) (hwf : Memory.wf s.mem = true) : Memory.wf (State.trainIn s port payload).mem = true := by
  unfold State.trainIn
  repeat' (first | with_reducible assumption | with_reducible apply State.noteTrain_wf | with_reducible apply State.startTraining_wf | with_reducible apply ite_wf | split | dsimp only)

theorem State.noteFec_wf (s : State) (port n : Nat) (hwf : Memory.wf s.mem = true) : Memory.wf (State.noteFec s port n).mem = true := by
  unfold State.noteFec
  repeat' (first | with_reducible assumption | with_reducible apply State.count64_wf | with_reducible apply State.setPort_wf | with_reducible apply State.startTraining_wf | (with_reducible refine foldl_wf _ (fun s x h => ?_) _ _ ?_) | (with_reducible refine foldl_fst_wf _ (fun r x h => ?_) _ _ ?_) | with_reducible apply ite_wf | split | dsimp only)

theorem State.dataIn_wf (s : State) (port : Nat) (f : Bytes) (hwf : Memory.wf s.mem = true) : Memory.wf (State.dataIn s port f).mem = true := by
  unfold State.dataIn
  repeat' (first | with_reducible assumption | with_reducible apply State.addMoving_wf | with_reducible apply State.count64_wf | with_reducible apply State.setPort_wf | with_reducible apply ite_wf | split | dsimp only)

theorem State.portRuns_wf (s : State) (port : Nat) (w : Nat × Nat) (reset : Bool) (hwf : Memory.wf s.mem = true) : Memory.wf (State.portRuns s port w reset).mem = true := by
  unfold State.portRuns
  repeat' (first | with_reducible assumption | with_reducible apply State.replay_wf | with_reducible apply State.resend_wf | with_reducible apply State.sendControl_wf | with_reducible apply State.setField_wf | with_reducible apply State.setLink_wf | with_reducible apply State.setPort_wf | with_reducible apply ite_wf | split | dsimp only)

theorem State.agree_wf (s : State) (port : Nat) (mine : Option (Nat × Nat)) (n : List (Option (BitVec 8 × BitVec 8))) (hwf : Memory.wf s.mem = true) : Memory.wf (s.agree port mine n).mem = true := by
  induction n generalizing s with
  | nil => exact hwf
  | cons a n ih =>
    simp only [State.agree]
    repeat' (first | with_reducible assumption | with_reducible apply ih | with_reducible apply State.setField_wf | with_reducible apply State.setLink_wf | with_reducible apply State.setPort_wf | with_reducible apply State.sendControl_wf | with_reducible apply State.portRuns_wf | with_reducible apply State.count_wf | with_reducible apply ite_wf | split | dsimp only)

theorem State.retrainLinkAt_wf (s : State) (port : Nat) (lanesOk : BitVec 8) (peer : List (Option (BitVec 8 × BitVec 8))) (hwf : Memory.wf s.mem = true) : Memory.wf (State.retrainLinkAt s port lanesOk peer).mem = true := by
  unfold State.retrainLinkAt
  repeat' (first | with_reducible assumption | with_reducible apply State.agree_wf | with_reducible apply State.moveStaged_wf | with_reducible apply State.pumpLink_wf | with_reducible apply State.record_wf | with_reducible apply State.startTraining_wf | with_reducible apply ite_wf | split | dsimp only)

theorem State.failPort_wf (s : State) (port : Nat) (hwf : Memory.wf s.mem = true) : Memory.wf (State.failPort s port).mem = true := by
  unfold State.failPort
  repeat' (first | with_reducible assumption | with_reducible apply State.retrainLinkAt_wf | with_reducible apply ite_wf | split | dsimp only)

theorem State.refreshState_wf (s : State) (hwf : Memory.wf s.mem = true) : Memory.wf (State.refreshState s).mem = true := by
  unfold State.refreshState
  repeat' (first | with_reducible assumption | with_reducible apply State.setPanelState_wf | with_reducible apply ite_wf | split | dsimp only)

theorem State.moduleHours_wf (s : State) (bay : Nat) (hwf : Memory.wf s.mem = true) : Memory.wf (State.moduleHours s bay).mem = true := by
  unfold State.moduleHours
  repeat' (first | with_reducible assumption | with_reducible apply State.draw_wf | with_reducible apply State.setReg_wf | dsimp only)

theorem State.bayDown_wf (s : State) (bay : Nat) (hwf : Memory.wf s.mem = true) : Memory.wf (State.bayDown s bay).mem = true := by
  unfold State.bayDown
  repeat' (first | with_reducible assumption | with_reducible apply State.failPort_wf | with_reducible apply State.setField_wf | (with_reducible refine foldl_wf _ (fun s x h => ?_) _ _ ?_) | with_reducible apply ite_wf | split | dsimp only)

theorem State.setPcie_wf (s : State) (up : Bool) (hwf : Memory.wf s.mem = true) : Memory.wf (State.setPcie s up).mem = true := by
  unfold State.setPcie
  repeat' (first | with_reducible assumption | with_reducible apply State.pulse_wf | with_reducible apply ite_wf | split | dsimp only)

theorem State.loseLink_wf (s : State) (die : Nat) (hwf : Memory.wf s.mem = true) : Memory.wf (State.loseLink s die).mem = true := by
  unfold State.loseLink
  repeat' (first | with_reducible assumption | with_reducible apply State.refreshState_wf | with_reducible apply State.setLink_wf | with_reducible apply State.setPcie_wf | with_reducible apply State.setPort_wf | (with_reducible refine foldl_wf _ (fun s x h => ?_) _ _ ?_) | (with_reducible refine foldl_fst_wf _ (fun r x h => ?_) _ _ ?_) | with_reducible apply ite_wf | split | dsimp only)

theorem State.refreshRdy_wf (s : State) (hwf : Memory.wf s.mem = true) : Memory.wf (State.refreshRdy s).mem = true := by
  unfold State.refreshRdy
  repeat' (first | with_reducible assumption | with_reducible apply State.setMgtField_wf | with_reducible apply State.setRdy_wf | dsimp only)

theorem State.showRing_wf (s : State) (r : Nat) (hwf : Memory.wf s.mem = true) : Memory.wf (State.showRing s r).mem = true := by
  unfold State.showRing
  repeat' (first | with_reducible assumption | with_reducible apply State.refreshRdy_wf | with_reducible apply State.setMgtField_wf | dsimp only)

theorem State.refuseBell_wf (s : State) (r bit v : Nat) (hwf : Memory.wf s.mem = true) : Memory.wf (State.refuseBell s r bit v).mem = true := by
  unfold State.refuseBell
  repeat' (first | with_reducible assumption | with_reducible apply State.record_wf | with_reducible apply State.setMgtField_wf | dsimp only)

theorem State.sqTail_wf (s : State) (r : Nat) (v : Word) (hwf : Memory.wf s.mem = true) : Memory.wf (State.sqTail s r v).mem = true := by
  unfold State.sqTail
  repeat' (first | with_reducible assumption | with_reducible apply State.refuseBell_wf | with_reducible apply State.setMgtField_wf | with_reducible apply State.setRing_wf | with_reducible apply State.showRing_wf | with_reducible apply ite_wf | split | dsimp only)

theorem State.cqHead_wf (s : State) (r : Nat) (v : Word) (hwf : Memory.wf s.mem = true) : Memory.wf (State.cqHead s r v).mem = true := by
  unfold State.cqHead
  repeat' (first | with_reducible assumption | with_reducible apply State.refuseBell_wf | with_reducible apply State.setMgtField_wf | with_reducible apply State.setRing_wf | with_reducible apply ite_wf | split | dsimp only)

theorem State.doom_wf (s : State) (p : Nat) (hwf : Memory.wf s.mem = true) : Memory.wf (State.doom s p).mem = true := by
  unfold State.doom
  repeat' (first | with_reducible assumption | with_reducible apply State.setRing_wf | (with_reducible refine foldl_wf _ (fun s x h => ?_) _ _ ?_) | (with_reducible refine foldl_fst_wf _ (fun r x h => ?_) _ _ ?_) | with_reducible apply ite_wf | split | dsimp only)

theorem State.dispatch_wf (s : State) (o : Origin) (slot : Bytes) (hwf : Memory.wf s.mem = true) : Memory.wf (State.dispatch s o slot).mem = true := by
  unfold State.dispatch
  repeat' (first | with_reducible assumption | with_reducible apply State.doom_wf | with_reducible apply State.startCmd_wf | with_reducible apply ite_wf | split | dsimp only)

theorem State.putBar0_wf (s : State) (o : Nat) (bs : Bytes) (hwf : Memory.wf s.mem = true) : Memory.wf (State.putBar0 s o bs).mem = true := by
  unfold State.putBar0
  repeat' (first | with_reducible assumption | with_reducible apply State.setMgt_wf | (with_reducible refine foldl_wf _ (fun s x h => ?_) _ _ ?_) | dsimp only)

theorem State.ringSignal_wf (s : State) (r : Nat) (hwf : Memory.wf s.mem = true) : Memory.wf (State.ringSignal s r).mem = true := by
  unfold State.ringSignal
  repeat' (first | with_reducible assumption | with_reducible apply State.setRing_wf | with_reducible apply State.signal_wf | dsimp only)

theorem State.entryVisible_wf (s : State) (r : Nat) (hwf : Memory.wf s.mem = true) : Memory.wf (State.entryVisible s r).mem = true := by
  unfold State.entryVisible
  repeat' (first | with_reducible assumption | with_reducible apply State.pulse_wf | with_reducible apply State.ringSignal_wf | with_reducible apply State.setRing_wf | with_reducible apply ite_wf | split | dsimp only)

theorem State.resetEndpoint_wf (s : State) (hwf : Memory.wf s.mem = true) : Memory.wf (State.resetEndpoint s).mem = true := by
  unfold State.resetEndpoint
  repeat' (first | with_reducible assumption | with_reducible apply State.refreshRdy_wf | with_reducible apply State.setMgt_wf | (with_reducible refine foldl_wf _ (fun s x h => ?_) _ _ ?_) | (with_reducible refine foldl_fst_wf _ (fun r x h => ?_) _ _ ?_) | with_reducible apply ite_wf | split | dsimp only)

theorem State.apRead_wf (s : State) (e : BitVec 24) (x : Nat × Nat × Nat) (hwf : Memory.wf s.mem = true) : Memory.wf (State.apRead s e x).mem = true := by
  unfold State.apRead
  repeat' (first | with_reducible assumption | with_reducible apply State.sendOn_wf | dsimp only)

theorem State.bar2Get_wf (s : State) (a len : Nat) (hwf : Memory.wf s.mem = true) : Memory.wf (State.bar2Get s a len).mem = true := by
  unfold State.bar2Get
  repeat' (first | with_reducible assumption | with_reducible apply State.apRead_wf | with_reducible apply State.draw_wf | with_reducible apply State.holdAccess_wf | with_reducible apply State.readAny_wf | (with_reducible refine foldl_wf _ (fun s x h => ?_) _ _ ?_) | (with_reducible refine foldl_fst_wf _ (fun r x h => ?_) _ _ ?_) | with_reducible apply ite_wf | split | dsimp only)

theorem State.bar2Put_wf (s : State) (a : Nat) (data : Bytes) (hwf : Memory.wf s.mem = true) : Memory.wf (State.bar2Put s a data).mem = true := by
  unfold State.bar2Put
  repeat' (first | with_reducible assumption | with_reducible apply State.holdAccess_wf | with_reducible apply State.sendOn_wf | with_reducible apply State.writeAny_wf | (with_reducible refine foldl_wf _ (fun s x h => ?_) _ _ ?_) | (with_reducible refine foldl_fst_wf _ (fun r x h => ?_) _ _ ?_) | with_reducible apply ite_wf | split | dsimp only)

theorem State.writeMgt_wf (s : State) (o : Nat) (v : Word) (mask : Nat) (hwf : Memory.wf s.mem = true) : Memory.wf (State.writeMgt s o v mask).mem = true := by
  unfold State.writeMgt
  repeat' (first | with_reducible assumption | with_reducible apply State.setMgt_wf | dsimp only)

theorem State.writeField_wf (s : State) (a : Nat) (v : Word) (mask : Nat) (hwf : Memory.wf s.mem = true) : Memory.wf (State.writeField s a v mask).mem = true := by
  unfold State.writeField
  repeat' (first | with_reducible assumption | with_reducible apply State.setReg_wf | dsimp only)

theorem State.unmaskAll_wf (s : State) (hwf : Memory.wf s.mem = true) : Memory.wf (State.unmaskAll s).mem = true := by
  unfold State.unmaskAll
  repeat' (first | with_reducible assumption | with_reducible apply State.setMgtField_wf | with_reducible apply State.signal_wf | (with_reducible refine foldl_wf _ (fun s x h => ?_) _ _ ?_) | with_reducible apply ite_wf | split | dsimp only)

theorem State.writeBar0_wf (s : State) (o : Nat) (v : Word) (hwf : Memory.wf s.mem = true) : Memory.wf (State.writeBar0 s o v).mem = true := by
  unfold State.writeBar0
  repeat' (first | with_reducible assumption | with_reducible apply State.cqHead_wf | with_reducible apply State.setMgt_wf | with_reducible apply State.sqTail_wf | with_reducible apply State.unmaskAll_wf | with_reducible apply State.writeMgt_wf | with_reducible apply ite_wf | split | dsimp only)

theorem State.writeControl_wf (s : State) (a : Nat) (v : Word) (hwf : Memory.wf s.mem = true) : Memory.wf (State.writeControl s a v).mem = true := by
  unfold State.writeControl
  repeat' (first | with_reducible assumption | with_reducible apply State.setReg_wf | with_reducible apply State.writeField_wf | with_reducible apply State.writeMgt_wf | with_reducible apply ite_wf | split | dsimp only)

theorem State.relayed_wf (s : State) (p : Packet) (rseq : Word) (hwf : Memory.wf s.mem = true) : Memory.wf (State.relayed s p rseq).mem = true := by
  unfold State.relayed
  repeat' (first | with_reducible assumption | with_reducible apply State.finishAs_wf | with_reducible apply State.hostWrite_wf | with_reducible apply State.modCmd_wf | with_reducible apply State.streamPump_wf | with_reducible apply ite_wf | split | dsimp only)

theorem State.writeCluPart_wf (s : State) (c v : Nat) (hwf : Memory.wf s.mem = true) : Memory.wf (State.writeCluPart s c v).mem = true := by
  unfold State.writeCluPart
  repeat' (first | with_reducible assumption | with_reducible apply State.setField_wf | (with_reducible refine foldl_wf _ (fun s x h => ?_) _ _ ?_) | dsimp only)

theorem State.writePages_wf (s : State) (q : Part) (e : BitVec 64) (hwf : Memory.wf s.mem = true) : Memory.wf (State.writePages s q e).mem = true := by
  unfold State.writePages
  repeat' (first | with_reducible assumption | with_reducible apply State.setStack_wf | (with_reducible refine foldl_wf _ (fun s x h => ?_) _ _ ?_) | dsimp only)

theorem State.spareDuty_wf (s : State) (rotate : Bool) (c : Nat) (hwf : Memory.wf s.mem = true) : Memory.wf (State.spareDuty s rotate c).mem = true := by
  unfold State.spareDuty
  repeat' (first | with_reducible assumption | with_reducible apply State.setPhys_wf | (with_reducible refine foldl_wf _ (fun s x h => ?_) _ _ ?_) | with_reducible apply ite_wf | split | dsimp only)

theorem State.abandon_wf (s : State) (p : Nat) (q : Part) (hwf : Memory.wf s.mem = true) : Memory.wf (State.abandon s p q).mem = true := by
  unfold State.abandon
  repeat' (first | with_reducible assumption | with_reducible apply State.setStack_wf | (with_reducible refine foldl_wf _ (fun s x h => ?_) _ _ ?_) | (with_reducible refine foldl_fst_wf _ (fun r x h => ?_) _ _ ?_) | dsimp only)

theorem State.abortCmds_wf (s : State) (p id : Nat) (hwf : Memory.wf s.mem = true) : Memory.wf (State.abortCmds s p id).mem = true := by
  unfold State.abortCmds
  repeat' (first | with_reducible assumption | with_reducible apply State.fail_wf | with_reducible apply State.relayed_wf | (with_reducible refine foldl_wf _ (fun s x h => ?_) _ _ ?_) | (with_reducible refine foldl_fst_wf _ (fun r x h => ?_) _ _ ?_) | with_reducible apply ite_wf | split | dsimp only)

theorem State.stopPart_wf (s : State) (p id : Nat) (hwf : Memory.wf s.mem = true) : Memory.wf (State.stopPart s p id).mem = true := by
  unfold State.stopPart
  repeat' (first | with_reducible assumption | with_reducible apply State.abortCmds_wf | with_reducible apply State.clearPart_wf | with_reducible apply State.dropActivation_wf | with_reducible apply State.endStep_wf | with_reducible apply State.modPart_wf | (with_reducible refine foldl_wf _ (fun s x h => ?_) _ _ ?_) | (with_reducible refine foldl_fst_wf _ (fun r x h => ?_) _ _ ?_) | dsimp only)

theorem State.startReset_wf (s : State) (p id : Nat) (absorb destroy : Bool) (hwf : Memory.wf s.mem = true) : Memory.wf (State.startReset s p id absorb destroy).mem = true := by
  unfold State.startReset
  repeat' (first | with_reducible assumption | with_reducible apply State.abandon_wf | with_reducible apply State.modPart_wf | with_reducible apply State.stopPart_wf | with_reducible apply ite_wf | split | dsimp only)

theorem State.dropRegions_wf (s : State) (p : Nat) (q : Part) (hwf : Memory.wf s.mem = true) : Memory.wf (State.dropRegions s p q).mem = true := by
  unfold State.dropRegions
  repeat' (first | with_reducible assumption | with_reducible apply State.dropEndpoints_wf | with_reducible apply ite_wf | split | dsimp only)

theorem State.removePart_wf (s : State) (p : Nat) (q : Part) (hwf : Memory.wf s.mem = true) : Memory.wf (State.removePart s p q).mem = true := by
  unfold State.removePart
  repeat' (first | with_reducible assumption | with_reducible apply State.setReg_wf | with_reducible apply State.setRes_wf | with_reducible apply State.writeCluPart_wf | with_reducible apply State.writePages_wf | (with_reducible refine foldl_wf _ (fun s x h => ?_) _ _ ?_) | (with_reducible refine foldl_fst_wf _ (fun r x h => ?_) _ _ ?_) | dsimp only)

theorem State.dropUnits_wf (s : State) (q : Part) (hwf : Memory.wf s.mem = true) : Memory.wf (State.dropUnits s q).mem = true := by
  unfold State.dropUnits
  repeat' (first | with_reducible assumption | with_reducible apply State.noteLate_wf | with_reducible apply State.setSeam_wf | (with_reducible refine foldl_wf _ (fun s x h => ?_) _ _ ?_) | (with_reducible refine foldl_fst_wf _ (fun r x h => ?_) _ _ ?_) | with_reducible apply ite_wf | split | dsimp only)

theorem State.finishReset_wf (s : State) (p : Nat) (q : Part) (r : Resetting) (late : Bool) (hwf : Memory.wf s.mem = true) : Memory.wf (State.finishReset s p q r late).mem = true := by
  unfold State.finishReset
  repeat' (first | with_reducible assumption | with_reducible apply State.abandon_wf | with_reducible apply State.dropRegions_wf | with_reducible apply State.dropUnits_wf | with_reducible apply State.finish_wf | with_reducible apply State.removePart_wf | with_reducible apply State.resetCluster_wf | with_reducible apply State.setPart_wf | with_reducible apply State.setPower_wf | with_reducible apply State.spareDuty_wf | with_reducible apply State.writePages_wf | (with_reducible refine foldl_wf _ (fun s x h => ?_) _ _ ?_) | with_reducible apply ite_wf | split | dsimp only)

theorem State.setFeed_wf (s : State) (f : Feed) (x : FeedState) (hwf : Memory.wf s.mem = true) : Memory.wf (State.setFeed s f x).mem = true := by
  unfold State.setFeed
  repeat' (first | with_reducible assumption | with_reducible apply State.setField_wf | with_reducible apply ite_wf | split | dsimp only)

theorem State.refreshCap_wf (s : State) (c : Nat) (hwf : Memory.wf s.mem = true) : Memory.wf (State.refreshCap s c).mem = true := by
  unfold State.refreshCap
  repeat' (first | with_reducible assumption | with_reducible apply State.setField_wf | dsimp only)

theorem State.setThermCap_wf (s : State) (c v : Nat) (hwf : Memory.wf s.mem = true) : Memory.wf (State.setThermCap s c v).mem = true := by
  unfold State.setThermCap
  repeat' (first | with_reducible assumption | with_reducible apply State.refreshCap_wf | dsimp only)

theorem State.setPanelCap_wf (s : State) (c v : Nat) (hwf : Memory.wf s.mem = true) : Memory.wf (State.setPanelCap s c v).mem = true := by
  unfold State.setPanelCap
  repeat' (first | with_reducible assumption | with_reducible apply State.refreshCap_wf | dsimp only)

theorem State.takeSlew_wf (s : State) (n : Nat) (hwf : Memory.wf s.mem = true) : Memory.wf (State.takeSlew s n).mem = true := by
  unfold State.takeSlew
  repeat' (first | with_reducible assumption | dsimp only)

theorem State.wake_wf (s : State) (c : Nat) (hwf : Memory.wf s.mem = true) : Memory.wf (State.wake s c).mem = true := by
  unfold State.wake
  repeat' (first | with_reducible assumption | with_reducible apply State.count64_wf | with_reducible apply State.refreshCap_wf | with_reducible apply State.setField_wf | with_reducible apply State.setPower_wf | with_reducible apply State.takeSlew_wf | with_reducible apply memZero_wf | with_reducible apply wf_filter | with_reducible apply ite_wf | split | dsimp only)

theorem State.lowerOne_wf (s : State) (cs : List Nat) (hwf : Memory.wf s.mem = true) : Memory.wf (State.lowerOne s cs).mem = true := by
  unfold State.lowerOne
  repeat' (first | with_reducible assumption | with_reducible apply State.setField_wf | (with_reducible refine foldl_wf _ (fun s x h => ?_) _ _ ?_) | with_reducible apply ite_wf | split | dsimp only)

theorem State.retain_wf (s : State) (c : Nat) (hwf : Memory.wf s.mem = true) : Memory.wf (State.retain s c).mem = true := by
  unfold State.retain
  repeat' (first | with_reducible assumption | with_reducible apply State.draw_wf | with_reducible apply State.setCore_wf | with_reducible apply State.setPower_wf | (with_reducible refine foldl_wf _ (fun s x h => ?_) _ _ ?_) | (with_reducible refine foldl_fst_wf _ (fun r x h => ?_) _ _ ?_) | dsimp only)

theorem State.refreshLimit_wf (s : State) (hwf : Memory.wf s.mem = true) : Memory.wf (State.refreshLimit s).mem = true := by
  unfold State.refreshLimit
  repeat' (first | with_reducible assumption | with_reducible apply State.setField_wf | dsimp only)

theorem State.lowerAll_wf (s : State) (pIn : Nat) (hwf : Memory.wf s.mem = true) : Memory.wf (State.lowerAll s pIn).mem = true := by
  unfold State.lowerAll
  repeat' (first | with_reducible assumption | with_reducible apply State.record_wf | with_reducible apply State.setField_wf | with_reducible apply State.setPanelCap_wf | (with_reducible refine foldl_wf _ (fun s x h => ?_) _ _ ?_) | with_reducible apply ite_wf | split | dsimp only)

theorem State.raiseAll_wf (s : State) (hwf : Memory.wf s.mem = true) : Memory.wf (State.raiseAll s).mem = true := by
  unfold State.raiseAll
  repeat' (first | with_reducible assumption | with_reducible apply State.setPanelCap_wf | with_reducible apply State.takeSlew_wf | (with_reducible refine foldl_wf _ (fun s x h => ?_) _ _ ?_) | (with_reducible refine foldl_fst_wf _ (fun r x h => ?_) _ _ ?_) | with_reducible apply ite_wf | split | dsimp only)

theorem State.takeSample_wf (s : State) (r : PowerReading) (hwf : Memory.wf s.mem = true) : Memory.wf (State.takeSample s r).mem = true := by
  unfold State.takeSample
  repeat' (first | with_reducible assumption | with_reducible apply State.modPart_wf | with_reducible apply State.setField_wf | with_reducible apply State.setReg64_wf | (with_reducible refine foldl_wf _ (fun s x h => ?_) _ _ ?_) | (with_reducible refine foldl_fst_wf _ (fun r x h => ?_) _ _ ?_) | with_reducible apply ite_wf | split | dsimp only)

theorem State.pauseAll_wf (s : State) (hwf : Memory.wf s.mem = true) : Memory.wf (State.pauseAll s).mem = true := by
  unfold State.pauseAll
  repeat' (first | with_reducible assumption | with_reducible apply State.setPower_wf | (with_reducible refine foldl_wf _ (fun s x h => ?_) _ _ ?_) | dsimp only)

theorem State.resumeAll_wf (s : State) (hwf : Memory.wf s.mem = true) : Memory.wf (State.resumeAll s).mem = true := by
  unfold State.resumeAll
  repeat' (first | with_reducible assumption | with_reducible apply State.setField_wf | with_reducible apply State.setPower_wf | with_reducible apply State.takeSlew_wf | (with_reducible refine foldl_wf _ (fun s x h => ?_) _ _ ?_) | (with_reducible refine foldl_fst_wf _ (fun r x h => ?_) _ _ ?_) | with_reducible apply ite_wf | split | dsimp only)

theorem State.stopControl_wf (s : State) (d : Nat) (hwf : Memory.wf s.mem = true) : Memory.wf (State.stopControl s d).mem = true := by
  unfold State.stopControl
  repeat' (first | with_reducible assumption | with_reducible apply ite_wf | split | dsimp only)

theorem State.failDie_wf (s : State) (die cause lossCause : Nat) (hwf : Memory.wf s.mem = true) : Memory.wf (State.failDie s die cause lossCause).mem = true := by
  unfold State.failDie
  repeat' (first | with_reducible assumption | with_reducible apply State.loseLink_wf | with_reducible apply State.loseStack_wf | with_reducible apply State.retireDie_wf | with_reducible apply State.stopControl_wf | with_reducible apply ite_wf | split | dsimp only)

theorem State.setVpm_wf (s : State) (die : Nat) (on tripped : Bool) (hwf : Memory.wf s.mem = true) : Memory.wf (State.setVpm s die on tripped).mem = true := by
  unfold State.setVpm
  repeat' (first | with_reducible assumption | with_reducible apply State.setField_wf | with_reducible apply ite_wf | split | dsimp only)

theorem State.goDark_wf (s : State) (c site : Nat) (hwf : Memory.wf s.mem = true) : Memory.wf (State.goDark s c site).mem = true := by
  unfold State.goDark
  repeat' (first | with_reducible assumption | with_reducible apply State.retireDie_wf | with_reducible apply State.setField_wf | with_reducible apply State.setPower_wf | dsimp only)

theorem State.slipDie_wf (s : State) (die : Nat) (hwf : Memory.wf s.mem = true) : Memory.wf (State.slipDie s die).mem = true := by
  unfold State.slipDie
  repeat' (first | with_reducible assumption | with_reducible apply State.noteLate_wf | with_reducible apply State.restartFrames_wf | with_reducible apply State.setSeam_wf | with_reducible apply State.slip_wf | (with_reducible refine foldl_wf _ (fun s x h => ?_) _ _ ?_) | with_reducible apply ite_wf | split | dsimp only)

theorem State.noteThrottle_wf (s : State) (c quad : Nat) (t : List Nat) (hot : Nat) (hwf : Memory.wf s.mem = true) : Memory.wf (State.noteThrottle s c quad t hot).mem = true := by
  unfold State.noteThrottle
  repeat' (first | with_reducible assumption | with_reducible apply State.record_wf | with_reducible apply State.setPart_wf | with_reducible apply ite_wf | split | dsimp only)

theorem State.throttle_wf (s : State) (c hot : Nat) (hwf : Memory.wf s.mem = true) : Memory.wf (State.throttle s c hot).mem = true := by
  unfold State.throttle
  repeat' (first | with_reducible assumption | with_reducible apply State.setThermCap_wf | with_reducible apply ite_wf | split | dsimp only)

theorem State.setTarget_wf (s : State) (q : Nat) (hwf : Memory.wf s.mem = true) : Memory.wf (State.setTarget s q).mem = true := by
  unfold State.setTarget
  repeat' (first | with_reducible assumption | with_reducible apply State.setField_wf | dsimp only)

theorem State.follow_wf (s : State) (p : Nat) (hwf : Memory.wf s.mem = true) : Memory.wf (State.follow s p).mem = true := by
  unfold State.follow
  repeat' (first | with_reducible assumption | with_reducible apply State.setTarget_wf | with_reducible apply ite_wf | split | dsimp only)

theorem State.flowAhead_wf (s : State) (q : Part) (regions : Nat) (hwf : Memory.wf s.mem = true) : Memory.wf (State.flowAhead s q regions).mem = true := by
  unfold State.flowAhead
  repeat' (first | with_reducible assumption | with_reducible apply State.setTarget_wf | with_reducible apply ite_wf | split | dsimp only)

theorem State.heatFlow_wf (s : State) (hot : Nat) (hwf : Memory.wf s.mem = true) : Memory.wf (State.heatFlow s hot).mem = true := by
  unfold State.heatFlow
  repeat' (first | with_reducible assumption | with_reducible apply State.setTarget_wf | with_reducible apply ite_wf | split | dsimp only)

theorem State.moveValve_wf (s : State) (flow : Nat) (hwf : Memory.wf s.mem = true) : Memory.wf (State.moveValve s flow).mem = true := by
  unfold State.moveValve
  repeat' (first | with_reducible assumption | with_reducible apply State.draw_wf | with_reducible apply State.setField_wf | with_reducible apply ite_wf | split | dsimp only)

theorem State.readTray_wf (s : State) (r : TrayReading) (hwf : Memory.wf s.mem = true) : Memory.wf (State.readTray s r).mem = true := by
  unfold State.readTray
  repeat' (first | with_reducible assumption | with_reducible apply State.setField_wf | with_reducible apply ite_wf | split | dsimp only)

theorem State.coolTimes_wf (s : State) (hot : Nat) (hwf : Memory.wf s.mem = true) : Memory.wf (State.coolTimes s hot).mem = true := by
  unfold State.coolTimes
  repeat' (first | with_reducible assumption | dsimp only)

theorem State.enterCool_wf (s : State) (n : Nat) (hwf : Memory.wf s.mem = true) : Memory.wf (State.enterCool s n).mem = true := by
  unfold State.enterCool
  repeat' (first | with_reducible assumption | with_reducible apply State.draw_wf | with_reducible apply State.pauseAll_wf | with_reducible apply State.record_wf | with_reducible apply State.setField_wf | with_reducible apply ite_wf | split | dsimp only)

theorem State.leaveLoss_wf (s : State) (hwf : Memory.wf s.mem = true) : Memory.wf (State.leaveLoss s).mem = true := by
  unfold State.leaveLoss
  repeat' (first | with_reducible assumption | with_reducible apply State.requestWake_wf | with_reducible apply State.resumeAll_wf | with_reducible apply State.setField_wf | (with_reducible refine foldl_wf _ (fun s x h => ?_) _ _ ?_) | with_reducible apply ite_wf | split | dsimp only)

theorem State.coolStep_wf (s : State) (status : Nat) (hwf : Memory.wf s.mem = true) : Memory.wf (State.coolStep s status).mem = true := by
  unfold State.coolStep
  repeat' (first | with_reducible assumption | with_reducible apply State.enterCool_wf | with_reducible apply State.leaveLoss_wf | with_reducible apply State.setField_wf | with_reducible apply ite_wf | split | dsimp only)

theorem State.stackSteps_wf (s : State) (hwf : Memory.wf s.mem = true) : Memory.wf (State.stackSteps s).mem = true := by
  unfold State.stackSteps
  repeat' (first | with_reducible assumption | with_reducible apply ite_wf | split | dsimp only)

theorem State.lossRetain_wf (s : State) (hwf : Memory.wf s.mem = true) : Memory.wf (State.lossRetain s).mem = true := by
  unfold State.lossRetain
  repeat' (first | with_reducible assumption | with_reducible apply State.endStep_wf | with_reducible apply State.retain_wf | (with_reducible refine foldl_wf _ (fun s x h => ?_) _ _ ?_) | (with_reducible refine foldl_fst_wf _ (fun r x h => ?_) _ _ ?_) | dsimp only)

theorem State.enterSafe_wf (s : State) (hwf : Memory.wf s.mem = true) : Memory.wf s.enterSafe.mem = true := rfl

end Sys2Proof.Laws
end

