-- ==== Sys2Proof/Laws/CanonCommand.lean ====
section
/-! SUPPORT. Each operation of Events, HostCmd, Tick, Bringup, Trust leaves panel memory in canonical form. -/

namespace Sys2Proof.Laws

open Sys2Proof.Machine

set_option linter.unusedTactic false
set_option linter.unreachableTactic false
set_option linter.unusedVariables false

theorem stepTimes_wf (l : List Nat) (f : Nat → Word) (s : State) (hwf : Memory.wf s.mem = true) :
    Memory.wf (l.foldl (fun s k => s.setReg (bstBase + 0x20 + 4 * k) (f k)) s).mem = true := by
  refine foldl_eq_wf _ (fun s x t h e => ?_) _ _ hwf
  have e : t = s.setReg (bstBase + 0x20 + 4 * x) (f x) := e
  rw [e]
  exact State.setReg_wf _ _ _ h

theorem vpmsOff_wf (l : List Nat) (s : State) (hwf : Memory.wf s.mem = true) : Memory.wf (l.foldl (fun s d => s.setVpm d false false) s).mem = true := by
  refine foldl_eq_wf _ (fun s x t h e => ?_) _ _ hwf
  have e : t = s.setVpm x false false := e
  rw [e]
  exact State.setVpm_wf _ _ _ _ h

theorem startRouting_wf (s : State) (l : List PortRef) (c : Prop) [Decidable c] (hwf : Memory.wf s.mem = true) :
    Memory.wf (if c then (List.range 186).foldl (fun s d => s.setVpm d false false) s
      else l.foldl State.halfWidth { s with sparing := { s.sparing with routesUp := true, frame0 := s.now, frames := [] } }).mem = true :=
  ite_wf _ _ (vpmsOff_wf _ _ hwf) (foldl_wf _ (fun s x h => State.halfWidth_wf s x h) _ _ hwf)

theorem State.flushOne_wf (s : State) (e : Event) (hwf : Memory.wf s.mem = true) : Memory.wf (State.flushOne s e).mem = true := by
  unfold State.flushOne
  repeat' (first | with_reducible assumption | with_reducible apply State.count_wf | with_reducible apply ite_wf | split | dsimp only)

theorem State.flushAll_wf (s : State) (ok : Bool) (hwf : Memory.wf s.mem = true) : Memory.wf (State.flushAll s ok).mem = true := by
  unfold State.flushAll
  repeat' (first | with_reducible assumption | with_reducible apply State.count_wf | with_reducible apply State.flushOne_wf | with_reducible apply State.setField_wf | (with_reducible refine foldl_wf _ (fun s x h => ?_) _ _ ?_) | (with_reducible refine foldl_fst_wf _ (fun r x h => ?_) _ _ ?_) | with_reducible apply ite_wf | split | dsimp only)

theorem State.renewNonce_wf (s : State) (hwf : Memory.wf s.mem = true) : Memory.wf (State.renewNonce s).mem = true := by
  unfold State.renewNonce
  repeat' (first | with_reducible assumption | dsimp only)

theorem State.refuseAuth_wf (s : State) (b : Bytes) (hwf : Memory.wf s.mem = true) : Memory.wf (State.refuseAuth s b).mem = true := by
  unfold State.refuseAuth
  repeat' (first | with_reducible assumption | with_reducible apply State.record_wf | dsimp only)

theorem State.clearEvents_wf (s : State) (signer : Nat) (hwf : Memory.wf s.mem = true) : Memory.wf (State.clearEvents s signer).mem = true := by
  unfold State.clearEvents
  repeat' (first | with_reducible assumption | with_reducible apply State.flushAll_wf | with_reducible apply State.record_wf | dsimp only)

theorem State.placeBytes_wf (s : State) (a : Nat) (bs : Bytes) (hwf : Memory.wf s.mem = true) : Memory.wf (State.placeBytes s a bs).mem = true := by
  unfold State.placeBytes
  repeat' (first | with_reducible assumption | with_reducible apply State.writePanel_wf | (with_reducible refine foldl_wf _ (fun s x h => ?_) _ _ ?_) | (with_reducible refine foldl_fst_wf _ (fun r x h => ?_) _ _ ?_) | dsimp only)

theorem State.fetchBytes_wf (s : State) (a n : Nat) (hwf : Memory.wf s.mem = true) : Memory.wf (State.fetchBytes s a n).1.mem = true := by
  unfold State.fetchBytes
  repeat' (first | with_reducible assumption | with_reducible apply State.readPanel_wf | (with_reducible refine foldl_wf _ (fun s x h => ?_) _ _ ?_) | (with_reducible refine foldl_fst_wf _ (fun r x h => ?_) _ _ ?_) | dsimp only)

theorem State.dropCaches_wf (s : State) (q : Part) (hwf : Memory.wf s.mem = true) : Memory.wf (State.dropCaches s q).mem = true := by
  unfold State.dropCaches
  repeat' (first | with_reducible assumption | with_reducible apply State.invalidateCache_wf | (with_reducible refine foldl_wf _ (fun s x h => ?_) _ _ ?_) | dsimp only)

theorem State.placedBySram_wf (s : State) (a n : Nat) (hwf : Memory.wf s.mem = true) : Memory.wf (State.placedBySram s a n).mem = true := by
  unfold State.placedBySram
  repeat' (first | with_reducible assumption | with_reducible apply State.ownMove_wf | (with_reducible refine foldl_wf _ (fun s x h => ?_) _ _ ?_) | (with_reducible refine foldl_fst_wf _ (fun r x h => ?_) _ _ ?_) | with_reducible apply ite_wf | split | dsimp only)

theorem State.placed_wf (s : State) (q : Part) (a : Nat) (hwf : Memory.wf s.mem = true) : Memory.wf (State.placed s q a).mem = true := by
  unfold State.placed
  repeat' (first | with_reducible assumption | with_reducible apply State.dropCaches_wf | with_reducible apply ite_wf | split | dsimp only)

theorem State.writeEpt_wf (s : State) (eid v : Nat) (hwf : Memory.wf s.mem = true) : Memory.wf (State.writeEpt s eid v).mem = true := by
  unfold State.writeEpt
  repeat' (first | with_reducible assumption | dsimp only)

theorem State.memEndpointSet_wf (s : State) (p : Nat) (r : Bytes) (hwf : Memory.wf s.mem = true) : ∀ t, s.memEndpointSet p r = some t → Memory.wf t.mem = true := by
  intro t ht
  unfold State.memEndpointSet at ht
  dsimp only at ht
  split at ht
  · split at ht
    · exact absurd ht (by simp)
    · obtain ⟨i, -, rfl⟩ := Option.map_eq_some_iff.mp ht
      exact State.setRes_wf _ _ _ hwf
  · split at ht
    · injection ht with ht
      exact ht ▸ hwf
    · injection ht with ht
      subst ht
      split
      · exact State.setRes_wf _ _ _ hwf
      · exact hwf

theorem State.fenceEndpoint_wf (s : State) (eid : BitVec 24) (v : Nat) (hwf : Memory.wf s.mem = true) : Memory.wf (State.fenceEndpoint s eid v).mem = true := by
  unfold State.fenceEndpoint
  repeat' (first | with_reducible assumption | with_reducible apply State.setRes_wf | with_reducible apply State.writeEpt_wf | with_reducible apply ite_wf | split | dsimp only)

theorem State.runFence_wf (s : State) (id op : Nat) (io : HostIo) (v : Nat) (hwf : Memory.wf s.mem = true) : Memory.wf (s.runFence id op io v).mem = true := by
  unfold State.runFence
  refine State.runCmd_wf _ _ _ _ _ hwf fun c => ?_
  dsimp only
  split
  · exact State.fail_wf _ _ _ _ hwf
  · exact State.finish_wf _ _ _ _ _ _ _ _ (State.fenceEndpoint_wf _ _ _ hwf)

theorem State.setSampler_wf (s : State) (k : Started) (i c : Nat) (hwf : Memory.wf s.mem = true) : Memory.wf (State.setSampler s k i c).mem = true := by
  unfold State.setSampler
  repeat' (first | with_reducible assumption | with_reducible apply State.setField_wf | with_reducible apply State.setReg64_wf | with_reducible apply ite_wf | split | dsimp only)

theorem State.tickCore_wf (s : State) (h : Nat) (hwf : Memory.wf s.mem = true) : Memory.wf (State.tickCore s h).mem = true := by
  unfold State.tickCore
  repeat' (first | with_reducible assumption | with_reducible apply State.count64_wf | with_reducible apply State.setCore_wf | with_reducible apply ite_wf | split | dsimp only)

theorem State.tickEngines_wf (s : State) (h : Nat) (hwf : Memory.wf s.mem = true) : Memory.wf (State.tickEngines s h).mem = true := by
  unfold State.tickEngines
  repeat' (first | with_reducible assumption | with_reducible apply State.count64_wf | (with_reducible refine foldl_wf _ (fun s x h => ?_) _ _ ?_) | with_reducible apply ite_wf | split | dsimp only)

theorem State.tickCluster_wf (s : State) (c : Nat) (hwf : Memory.wf s.mem = true) : Memory.wf (State.tickCluster s c).mem = true := by
  unfold State.tickCluster
  repeat' (first | with_reducible assumption | with_reducible apply State.count_wf | with_reducible apply State.count64_wf | with_reducible apply ite_wf | split | dsimp only)

theorem State.tickRegion_wf (s : State) (rn : Nat) (hwf : Memory.wf s.mem = true) : Memory.wf (State.tickRegion s rn).mem = true := by
  unfold State.tickRegion
  repeat' (first | with_reducible assumption | with_reducible apply State.setRegion_wf | with_reducible apply ite_wf | split | dsimp only)

theorem State.tickStack_wf (s : State) (n : Nat) (hwf : Memory.wf s.mem = true) : Memory.wf (State.tickStack s n).mem = true := by
  unfold State.tickStack
  repeat' (first | with_reducible assumption | with_reducible apply State.count64_wf | with_reducible apply ite_wf | split | dsimp only)

theorem State.tickPort_wf (s : State) (port : Nat) (hwf : Memory.wf s.mem = true) : Memory.wf (State.tickPort s port).mem = true := by
  unfold State.tickPort
  repeat' (first | with_reducible assumption | with_reducible apply State.count64_wf | with_reducible apply State.sendControl_wf | with_reducible apply ite_wf | split | dsimp only)

theorem State.tickPanel_wf (s : State) (hwf : Memory.wf s.mem = true) : Memory.wf (State.tickPanel s).mem = true := by
  unfold State.tickPanel
  repeat' (first | with_reducible assumption | with_reducible apply State.count64_wf | with_reducible apply ite_wf | split | dsimp only)

theorem State.tickModules_wf (s : State) (hwf : Memory.wf s.mem = true) : Memory.wf (State.tickModules s).mem = true := by
  unfold State.tickModules
  repeat' (first | with_reducible assumption | with_reducible apply State.count_wf | (with_reducible refine foldl_wf _ (fun s x h => ?_) _ _ ?_) | with_reducible apply ite_wf | split | dsimp only)

theorem State.tickTime_wf (s : State) (hwf : Memory.wf s.mem = true) : Memory.wf (State.tickTime s).mem = true := by
  unfold State.tickTime
  repeat' (first | with_reducible assumption | with_reducible apply State.sample_wf | with_reducible apply State.tickModules_wf | with_reducible apply ite_wf | split | dsimp only)

theorem State.tick_wf (s : State) (hwf : Memory.wf s.mem = true) : Memory.wf (State.tick s).mem = true := by
  unfold State.tick
  repeat' (first | with_reducible assumption | with_reducible apply State.count_wf | with_reducible apply State.count64_wf | with_reducible apply State.settleSlots_wf | with_reducible apply State.tickCluster_wf | with_reducible apply State.tickCore_wf | with_reducible apply State.tickEngines_wf | with_reducible apply State.tickPanel_wf | with_reducible apply State.tickPort_wf | with_reducible apply State.tickRegion_wf | with_reducible apply State.tickStack_wf | with_reducible apply State.tickTime_wf | (with_reducible refine foldl_wf _ (fun s x h => ?_) _ _ ?_) | (with_reducible refine foldl_fst_wf _ (fun r x h => ?_) _ _ ?_) | with_reducible apply ite_wf | split | dsimp only)

theorem State.noteTests_wf (s : State) (found : Nat → Nat → Nat → Nat → Option Bool) (hwf : Memory.wf s.mem = true) : Memory.wf (State.noteTests s found).mem = true := by
  unfold State.noteTests
  repeat' (first | with_reducible assumption | with_reducible apply State.addContradiction_wf | (with_reducible refine foldl_wf _ (fun s x h => ?_) _ _ ?_) | (with_reducible refine foldl_fst_wf _ (fun r x h => ?_) _ _ ?_) | with_reducible apply ite_wf | split | dsimp only)

theorem State.showTest_wf (s : State) (b : Nat) (r : TestResult) (hwf : Memory.wf s.mem = true) : Memory.wf (State.showTest s b r).mem = true := by
  unfold State.showTest
  repeat' (first | with_reducible assumption | with_reducible apply State.setField_wf | with_reducible apply State.setReg_wf | with_reducible apply State.setReg64_wf | (with_reducible refine foldl_wf _ (fun s x h => ?_) _ _ ?_) | with_reducible apply ite_wf | split | dsimp only)

theorem State.testBlock_wf (s : State) (b : Nat) (r : TestResult) (source : Nat) (hwf : Memory.wf s.mem = true) : Memory.wf (State.testBlock s b r source).mem = true := by
  unfold State.testBlock
  repeat' (first | with_reducible assumption | with_reducible apply State.addDefect_wf | with_reducible apply State.setPhys_wf | with_reducible apply State.showTest_wf | with_reducible apply State.writeRemaps_wf | (with_reducible refine foldl_wf _ (fun s x h => ?_) _ _ ?_) | (with_reducible refine foldl_fst_wf _ (fun r x h => ?_) _ _ ?_) | with_reducible apply ite_wf | split | dsimp only)

theorem State.freshPower_wf (s : State) (c st : Nat) (hwf : Memory.wf s.mem = true) : Memory.wf (State.freshPower s c st).mem = true := by
  unfold State.freshPower
  repeat' (first | with_reducible assumption | with_reducible apply State.refreshCap_wf | with_reducible apply State.setReg_wf | with_reducible apply ite_wf | split | dsimp only)

theorem State.reloadCluster_wf (s : State) (c : Nat) (hwf : Memory.wf s.mem = true) : Memory.wf (State.reloadCluster s c).mem = true := by
  unfold State.reloadCluster
  repeat' (first | with_reducible assumption | with_reducible apply State.loadCluster_wf | with_reducible apply State.modPart_wf | with_reducible apply State.record_wf | with_reducible apply State.setLanding_wf | with_reducible apply ite_wf | split | dsimp only)

theorem State.reloadData_wf (s : State) (cs : List Nat) (hwf : Memory.wf s.mem = true) : Memory.wf (State.reloadData s cs).mem = true := by
  unfold State.reloadData
  repeat' (first | with_reducible assumption | with_reducible apply State.loadData_wf | with_reducible apply State.modRegion_wf | (with_reducible refine foldl_wf _ (fun s x h => ?_) _ _ ?_) | with_reducible apply ite_wf | split | dsimp only)

theorem State.settleMoved_wf (s : State) (cs : List Nat) (hwf : Memory.wf s.mem = true) : Memory.wf (State.settleMoved s cs).mem = true := by
  unfold State.settleMoved
  repeat' (first | with_reducible assumption | with_reducible apply State.freshPower_wf | with_reducible apply State.modPart_wf | with_reducible apply State.reloadCluster_wf | with_reducible apply State.reloadData_wf | with_reducible apply State.resetCluster_wf | with_reducible apply State.setClu_wf | with_reducible apply State.spareDuty_wf | (with_reducible refine foldl_wf _ (fun s x h => ?_) _ _ ?_) | (with_reducible refine foldl_fst_wf _ (fun r x h => ?_) _ _ ?_) | with_reducible apply ite_wf | split | dsimp only)

theorem State.mapChanged_wf (s : State) (site : Nat) (hwf : Memory.wf s.mem = true) : Memory.wf (State.mapChanged s site).mem = true := by
  unfold State.mapChanged
  repeat' (first | with_reducible assumption | with_reducible apply State.setReg_wf | with_reducible apply ite_wf | split | dsimp only)

theorem State.showDie_wf (s : State) (die : Nat) (ok : Bool) (hwf : Memory.wf s.mem = true) : Memory.wf (State.showDie s die ok).mem = true := by
  unfold State.showDie
  repeat' (first | with_reducible assumption | with_reducible apply State.setField_wf | dsimp only)

theorem State.useSpare_wf (s : State) (site cause : Nat) (hwf : Memory.wf s.mem = true) : Memory.wf (State.useSpare s site cause).mem = true := by
  unfold State.useSpare
  repeat' (first | with_reducible assumption | with_reducible apply State.count_wf | with_reducible apply State.mapChanged_wf | with_reducible apply State.record_wf | with_reducible apply State.setVpm_wf | with_reducible apply State.settleMoved_wf | with_reducible apply State.showDie_wf | dsimp only)

theorem State.answerHoles_wf (s : State) (hwf : Memory.wf s.mem = true) : Memory.wf (State.answerHoles s).mem = true := by
  unfold State.answerHoles
  repeat' (first | with_reducible assumption | with_reducible apply State.answerUnreach_wf | (with_reducible refine foldl_wf _ (fun s x h => ?_) _ _ ?_) | (with_reducible refine foldl_fst_wf _ (fun r x h => ?_) _ _ ?_) | with_reducible apply ite_wf | split | dsimp only)

theorem State.makeHole_wf (s : State) (site : Nat) (hwf : Memory.wf s.mem = true) : Memory.wf (State.makeHole s site).mem = true := by
  unfold State.makeHole
  repeat' (first | with_reducible assumption | with_reducible apply State.answerHoles_wf | with_reducible apply State.clearStep_wf | with_reducible apply State.endStep_wf | with_reducible apply State.freshPower_wf | with_reducible apply State.mapChanged_wf | with_reducible apply State.modPart_wf | with_reducible apply State.refreshState_wf | with_reducible apply State.setVpm_wf | (with_reducible refine foldl_wf _ (fun s x h => ?_) _ _ ?_) | (with_reducible refine foldl_fst_wf _ (fun r x h => ?_) _ _ ?_) | with_reducible apply wf_filter | with_reducible apply ite_wf | split | dsimp only)

theorem State.releaseFrozen_wf (s : State) (p : Nat) (hwf : Memory.wf s.mem = true) : Memory.wf (State.releaseFrozen s p).mem = true := by
  unfold State.releaseFrozen
  repeat' (first | with_reducible assumption | with_reducible apply State.modPart_wf | with_reducible apply State.replay_wf | with_reducible apply ite_wf | split | dsimp only)

theorem State.panelReset_wf (s : State) (hwf : Memory.wf s.mem = true) : Memory.wf (State.panelReset s).mem = true := by
  unfold State.panelReset
  repeat' (first | with_reducible assumption | with_reducible apply State.flushAll_wf | with_reducible apply State.renewNonce_wf | with_reducible apply State.setField_wf | with_reducible apply State.setMgt_wf | with_reducible apply State.setMgtField_wf | with_reducible apply State.setVpm_wf | exact (rfl : Memory.wf State.reset.mem = true) | with_reducible apply wf_filter | with_reducible apply ite_wf | split | dsimp only)

theorem State.startDies_wf (s : State) (f : BringupFound) (hwf : Memory.wf s.mem = true) : Memory.wf (State.startDies s f).mem = true := by
  unfold State.startDies
  repeat' (first | with_reducible assumption | with_reducible apply State.addDefect_wf | with_reducible apply State.setField_wf | with_reducible apply State.setReg_wf | (with_reducible refine foldl_wf _ (fun s x h => ?_) _ _ ?_) | (with_reducible refine foldl_fst_wf _ (fun r x h => ?_) _ _ ?_) | dsimp only)

theorem State.fenceSteppings_wf (s : State) (hwf : Memory.wf s.mem = true) : Memory.wf (State.fenceSteppings s).mem = true := by
  unfold State.fenceSteppings
  repeat' (first | with_reducible assumption | with_reducible apply State.record_wf | (with_reducible refine foldl_wf _ (fun s x h => ?_) _ _ ?_) | with_reducible apply ite_wf | split | dsimp only)

theorem State.testClusters_wf (s : State) (f : BringupFound) (hwf : Memory.wf s.mem = true) : Memory.wf (State.testClusters s f).mem = true := by
  unfold State.testClusters
  repeat' (first | with_reducible assumption | with_reducible apply State.addDefect_wf | with_reducible apply State.showDie_wf | with_reducible apply State.testBlock_wf | (with_reducible refine foldl_wf _ (fun s x h => ?_) _ _ ?_) | with_reducible apply ite_wf | split | dsimp only)

theorem State.trainStacks_wf (s : State) (f : BringupFound) (hwf : Memory.wf s.mem = true) : Memory.wf (State.trainStacks s f).mem = true := by
  unfold State.trainStacks
  repeat' (first | with_reducible assumption | with_reducible apply State.addDefect_wf | with_reducible apply State.loseStack_wf | with_reducible apply State.setField_wf | with_reducible apply State.setStack_wf | (with_reducible refine foldl_wf _ (fun s x h => ?_) _ _ ?_) | (with_reducible refine foldl_fst_wf _ (fun r x h => ?_) _ _ ?_) | with_reducible apply ite_wf | split | dsimp only)

theorem State.trainLinks_wf (s : State) (f : BringupFound) (hwf : Memory.wf s.mem = true) : Memory.wf (State.trainLinks s f).mem = true := by
  unfold State.trainLinks
  repeat' (first | with_reducible assumption | with_reducible apply State.addDefect_wf | with_reducible apply State.loseLink_wf | with_reducible apply State.moduleHours_wf | with_reducible apply State.portRuns_wf | with_reducible apply State.setField_wf | (with_reducible refine foldl_wf _ (fun s x h => ?_) _ _ ?_) | (with_reducible refine foldl_fst_wf _ (fun r x h => ?_) _ _ ?_) | with_reducible apply ite_wf | split | dsimp only)

theorem State.rebuildRod_wf (s : State) (y : Nat) (hwf : Memory.wf s.mem = true) : Memory.wf (State.rebuildRod s y).mem = true := by
  unfold State.rebuildRod
  repeat' (first | with_reducible assumption | (with_reducible refine foldl_wf _ (fun s x h => ?_) _ _ ?_) | with_reducible apply ite_wf | split | dsimp only)

theorem State.mapDuty_wf (s : State) (c : Nat) (hwf : Memory.wf s.mem = true) : Memory.wf (State.mapDuty s c).mem = true := by
  unfold State.mapDuty
  repeat' (first | with_reducible assumption | with_reducible apply State.setPhys_wf | (with_reducible refine foldl_wf _ (fun s x h => ?_) _ _ ?_) | with_reducible apply ite_wf | split | dsimp only)

theorem State.rebuildMap_wf (s : State) (hwf : Memory.wf s.mem = true) : Memory.wf (State.rebuildMap s).mem = true := by
  unfold State.rebuildMap
  repeat' (first | with_reducible assumption | with_reducible apply State.freshPower_wf | with_reducible apply State.mapDuty_wf | with_reducible apply State.rebuildRod_wf | with_reducible apply State.setClu_wf | with_reducible apply State.setReg_wf | with_reducible apply State.setVpm_wf | (with_reducible refine foldl_wf _ (fun s x h => ?_) _ _ ?_) | with_reducible apply ite_wf | split | dsimp only)

theorem State.setRole_wf (s : State) (d role : Nat) (hwf : Memory.wf s.mem = true) : Memory.wf (State.setRole s d role).mem = true := by
  unfold State.setRole
  repeat' (first | with_reducible assumption | with_reducible apply ite_wf | split | dsimp only)

theorem State.startGleryn_wf (s : State) (d : Nat) (otherOk : Bool) (f : BringupFound) (hwf : Memory.wf s.mem = true) : Memory.wf (State.startGleryn s d otherOk f).mem = true := by
  unfold State.startGleryn
  repeat' (first | with_reducible assumption | with_reducible apply State.draw_wf | with_reducible apply State.record_wf | with_reducible apply State.setField_wf | with_reducible apply State.setMgt_wf | with_reducible apply State.setMgtField_wf | with_reducible apply State.setReg_wf | with_reducible apply State.setRole_wf | with_reducible apply ite_wf | split | dsimp only)

theorem State.testAll_wf (s : State) (f : BringupFound) (hwf : Memory.wf s.mem = true) : Memory.wf (State.testAll s f).mem = true := by
  unfold State.testAll
  repeat' (first | with_reducible assumption | with_reducible apply State.fenceSteppings_wf | with_reducible apply State.noteTests_wf | with_reducible apply State.startDies_wf | with_reducible apply State.testClusters_wf | with_reducible apply State.trainLinks_wf | with_reducible apply State.trainStacks_wf | dsimp only)

theorem State.endBringup_wf (s : State) (f : BringupFound) (hwf : Memory.wf s.mem = true) : Memory.wf (State.endBringup s f).mem = true := by
  have h0 := State.loseSeamless_wf _ (State.rebuildMap_wf _ hwf)
  unfold State.endBringup
  refine State.record_wf _ _ _ _ _ _ _ (State.refreshLimit_wf _ (State.refreshRdy_wf _ (State.setPanelState_wf _ _ (stepTimes_wf _ _ _ ?_))))
  exact State.setField_wf _ _ _ _ _ (State.setField_wf _ _ _ _ _ (startRouting_wf _ _ _ h0))

theorem State.enterDebug_wf (s : State) (arg : Word) (hwf : Memory.wf s.mem = true) : Memory.wf (State.enterDebug s arg).mem = true := by
  unfold State.enterDebug
  repeat' (first | with_reducible assumption | with_reducible apply State.record_wf | dsimp only)

theorem State.enterRecovery_wf (s : State) (f : BringupFound) (hwf : Memory.wf s.mem = true) : Memory.wf (State.enterRecovery s f).mem = true := by
  unfold State.enterRecovery
  repeat' (first | with_reducible assumption | with_reducible apply State.setVpm_wf | with_reducible apply State.trainLinks_wf | (with_reducible refine foldl_wf _ (fun s x h => ?_) _ _ ?_) | dsimp only)

theorem State.setControl_wf (s : State) (d : Nat) (f : ControlDie → ControlDie) (hwf : Memory.wf s.mem = true) : Memory.wf (State.setControl s d f).mem = true := by
  unfold State.setControl
  repeat' (first | with_reducible assumption | with_reducible apply ite_wf | split | dsimp only)

theorem State.takeOver_wf (s : State) (d : Nat) (hwf : Memory.wf s.mem = true) : Memory.wf (State.takeOver s d).mem = true := by
  unfold State.takeOver
  repeat' (first | with_reducible assumption | with_reducible apply State.flushAll_wf | with_reducible apply State.refreshRdy_wf | with_reducible apply State.setControl_wf | with_reducible apply State.setMgt_wf | with_reducible apply State.setMgtField_wf | with_reducible apply State.setPanelState_wf | with_reducible apply State.setRdy_wf | dsimp only)

theorem State.answerBusy_wf (s : State) (p : Packet) (hwf : Memory.wf s.mem = true) : Memory.wf (State.answerBusy s p).mem = true := by
  unfold State.answerBusy
  repeat' (first | with_reducible assumption | with_reducible apply State.glerynSend_wf | dsimp only)

theorem State.makeAk_wf (s : State) (hwf : Memory.wf s.mem = true) : Memory.wf (State.makeAk s).mem = true := by
  unfold State.makeAk
  repeat' (first | with_reducible assumption | with_reducible apply State.record_wf | dsimp only)

theorem State.unlock_wf (s : State) (b : Bytes) (hwf : Memory.wf s.mem = true) : Memory.wf (State.unlock s b).mem = true := by
  unfold State.unlock
  repeat' (first | with_reducible assumption | with_reducible apply State.refuseAuth_wf | with_reducible apply State.renewNonce_wf | with_reducible apply ite_wf | split | dsimp only)

theorem State.netCommand_wf (s : State) (slot input : Bytes) (hwf : Memory.wf s.mem = true) : Memory.wf (State.netCommand s slot input).mem = true := by
  unfold State.netCommand
  repeat' (first | with_reducible assumption | with_reducible apply State.dispatch_wf | with_reducible apply State.modCmd_wf | dsimp only)

theorem State.serve_wf (s : State) (r : Redfish) (hwf : Memory.wf s.mem = true) : Memory.wf (State.serve s r).mem = true := by
  unfold State.serve
  repeat' (first | with_reducible assumption | with_reducible apply State.netCommand_wf | with_reducible apply State.setField_wf | with_reducible apply State.setRole_wf | with_reducible apply State.unlock_wf | with_reducible apply ite_wf | split | dsimp only)

end Sys2Proof.Laws
end

