-- ==== Sys2Proof/Laws/CanonExec.lean ====
section
/-! SUPPORT. Each command leaves panel memory in canonical form. -/

namespace Sys2Proof.Laws

open Sys2Proof.Machine

set_option linter.unusedTactic false
set_option linter.unreachableTactic false
set_option linter.unusedVariables false

theorem answer_wf (s t u : State) (h : Memory.wf t.mem = true) (e : answer s t = .next u) : Memory.wf u.mem = true := by
  injection e with e
  subst e
  exact h

theorem execMatmul_wf (h e : Nat) (s : State) (t1 : State) (hwf : Memory.wf s.mem = true) (e : execMatmul h e s = .next t1) : Memory.wf t1.mem = true := by
  refine answer_wf _ _ _ ?_ e
  repeat' (first | with_reducible assumption | with_reducible apply State.matrixStep_wf | with_reducible apply onlyIf_wf | dsimp only | intro _)

theorem execLatch_wf (h e : Nat) (s : State) (t1 : State) (hwf : Memory.wf s.mem = true) (e : execLatch h e s = .next t1) : Memory.wf t1.mem = true := by
  refine answer_wf _ _ _ ?_ e
  repeat' (first | with_reducible assumption | with_reducible apply State.matrixStep_wf | with_reducible apply onlyIf_wf | dsimp only | intro _)

theorem execFlush_wf (h e : Nat) (s : State) (t1 : State) (hwf : Memory.wf s.mem = true) (e : execFlush h e s = .next t1) : Memory.wf t1.mem = true := by
  refine answer_wf _ _ _ ?_ e
  repeat' (first | with_reducible assumption | with_reducible apply State.matrixStep_wf | with_reducible apply onlyIf_wf | dsimp only | intro _)

theorem execBouquetMatmul_wf (h e : Nat) (s : State) (t1 : State) (hwf : Memory.wf s.mem = true) (e : execBouquetMatmul h e s = .next t1) : Memory.wf t1.mem = true := by
  refine answer_wf _ _ _ ?_ e
  repeat' (first | with_reducible assumption | with_reducible apply State.matrixStep_wf | with_reducible apply onlyIf_wf | dsimp only | intro _)

theorem execEngineDescriptorComplete_wf (h e : Nat) (s : State) (t1 : State) (hwf : Memory.wf s.mem = true) (e : execEngineDescriptorComplete h e s = .next t1) : Memory.wf t1.mem = true := by
  refine answer_wf _ _ _ ?_ e
  repeat' (first | with_reducible assumption | with_reducible apply State.drain_wf | with_reducible apply State.dropHead_wf | with_reducible apply State.setCore_wf | with_reducible apply ite_wf | split | dsimp only | intro _)

theorem execAdd_wf (h : Nat) (s : State) (t1 : State) (hwf : Memory.wf s.mem = true) (e : execAdd h s = .next t1) : Memory.wf t1.mem = true := by
  refine answer_wf _ _ _ ?_ e
  repeat' (first | with_reducible assumption | with_reducible apply State.vecRow_wf | dsimp only | intro _)

theorem execMul_wf (h : Nat) (s : State) (t1 : State) (hwf : Memory.wf s.mem = true) (e : execMul h s = .next t1) : Memory.wf t1.mem = true := by
  refine answer_wf _ _ _ ?_ e
  repeat' (first | with_reducible assumption | with_reducible apply State.vecRow_wf | dsimp only | intro _)

theorem execFma_wf (h : Nat) (s : State) (t1 : State) (hwf : Memory.wf s.mem = true) (e : execFma h s = .next t1) : Memory.wf t1.mem = true := by
  refine answer_wf _ _ _ ?_ e
  repeat' (first | with_reducible assumption | with_reducible apply State.vecRow_wf | dsimp only | intro _)

theorem execMax_wf (h : Nat) (s : State) (t1 : State) (hwf : Memory.wf s.mem = true) (e : execMax h s = .next t1) : Memory.wf t1.mem = true := by
  refine answer_wf _ _ _ ?_ e
  repeat' (first | with_reducible assumption | with_reducible apply State.vecRow_wf | dsimp only | intro _)

theorem execMin_wf (h : Nat) (s : State) (t1 : State) (hwf : Memory.wf s.mem = true) (e : execMin h s = .next t1) : Memory.wf t1.mem = true := by
  refine answer_wf _ _ _ ?_ e
  repeat' (first | with_reducible assumption | with_reducible apply State.vecRow_wf | dsimp only | intro _)

theorem execAffine_wf (h : Nat) (s : State) (t1 : State) (hwf : Memory.wf s.mem = true) (e : execAffine h s = .next t1) : Memory.wf t1.mem = true := by
  refine answer_wf _ _ _ ?_ e
  repeat' (first | with_reducible assumption | with_reducible apply State.vecRow_wf | dsimp only | intro _)

theorem execCast_wf (h : Nat) (s : State) (t1 : State) (hwf : Memory.wf s.mem = true) (e : execCast h s = .next t1) : Memory.wf t1.mem = true := by
  refine answer_wf _ _ _ ?_ e
  repeat' (first | with_reducible assumption | with_reducible apply State.vecRow_wf | dsimp only | intro _)

theorem execRmsnorm_wf (h : Nat) (s : State) (t1 : State) (hwf : Memory.wf s.mem = true) (e : execRmsnorm h s = .next t1) : Memory.wf t1.mem = true := by
  refine answer_wf _ _ _ ?_ e
  repeat' (first | with_reducible assumption | with_reducible apply State.vecRow_wf | dsimp only | intro _)

theorem execLayernorm_wf (h : Nat) (s : State) (t1 : State) (hwf : Memory.wf s.mem = true) (e : execLayernorm h s = .next t1) : Memory.wf t1.mem = true := by
  refine answer_wf _ _ _ ?_ e
  repeat' (first | with_reducible assumption | with_reducible apply State.vecRow_wf | dsimp only | intro _)

theorem execSiluMul_wf (h : Nat) (s : State) (t1 : State) (hwf : Memory.wf s.mem = true) (e : execSiluMul h s = .next t1) : Memory.wf t1.mem = true := by
  refine answer_wf _ _ _ ?_ e
  repeat' (first | with_reducible assumption | with_reducible apply State.vecRow_wf | dsimp only | intro _)

theorem execGelu_wf (h : Nat) (s : State) (t1 : State) (hwf : Memory.wf s.mem = true) (e : execGelu h s = .next t1) : Memory.wf t1.mem = true := by
  refine answer_wf _ _ _ ?_ e
  repeat' (first | with_reducible assumption | with_reducible apply State.vecRow_wf | dsimp only | intro _)

theorem execExp_wf (h : Nat) (s : State) (t1 : State) (hwf : Memory.wf s.mem = true) (e : execExp h s = .next t1) : Memory.wf t1.mem = true := by
  refine answer_wf _ _ _ ?_ e
  repeat' (first | with_reducible assumption | with_reducible apply State.vecRow_wf | dsimp only | intro _)

theorem execRecip_wf (h : Nat) (s : State) (t1 : State) (hwf : Memory.wf s.mem = true) (e : execRecip h s = .next t1) : Memory.wf t1.mem = true := by
  refine answer_wf _ _ _ ?_ e
  repeat' (first | with_reducible assumption | with_reducible apply State.vecRow_wf | dsimp only | intro _)

theorem execRsqrt_wf (h : Nat) (s : State) (t1 : State) (hwf : Memory.wf s.mem = true) (e : execRsqrt h s = .next t1) : Memory.wf t1.mem = true := by
  refine answer_wf _ _ _ ?_ e
  repeat' (first | with_reducible assumption | with_reducible apply State.vecRow_wf | dsimp only | intro _)

theorem execTanh_wf (h : Nat) (s : State) (t1 : State) (hwf : Memory.wf s.mem = true) (e : execTanh h s = .next t1) : Memory.wf t1.mem = true := by
  refine answer_wf _ _ _ ?_ e
  repeat' (first | with_reducible assumption | with_reducible apply State.vecRow_wf | dsimp only | intro _)

theorem execSigmoid_wf (h : Nat) (s : State) (t1 : State) (hwf : Memory.wf s.mem = true) (e : execSigmoid h s = .next t1) : Memory.wf t1.mem = true := by
  refine answer_wf _ _ _ ?_ e
  repeat' (first | with_reducible assumption | with_reducible apply State.vecRow_wf | dsimp only | intro _)

theorem execRope_wf (h : Nat) (s : State) (t1 : State) (hwf : Memory.wf s.mem = true) (e : execRope h s = .next t1) : Memory.wf t1.mem = true := by
  refine answer_wf _ _ _ ?_ e
  repeat' (first | with_reducible assumption | with_reducible apply State.vecRow_wf | dsimp only | intro _)

theorem execSum_wf (h : Nat) (s : State) (t1 : State) (hwf : Memory.wf s.mem = true) (e : execSum h s = .next t1) : Memory.wf t1.mem = true := by
  refine answer_wf _ _ _ ?_ e
  repeat' (first | with_reducible assumption | with_reducible apply State.vecRow_wf | dsimp only | intro _)

theorem execMaxred_wf (h : Nat) (s : State) (t1 : State) (hwf : Memory.wf s.mem = true) (e : execMaxred h s = .next t1) : Memory.wf t1.mem = true := by
  refine answer_wf _ _ _ ?_ e
  repeat' (first | with_reducible assumption | with_reducible apply State.vecRow_wf | dsimp only | intro _)

theorem execSmaxMerge_wf (h : Nat) (s : State) (t1 : State) (hwf : Memory.wf s.mem = true) (e : execSmaxMerge h s = .next t1) : Memory.wf t1.mem = true := by
  refine answer_wf _ _ _ ?_ e
  repeat' (first | with_reducible assumption | with_reducible apply State.vecRow_wf | dsimp only | intro _)

theorem execSmaxFinal_wf (h : Nat) (s : State) (t1 : State) (hwf : Memory.wf s.mem = true) (e : execSmaxFinal h s = .next t1) : Memory.wf t1.mem = true := by
  refine answer_wf _ _ _ ?_ e
  repeat' (first | with_reducible assumption | with_reducible apply State.vecRow_wf | dsimp only | intro _)

theorem execArgmax_wf (h : Nat) (s : State) (t1 : State) (hwf : Memory.wf s.mem = true) (e : execArgmax h s = .next t1) : Memory.wf t1.mem = true := by
  refine answer_wf _ _ _ ?_ e
  repeat' (first | with_reducible assumption | with_reducible apply State.vecRow_wf | dsimp only | intro _)

theorem execTopk_wf (h : Nat) (s : State) (t1 : State) (hwf : Memory.wf s.mem = true) (e : execTopk h s = .next t1) : Memory.wf t1.mem = true := by
  refine answer_wf _ _ _ ?_ e
  repeat' (first | with_reducible assumption | with_reducible apply State.vecRow_wf | dsimp only | intro _)

theorem execTopkMerge_wf (h : Nat) (s : State) (t1 : State) (hwf : Memory.wf s.mem = true) (e : execTopkMerge h s = .next t1) : Memory.wf t1.mem = true := by
  refine answer_wf _ _ _ ?_ e
  repeat' (first | with_reducible assumption | with_reducible apply State.vecRow_wf | dsimp only | intro _)

theorem execSample_wf (h : Nat) (s : State) (t1 : State) (hwf : Memory.wf s.mem = true) (e : execSample h s = .next t1) : Memory.wf t1.mem = true := by
  refine answer_wf _ _ _ ?_ e
  repeat' (first | with_reducible assumption | with_reducible apply State.vecRow_wf | dsimp only | intro _)

theorem execQTag_wf (h rd qi : Nat) (s : State) (t1 : State) (hwf : Memory.wf s.mem = true) (e : execQTag h rd qi s = .next t1) : Memory.wf t1.mem = true := by
  refine answer_wf _ _ _ ?_ e
  repeat' (first | with_reducible assumption | with_reducible apply onlyIf_wf | with_reducible apply State.runWait_wf | dsimp only | intro _)

theorem execQRdw_wf (h rd qi w : Nat) (s : State) (t1 : State) (hwf : Memory.wf s.mem = true) (e : execQRdw h rd qi w s = .next t1) : Memory.wf t1.mem = true := by
  refine answer_wf _ _ _ ?_ e
  repeat' (first | with_reducible assumption | with_reducible apply onlyIf_wf | with_reducible apply State.runWait_wf | dsimp only | intro _)

theorem execQPop_wf (h qi : Nat) (s : State) (t1 : State) (hwf : Memory.wf s.mem = true) (e : execQPop h qi s = .next t1) : Memory.wf t1.mem = true := by
  refine answer_wf _ _ _ ?_ e
  repeat' (first | with_reducible assumption | with_reducible apply onlyIf_wf | with_reducible apply State.runWait_wf | dsimp only | intro _)

theorem execQWrw_wf (h rs1 qo w : Nat) (s : State) (t1 : State) (hwf : Memory.wf s.mem = true) (e : execQWrw h rs1 qo w s = .next t1) : Memory.wf t1.mem = true := by
  refine answer_wf _ _ _ ?_ e
  repeat' (first | with_reducible assumption | with_reducible apply onlyIf_wf | with_reducible apply opWrw_wf | with_reducible apply State.runDone_wf | dsimp only | intro _)

theorem execQPush_wf (h rs1 qo : Nat) (s : State) (t1 : State) (hwf : Memory.wf s.mem = true) (e : execQPush h rs1 qo s = .next t1) : Memory.wf t1.mem = true := by
  refine answer_wf _ _ _ ?_ e
  repeat' (first | with_reducible assumption | with_reducible apply onlyIf_wf | with_reducible apply State.runWait_wf | dsimp only | intro _)

theorem execQFwd_wf (h qi qo : Nat) (s : State) (t1 : State) (hwf : Memory.wf s.mem = true) (e : execQFwd h qi qo s = .next t1) : Memory.wf t1.mem = true := by
  refine answer_wf _ _ _ ?_ e
  repeat' (first | with_reducible assumption | with_reducible apply onlyIf_wf | with_reducible apply State.runWait_wf | dsimp only | intro _)

theorem execQStat_wf (h rd q d : Nat) (s : State) (t1 : State) (hwf : Memory.wf s.mem = true) (e : execQStat h rd q d s = .next t1) : Memory.wf t1.mem = true := by
  refine answer_wf _ _ _ ?_ e
  repeat' (first | with_reducible assumption | with_reducible apply onlyIf_wf | with_reducible apply opStat_wf | with_reducible apply State.runDone_wf | dsimp only | intro _)

theorem execLcSet_wf (h qi n rs1 : Nat) (s : State) (t1 : State) (hwf : Memory.wf s.mem = true) (e : execLcSet h qi n rs1 s = .next t1) : Memory.wf t1.mem = true := by
  refine answer_wf _ _ _ ?_ e
  repeat' (first | with_reducible assumption | with_reducible apply onlyIf_wf | with_reducible apply opLcSet_wf | with_reducible apply State.runDone_wf | dsimp only | intro _)

theorem execLcRd_wf (h rd qi n : Nat) (s : State) (t1 : State) (hwf : Memory.wf s.mem = true) (e : execLcRd h rd qi n s = .next t1) : Memory.wf t1.mem = true := by
  refine answer_wf _ _ _ ?_ e
  repeat' (first | with_reducible assumption | with_reducible apply onlyIf_wf | with_reducible apply opLcRd_wf | with_reducible apply State.runDone_wf | dsimp only | intro _)

theorem execEIssue_wf (h e rs1 rs2 : Nat) (s : State) (t1 : State) (hwf : Memory.wf s.mem = true) (e : execEIssue h e rs1 rs2 s = .next t1) : Memory.wf t1.mem = true := by
  refine answer_wf _ _ _ ?_ e
  repeat' (first | with_reducible assumption | with_reducible apply onlyIf_wf | with_reducible apply State.runWait_wf | dsimp only | intro _)

theorem execEWait_wf (h : Nat) (m : BitVec 5) (s : State) (t1 : State) (hwf : Memory.wf s.mem = true) (e : execEWait h m s = .next t1) : Memory.wf t1.mem = true := by
  refine answer_wf _ _ _ ?_ e
  repeat' (first | with_reducible assumption | with_reducible apply onlyIf_wf | with_reducible apply State.runWait_wf | dsimp only | intro _)

theorem execEStat_wf (h rd : Nat) (s : State) (t1 : State) (hwf : Memory.wf s.mem = true) (e : execEStat h rd s = .next t1) : Memory.wf t1.mem = true := by
  refine answer_wf _ _ _ ?_ e
  repeat' (first | with_reducible assumption | with_reducible apply onlyIf_wf | with_reducible apply opEStat_wf | with_reducible apply State.runDone_wf | dsimp only | intro _)

theorem execPYield_wf (h : Nat) (s : State) (t1 : State) (hwf : Memory.wf s.mem = true) (e : execPYield h s = .next t1) : Memory.wf t1.mem = true := by
  refine answer_wf _ _ _ ?_ e
  repeat' (first | with_reducible assumption | with_reducible apply onlyIf_wf | with_reducible apply opYield_wf | dsimp only | intro _)

theorem execRnd_wf (h rd : Nat) (s : State) (t1 : State) (hwf : Memory.wf s.mem = true) (e : execRnd h rd s = .next t1) : Memory.wf t1.mem = true := by
  refine answer_wf _ _ _ ?_ e
  repeat' (first | with_reducible assumption | with_reducible apply onlyIf_wf | with_reducible apply opRnd_wf | with_reducible apply State.runDone_wf | dsimp only | intro _)

theorem execCoreWaitReleased_wf (h : Nat) (s : State) (t1 : State) (hwf : Memory.wf s.mem = true) (e : execCoreWaitReleased h s = .next t1) : Memory.wf t1.mem = true := by
  refine answer_wf _ _ _ ?_ e
  repeat' (first | with_reducible assumption | with_reducible apply onlyIf_wf | with_reducible apply State.runWait_wf | with_reducible apply ite_wf | split | dsimp only | intro _)

theorem execScalarInstruction_wf (h : Nat) (s : State) (t1 : State) (hwf : Memory.wf s.mem = true) (e : execScalarInstruction h s = .next t1) : Memory.wf t1.mem = true := by
  refine answer_wf _ _ _ ?_ e
  repeat' (first | with_reducible assumption | with_reducible apply onlyIf_wf | with_reducible apply State.scalarStep_wf | dsimp only | intro _)

theorem execScalarLoad_wf (h rd rs1 : Nat) (imm : BitVec 12) (size : Nat) (signed : Bool) (s : State) (t1 : State) (hwf : Memory.wf s.mem = true) (e : execScalarLoad h rd rs1 imm size signed s = .next t1) : Memory.wf t1.mem = true := by
  refine answer_wf _ _ _ ?_ e
  repeat' (first | with_reducible assumption | with_reducible apply State.doLoad_wf | with_reducible apply onlyIf_wf | dsimp only | intro _)

theorem execScalarStore_wf (h rs1 rs2 : Nat) (imm : BitVec 12) (size : Nat) (s : State) (t1 : State) (hwf : Memory.wf s.mem = true) (e : execScalarStore h rs1 rs2 imm size s = .next t1) : Memory.wf t1.mem = true := by
  refine answer_wf _ _ _ ?_ e
  repeat' (first | with_reducible assumption | with_reducible apply State.doStore_wf | with_reducible apply onlyIf_wf | dsimp only | intro _)

theorem execCsrAccess_wf (h : Nat) (f3 : BitVec 3) (rd rs1 : Nat) (csr : BitVec 12) (s : State) (t1 : State) (hwf : Memory.wf s.mem = true) (e : execCsrAccess h f3 rd rs1 csr s = .next t1) : Memory.wf t1.mem = true := by
  refine answer_wf _ _ _ ?_ e
  repeat' (first | with_reducible assumption | with_reducible apply State.doCsr_wf | with_reducible apply State.halt_wf | with_reducible apply onlyIf_wf | with_reducible apply ite_wf | split | dsimp only | intro _)

theorem execRngSeedWrite_wf (h : Nat) (v : Word) (s : State) (t1 : State) (hwf : Memory.wf s.mem = true) (e : execRngSeedWrite h v s = .next t1) : Memory.wf t1.mem = true := by
  refine answer_wf _ _ _ ?_ e
  repeat' (first | with_reducible assumption | with_reducible apply onlyIf_wf | with_reducible apply State.reseed_wf | dsimp only | intro _)

theorem execShadowCheck_wf (c spare : Nat) (s : State) (t1 : State) (hwf : Memory.wf s.mem = true) (e : execShadowCheck c spare s = .next t1) : Memory.wf t1.mem = true := by
  refine answer_wf _ _ _ ?_ e
  repeat' (first | with_reducible assumption | with_reducible apply State.count_wf | with_reducible apply State.count64_wf | with_reducible apply State.setPhys_wf | with_reducible apply State.settleMismatch_wf | with_reducible apply ite_wf | split | dsimp only | intro _)

theorem execShadowTiebreak_wf (c spare : Nat) (s : State) (t1 : State) (hwf : Memory.wf s.mem = true) (e : execShadowTiebreak c spare s = .next t1) : Memory.wf t1.mem = true := by
  refine answer_wf _ _ _ ?_ e
  repeat' (first | with_reducible assumption | with_reducible apply State.setPhys_wf | with_reducible apply State.settleMismatch_wf | with_reducible apply ite_wf | split | dsimp only | intro _)

theorem execControlStateParityError_wf (hart : Nat) (s : State) (t1 : State) (hwf : Memory.wf s.mem = true) (e : execControlStateParityError hart s = .next t1) : Memory.wf t1.mem = true := by
  refine answer_wf _ _ _ ?_ e
  repeat' (first | with_reducible assumption | with_reducible apply State.coreFault_wf | dsimp only | intro _)

theorem execHeartbeatLoss_wf (hart : Nat) (s : State) (t1 : State) (hwf : Memory.wf s.mem = true) (e : execHeartbeatLoss hart s = .next t1) : Memory.wf t1.mem = true := by
  refine answer_wf _ _ _ ?_ e
  repeat' (first | with_reducible assumption | with_reducible apply State.coreFault_wf | with_reducible apply onlyIf_wf | dsimp only | intro _)

theorem execShadowBlameReplace_wf (cluster phys : Nat) (s : State) (t1 : State) (hwf : Memory.wf s.mem = true) (e : execShadowBlameReplace cluster phys s = .next t1) : Memory.wf t1.mem = true := by
  refine answer_wf _ _ _ ?_ e
  repeat' (first | with_reducible assumption | with_reducible apply State.coreFault_wf | with_reducible apply State.dropTiles_wf | with_reducible apply State.retireCore_wf | with_reducible apply ite_wf | split | dsimp only | intro _)

theorem execSecdedUncorrectable_wf (cluster core : Nat) (which : Secded) (index : Nat) (s : State) (t1 : State) (hwf : Memory.wf s.mem = true) (e : execSecdedUncorrectable cluster core which index s = .next t1) : Memory.wf t1.mem = true := by
  refine answer_wf _ _ _ ?_ e
  repeat' (first | with_reducible assumption | with_reducible apply State.coreFault_wf | with_reducible apply State.endpointError_wf | with_reducible apply State.exitError_wf | with_reducible apply State.invalidateCache_wf | with_reducible apply onlyIf_wf | with_reducible apply State.pageError_wf | with_reducible apply State.remapError_wf | with_reducible apply State.replayDue_wf | with_reducible apply State.reportUe_wf | with_reducible apply State.routeError_wf | with_reducible apply State.setClu_wf | with_reducible apply State.slotError_wf | with_reducible apply ite_wf | split | dsimp only | intro _)

theorem execSecdedCorrectable_wf (cluster core : Nat) (which : Secded) (s : State) (t1 : State) (hwf : Memory.wf s.mem = true) (e : execSecdedCorrectable cluster core which s = .next t1) : Memory.wf t1.mem = true := by
  refine answer_wf _ _ _ ?_ e
  repeat' (first | with_reducible assumption | with_reducible apply State.count_wf | with_reducible apply State.noteCorrected_wf | with_reducible apply onlyIf_wf | with_reducible apply ite_wf | split | dsimp only | intro _)

theorem execPartitionFrozen_wf (p : Nat) (s : State) (t1 : State) (hwf : Memory.wf s.mem = true) (e : execPartitionFrozen p s = .next t1) : Memory.wf t1.mem = true := by
  refine answer_wf _ _ _ ?_ e
  repeat' (first | with_reducible assumption | with_reducible apply State.modPart_wf | with_reducible apply ite_wf | split | dsimp only | intro _)

theorem execStandIn_wf (cluster core : Nat) (s : State) (t1 : State) (hwf : Memory.wf s.mem = true) (e : execStandIn cluster core s = .next t1) : Memory.wf t1.mem = true := by
  refine answer_wf _ _ _ ?_ e
  repeat' (first | with_reducible assumption | with_reducible apply State.atStage_wf | with_reducible apply State.modPart_wf | with_reducible apply State.takeSpare_wf | with_reducible apply ite_wf | split | dsimp only | intro _)

theorem execStandInPetalsRestored_wf (cluster core : Nat) (s : State) (t1 : State) (hwf : Memory.wf s.mem = true) (e : execStandInPetalsRestored cluster core s = .next t1) : Memory.wf t1.mem = true := by
  refine answer_wf _ _ _ ?_ e
  repeat' (first | with_reducible assumption | with_reducible apply State.atStage_wf | with_reducible apply State.modPart_wf | with_reducible apply State.setCore_wf | with_reducible apply wf_filter | with_reducible apply ite_wf | split | dsimp only | intro _)

theorem execStandInNearStoreRestored_wf (cluster core : Nat) (answers : Bool) (s : State) (t1 : State) (hwf : Memory.wf s.mem = true) (e : execStandInNearStoreRestored cluster core answers s = .next t1) : Memory.wf t1.mem = true := by
  refine answer_wf _ _ _ ?_ e
  repeat' (first | with_reducible assumption | with_reducible apply State.atStage_wf | with_reducible apply State.loadData_wf | with_reducible apply State.modPart_wf | with_reducible apply State.ownMove_wf | with_reducible apply State.scramble_wf | with_reducible apply State.setPhys_wf | with_reducible apply ite_wf | split | dsimp only | intro _)

theorem execReplayRelease_wf (p : Nat) (s : State) (t1 : State) (hwf : Memory.wf s.mem = true) (e : execReplayRelease p s = .next t1) : Memory.wf t1.mem = true := by
  refine answer_wf _ _ _ ?_ e
  repeat' (first | with_reducible assumption | with_reducible apply State.modPart_wf | with_reducible apply State.repairRecords_wf | with_reducible apply State.replay_wf | with_reducible apply ite_wf | split | dsimp only | intro _)

theorem execRotation_wf (cluster core spare : Nat) (s : State) (t1 : State) (hwf : Memory.wf s.mem = true) (e : execRotation cluster core spare s = .next t1) : Memory.wf t1.mem = true := by
  refine answer_wf _ _ _ ?_ e
  repeat' (first | with_reducible assumption | with_reducible apply State.modPart_wf | with_reducible apply State.rotateOnto_wf | with_reducible apply ite_wf | split | dsimp only | intro _)

theorem execTokenArrival_wf (src : ArrivalSrc) (s : State) (t1 : State) (hwf : Memory.wf s.mem = true) (e : execTokenArrival src s = .next t1) : Memory.wf t1.mem = true := by
  refine answer_wf _ _ _ ?_ e
  repeat' (first | with_reducible assumption | with_reducible apply State.moveRecord_wf | with_reducible apply onlyIf_wf | with_reducible apply State.outArrive_wf | with_reducible apply State.record_wf | with_reducible apply State.steerArrive_wf | with_reducible apply ite_wf | split | dsimp only | intro _)

theorem execBoundaryPortAdmit_wf (p i : Nat) (s : State) (t1 : State) (hwf : Memory.wf s.mem = true) (e : execBoundaryPortAdmit p i s = .next t1) : Memory.wf t1.mem = true := by
  refine answer_wf _ _ _ ?_ e
  repeat' (first | with_reducible assumption | with_reducible apply onlyIf_wf | with_reducible apply State.portStep_wf | with_reducible apply ite_wf | split | dsimp only | intro _)

theorem execEpochHoldExpiry_wf (p i : Nat) (s : State) (t1 : State) (hwf : Memory.wf s.mem = true) (e : execEpochHoldExpiry p i s = .next t1) : Memory.wf t1.mem = true := by
  refine answer_wf _ _ _ ?_ e
  repeat' (first | with_reducible assumption | with_reducible apply State.count_wf | with_reducible apply State.record_wf | with_reducible apply State.setInbound_wf | with_reducible apply ite_wf | split | dsimp only | intro _)

theorem execCreditReturn_wf (h qo : Nat) (s : State) (t1 : State) (hwf : Memory.wf s.mem = true) (e : execCreditReturn h qo s = .next t1) : Memory.wf t1.mem = true := by
  refine answer_wf _ _ _ ?_ e
  repeat' (first | with_reducible assumption | with_reducible apply State.setCore_wf | with_reducible apply ite_wf | split | dsimp only | intro _)

theorem execPacketFormed_wf (h qo : Nat) (s : State) (t1 : State) (hwf : Memory.wf s.mem = true) (e : execPacketFormed h qo s = .next t1) : Memory.wf t1.mem = true := by
  refine answer_wf _ _ _ ?_ e
  repeat' (first | with_reducible assumption | with_reducible apply State.formPacket_wf | with_reducible apply onlyIf_wf | with_reducible apply ite_wf | split | dsimp only | intro _)

theorem execPacketWaitTimeout_wf (h qo : Nat) (s : State) (t1 : State) (hwf : Memory.wf s.mem = true) (e : execPacketWaitTimeout h qo s = .next t1) : Memory.wf t1.mem = true := by
  refine answer_wf _ _ _ ?_ e
  repeat' (first | with_reducible assumption | with_reducible apply State.formPacket_wf | with_reducible apply onlyIf_wf | with_reducible apply ite_wf | split | dsimp only | intro _)

theorem execSteerRoute_wf (c u : Nat) (s : State) (t1 : State) (hwf : Memory.wf s.mem = true) (e : execSteerRoute c u s = .next t1) : Memory.wf t1.mem = true := by
  refine answer_wf _ _ _ ?_ e
  repeat' (first | with_reducible assumption | with_reducible apply State.count_wf | with_reducible apply State.setClu_wf | with_reducible apply State.stir_wf | (with_reducible refine foldl_wf _ (fun s x h => ?_) _ _ ?_) | (with_reducible refine foldl_fst_wf _ (fun r x h => ?_) _ _ ?_) | with_reducible apply ite_wf | split | dsimp only | intro _)

theorem execMergeArrival_wf (c u : Nat) (s : State) (t1 : State) (hwf : Memory.wf s.mem = true) (e : execMergeArrival c u s = .next t1) : Memory.wf t1.mem = true := by
  refine answer_wf _ _ _ ?_ e
  repeat' (first | with_reducible assumption | with_reducible apply State.setClu_wf | with_reducible apply State.stir_wf | with_reducible apply ite_wf | split | dsimp only | intro _)

theorem execMergeOrdered_wf (c u : Nat) (s : State) (t1 : State) (hwf : Memory.wf s.mem = true) (e : execMergeOrdered c u s = .next t1) : Memory.wf t1.mem = true := by
  refine answer_wf _ _ _ ?_ e
  repeat' (first | with_reducible assumption | with_reducible apply State.count_wf | with_reducible apply State.setClu_wf | with_reducible apply State.stir_wf | with_reducible apply ite_wf | split | dsimp only | intro _)

theorem execRegionStall_wf (rn : Nat) (s : State) (t1 : State) (hwf : Memory.wf s.mem = true) (e : execRegionStall rn s = .next t1) : Memory.wf t1.mem = true := by
  refine answer_wf _ _ _ ?_ e
  repeat' (first | with_reducible assumption | with_reducible apply State.clearStep_wf | with_reducible apply State.count_wf | with_reducible apply State.dropActivation_wf | with_reducible apply State.endStep_wf | with_reducible apply State.modRegion_wf | with_reducible apply State.record_wf | (with_reducible refine foldl_wf _ (fun s x h => ?_) _ _ ?_) | with_reducible apply ite_wf | split | dsimp only | intro _)

theorem execStepRelease_wf (p : Nat) (s : State) (t1 : State) (hwf : Memory.wf s.mem = true) (e : execStepRelease p s = .next t1) : Memory.wf t1.mem = true := by
  refine answer_wf _ _ _ ?_ e
  repeat' (first | with_reducible assumption | with_reducible apply onlyIf_wf | with_reducible apply State.promote_wf | with_reducible apply State.release_wf | with_reducible apply State.repairRecords_wf | with_reducible apply ite_wf | split | dsimp only | intro _)

theorem execStepEnd_wf (p : Nat) (s : State) (t1 : State) (hwf : Memory.wf s.mem = true) (e : execStepEnd p s = .next t1) : Memory.wf t1.mem = true := by
  refine answer_wf _ _ _ ?_ e
  repeat' (first | with_reducible assumption | with_reducible apply State.endStep_wf | with_reducible apply State.setRegion_wf | with_reducible apply State.stopCluster_wf | (with_reducible refine foldl_wf _ (fun s x h => ?_) _ _ ?_) | (with_reducible refine foldl_fst_wf _ (fun r x h => ?_) _ _ ?_) | with_reducible apply ite_wf | split | dsimp only | intro _)

theorem execNoticeDeferTimeout_wf (p : Nat) (s : State) (t1 : State) (hwf : Memory.wf s.mem = true) (e : execNoticeDeferTimeout p s = .next t1) : Memory.wf t1.mem = true := by
  refine answer_wf _ _ _ ?_ e
  repeat' (first | with_reducible assumption | with_reducible apply onlyIf_wf | with_reducible apply State.stepNotices_wf | with_reducible apply ite_wf | split | dsimp only | intro _)

theorem execFoldAdvance_wf (c : Nat) (s : State) (t1 : State) (hwf : Memory.wf s.mem = true) (e : execFoldAdvance c s = .next t1) : Memory.wf t1.mem = true := by
  refine answer_wf _ _ _ ?_ e
  repeat' (first | with_reducible assumption | with_reducible apply State.enterFold_wf | with_reducible apply State.setClu_wf | with_reducible apply ite_wf | split | dsimp only | intro _)

theorem execPetalSwitch_wf (h : Nat) (s : State) (t1 : State) (hwf : Memory.wf s.mem = true) (e : execPetalSwitch h s = .next t1) : Memory.wf t1.mem = true := by
  refine answer_wf _ _ _ ?_ e
  repeat' (first | with_reducible assumption | with_reducible apply State.resume_wf | with_reducible apply State.runPetal_wf | (with_reducible refine foldl_wf _ (fun s x h => ?_) _ _ ?_) | with_reducible apply ite_wf | split | dsimp only | intro _)

theorem execQsampSample_wf (c : Nat) (s : State) (t1 : State) (hwf : Memory.wf s.mem = true) (e : execQsampSample c s = .next t1) : Memory.wf t1.mem = true := by
  refine answer_wf _ _ _ ?_ e
  repeat' (first | with_reducible assumption | with_reducible apply State.draw_wf | with_reducible apply State.poke_wf | with_reducible apply State.setReg_wf | with_reducible apply State.wroteStack_wf | with_reducible apply ite_wf | split | dsimp only | intro _)

theorem execImageLoad_wf (id : Nat) (io : HostIo) (s : State) (t1 : State) (hwf : Memory.wf s.mem = true) (e : execImageLoad id io s = .next t1) : Memory.wf t1.mem = true := by
  refine answer_wf _ _ _ ?_ e
  repeat' (first | with_reducible assumption | with_reducible apply State.fail_wf | with_reducible apply State.finish_wf | with_reducible apply State.installStaged_wf | with_reducible apply State.runCmd_wf | with_reducible apply State.setRegion_wf | with_reducible apply State.stageImage_wf | with_reducible apply State.withHost_wf | with_reducible apply State.writeBackup_wf | (with_reducible refine foldl_wf _ (fun s x h => ?_) _ _ ?_) | with_reducible apply ite_wf | split | dsimp only | intro _)

theorem execImageActivate_wf (id : Nat) (io : HostIo) (s : State) (t1 : State) (hwf : Memory.wf s.mem = true) (e : execImageActivate id io s = .next t1) : Memory.wf t1.mem = true := by
  refine answer_wf _ _ _ ?_ e
  repeat' (first | with_reducible assumption | with_reducible apply State.fail_wf | with_reducible apply State.requestWake_wf | with_reducible apply State.runCmd_wf | with_reducible apply State.settleActivation_wf | with_reducible apply State.startActivation_wf | with_reducible apply State.withHost_wf | (with_reducible refine foldl_wf _ (fun s x h => ?_) _ _ ?_) | with_reducible apply ite_wf | split | dsimp only | intro _)

theorem execActivationDrainComplete_wf (rn : Nat) (s : State) (t1 : State) (hwf : Memory.wf s.mem = true) (e : execActivationDrainComplete rn s = .next t1) : Memory.wf t1.mem = true := by
  refine answer_wf _ _ _ ?_ e
  repeat' (first | with_reducible assumption | with_reducible apply State.setRegion_wf | with_reducible apply State.stopCluster_wf | (with_reducible refine foldl_wf _ (fun s x h => ?_) _ _ ?_) | with_reducible apply ite_wf | split | dsimp only | intro _)

theorem execActivationLoadComplete_wf (rn : Nat) (s : State) (t1 : State) (hwf : Memory.wf s.mem = true) (e : execActivationLoadComplete rn s = .next t1) : Memory.wf t1.mem = true := by
  refine answer_wf _ _ _ ?_ e
  repeat' (first | with_reducible assumption | with_reducible apply State.advanceEpoch_wf | with_reducible apply State.dropActivation_wf | with_reducible apply State.loadRegion_wf | with_reducible apply State.modPart_wf | with_reducible apply State.modRegion_wf | with_reducible apply State.rebaseRegion_wf | with_reducible apply State.setPorts_wf | with_reducible apply State.settleActivation_wf | with_reducible apply ite_wf | split | dsimp only | intro _)

theorem execActivationDrainTimeout_wf (rn : Nat) (s : State) (t1 : State) (hwf : Memory.wf s.mem = true) (e : execActivationDrainTimeout rn s = .next t1) : Memory.wf t1.mem = true := by
  refine answer_wf _ _ _ ?_ e
  repeat' (first | with_reducible assumption | with_reducible apply State.dropActivation_wf | with_reducible apply ite_wf | split | dsimp only | intro _)

theorem execEpochRateWaitEnd_wf (rn : Nat) (s : State) (t1 : State) (hwf : Memory.wf s.mem = true) (e : execEpochRateWaitEnd rn s = .next t1) : Memory.wf t1.mem = true := by
  refine answer_wf _ _ _ ?_ e
  repeat' (first | with_reducible assumption | with_reducible apply State.advanceAll_wf | with_reducible apply State.freezeDone_wf | with_reducible apply State.modPart_wf | with_reducible apply State.replay_wf | with_reducible apply State.startActivation_wf | with_reducible apply ite_wf | split | dsimp only | intro _)

theorem execBmDescriptorEnqueue_wf (hart qo : Nat) (s : State) (t1 : State) (hwf : Memory.wf s.mem = true) (e : execBmDescriptorEnqueue hart qo s = .next t1) : Memory.wf t1.mem = true := by
  refine answer_wf _ _ _ ?_ e
  repeat' (first | with_reducible assumption | with_reducible apply State.count_wf | with_reducible apply State.setClu_wf | with_reducible apply State.setCore_wf | with_reducible apply ite_wf | split | dsimp only | intro _)

theorem execCopy_wf (cluster ch : Nat) (s : State) (t1 : State) (hwf : Memory.wf s.mem = true) (e : execCopy cluster ch s = .next t1) : Memory.wf t1.mem = true := by
  refine answer_wf _ _ _ ?_ e
  repeat' (first | with_reducible assumption | with_reducible apply State.bmCopy_wf | with_reducible apply State.bmStart_wf | dsimp only | intro _)

theorem execFill_wf (cluster ch : Nat) (s : State) (t1 : State) (hwf : Memory.wf s.mem = true) (e : execFill cluster ch s = .next t1) : Memory.wf t1.mem = true := by
  refine answer_wf _ _ _ ?_ e
  repeat' (first | with_reducible assumption | with_reducible apply State.bmStart_wf | with_reducible apply State.bmStoreAll_wf | with_reducible apply State.modRun_wf | (with_reducible refine foldl_wf _ (fun s x h => ?_) _ _ ?_) | with_reducible apply ite_wf | split | dsimp only | intro _)

theorem execCrc32_wf (cluster ch : Nat) (s : State) (t1 : State) (hwf : Memory.wf s.mem = true) (e : execCrc32 cluster ch s = .next t1) : Memory.wf t1.mem = true := by
  refine answer_wf _ _ _ ?_ e
  repeat' (first | with_reducible assumption | with_reducible apply State.bmCrcOut_wf | with_reducible apply State.bmLoadAll_wf | with_reducible apply State.bmStart_wf | with_reducible apply State.modRun_wf | (with_reducible refine foldl_wf _ (fun s x h => ?_) _ _ ?_) | (with_reducible refine foldl_fst_wf _ (fun r x h => ?_) _ _ ?_) | with_reducible apply ite_wf | split | dsimp only | intro _)

theorem execInvalidate_wf (cluster ch : Nat) (s : State) (t1 : State) (hwf : Memory.wf s.mem = true) (e : execInvalidate cluster ch s = .next t1) : Memory.wf t1.mem = true := by
  refine answer_wf _ _ _ ?_ e
  repeat' (first | with_reducible assumption | with_reducible apply State.bmStart_wf | with_reducible apply State.cacheDrop_wf | (with_reducible refine foldl_wf _ (fun s x h => ?_) _ _ ?_) | (with_reducible refine foldl_fst_wf _ (fun r x h => ?_) _ _ ?_) | with_reducible apply ite_wf | split | dsimp only | intro _)

theorem execContribDescriptor_wf (cluster ch : Nat) (s : State) (t1 : State) (hwf : Memory.wf s.mem = true) (e : execContribDescriptor cluster ch s = .next t1) : Memory.wf t1.mem = true := by
  refine answer_wf _ _ _ ?_ e
  repeat' (first | with_reducible assumption | with_reducible apply State.bmStart_wf | with_reducible apply State.modRun_wf | dsimp only | intro _)

theorem execBmCompletion_wf (cluster ch : Nat) (s : State) (t1 : State) (hwf : Memory.wf s.mem = true) (e : execBmCompletion cluster ch s = .next t1) : Memory.wf t1.mem = true := by
  refine answer_wf _ _ _ ?_ e
  repeat' (first | with_reducible assumption | with_reducible apply State.bmComplete_wf | with_reducible apply State.count_wf | with_reducible apply State.setClu_wf | with_reducible apply ite_wf | split | dsimp only | intro _)

theorem auditTo_wf (s : State) (q : Part) (c : Prop) [Decidable c] (hwf : Memory.wf s.mem = true) :
    Memory.wf (if c then (s.auditPass q).countLateAudit q.clusters else s.auditPass q).mem = true := by
  have h1 := State.auditPass_wf s q hwf
  exact ite_wf _ _ (State.countLateAudit_wf _ _ h1) h1

theorem execResidentAudit_wf (p : Nat) (s : State) (t1 : State) (hwf : Memory.wf s.mem = true) (e : execResidentAudit p s = .next t1) : Memory.wf t1.mem = true := by
  refine answer_wf _ _ _ ?_ e
  split
  · exact hwf
  · rename_i q hq
    have h1 := auditTo_wf s q ((q.nextAudit s.now).2 = true) hwf
    exact ite_wf _ _ hwf (State.modPart_wf _ _ _ h1)

theorem execAuditMismatch_wf (p record : Nat) (s : State) (t1 : State) (hwf : Memory.wf s.mem = true) (e : execAuditMismatch p record s = .next t1) : Memory.wf t1.mem = true := by
  refine answer_wf _ _ _ ?_ e
  repeat' (first | with_reducible assumption | with_reducible apply State.mismatch_wf | with_reducible apply State.record_wf | with_reducible apply ite_wf | split | dsimp only | intro _)

theorem execCollSegmentTimeout_wf (die engine ctx slot : Nat) (s : State) (t1 : State) (hwf : Memory.wf s.mem = true) (e : execCollSegmentTimeout die engine ctx slot s = .next t1) : Memory.wf t1.mem = true := by
  refine answer_wf _ _ _ ?_ e
  repeat' (first | with_reducible assumption | with_reducible apply State.collPump_wf | with_reducible apply State.count_wf | with_reducible apply State.fenceCtx_wf | with_reducible apply State.setCtx_wf | with_reducible apply ite_wf | split | dsimp only | intro _)

theorem execWrite_wf (p : Packet) (s : State) (t1 : State) (hwf : Memory.wf s.mem = true) (e : execWrite p s = .next t1) : Memory.wf t1.mem = true := by
  refine answer_wf _ _ _ ?_ e
  repeat' (first | with_reducible assumption | with_reducible apply State.forOp_wf | with_reducible apply State.requestIn_wf | dsimp only | intro _)

theorem execRead_wf (p : Packet) (s : State) (t1 : State) (hwf : Memory.wf s.mem = true) (e : execRead p s = .next t1) : Memory.wf t1.mem = true := by
  refine answer_wf _ _ _ ?_ e
  repeat' (first | with_reducible assumption | with_reducible apply State.forOp_wf | with_reducible apply State.requestIn_wf | dsimp only | intro _)

theorem execMgmt_wf (p : Packet) (s : State) (t1 : State) (hwf : Memory.wf s.mem = true) (e : execMgmt p s = .next t1) : Memory.wf t1.mem = true := by
  refine answer_wf _ _ _ ?_ e
  repeat' (first | with_reducible assumption | with_reducible apply State.forOp_wf | with_reducible apply State.requestIn_wf | dsimp only | intro _)

theorem execTokens_wf (p : Packet) (s : State) (t1 : State) (hwf : Memory.wf s.mem = true) (e : execTokens p s = .next t1) : Memory.wf t1.mem = true := by
  refine answer_wf _ _ _ ?_ e
  repeat' (first | with_reducible assumption | with_reducible apply State.forOp_wf | with_reducible apply State.requestIn_wf | dsimp only | intro _)

theorem execRelay_wf (p : Packet) (s : State) (t1 : State) (hwf : Memory.wf s.mem = true) (e : execRelay p s = .next t1) : Memory.wf t1.mem = true := by
  refine answer_wf _ _ _ ?_ e
  repeat' (first | with_reducible assumption | with_reducible apply State.forOp_wf | with_reducible apply State.requestIn_wf | dsimp only | intro _)

theorem execAck_wf (p : Packet) (s : State) (t1 : State) (hwf : Memory.wf s.mem = true) (e : execAck p s = .next t1) : Memory.wf t1.mem = true := by
  refine answer_wf _ _ _ ?_ e
  repeat' (first | with_reducible assumption | with_reducible apply State.acked_wf | with_reducible apply State.forOp_wf | with_reducible apply State.replyIn_wf | (with_reducible refine foldl_wf _ (fun s x h => ?_) _ _ ?_) | with_reducible apply ite_wf | split | dsimp only | intro _)

theorem execNack_wf (p : Packet) (s : State) (t1 : State) (hwf : Memory.wf s.mem = true) (e : execNack p s = .next t1) : Memory.wf t1.mem = true := by
  refine answer_wf _ _ _ ?_ e
  repeat' (first | with_reducible assumption | with_reducible apply State.forOp_wf | with_reducible apply State.nacked_wf | with_reducible apply State.replyIn_wf | with_reducible apply ite_wf | split | dsimp only | intro _)

theorem execReadData_wf (p : Packet) (s : State) (t1 : State) (hwf : Memory.wf s.mem = true) (e : execReadData p s = .next t1) : Memory.wf t1.mem = true := by
  refine answer_wf _ _ _ ?_ e
  repeat' (first | with_reducible assumption | with_reducible apply State.cachePut_wf | with_reducible apply State.forOp_wf | with_reducible apply State.glerynData_wf | with_reducible apply State.modRun_wf | with_reducible apply State.replyIn_wf | with_reducible apply State.settle_wf | with_reducible apply ite_wf | split | dsimp only | intro _)

theorem execCredit_wf (p : Packet) (s : State) (t1 : State) (hwf : Memory.wf s.mem = true) (e : execCredit p s = .next t1) : Memory.wf t1.mem = true := by
  refine answer_wf _ _ _ ?_ e
  repeat' (first | with_reducible assumption | with_reducible apply State.forOp_wf | with_reducible apply State.replyIn_wf | with_reducible apply State.sendWaiting_wf | with_reducible apply State.setClu_wf | with_reducible apply State.setCore_wf | (with_reducible refine foldl_wf _ (fun s x h => ?_) _ _ ?_) | (with_reducible refine foldl_fst_wf _ (fun r x h => ?_) _ _ ?_) | with_reducible apply ite_wf | split | dsimp only | intro _)

theorem execMcCount_wf (p : Packet) (s : State) (t1 : State) (hwf : Memory.wf s.mem = true) (e : execMcCount p s = .next t1) : Memory.wf t1.mem = true := by
  refine answer_wf _ _ _ ?_ e
  repeat' (first | with_reducible assumption | with_reducible apply State.forOp_wf | with_reducible apply State.replyIn_wf | with_reducible apply State.setSend_wf | with_reducible apply State.settle_wf | (with_reducible refine foldl_wf _ (fun s x h => ?_) _ _ ?_) | with_reducible apply ite_wf | split | dsimp only | intro _)

theorem execContrib_wf (p : Packet) (s : State) (t1 : State) (hwf : Memory.wf s.mem = true) (e : execContrib p s = .next t1) : Memory.wf t1.mem = true := by
  refine answer_wf _ _ _ ?_ e
  repeat' (first | with_reducible assumption | with_reducible apply State.arrives_wf | with_reducible apply State.contribIn_wf | with_reducible apply State.forOp_wf | with_reducible apply State.launch_wf | with_reducible apply ite_wf | split | dsimp only | intro _)

theorem execResult_wf (p : Packet) (s : State) (t1 : State) (hwf : Memory.wf s.mem = true) (e : execResult p s = .next t1) : Memory.wf t1.mem = true := by
  refine answer_wf _ _ _ ?_ e
  repeat' (first | with_reducible assumption | with_reducible apply State.arrives_wf | with_reducible apply State.contribIn_wf | with_reducible apply State.forOp_wf | with_reducible apply State.requestIn_wf | with_reducible apply ite_wf | split | dsimp only | intro _)

theorem execCollAck_wf (p : Packet) (s : State) (t1 : State) (hwf : Memory.wf s.mem = true) (e : execCollAck p s = .next t1) : Memory.wf t1.mem = true := by
  refine answer_wf _ _ _ ?_ e
  repeat' (first | with_reducible assumption | with_reducible apply State.acked_wf | with_reducible apply State.forOp_wf | with_reducible apply State.nacked_wf | with_reducible apply State.replyIn_wf | with_reducible apply ite_wf | split | dsimp only | intro _)

theorem execResendTimeout_wf (f : FlowKey) (seq : BitVec 16) (s : State) (t1 : State) (hwf : Memory.wf s.mem = true) (e : execResendTimeout f seq s = .next t1) : Memory.wf t1.mem = true := by
  refine answer_wf _ _ _ ?_ e
  repeat' (first | with_reducible assumption | with_reducible apply State.resend_wf | with_reducible apply State.settle_wf | with_reducible apply ite_wf | split | dsimp only | intro _)

theorem execMcastNackWaitEnd_wf (f : FlowKey) (s : State) (t1 : State) (hwf : Memory.wf s.mem = true) (e : execMcastNackWaitEnd f s = .next t1) : Memory.wf t1.mem = true := by
  refine answer_wf _ _ _ ?_ e
  repeat' (first | with_reducible assumption | with_reducible apply State.settle_wf | (with_reducible refine foldl_wf _ (fun s x h => ?_) _ _ ?_) | with_reducible apply ite_wf | split | dsimp only | intro _)

theorem execFlowExpiry_wf (f : FlowKey) (sending : Bool) (s : State) (t1 : State) (hwf : Memory.wf s.mem = true) (e : execFlowExpiry f sending s = .next t1) : Memory.wf t1.mem = true := by
  refine answer_wf _ _ _ ?_ e
  repeat' (first | with_reducible assumption | with_reducible apply State.store_wf | with_reducible apply ite_wf | split | dsimp only | intro _)

theorem execEndpointCreditTimer_wf (eid : BitVec 24) (s : State) (t1 : State) (hwf : Memory.wf s.mem = true) (e : execEndpointCreditTimer eid s = .next t1) : Memory.wf t1.mem = true := by
  refine answer_wf _ _ _ ?_ e
  repeat' (first | with_reducible assumption | with_reducible apply State.launch_wf | with_reducible apply State.setInbound_wf | with_reducible apply ite_wf | split | dsimp only | intro _)

theorem execPacketSend_wf (cluster : Nat) (s : State) (t1 : State) (hwf : Memory.wf s.mem = true) (e : execPacketSend cluster s = .next t1) : Memory.wf t1.mem = true := by
  refine answer_wf _ _ _ ?_ e
  repeat' (first | with_reducible assumption | with_reducible apply State.launch_wf | with_reducible apply State.sendOn_wf | with_reducible apply State.sendWaiting_wf | with_reducible apply State.setClu_wf | with_reducible apply ite_wf | split | dsimp only | intro _)

theorem execAppend_wf (stack cluster : Nat) (req : List Token) (s : State) (t1 : State) (hwf : Memory.wf s.mem = true) (e : execAppend stack cluster req s = .next t1) : Memory.wf t1.mem = true := by
  refine answer_wf _ _ _ ?_ e
  repeat' (first | with_reducible assumption | with_reducible apply State.appendSlots_wf | with_reducible apply State.pageOp_wf | with_reducible apply State.request_wf | dsimp only | intro _)

theorem execPageInit_wf (stack cluster : Nat) (req : List Token) (s : State) (t1 : State) (hwf : Memory.wf s.mem = true) (e : execPageInit stack cluster req s = .next t1) : Memory.wf t1.mem = true := by
  refine answer_wf _ _ _ ?_ e
  repeat' (first | with_reducible assumption | with_reducible apply State.pageOp_wf | with_reducible apply State.request_wf | dsimp only | intro _)

theorem execPageFree_wf (stack cluster : Nat) (req : List Token) (s : State) (t1 : State) (hwf : Memory.wf s.mem = true) (e : execPageFree stack cluster req s = .next t1) : Memory.wf t1.mem = true := by
  refine answer_wf _ _ _ ?_ e
  repeat' (first | with_reducible assumption | with_reducible apply State.pageOp_wf | with_reducible apply State.request_wf | dsimp only | intro _)

theorem execPageTrim_wf (stack cluster : Nat) (req : List Token) (s : State) (t1 : State) (hwf : Memory.wf s.mem = true) (e : execPageTrim stack cluster req s = .next t1) : Memory.wf t1.mem = true := by
  refine answer_wf _ _ _ ?_ e
  repeat' (first | with_reducible assumption | with_reducible apply State.pageOp_wf | with_reducible apply State.request_wf | dsimp only | intro _)

theorem execPass_wf (stack cluster : Nat) (req : List Token) (s : State) (t1 : State) (hwf : Memory.wf s.mem = true) (e : execPass stack cluster req s = .next t1) : Memory.wf t1.mem = true := by
  refine answer_wf _ _ _ ?_ e
  repeat' (first | with_reducible assumption | with_reducible apply State.request_wf | with_reducible apply State.runPass_wf | dsimp only | intro _)

theorem execPassResponse_wf (stack : Nat) (s : State) (t1 : State) (hwf : Memory.wf s.mem = true) (e : execPassResponse stack s = .next t1) : Memory.wf t1.mem = true := by
  refine answer_wf _ _ _ ?_ e
  repeat' (first | with_reducible assumption | with_reducible apply State.count_wf | with_reducible apply State.launch_wf | with_reducible apply State.setStack_wf | with_reducible apply ite_wf | split | dsimp only | intro _)

theorem execPageTableSweep_wf (stack : Nat) (s : State) (t1 : State) (hwf : Memory.wf s.mem = true) (e : execPageTableSweep stack s = .next t1) : Memory.wf t1.mem = true := by
  refine answer_wf _ _ _ ?_ e
  repeat' (first | with_reducible assumption | with_reducible apply State.setField_wf | with_reducible apply State.setPte_wf | (with_reducible refine foldl_wf _ (fun s x h => ?_) _ _ ?_) | (with_reducible refine foldl_fst_wf _ (fun r x h => ?_) _ _ ?_) | with_reducible apply ite_wf | split | dsimp only | intro _)

theorem execStackDiscard_wf (part : Nat) (s : State) (t1 : State) (hwf : Memory.wf s.mem = true) (e : execStackDiscard part s = .next t1) : Memory.wf t1.mem = true := by
  refine answer_wf _ _ _ ?_ e
  repeat' (first | with_reducible assumption | with_reducible apply State.discardAt_wf | with_reducible apply State.endPasses_wf | with_reducible apply State.modPart_wf | (with_reducible refine foldl_wf _ (fun s x h => ?_) _ _ ?_) | with_reducible apply ite_wf | split | dsimp only | intro _)

theorem execDramUe_wf (stack : Nat) (offset : BitVec 36) (s : State) (t1 : State) (hwf : Memory.wf s.mem = true) (e : execDramUe stack offset s = .next t1) : Memory.wf t1.mem = true := by
  refine answer_wf _ _ _ ?_ e
  repeat' (first | with_reducible assumption | with_reducible apply onlyIf_wf | with_reducible apply State.setStack_wf | dsimp only | intro _)

theorem execPageTableUe_wf (stack page : Nat) (s : State) (t1 : State) (hwf : Memory.wf s.mem = true) (e : execPageTableUe stack page s = .next t1) : Memory.wf t1.mem = true := by
  refine answer_wf _ _ _ ?_ e
  repeat' (first | with_reducible assumption | with_reducible apply onlyIf_wf | with_reducible apply State.pageError_wf | dsimp only | intro _)

theorem execPatrolScrub_wf (stack row : Nat) (corrected : Bool) (s : State) (t1 : State) (hwf : Memory.wf s.mem = true) (e : execPatrolScrub stack row corrected s = .next t1) : Memory.wf t1.mem = true := by
  refine answer_wf _ _ _ ?_ e
  repeat' (first | with_reducible assumption | with_reducible apply State.count_wf | with_reducible apply onlyIf_wf | with_reducible apply State.reportUnits_wf | with_reducible apply ite_wf | split | dsimp only | intro _)

theorem execStackTempSample_wf (stack : Nat) (t : List Nat) (s : State) (t1 : State) (hwf : Memory.wf s.mem = true) (e : execStackTempSample stack t s = .next t1) : Memory.wf t1.mem = true := by
  refine answer_wf _ _ _ ?_ e
  repeat' (first | with_reducible assumption | with_reducible apply State.record_wf | with_reducible apply State.serveHeld_wf | with_reducible apply State.setField_wf | with_reducible apply State.setStack_wf | with_reducible apply State.setTemps_wf | with_reducible apply State.stackHeat_wf | (with_reducible refine foldl_wf _ (fun s x h => ?_) _ _ ?_) | (with_reducible refine foldl_fst_wf _ (fun r x h => ?_) _ _ ?_) | with_reducible apply ite_wf | split | dsimp only | intro _)

theorem execStackLost_wf (stack cause : Nat) (s : State) (t1 : State) (hwf : Memory.wf s.mem = true) (e : execStackLost stack cause s = .next t1) : Memory.wf t1.mem = true := by
  refine answer_wf _ _ _ ?_ e
  repeat' (first | with_reducible assumption | with_reducible apply State.loseStack_wf | with_reducible apply onlyIf_wf | dsimp only | intro _)

theorem execChannelRetrain_wf (stack channel : Nat) (ok : Bool) (s : State) (t1 : State) (hwf : Memory.wf s.mem = true) (e : execChannelRetrain stack channel ok s = .next t1) : Memory.wf t1.mem = true := by
  refine answer_wf _ _ _ ?_ e
  repeat' (first | with_reducible assumption | with_reducible apply State.retrainOne_wf | with_reducible apply State.retrainStart_wf | with_reducible apply ite_wf | split | dsimp only | intro _)

theorem execSeamWord_wf (p : PortRef) (word : Bytes) (s : State) (t1 : State) (hwf : Memory.wf s.mem = true) (e : execSeamWord p word s = .next t1) : Memory.wf t1.mem = true := by
  refine answer_wf _ _ _ ?_ e
  repeat' (first | with_reducible assumption | with_reducible apply State.acceptWord_wf | with_reducible apply State.drainWords_wf | with_reducible apply State.sendWord_wf | with_reducible apply State.setSeam_wf | with_reducible apply State.settleNet_wf | with_reducible apply State.settleSlots_wf | with_reducible apply State.slip_wf | with_reducible apply ite_wf | split | dsimp only | intro _)

theorem execSeamResend_wf (p : PortRef) (s : State) (t1 : State) (hwf : Memory.wf s.mem = true) (e : execSeamResend p s = .next t1) : Memory.wf t1.mem = true := by
  refine answer_wf _ _ _ ?_ e
  repeat' (first | with_reducible assumption | with_reducible apply State.count_wf | with_reducible apply State.setSeam_wf | with_reducible apply State.slip_wf | with_reducible apply State.takeOffline_wf | with_reducible apply ite_wf | split | dsimp only | intro _)

theorem execLateUnitSend_wf (p : PortRef) (lane : Nat) (s : State) (t1 : State) (hwf : Memory.wf s.mem = true) (e : execLateUnitSend p lane s = .next t1) : Memory.wf t1.mem = true := by
  refine answer_wf _ _ _ ?_ e
  repeat' (first | with_reducible assumption | with_reducible apply State.carry_wf | with_reducible apply State.count_wf | with_reducible apply State.count64_wf | with_reducible apply State.landUnit_wf | with_reducible apply State.noteLate_wf | with_reducible apply State.setSeam_wf | with_reducible apply State.settleSlots_wf | with_reducible apply ite_wf | split | dsimp only | intro _)

theorem execSeamRetrain_wf (p : PortRef) (badWires : Nat) (s : State) (t1 : State) (hwf : Memory.wf s.mem = true) (e : execSeamRetrain p badWires s = .next t1) : Memory.wf t1.mem = true := by
  refine answer_wf _ _ _ ?_ e
  repeat' (first | with_reducible assumption | with_reducible apply State.endRetrain_wf | with_reducible apply onlyIf_wf | with_reducible apply State.takeOffline_wf | with_reducible apply ite_wf | split | dsimp only | intro _)

theorem execSeamHalfWidth_wf (p : PortRef) (s : State) (t1 : State) (hwf : Memory.wf s.mem = true) (e : execSeamHalfWidth p s = .next t1) : Memory.wf t1.mem = true := by
  refine answer_wf _ _ _ ?_ e
  repeat' (first | with_reducible assumption | with_reducible apply State.halfWidth_wf | with_reducible apply onlyIf_wf | dsimp only | intro _)

theorem execFabricTableUe_wf (p : PortRef) (table : FabTable) (entry : Nat) (s : State) (t1 : State) (hwf : Memory.wf s.mem = true) (e : execFabricTableUe p table entry s = .next t1) : Memory.wf t1.mem = true := by
  refine answer_wf _ _ _ ?_ e
  repeat' (first | with_reducible assumption | with_reducible apply State.exitError_wf | with_reducible apply State.routeError_wf | with_reducible apply State.slotError_wf | with_reducible apply ite_wf | split | dsimp only | intro _)

theorem execLinkPacketReceive_wf (die : Nat) (p : Packet) (s : State) (t1 : State) (hwf : Memory.wf s.mem = true) (e : execLinkPacketReceive die p s = .next t1) : Memory.wf t1.mem = true := by
  refine answer_wf _ _ _ ?_ e
  repeat' (first | with_reducible assumption | with_reducible apply State.addMoving_wf | with_reducible apply State.dieReceive_wf | with_reducible apply State.freeInput_wf | with_reducible apply ite_wf | split | dsimp only | intro _)

theorem execFlitReceive_wf (port : Nat) (flit : Bytes) (s : State) (t1 : State) (hwf : Memory.wf s.mem = true) (e : execFlitReceive port flit s = .next t1) : Memory.wf t1.mem = true := by
  refine answer_wf _ _ _ ?_ e
  repeat' (first | with_reducible assumption | with_reducible apply State.count_wf | with_reducible apply State.creditIn_wf | with_reducible apply State.dataIn_wf | with_reducible apply State.noteFec_wf | with_reducible apply State.pumpLink_wf | with_reducible apply State.setPort_wf | with_reducible apply State.trainIn_wf | with_reducible apply ite_wf | split | dsimp only | intro _)

theorem execLinkReplay_wf (port : Nat) (s : State) (t1 : State) (hwf : Memory.wf s.mem = true) (e : execLinkReplay port s = .next t1) : Memory.wf t1.mem = true := by
  refine answer_wf _ _ _ ?_ e
  repeat' (first | with_reducible assumption | with_reducible apply State.count_wf | with_reducible apply State.count64_wf | with_reducible apply State.drive_wf | with_reducible apply State.resend_wf | with_reducible apply State.setPort_wf | with_reducible apply State.startTraining_wf | (with_reducible refine foldl_wf _ (fun s x h => ?_) _ _ ?_) | with_reducible apply ite_wf | split | dsimp only | intro _)

theorem execCreditFlit_wf (port : Nat) (payload : Bytes) (s : State) (t1 : State) (hwf : Memory.wf s.mem = true) (e : execCreditFlit port payload s = .next t1) : Memory.wf t1.mem = true := by
  refine answer_wf _ _ _ ?_ e
  repeat' (first | with_reducible assumption | with_reducible apply State.creditIn_wf | with_reducible apply onlyIf_wf | dsimp only | intro _)

theorem execTrainFlit_wf (port : Nat) (payload : Bytes) (s : State) (t1 : State) (hwf : Memory.wf s.mem = true) (e : execTrainFlit port payload s = .next t1) : Memory.wf t1.mem = true := by
  refine answer_wf _ _ _ ?_ e
  repeat' (first | with_reducible assumption | with_reducible apply onlyIf_wf | with_reducible apply State.trainIn_wf | dsimp only | intro _)

theorem execLinkRetrain_wf (port : Nat) (lanesOk : BitVec 8) (peer : List (Option (BitVec 8 × BitVec 8))) (s : State) (t1 : State) (hwf : Memory.wf s.mem = true) (e : execLinkRetrain port lanesOk peer s = .next t1) : Memory.wf t1.mem = true := by
  refine answer_wf _ _ _ ?_ e
  repeat' (first | with_reducible assumption | with_reducible apply onlyIf_wf | with_reducible apply State.retrainLinkAt_wf | dsimp only | intro _)

theorem execHoldExpiry_wf (die : Nat) (s : State) (t1 : State) (hwf : Memory.wf s.mem = true) (e : execHoldExpiry die s = .next t1) : Memory.wf t1.mem = true := by
  refine answer_wf _ _ _ ?_ e
  repeat' (first | with_reducible assumption | with_reducible apply State.count_wf | with_reducible apply State.freeInput_wf | with_reducible apply State.setPort_wf | with_reducible apply ite_wf | split | dsimp only | intro _)

theorem execLaserModuleFail_wf (bay : Nat) (withdrawn : Bool) (s : State) (t1 : State) (hwf : Memory.wf s.mem = true) (e : execLaserModuleFail bay withdrawn s = .next t1) : Memory.wf t1.mem = true := by
  refine answer_wf _ _ _ ?_ e
  repeat' (first | with_reducible assumption | with_reducible apply State.bayDown_wf | with_reducible apply State.record_wf | with_reducible apply State.refreshState_wf | with_reducible apply State.setField_wf | with_reducible apply ite_wf | split | dsimp only | intro _)

theorem execLaserModuleInsert_wf (bay : Nat) (partNo : Bytes) (s : State) (t1 : State) (hwf : Memory.wf s.mem = true) (e : execLaserModuleInsert bay partNo s = .next t1) : Memory.wf t1.mem = true := by
  refine answer_wf _ _ _ ?_ e
  repeat' (first | with_reducible assumption | with_reducible apply State.moduleHours_wf | with_reducible apply State.record_wf | with_reducible apply State.refreshState_wf | with_reducible apply State.setField_wf | with_reducible apply ite_wf | split | dsimp only | intro _)

theorem execLinkDieLost_wf (die : Nat) (s : State) (t1 : State) (hwf : Memory.wf s.mem = true) (e : execLinkDieLost die s = .next t1) : Memory.wf t1.mem = true := by
  refine answer_wf _ _ _ ?_ e
  repeat' (first | with_reducible assumption | with_reducible apply State.loseLink_wf | dsimp only | intro _)

theorem execCablePresentChange_wf (port : Nat) (present : Bool) (partNo : Bytes) (s : State) (t1 : State) (hwf : Memory.wf s.mem = true) (e : execCablePresentChange port present partNo s = .next t1) : Memory.wf t1.mem = true := by
  refine answer_wf _ _ _ ?_ e
  repeat' (first | with_reducible assumption | with_reducible apply State.failPort_wf | with_reducible apply State.record_wf | with_reducible apply State.setPcie_wf | with_reducible apply State.setPort_wf | with_reducible apply ite_wf | split | dsimp only | intro _)

theorem execDbSqTail_wf (ring : Nat) (v : Word) (s : State) (t1 : State) (hwf : Memory.wf s.mem = true) (e : execDbSqTail ring v s = .next t1) : Memory.wf t1.mem = true := by
  refine answer_wf _ _ _ ?_ e
  repeat' (first | with_reducible assumption | with_reducible apply onlyIf_wf | with_reducible apply State.sqTail_wf | dsimp only | intro _)

theorem execDbCqHead_wf (ring : Nat) (v : Word) (s : State) (t1 : State) (hwf : Memory.wf s.mem = true) (e : execDbCqHead ring v s = .next t1) : Memory.wf t1.mem = true := by
  refine answer_wf _ _ _ ?_ e
  repeat' (first | with_reducible assumption | with_reducible apply State.cqHead_wf | with_reducible apply onlyIf_wf | dsimp only | intro _)

theorem execCommandDispatch_wf (ring : Nat) (s : State) (t1 : State) (hwf : Memory.wf s.mem = true) (e : execCommandDispatch ring s = .next t1) : Memory.wf t1.mem = true := by
  refine answer_wf _ _ _ ?_ e
  repeat' (first | with_reducible assumption | with_reducible apply State.dispatch_wf | with_reducible apply State.fail_wf | with_reducible apply State.setRing_wf | with_reducible apply State.showRing_wf | with_reducible apply ite_wf | split | dsimp only | intro _)

theorem execCompletionPost_wf (ring : Nat) (s : State) (t1 : State) (hwf : Memory.wf s.mem = true) (e : execCompletionPost ring s = .next t1) : Memory.wf t1.mem = true := by
  refine answer_wf _ _ _ ?_ e
  repeat' (first | with_reducible assumption | with_reducible apply State.entryVisible_wf | with_reducible apply State.putBar0_wf | with_reducible apply State.setRing_wf | with_reducible apply ite_wf | split | dsimp only | intro _)

theorem execMsixCoalesceTimeout_wf (ring : Nat) (s : State) (t1 : State) (hwf : Memory.wf s.mem = true) (e : execMsixCoalesceTimeout ring s = .next t1) : Memory.wf t1.mem = true := by
  refine answer_wf _ _ _ ?_ e
  repeat' (first | with_reducible assumption | with_reducible apply onlyIf_wf | with_reducible apply State.ringSignal_wf | dsimp only | intro _)

theorem execRdybsyPulseRepeat_wf (s : State) (t1 : State) (hwf : Memory.wf s.mem = true) (e : execRdybsyPulseRepeat s = .next t1) : Memory.wf t1.mem = true := by
  refine answer_wf _ _ _ ?_ e
  repeat' (first | with_reducible assumption | with_reducible apply onlyIf_wf | with_reducible apply State.pulse_wf | dsimp only | intro _)

theorem execMgtHeartbeatTick_wf (s : State) (t1 : State) (hwf : Memory.wf s.mem = true) (e : execMgtHeartbeatTick s = .next t1) : Memory.wf t1.mem = true := by
  refine answer_wf _ _ _ ?_ e
  repeat' (first | with_reducible assumption | with_reducible apply onlyIf_wf | with_reducible apply State.setMgt_wf | dsimp only | intro _)

theorem execFunctionLevelReset_wf (s : State) (t1 : State) (hwf : Memory.wf s.mem = true) (e : execFunctionLevelReset s = .next t1) : Memory.wf t1.mem = true := by
  refine answer_wf _ _ _ ?_ e
  repeat' (first | with_reducible assumption | with_reducible apply onlyIf_wf | with_reducible apply State.resetEndpoint_wf | dsimp only | intro _)

theorem execPcieLinkChange_wf (up : Bool) (s : State) (t1 : State) (hwf : Memory.wf s.mem = true) (e : execPcieLinkChange up s = .next t1) : Memory.wf t1.mem = true := by
  refine answer_wf _ _ _ ?_ e
  repeat' (first | with_reducible assumption | with_reducible apply onlyIf_wf | with_reducible apply State.setPcie_wf | dsimp only | intro _)

theorem execBar2Read_wf (off len : Nat) (s : State) (t1 : State) (hwf : Memory.wf s.mem = true) (e : execBar2Read off len s = .next t1) : Memory.wf t1.mem = true := by
  refine answer_wf _ _ _ ?_ e
  repeat' (first | with_reducible assumption | with_reducible apply State.bar2Get_wf | with_reducible apply ite_wf | split | dsimp only | intro _)

theorem execBar2Write_wf (off : Nat) (data : Bytes) (s : State) (t1 : State) (hwf : Memory.wf s.mem = true) (e : execBar2Write off data s = .next t1) : Memory.wf t1.mem = true := by
  refine answer_wf _ _ _ ?_ e
  repeat' (first | with_reducible assumption | with_reducible apply State.bar2Put_wf | with_reducible apply ite_wf | split | dsimp only | intro _)

theorem execBar2ReadTimeout_wf (s : State) (t1 : State) (hwf : Memory.wf s.mem = true) (e : execBar2ReadTimeout s = .next t1) : Memory.wf t1.mem = true := by
  refine answer_wf _ _ _ ?_ e
  repeat' (first | with_reducible assumption | with_reducible apply State.record_wf | with_reducible apply State.setMgt_wf | (with_reducible refine foldl_wf _ (fun s x h => ?_) _ _ ?_) | dsimp only | intro _)

theorem execRegisterWrite_wf (space : RegSpace) (off : Nat) (v : Word) (s : State) (t1 : State) (hwf : Memory.wf s.mem = true) (e : execRegisterWrite space off v s = .next t1) : Memory.wf t1.mem = true := by
  refine answer_wf _ _ _ ?_ e
  repeat' (first | with_reducible assumption | with_reducible apply onlyIf_wf | with_reducible apply State.unmaskAll_wf | with_reducible apply State.writeBar0_wf | with_reducible apply State.writeControl_wf | with_reducible apply ite_wf | split | dsimp only | intro _)

theorem execMgmtReply_wf (p : Packet) (s : State) (t1 : State) (hwf : Memory.wf s.mem = true) (e : execMgmtReply p s = .next t1) : Memory.wf t1.mem = true := by
  refine answer_wf _ _ _ ?_ e
  repeat' (first | with_reducible assumption | with_reducible apply State.forOp_wf | with_reducible apply State.relayed_wf | with_reducible apply State.replyIn_wf | with_reducible apply State.settle_wf | with_reducible apply ite_wf | split | dsimp only | intro _)

theorem execPartCreate_wf (id : Nat) (io : HostIo) (s : State) (t1 : State) (hwf : Memory.wf s.mem = true) (e : execPartCreate id io s = .next t1) : Memory.wf t1.mem = true := by
  refine answer_wf _ _ _ ?_ e
  repeat' (first | with_reducible assumption | with_reducible apply State.fail_wf | with_reducible apply State.finish_wf | with_reducible apply State.requestWake_wf | with_reducible apply State.runCmd_wf | with_reducible apply State.setPart_wf | with_reducible apply State.setReg_wf | with_reducible apply State.spareDuty_wf | with_reducible apply State.writeCluPart_wf | with_reducible apply State.writePages_wf | (with_reducible refine foldl_wf _ (fun s x h => ?_) _ _ ?_) | with_reducible apply ite_wf | split | dsimp only | intro _)

theorem execPartReset_wf (id : Nat) (io : HostIo) (s : State) (t1 : State) (hwf : Memory.wf s.mem = true) (e : execPartReset id io s = .next t1) : Memory.wf t1.mem = true := by
  refine answer_wf _ _ _ ?_ e
  repeat' (first | with_reducible assumption | with_reducible apply State.fail_wf | with_reducible apply State.runCmd_wf | with_reducible apply State.startReset_wf | with_reducible apply ite_wf | split | dsimp only | intro _)

theorem execPartDestroy_wf (id : Nat) (io : HostIo) (s : State) (t1 : State) (hwf : Memory.wf s.mem = true) (e : execPartDestroy id io s = .next t1) : Memory.wf t1.mem = true := by
  refine answer_wf _ _ _ ?_ e
  repeat' (first | with_reducible assumption | with_reducible apply State.runCmd_wf | with_reducible apply State.startReset_wf | with_reducible apply ite_wf | split | dsimp only | intro _)

theorem execPartResetDrainEnd_wf (part : Nat) (s : State) (t1 : State) (hwf : Memory.wf s.mem = true) (e : execPartResetDrainEnd part s = .next t1) : Memory.wf t1.mem = true := by
  refine answer_wf _ _ _ ?_ e
  repeat' (first | with_reducible assumption | with_reducible apply State.finishReset_wf | with_reducible apply ite_wf | split | dsimp only | intro _)

theorem execFeedStateChange_wf (f : Feed) (v10mV us : Nat) (s : State) (t1 : State) (hwf : Memory.wf s.mem = true) (e : execFeedStateChange f v10mV us s = .next t1) : Memory.wf t1.mem = true := by
  refine answer_wf _ _ _ ?_ e
  repeat' (first | with_reducible assumption | with_reducible apply State.count_wf | with_reducible apply State.record_wf | with_reducible apply State.setFeed_wf | with_reducible apply State.setField_wf | with_reducible apply ite_wf | split | dsimp only | intro _)

theorem execFeedInsert_wf (f : Feed) (v10mV : Nat) (s : State) (t1 : State) (hwf : Memory.wf s.mem = true) (e : execFeedInsert f v10mV s = .next t1) : Memory.wf t1.mem = true := by
  refine answer_wf _ _ _ ?_ e
  repeat' (first | with_reducible assumption | with_reducible apply State.setFeed_wf | with_reducible apply State.setField_wf | with_reducible apply ite_wf | split | dsimp only | intro _)

theorem execWakeRequest_wf (cluster : Nat) (s : State) (t1 : State) (hwf : Memory.wf s.mem = true) (e : execWakeRequest cluster s = .next t1) : Memory.wf t1.mem = true := by
  refine answer_wf _ _ _ ?_ e
  repeat' (first | with_reducible assumption | with_reducible apply onlyIf_wf | with_reducible apply State.requestWake_wf | dsimp only | intro _)

theorem execWakeGrant_wf (cluster : Nat) (s : State) (t1 : State) (hwf : Memory.wf s.mem = true) (e : execWakeGrant cluster s = .next t1) : Memory.wf t1.mem = true := by
  refine answer_wf _ _ _ ?_ e
  repeat' (first | with_reducible assumption | with_reducible apply State.count64_wf | with_reducible apply State.wake_wf | with_reducible apply ite_wf | split | dsimp only | intro _)

theorem execWakeForced_wf (cluster : Nat) (s : State) (t1 : State) (hwf : Memory.wf s.mem = true) (e : execWakeForced cluster s = .next t1) : Memory.wf t1.mem = true := by
  refine answer_wf _ _ _ ?_ e
  repeat' (first | with_reducible assumption | with_reducible apply State.count_wf | with_reducible apply State.lowerOne_wf | with_reducible apply State.wake_wf | (with_reducible refine foldl_wf _ (fun s x h => ?_) _ _ ?_) | with_reducible apply ite_wf | split | dsimp only | intro _)

theorem execClockStepRamp_wf (cluster : Nat) (s : State) (t1 : State) (hwf : Memory.wf s.mem = true) (e : execClockStepRamp cluster s = .next t1) : Memory.wf t1.mem = true := by
  refine answer_wf _ _ _ ?_ e
  repeat' (first | with_reducible assumption | with_reducible apply State.setField_wf | with_reducible apply State.takeSlew_wf | with_reducible apply ite_wf | split | dsimp only | intro _)

theorem execIdleRetainTimeout_wf (cluster : Nat) (s : State) (t1 : State) (hwf : Memory.wf s.mem = true) (e : execIdleRetainTimeout cluster s = .next t1) : Memory.wf t1.mem = true := by
  refine answer_wf _ _ _ ?_ e
  repeat' (first | with_reducible assumption | with_reducible apply onlyIf_wf | with_reducible apply State.retain_wf | dsimp only | intro _)

theorem execPowerManagerTick_wf (r : PowerReading) (s : State) (t1 : State) (hwf : Memory.wf s.mem = true) (e : execPowerManagerTick r s = .next t1) : Memory.wf t1.mem = true := by
  refine answer_wf _ _ _ ?_ e
  repeat' (first | with_reducible assumption | with_reducible apply State.lowerAll_wf | with_reducible apply State.raiseAll_wf | with_reducible apply State.refreshLimit_wf | with_reducible apply State.setField_wf | with_reducible apply State.takeSample_wf | with_reducible apply ite_wf | split | dsimp only | intro _)

theorem execShedAssert_wf (s : State) (t1 : State) (hwf : Memory.wf s.mem = true) (e : execShedAssert s = .next t1) : Memory.wf t1.mem = true := by
  refine answer_wf _ _ _ ?_ e
  repeat' (first | with_reducible assumption | with_reducible apply State.count_wf | with_reducible apply onlyIf_wf | with_reducible apply State.pauseAll_wf | with_reducible apply State.setField_wf | dsimp only | intro _)

theorem execShedLevelCheck_wf (pIn pAfter : Nat) (s : State) (t1 : State) (hwf : Memory.wf s.mem = true) (e : execShedLevelCheck pIn pAfter s = .next t1) : Memory.wf t1.mem = true := by
  refine answer_wf _ _ _ ?_ e
  repeat' (first | with_reducible assumption | with_reducible apply State.record_wf | with_reducible apply State.retain_wf | with_reducible apply State.setField_wf | (with_reducible refine foldl_wf _ (fun s x h => ?_) _ _ ?_) | with_reducible apply ite_wf | split | dsimp only | intro _)

theorem execShedDeassert_wf (s : State) (t1 : State) (hwf : Memory.wf s.mem = true) (e : execShedDeassert s = .next t1) : Memory.wf t1.mem = true := by
  refine answer_wf _ _ _ ?_ e
  repeat' (first | with_reducible assumption | with_reducible apply State.resumeAll_wf | with_reducible apply State.setField_wf | with_reducible apply ite_wf | split | dsimp only | intro _)

theorem execVpmTrip_wf (die : Nat) (s : State) (t1 : State) (hwf : Memory.wf s.mem = true) (e : execVpmTrip die s = .next t1) : Memory.wf t1.mem = true := by
  refine answer_wf _ _ _ ?_ e
  repeat' (first | with_reducible assumption | with_reducible apply State.addDefect_wf | with_reducible apply State.count_wf | with_reducible apply State.failDie_wf | with_reducible apply State.record_wf | with_reducible apply State.setVpm_wf | with_reducible apply ite_wf | split | dsimp only | intro _)

theorem execRegulatorPhaseFault_wf (site quad domain phase : Nat) (s : State) (t1 : State) (hwf : Memory.wf s.mem = true) (e : execRegulatorPhaseFault site quad domain phase s = .next t1) : Memory.wf t1.mem = true := by
  refine answer_wf _ _ _ ?_ e
  repeat' (first | with_reducible assumption | with_reducible apply State.addDefect_wf | with_reducible apply State.count_wf | with_reducible apply State.failDie_wf | with_reducible apply State.goDark_wf | with_reducible apply State.record_wf | with_reducible apply State.refreshCap_wf | with_reducible apply State.setField_wf | with_reducible apply ite_wf | split | dsimp only | intro _)

theorem execDroopDetect_wf (cluster pulses : Nat) (s : State) (t1 : State) (hwf : Memory.wf s.mem = true) (e : execDroopDetect cluster pulses s = .next t1) : Memory.wf t1.mem = true := by
  refine answer_wf _ _ _ ?_ e
  repeat' (first | with_reducible assumption | with_reducible apply State.count64_wf | with_reducible apply onlyIf_wf | dsimp only | intro _)

theorem execClockInputLoss_wf (die : Nat) (live : BitVec 6) (s : State) (t1 : State) (hwf : Memory.wf s.mem = true) (e : execClockInputLoss die live s = .next t1) : Memory.wf t1.mem = true := by
  refine answer_wf _ _ _ ?_ e
  repeat' (first | with_reducible assumption | with_reducible apply State.count_wf | with_reducible apply State.draw_wf | with_reducible apply State.setField_wf | with_reducible apply State.slipDie_wf | with_reducible apply ite_wf | split | dsimp only | intro _)

theorem execClockHoldoverExpiry_wf (die : Nat) (s : State) (t1 : State) (hwf : Memory.wf s.mem = true) (e : execClockHoldoverExpiry die s = .next t1) : Memory.wf t1.mem = true := by
  refine answer_wf _ _ _ ?_ e
  repeat' (first | with_reducible assumption | with_reducible apply State.failDie_wf | with_reducible apply onlyIf_wf | with_reducible apply State.setField_wf | dsimp only | intro _)

theorem execReferenceOscillatorLoss_wf (s : State) (t1 : State) (hwf : Memory.wf s.mem = true) (e : execReferenceOscillatorLoss s = .next t1) : Memory.wf t1.mem = true := by
  refine answer_wf _ _ _ ?_ e
  repeat' (first | with_reducible assumption | with_reducible apply State.setField_wf | dsimp only | intro _)

theorem execThermalSample_wf (cluster : Nat) (t : List Nat) (s : State) (t1 : State) (hwf : Memory.wf s.mem = true) (e : execThermalSample cluster t s = .next t1) : Memory.wf t1.mem = true := by
  refine answer_wf _ _ _ ?_ e
  repeat' (first | with_reducible assumption | with_reducible apply State.noteThrottle_wf | with_reducible apply State.setTemps_wf | with_reducible apply State.throttle_wf | (with_reducible refine foldl_wf _ (fun s x h => ?_) _ _ ?_) | with_reducible apply ite_wf | split | dsimp only | intro _)

theorem execThermalTrip_wf (die sensor celsius : Nat) (s : State) (t1 : State) (hwf : Memory.wf s.mem = true) (e : execThermalTrip die sensor celsius s = .next t1) : Memory.wf t1.mem = true := by
  refine answer_wf _ _ _ ?_ e
  repeat' (first | with_reducible assumption | with_reducible apply State.count_wf | with_reducible apply State.failDie_wf | with_reducible apply State.record_wf | with_reducible apply State.retain_wf | with_reducible apply State.setTemps_wf | (with_reducible refine foldl_wf _ (fun s x h => ?_) _ _ ?_) | with_reducible apply ite_wf | split | dsimp only | intro _)

theorem execCoolantLoopTick_wf (r : TrayReading) (pIn hotJunction : Nat) (s : State) (t1 : State) (hwf : Memory.wf s.mem = true) (e : execCoolantLoopTick r pIn hotJunction s = .next t1) : Memory.wf t1.mem = true := by
  refine answer_wf _ _ _ ?_ e
  repeat' (first | with_reducible assumption | with_reducible apply State.coolStep_wf | with_reducible apply State.coolTimes_wf | with_reducible apply State.follow_wf | with_reducible apply State.heatFlow_wf | with_reducible apply State.moveValve_wf | with_reducible apply State.readTray_wf | with_reducible apply State.refreshLimit_wf | with_reducible apply State.stackSteps_wf | with_reducible apply ite_wf | split | dsimp only | intro _)

theorem execCoolingLossTimeout_wf (safe : Bool) (s : State) (t1 : State) (hwf : Memory.wf s.mem = true) (e : execCoolingLossTimeout safe s = .next t1) : Memory.wf t1.mem = true := by
  refine answer_wf _ _ _ ?_ e
  repeat' (first | with_reducible assumption | with_reducible apply State.enterSafe_wf | with_reducible apply State.lossRetain_wf | with_reducible apply onlyIf_wf | with_reducible apply ite_wf | split | dsimp only | intro _)

theorem execAuxSensorPoll_wf (readings : List Nat) (s : State) (t1 : State) (hwf : Memory.wf s.mem = true) (e : execAuxSensorPoll readings s = .next t1) : Memory.wf t1.mem = true := by
  refine answer_wf _ _ _ ?_ e
  repeat' (first | with_reducible assumption | with_reducible apply onlyIf_wf | dsimp only | intro _)

theorem execEventRecord_wf (code sev part region skind sindex ssub : Nat) (data : Bytes) (s : State) (t1 : State) (hwf : Memory.wf s.mem = true) (e : execEventRecord code sev part region skind sindex ssub data s = .next t1) : Memory.wf t1.mem = true := by
  refine answer_wf _ _ _ ?_ e
  repeat' (first | with_reducible assumption | with_reducible apply onlyIf_wf | with_reducible apply State.record_wf | dsimp only | intro _)

theorem execEventFlush_wf (flashOk : Bool) (s : State) (t1 : State) (hwf : Memory.wf s.mem = true) (e : execEventFlush flashOk s = .next t1) : Memory.wf t1.mem = true := by
  refine answer_wf _ _ _ ?_ e
  repeat' (first | with_reducible assumption | with_reducible apply State.flushAll_wf | dsimp only | intro _)

theorem execOperatingTimeStore_wf (s : State) (t1 : State) (hwf : Memory.wf s.mem = true) (e : execOperatingTimeStore s = .next t1) : Memory.wf t1.mem = true := by
  refine answer_wf _ _ _ ?_ e
  repeat' (first | with_reducible assumption | dsimp only | intro _)

theorem execEventsRead_wf (id : Nat) (io : HostIo) (s : State) (t1 : State) (hwf : Memory.wf s.mem = true) (e : execEventsRead id io s = .next t1) : Memory.wf t1.mem = true := by
  refine answer_wf _ _ _ ?_ e
  repeat' (first | with_reducible assumption | with_reducible apply State.finishOut_wf | with_reducible apply State.runCmd_wf | with_reducible apply State.withHost_wf | with_reducible apply ite_wf | split | dsimp only | intro _)

theorem execEventsClear_wf (id : Nat) (io : HostIo) (s : State) (t1 : State) (hwf : Memory.wf s.mem = true) (e : execEventsClear id io s = .next t1) : Memory.wf t1.mem = true := by
  refine answer_wf _ _ _ ?_ e
  repeat' (first | with_reducible assumption | with_reducible apply State.clearEvents_wf | with_reducible apply State.finishNoted_wf | with_reducible apply State.refuseAuth_wf | with_reducible apply State.renewNonce_wf | with_reducible apply State.runCmd_wf | with_reducible apply State.withHost_wf | with_reducible apply ite_wf | split | dsimp only | intro _)

theorem execDefectClear_wf (id : Nat) (io : HostIo) (s : State) (t1 : State) (hwf : Memory.wf s.mem = true) (e : execDefectClear id io s = .next t1) : Memory.wf t1.mem = true := by
  refine answer_wf _ _ _ ?_ e
  repeat' (first | with_reducible assumption | with_reducible apply State.fail_wf | with_reducible apply State.finishNoted_wf | with_reducible apply State.record_wf | with_reducible apply State.refuseAuth_wf | with_reducible apply State.renewNonce_wf | with_reducible apply State.runCmd_wf | with_reducible apply State.withHost_wf | with_reducible apply ite_wf | split | dsimp only | intro _)

theorem execIdentify_wf (id : Nat) (io : HostIo) (s : State) (t1 : State) (hwf : Memory.wf s.mem = true) (e : execIdentify id io s = .next t1) : Memory.wf t1.mem = true := by
  refine answer_wf _ _ _ ?_ e
  repeat' (first | with_reducible assumption | with_reducible apply State.fail_wf | with_reducible apply State.finishOut_wf | with_reducible apply State.runCmd_wf | with_reducible apply State.withHost_wf | with_reducible apply ite_wf | split | dsimp only | intro _)

theorem execQueryCaps_wf (id : Nat) (io : HostIo) (s : State) (t1 : State) (hwf : Memory.wf s.mem = true) (e : execQueryCaps id io s = .next t1) : Memory.wf t1.mem = true := by
  refine answer_wf _ _ _ ?_ e
  repeat' (first | with_reducible assumption | with_reducible apply State.fail_wf | with_reducible apply State.finish_wf | with_reducible apply State.runCmd_wf | with_reducible apply ite_wf | split | dsimp only | intro _)

theorem execGetInventory_wf (id : Nat) (io : HostIo) (s : State) (t1 : State) (hwf : Memory.wf s.mem = true) (e : execGetInventory id io s = .next t1) : Memory.wf t1.mem = true := by
  refine answer_wf _ _ _ ?_ e
  repeat' (first | with_reducible assumption | with_reducible apply State.fail_wf | with_reducible apply State.finishOut_wf | with_reducible apply State.runCmd_wf | with_reducible apply State.withHost_wf | with_reducible apply ite_wf | split | dsimp only | intro _)

theorem execDataPlace_wf (id : Nat) (io : HostIo) (s : State) (t1 : State) (hwf : Memory.wf s.mem = true) (e : execDataPlace id io s = .next t1) : Memory.wf t1.mem = true := by
  refine answer_wf _ _ _ ?_ e
  repeat' (first | with_reducible assumption | with_reducible apply State.fail_wf | with_reducible apply State.finish_wf | with_reducible apply State.placeBytes_wf | with_reducible apply State.placed_wf | with_reducible apply State.placedBySram_wf | with_reducible apply State.runCmd_wf | with_reducible apply State.withHost_wf | with_reducible apply ite_wf | split | dsimp only | intro _)

theorem execDataFetch_wf (id : Nat) (io : HostIo) (s : State) (t1 : State) (hwf : Memory.wf s.mem = true) (e : execDataFetch id io s = .next t1) : Memory.wf t1.mem = true := by
  refine answer_wf _ _ _ ?_ e
  repeat' (first | with_reducible assumption | with_reducible apply State.fail_wf | with_reducible apply State.fetchBytes_wf | with_reducible apply State.finish_wf | with_reducible apply State.finishOut_wf | with_reducible apply State.runCmd_wf | with_reducible apply State.withHost_wf | with_reducible apply ite_wf | split | dsimp only | intro _)

theorem execStepRun_wf (id : Nat) (io : HostIo) (s : State) (t1 : State) (hwf : Memory.wf s.mem = true) (e : execStepRun id io s = .next t1) : Memory.wf t1.mem = true := by
  refine answer_wf _ _ _ ?_ e
  repeat' (first | with_reducible assumption | with_reducible apply State.fail_wf | with_reducible apply State.flowAhead_wf | with_reducible apply State.modPart_wf | with_reducible apply State.promote_wf | with_reducible apply State.repairRecords_wf | with_reducible apply State.requestWake_wf | with_reducible apply State.runCmd_wf | (with_reducible refine foldl_wf _ (fun s x h => ?_) _ _ ?_) | with_reducible apply ite_wf | split | dsimp only | intro _)

theorem execStepAbort_wf (id : Nat) (io : HostIo) (s : State) (t1 : State) (hwf : Memory.wf s.mem = true) (e : execStepAbort id io s = .next t1) : Memory.wf t1.mem = true := by
  refine answer_wf _ _ _ ?_ e
  repeat' (first | with_reducible assumption | with_reducible apply State.clearStep_wf | with_reducible apply State.endStep_wf | with_reducible apply State.fail_wf | with_reducible apply State.finish_wf | with_reducible apply State.modPart_wf | with_reducible apply State.runCmd_wf | (with_reducible refine foldl_wf _ (fun s x h => ?_) _ _ ?_) | with_reducible apply ite_wf | split | dsimp only | intro _)

theorem execResultRelease_wf (id : Nat) (io : HostIo) (s : State) (t1 : State) (hwf : Memory.wf s.mem = true) (e : execResultRelease id io s = .next t1) : Memory.wf t1.mem = true := by
  refine answer_wf _ _ _ ?_ e
  repeat' (first | with_reducible assumption | with_reducible apply State.fail_wf | with_reducible apply State.finish_wf | with_reducible apply State.modPart_wf | with_reducible apply State.poke_wf | with_reducible apply State.runCmd_wf | with_reducible apply State.scramble_wf | with_reducible apply ite_wf | split | dsimp only | intro _)

theorem execRouteSetBase_wf (id : Nat) (io : HostIo) (s : State) (t1 : State) (hwf : Memory.wf s.mem = true) (e : execRouteSetBase id io s = .next t1) : Memory.wf t1.mem = true := by
  refine answer_wf _ _ _ ?_ e
  repeat' (first | with_reducible assumption | with_reducible apply State.fail_wf | with_reducible apply State.finish_wf | with_reducible apply State.runFirst_wf | with_reducible apply State.setField_wf | with_reducible apply State.setMgtField_wf | (with_reducible refine foldl_wf _ (fun s x h => ?_) _ _ ?_) | with_reducible apply ite_wf | split | dsimp only | intro _)

theorem execRouteSetEndpoints_wf (id : Nat) (io : HostIo) (s : State) (t1 : State) (hwf : Memory.wf s.mem = true) (e : execRouteSetEndpoints id io s = .next t1) : Memory.wf t1.mem = true := by
  refine answer_wf _ _ _ ?_ e
  repeat' (first | with_reducible assumption | with_reducible apply State.fail_wf | with_reducible apply State.finish_wf | with_reducible apply State.runSub_wf | with_reducible apply State.setField_wf | with_reducible apply State.withHost_wf | with_reducible apply State.writeEpt_wf | (with_reducible refine foldl_wf _ (fun s x h => ?_) _ _ ?_) | with_reducible apply ite_wf | split | dsimp only | intro _)

theorem execRouteSetPathGroups_wf (id : Nat) (io : HostIo) (s : State) (t1 : State) (hwf : Memory.wf s.mem = true) (e : execRouteSetPathGroups id io s = .next t1) : Memory.wf t1.mem = true := by
  refine answer_wf _ _ _ ?_ e
  repeat' (first | with_reducible assumption | with_reducible apply State.fail_wf | with_reducible apply State.finish_wf | with_reducible apply State.runSub_wf | with_reducible apply State.withHost_wf | (with_reducible refine foldl_wf _ (fun s x h => ?_) _ _ ?_) | with_reducible apply ite_wf | split | dsimp only | intro _)

theorem memEndpoints_wf (p : Nat) (rs : List Bytes) : ∀ (o : Option State), (∀ s, o = some s → Memory.wf s.mem = true) →
    ∀ t, rs.foldl (fun (o : Option State) r => o.bind fun s => s.memEndpointSet p r) o = some t → Memory.wf t.mem = true := by
  induction rs with
  | nil => intro o h t ht; exact h t ht
  | cons r rs ih =>
    intro o h t ht
    rw [List.foldl_cons] at ht
    refine ih _ (fun u hu => ?_) t ht
    obtain ⟨s, hs, hr⟩ := Option.bind_eq_some_iff.mp hu
    exact State.memEndpointSet_wf s p r (h s hs) u hr

theorem execRouteSetMemoryEndpoints_wf (id : Nat) (io : HostIo) (s : State) (w : State) (hwf : Memory.wf s.mem = true) (e : execRouteSetMemoryEndpoints id io s = .next w) : Memory.wf w.mem = true := by
  refine answer_wf _ _ _ ?_ e
  refine State.runSub_wf _ _ _ _ _ _ hwf fun c => State.withHost_wf _ _ _ _ _ hwf fun b => ?_
  split
  · exact State.fail_wf _ _ _ _ hwf
  · dsimp only
    split
    · exact State.fail_wf _ _ _ _ hwf
    · split
      · exact State.fail_wf _ _ _ _ hwf
      · split
        · exact State.fail_wf _ _ _ _ hwf
        · rename_i t ht
          exact State.finish_wf _ _ _ _ _ _ _ _ (memEndpoints_wf _ _ _ (fun u hu => by injection hu with hu; exact hu ▸ hwf) t ht)

theorem execEndpointFence_wf (id : Nat) (io : HostIo) (s : State) (t1 : State) (hwf : Memory.wf s.mem = true) (e : execEndpointFence id io s = .next t1) : Memory.wf t1.mem = true := by
  refine answer_wf _ _ _ ?_ e
  repeat' (first | with_reducible assumption | with_reducible apply State.runFence_wf | dsimp only | intro _)

theorem execEndpointUnfence_wf (id : Nat) (io : HostIo) (s : State) (t1 : State) (hwf : Memory.wf s.mem = true) (e : execEndpointUnfence id io s = .next t1) : Memory.wf t1.mem = true := by
  refine answer_wf _ _ _ ?_ e
  repeat' (first | with_reducible assumption | with_reducible apply State.runFence_wf | dsimp only | intro _)

theorem execMcastSetGroup_wf (id : Nat) (io : HostIo) (s : State) (t1 : State) (hwf : Memory.wf s.mem = true) (e : execMcastSetGroup id io s = .next t1) : Memory.wf t1.mem = true := by
  refine answer_wf _ _ _ ?_ e
  repeat' (first | with_reducible assumption | with_reducible apply State.finish_wf | with_reducible apply State.runFirst_wf | dsimp only | intro _)

theorem execMcastSetContext_wf (id : Nat) (io : HostIo) (s : State) (t1 : State) (hwf : Memory.wf s.mem = true) (e : execMcastSetContext id io s = .next t1) : Memory.wf t1.mem = true := by
  refine answer_wf _ _ _ ?_ e
  repeat' (first | with_reducible assumption | with_reducible apply State.fail_wf | with_reducible apply State.finish_wf | with_reducible apply State.runSub_wf | with_reducible apply State.setCtx_wf | with_reducible apply ite_wf | split | dsimp only | intro _)

theorem execMcastClearContext_wf (id : Nat) (io : HostIo) (s : State) (t1 : State) (hwf : Memory.wf s.mem = true) (e : execMcastClearContext id io s = .next t1) : Memory.wf t1.mem = true := by
  refine answer_wf _ _ _ ?_ e
  repeat' (first | with_reducible assumption | with_reducible apply State.fail_wf | with_reducible apply State.finish_wf | with_reducible apply State.runSub_wf | with_reducible apply ite_wf | split | dsimp only | intro _)

theorem execPowerCapSet_wf (id : Nat) (io : HostIo) (s : State) (t1 : State) (hwf : Memory.wf s.mem = true) (e : execPowerCapSet id io s = .next t1) : Memory.wf t1.mem = true := by
  refine answer_wf _ _ _ ?_ e
  repeat' (first | with_reducible assumption | with_reducible apply State.fail_wf | with_reducible apply State.finish_wf | with_reducible apply State.refreshLimit_wf | with_reducible apply State.runCmd_wf | with_reducible apply State.setField_wf | with_reducible apply ite_wf | split | dsimp only | intro _)

theorem execTelemetryPower_wf (id : Nat) (io : HostIo) (s : State) (t1 : State) (hwf : Memory.wf s.mem = true) (e : execTelemetryPower id io s = .next t1) : Memory.wf t1.mem = true := by
  refine answer_wf _ _ _ ?_ e
  repeat' (first | with_reducible assumption | with_reducible apply State.fail_wf | with_reducible apply State.finishOut_wf | with_reducible apply State.runFirst_wf | with_reducible apply State.withHost_wf | with_reducible apply ite_wf | split | dsimp only | intro _)

theorem execTelemetryPartition_wf (id : Nat) (io : HostIo) (s : State) (t1 : State) (hwf : Memory.wf s.mem = true) (e : execTelemetryPartition id io s = .next t1) : Memory.wf t1.mem = true := by
  refine answer_wf _ _ _ ?_ e
  repeat' (first | with_reducible assumption | with_reducible apply State.fail_wf | with_reducible apply State.finishOut_wf | with_reducible apply State.runSub_wf | with_reducible apply State.withHost_wf | with_reducible apply ite_wf | split | dsimp only | intro _)

theorem execTelemetryRegisters_wf (id : Nat) (io : HostIo) (s : State) (t1 : State) (hwf : Memory.wf s.mem = true) (e : execTelemetryRegisters id io s = .next t1) : Memory.wf t1.mem = true := by
  refine answer_wf _ _ _ ?_ e
  repeat' (first | with_reducible assumption | with_reducible apply State.fail_wf | with_reducible apply State.finishOut_wf | with_reducible apply State.readRegs_wf | with_reducible apply State.runSub_wf | with_reducible apply State.withHost_wf | with_reducible apply ite_wf | split | dsimp only | intro _)

theorem execSamplerConfig_wf (id : Nat) (io : HostIo) (s : State) (t1 : State) (hwf : Memory.wf s.mem = true) (e : execSamplerConfig id io s = .next t1) : Memory.wf t1.mem = true := by
  refine answer_wf _ _ _ ?_ e
  repeat' (first | with_reducible assumption | with_reducible apply State.fail_wf | with_reducible apply State.finish_wf | with_reducible apply State.modPart_wf | with_reducible apply State.runCmd_wf | with_reducible apply State.setSampler_wf | (with_reducible refine foldl_wf _ (fun s x h => ?_) _ _ ?_) | with_reducible apply ite_wf | split | dsimp only | intro _)

theorem execRetrainChannel_wf (id : Nat) (io : HostIo) (ok : Bool) (s : State) (t1 : State) (hwf : Memory.wf s.mem = true) (e : execRetrainChannel id io ok s = .next t1) : Memory.wf t1.mem = true := by
  refine answer_wf _ _ _ ?_ e
  repeat' (first | with_reducible assumption | with_reducible apply State.draw_wf | with_reducible apply State.fail_wf | with_reducible apply State.retrainOne_wf | with_reducible apply State.retrainStart_wf | with_reducible apply State.runFirst_wf | with_reducible apply ite_wf | split | dsimp only | intro _)

theorem execRetrainSeam_wf (id : Nat) (io : HostIo) (badWires : Nat) (s : State) (t1 : State) (hwf : Memory.wf s.mem = true) (e : execRetrainSeam id io badWires s = .next t1) : Memory.wf t1.mem = true := by
  refine answer_wf _ _ _ ?_ e
  repeat' (first | with_reducible assumption | with_reducible apply State.fail_wf | with_reducible apply State.finishNoted_wf | with_reducible apply State.retrainPort_wf | with_reducible apply State.runSub_wf | with_reducible apply ite_wf | split | dsimp only | intro _)

theorem execRetrainLink_wf (id : Nat) (io : HostIo) (lanesOk : BitVec 8) (peer : List (Option (BitVec 8 × BitVec 8))) (s : State) (t1 : State) (hwf : Memory.wf s.mem = true) (e : execRetrainLink id io lanesOk peer s = .next t1) : Memory.wf t1.mem = true := by
  refine answer_wf _ _ _ ?_ e
  repeat' (first | with_reducible assumption | with_reducible apply State.fail_wf | with_reducible apply State.finishNoted_wf | with_reducible apply State.retrainLinkAt_wf | with_reducible apply State.runSub_wf | with_reducible apply ite_wf | split | dsimp only | intro _)

theorem execRepairRetireDie_wf (id : Nat) (io : HostIo) (s : State) (t1 : State) (hwf : Memory.wf s.mem = true) (e : execRepairRetireDie id io s = .next t1) : Memory.wf t1.mem = true := by
  refine answer_wf _ _ _ ?_ e
  repeat' (first | with_reducible assumption | with_reducible apply State.fail_wf | with_reducible apply State.retireDie_wf | with_reducible apply State.runFirst_wf | with_reducible apply ite_wf | split | dsimp only | intro _)

theorem execRepairLaserBay_wf (id : Nat) (io : HostIo) (s : State) (t1 : State) (hwf : Memory.wf s.mem = true) (e : execRepairLaserBay id io s = .next t1) : Memory.wf t1.mem = true := by
  refine answer_wf _ _ _ ?_ e
  repeat' (first | with_reducible assumption | with_reducible apply State.fail_wf | with_reducible apply State.finish_wf | with_reducible apply State.runSub_wf | with_reducible apply State.setField_wf | with_reducible apply ite_wf | split | dsimp only | intro _)

theorem execRepairTestDie_wf (id : Nat) (io : HostIo) (s : State) (t1 : State) (hwf : Memory.wf s.mem = true) (e : execRepairTestDie id io s = .next t1) : Memory.wf t1.mem = true := by
  refine answer_wf _ _ _ ?_ e
  repeat' (first | with_reducible assumption | with_reducible apply State.fail_wf | with_reducible apply State.finish_wf | with_reducible apply State.runSub_wf | with_reducible apply ite_wf | split | dsimp only | intro _)

theorem execRepairTestStack_wf (id : Nat) (io : HostIo) (s : State) (t1 : State) (hwf : Memory.wf s.mem = true) (e : execRepairTestStack id io s = .next t1) : Memory.wf t1.mem = true := by
  refine answer_wf _ _ _ ?_ e
  repeat' (first | with_reducible assumption | with_reducible apply State.fail_wf | with_reducible apply State.finish_wf | with_reducible apply State.runSub_wf | with_reducible apply State.setStack_wf | with_reducible apply ite_wf | split | dsimp only | intro _)

theorem execScheduledClusterTest_wf (site quad : Nat) (r : TestResult) (s : State) (t1 : State) (hwf : Memory.wf s.mem = true) (e : execScheduledClusterTest site quad r s = .next t1) : Memory.wf t1.mem = true := by
  refine answer_wf _ _ _ ?_ e
  repeat' (first | with_reducible assumption | with_reducible apply State.addDefect_wf | with_reducible apply State.noteTests_wf | with_reducible apply State.resetCluster_wf | with_reducible apply State.retireDie_wf | with_reducible apply State.setClu_wf | with_reducible apply State.testBlock_wf | with_reducible apply ite_wf | split | dsimp only | intro _)

theorem execDieRetirement_wf (site cause : Nat) (spareOk : Bool) (s : State) (t1 : State) (hwf : Memory.wf s.mem = true) (e : execDieRetirement site cause spareOk s = .next t1) : Memory.wf t1.mem = true := by
  refine answer_wf _ _ _ ?_ e
  repeat' (first | with_reducible assumption | with_reducible apply State.addDefect_wf | with_reducible apply State.finish_wf | with_reducible apply State.loseSeamless_wf | with_reducible apply State.makeHole_wf | with_reducible apply State.releaseFrozen_wf | with_reducible apply State.serveHeld_wf | with_reducible apply State.showDie_wf | with_reducible apply State.useSpare_wf | (with_reducible refine foldl_wf _ (fun s x h => ?_) _ _ ?_) | (with_reducible refine foldl_fst_wf _ (fun r x h => ?_) _ _ ?_) | with_reducible apply ite_wf | split | dsimp only | intro _)

theorem execRimSegmentFail_wf (segment : Nat) (s : State) (t1 : State) (hwf : Memory.wf s.mem = true) (e : execRimSegmentFail segment s = .next t1) : Memory.wf t1.mem = true := by
  refine answer_wf _ _ _ ?_ e
  repeat' (first | with_reducible assumption | with_reducible apply onlyIf_wf | dsimp only | intro _)

theorem execPanelReset_wf (id : Nat) (io : HostIo) (s : State) (t1 : State) (hwf : Memory.wf s.mem = true) (e : execPanelReset id io s = .next t1) : Memory.wf t1.mem = true := by
  refine answer_wf _ _ _ ?_ e
  repeat' (first | with_reducible assumption | with_reducible apply State.entryVisible_wf | with_reducible apply State.finish_wf | with_reducible apply State.panelReset_wf | with_reducible apply State.putBar0_wf | with_reducible apply State.runCmd_wf | with_reducible apply ite_wf | split | dsimp only | intro _)

theorem execPanelResetLAssert_wf (s : State) (t1 : State) (hwf : Memory.wf s.mem = true) (e : execPanelResetLAssert s = .next t1) : Memory.wf t1.mem = true := by
  refine answer_wf _ _ _ ?_ e
  repeat' (first | with_reducible assumption | with_reducible apply onlyIf_wf | with_reducible apply State.panelReset_wf | dsimp only | intro _)

theorem execPanelResetLRelease_wf (s : State) (t1 : State) (hwf : Memory.wf s.mem = true) (e : execPanelResetLRelease s = .next t1) : Memory.wf t1.mem = true := by
  refine answer_wf _ _ _ ?_ e
  repeat' (first | with_reducible assumption | with_reducible apply onlyIf_wf | dsimp only | intro _)

theorem execPowerFail_wf (s : State) (t1 : State) (hwf : Memory.wf s.mem = true) (e : execPowerFail s = .next t1) : Memory.wf t1.mem = true := by
  refine answer_wf _ _ _ ?_ e
  repeat' (first | with_reducible assumption | with_reducible apply State.panelReset_wf | with_reducible apply State.record_wf | with_reducible apply State.setVpm_wf | with_reducible apply ite_wf | split | dsimp only | intro _)

theorem execPowerGood_wf (slotId : BitVec 6) (s : State) (t1 : State) (hwf : Memory.wf s.mem = true) (e : execPowerGood slotId s = .next t1) : Memory.wf t1.mem = true := by
  refine answer_wf _ _ _ ?_ e
  repeat' (first | with_reducible assumption | with_reducible apply State.renewNonce_wf | with_reducible apply State.setMgtField_wf | with_reducible apply State.setVpm_wf | with_reducible apply ite_wf | split | dsimp only | intro _)

theorem execBringup_wf (f : BringupFound) (s : State) (t1 : State) (hwf : Memory.wf s.mem = true) (e : execBringup f s = .next t1) : Memory.wf t1.mem = true := by
  refine answer_wf _ _ _ ?_ e
  repeat' (first | with_reducible assumption | with_reducible apply State.endBringup_wf | with_reducible apply State.enterDebug_wf | with_reducible apply State.enterRecovery_wf | with_reducible apply State.startGleryn_wf | with_reducible apply State.testAll_wf | with_reducible apply ite_wf | split | dsimp only | intro _)

theorem execCtHeartbeat_wf (die : Nat) (s : State) (t1 : State) (hwf : Memory.wf s.mem = true) (e : execCtHeartbeat die s = .next t1) : Memory.wf t1.mem = true := by
  refine answer_wf _ _ _ ?_ e
  repeat' (first | with_reducible assumption | with_reducible apply onlyIf_wf | with_reducible apply State.setControl_wf | dsimp only | intro _)

theorem execGlerynWatchdogExpiry_wf (die : Nat) (s : State) (t1 : State) (hwf : Memory.wf s.mem = true) (e : execGlerynWatchdogExpiry die s = .next t1) : Memory.wf t1.mem = true := by
  refine answer_wf _ _ _ ?_ e
  repeat' (first | with_reducible assumption | with_reducible apply onlyIf_wf | with_reducible apply State.setControl_wf | dsimp only | intro _)

theorem execControlDieFailover_wf (cause : Nat) (s : State) (t1 : State) (hwf : Memory.wf s.mem = true) (e : execControlDieFailover cause s = .next t1) : Memory.wf t1.mem = true := by
  refine answer_wf _ _ _ ?_ e
  repeat' (first | with_reducible assumption | with_reducible apply State.addDefect_wf | with_reducible apply State.record_wf | with_reducible apply State.refreshState_wf | with_reducible apply State.setControl_wf | with_reducible apply State.setPanelState_wf | with_reducible apply State.setRdy_wf | with_reducible apply State.takeOver_wf | with_reducible apply ite_wf | split | dsimp only | intro _)

theorem execControlDieRebootDone_wf (die : Nat) (ok : Bool) (s : State) (t1 : State) (hwf : Memory.wf s.mem = true) (e : execControlDieRebootDone die ok s = .next t1) : Memory.wf t1.mem = true := by
  refine answer_wf _ _ _ ?_ e
  repeat' (first | with_reducible assumption | with_reducible apply State.addDefect_wf | with_reducible apply State.draw_wf | with_reducible apply State.record_wf | with_reducible apply State.refreshState_wf | with_reducible apply State.setControl_wf | with_reducible apply ite_wf | split | dsimp only | intro _)

theorem execFwStage_wf (id : Nat) (io : HostIo) (s : State) (t1 : State) (hwf : Memory.wf s.mem = true) (e : execFwStage id io s = .next t1) : Memory.wf t1.mem = true := by
  refine answer_wf _ _ _ ?_ e
  repeat' (first | with_reducible assumption | with_reducible apply State.fail_wf | with_reducible apply State.finishNoted_wf | with_reducible apply State.record_wf | with_reducible apply State.runCmd_wf | with_reducible apply ite_wf | split | dsimp only | intro _)

theorem execFwCommit_wf (id : Nat) (io : HostIo) (s : State) (t1 : State) (hwf : Memory.wf s.mem = true) (e : execFwCommit id io s = .next t1) : Memory.wf t1.mem = true := by
  refine answer_wf _ _ _ ?_ e
  repeat' (first | with_reducible assumption | with_reducible apply State.fail_wf | with_reducible apply State.runCmd_wf | with_reducible apply State.setControl_wf | with_reducible apply ite_wf | split | dsimp only | intro _)

theorem execFirmwareSwapHandover_wf (ok : Bool) (s : State) (t1 : State) (hwf : Memory.wf s.mem = true) (e : execFirmwareSwapHandover ok s = .next t1) : Memory.wf t1.mem = true := by
  refine answer_wf _ _ _ ?_ e
  repeat' (first | with_reducible assumption | with_reducible apply State.fail_wf | with_reducible apply State.finishNoted_wf | with_reducible apply State.record_wf | with_reducible apply State.refreshState_wf | with_reducible apply State.setControl_wf | with_reducible apply State.takeOver_wf | with_reducible apply ite_wf | split | dsimp only | intro _)

theorem execRecoveryOffer_wf (p : Packet) (port : Nat) (image : Bytes) (flashOk : Bool) (s : State) (t1 : State) (hwf : Memory.wf s.mem = true) (e : execRecoveryOffer p port image flashOk s = .next t1) : Memory.wf t1.mem = true := by
  refine answer_wf _ _ _ ?_ e
  repeat' (first | with_reducible assumption | with_reducible apply State.answerBusy_wf | with_reducible apply State.count_wf | with_reducible apply State.record_wf | with_reducible apply State.requestIn_wf | with_reducible apply State.setMgtField_wf | with_reducible apply State.writeEpt_wf | with_reducible apply ite_wf | split | dsimp only | intro _)

theorem execRecoveryOfferTimer_wf (peer : BitVec 24) (s : State) (t1 : State) (hwf : Memory.wf s.mem = true) (e : execRecoveryOfferTimer peer s = .next t1) : Memory.wf t1.mem = true := by
  refine answer_wf _ _ _ ?_ e
  repeat' (first | with_reducible assumption | with_reducible apply State.sendOn_wf | with_reducible apply ite_wf | split | dsimp only | intro _)

theorem execAttest_wf (id : Nat) (io : HostIo) (s : State) (t1 : State) (hwf : Memory.wf s.mem = true) (e : execAttest id io s = .next t1) : Memory.wf t1.mem = true := by
  refine answer_wf _ _ _ ?_ e
  repeat' (first | with_reducible assumption | with_reducible apply State.fail_wf | with_reducible apply State.finishOut_wf | with_reducible apply State.makeAk_wf | with_reducible apply State.runCmd_wf | with_reducible apply State.withHost_wf | with_reducible apply ite_wf | split | dsimp only | intro _)

theorem execOwnerKeySet_wf (id : Nat) (io : HostIo) (s : State) (t1 : State) (hwf : Memory.wf s.mem = true) (e : execOwnerKeySet id io s = .next t1) : Memory.wf t1.mem = true := by
  refine answer_wf _ _ _ ?_ e
  repeat' (first | with_reducible assumption | with_reducible apply State.fail_wf | with_reducible apply State.finishNoted_wf | with_reducible apply State.record_wf | with_reducible apply State.runCmd_wf | with_reducible apply State.withHost_wf | with_reducible apply ite_wf | split | dsimp only | intro _)

theorem execDebugUnlock_wf (auth : Bytes) (s : State) (t1 : State) (hwf : Memory.wf s.mem = true) (e : execDebugUnlock auth s = .next t1) : Memory.wf t1.mem = true := by
  refine answer_wf _ _ _ ?_ e
  repeat' (first | with_reducible assumption | with_reducible apply onlyIf_wf | with_reducible apply State.unlock_wf | dsimp only | intro _)

theorem execRedfishRequest_wf (admin : Bool) (r : Redfish) (s : State) (t1 : State) (hwf : Memory.wf s.mem = true) (e : execRedfishRequest admin r s = .next t1) : Memory.wf t1.mem = true := by
  refine answer_wf _ _ _ ?_ e
  repeat' (first | with_reducible assumption | with_reducible apply onlyIf_wf | with_reducible apply State.serve_wf | dsimp only | intro _)

end Sys2Proof.Laws
end

