-- ==== Sys2Proof/Laws/State.lean ====
section
/-! SUPPORT. What each update of State leaves alone, one lemma for each field, and what it makes an accessor read. -/

namespace Sys2Proof.Laws

open Sys2Proof.Machine

@[simp] theorem setCore_now (s : State) (h : Nat) (c : Core) : (s.setCore h c).now = s.now := rfl
@[simp] theorem setCore_free (s : State) (h : Nat) (c : Core) : (s.setCore h c).free = s.free := rfl
@[simp] theorem setCore_pending (s : State) (h : Nat) (c : Core) : (s.setCore h c).pending = s.pending := rfl
@[simp] theorem setCore_mem (s : State) (h : Nat) (c : Core) : (s.setCore h c).mem = s.mem := rfl
@[simp] theorem setCore_regs (s : State) (h : Nat) (c : Core) : (s.setCore h c).regs = s.regs := rfl
@[simp] theorem setCore_bar0 (s : State) (h : Nat) (c : Core) : (s.setCore h c).bar0 = s.bar0 := rfl
@[simp] theorem setCore_phys (s : State) (h : Nat) (c : Core) : (s.setCore h c).phys = s.phys := rfl
@[simp] theorem setCore_clusters (s : State) (h : Nat) (c : Core) : (s.setCore h c).clusters = s.clusters := rfl
@[simp] theorem setCore_movedIn (s : State) (h : Nat) (c : Core) : (s.setCore h c).movedIn = s.movedIn := rfl
@[simp] theorem setCore_regions (s : State) (h : Nat) (c : Core) : (s.setCore h c).regions = s.regions := rfl
@[simp] theorem setCore_parts (s : State) (h : Nat) (c : Core) : (s.setCore h c).parts = s.parts := rfl
@[simp] theorem setCore_stackTbl (s : State) (h : Nat) (c : Core) : (s.setCore h c).stackTbl = s.stackTbl := rfl
@[simp] theorem setCore_seams (s : State) (h : Nat) (c : Core) : (s.setCore h c).seams = s.seams := rfl
@[simp] theorem setCore_moving (s : State) (h : Nat) (c : Core) : (s.setCore h c).moving = s.moving := rfl
@[simp] theorem setCore_ports (s : State) (h : Nat) (c : Core) : (s.setCore h c).ports = s.ports := rfl
@[simp] theorem setCore_ept (s : State) (h : Nat) (c : Core) : (s.setCore h c).ept = s.ept := rfl
@[simp] theorem setCore_pgroups (s : State) (h : Nat) (c : Core) : (s.setCore h c).pgroups = s.pgroups := rfl
@[simp] theorem setCore_mcast (s : State) (h : Nat) (c : Core) : (s.setCore h c).mcast = s.mcast := rfl
@[simp] theorem setCore_resident (s : State) (h : Nat) (c : Core) : (s.setCore h c).resident = s.resident := rfl
@[simp] theorem setCore_ctxs (s : State) (h : Nat) (c : Core) : (s.setCore h c).ctxs = s.ctxs := rfl
@[simp] theorem setCore_sends (s : State) (h : Nat) (c : Core) : (s.setCore h c).sends = s.sends := rfl
@[simp] theorem setCore_recvs (s : State) (h : Nat) (c : Core) : (s.setCore h c).recvs = s.recvs := rfl
@[simp] theorem setCore_host (s : State) (h : Nat) (c : Core) : (s.setCore h c).host = s.host := rfl
@[simp] theorem setCore_power (s : State) (h : Nat) (c : Core) : (s.setCore h c).power = s.power := rfl
@[simp] theorem setCore_sparing (s : State) (h : Nat) (c : Core) : (s.setCore h c).sparing = s.sparing := rfl
@[simp] theorem setCore_evr (s : State) (h : Nat) (c : Core) : (s.setCore h c).evr = s.evr := rfl
@[simp] theorem setCore_trust (s : State) (h : Nat) (c : Core) : (s.setCore h c).trust = s.trust := rfl
@[simp] theorem setCore_hw (s : State) (h : Nat) (c : Core) : (s.setCore h c).hw = s.hw := rfl

@[simp] theorem setClu_now (s : State) (c : Nat) (v : Cluster) : (s.setClu c v).now = s.now := rfl
@[simp] theorem setClu_free (s : State) (c : Nat) (v : Cluster) : (s.setClu c v).free = s.free := rfl
@[simp] theorem setClu_pending (s : State) (c : Nat) (v : Cluster) : (s.setClu c v).pending = s.pending := rfl
@[simp] theorem setClu_mem (s : State) (c : Nat) (v : Cluster) : (s.setClu c v).mem = s.mem := rfl
@[simp] theorem setClu_regs (s : State) (c : Nat) (v : Cluster) : (s.setClu c v).regs = s.regs := rfl
@[simp] theorem setClu_bar0 (s : State) (c : Nat) (v : Cluster) : (s.setClu c v).bar0 = s.bar0 := rfl
@[simp] theorem setClu_cores (s : State) (c : Nat) (v : Cluster) : (s.setClu c v).cores = s.cores := rfl
@[simp] theorem setClu_phys (s : State) (c : Nat) (v : Cluster) : (s.setClu c v).phys = s.phys := rfl
@[simp] theorem setClu_movedIn (s : State) (c : Nat) (v : Cluster) : (s.setClu c v).movedIn = s.movedIn := rfl
@[simp] theorem setClu_regions (s : State) (c : Nat) (v : Cluster) : (s.setClu c v).regions = s.regions := rfl
@[simp] theorem setClu_parts (s : State) (c : Nat) (v : Cluster) : (s.setClu c v).parts = s.parts := rfl
@[simp] theorem setClu_stackTbl (s : State) (c : Nat) (v : Cluster) : (s.setClu c v).stackTbl = s.stackTbl := rfl
@[simp] theorem setClu_seams (s : State) (c : Nat) (v : Cluster) : (s.setClu c v).seams = s.seams := rfl
@[simp] theorem setClu_moving (s : State) (c : Nat) (v : Cluster) : (s.setClu c v).moving = s.moving := rfl
@[simp] theorem setClu_ports (s : State) (c : Nat) (v : Cluster) : (s.setClu c v).ports = s.ports := rfl
@[simp] theorem setClu_ept (s : State) (c : Nat) (v : Cluster) : (s.setClu c v).ept = s.ept := rfl
@[simp] theorem setClu_pgroups (s : State) (c : Nat) (v : Cluster) : (s.setClu c v).pgroups = s.pgroups := rfl
@[simp] theorem setClu_mcast (s : State) (c : Nat) (v : Cluster) : (s.setClu c v).mcast = s.mcast := rfl
@[simp] theorem setClu_resident (s : State) (c : Nat) (v : Cluster) : (s.setClu c v).resident = s.resident := rfl
@[simp] theorem setClu_ctxs (s : State) (c : Nat) (v : Cluster) : (s.setClu c v).ctxs = s.ctxs := rfl
@[simp] theorem setClu_sends (s : State) (c : Nat) (v : Cluster) : (s.setClu c v).sends = s.sends := rfl
@[simp] theorem setClu_recvs (s : State) (c : Nat) (v : Cluster) : (s.setClu c v).recvs = s.recvs := rfl
@[simp] theorem setClu_host (s : State) (c : Nat) (v : Cluster) : (s.setClu c v).host = s.host := rfl
@[simp] theorem setClu_power (s : State) (c : Nat) (v : Cluster) : (s.setClu c v).power = s.power := rfl
@[simp] theorem setClu_sparing (s : State) (c : Nat) (v : Cluster) : (s.setClu c v).sparing = s.sparing := rfl
@[simp] theorem setClu_evr (s : State) (c : Nat) (v : Cluster) : (s.setClu c v).evr = s.evr := rfl
@[simp] theorem setClu_trust (s : State) (c : Nat) (v : Cluster) : (s.setClu c v).trust = s.trust := rfl
@[simp] theorem setClu_hw (s : State) (c : Nat) (v : Cluster) : (s.setClu c v).hw = s.hw := rfl

@[simp] theorem setPhys_now (s : State) (pk : Nat) (v : Phys) : (s.setPhys pk v).now = s.now := rfl
@[simp] theorem setPhys_free (s : State) (pk : Nat) (v : Phys) : (s.setPhys pk v).free = s.free := rfl
@[simp] theorem setPhys_pending (s : State) (pk : Nat) (v : Phys) : (s.setPhys pk v).pending = s.pending := rfl
@[simp] theorem setPhys_mem (s : State) (pk : Nat) (v : Phys) : (s.setPhys pk v).mem = s.mem := rfl
@[simp] theorem setPhys_regs (s : State) (pk : Nat) (v : Phys) : (s.setPhys pk v).regs = s.regs := rfl
@[simp] theorem setPhys_bar0 (s : State) (pk : Nat) (v : Phys) : (s.setPhys pk v).bar0 = s.bar0 := rfl
@[simp] theorem setPhys_cores (s : State) (pk : Nat) (v : Phys) : (s.setPhys pk v).cores = s.cores := rfl
@[simp] theorem setPhys_clusters (s : State) (pk : Nat) (v : Phys) : (s.setPhys pk v).clusters = s.clusters := rfl
@[simp] theorem setPhys_movedIn (s : State) (pk : Nat) (v : Phys) : (s.setPhys pk v).movedIn = s.movedIn := rfl
@[simp] theorem setPhys_regions (s : State) (pk : Nat) (v : Phys) : (s.setPhys pk v).regions = s.regions := rfl
@[simp] theorem setPhys_parts (s : State) (pk : Nat) (v : Phys) : (s.setPhys pk v).parts = s.parts := rfl
@[simp] theorem setPhys_stackTbl (s : State) (pk : Nat) (v : Phys) : (s.setPhys pk v).stackTbl = s.stackTbl := rfl
@[simp] theorem setPhys_seams (s : State) (pk : Nat) (v : Phys) : (s.setPhys pk v).seams = s.seams := rfl
@[simp] theorem setPhys_moving (s : State) (pk : Nat) (v : Phys) : (s.setPhys pk v).moving = s.moving := rfl
@[simp] theorem setPhys_ports (s : State) (pk : Nat) (v : Phys) : (s.setPhys pk v).ports = s.ports := rfl
@[simp] theorem setPhys_ept (s : State) (pk : Nat) (v : Phys) : (s.setPhys pk v).ept = s.ept := rfl
@[simp] theorem setPhys_pgroups (s : State) (pk : Nat) (v : Phys) : (s.setPhys pk v).pgroups = s.pgroups := rfl
@[simp] theorem setPhys_mcast (s : State) (pk : Nat) (v : Phys) : (s.setPhys pk v).mcast = s.mcast := rfl
@[simp] theorem setPhys_resident (s : State) (pk : Nat) (v : Phys) : (s.setPhys pk v).resident = s.resident := rfl
@[simp] theorem setPhys_ctxs (s : State) (pk : Nat) (v : Phys) : (s.setPhys pk v).ctxs = s.ctxs := rfl
@[simp] theorem setPhys_sends (s : State) (pk : Nat) (v : Phys) : (s.setPhys pk v).sends = s.sends := rfl
@[simp] theorem setPhys_recvs (s : State) (pk : Nat) (v : Phys) : (s.setPhys pk v).recvs = s.recvs := rfl
@[simp] theorem setPhys_host (s : State) (pk : Nat) (v : Phys) : (s.setPhys pk v).host = s.host := rfl
@[simp] theorem setPhys_power (s : State) (pk : Nat) (v : Phys) : (s.setPhys pk v).power = s.power := rfl
@[simp] theorem setPhys_sparing (s : State) (pk : Nat) (v : Phys) : (s.setPhys pk v).sparing = s.sparing := rfl
@[simp] theorem setPhys_evr (s : State) (pk : Nat) (v : Phys) : (s.setPhys pk v).evr = s.evr := rfl
@[simp] theorem setPhys_trust (s : State) (pk : Nat) (v : Phys) : (s.setPhys pk v).trust = s.trust := rfl
@[simp] theorem setPhys_hw (s : State) (pk : Nat) (v : Phys) : (s.setPhys pk v).hw = s.hw := rfl

@[simp] theorem setPart_now (s : State) (p : Nat) (v : Part) : (s.setPart p v).now = s.now := rfl
@[simp] theorem setPart_free (s : State) (p : Nat) (v : Part) : (s.setPart p v).free = s.free := rfl
@[simp] theorem setPart_pending (s : State) (p : Nat) (v : Part) : (s.setPart p v).pending = s.pending := rfl
@[simp] theorem setPart_mem (s : State) (p : Nat) (v : Part) : (s.setPart p v).mem = s.mem := rfl
@[simp] theorem setPart_regs (s : State) (p : Nat) (v : Part) : (s.setPart p v).regs = s.regs := rfl
@[simp] theorem setPart_bar0 (s : State) (p : Nat) (v : Part) : (s.setPart p v).bar0 = s.bar0 := rfl
@[simp] theorem setPart_cores (s : State) (p : Nat) (v : Part) : (s.setPart p v).cores = s.cores := rfl
@[simp] theorem setPart_phys (s : State) (p : Nat) (v : Part) : (s.setPart p v).phys = s.phys := rfl
@[simp] theorem setPart_clusters (s : State) (p : Nat) (v : Part) : (s.setPart p v).clusters = s.clusters := rfl
@[simp] theorem setPart_movedIn (s : State) (p : Nat) (v : Part) : (s.setPart p v).movedIn = s.movedIn := rfl
@[simp] theorem setPart_regions (s : State) (p : Nat) (v : Part) : (s.setPart p v).regions = s.regions := rfl
@[simp] theorem setPart_stackTbl (s : State) (p : Nat) (v : Part) : (s.setPart p v).stackTbl = s.stackTbl := rfl
@[simp] theorem setPart_seams (s : State) (p : Nat) (v : Part) : (s.setPart p v).seams = s.seams := rfl
@[simp] theorem setPart_moving (s : State) (p : Nat) (v : Part) : (s.setPart p v).moving = s.moving := rfl
@[simp] theorem setPart_ports (s : State) (p : Nat) (v : Part) : (s.setPart p v).ports = s.ports := rfl
@[simp] theorem setPart_ept (s : State) (p : Nat) (v : Part) : (s.setPart p v).ept = s.ept := rfl
@[simp] theorem setPart_pgroups (s : State) (p : Nat) (v : Part) : (s.setPart p v).pgroups = s.pgroups := rfl
@[simp] theorem setPart_mcast (s : State) (p : Nat) (v : Part) : (s.setPart p v).mcast = s.mcast := rfl
@[simp] theorem setPart_resident (s : State) (p : Nat) (v : Part) : (s.setPart p v).resident = s.resident := rfl
@[simp] theorem setPart_ctxs (s : State) (p : Nat) (v : Part) : (s.setPart p v).ctxs = s.ctxs := rfl
@[simp] theorem setPart_sends (s : State) (p : Nat) (v : Part) : (s.setPart p v).sends = s.sends := rfl
@[simp] theorem setPart_recvs (s : State) (p : Nat) (v : Part) : (s.setPart p v).recvs = s.recvs := rfl
@[simp] theorem setPart_host (s : State) (p : Nat) (v : Part) : (s.setPart p v).host = s.host := rfl
@[simp] theorem setPart_power (s : State) (p : Nat) (v : Part) : (s.setPart p v).power = s.power := rfl
@[simp] theorem setPart_sparing (s : State) (p : Nat) (v : Part) : (s.setPart p v).sparing = s.sparing := rfl
@[simp] theorem setPart_evr (s : State) (p : Nat) (v : Part) : (s.setPart p v).evr = s.evr := rfl
@[simp] theorem setPart_trust (s : State) (p : Nat) (v : Part) : (s.setPart p v).trust = s.trust := rfl
@[simp] theorem setPart_hw (s : State) (p : Nat) (v : Part) : (s.setPart p v).hw = s.hw := rfl

@[simp] theorem setRegion_now (s : State) (r : Nat) (v : Region) : (s.setRegion r v).now = s.now := rfl
@[simp] theorem setRegion_free (s : State) (r : Nat) (v : Region) : (s.setRegion r v).free = s.free := rfl
@[simp] theorem setRegion_pending (s : State) (r : Nat) (v : Region) : (s.setRegion r v).pending = s.pending := rfl
@[simp] theorem setRegion_mem (s : State) (r : Nat) (v : Region) : (s.setRegion r v).mem = s.mem := rfl
@[simp] theorem setRegion_regs (s : State) (r : Nat) (v : Region) : (s.setRegion r v).regs = s.regs := rfl
@[simp] theorem setRegion_bar0 (s : State) (r : Nat) (v : Region) : (s.setRegion r v).bar0 = s.bar0 := rfl
@[simp] theorem setRegion_cores (s : State) (r : Nat) (v : Region) : (s.setRegion r v).cores = s.cores := rfl
@[simp] theorem setRegion_phys (s : State) (r : Nat) (v : Region) : (s.setRegion r v).phys = s.phys := rfl
@[simp] theorem setRegion_clusters (s : State) (r : Nat) (v : Region) : (s.setRegion r v).clusters = s.clusters := rfl
@[simp] theorem setRegion_movedIn (s : State) (r : Nat) (v : Region) : (s.setRegion r v).movedIn = s.movedIn := rfl
@[simp] theorem setRegion_parts (s : State) (r : Nat) (v : Region) : (s.setRegion r v).parts = s.parts := rfl
@[simp] theorem setRegion_stackTbl (s : State) (r : Nat) (v : Region) : (s.setRegion r v).stackTbl = s.stackTbl := rfl
@[simp] theorem setRegion_seams (s : State) (r : Nat) (v : Region) : (s.setRegion r v).seams = s.seams := rfl
@[simp] theorem setRegion_moving (s : State) (r : Nat) (v : Region) : (s.setRegion r v).moving = s.moving := rfl
@[simp] theorem setRegion_ports (s : State) (r : Nat) (v : Region) : (s.setRegion r v).ports = s.ports := rfl
@[simp] theorem setRegion_ept (s : State) (r : Nat) (v : Region) : (s.setRegion r v).ept = s.ept := rfl
@[simp] theorem setRegion_pgroups (s : State) (r : Nat) (v : Region) : (s.setRegion r v).pgroups = s.pgroups := rfl
@[simp] theorem setRegion_mcast (s : State) (r : Nat) (v : Region) : (s.setRegion r v).mcast = s.mcast := rfl
@[simp] theorem setRegion_resident (s : State) (r : Nat) (v : Region) : (s.setRegion r v).resident = s.resident := rfl
@[simp] theorem setRegion_ctxs (s : State) (r : Nat) (v : Region) : (s.setRegion r v).ctxs = s.ctxs := rfl
@[simp] theorem setRegion_sends (s : State) (r : Nat) (v : Region) : (s.setRegion r v).sends = s.sends := rfl
@[simp] theorem setRegion_recvs (s : State) (r : Nat) (v : Region) : (s.setRegion r v).recvs = s.recvs := rfl
@[simp] theorem setRegion_host (s : State) (r : Nat) (v : Region) : (s.setRegion r v).host = s.host := rfl
@[simp] theorem setRegion_power (s : State) (r : Nat) (v : Region) : (s.setRegion r v).power = s.power := rfl
@[simp] theorem setRegion_sparing (s : State) (r : Nat) (v : Region) : (s.setRegion r v).sparing = s.sparing := rfl
@[simp] theorem setRegion_evr (s : State) (r : Nat) (v : Region) : (s.setRegion r v).evr = s.evr := rfl
@[simp] theorem setRegion_trust (s : State) (r : Nat) (v : Region) : (s.setRegion r v).trust = s.trust := rfl
@[simp] theorem setRegion_hw (s : State) (r : Nat) (v : Region) : (s.setRegion r v).hw = s.hw := rfl

@[simp] theorem setStack_now (s : State) (n : Nat) (v : Stack) : (s.setStack n v).now = s.now := rfl
@[simp] theorem setStack_free (s : State) (n : Nat) (v : Stack) : (s.setStack n v).free = s.free := rfl
@[simp] theorem setStack_pending (s : State) (n : Nat) (v : Stack) : (s.setStack n v).pending = s.pending := rfl
@[simp] theorem setStack_mem (s : State) (n : Nat) (v : Stack) : (s.setStack n v).mem = s.mem := rfl
@[simp] theorem setStack_regs (s : State) (n : Nat) (v : Stack) : (s.setStack n v).regs = s.regs := rfl
@[simp] theorem setStack_bar0 (s : State) (n : Nat) (v : Stack) : (s.setStack n v).bar0 = s.bar0 := rfl
@[simp] theorem setStack_cores (s : State) (n : Nat) (v : Stack) : (s.setStack n v).cores = s.cores := rfl
@[simp] theorem setStack_phys (s : State) (n : Nat) (v : Stack) : (s.setStack n v).phys = s.phys := rfl
@[simp] theorem setStack_clusters (s : State) (n : Nat) (v : Stack) : (s.setStack n v).clusters = s.clusters := rfl
@[simp] theorem setStack_movedIn (s : State) (n : Nat) (v : Stack) : (s.setStack n v).movedIn = s.movedIn := rfl
@[simp] theorem setStack_regions (s : State) (n : Nat) (v : Stack) : (s.setStack n v).regions = s.regions := rfl
@[simp] theorem setStack_parts (s : State) (n : Nat) (v : Stack) : (s.setStack n v).parts = s.parts := rfl
@[simp] theorem setStack_seams (s : State) (n : Nat) (v : Stack) : (s.setStack n v).seams = s.seams := rfl
@[simp] theorem setStack_moving (s : State) (n : Nat) (v : Stack) : (s.setStack n v).moving = s.moving := rfl
@[simp] theorem setStack_ports (s : State) (n : Nat) (v : Stack) : (s.setStack n v).ports = s.ports := rfl
@[simp] theorem setStack_ept (s : State) (n : Nat) (v : Stack) : (s.setStack n v).ept = s.ept := rfl
@[simp] theorem setStack_pgroups (s : State) (n : Nat) (v : Stack) : (s.setStack n v).pgroups = s.pgroups := rfl
@[simp] theorem setStack_mcast (s : State) (n : Nat) (v : Stack) : (s.setStack n v).mcast = s.mcast := rfl
@[simp] theorem setStack_resident (s : State) (n : Nat) (v : Stack) : (s.setStack n v).resident = s.resident := rfl
@[simp] theorem setStack_ctxs (s : State) (n : Nat) (v : Stack) : (s.setStack n v).ctxs = s.ctxs := rfl
@[simp] theorem setStack_sends (s : State) (n : Nat) (v : Stack) : (s.setStack n v).sends = s.sends := rfl
@[simp] theorem setStack_recvs (s : State) (n : Nat) (v : Stack) : (s.setStack n v).recvs = s.recvs := rfl
@[simp] theorem setStack_host (s : State) (n : Nat) (v : Stack) : (s.setStack n v).host = s.host := rfl
@[simp] theorem setStack_power (s : State) (n : Nat) (v : Stack) : (s.setStack n v).power = s.power := rfl
@[simp] theorem setStack_sparing (s : State) (n : Nat) (v : Stack) : (s.setStack n v).sparing = s.sparing := rfl
@[simp] theorem setStack_evr (s : State) (n : Nat) (v : Stack) : (s.setStack n v).evr = s.evr := rfl
@[simp] theorem setStack_trust (s : State) (n : Nat) (v : Stack) : (s.setStack n v).trust = s.trust := rfl
@[simp] theorem setStack_hw (s : State) (n : Nat) (v : Stack) : (s.setStack n v).hw = s.hw := rfl

@[simp] theorem setSeam_now (s : State) (r : PortRef) (x : SeamEnd) : (s.setSeam r x).now = s.now := rfl
@[simp] theorem setSeam_free (s : State) (r : PortRef) (x : SeamEnd) : (s.setSeam r x).free = s.free := rfl
@[simp] theorem setSeam_pending (s : State) (r : PortRef) (x : SeamEnd) : (s.setSeam r x).pending = s.pending := rfl
@[simp] theorem setSeam_mem (s : State) (r : PortRef) (x : SeamEnd) : (s.setSeam r x).mem = s.mem := rfl
@[simp] theorem setSeam_regs (s : State) (r : PortRef) (x : SeamEnd) : (s.setSeam r x).regs = s.regs := rfl
@[simp] theorem setSeam_bar0 (s : State) (r : PortRef) (x : SeamEnd) : (s.setSeam r x).bar0 = s.bar0 := rfl
@[simp] theorem setSeam_cores (s : State) (r : PortRef) (x : SeamEnd) : (s.setSeam r x).cores = s.cores := rfl
@[simp] theorem setSeam_phys (s : State) (r : PortRef) (x : SeamEnd) : (s.setSeam r x).phys = s.phys := rfl
@[simp] theorem setSeam_clusters (s : State) (r : PortRef) (x : SeamEnd) : (s.setSeam r x).clusters = s.clusters := rfl
@[simp] theorem setSeam_movedIn (s : State) (r : PortRef) (x : SeamEnd) : (s.setSeam r x).movedIn = s.movedIn := rfl
@[simp] theorem setSeam_regions (s : State) (r : PortRef) (x : SeamEnd) : (s.setSeam r x).regions = s.regions := rfl
@[simp] theorem setSeam_parts (s : State) (r : PortRef) (x : SeamEnd) : (s.setSeam r x).parts = s.parts := rfl
@[simp] theorem setSeam_stackTbl (s : State) (r : PortRef) (x : SeamEnd) : (s.setSeam r x).stackTbl = s.stackTbl := rfl
@[simp] theorem setSeam_moving (s : State) (r : PortRef) (x : SeamEnd) : (s.setSeam r x).moving = s.moving := rfl
@[simp] theorem setSeam_ports (s : State) (r : PortRef) (x : SeamEnd) : (s.setSeam r x).ports = s.ports := rfl
@[simp] theorem setSeam_ept (s : State) (r : PortRef) (x : SeamEnd) : (s.setSeam r x).ept = s.ept := rfl
@[simp] theorem setSeam_pgroups (s : State) (r : PortRef) (x : SeamEnd) : (s.setSeam r x).pgroups = s.pgroups := rfl
@[simp] theorem setSeam_mcast (s : State) (r : PortRef) (x : SeamEnd) : (s.setSeam r x).mcast = s.mcast := rfl
@[simp] theorem setSeam_resident (s : State) (r : PortRef) (x : SeamEnd) : (s.setSeam r x).resident = s.resident := rfl
@[simp] theorem setSeam_ctxs (s : State) (r : PortRef) (x : SeamEnd) : (s.setSeam r x).ctxs = s.ctxs := rfl
@[simp] theorem setSeam_sends (s : State) (r : PortRef) (x : SeamEnd) : (s.setSeam r x).sends = s.sends := rfl
@[simp] theorem setSeam_recvs (s : State) (r : PortRef) (x : SeamEnd) : (s.setSeam r x).recvs = s.recvs := rfl
@[simp] theorem setSeam_host (s : State) (r : PortRef) (x : SeamEnd) : (s.setSeam r x).host = s.host := rfl
@[simp] theorem setSeam_power (s : State) (r : PortRef) (x : SeamEnd) : (s.setSeam r x).power = s.power := rfl
@[simp] theorem setSeam_sparing (s : State) (r : PortRef) (x : SeamEnd) : (s.setSeam r x).sparing = s.sparing := rfl
@[simp] theorem setSeam_evr (s : State) (r : PortRef) (x : SeamEnd) : (s.setSeam r x).evr = s.evr := rfl
@[simp] theorem setSeam_trust (s : State) (r : PortRef) (x : SeamEnd) : (s.setSeam r x).trust = s.trust := rfl
@[simp] theorem setSeam_hw (s : State) (r : PortRef) (x : SeamEnd) : (s.setSeam r x).hw = s.hw := rfl

@[simp] theorem setCtx_now (s : State) (k : Nat) (x : CollCtx) : (s.setCtx k x).now = s.now := rfl
@[simp] theorem setCtx_free (s : State) (k : Nat) (x : CollCtx) : (s.setCtx k x).free = s.free := rfl
@[simp] theorem setCtx_pending (s : State) (k : Nat) (x : CollCtx) : (s.setCtx k x).pending = s.pending := rfl
@[simp] theorem setCtx_mem (s : State) (k : Nat) (x : CollCtx) : (s.setCtx k x).mem = s.mem := rfl
@[simp] theorem setCtx_regs (s : State) (k : Nat) (x : CollCtx) : (s.setCtx k x).regs = s.regs := rfl
@[simp] theorem setCtx_bar0 (s : State) (k : Nat) (x : CollCtx) : (s.setCtx k x).bar0 = s.bar0 := rfl
@[simp] theorem setCtx_cores (s : State) (k : Nat) (x : CollCtx) : (s.setCtx k x).cores = s.cores := rfl
@[simp] theorem setCtx_phys (s : State) (k : Nat) (x : CollCtx) : (s.setCtx k x).phys = s.phys := rfl
@[simp] theorem setCtx_clusters (s : State) (k : Nat) (x : CollCtx) : (s.setCtx k x).clusters = s.clusters := rfl
@[simp] theorem setCtx_movedIn (s : State) (k : Nat) (x : CollCtx) : (s.setCtx k x).movedIn = s.movedIn := rfl
@[simp] theorem setCtx_regions (s : State) (k : Nat) (x : CollCtx) : (s.setCtx k x).regions = s.regions := rfl
@[simp] theorem setCtx_parts (s : State) (k : Nat) (x : CollCtx) : (s.setCtx k x).parts = s.parts := rfl
@[simp] theorem setCtx_stackTbl (s : State) (k : Nat) (x : CollCtx) : (s.setCtx k x).stackTbl = s.stackTbl := rfl
@[simp] theorem setCtx_seams (s : State) (k : Nat) (x : CollCtx) : (s.setCtx k x).seams = s.seams := rfl
@[simp] theorem setCtx_moving (s : State) (k : Nat) (x : CollCtx) : (s.setCtx k x).moving = s.moving := rfl
@[simp] theorem setCtx_ports (s : State) (k : Nat) (x : CollCtx) : (s.setCtx k x).ports = s.ports := rfl
@[simp] theorem setCtx_ept (s : State) (k : Nat) (x : CollCtx) : (s.setCtx k x).ept = s.ept := rfl
@[simp] theorem setCtx_pgroups (s : State) (k : Nat) (x : CollCtx) : (s.setCtx k x).pgroups = s.pgroups := rfl
@[simp] theorem setCtx_mcast (s : State) (k : Nat) (x : CollCtx) : (s.setCtx k x).mcast = s.mcast := rfl
@[simp] theorem setCtx_resident (s : State) (k : Nat) (x : CollCtx) : (s.setCtx k x).resident = s.resident := rfl
@[simp] theorem setCtx_sends (s : State) (k : Nat) (x : CollCtx) : (s.setCtx k x).sends = s.sends := rfl
@[simp] theorem setCtx_recvs (s : State) (k : Nat) (x : CollCtx) : (s.setCtx k x).recvs = s.recvs := rfl
@[simp] theorem setCtx_host (s : State) (k : Nat) (x : CollCtx) : (s.setCtx k x).host = s.host := rfl
@[simp] theorem setCtx_power (s : State) (k : Nat) (x : CollCtx) : (s.setCtx k x).power = s.power := rfl
@[simp] theorem setCtx_sparing (s : State) (k : Nat) (x : CollCtx) : (s.setCtx k x).sparing = s.sparing := rfl
@[simp] theorem setCtx_evr (s : State) (k : Nat) (x : CollCtx) : (s.setCtx k x).evr = s.evr := rfl
@[simp] theorem setCtx_trust (s : State) (k : Nat) (x : CollCtx) : (s.setCtx k x).trust = s.trust := rfl
@[simp] theorem setCtx_hw (s : State) (k : Nat) (x : CollCtx) : (s.setCtx k x).hw = s.hw := rfl

@[simp] theorem setMoving_now (s : State) (i : Nat) (m : Moving) : (s.setMoving i m).now = s.now := rfl
@[simp] theorem setMoving_free (s : State) (i : Nat) (m : Moving) : (s.setMoving i m).free = s.free := rfl
@[simp] theorem setMoving_pending (s : State) (i : Nat) (m : Moving) : (s.setMoving i m).pending = s.pending := rfl
@[simp] theorem setMoving_mem (s : State) (i : Nat) (m : Moving) : (s.setMoving i m).mem = s.mem := rfl
@[simp] theorem setMoving_regs (s : State) (i : Nat) (m : Moving) : (s.setMoving i m).regs = s.regs := rfl
@[simp] theorem setMoving_bar0 (s : State) (i : Nat) (m : Moving) : (s.setMoving i m).bar0 = s.bar0 := rfl
@[simp] theorem setMoving_cores (s : State) (i : Nat) (m : Moving) : (s.setMoving i m).cores = s.cores := rfl
@[simp] theorem setMoving_phys (s : State) (i : Nat) (m : Moving) : (s.setMoving i m).phys = s.phys := rfl
@[simp] theorem setMoving_clusters (s : State) (i : Nat) (m : Moving) : (s.setMoving i m).clusters = s.clusters := rfl
@[simp] theorem setMoving_movedIn (s : State) (i : Nat) (m : Moving) : (s.setMoving i m).movedIn = s.movedIn := rfl
@[simp] theorem setMoving_regions (s : State) (i : Nat) (m : Moving) : (s.setMoving i m).regions = s.regions := rfl
@[simp] theorem setMoving_parts (s : State) (i : Nat) (m : Moving) : (s.setMoving i m).parts = s.parts := rfl
@[simp] theorem setMoving_stackTbl (s : State) (i : Nat) (m : Moving) : (s.setMoving i m).stackTbl = s.stackTbl := rfl
@[simp] theorem setMoving_seams (s : State) (i : Nat) (m : Moving) : (s.setMoving i m).seams = s.seams := rfl
@[simp] theorem setMoving_ports (s : State) (i : Nat) (m : Moving) : (s.setMoving i m).ports = s.ports := rfl
@[simp] theorem setMoving_ept (s : State) (i : Nat) (m : Moving) : (s.setMoving i m).ept = s.ept := rfl
@[simp] theorem setMoving_pgroups (s : State) (i : Nat) (m : Moving) : (s.setMoving i m).pgroups = s.pgroups := rfl
@[simp] theorem setMoving_mcast (s : State) (i : Nat) (m : Moving) : (s.setMoving i m).mcast = s.mcast := rfl
@[simp] theorem setMoving_resident (s : State) (i : Nat) (m : Moving) : (s.setMoving i m).resident = s.resident := rfl
@[simp] theorem setMoving_ctxs (s : State) (i : Nat) (m : Moving) : (s.setMoving i m).ctxs = s.ctxs := rfl
@[simp] theorem setMoving_sends (s : State) (i : Nat) (m : Moving) : (s.setMoving i m).sends = s.sends := rfl
@[simp] theorem setMoving_recvs (s : State) (i : Nat) (m : Moving) : (s.setMoving i m).recvs = s.recvs := rfl
@[simp] theorem setMoving_host (s : State) (i : Nat) (m : Moving) : (s.setMoving i m).host = s.host := rfl
@[simp] theorem setMoving_power (s : State) (i : Nat) (m : Moving) : (s.setMoving i m).power = s.power := rfl
@[simp] theorem setMoving_sparing (s : State) (i : Nat) (m : Moving) : (s.setMoving i m).sparing = s.sparing := rfl
@[simp] theorem setMoving_evr (s : State) (i : Nat) (m : Moving) : (s.setMoving i m).evr = s.evr := rfl
@[simp] theorem setMoving_trust (s : State) (i : Nat) (m : Moving) : (s.setMoving i m).trust = s.trust := rfl
@[simp] theorem setMoving_hw (s : State) (i : Nat) (m : Moving) : (s.setMoving i m).hw = s.hw := rfl

@[simp] theorem setPort_now (s : State) (n : Nat) (v : LinkPort) : (s.setPort n v).now = s.now := rfl
@[simp] theorem setPort_free (s : State) (n : Nat) (v : LinkPort) : (s.setPort n v).free = s.free := rfl
@[simp] theorem setPort_pending (s : State) (n : Nat) (v : LinkPort) : (s.setPort n v).pending = s.pending := rfl
@[simp] theorem setPort_mem (s : State) (n : Nat) (v : LinkPort) : (s.setPort n v).mem = s.mem := rfl
@[simp] theorem setPort_regs (s : State) (n : Nat) (v : LinkPort) : (s.setPort n v).regs = s.regs := rfl
@[simp] theorem setPort_bar0 (s : State) (n : Nat) (v : LinkPort) : (s.setPort n v).bar0 = s.bar0 := rfl
@[simp] theorem setPort_cores (s : State) (n : Nat) (v : LinkPort) : (s.setPort n v).cores = s.cores := rfl
@[simp] theorem setPort_phys (s : State) (n : Nat) (v : LinkPort) : (s.setPort n v).phys = s.phys := rfl
@[simp] theorem setPort_clusters (s : State) (n : Nat) (v : LinkPort) : (s.setPort n v).clusters = s.clusters := rfl
@[simp] theorem setPort_movedIn (s : State) (n : Nat) (v : LinkPort) : (s.setPort n v).movedIn = s.movedIn := rfl
@[simp] theorem setPort_regions (s : State) (n : Nat) (v : LinkPort) : (s.setPort n v).regions = s.regions := rfl
@[simp] theorem setPort_parts (s : State) (n : Nat) (v : LinkPort) : (s.setPort n v).parts = s.parts := rfl
@[simp] theorem setPort_stackTbl (s : State) (n : Nat) (v : LinkPort) : (s.setPort n v).stackTbl = s.stackTbl := rfl
@[simp] theorem setPort_seams (s : State) (n : Nat) (v : LinkPort) : (s.setPort n v).seams = s.seams := rfl
@[simp] theorem setPort_moving (s : State) (n : Nat) (v : LinkPort) : (s.setPort n v).moving = s.moving := rfl
@[simp] theorem setPort_ept (s : State) (n : Nat) (v : LinkPort) : (s.setPort n v).ept = s.ept := rfl
@[simp] theorem setPort_pgroups (s : State) (n : Nat) (v : LinkPort) : (s.setPort n v).pgroups = s.pgroups := rfl
@[simp] theorem setPort_mcast (s : State) (n : Nat) (v : LinkPort) : (s.setPort n v).mcast = s.mcast := rfl
@[simp] theorem setPort_resident (s : State) (n : Nat) (v : LinkPort) : (s.setPort n v).resident = s.resident := rfl
@[simp] theorem setPort_ctxs (s : State) (n : Nat) (v : LinkPort) : (s.setPort n v).ctxs = s.ctxs := rfl
@[simp] theorem setPort_sends (s : State) (n : Nat) (v : LinkPort) : (s.setPort n v).sends = s.sends := rfl
@[simp] theorem setPort_recvs (s : State) (n : Nat) (v : LinkPort) : (s.setPort n v).recvs = s.recvs := rfl
@[simp] theorem setPort_host (s : State) (n : Nat) (v : LinkPort) : (s.setPort n v).host = s.host := rfl
@[simp] theorem setPort_power (s : State) (n : Nat) (v : LinkPort) : (s.setPort n v).power = s.power := rfl
@[simp] theorem setPort_sparing (s : State) (n : Nat) (v : LinkPort) : (s.setPort n v).sparing = s.sparing := rfl
@[simp] theorem setPort_evr (s : State) (n : Nat) (v : LinkPort) : (s.setPort n v).evr = s.evr := rfl
@[simp] theorem setPort_trust (s : State) (n : Nat) (v : LinkPort) : (s.setPort n v).trust = s.trust := rfl
@[simp] theorem setPort_hw (s : State) (n : Nat) (v : LinkPort) : (s.setPort n v).hw = s.hw := rfl

@[simp] theorem setRing_now (s : State) (r : Nat) (v : Ring) : (s.setRing r v).now = s.now := rfl
@[simp] theorem setRing_free (s : State) (r : Nat) (v : Ring) : (s.setRing r v).free = s.free := rfl
@[simp] theorem setRing_pending (s : State) (r : Nat) (v : Ring) : (s.setRing r v).pending = s.pending := rfl
@[simp] theorem setRing_mem (s : State) (r : Nat) (v : Ring) : (s.setRing r v).mem = s.mem := rfl
@[simp] theorem setRing_regs (s : State) (r : Nat) (v : Ring) : (s.setRing r v).regs = s.regs := rfl
@[simp] theorem setRing_bar0 (s : State) (r : Nat) (v : Ring) : (s.setRing r v).bar0 = s.bar0 := rfl
@[simp] theorem setRing_cores (s : State) (r : Nat) (v : Ring) : (s.setRing r v).cores = s.cores := rfl
@[simp] theorem setRing_phys (s : State) (r : Nat) (v : Ring) : (s.setRing r v).phys = s.phys := rfl
@[simp] theorem setRing_clusters (s : State) (r : Nat) (v : Ring) : (s.setRing r v).clusters = s.clusters := rfl
@[simp] theorem setRing_movedIn (s : State) (r : Nat) (v : Ring) : (s.setRing r v).movedIn = s.movedIn := rfl
@[simp] theorem setRing_regions (s : State) (r : Nat) (v : Ring) : (s.setRing r v).regions = s.regions := rfl
@[simp] theorem setRing_parts (s : State) (r : Nat) (v : Ring) : (s.setRing r v).parts = s.parts := rfl
@[simp] theorem setRing_stackTbl (s : State) (r : Nat) (v : Ring) : (s.setRing r v).stackTbl = s.stackTbl := rfl
@[simp] theorem setRing_seams (s : State) (r : Nat) (v : Ring) : (s.setRing r v).seams = s.seams := rfl
@[simp] theorem setRing_moving (s : State) (r : Nat) (v : Ring) : (s.setRing r v).moving = s.moving := rfl
@[simp] theorem setRing_ports (s : State) (r : Nat) (v : Ring) : (s.setRing r v).ports = s.ports := rfl
@[simp] theorem setRing_ept (s : State) (r : Nat) (v : Ring) : (s.setRing r v).ept = s.ept := rfl
@[simp] theorem setRing_pgroups (s : State) (r : Nat) (v : Ring) : (s.setRing r v).pgroups = s.pgroups := rfl
@[simp] theorem setRing_mcast (s : State) (r : Nat) (v : Ring) : (s.setRing r v).mcast = s.mcast := rfl
@[simp] theorem setRing_resident (s : State) (r : Nat) (v : Ring) : (s.setRing r v).resident = s.resident := rfl
@[simp] theorem setRing_ctxs (s : State) (r : Nat) (v : Ring) : (s.setRing r v).ctxs = s.ctxs := rfl
@[simp] theorem setRing_sends (s : State) (r : Nat) (v : Ring) : (s.setRing r v).sends = s.sends := rfl
@[simp] theorem setRing_recvs (s : State) (r : Nat) (v : Ring) : (s.setRing r v).recvs = s.recvs := rfl
@[simp] theorem setRing_power (s : State) (r : Nat) (v : Ring) : (s.setRing r v).power = s.power := rfl
@[simp] theorem setRing_sparing (s : State) (r : Nat) (v : Ring) : (s.setRing r v).sparing = s.sparing := rfl
@[simp] theorem setRing_evr (s : State) (r : Nat) (v : Ring) : (s.setRing r v).evr = s.evr := rfl
@[simp] theorem setRing_trust (s : State) (r : Nat) (v : Ring) : (s.setRing r v).trust = s.trust := rfl
@[simp] theorem setRing_hw (s : State) (r : Nat) (v : Ring) : (s.setRing r v).hw = s.hw := rfl

@[simp] theorem setReg_now (s : State) (a : Nat) (v : Word) : (s.setReg a v).now = s.now := rfl
@[simp] theorem setReg_free (s : State) (a : Nat) (v : Word) : (s.setReg a v).free = s.free := rfl
@[simp] theorem setReg_pending (s : State) (a : Nat) (v : Word) : (s.setReg a v).pending = s.pending := rfl
@[simp] theorem setReg_mem (s : State) (a : Nat) (v : Word) : (s.setReg a v).mem = s.mem := rfl
@[simp] theorem setReg_bar0 (s : State) (a : Nat) (v : Word) : (s.setReg a v).bar0 = s.bar0 := rfl
@[simp] theorem setReg_cores (s : State) (a : Nat) (v : Word) : (s.setReg a v).cores = s.cores := rfl
@[simp] theorem setReg_phys (s : State) (a : Nat) (v : Word) : (s.setReg a v).phys = s.phys := rfl
@[simp] theorem setReg_clusters (s : State) (a : Nat) (v : Word) : (s.setReg a v).clusters = s.clusters := rfl
@[simp] theorem setReg_movedIn (s : State) (a : Nat) (v : Word) : (s.setReg a v).movedIn = s.movedIn := rfl
@[simp] theorem setReg_regions (s : State) (a : Nat) (v : Word) : (s.setReg a v).regions = s.regions := rfl
@[simp] theorem setReg_parts (s : State) (a : Nat) (v : Word) : (s.setReg a v).parts = s.parts := rfl
@[simp] theorem setReg_stackTbl (s : State) (a : Nat) (v : Word) : (s.setReg a v).stackTbl = s.stackTbl := rfl
@[simp] theorem setReg_seams (s : State) (a : Nat) (v : Word) : (s.setReg a v).seams = s.seams := rfl
@[simp] theorem setReg_moving (s : State) (a : Nat) (v : Word) : (s.setReg a v).moving = s.moving := rfl
@[simp] theorem setReg_ports (s : State) (a : Nat) (v : Word) : (s.setReg a v).ports = s.ports := rfl
@[simp] theorem setReg_ept (s : State) (a : Nat) (v : Word) : (s.setReg a v).ept = s.ept := rfl
@[simp] theorem setReg_pgroups (s : State) (a : Nat) (v : Word) : (s.setReg a v).pgroups = s.pgroups := rfl
@[simp] theorem setReg_mcast (s : State) (a : Nat) (v : Word) : (s.setReg a v).mcast = s.mcast := rfl
@[simp] theorem setReg_resident (s : State) (a : Nat) (v : Word) : (s.setReg a v).resident = s.resident := rfl
@[simp] theorem setReg_ctxs (s : State) (a : Nat) (v : Word) : (s.setReg a v).ctxs = s.ctxs := rfl
@[simp] theorem setReg_sends (s : State) (a : Nat) (v : Word) : (s.setReg a v).sends = s.sends := rfl
@[simp] theorem setReg_recvs (s : State) (a : Nat) (v : Word) : (s.setReg a v).recvs = s.recvs := rfl
@[simp] theorem setReg_host (s : State) (a : Nat) (v : Word) : (s.setReg a v).host = s.host := rfl
@[simp] theorem setReg_power (s : State) (a : Nat) (v : Word) : (s.setReg a v).power = s.power := rfl
@[simp] theorem setReg_sparing (s : State) (a : Nat) (v : Word) : (s.setReg a v).sparing = s.sparing := rfl
@[simp] theorem setReg_evr (s : State) (a : Nat) (v : Word) : (s.setReg a v).evr = s.evr := rfl
@[simp] theorem setReg_trust (s : State) (a : Nat) (v : Word) : (s.setReg a v).trust = s.trust := rfl
@[simp] theorem setReg_hw (s : State) (a : Nat) (v : Word) : (s.setReg a v).hw = s.hw := rfl

@[simp] theorem setMgt_now (s : State) (o : Nat) (v : Word) : (s.setMgt o v).now = s.now := rfl
@[simp] theorem setMgt_free (s : State) (o : Nat) (v : Word) : (s.setMgt o v).free = s.free := rfl
@[simp] theorem setMgt_pending (s : State) (o : Nat) (v : Word) : (s.setMgt o v).pending = s.pending := rfl
@[simp] theorem setMgt_mem (s : State) (o : Nat) (v : Word) : (s.setMgt o v).mem = s.mem := rfl
@[simp] theorem setMgt_regs (s : State) (o : Nat) (v : Word) : (s.setMgt o v).regs = s.regs := rfl
@[simp] theorem setMgt_cores (s : State) (o : Nat) (v : Word) : (s.setMgt o v).cores = s.cores := rfl
@[simp] theorem setMgt_phys (s : State) (o : Nat) (v : Word) : (s.setMgt o v).phys = s.phys := rfl
@[simp] theorem setMgt_clusters (s : State) (o : Nat) (v : Word) : (s.setMgt o v).clusters = s.clusters := rfl
@[simp] theorem setMgt_movedIn (s : State) (o : Nat) (v : Word) : (s.setMgt o v).movedIn = s.movedIn := rfl
@[simp] theorem setMgt_regions (s : State) (o : Nat) (v : Word) : (s.setMgt o v).regions = s.regions := rfl
@[simp] theorem setMgt_parts (s : State) (o : Nat) (v : Word) : (s.setMgt o v).parts = s.parts := rfl
@[simp] theorem setMgt_stackTbl (s : State) (o : Nat) (v : Word) : (s.setMgt o v).stackTbl = s.stackTbl := rfl
@[simp] theorem setMgt_seams (s : State) (o : Nat) (v : Word) : (s.setMgt o v).seams = s.seams := rfl
@[simp] theorem setMgt_moving (s : State) (o : Nat) (v : Word) : (s.setMgt o v).moving = s.moving := rfl
@[simp] theorem setMgt_ports (s : State) (o : Nat) (v : Word) : (s.setMgt o v).ports = s.ports := rfl
@[simp] theorem setMgt_ept (s : State) (o : Nat) (v : Word) : (s.setMgt o v).ept = s.ept := rfl
@[simp] theorem setMgt_pgroups (s : State) (o : Nat) (v : Word) : (s.setMgt o v).pgroups = s.pgroups := rfl
@[simp] theorem setMgt_mcast (s : State) (o : Nat) (v : Word) : (s.setMgt o v).mcast = s.mcast := rfl
@[simp] theorem setMgt_resident (s : State) (o : Nat) (v : Word) : (s.setMgt o v).resident = s.resident := rfl
@[simp] theorem setMgt_ctxs (s : State) (o : Nat) (v : Word) : (s.setMgt o v).ctxs = s.ctxs := rfl
@[simp] theorem setMgt_sends (s : State) (o : Nat) (v : Word) : (s.setMgt o v).sends = s.sends := rfl
@[simp] theorem setMgt_recvs (s : State) (o : Nat) (v : Word) : (s.setMgt o v).recvs = s.recvs := rfl
@[simp] theorem setMgt_host (s : State) (o : Nat) (v : Word) : (s.setMgt o v).host = s.host := rfl
@[simp] theorem setMgt_power (s : State) (o : Nat) (v : Word) : (s.setMgt o v).power = s.power := rfl
@[simp] theorem setMgt_sparing (s : State) (o : Nat) (v : Word) : (s.setMgt o v).sparing = s.sparing := rfl
@[simp] theorem setMgt_evr (s : State) (o : Nat) (v : Word) : (s.setMgt o v).evr = s.evr := rfl
@[simp] theorem setMgt_trust (s : State) (o : Nat) (v : Word) : (s.setMgt o v).trust = s.trust := rfl
@[simp] theorem setMgt_hw (s : State) (o : Nat) (v : Word) : (s.setMgt o v).hw = s.hw := rfl

@[simp] theorem poke_now (s : State) (a : Nat) (bs : Bytes) : (s.poke a bs).now = s.now := rfl
@[simp] theorem poke_free (s : State) (a : Nat) (bs : Bytes) : (s.poke a bs).free = s.free := rfl
@[simp] theorem poke_pending (s : State) (a : Nat) (bs : Bytes) : (s.poke a bs).pending = s.pending := rfl
@[simp] theorem poke_regs (s : State) (a : Nat) (bs : Bytes) : (s.poke a bs).regs = s.regs := rfl
@[simp] theorem poke_bar0 (s : State) (a : Nat) (bs : Bytes) : (s.poke a bs).bar0 = s.bar0 := rfl
@[simp] theorem poke_cores (s : State) (a : Nat) (bs : Bytes) : (s.poke a bs).cores = s.cores := rfl
@[simp] theorem poke_phys (s : State) (a : Nat) (bs : Bytes) : (s.poke a bs).phys = s.phys := rfl
@[simp] theorem poke_clusters (s : State) (a : Nat) (bs : Bytes) : (s.poke a bs).clusters = s.clusters := rfl
@[simp] theorem poke_movedIn (s : State) (a : Nat) (bs : Bytes) : (s.poke a bs).movedIn = s.movedIn := rfl
@[simp] theorem poke_regions (s : State) (a : Nat) (bs : Bytes) : (s.poke a bs).regions = s.regions := rfl
@[simp] theorem poke_parts (s : State) (a : Nat) (bs : Bytes) : (s.poke a bs).parts = s.parts := rfl
@[simp] theorem poke_stackTbl (s : State) (a : Nat) (bs : Bytes) : (s.poke a bs).stackTbl = s.stackTbl := rfl
@[simp] theorem poke_seams (s : State) (a : Nat) (bs : Bytes) : (s.poke a bs).seams = s.seams := rfl
@[simp] theorem poke_moving (s : State) (a : Nat) (bs : Bytes) : (s.poke a bs).moving = s.moving := rfl
@[simp] theorem poke_ports (s : State) (a : Nat) (bs : Bytes) : (s.poke a bs).ports = s.ports := rfl
@[simp] theorem poke_ept (s : State) (a : Nat) (bs : Bytes) : (s.poke a bs).ept = s.ept := rfl
@[simp] theorem poke_pgroups (s : State) (a : Nat) (bs : Bytes) : (s.poke a bs).pgroups = s.pgroups := rfl
@[simp] theorem poke_mcast (s : State) (a : Nat) (bs : Bytes) : (s.poke a bs).mcast = s.mcast := rfl
@[simp] theorem poke_resident (s : State) (a : Nat) (bs : Bytes) : (s.poke a bs).resident = s.resident := rfl
@[simp] theorem poke_ctxs (s : State) (a : Nat) (bs : Bytes) : (s.poke a bs).ctxs = s.ctxs := rfl
@[simp] theorem poke_sends (s : State) (a : Nat) (bs : Bytes) : (s.poke a bs).sends = s.sends := rfl
@[simp] theorem poke_recvs (s : State) (a : Nat) (bs : Bytes) : (s.poke a bs).recvs = s.recvs := rfl
@[simp] theorem poke_host (s : State) (a : Nat) (bs : Bytes) : (s.poke a bs).host = s.host := rfl
@[simp] theorem poke_power (s : State) (a : Nat) (bs : Bytes) : (s.poke a bs).power = s.power := rfl
@[simp] theorem poke_sparing (s : State) (a : Nat) (bs : Bytes) : (s.poke a bs).sparing = s.sparing := rfl
@[simp] theorem poke_evr (s : State) (a : Nat) (bs : Bytes) : (s.poke a bs).evr = s.evr := rfl
@[simp] theorem poke_trust (s : State) (a : Nat) (bs : Bytes) : (s.poke a bs).trust = s.trust := rfl
@[simp] theorem poke_hw (s : State) (a : Nat) (bs : Bytes) : (s.poke a bs).hw = s.hw := rfl

@[simp] theorem draw_now (s : State) : (s.draw).now = s.now := rfl
@[simp] theorem draw_pending (s : State) : (s.draw).pending = s.pending := rfl
@[simp] theorem draw_mem (s : State) : (s.draw).mem = s.mem := rfl
@[simp] theorem draw_regs (s : State) : (s.draw).regs = s.regs := rfl
@[simp] theorem draw_bar0 (s : State) : (s.draw).bar0 = s.bar0 := rfl
@[simp] theorem draw_cores (s : State) : (s.draw).cores = s.cores := rfl
@[simp] theorem draw_phys (s : State) : (s.draw).phys = s.phys := rfl
@[simp] theorem draw_clusters (s : State) : (s.draw).clusters = s.clusters := rfl
@[simp] theorem draw_movedIn (s : State) : (s.draw).movedIn = s.movedIn := rfl
@[simp] theorem draw_regions (s : State) : (s.draw).regions = s.regions := rfl
@[simp] theorem draw_parts (s : State) : (s.draw).parts = s.parts := rfl
@[simp] theorem draw_stackTbl (s : State) : (s.draw).stackTbl = s.stackTbl := rfl
@[simp] theorem draw_seams (s : State) : (s.draw).seams = s.seams := rfl
@[simp] theorem draw_moving (s : State) : (s.draw).moving = s.moving := rfl
@[simp] theorem draw_ports (s : State) : (s.draw).ports = s.ports := rfl
@[simp] theorem draw_ept (s : State) : (s.draw).ept = s.ept := rfl
@[simp] theorem draw_pgroups (s : State) : (s.draw).pgroups = s.pgroups := rfl
@[simp] theorem draw_mcast (s : State) : (s.draw).mcast = s.mcast := rfl
@[simp] theorem draw_resident (s : State) : (s.draw).resident = s.resident := rfl
@[simp] theorem draw_ctxs (s : State) : (s.draw).ctxs = s.ctxs := rfl
@[simp] theorem draw_sends (s : State) : (s.draw).sends = s.sends := rfl
@[simp] theorem draw_recvs (s : State) : (s.draw).recvs = s.recvs := rfl
@[simp] theorem draw_host (s : State) : (s.draw).host = s.host := rfl
@[simp] theorem draw_power (s : State) : (s.draw).power = s.power := rfl
@[simp] theorem draw_sparing (s : State) : (s.draw).sparing = s.sparing := rfl
@[simp] theorem draw_evr (s : State) : (s.draw).evr = s.evr := rfl
@[simp] theorem draw_trust (s : State) : (s.draw).trust = s.trust := rfl
@[simp] theorem draw_hw (s : State) : (s.draw).hw = s.hw := rfl

@[simp] theorem hostWrite_now (s : State) (a : Nat) (bs : Bytes) : (s.hostWrite a bs).now = s.now := rfl
@[simp] theorem hostWrite_free (s : State) (a : Nat) (bs : Bytes) : (s.hostWrite a bs).free = s.free := rfl
@[simp] theorem hostWrite_pending (s : State) (a : Nat) (bs : Bytes) : (s.hostWrite a bs).pending = s.pending := rfl
@[simp] theorem hostWrite_mem (s : State) (a : Nat) (bs : Bytes) : (s.hostWrite a bs).mem = s.mem := rfl
@[simp] theorem hostWrite_regs (s : State) (a : Nat) (bs : Bytes) : (s.hostWrite a bs).regs = s.regs := rfl
@[simp] theorem hostWrite_bar0 (s : State) (a : Nat) (bs : Bytes) : (s.hostWrite a bs).bar0 = s.bar0 := rfl
@[simp] theorem hostWrite_cores (s : State) (a : Nat) (bs : Bytes) : (s.hostWrite a bs).cores = s.cores := rfl
@[simp] theorem hostWrite_phys (s : State) (a : Nat) (bs : Bytes) : (s.hostWrite a bs).phys = s.phys := rfl
@[simp] theorem hostWrite_clusters (s : State) (a : Nat) (bs : Bytes) : (s.hostWrite a bs).clusters = s.clusters := rfl
@[simp] theorem hostWrite_movedIn (s : State) (a : Nat) (bs : Bytes) : (s.hostWrite a bs).movedIn = s.movedIn := rfl
@[simp] theorem hostWrite_regions (s : State) (a : Nat) (bs : Bytes) : (s.hostWrite a bs).regions = s.regions := rfl
@[simp] theorem hostWrite_parts (s : State) (a : Nat) (bs : Bytes) : (s.hostWrite a bs).parts = s.parts := rfl
@[simp] theorem hostWrite_stackTbl (s : State) (a : Nat) (bs : Bytes) : (s.hostWrite a bs).stackTbl = s.stackTbl := rfl
@[simp] theorem hostWrite_seams (s : State) (a : Nat) (bs : Bytes) : (s.hostWrite a bs).seams = s.seams := rfl
@[simp] theorem hostWrite_moving (s : State) (a : Nat) (bs : Bytes) : (s.hostWrite a bs).moving = s.moving := rfl
@[simp] theorem hostWrite_ports (s : State) (a : Nat) (bs : Bytes) : (s.hostWrite a bs).ports = s.ports := rfl
@[simp] theorem hostWrite_ept (s : State) (a : Nat) (bs : Bytes) : (s.hostWrite a bs).ept = s.ept := rfl
@[simp] theorem hostWrite_pgroups (s : State) (a : Nat) (bs : Bytes) : (s.hostWrite a bs).pgroups = s.pgroups := rfl
@[simp] theorem hostWrite_mcast (s : State) (a : Nat) (bs : Bytes) : (s.hostWrite a bs).mcast = s.mcast := rfl
@[simp] theorem hostWrite_resident (s : State) (a : Nat) (bs : Bytes) : (s.hostWrite a bs).resident = s.resident := rfl
@[simp] theorem hostWrite_ctxs (s : State) (a : Nat) (bs : Bytes) : (s.hostWrite a bs).ctxs = s.ctxs := rfl
@[simp] theorem hostWrite_sends (s : State) (a : Nat) (bs : Bytes) : (s.hostWrite a bs).sends = s.sends := rfl
@[simp] theorem hostWrite_recvs (s : State) (a : Nat) (bs : Bytes) : (s.hostWrite a bs).recvs = s.recvs := rfl
@[simp] theorem hostWrite_power (s : State) (a : Nat) (bs : Bytes) : (s.hostWrite a bs).power = s.power := rfl
@[simp] theorem hostWrite_sparing (s : State) (a : Nat) (bs : Bytes) : (s.hostWrite a bs).sparing = s.sparing := rfl
@[simp] theorem hostWrite_evr (s : State) (a : Nat) (bs : Bytes) : (s.hostWrite a bs).evr = s.evr := rfl
@[simp] theorem hostWrite_trust (s : State) (a : Nat) (bs : Bytes) : (s.hostWrite a bs).trust = s.trust := rfl
@[simp] theorem hostWrite_hw (s : State) (a : Nat) (bs : Bytes) : (s.hostWrite a bs).hw = s.hw := rfl

@[simp] theorem setField_now (s : State) (a lo w v : Nat) : (s.setField a lo w v).now = s.now := rfl
@[simp] theorem setField_free (s : State) (a lo w v : Nat) : (s.setField a lo w v).free = s.free := rfl
@[simp] theorem setField_pending (s : State) (a lo w v : Nat) : (s.setField a lo w v).pending = s.pending := rfl
@[simp] theorem setField_mem (s : State) (a lo w v : Nat) : (s.setField a lo w v).mem = s.mem := rfl
@[simp] theorem setField_bar0 (s : State) (a lo w v : Nat) : (s.setField a lo w v).bar0 = s.bar0 := rfl
@[simp] theorem setField_cores (s : State) (a lo w v : Nat) : (s.setField a lo w v).cores = s.cores := rfl
@[simp] theorem setField_phys (s : State) (a lo w v : Nat) : (s.setField a lo w v).phys = s.phys := rfl
@[simp] theorem setField_clusters (s : State) (a lo w v : Nat) : (s.setField a lo w v).clusters = s.clusters := rfl
@[simp] theorem setField_movedIn (s : State) (a lo w v : Nat) : (s.setField a lo w v).movedIn = s.movedIn := rfl
@[simp] theorem setField_regions (s : State) (a lo w v : Nat) : (s.setField a lo w v).regions = s.regions := rfl
@[simp] theorem setField_parts (s : State) (a lo w v : Nat) : (s.setField a lo w v).parts = s.parts := rfl
@[simp] theorem setField_stackTbl (s : State) (a lo w v : Nat) : (s.setField a lo w v).stackTbl = s.stackTbl := rfl
@[simp] theorem setField_seams (s : State) (a lo w v : Nat) : (s.setField a lo w v).seams = s.seams := rfl
@[simp] theorem setField_moving (s : State) (a lo w v : Nat) : (s.setField a lo w v).moving = s.moving := rfl
@[simp] theorem setField_ports (s : State) (a lo w v : Nat) : (s.setField a lo w v).ports = s.ports := rfl
@[simp] theorem setField_ept (s : State) (a lo w v : Nat) : (s.setField a lo w v).ept = s.ept := rfl
@[simp] theorem setField_pgroups (s : State) (a lo w v : Nat) : (s.setField a lo w v).pgroups = s.pgroups := rfl
@[simp] theorem setField_mcast (s : State) (a lo w v : Nat) : (s.setField a lo w v).mcast = s.mcast := rfl
@[simp] theorem setField_resident (s : State) (a lo w v : Nat) : (s.setField a lo w v).resident = s.resident := rfl
@[simp] theorem setField_ctxs (s : State) (a lo w v : Nat) : (s.setField a lo w v).ctxs = s.ctxs := rfl
@[simp] theorem setField_sends (s : State) (a lo w v : Nat) : (s.setField a lo w v).sends = s.sends := rfl
@[simp] theorem setField_recvs (s : State) (a lo w v : Nat) : (s.setField a lo w v).recvs = s.recvs := rfl
@[simp] theorem setField_host (s : State) (a lo w v : Nat) : (s.setField a lo w v).host = s.host := rfl
@[simp] theorem setField_power (s : State) (a lo w v : Nat) : (s.setField a lo w v).power = s.power := rfl
@[simp] theorem setField_sparing (s : State) (a lo w v : Nat) : (s.setField a lo w v).sparing = s.sparing := rfl
@[simp] theorem setField_evr (s : State) (a lo w v : Nat) : (s.setField a lo w v).evr = s.evr := rfl
@[simp] theorem setField_trust (s : State) (a lo w v : Nat) : (s.setField a lo w v).trust = s.trust := rfl
@[simp] theorem setField_hw (s : State) (a lo w v : Nat) : (s.setField a lo w v).hw = s.hw := rfl

@[simp] theorem setMgtField_now (s : State) (o lo w v : Nat) : (s.setMgtField o lo w v).now = s.now := rfl
@[simp] theorem setMgtField_free (s : State) (o lo w v : Nat) : (s.setMgtField o lo w v).free = s.free := rfl
@[simp] theorem setMgtField_pending (s : State) (o lo w v : Nat) : (s.setMgtField o lo w v).pending = s.pending := rfl
@[simp] theorem setMgtField_mem (s : State) (o lo w v : Nat) : (s.setMgtField o lo w v).mem = s.mem := rfl
@[simp] theorem setMgtField_regs (s : State) (o lo w v : Nat) : (s.setMgtField o lo w v).regs = s.regs := rfl
@[simp] theorem setMgtField_cores (s : State) (o lo w v : Nat) : (s.setMgtField o lo w v).cores = s.cores := rfl
@[simp] theorem setMgtField_phys (s : State) (o lo w v : Nat) : (s.setMgtField o lo w v).phys = s.phys := rfl
@[simp] theorem setMgtField_clusters (s : State) (o lo w v : Nat) : (s.setMgtField o lo w v).clusters = s.clusters := rfl
@[simp] theorem setMgtField_movedIn (s : State) (o lo w v : Nat) : (s.setMgtField o lo w v).movedIn = s.movedIn := rfl
@[simp] theorem setMgtField_regions (s : State) (o lo w v : Nat) : (s.setMgtField o lo w v).regions = s.regions := rfl
@[simp] theorem setMgtField_parts (s : State) (o lo w v : Nat) : (s.setMgtField o lo w v).parts = s.parts := rfl
@[simp] theorem setMgtField_stackTbl (s : State) (o lo w v : Nat) : (s.setMgtField o lo w v).stackTbl = s.stackTbl := rfl
@[simp] theorem setMgtField_seams (s : State) (o lo w v : Nat) : (s.setMgtField o lo w v).seams = s.seams := rfl
@[simp] theorem setMgtField_moving (s : State) (o lo w v : Nat) : (s.setMgtField o lo w v).moving = s.moving := rfl
@[simp] theorem setMgtField_ports (s : State) (o lo w v : Nat) : (s.setMgtField o lo w v).ports = s.ports := rfl
@[simp] theorem setMgtField_ept (s : State) (o lo w v : Nat) : (s.setMgtField o lo w v).ept = s.ept := rfl
@[simp] theorem setMgtField_pgroups (s : State) (o lo w v : Nat) : (s.setMgtField o lo w v).pgroups = s.pgroups := rfl
@[simp] theorem setMgtField_mcast (s : State) (o lo w v : Nat) : (s.setMgtField o lo w v).mcast = s.mcast := rfl
@[simp] theorem setMgtField_resident (s : State) (o lo w v : Nat) : (s.setMgtField o lo w v).resident = s.resident := rfl
@[simp] theorem setMgtField_ctxs (s : State) (o lo w v : Nat) : (s.setMgtField o lo w v).ctxs = s.ctxs := rfl
@[simp] theorem setMgtField_sends (s : State) (o lo w v : Nat) : (s.setMgtField o lo w v).sends = s.sends := rfl
@[simp] theorem setMgtField_recvs (s : State) (o lo w v : Nat) : (s.setMgtField o lo w v).recvs = s.recvs := rfl
@[simp] theorem setMgtField_host (s : State) (o lo w v : Nat) : (s.setMgtField o lo w v).host = s.host := rfl
@[simp] theorem setMgtField_power (s : State) (o lo w v : Nat) : (s.setMgtField o lo w v).power = s.power := rfl
@[simp] theorem setMgtField_sparing (s : State) (o lo w v : Nat) : (s.setMgtField o lo w v).sparing = s.sparing := rfl
@[simp] theorem setMgtField_evr (s : State) (o lo w v : Nat) : (s.setMgtField o lo w v).evr = s.evr := rfl
@[simp] theorem setMgtField_trust (s : State) (o lo w v : Nat) : (s.setMgtField o lo w v).trust = s.trust := rfl
@[simp] theorem setMgtField_hw (s : State) (o lo w v : Nat) : (s.setMgtField o lo w v).hw = s.hw := rfl

@[simp] theorem setPower_now (s : State) (c v : Nat) : (s.setPower c v).now = s.now := rfl
@[simp] theorem setPower_free (s : State) (c v : Nat) : (s.setPower c v).free = s.free := rfl
@[simp] theorem setPower_pending (s : State) (c v : Nat) : (s.setPower c v).pending = s.pending := rfl
@[simp] theorem setPower_mem (s : State) (c v : Nat) : (s.setPower c v).mem = s.mem := rfl
@[simp] theorem setPower_bar0 (s : State) (c v : Nat) : (s.setPower c v).bar0 = s.bar0 := rfl
@[simp] theorem setPower_cores (s : State) (c v : Nat) : (s.setPower c v).cores = s.cores := rfl
@[simp] theorem setPower_phys (s : State) (c v : Nat) : (s.setPower c v).phys = s.phys := rfl
@[simp] theorem setPower_clusters (s : State) (c v : Nat) : (s.setPower c v).clusters = s.clusters := rfl
@[simp] theorem setPower_movedIn (s : State) (c v : Nat) : (s.setPower c v).movedIn = s.movedIn := rfl
@[simp] theorem setPower_regions (s : State) (c v : Nat) : (s.setPower c v).regions = s.regions := rfl
@[simp] theorem setPower_parts (s : State) (c v : Nat) : (s.setPower c v).parts = s.parts := rfl
@[simp] theorem setPower_stackTbl (s : State) (c v : Nat) : (s.setPower c v).stackTbl = s.stackTbl := rfl
@[simp] theorem setPower_seams (s : State) (c v : Nat) : (s.setPower c v).seams = s.seams := rfl
@[simp] theorem setPower_moving (s : State) (c v : Nat) : (s.setPower c v).moving = s.moving := rfl
@[simp] theorem setPower_ports (s : State) (c v : Nat) : (s.setPower c v).ports = s.ports := rfl
@[simp] theorem setPower_ept (s : State) (c v : Nat) : (s.setPower c v).ept = s.ept := rfl
@[simp] theorem setPower_pgroups (s : State) (c v : Nat) : (s.setPower c v).pgroups = s.pgroups := rfl
@[simp] theorem setPower_mcast (s : State) (c v : Nat) : (s.setPower c v).mcast = s.mcast := rfl
@[simp] theorem setPower_resident (s : State) (c v : Nat) : (s.setPower c v).resident = s.resident := rfl
@[simp] theorem setPower_ctxs (s : State) (c v : Nat) : (s.setPower c v).ctxs = s.ctxs := rfl
@[simp] theorem setPower_sends (s : State) (c v : Nat) : (s.setPower c v).sends = s.sends := rfl
@[simp] theorem setPower_recvs (s : State) (c v : Nat) : (s.setPower c v).recvs = s.recvs := rfl
@[simp] theorem setPower_host (s : State) (c v : Nat) : (s.setPower c v).host = s.host := rfl
@[simp] theorem setPower_power (s : State) (c v : Nat) : (s.setPower c v).power = s.power := rfl
@[simp] theorem setPower_sparing (s : State) (c v : Nat) : (s.setPower c v).sparing = s.sparing := rfl
@[simp] theorem setPower_evr (s : State) (c v : Nat) : (s.setPower c v).evr = s.evr := rfl
@[simp] theorem setPower_trust (s : State) (c v : Nat) : (s.setPower c v).trust = s.trust := rfl
@[simp] theorem setPower_hw (s : State) (c v : Nat) : (s.setPower c v).hw = s.hw := rfl

@[simp] theorem setXreg_now (s : State) (h rd : Nat) (v : Word) : (s.setXreg h rd v).now = s.now := rfl
@[simp] theorem setXreg_free (s : State) (h rd : Nat) (v : Word) : (s.setXreg h rd v).free = s.free := rfl
@[simp] theorem setXreg_pending (s : State) (h rd : Nat) (v : Word) : (s.setXreg h rd v).pending = s.pending := rfl
@[simp] theorem setXreg_mem (s : State) (h rd : Nat) (v : Word) : (s.setXreg h rd v).mem = s.mem := rfl
@[simp] theorem setXreg_regs (s : State) (h rd : Nat) (v : Word) : (s.setXreg h rd v).regs = s.regs := rfl
@[simp] theorem setXreg_bar0 (s : State) (h rd : Nat) (v : Word) : (s.setXreg h rd v).bar0 = s.bar0 := rfl
@[simp] theorem setXreg_phys (s : State) (h rd : Nat) (v : Word) : (s.setXreg h rd v).phys = s.phys := rfl
@[simp] theorem setXreg_clusters (s : State) (h rd : Nat) (v : Word) : (s.setXreg h rd v).clusters = s.clusters := rfl
@[simp] theorem setXreg_movedIn (s : State) (h rd : Nat) (v : Word) : (s.setXreg h rd v).movedIn = s.movedIn := rfl
@[simp] theorem setXreg_regions (s : State) (h rd : Nat) (v : Word) : (s.setXreg h rd v).regions = s.regions := rfl
@[simp] theorem setXreg_parts (s : State) (h rd : Nat) (v : Word) : (s.setXreg h rd v).parts = s.parts := rfl
@[simp] theorem setXreg_stackTbl (s : State) (h rd : Nat) (v : Word) : (s.setXreg h rd v).stackTbl = s.stackTbl := rfl
@[simp] theorem setXreg_seams (s : State) (h rd : Nat) (v : Word) : (s.setXreg h rd v).seams = s.seams := rfl
@[simp] theorem setXreg_moving (s : State) (h rd : Nat) (v : Word) : (s.setXreg h rd v).moving = s.moving := rfl
@[simp] theorem setXreg_ports (s : State) (h rd : Nat) (v : Word) : (s.setXreg h rd v).ports = s.ports := rfl
@[simp] theorem setXreg_ept (s : State) (h rd : Nat) (v : Word) : (s.setXreg h rd v).ept = s.ept := rfl
@[simp] theorem setXreg_pgroups (s : State) (h rd : Nat) (v : Word) : (s.setXreg h rd v).pgroups = s.pgroups := rfl
@[simp] theorem setXreg_mcast (s : State) (h rd : Nat) (v : Word) : (s.setXreg h rd v).mcast = s.mcast := rfl
@[simp] theorem setXreg_resident (s : State) (h rd : Nat) (v : Word) : (s.setXreg h rd v).resident = s.resident := rfl
@[simp] theorem setXreg_ctxs (s : State) (h rd : Nat) (v : Word) : (s.setXreg h rd v).ctxs = s.ctxs := rfl
@[simp] theorem setXreg_sends (s : State) (h rd : Nat) (v : Word) : (s.setXreg h rd v).sends = s.sends := rfl
@[simp] theorem setXreg_recvs (s : State) (h rd : Nat) (v : Word) : (s.setXreg h rd v).recvs = s.recvs := rfl
@[simp] theorem setXreg_host (s : State) (h rd : Nat) (v : Word) : (s.setXreg h rd v).host = s.host := rfl
@[simp] theorem setXreg_power (s : State) (h rd : Nat) (v : Word) : (s.setXreg h rd v).power = s.power := rfl
@[simp] theorem setXreg_sparing (s : State) (h rd : Nat) (v : Word) : (s.setXreg h rd v).sparing = s.sparing := rfl
@[simp] theorem setXreg_evr (s : State) (h rd : Nat) (v : Word) : (s.setXreg h rd v).evr = s.evr := rfl
@[simp] theorem setXreg_trust (s : State) (h rd : Nat) (v : Word) : (s.setXreg h rd v).trust = s.trust := rfl
@[simp] theorem setXreg_hw (s : State) (h rd : Nat) (v : Word) : (s.setXreg h rd v).hw = s.hw := rfl

@[simp] theorem retire_now (s : State) (h len : Nat) : (s.retire h len).now = s.now := rfl
@[simp] theorem retire_free (s : State) (h len : Nat) : (s.retire h len).free = s.free := rfl
@[simp] theorem retire_pending (s : State) (h len : Nat) : (s.retire h len).pending = s.pending := rfl
@[simp] theorem retire_mem (s : State) (h len : Nat) : (s.retire h len).mem = s.mem := rfl
@[simp] theorem retire_regs (s : State) (h len : Nat) : (s.retire h len).regs = s.regs := rfl
@[simp] theorem retire_bar0 (s : State) (h len : Nat) : (s.retire h len).bar0 = s.bar0 := rfl
@[simp] theorem retire_phys (s : State) (h len : Nat) : (s.retire h len).phys = s.phys := rfl
@[simp] theorem retire_clusters (s : State) (h len : Nat) : (s.retire h len).clusters = s.clusters := rfl
@[simp] theorem retire_movedIn (s : State) (h len : Nat) : (s.retire h len).movedIn = s.movedIn := rfl
@[simp] theorem retire_regions (s : State) (h len : Nat) : (s.retire h len).regions = s.regions := rfl
@[simp] theorem retire_parts (s : State) (h len : Nat) : (s.retire h len).parts = s.parts := rfl
@[simp] theorem retire_stackTbl (s : State) (h len : Nat) : (s.retire h len).stackTbl = s.stackTbl := rfl
@[simp] theorem retire_seams (s : State) (h len : Nat) : (s.retire h len).seams = s.seams := rfl
@[simp] theorem retire_moving (s : State) (h len : Nat) : (s.retire h len).moving = s.moving := rfl
@[simp] theorem retire_ports (s : State) (h len : Nat) : (s.retire h len).ports = s.ports := rfl
@[simp] theorem retire_ept (s : State) (h len : Nat) : (s.retire h len).ept = s.ept := rfl
@[simp] theorem retire_pgroups (s : State) (h len : Nat) : (s.retire h len).pgroups = s.pgroups := rfl
@[simp] theorem retire_mcast (s : State) (h len : Nat) : (s.retire h len).mcast = s.mcast := rfl
@[simp] theorem retire_resident (s : State) (h len : Nat) : (s.retire h len).resident = s.resident := rfl
@[simp] theorem retire_ctxs (s : State) (h len : Nat) : (s.retire h len).ctxs = s.ctxs := rfl
@[simp] theorem retire_sends (s : State) (h len : Nat) : (s.retire h len).sends = s.sends := rfl
@[simp] theorem retire_recvs (s : State) (h len : Nat) : (s.retire h len).recvs = s.recvs := rfl
@[simp] theorem retire_host (s : State) (h len : Nat) : (s.retire h len).host = s.host := rfl
@[simp] theorem retire_power (s : State) (h len : Nat) : (s.retire h len).power = s.power := rfl
@[simp] theorem retire_sparing (s : State) (h len : Nat) : (s.retire h len).sparing = s.sparing := rfl
@[simp] theorem retire_evr (s : State) (h len : Nat) : (s.retire h len).evr = s.evr := rfl
@[simp] theorem retire_trust (s : State) (h len : Nat) : (s.retire h len).trust = s.trust := rfl
@[simp] theorem retire_hw (s : State) (h len : Nat) : (s.retire h len).hw = s.hw := rfl

@[simp] theorem setReg64_now (s : State) (a v : Nat) : (s.setReg64 a v).now = s.now := rfl
@[simp] theorem setReg64_free (s : State) (a v : Nat) : (s.setReg64 a v).free = s.free := rfl
@[simp] theorem setReg64_pending (s : State) (a v : Nat) : (s.setReg64 a v).pending = s.pending := rfl
@[simp] theorem setReg64_mem (s : State) (a v : Nat) : (s.setReg64 a v).mem = s.mem := rfl
@[simp] theorem setReg64_bar0 (s : State) (a v : Nat) : (s.setReg64 a v).bar0 = s.bar0 := rfl
@[simp] theorem setReg64_cores (s : State) (a v : Nat) : (s.setReg64 a v).cores = s.cores := rfl
@[simp] theorem setReg64_phys (s : State) (a v : Nat) : (s.setReg64 a v).phys = s.phys := rfl
@[simp] theorem setReg64_clusters (s : State) (a v : Nat) : (s.setReg64 a v).clusters = s.clusters := rfl
@[simp] theorem setReg64_movedIn (s : State) (a v : Nat) : (s.setReg64 a v).movedIn = s.movedIn := rfl
@[simp] theorem setReg64_regions (s : State) (a v : Nat) : (s.setReg64 a v).regions = s.regions := rfl
@[simp] theorem setReg64_parts (s : State) (a v : Nat) : (s.setReg64 a v).parts = s.parts := rfl
@[simp] theorem setReg64_stackTbl (s : State) (a v : Nat) : (s.setReg64 a v).stackTbl = s.stackTbl := rfl
@[simp] theorem setReg64_seams (s : State) (a v : Nat) : (s.setReg64 a v).seams = s.seams := rfl
@[simp] theorem setReg64_moving (s : State) (a v : Nat) : (s.setReg64 a v).moving = s.moving := rfl
@[simp] theorem setReg64_ports (s : State) (a v : Nat) : (s.setReg64 a v).ports = s.ports := rfl
@[simp] theorem setReg64_ept (s : State) (a v : Nat) : (s.setReg64 a v).ept = s.ept := rfl
@[simp] theorem setReg64_pgroups (s : State) (a v : Nat) : (s.setReg64 a v).pgroups = s.pgroups := rfl
@[simp] theorem setReg64_mcast (s : State) (a v : Nat) : (s.setReg64 a v).mcast = s.mcast := rfl
@[simp] theorem setReg64_resident (s : State) (a v : Nat) : (s.setReg64 a v).resident = s.resident := rfl
@[simp] theorem setReg64_ctxs (s : State) (a v : Nat) : (s.setReg64 a v).ctxs = s.ctxs := rfl
@[simp] theorem setReg64_sends (s : State) (a v : Nat) : (s.setReg64 a v).sends = s.sends := rfl
@[simp] theorem setReg64_recvs (s : State) (a v : Nat) : (s.setReg64 a v).recvs = s.recvs := rfl
@[simp] theorem setReg64_host (s : State) (a v : Nat) : (s.setReg64 a v).host = s.host := rfl
@[simp] theorem setReg64_power (s : State) (a v : Nat) : (s.setReg64 a v).power = s.power := rfl
@[simp] theorem setReg64_sparing (s : State) (a v : Nat) : (s.setReg64 a v).sparing = s.sparing := rfl
@[simp] theorem setReg64_evr (s : State) (a v : Nat) : (s.setReg64 a v).evr = s.evr := rfl
@[simp] theorem setReg64_trust (s : State) (a v : Nat) : (s.setReg64 a v).trust = s.trust := rfl
@[simp] theorem setReg64_hw (s : State) (a v : Nat) : (s.setReg64 a v).hw = s.hw := rfl

/-- Stirring a cluster notes that something moved there, and nothing else. -/
theorem stir_eq (s : State) (c : Nat) : s.stir c = { s with movedIn := (s.stir c).movedIn } := by
  unfold State.stir
  split <;> rfl

@[simp] theorem stir_now (s : State) (c : Nat) : (s.stir c).now = s.now := by rw [stir_eq]
@[simp] theorem stir_free (s : State) (c : Nat) : (s.stir c).free = s.free := by rw [stir_eq]
@[simp] theorem stir_pending (s : State) (c : Nat) : (s.stir c).pending = s.pending := by rw [stir_eq]
@[simp] theorem stir_mem (s : State) (c : Nat) : (s.stir c).mem = s.mem := by rw [stir_eq]
@[simp] theorem stir_regs (s : State) (c : Nat) : (s.stir c).regs = s.regs := by rw [stir_eq]
@[simp] theorem stir_bar0 (s : State) (c : Nat) : (s.stir c).bar0 = s.bar0 := by rw [stir_eq]
@[simp] theorem stir_cores (s : State) (c : Nat) : (s.stir c).cores = s.cores := by rw [stir_eq]
@[simp] theorem stir_phys (s : State) (c : Nat) : (s.stir c).phys = s.phys := by rw [stir_eq]
@[simp] theorem stir_clusters (s : State) (c : Nat) : (s.stir c).clusters = s.clusters := by rw [stir_eq]
@[simp] theorem stir_regions (s : State) (c : Nat) : (s.stir c).regions = s.regions := by rw [stir_eq]
@[simp] theorem stir_parts (s : State) (c : Nat) : (s.stir c).parts = s.parts := by rw [stir_eq]
@[simp] theorem stir_stackTbl (s : State) (c : Nat) : (s.stir c).stackTbl = s.stackTbl := by rw [stir_eq]
@[simp] theorem stir_seams (s : State) (c : Nat) : (s.stir c).seams = s.seams := by rw [stir_eq]
@[simp] theorem stir_moving (s : State) (c : Nat) : (s.stir c).moving = s.moving := by rw [stir_eq]
@[simp] theorem stir_ports (s : State) (c : Nat) : (s.stir c).ports = s.ports := by rw [stir_eq]
@[simp] theorem stir_ept (s : State) (c : Nat) : (s.stir c).ept = s.ept := by rw [stir_eq]
@[simp] theorem stir_pgroups (s : State) (c : Nat) : (s.stir c).pgroups = s.pgroups := by rw [stir_eq]
@[simp] theorem stir_mcast (s : State) (c : Nat) : (s.stir c).mcast = s.mcast := by rw [stir_eq]
@[simp] theorem stir_resident (s : State) (c : Nat) : (s.stir c).resident = s.resident := by rw [stir_eq]
@[simp] theorem stir_ctxs (s : State) (c : Nat) : (s.stir c).ctxs = s.ctxs := by rw [stir_eq]
@[simp] theorem stir_sends (s : State) (c : Nat) : (s.stir c).sends = s.sends := by rw [stir_eq]
@[simp] theorem stir_recvs (s : State) (c : Nat) : (s.stir c).recvs = s.recvs := by rw [stir_eq]
@[simp] theorem stir_host (s : State) (c : Nat) : (s.stir c).host = s.host := by rw [stir_eq]
@[simp] theorem stir_power (s : State) (c : Nat) : (s.stir c).power = s.power := by rw [stir_eq]
@[simp] theorem stir_sparing (s : State) (c : Nat) : (s.stir c).sparing = s.sparing := by rw [stir_eq]
@[simp] theorem stir_evr (s : State) (c : Nat) : (s.stir c).evr = s.evr := by rw [stir_eq]
@[simp] theorem stir_trust (s : State) (c : Nat) : (s.stir c).trust = s.trust := by rw [stir_eq]
@[simp] theorem stir_hw (s : State) (c : Nat) : (s.stir c).hw = s.hw := by rw [stir_eq]
@[simp] theorem stir_at_core (s : State) (c : Nat) (h : Nat) : (s.stir c).core h = s.core h := by rw [stir_eq]; rfl
@[simp] theorem stir_at_clu (s : State) (c : Nat) (k : Nat) : (s.stir c).clu k = s.clu k := by rw [stir_eq]; rfl
@[simp] theorem stir_at_physCore (s : State) (c : Nat) (k : Nat) : (s.stir c).physCore k = s.physCore k := by rw [stir_eq]; rfl
@[simp] theorem stir_at_part (s : State) (c : Nat) (p : Nat) : (s.stir c).part p = s.part p := by rw [stir_eq]; rfl
@[simp] theorem stir_at_region (s : State) (c : Nat) (r : Nat) : (s.stir c).region r = s.region r := by rw [stir_eq]; rfl
@[simp] theorem stir_at_stack (s : State) (c : Nat) (n : Nat) : (s.stir c).stack n = s.stack n := by rw [stir_eq]; rfl
@[simp] theorem stir_at_reg (s : State) (c : Nat) (a : Nat) : (s.stir c).reg a = s.reg a := by rw [stir_eq]; rfl
@[simp] theorem stir_at_field (s : State) (c : Nat) (a lo w : Nat) : (s.stir c).field a lo w = s.field a lo w := by rw [stir_eq]; rfl
@[simp] theorem stir_at_cluReg (s : State) (c : Nat) (k o : Nat) : (s.stir c).cluReg k o = s.cluReg k o := by rw [stir_eq]; rfl
@[simp] theorem stir_at_coreReg (s : State) (c : Nat) (h o : Nat) : (s.stir c).coreReg h o = s.coreReg h o := by rw [stir_eq]; rfl
@[simp] theorem stir_at_partOf (s : State) (c : Nat) (k : Nat) : (s.stir c).partOf k = s.partOf k := by rw [stir_eq]; rfl
@[simp] theorem stir_at_regionOf (s : State) (c : Nat) (k : Nat) : (s.stir c).regionOf k = s.regionOf k := by rw [stir_eq]; rfl
@[simp] theorem stir_at_epochOf (s : State) (c : Nat) (k : Nat) : (s.stir c).epochOf k = s.epochOf k := by rw [stir_eq]; rfl

@[simp] theorem draw_free (s : State) : s.draw.free = s.free + 1 := rfl

@[simp] theorem poke_mem (s : State) (a : Nat) (bs : Bytes) : (s.poke a bs).mem = memWrite s.mem a bs := rfl

@[simp] theorem core_setCore (s : State) (h k : Nat) (c : Core) : (s.setCore h c).core k = if h = k then c else s.core k := tget_tset _ _ _ _ _

@[simp] theorem clu_setClu (s : State) (h k : Nat) (c : Cluster) : (s.setClu h c).clu k = if h = k then c else s.clu k := tget_tset _ _ _ _ _

@[simp] theorem seam_setSeam (s : State) (p q : PortRef) (x : SeamEnd) : (s.setSeam p x).seam q = if p.key = q.key then x else s.seam q := tget_tset _ _ _ _ _

@[simp] theorem ctx_setCtx (s : State) (k j : Nat) (x : CollCtx) : (s.setCtx k x).ctx j = if k = j then some x else s.ctx j := tget_tset none s.ctxs k j (some x)

@[simp] theorem stack_setStack (s : State) (h k : Nat) (c : Stack) : (s.setStack h c).stack k = if h = k then c else s.stack k := tget_tset _ _ _ _ _

@[simp] theorem port_setPort (s : State) (h k : Nat) (c : LinkPort) : (s.setPort h c).port k = if h = k then c else s.port k := tget_tset _ _ _ _ _

@[simp] theorem part_setPart (s : State) (h k : Nat) (c : Part) : (s.setPart h c).part k = if h = k then some c else s.part k := tget_tset none s.parts h k (some c)

@[simp] theorem region_setRegion (s : State) (h k : Nat) (c : Region) : (s.setRegion h c).region k = if h = k then some c else s.region k := tget_tset none s.regions h k (some c)

@[simp] theorem ring_setRing (s : State) (h k : Nat) (c : Ring) : (s.setRing h c).ring k = if h = k then c else s.ring k := tget_tset _ _ _ _ _

theorem physCore_setPhys (s : State) (h k : Nat) (c : Phys) : (s.setPhys h c).physCore k = if h = k then c else s.physCore k := by
  unfold State.physCore State.setPhys
  by_cases e : h = k
  · subst e
    rw [if_pos rfl, tget_tset, if_pos rfl]
  · rw [if_neg e]
    exact tget_tset_ne _ _ _ _ _ _ e

@[simp] theorem reg_setReg (s : State) (a b : Nat) (v : Word) : (s.setReg a v).reg b = if a = b then v else s.reg b := by
  unfold State.reg State.setReg wget wset
  by_cases e : a = b
  · subst e
    rw [if_pos rfl, tget_tset, if_pos rfl]
  · rw [if_neg e]
    exact tget_tset_ne _ _ _ _ _ _ e

@[simp] theorem mgt_setMgt (s : State) (a b : Nat) (v : Word) : (s.setMgt a v).mgt b = if a = b then v else s.mgt b := by
  unfold State.mgt State.setMgt wget wset
  by_cases e : a = b
  · subst e
    rw [if_pos rfl, tget_tset, if_pos rfl]
  · rw [if_neg e]
    exact tget_tset_ne _ _ _ _ _ _ e

@[simp] theorem setCore_setCore (s : State) (h : Nat) (c d : Core) : (s.setCore h c).setCore h d = s.setCore h d := by
  unfold State.setCore
  rw [show (State.cores { s with cores := tset {} s.cores h c }) = tset {} s.cores h c from rfl, tset_tset]

@[simp] theorem inQ_setInQ (c : Core) (i j : Nat) (q : InQueue) : (c.setInQ i q).inQ j = if i = j then q else c.inQ j := tget_tset _ _ _ _ _

@[simp] theorem outQ_setOutQ (c : Core) (i j : Nat) (q : OutQueue) : (c.setOutQ i q).outQ j = if i = j then q else c.outQ j := tget_tset _ _ _ _ _

@[simp] theorem engine_setEngine (c : Core) (i j : Nat) (q : Engine) : (c.setEngine i q).engine j = if i = j then q else c.engine j := tget_tset _ _ _ _ _

@[simp] theorem pet_setPet (c : Core) (p : Petal) : (c.setPet p).pet = p := by
  show tget {} (tset {} c.petals c.petal p) c.petal = p
  rw [tget_tset, if_pos rfl]

@[simp] theorem setPet_setPet (c : Core) (p q : Petal) : (c.setPet p).setPet q = c.setPet q := by
  show ({ c with petals := tset {} (tset {} c.petals c.petal p) c.petal q } : Core) = _
  rw [tset_tset]
  rfl

@[simp] theorem setOutQ_setOutQ (c : Core) (i : Nat) (p q : OutQueue) : (c.setOutQ i p).setOutQ i q = c.setOutQ i q := by
  show ({ c with outq := tset {} (tset {} c.outq i p) i q } : Core) = _
  rw [tset_tset]
  rfl

theorem count_reg_ne (s : State) (a b n : Nat) (e : a ≠ b) : (s.count a n).reg b = s.reg b := by
  unfold State.count
  by_cases h : n = 0
  · rw [if_pos h]
  · rw [if_neg h, reg_setReg, if_neg e]

/-- A counter advances, saturating at its width. -/
theorem count_reg (s : State) (a n : Nat) : ((s.count a n).reg a).toNat = Nat.min ((s.reg a).toNat + n) (2 ^ 32 - 1) := by
  unfold State.count
  have hb := (s.reg a).isLt
  by_cases h : n = 0
  · rw [if_pos h, h, Nat.add_zero]
    exact (Nat.min_eq_left (Nat.le_sub_one_of_lt hb)).symm
  · rw [if_neg h, reg_setReg, if_pos rfl, BitVec.toNat_ofNat]
    exact Nat.mod_eq_of_lt (Nat.lt_of_le_of_lt (Nat.min_le_right _ _) (by decide))

@[simp] theorem count_now (s : State) (a n : Nat) : (s.count a n).now = s.now := by
  unfold State.count
  by_cases h : n = 0
  · rw [if_pos h]
  · rw [if_neg h, setReg_now]

@[simp] theorem count64_now (s : State) (a n : Nat) : (s.count64 a n).now = s.now := by
  unfold State.count64
  by_cases h : n = 0
  · rw [if_pos h]
  · rw [if_neg h, setReg64_now]

@[simp] theorem count_free (s : State) (a n : Nat) : (s.count a n).free = s.free := by
  unfold State.count
  by_cases h : n = 0
  · rw [if_pos h]
  · rw [if_neg h, setReg_free]

@[simp] theorem count64_free (s : State) (a n : Nat) : (s.count64 a n).free = s.free := by
  unfold State.count64
  by_cases h : n = 0
  · rw [if_pos h]
  · rw [if_neg h, setReg64_free]

@[simp] theorem count_pending (s : State) (a n : Nat) : (s.count a n).pending = s.pending := by
  unfold State.count
  by_cases h : n = 0
  · rw [if_pos h]
  · rw [if_neg h, setReg_pending]

@[simp] theorem count64_pending (s : State) (a n : Nat) : (s.count64 a n).pending = s.pending := by
  unfold State.count64
  by_cases h : n = 0
  · rw [if_pos h]
  · rw [if_neg h, setReg64_pending]

@[simp] theorem count_mem (s : State) (a n : Nat) : (s.count a n).mem = s.mem := by
  unfold State.count
  by_cases h : n = 0
  · rw [if_pos h]
  · rw [if_neg h, setReg_mem]

@[simp] theorem count64_mem (s : State) (a n : Nat) : (s.count64 a n).mem = s.mem := by
  unfold State.count64
  by_cases h : n = 0
  · rw [if_pos h]
  · rw [if_neg h, setReg64_mem]

@[simp] theorem count_bar0 (s : State) (a n : Nat) : (s.count a n).bar0 = s.bar0 := by
  unfold State.count
  by_cases h : n = 0
  · rw [if_pos h]
  · rw [if_neg h, setReg_bar0]

@[simp] theorem count64_bar0 (s : State) (a n : Nat) : (s.count64 a n).bar0 = s.bar0 := by
  unfold State.count64
  by_cases h : n = 0
  · rw [if_pos h]
  · rw [if_neg h, setReg64_bar0]

@[simp] theorem count_cores (s : State) (a n : Nat) : (s.count a n).cores = s.cores := by
  unfold State.count
  by_cases h : n = 0
  · rw [if_pos h]
  · rw [if_neg h, setReg_cores]

@[simp] theorem count64_cores (s : State) (a n : Nat) : (s.count64 a n).cores = s.cores := by
  unfold State.count64
  by_cases h : n = 0
  · rw [if_pos h]
  · rw [if_neg h, setReg64_cores]

@[simp] theorem count_phys (s : State) (a n : Nat) : (s.count a n).phys = s.phys := by
  unfold State.count
  by_cases h : n = 0
  · rw [if_pos h]
  · rw [if_neg h, setReg_phys]

@[simp] theorem count64_phys (s : State) (a n : Nat) : (s.count64 a n).phys = s.phys := by
  unfold State.count64
  by_cases h : n = 0
  · rw [if_pos h]
  · rw [if_neg h, setReg64_phys]

@[simp] theorem count_clusters (s : State) (a n : Nat) : (s.count a n).clusters = s.clusters := by
  unfold State.count
  by_cases h : n = 0
  · rw [if_pos h]
  · rw [if_neg h, setReg_clusters]

@[simp] theorem count64_clusters (s : State) (a n : Nat) : (s.count64 a n).clusters = s.clusters := by
  unfold State.count64
  by_cases h : n = 0
  · rw [if_pos h]
  · rw [if_neg h, setReg64_clusters]

@[simp] theorem count_movedIn (s : State) (a n : Nat) : (s.count a n).movedIn = s.movedIn := by
  unfold State.count
  by_cases h : n = 0
  · rw [if_pos h]
  · rw [if_neg h, setReg_movedIn]

@[simp] theorem count64_movedIn (s : State) (a n : Nat) : (s.count64 a n).movedIn = s.movedIn := by
  unfold State.count64
  by_cases h : n = 0
  · rw [if_pos h]
  · rw [if_neg h, setReg64_movedIn]

@[simp] theorem count_regions (s : State) (a n : Nat) : (s.count a n).regions = s.regions := by
  unfold State.count
  by_cases h : n = 0
  · rw [if_pos h]
  · rw [if_neg h, setReg_regions]

@[simp] theorem count64_regions (s : State) (a n : Nat) : (s.count64 a n).regions = s.regions := by
  unfold State.count64
  by_cases h : n = 0
  · rw [if_pos h]
  · rw [if_neg h, setReg64_regions]

@[simp] theorem count_parts (s : State) (a n : Nat) : (s.count a n).parts = s.parts := by
  unfold State.count
  by_cases h : n = 0
  · rw [if_pos h]
  · rw [if_neg h, setReg_parts]

@[simp] theorem count64_parts (s : State) (a n : Nat) : (s.count64 a n).parts = s.parts := by
  unfold State.count64
  by_cases h : n = 0
  · rw [if_pos h]
  · rw [if_neg h, setReg64_parts]

@[simp] theorem count_stackTbl (s : State) (a n : Nat) : (s.count a n).stackTbl = s.stackTbl := by
  unfold State.count
  by_cases h : n = 0
  · rw [if_pos h]
  · rw [if_neg h, setReg_stackTbl]

@[simp] theorem count64_stackTbl (s : State) (a n : Nat) : (s.count64 a n).stackTbl = s.stackTbl := by
  unfold State.count64
  by_cases h : n = 0
  · rw [if_pos h]
  · rw [if_neg h, setReg64_stackTbl]

@[simp] theorem count_seams (s : State) (a n : Nat) : (s.count a n).seams = s.seams := by
  unfold State.count
  by_cases h : n = 0
  · rw [if_pos h]
  · rw [if_neg h, setReg_seams]

@[simp] theorem count64_seams (s : State) (a n : Nat) : (s.count64 a n).seams = s.seams := by
  unfold State.count64
  by_cases h : n = 0
  · rw [if_pos h]
  · rw [if_neg h, setReg64_seams]

@[simp] theorem count_moving (s : State) (a n : Nat) : (s.count a n).moving = s.moving := by
  unfold State.count
  by_cases h : n = 0
  · rw [if_pos h]
  · rw [if_neg h, setReg_moving]

@[simp] theorem count64_moving (s : State) (a n : Nat) : (s.count64 a n).moving = s.moving := by
  unfold State.count64
  by_cases h : n = 0
  · rw [if_pos h]
  · rw [if_neg h, setReg64_moving]

@[simp] theorem count_ports (s : State) (a n : Nat) : (s.count a n).ports = s.ports := by
  unfold State.count
  by_cases h : n = 0
  · rw [if_pos h]
  · rw [if_neg h, setReg_ports]

@[simp] theorem count64_ports (s : State) (a n : Nat) : (s.count64 a n).ports = s.ports := by
  unfold State.count64
  by_cases h : n = 0
  · rw [if_pos h]
  · rw [if_neg h, setReg64_ports]

@[simp] theorem count_ept (s : State) (a n : Nat) : (s.count a n).ept = s.ept := by
  unfold State.count
  by_cases h : n = 0
  · rw [if_pos h]
  · rw [if_neg h, setReg_ept]

@[simp] theorem count64_ept (s : State) (a n : Nat) : (s.count64 a n).ept = s.ept := by
  unfold State.count64
  by_cases h : n = 0
  · rw [if_pos h]
  · rw [if_neg h, setReg64_ept]

@[simp] theorem count_pgroups (s : State) (a n : Nat) : (s.count a n).pgroups = s.pgroups := by
  unfold State.count
  by_cases h : n = 0
  · rw [if_pos h]
  · rw [if_neg h, setReg_pgroups]

@[simp] theorem count64_pgroups (s : State) (a n : Nat) : (s.count64 a n).pgroups = s.pgroups := by
  unfold State.count64
  by_cases h : n = 0
  · rw [if_pos h]
  · rw [if_neg h, setReg64_pgroups]

@[simp] theorem count_mcast (s : State) (a n : Nat) : (s.count a n).mcast = s.mcast := by
  unfold State.count
  by_cases h : n = 0
  · rw [if_pos h]
  · rw [if_neg h, setReg_mcast]

@[simp] theorem count64_mcast (s : State) (a n : Nat) : (s.count64 a n).mcast = s.mcast := by
  unfold State.count64
  by_cases h : n = 0
  · rw [if_pos h]
  · rw [if_neg h, setReg64_mcast]

@[simp] theorem count_resident (s : State) (a n : Nat) : (s.count a n).resident = s.resident := by
  unfold State.count
  by_cases h : n = 0
  · rw [if_pos h]
  · rw [if_neg h, setReg_resident]

@[simp] theorem count64_resident (s : State) (a n : Nat) : (s.count64 a n).resident = s.resident := by
  unfold State.count64
  by_cases h : n = 0
  · rw [if_pos h]
  · rw [if_neg h, setReg64_resident]

@[simp] theorem count_ctxs (s : State) (a n : Nat) : (s.count a n).ctxs = s.ctxs := by
  unfold State.count
  by_cases h : n = 0
  · rw [if_pos h]
  · rw [if_neg h, setReg_ctxs]

@[simp] theorem count64_ctxs (s : State) (a n : Nat) : (s.count64 a n).ctxs = s.ctxs := by
  unfold State.count64
  by_cases h : n = 0
  · rw [if_pos h]
  · rw [if_neg h, setReg64_ctxs]

@[simp] theorem count_sends (s : State) (a n : Nat) : (s.count a n).sends = s.sends := by
  unfold State.count
  by_cases h : n = 0
  · rw [if_pos h]
  · rw [if_neg h, setReg_sends]

@[simp] theorem count64_sends (s : State) (a n : Nat) : (s.count64 a n).sends = s.sends := by
  unfold State.count64
  by_cases h : n = 0
  · rw [if_pos h]
  · rw [if_neg h, setReg64_sends]

@[simp] theorem count_recvs (s : State) (a n : Nat) : (s.count a n).recvs = s.recvs := by
  unfold State.count
  by_cases h : n = 0
  · rw [if_pos h]
  · rw [if_neg h, setReg_recvs]

@[simp] theorem count64_recvs (s : State) (a n : Nat) : (s.count64 a n).recvs = s.recvs := by
  unfold State.count64
  by_cases h : n = 0
  · rw [if_pos h]
  · rw [if_neg h, setReg64_recvs]

@[simp] theorem count_host (s : State) (a n : Nat) : (s.count a n).host = s.host := by
  unfold State.count
  by_cases h : n = 0
  · rw [if_pos h]
  · rw [if_neg h, setReg_host]

@[simp] theorem count64_host (s : State) (a n : Nat) : (s.count64 a n).host = s.host := by
  unfold State.count64
  by_cases h : n = 0
  · rw [if_pos h]
  · rw [if_neg h, setReg64_host]

@[simp] theorem count_power (s : State) (a n : Nat) : (s.count a n).power = s.power := by
  unfold State.count
  by_cases h : n = 0
  · rw [if_pos h]
  · rw [if_neg h, setReg_power]

@[simp] theorem count64_power (s : State) (a n : Nat) : (s.count64 a n).power = s.power := by
  unfold State.count64
  by_cases h : n = 0
  · rw [if_pos h]
  · rw [if_neg h, setReg64_power]

@[simp] theorem count_sparing (s : State) (a n : Nat) : (s.count a n).sparing = s.sparing := by
  unfold State.count
  by_cases h : n = 0
  · rw [if_pos h]
  · rw [if_neg h, setReg_sparing]

@[simp] theorem count64_sparing (s : State) (a n : Nat) : (s.count64 a n).sparing = s.sparing := by
  unfold State.count64
  by_cases h : n = 0
  · rw [if_pos h]
  · rw [if_neg h, setReg64_sparing]

@[simp] theorem count_evr (s : State) (a n : Nat) : (s.count a n).evr = s.evr := by
  unfold State.count
  by_cases h : n = 0
  · rw [if_pos h]
  · rw [if_neg h, setReg_evr]

@[simp] theorem count64_evr (s : State) (a n : Nat) : (s.count64 a n).evr = s.evr := by
  unfold State.count64
  by_cases h : n = 0
  · rw [if_pos h]
  · rw [if_neg h, setReg64_evr]

@[simp] theorem count_trust (s : State) (a n : Nat) : (s.count a n).trust = s.trust := by
  unfold State.count
  by_cases h : n = 0
  · rw [if_pos h]
  · rw [if_neg h, setReg_trust]

@[simp] theorem count64_trust (s : State) (a n : Nat) : (s.count64 a n).trust = s.trust := by
  unfold State.count64
  by_cases h : n = 0
  · rw [if_pos h]
  · rw [if_neg h, setReg64_trust]

@[simp] theorem count_hw (s : State) (a n : Nat) : (s.count a n).hw = s.hw := by
  unfold State.count
  by_cases h : n = 0
  · rw [if_pos h]
  · rw [if_neg h, setReg_hw]

@[simp] theorem count64_hw (s : State) (a n : Nat) : (s.count64 a n).hw = s.hw := by
  unfold State.count64
  by_cases h : n = 0
  · rw [if_pos h]
  · rw [if_neg h, setReg64_hw]

@[simp] theorem keeping_now (t s : State) : (t.keeping s).now = s.now := rfl
@[simp] theorem keeping_free (t s : State) : (t.keeping s).free = t.free := rfl
@[simp] theorem keeping_pending (t s : State) : (t.keeping s).pending = s.pending := rfl
@[simp] theorem keeping_mem (t s : State) : (t.keeping s).mem = t.mem := rfl
@[simp] theorem keeping_regs (t s : State) : (t.keeping s).regs = t.regs := rfl
@[simp] theorem keeping_bar0 (t s : State) : (t.keeping s).bar0 = t.bar0 := rfl
@[simp] theorem keeping_cores (t s : State) : (t.keeping s).cores = t.cores := rfl
@[simp] theorem keeping_phys (t s : State) : (t.keeping s).phys = t.phys := rfl
@[simp] theorem keeping_clusters (t s : State) : (t.keeping s).clusters = t.clusters := rfl
@[simp] theorem keeping_movedIn (t s : State) : (t.keeping s).movedIn = t.movedIn := rfl
@[simp] theorem keeping_regions (t s : State) : (t.keeping s).regions = t.regions := rfl
@[simp] theorem keeping_parts (t s : State) : (t.keeping s).parts = t.parts := rfl
@[simp] theorem keeping_stackTbl (t s : State) : (t.keeping s).stackTbl = t.stackTbl := rfl
@[simp] theorem keeping_seams (t s : State) : (t.keeping s).seams = t.seams := rfl
@[simp] theorem keeping_moving (t s : State) : (t.keeping s).moving = t.moving := rfl
@[simp] theorem keeping_ports (t s : State) : (t.keeping s).ports = t.ports := rfl
@[simp] theorem keeping_ept (t s : State) : (t.keeping s).ept = t.ept := rfl
@[simp] theorem keeping_pgroups (t s : State) : (t.keeping s).pgroups = t.pgroups := rfl
@[simp] theorem keeping_mcast (t s : State) : (t.keeping s).mcast = t.mcast := rfl
@[simp] theorem keeping_resident (t s : State) : (t.keeping s).resident = t.resident := rfl
@[simp] theorem keeping_ctxs (t s : State) : (t.keeping s).ctxs = t.ctxs := rfl
@[simp] theorem keeping_sends (t s : State) : (t.keeping s).sends = t.sends := rfl
@[simp] theorem keeping_recvs (t s : State) : (t.keeping s).recvs = t.recvs := rfl
@[simp] theorem keeping_host (t s : State) : (t.keeping s).host = t.host := rfl
@[simp] theorem keeping_power (t s : State) : (t.keeping s).power = t.power := rfl
@[simp] theorem keeping_sparing (t s : State) : (t.keeping s).sparing = t.sparing := rfl
@[simp] theorem keeping_evr (t s : State) : (t.keeping s).evr = t.evr := rfl
@[simp] theorem keeping_trust (t s : State) : (t.keeping s).trust = t.trust := rfl
@[simp] theorem keeping_hw (t s : State) : (t.keeping s).hw = s.hw := rfl
@[simp] theorem keeping_at_core (t s : State) (h : Nat) : (t.keeping s).core h = t.core h := rfl
@[simp] theorem keeping_at_clu (t s : State) (c : Nat) : (t.keeping s).clu c = t.clu c := rfl
@[simp] theorem keeping_at_physCore (t s : State) (k : Nat) : (t.keeping s).physCore k = t.physCore k := rfl
@[simp] theorem keeping_at_part (t s : State) (p : Nat) : (t.keeping s).part p = t.part p := rfl
@[simp] theorem keeping_at_region (t s : State) (r : Nat) : (t.keeping s).region r = t.region r := rfl
@[simp] theorem keeping_at_stack (t s : State) (n : Nat) : (t.keeping s).stack n = t.stack n := rfl
@[simp] theorem keeping_at_port (t s : State) (n : Nat) : (t.keeping s).port n = t.port n := rfl
@[simp] theorem keeping_at_ring (t s : State) (r : Nat) : (t.keeping s).ring r = t.ring r := rfl
@[simp] theorem keeping_at_reg (t s : State) (a : Nat) : (t.keeping s).reg a = t.reg a := rfl
@[simp] theorem keeping_at_mgt (t s : State) (a : Nat) : (t.keeping s).mgt a = t.mgt a := rfl
@[simp] theorem keeping_at_field (t s : State) (a lo w : Nat) : (t.keeping s).field a lo w = t.field a lo w := rfl
@[simp] theorem keeping_at_mgtField (t s : State) (a lo w : Nat) : (t.keeping s).mgtField a lo w = t.mgtField a lo w := rfl

/-- A command's answer is its effect, where that leaves the queue, the clock and the fixed facts alone. -/
theorem answer_eq (s t : State) (hp : t.pending = s.pending) (hn : t.now = s.now) (hh : t.hw = s.hw) : answer s t = .next t := by
  unfold answer State.keeping
  rw [← hp, ← hn, ← hh]

@[simp] theorem answer_setCore (s : State) (h : Nat) (c : Core) : answer s (s.setCore h c) = .next (s.setCore h c) := rfl

@[simp] theorem answer_self (s : State) : answer s s = .next s := rfl

@[simp] theorem onlyIf_true (s t : State) : onlyIf true s t = t := rfl

@[simp] theorem onlyIf_false (s t : State) : onlyIf false s t = s := rfl

end Sys2Proof.Laws
end

