-- ==== Sys2Proof/Laws/Event.lean ====
section
/-! SUPPORT. What making an event record can do: the recorder, its registers and the host's signals move, and nothing else. -/

namespace Sys2Proof.Laws

open Sys2Proof.Machine

/-- t is s but for the event recorder, the register files and the host interface. -/
def OnlyEvents (s t : State) : Prop := t = { s with evr := t.evr, bar0 := t.bar0, host := t.host, regs := t.regs }

theorem OnlyEvents.self (s : State) : OnlyEvents s s := rfl
theorem OnlyEvents.trans {s t u : State} (a : OnlyEvents s t) (b : OnlyEvents t u) : OnlyEvents s u := by
  unfold OnlyEvents at *; rw [a] at b; exact b
theorem OnlyEvents.ite {c : Prop} [Decidable c] {s t u : State} (a : OnlyEvents s t) (b : OnlyEvents s u) : OnlyEvents s (if c then t else u) := by
  split <;> assumption

theorem count_onlyEvents (s : State) (a n : Nat) : OnlyEvents s (s.count a n) := by unfold State.count; split <;> rfl
theorem setMgt_onlyEvents (s : State) (o : Nat) (v : Word) : OnlyEvents s (s.setMgt o v) := rfl
theorem setMgtField_onlyEvents (s : State) (o lo w v : Nat) : OnlyEvents s (s.setMgtField o lo w v) := rfl

theorem pulse_onlyEvents (s : State) : OnlyEvents s s.pulse := by
  unfold State.pulse
  refine .ite (.self s) ?_
  split
  · refine .ite (.self s) rfl
  · rfl

theorem signal_onlyEvents (s : State) (v : Nat) (p : Bool) : OnlyEvents s (s.signal v p) := by
  unfold State.signal
  refine .ite (.self s) (.ite ?_ (show OnlyEvents _ _ from rfl))
  exact .ite ((setMgtField_onlyEvents ..).trans (pulse_onlyEvents _)) (setMgtField_onlyEvents ..)

theorem alarm_onlyEvents (s : State) (v : Nat) : OnlyEvents s (s.alarm v) := by
  unfold State.alarm
  exact .ite (.self s) (.ite (pulse_onlyEvents s) (.ite (pulse_onlyEvents s) (.ite (signal_onlyEvents ..) (.self s))))

theorem keepRecord_onlyEvents (s : State) (e : Event) (buf : List (Event × Bool)) : OnlyEvents s (s.keepRecord e buf) := by
  unfold State.keepRecord
  refine OnlyEvents.trans ?_ (alarm_onlyEvents _ _)
  exact rfl

theorem record_onlyEvents (s : State) (code sev part region : Nat) (sub : Subject) (data : Bytes) :
    OnlyEvents s (s.record code sev part region sub data) := by
  unfold State.record
  refine .ite (keepRecord_onlyEvents ..) ?_
  split
  · exact count_onlyEvents ..
  · exact (OnlyEvents.ite (count_onlyEvents ..) (.self s)).trans (keepRecord_onlyEvents ..)

theorem OnlyEvents.mem {s t : State} (a : OnlyEvents s t) : t.mem = s.mem := by rw [a]
theorem OnlyEvents.cores {s t : State} (a : OnlyEvents s t) : t.cores = s.cores := by rw [a]

end Sys2Proof.Laws
end

