-- ==== Sys2Proof/Laws/Store.lean ====
section
/-! SUPPORT. What a store, which goes block by block, can do: nothing outside its bytes, and where nothing stands against it the
one write of all of them. -/

namespace Sys2Proof.Laws

open Sys2Proof.Machine

theorem blockParts_bounds : ∀ (f a n : Nat), ∀ e ∈ blockParts f a n, a ≤ e.1 ∧ e.1 + e.2 ≤ a + n
  | 0, _, _, e, he => by simp [blockParts] at he
  | f + 1, a, n, e, he => by
    unfold blockParts at he
    split at he
    · simp at he
    · rcases List.mem_cons.mp he with h | h
      · subst h
        exact ⟨Nat.le_refl _, by have : Nat.min n (0x10000 - a % 0x10000) ≤ n := Nat.min_le_left _ _; simp only; omega⟩
      · have := blockParts_bounds f _ _ e h
        have : Nat.min n (0x10000 - a % 0x10000) ≤ n := Nat.min_le_left _ _
        simp only at *
        omega

/-- An access within one 64 KiB block has one part. -/
theorem blocksOf_one (a n : Nat) (h0 : 0 < n) (h : a % 0x10000 + n ≤ 0x10000) : blocksOf a n = [(a, n)] := by
  unfold blocksOf
  rw [show n / 0x10000 + 2 = (n / 0x10000 + 1) + 1 from rfl, blockParts, if_neg (by omega)]
  dsimp only
  have e : Nat.min n (0x10000 - a % 0x10000) = n := Nat.min_eq_left (by omega)
  rw [e, Nat.sub_self, blockParts, if_pos rfl]

theorem slice_length (bs : Bytes) (o n : Nat) : (slice bs o n).length ≤ n := by
  unfold slice; simp only [List.length_take, List.length_drop]; omega

/-- A store within one block changes no byte outside its own, and no core. -/
theorem storeBlock_frame (s : State) (who : Requester) (eid : BitVec 24) (a : Nat) (bs : Bytes) :
    (∀ b, b < a ∨ a + bs.length ≤ b → memByte (s.storeBlock who eid a bs).mem b = memByte s.mem b)
      ∧ (s.storeBlock who eid a bs).cores = s.cores := by
  unfold State.storeBlock State.storeSram State.noteUnmapped State.noteOff
  repeat' split
  all_goals first
    | exact ⟨fun b _ => by rw [(record_onlyEvents _ _ _ _ _ _ _).mem], (record_onlyEvents _ _ _ _ _ _ _).cores⟩
    | exact ⟨fun b hb => memByte_write_out _ _ _ _ hb, rfl⟩
    | exact ⟨fun b _ => by rw [(count_onlyEvents _ _ _).mem], (count_onlyEvents _ _ _).cores⟩
    | exact ⟨fun _ _ => rfl, rfl⟩

/-- A store changes no byte outside its own, and no core. -/
theorem store_frame (s : State) (who : Requester) (eid : BitVec 24) (a : Nat) (bs : Bytes) :
    (∀ b, b < a ∨ a + bs.length ≤ b → memByte (s.store who eid a bs).mem b = memByte s.mem b)
      ∧ (s.store who eid a bs).cores = s.cores := by
  have key : ∀ (l : List (Nat × Nat)) (s : State), (∀ e ∈ l, a ≤ e.1 ∧ e.1 + e.2 ≤ a + bs.length) →
      (∀ b, b < a ∨ a + bs.length ≤ b → memByte (l.foldl (fun s e => s.storeBlock who eid e.1 (slice bs (e.1 - a) e.2)) s).mem b = memByte s.mem b)
        ∧ (l.foldl (fun s e => s.storeBlock who eid e.1 (slice bs (e.1 - a) e.2)) s).cores = s.cores := by
    intro l
    induction l with
    | nil => exact fun s _ => ⟨fun _ _ => rfl, rfl⟩
    | cons e l ih =>
      intro s hl
      rw [List.foldl_cons]
      have h1 := storeBlock_frame s who eid e.1 (slice bs (e.1 - a) e.2)
      have h2 := ih (s.storeBlock who eid e.1 (slice bs (e.1 - a) e.2)) fun x hx => hl x (by simp [hx])
      have h3 := hl e (by simp)
      have h4 := slice_length bs (e.1 - a) e.2
      exact ⟨fun b hb => (h2.1 b hb).trans (h1.1 b (by omega)), h2.2.trans h1.2⟩
  exact key _ s (blockParts_bounds _ _ _)

theorem cellsAt_append : ∀ (b1 b2 : Bytes) (a : Nat), cellsAt a (b1 ++ b2) = cellsAt a b1 ++ cellsAt (a + b1.length) b2
  | [], b2, a => by simp [cellsAt]
  | x :: b1, b2, a => by
    simp only [List.cons_append, cellsAt, List.length_cons, cellsAt_append b1 b2 (a + 1)]
    rw [show a + 1 + b1.length = a + (b1.length + 1) by omega]
    split <;> simp

/-- Two writes one behind the other are the write of both. -/
theorem memWrite_append (m : List Host.Cell) (a : Nat) (b1 b2 : Bytes) :
    memWrite (memWrite m a b1) (a + b1.length) b2 = memWrite m a (b1 ++ b2) := by
  have hk := cellsAt_bounds b1 a
  unfold memWrite
  simp only [List.filter_append, List.filter_filter, cellsAt_append, List.length_append, ← Nat.add_assoc]
  have e1 : (cellsAt a b1).filter (fun c => decide (c.1 < a + b1.length)) = cellsAt a b1 :=
    List.filter_eq_self.mpr fun e he => by simpa using (hk e he).2
  have e2 : (cellsAt a b1).filter (fun c => decide (a + b1.length + b2.length ≤ c.1)) = [] :=
    List.filter_eq_nil_iff.mpr fun e he => by have := (hk e he).2; simp only [decide_eq_true_eq]; omega
  rw [e1, e2]
  have e3 : (fun c : Host.Cell => decide (c.1 < a + b1.length) && decide (c.1 < a)) = fun c => decide (c.1 < a) := by
    funext c; by_cases h : c.1 < a <;> simp [h] <;> omega
  have e4 : (fun c : Host.Cell => decide (c.1 < a + b1.length) && decide (a + b1.length ≤ c.1)) = fun _ => false := by
    funext c; by_cases h : c.1 < a + b1.length <;> simp [h] <;> omega
  have e5 : (fun c : Host.Cell => decide (a + b1.length + b2.length ≤ c.1) && decide (c.1 < a)) = fun _ => false := by
    funext c; by_cases h : c.1 < a <;> simp [h]; omega
  have e6 : (fun c : Host.Cell => decide (a + b1.length + b2.length ≤ c.1) && decide (a + b1.length ≤ c.1)) = fun c => decide (a + b1.length + b2.length ≤ c.1) := by
    funext c; by_cases h : a + b1.length + b2.length ≤ c.1 <;> simp [h] <;> omega
  simp only [e3, e4, e5, e6]
  simp

/-- Nothing stands against a write of the block part e (R33, R35, R51, R204). -/
def Plain (s : State) (e : Nat × Nat) : Prop :=
  s.mapped e.1 = true ∧ s.cacheMode (clusterOfAddr e.1) = false ∧ (s.clu (clusterOfAddr e.1)).backupOn = false

theorem storeBlock_plain (s : State) (who : Requester) (eid : BitVec 24) (a n : Nat) (bs : Bytes) (h : Plain s (a, n)) :
    s.storeBlock who eid a bs = { s with mem := memWrite s.mem a bs } := by
  obtain ⟨hm, hc, hk⟩ := h
  simp only at hm hc hk
  unfold State.storeBlock State.storeSram
  simp only [hm, hc, hk, Bool.not_true, Bool.false_eq_true, Bool.and_false, Bool.false_and, State.poke, if_false]
  split <;> rfl

/-- The parts of a plain write laid down one after another are the write. -/
theorem storeParts_plain (who : Requester) (eid : BitVec 24) : ∀ (f a n : Nat) (bs : Bytes) (s : State) (b : Nat), b ≤ a → a - b + n = bs.length →
    n ≤ (0x10000 - a % 0x10000) + (f - 1) * 0x10000 → 0 < f → (∀ e ∈ blockParts f a n, Plain s e) →
    (blockParts f a n).foldl (fun s e => s.storeBlock who eid e.1 (slice bs (e.1 - b) e.2)) s
      = { s with mem := memWrite s.mem a (bs.drop (a - b)) } ∨ n = 0
  | 0, _, _, _, _, _, _, _, _, h0, _ => absurd h0 (by omega)
  | f + 1, a, n, bs, s, b, hb, hl, hn, _, hp => by
    by_cases hz : n = 0
    · exact .inr hz
    · left
      unfold blockParts at hp ⊢
      simp only [hz, if_false, List.foldl_cons] at hp ⊢
      generalize hk : Nat.min n (0x10000 - a % 0x10000) = k at hp ⊢
      have k1 : k ≤ n ∧ k ≤ 0x10000 - a % 0x10000 ∧ (k = n ∨ k = 0x10000 - a % 0x10000) := by
        rw [← hk]; show min n _ ≤ n ∧ min n _ ≤ _ ∧ (min n _ = n ∨ min n _ = _); omega
      rw [storeBlock_plain s who eid a k _ (hp _ (by simp))]
      have e1 : slice bs (a - b) k ++ bs.drop (a + k - b) = bs.drop (a - b) := by
        unfold slice
        rw [show a + k - b = (a - b) + k by omega, ← List.drop_drop, List.take_append_drop]
      have e2 : (slice bs (a - b) k).length = k := by unfold slice; simp only [List.length_take, List.length_drop]; omega
      by_cases hr : n - k = 0
      · have e3 : bs.drop (a + k - b) = [] := List.drop_eq_nil_of_le (by omega)
        rw [e3, List.append_nil] at e1
        rw [hr, show blockParts f (a + k) 0 = [] by cases f <;> simp [blockParts], List.foldl_nil, e1]
      · have := storeParts_plain who eid f (a + k) (n - k) bs { s with mem := memWrite s.mem a (slice bs (a - b) k) } b (by omega) (by omega) (by omega) (by omega)
          (fun e he => hp e (by simp [he]))
        rcases this with h | h
        · rw [h]
          simp only
          have e4 := memWrite_append s.mem a (slice bs (a - b) k) (bs.drop (a + k - b))
          rw [e2, e1] at e4
          rw [e4]
        · exact absurd h hr

/-- A store all of whose parts are plain writes its bytes and does nothing else (R43). -/
theorem store_plain (s : State) (who : Requester) (eid : BitVec 24) (a : Nat) (bs : Bytes) (hb : bs ≠ []) (hp : ∀ e ∈ blocksOf a bs.length, Plain s e) :
    s.store who eid a bs = { s with mem := memWrite s.mem a bs } := by
  have h0 : bs.length ≠ 0 := fun h => hb (List.eq_nil_of_length_eq_zero h)
  have := storeParts_plain who eid (bs.length / 0x10000 + 2) a bs.length bs s a (by omega) (by omega) (by omega) (by omega) hp
  rw [Nat.sub_self, List.drop_zero] at this
  exact this.resolve_right h0

end Sys2Proof.Laws
end

