-- ==== Sys2Proof/Laws/Engine.lean ====
section
/-! SUPPORT. What the shared operations of the engines can do: narrowing advances the random streams of its core alone, counting
sentinels moves registers alone, draining moves result tokens from an engine to its output queue and keeps their order. -/

namespace Sys2Proof.Laws

open Sys2Proof.Machine

/-- t is s but for the petals of hart h's core. -/
def OnlyPetals (h : Nat) (s t : State) : Prop :=
  t = { s with cores := t.cores } ∧ (∀ k, k ≠ h → t.core k = s.core k) ∧ ∃ p, t.core h = { s.core h with petals := p }

theorem OnlyPetals.self (h : Nat) (s : State) : OnlyPetals h s s := ⟨rfl, fun _ _ => rfl, _, rfl⟩

theorem OnlyPetals.trans {h : Nat} {s t u : State} (a : OnlyPetals h s t) (b : OnlyPetals h t u) : OnlyPetals h s u := by
  obtain ⟨a1, a2, p, a3⟩ := a
  obtain ⟨b1, b2, q, b3⟩ := b
  refine ⟨?_, fun k hk => (b2 k hk).trans (a2 k hk), q, by rw [b3, a3]⟩
  rw [a1] at b1
  exact b1

theorem drawUnit_petals (c : Core) (u : Nat) : ∃ p, (c.drawUnit u).2 = { c with petals := p } := ⟨_, rfl⟩

theorem draw_onlyPetals (s : State) (h u : Nat) : OnlyPetals h s (s.setCore h ((s.core h).drawUnit u).2) :=
  ⟨rfl, fun k hk => by simp [Ne.symm hk], _, by simp; rfl⟩

theorem narrowOne_onlyPetals (s : State) (h u o : Nat) (st : Bool) (w : Word) : OnlyPetals h s (s.narrowOne h u o st w).2 := by
  unfold State.narrowOne
  split
  · exact draw_onlyPetals s h u
  · exact .self h s

theorem narrowAll_onlyPetals (h u o : Nat) (st : Bool) : ∀ (ws : List Word) (s : State), OnlyPetals h s (State.narrowAll h u o st ws s).2.2
  | [], s => .self h s
  | w :: ws, s => (narrowOne_onlyPetals s h u o st w).trans (narrowAll_onlyPetals h u o st ws _)

theorem OnlyPetals.mem {h : Nat} {s t : State} (a : OnlyPetals h s t) : t.mem = s.mem := by rw [a.1]
theorem OnlyPetals.engine {h : Nat} {s t : State} (a : OnlyPetals h s t) (i : Nat) : (t.core h).engine i = (s.core h).engine i := by
  obtain ⟨_, _, p, a3⟩ := a; rw [a3]; rfl
theorem OnlyPetals.outQ {h : Nat} {s t : State} (a : OnlyPetals h s t) (i : Nat) : (t.core h).outQ i = (s.core h).outQ i := by
  obtain ⟨_, _, p, a3⟩ := a; rw [a3]; rfl
theorem OnlyPetals.inq {h : Nat} {s t : State} (a : OnlyPetals h s t) : (t.core h).inq = (s.core h).inq := by
  obtain ⟨_, _, p, a3⟩ := a; rw [a3]
theorem OnlyPetals.epochOf {h : Nat} {s t : State} (a : OnlyPetals h s t) (c : Nat) : t.epochOf c = s.epochOf c := by rw [a.1]; rfl
theorem OnlyPetals.others {h : Nat} {s t : State} (a : OnlyPetals h s t) (k : Nat) (hk : k ≠ h) : t.core k = s.core k := a.2.1 k hk

/-- What narrowing yields depends on the running petal of its core alone. -/
theorem narrowAll_bytes_congr (h u o : Nat) (st : Bool) : ∀ (ws : List Word) (s s' : State), (s.core h).pet = (s'.core h).pet →
    (State.narrowAll h u o st ws s).1 = (State.narrowAll h u o st ws s').1
      ∧ (State.narrowAll h u o st ws s).2.1 = (State.narrowAll h u o st ws s').2.1
  | [], _, _, _ => ⟨rfl, rfl⟩
  | w :: ws, s, s', e => by
    have h1 : (s.narrowOne h u o st w).1 = (s'.narrowOne h u o st w).1
        ∧ (((s.narrowOne h u o st w).2).core h).pet = (((s'.narrowOne h u o st w).2).core h).pet := by
      unfold State.narrowOne
      split
      · simp only [Core.drawUnit, core_setCore, if_true, e, pet_setPet, and_self]
      · exact ⟨rfl, e⟩
    have h2 := narrowAll_bytes_congr h u o st ws _ _ h1.2
    simp only [State.narrowAll, h1.1, h2.1, h2.2, and_self]

/-- Without STOCH narrowing draws nothing: the bytes are the codes of the values rounded to nearest, in order (R99). -/
theorem narrowAll_nearest (h u o : Nat) : ∀ (ws : List Word) (s : State),
    (State.narrowAll h u o false ws s).1 = ws.flatMap (fun w => natLe (otypeBytes o) (narrow o .rne w).code)
      ∧ (State.narrowAll h u o false ws s).2.2 = s
  | [], _ => ⟨rfl, rfl⟩
  | w :: ws, s => by
    have h2 := narrowAll_nearest h u o ws s
    simp only [State.narrowAll, State.narrowOne, Bool.false_and, Bool.false_eq_true, if_false, List.flatMap_cons, h2.1, h2.2, and_self]

/-- t is s but for its register file. -/
def OnlyRegs (s t : State) : Prop := t = { s with regs := t.regs }

theorem OnlyRegs.self (s : State) : OnlyRegs s s := rfl
theorem OnlyRegs.trans {s t u : State} (a : OnlyRegs s t) (b : OnlyRegs t u) : OnlyRegs s u := by
  unfold OnlyRegs at *; rw [a] at b; exact b
theorem count_onlyRegs (s : State) (a n : Nat) : OnlyRegs s (s.count a n) := by
  unfold State.count; split <;> rfl
theorem setReg_onlyRegs (s : State) (a : Nat) (v : Word) : OnlyRegs s (s.setReg a v) := rfl
theorem setField_onlyRegs (s : State) (a lo w v : Nat) : OnlyRegs s (s.setField a lo w v) := by
  unfold State.setField; exact setReg_onlyRegs _ _ _
theorem setReg64_onlyRegs (s : State) (a v : Nat) : OnlyRegs s (s.setReg64 a v) := by
  unfold State.setReg64
  generalize BitVec.ofNat 32 v = x, BitVec.ofNat 32 (v / 0x100000000) = y
  exact rfl
theorem count64_onlyRegs (s : State) (a n : Nat) : OnlyRegs s (s.count64 a n) := by
  unfold State.count64
  split
  · exact .self s
  · exact setReg64_onlyRegs _ _ _
theorem countSent_onlyRegs (s : State) (a : Nat) (n : Sent) : OnlyRegs s (s.countSent a n) := by
  unfold State.countSent
  generalize a + 4 = a1, a + 8 = a2, a + 0xC = a3, a + 0x10 = a4, a + 0x14 = a5, a + 0x18 = a6, a + 0x1C = a7
  refine OnlyRegs.trans ?_ (count_onlyRegs _ _ _)
  refine OnlyRegs.trans ?_ (count_onlyRegs _ _ _)
  refine OnlyRegs.trans ?_ (count_onlyRegs _ _ _)
  refine OnlyRegs.trans ?_ (count_onlyRegs _ _ _)
  refine OnlyRegs.trans ?_ (count_onlyRegs _ _ _)
  refine OnlyRegs.trans ?_ (count_onlyRegs _ _ _)
  refine OnlyRegs.trans ?_ (count_onlyRegs _ _ _)
  exact count_onlyRegs _ _ _
theorem sentinels_onlyRegs (s : State) (h e : Nat) (n : Sent) : OnlyRegs s (s.sentinels h e n) := by
  unfold State.sentinels
  exact countSent_onlyRegs _ _ _
theorem OnlyRegs.mem {s t : State} (a : OnlyRegs s t) : t.mem = s.mem := by rw [a]
theorem OnlyRegs.parts {s t : State} (a : OnlyRegs s t) : t.parts = s.parts := by rw [a]
theorem OnlyRegs.cores {s t : State} (a : OnlyRegs s t) : t.cores = s.cores := by rw [a]
theorem OnlyRegs.core {s t : State} (a : OnlyRegs s t) (h : Nat) : t.core h = s.core h := by rw [a]; rfl

/-- What draining engine e of hart h into output queue oq can do: result tokens move from the engine to the queue, in their order. -/
structure Drained (h e oq : Nat) (s t : State) : Prop where
  rest : t = { s with cores := t.cores, movedIn := t.movedIn }
  others : ∀ k, k ≠ h → t.core k = s.core k
  engines : ∀ i, i ≠ e → (t.core h).engine i = (s.core h).engine i
  engine : (t.core h).engine e = { (s.core h).engine e with wb := ((t.core h).engine e).wb }
  queues : ∀ q, q ≠ oq → (t.core h).outQ q = (s.core h).outQ q
  inq : (t.core h).inq = (s.core h).inq
  order : ((t.core h).outQ oq).tokens ++ ((t.core h).engine e).wb = ((s.core h).outQ oq).tokens ++ ((s.core h).engine e).wb

theorem Drained.self (h e oq : Nat) (s : State) : Drained h e oq s s :=
  ⟨rfl, fun _ _ => rfl, fun _ _ => rfl, rfl, fun _ _ => rfl, rfl, rfl⟩

theorem Drained.trans {h e oq : Nat} {s t u : State} (a : Drained h e oq s t) (b : Drained h e oq t u) : Drained h e oq s u where
  rest := by have := b.rest; rw [a.rest] at this; exact this
  others k hk := (b.others k hk).trans (a.others k hk)
  engines i hi := (b.engines i hi).trans (a.engines i hi)
  engine := by rw [b.engine, a.engine]
  queues q hq := (b.queues q hq).trans (a.queues q hq)
  inq := b.inq.trans a.inq
  order := b.order.trans a.order

@[simp] theorem outQ_setEngine (c : Core) (i j : Nat) (g : Engine) : (c.setEngine i g).outQ j = c.outQ j := rfl
@[simp] theorem engine_setOutQ (c : Core) (i j : Nat) (q : OutQueue) : (c.setOutQ i q).engine j = c.engine j := rfl
@[simp] theorem setEngine_setEngine (c : Core) (i : Nat) (g k : Engine) : (c.setEngine i g).setEngine i k = c.setEngine i k := by
  unfold Core.setEngine; rw [tset_tset]
@[simp] theorem inq_setEngine (c : Core) (i : Nat) (g : Engine) : (c.setEngine i g).inq = c.inq := rfl
@[simp] theorem inq_setOutQ (c : Core) (i : Nat) (q : OutQueue) : (c.setOutQ i q).inq = c.inq := rfl

theorem drain_drained (h e oq : Nat) : ∀ (n : Nat) (s : State), Drained h e oq s (State.drain h e oq n s)
  | 0, s => .self h e oq s
  | n + 1, s => by
    cases hw : ((s.core h).engine e).wb with
    | nil => simp only [State.drain, hw]; exact .self h e oq s
    | cons t ts =>
      simp only [State.drain, hw]
      split
      · refine Drained.trans ?_ (drain_drained h e oq n _)
        refine ⟨by unfold State.enqueue; rw [stir_eq]; rfl, fun k hk => ?_, fun i hi => ?_, ?_, fun q hq => ?_, ?_, ?_⟩
        · simp [State.enqueue, Ne.symm hk]
        · simp [State.enqueue, Ne.symm hi]
        · simp [State.enqueue]
        · simp [State.enqueue, Ne.symm hq]
        · simp [State.enqueue]
        · simp [State.enqueue, hw]
      · exact .self h e oq s

/-- With the wanted rows at hand gathering takes no token. -/
theorem gather_full (h e qi len want fuel : Nat) (s : State) (hw : want ≤ ((s.core h).engine e).rows.length) :
    State.gather h e qi len want (fuel + 1) s = .full s := by
  simp only [State.gather, hw, if_true]

/-- What writing a vector result can do: the bytes at `DADDR`, or the tokens of one row behind those that wait. -/
theorem vecWrite_frame (s : State) (h : Nat) (d : VDesc) (o : VOut) (bs : Bytes) (hbs : bs = o.raw ++ (State.narrowAll h 5 d.otype d.stoch o.words s).1) :
    let t := s.vecWrite h d o
    (∀ k, k ≠ h → t.core k = s.core k) ∧ (∀ i, i ≠ 4 → (t.core h).engine i = (s.core h).engine i)
      ∧ (∀ q, (t.core h).outQ q = (s.core h).outQ q) ∧ (t.core h).inq = (s.core h).inq
      ∧ (t.core h).engine 4 = { (s.core h).engine 4 with wb := ((s.core h).engine 4).wb ++ (if d.dMem then [] else
          rowTokens (if o.words = [] then 4 else otypeBytes d.otype) (s.epochOf (h / 32)) (bs.length + 1) bs) }
      ∧ (d.dMem = false → t.mem = s.mem)
      ∧ (d.dMem = true → (∀ b, b < nearBase h + d.dst ∨ nearBase h + d.dst + bs.length ≤ b → memByte t.mem b = memByte s.mem b)
          ∧ (bs ≠ [] → (∀ e ∈ blocksOf (nearBase h + d.dst) bs.length, Plain s e) → t.mem = memWrite s.mem (nearBase h + d.dst) bs)) := by
  subst hbs
  have hn := narrowAll_onlyPetals h 5 d.otype d.stoch o.words s
  generalize hb : State.narrowAll h 5 d.otype d.stoch o.words s = b at hn ⊢
  obtain ⟨bs, n, u⟩ := b
  simp only at hn
  intro t
  have ht := fun x : Sent => sentinels_onlyRegs (if d.dMem then u.store .engine 0 (nearBase h + d.dst) (o.raw ++ bs)
      else u.setCore h ((u.core h).setEngine 4 { (u.core h).engine 4 with wb := ((u.core h).engine 4).wb ++ rowTokens (if o.words = [] then 4 else otypeBytes d.otype) (u.epochOf (h / 32)) ((o.raw ++ bs).length + 1) (o.raw ++ bs) })) h 4 x
  have ht' := ht (if d.op = 0x30 then { o.sent.add n with nan := Nat.min 1 (o.sent.add n).nan } else o.sent.add n)
  clear ht
  have e : t = State.sentinels (if d.dMem then u.store .engine 0 (nearBase h + d.dst) (o.raw ++ bs)
      else u.setCore h ((u.core h).setEngine 4 { (u.core h).engine 4 with wb := ((u.core h).engine 4).wb ++ rowTokens (if o.words = [] then 4 else otypeBytes d.otype) (u.epochOf (h / 32)) ((o.raw ++ bs).length + 1) (o.raw ++ bs) })) h 4 (if d.op = 0x30 then { o.sent.add n with nan := Nat.min 1 (o.sent.add n).nan } else o.sent.add n) := by
    show s.vecWrite h d o = _
    unfold State.vecWrite
    rw [hb]
  rw [← e] at ht'
  clear e hb
  clear_value t
  by_cases hd : d.dMem = true
  · simp only [hd, if_true] at ht' ⊢
    have hs := store_frame u .engine 0 (nearBase h + d.dst) (o.raw ++ bs)
    have hc : ∀ k, t.core k = u.core k := fun k => by rw [ht'.core]; unfold State.core; rw [hs.2]
    refine ⟨fun k hk => (hc k).trans (hn.others k hk), fun i _ => by rw [hc, hn.engine], fun q => by rw [hc, hn.outQ], by rw [hc, hn.inq], by rw [hc, hn.engine]; simp, by simp, fun _ => ⟨fun b hb => ?_, fun h1 h2 => ?_⟩⟩
    · rw [ht'.mem, hs.1 b hb, hn.mem]
    · rw [ht'.mem, store_plain u _ _ _ _ h1 (by rw [hn.1]; exact h2)]
      simp [hn.mem]
  · simp only [Bool.not_eq_true] at hd
    simp only [hd, if_false, Bool.false_eq_true] at ht' ⊢
    have hc : ∀ k, t.core k = _ := fun k => ht'.core k
    simp only [core_setCore] at hc
    refine ⟨fun k hk => by rw [hc, if_neg (Ne.symm hk), hn.others k hk], fun i hi => ?_, fun q => ?_, ?_, ?_, fun _ => ?_, by simp⟩
    · rw [hc, if_pos rfl, engine_setEngine, if_neg (Ne.symm hi), hn.engine]
    · rw [hc, if_pos rfl, outQ_setEngine, hn.outQ]
    · rw [hc, if_pos rfl, inq_setEngine, hn.inq]
    · rw [hc, if_pos rfl, engine_setEngine, if_pos rfl, hn.engine, hn.epochOf]
    · rw [ht'.mem]; exact hn.mem

end Sys2Proof.Laws
end

