-- ==== Sys2Proof/Laws/Field.lean ====
section
/-! SUPPORT. Reads of registers and of their fields after a field is written or a record made. -/

namespace Sys2Proof.Laws

open Sys2Proof.Machine

theorem reg_setField_ne (s : State) (a b lo w v : Nat) (e : a ≠ b) : (s.setField a lo w v).reg b = s.reg b := by
  unfold State.setField; rw [reg_setReg, if_neg e]

theorem field_setField_ne (s : State) (a b lo w v lo' w' : Nat) (e : a ≠ b) : (s.setField a lo w v).field b lo' w' = s.field b lo' w' := by
  unfold State.field; rw [reg_setField_ne s a b lo w v e]

theorem field_setField (s : State) (a lo w v : Nat) (h : lo + w ≤ 32) : (s.setField a lo w v).field a lo w = v % 2 ^ w := by
  unfold State.field State.setField
  rw [reg_setReg, if_pos rfl, BitVec.toNat_ofNat, Nat.mod_eq_of_lt (setBits_lt _ _ _ _ 32 (s.reg a).isLt h), bits_setBits_same]

theorem field_setField_apart (s : State) (a lo w v lo' w' : Nat) (h : lo + w ≤ 32) (hd : lo' + w' ≤ lo ∨ lo + w ≤ lo') :
    (s.setField a lo w v).field a lo' w' = s.field a lo' w' := by
  unfold State.field State.setField
  rw [reg_setReg, if_pos rfl, BitVec.toNat_ofNat, Nat.mod_eq_of_lt (setBits_lt _ _ _ _ 32 (s.reg a).isLt h)]
  rcases hd with hd | hd
  · exact bits_setBits_below _ _ _ _ _ _ hd
  · exact bits_setBits_above _ _ _ _ _ _ hd

theorem pulse_regs (s : State) : s.pulse.regs = s.regs := by
  unfold State.pulse
  repeat' split
  all_goals rfl

theorem signal_regs (s : State) (v : Nat) (p : Bool) : (s.signal v p).regs = s.regs := by
  unfold State.signal
  dsimp only
  split
  · rfl
  · split
    · split
      · exact pulse_regs _
      · rfl
    · rfl

theorem alarm_regs (s : State) (v : Nat) : (s.alarm v).regs = s.regs := by
  unfold State.alarm
  dsimp only
  repeat' split
  all_goals first
    | rfl
    | exact signal_regs ..
    | exact pulse_regs _

theorem keepRecord_regs (s : State) (e : Event) (buf : List (Event × Bool)) : (s.keepRecord e buf).regs = s.regs := by
  unfold State.keepRecord; rw [alarm_regs]; rfl

/-- Making a record counts in two registers of the recorder at most. -/
theorem record_reg (s : State) (code sev part region : Nat) (sub : Subject) (data : Bytes) (a : Nat) (h1 : a ≠ evrBase + 0x10) (h2 : a ≠ evrBase + 0x14) :
    (s.record code sev part region sub data).reg a = s.reg a := by
  have hk : ∀ (u : State) e buf, (u.keepRecord e buf).reg a = u.reg a := fun u e buf => by unfold State.reg; rw [keepRecord_regs]
  unfold State.record
  dsimp only
  split
  · exact hk ..
  · split
    · exact count_reg_ne _ _ _ _ (Ne.symm h1)
    · rw [hk]
      split
      · exact count_reg_ne _ _ _ _ (Ne.symm h2)
      · rfl

end Sys2Proof.Laws
end

