-- ==== Sys2Proof/Laws/Halt.lean ====
section
/-! SUPPORT. What noting a partition's counters, ending a step and halting a petal can do. -/

namespace Sys2Proof.Laws

open Sys2Proof.Machine

theorem foldl_keep {α : Type} (g : State → α → State) (P : State → Prop) (hg : ∀ s x, P s → P (g s x)) :
    ∀ (l : List α) (s : State), P s → P (l.foldl g s)
  | [], _, h => h
  | x :: l, s, h => foldl_keep g P hg l (g s x) (hg s x h)

theorem foldl_cores {α : Type} (g : State → α → State) (hg : ∀ s x, (g s x).cores = s.cores) : ∀ (l : List α) (s : State), (l.foldl g s).cores = s.cores
  | [], _ => rfl
  | x :: l, s => (foldl_cores g hg l (g s x)).trans (hg s x)

theorem record_cores (s : State) (code sev part region : Nat) (sub : Subject) (data : Bytes) :
    (s.record code sev part region sub data).cores = s.cores := (record_onlyEvents ..).cores

/-- What noting counters of partition p can do: records are made, and p's own notes at keys from lo on move. -/
structure Noted (p lo : Nat) (s t : State) : Prop where
  rest : t = { s with evr := t.evr, bar0 := t.bar0, host := t.host, regs := t.regs, parts := t.parts }
  others : ∀ k, k ≠ p → t.part k = s.part k
  none : s.part p = none → t.part p = none
  own : ∀ q, s.part p = some q → ∃ v, t.part p = some { q with snap := v } ∧ ∀ k, k < lo → tget 0 v k = tget 0 q.snap k

theorem Noted.self (p lo : Nat) (s : State) : Noted p lo s s :=
  ⟨rfl, fun _ _ => rfl, id, fun q hq => ⟨q.snap, hq, fun _ _ => rfl⟩⟩

theorem Noted.trans {p lo : Nat} {s t u : State} (a : Noted p lo s t) (b : Noted p lo t u) : Noted p lo s u where
  rest := by have := b.rest; rw [a.rest] at this; exact this
  others k hk := (b.others k hk).trans (a.others k hk)
  none h := b.none (a.none h)
  own q hq := by
    obtain ⟨v, hv, kv⟩ := a.own q hq
    obtain ⟨w, hw, kw⟩ := b.own _ hv
    exact ⟨w, hw, fun k hk => (kw k hk).trans (kv k hk)⟩

theorem Noted.mono {p lo hi : Nat} {s t : State} (a : Noted p hi s t) (h : lo ≤ hi) : Noted p lo s t :=
  ⟨a.rest, a.others, a.none, fun q hq => (a.own q hq).imp fun _ hv => ⟨hv.1, fun k hk => hv.2 k (by omega)⟩⟩

theorem Noted.events {p lo : Nat} {s t : State} (a : OnlyEvents s t) : Noted p lo s t := by
  refine ⟨?_, fun k _ => by rw [a]; rfl, fun h => by rw [a]; exact h, fun q hq => ⟨q.snap, by rw [a]; exact hq, fun _ _ => rfl⟩⟩
  have e : t.parts = s.parts := by rw [a]
  rw [e]; exact a

theorem Noted.set {p lo : Nat} {s : State} {q : Part} (hq : s.part p = some q) (v : Tbl Nat) (hv : ∀ k, k < lo → tget 0 v k = tget 0 q.snap k) :
    Noted p lo s (s.setPart p { q with snap := v }) := by
  refine ⟨rfl, fun k hk => by rw [part_setPart, if_neg (Ne.symm hk)], fun h => by rw [hq] at h; exact absurd h (by simp), fun q' h => ⟨v, ?_, ?_⟩⟩
  · rw [hq] at h; obtain rfl := Option.some.inj h
    rw [part_setPart, if_pos rfl]
  · rw [hq] at h; obtain rfl := Option.some.inj h
    exact hv

theorem Noted.foldl {α : Type} {p lo : Nat} (g : State → α → State) (hg : ∀ s x, Noted p lo s (g s x)) (l : List α) (s : State) : Noted p lo s (l.foldl g s) :=
  foldl_keep g (Noted p lo s) (fun t x h => h.trans (hg t x)) l s (.self p lo s)

theorem noteRise_noted (s : State) (p code key now lo : Nat) (sub : Subject) (hk : lo ≤ key) : Noted p lo s (s.noteRise p code key now sub) := by
  unfold State.noteRise
  cases hq : s.part p with
  | none => exact .self p lo s
  | some q =>
    have h1 : Noted p lo s (s.setPart p (q.noted key now)) := .set hq _ fun k h => tget_tset_ne _ _ _ _ _ _ (by omega)
    dsimp only
    split
    · exact h1
    · exact h1.trans (.events (record_onlyEvents ..))

theorem noteCluster_noted (s : State) (p c : Nat) : Noted p 0x40300 s (s.noteCluster p c) := by
  unfold State.noteCluster
  refine Noted.trans ?_ (noteRise_noted _ _ _ _ _ _ _ (by omega))
  refine Noted.trans ?_ (noteRise_noted _ _ _ _ _ _ _ (by omega))
  refine Noted.trans ?_ (noteRise_noted _ _ _ _ _ _ _ (by omega))
  exact noteRise_noted _ _ _ _ _ _ _ (by omega)

theorem noteUnreached_noted (s : State) (p : Nat) (q : Part) : Noted p 0x40300 s (s.noteUnreached p q) := by
  unfold State.noteUnreached
  exact noteRise_noted _ _ _ _ _ _ _ (by omega)

theorem noteRejects_noted (s : State) (p n : Nat) : Noted p 0x40300 s (s.noteRejects p n) := by
  unfold State.noteRejects
  cases hq : s.part p with
  | none => exact .self ..
  | some q =>
    have h1 : Noted p 0x40300 s (s.setPart p (q.noted (0x40300 + n) 0)) := .set hq _ fun k h => tget_tset_ne _ _ _ _ _ _ (by omega)
    dsimp only
    split
    · exact .self ..
    · exact h1.trans (.events (record_onlyEvents ..))

theorem tset_four (m : Tbl Nat) (a b c d w x y z k : Nat) :
    ((k ≠ a ∧ k ≠ b ∧ k ≠ c ∧ k ≠ d) → tget 0 (tset 0 (tset 0 (tset 0 (tset 0 m a w) b x) c y) d z) k = tget 0 m k)
    ∧ ((a ≠ b ∧ a ≠ c ∧ a ≠ d) → tget 0 (tset 0 (tset 0 (tset 0 (tset 0 m a w) b x) c y) d z) a = w) := by
  refine ⟨fun ⟨ha, hb, hc, hd⟩ => ?_, fun ⟨hb, hc, hd⟩ => ?_⟩
  · rw [tget_tset_ne _ _ _ _ _ _ (Ne.symm hd), tget_tset_ne _ _ _ _ _ _ (Ne.symm hc), tget_tset_ne _ _ _ _ _ _ (Ne.symm hb), tget_tset_ne _ _ _ _ _ _ (Ne.symm ha)]
  · rw [tget_tset_ne _ _ _ _ _ _ (Ne.symm hd), tget_tset_ne _ _ _ _ _ _ (Ne.symm hc), tget_tset_ne _ _ _ _ _ _ (Ne.symm hb), tget_tset, if_pos rfl]

theorem noted_four (q : Part) (f : Nat → Nat) (b : Nat) : ∃ v, (List.range 4).foldl (fun x i => x.noted (b + i) (f i)) q = { q with snap := v }
    ∧ (∀ k, k < b → tget 0 v k = tget 0 q.snap k) ∧ tget 0 v b = f 0 := by
  have h : List.range 4 = [0, 1, 2, 3] := rfl
  rw [h]
  refine ⟨tset 0 (tset 0 (tset 0 (tset 0 q.snap (b + 0) (f 0)) (b + 1) (f 1)) (b + 2) (f 2)) (b + 3) (f 3), ?_, fun k hk => ?_, ?_⟩
  · simp only [List.foldl_cons, List.foldl_nil, Part.noted]
  · exact (tset_four q.snap (b + 0) (b + 1) (b + 2) (b + 3) (f 0) (f 1) (f 2) (f 3) k).1 (by omega)
  · exact (tset_four q.snap (b + 0) (b + 1) (b + 2) (b + 3) (f 0) (f 1) (f 2) (f 3) (b + 0)).2 (by omega)

theorem notedSentinels_snap (s : State) (q : Part) : ∃ v, s.notedSentinels q = { q with snap := v }
    ∧ (∀ k, k < 0x10400 → tget 0 v k = tget 0 q.snap k) ∧ tget 0 v 0x10400 = s.sentSum (q.clusters.map s.blk) 0x10 := by
  unfold State.notedSentinels
  exact noted_four q _ 0x10400

/-- Noting the counters of partition p leaves NaN's sum noted and moves nothing of p but its notes (R463). -/
theorem stepNotices_noted (s : State) (p : Nat) : Noted p 0x10400 s (s.stepNotices p) := by
  unfold State.stepNotices
  cases hq : s.part p with
  | none => exact .self ..
  | some q =>
    refine Noted.trans (Noted.trans (Noted.trans ?_ (Noted.foldl _ (fun s c => (noteCluster_noted s p c).mono (by omega)) _ _))
      ((noteUnreached_noted _ p q).mono (by omega))) (Noted.foldl _ (fun s n => (noteRejects_noted s p n).mono (by omega)) _ _)
    unfold State.noteSentinels
    obtain ⟨v, e, kv, -⟩ := notedSentinels_snap s q
    have h1 : Noted p 0x10400 s (s.setPart p (s.notedSentinels q)) := by rw [e]; exact .set hq v kv
    dsimp only
    split
    · exact h1
    · exact h1.trans (.events (record_onlyEvents ..))

theorem stepNotices_own (s : State) (p : Nat) (q : Part) (hq : s.part p = some q) :
    ∃ v, (s.stepNotices p).part p = some { q with snap := v } ∧ tget 0 v 0x10400 = s.sentSum (q.clusters.map s.blk) 0x10 := by
  unfold State.stepNotices
  simp only [hq]
  obtain ⟨v, e, -, kv⟩ := notedSentinels_snap s q
  have h1 : (s.noteSentinels p q).part p = some { q with snap := v } := by
    unfold State.noteSentinels
    dsimp only
    rw [e]
    have h2 : (s.setPart p { q with snap := v }).part p = some { q with snap := v } := by rw [part_setPart, if_pos rfl]
    split
    · exact h2
    · rw [record_onlyEvents]; exact h2
  have h3 : Noted p 0x40300 (s.noteSentinels p q)
      ((List.range 24).foldl (fun s n => s.noteRejects p n) ((q.clusters.foldl (fun s c => s.noteCluster p c) (s.noteSentinels p q)).noteUnreached p q)) :=
    .trans (.trans (Noted.foldl _ (fun s c => noteCluster_noted s p c) _ _) (noteUnreached_noted _ p q)) (Noted.foldl _ (fun s n => noteRejects_noted s p n) _ _)
  obtain ⟨w, hw, kw⟩ := h3.own _ h1
  exact ⟨w, hw, (kw _ (by decide)).trans kv⟩

theorem readyResult_fields (s : State) (p : Nat) (st : StepRec) (status : Nat) (count : Dword) :
    s.readyResult p st status count = { s with mem := (s.readyResult p st status count).mem, free := (s.readyResult p st status count).free } := by
  unfold State.readyResult
  split
  · rfl
  · dsimp only
    split <;> rfl

/-- What ending a command can do: the host's side and packets on their way move. -/
theorem finish_fields (s : State) (id status r0 r1 detail : Nat) (out : Bytes) (evt : Nat) :
    s.finish id status r0 r1 detail out evt = { s with host := (s.finish id status r0 r1 detail out evt).host,
                                                       moving := (s.finish id status r0 r1 detail out evt).moving } := by
  unfold State.finish
  split
  · rfl
  · dsimp only
    split
    · rfl
    · rfl
    · refine foldl_keep _ (fun u => u = { s with host := u.host, moving := u.moving }) (fun u x h => ?_) _ _ rfl
      rw [h]; rfl

theorem idleClusters_fields (s : State) (q : Part) : s.idleClusters q = { s with regs := (s.idleClusters q).regs } := by
  unfold State.idleClusters
  refine foldl_keep _ (fun u => u = { s with regs := u.regs }) (fun u x h => ?_) _ _ rfl
  split
  · rw [h]; rfl
  · exact h

/-- t is s but for memory, the recorder, the register files, the host's side, packets on their way and the partitions. -/
def StepEnded (s t : State) : Prop :=
  t = { s with mem := t.mem, free := t.free, evr := t.evr, bar0 := t.bar0, host := t.host, moving := t.moving, regs := t.regs, parts := t.parts }

theorem StepEnded.trans {s t u : State} (a : StepEnded s t) (b : StepEnded t u) : StepEnded s u := by
  unfold StepEnded at *; rw [a] at b; exact b

/-- What ending the step of partition p can do: the result buffer, the completion, the records and registers of its end, and p's own
entry, which runs no step any more; no core, cluster, region or other partition. -/
theorem endStep_spec (s : State) (p status : Nat) (evt : Nat := 0) :
    StepEnded s (s.endStep p status evt)
    ∧ (∀ k, k ≠ p → (s.endStep p status evt).part k = s.part k)
    ∧ ∀ q, s.part p = some q → ∃ v a r, (s.endStep p status evt).part p = some { q with step := none, snap := v, avgPower := a, results := r } := by
  unfold State.endStep
  cases hq : s.part p with
  | none => exact ⟨rfl, fun _ _ => rfl, fun q h => by simp at h⟩
  | some q =>
    dsimp only
    cases hs : q.step with
    | none =>
      refine ⟨rfl, fun _ _ => rfl, fun q' h => ⟨q.snap, q.avgPower, q.results, ?_⟩⟩
      obtain rfl := Option.some.inj h
      dsimp only
      rw [hq, ← hs]
    | some st =>
      dsimp only
      have e1 := readyResult_fields s p st status q.stepCount
      generalize s.readyResult p st status q.stepCount = u1 at *
      have e2 := finish_fields u1 st.cmd status q.stepCount.toNat (u1.now - st.start) 0xFF [] evt
      generalize u1.finish st.cmd status q.stepCount.toNat (u1.now - st.start) 0xFF [] evt = u2 at *
      generalize hq1 : ({ q.keepPower st (u2.reg (pwrBase + 0x14)).toNat with step := none, results := if st.resAddr = 0 then q.results else (st.resAddr, st.resLen) :: q.results } : Part) = q1
      have hq1' : ∃ a r, q1 = { q with step := none, avgPower := a, results := r } := ⟨_, _, hq1.symm⟩
      have e3 : (u2.setPart p q1).part p = some q1 ∧ (∀ k, k ≠ p → (u2.setPart p q1).part k = s.part k)
          ∧ u2.setPart p q1 = { u2 with parts := (u2.setPart p q1).parts } := by
        refine ⟨by rw [part_setPart, if_pos rfl], fun k hk => ?_, rfl⟩
        rw [part_setPart, if_neg (Ne.symm hk), e2, e1]; rfl
      generalize u2.setPart p q1 = u3 at *
      have e4 := idleClusters_fields u3 q
      generalize u3.idleClusters q = u4 at *
      have e5 := stepNotices_noted u4 p
      generalize u4.stepNotices p = u5 at *
      have p4 : ∀ k, u4.part k = u3.part k := fun k => by rw [e4]; rfl
      refine ⟨?_, fun k hk => ?_, fun q' h => ?_⟩
      · have a1 : StepEnded s u1 := by unfold StepEnded; rw [e1]
        have a2 : StepEnded u1 u2 := by unfold StepEnded; rw [e2]
        have a3 : StepEnded u2 u3 := by unfold StepEnded; rw [e3.2.2]
        have a4 : StepEnded u3 u4 := by unfold StepEnded; rw [e4]
        have a5 : StepEnded u4 u5 := by unfold StepEnded; rw [e5.rest]
        exact (((a1.trans a2).trans a3).trans a4).trans a5
      · rw [e5.others k hk, p4, e3.2.1 k hk]
      · obtain ⟨a, r, rfl⟩ := hq1'
        obtain rfl := Option.some.inj h
        obtain ⟨v, hv, -⟩ := e5.own _ ((p4 p).trans e3.1)
        exact ⟨v, a, r, hv⟩

theorem endStep_cores (s : State) (p status evt : Nat) : (s.endStep p status evt).cores = s.cores := by rw [(endStep_spec s p status evt).1]

/-- Halting stops the petal of its core and touches no other core. -/
theorem halt_core (s : State) (h cause pc : Nat) (eng : Option Nat) (k : Nat) :
    (s.halt h cause pc eng).core k = if h = k then { s.core h with halted := true, wait := none } else s.core k := by
  have hc : (s.halt h cause pc eng).cores = (s.setCore h { s.core h with halted := true, wait := none }).cores := by
    unfold State.halt
    dsimp only
    rw [endStep_cores, record_cores]
    split <;> rfl
  show tget _ (s.halt h cause pc eng).cores k = _
  rw [hc]
  exact core_setCore s h k _

end Sys2Proof.Laws
end

