-- ==== Sys2Proof/Laws/Scalar.lean ====
section
/-! SUPPORT. Scalar cores: an instruction that completes, a jump, a halt, where an access lands. -/

namespace Sys2Proof.Laws

open Sys2Proof Sys2Proof.Machine Sys2Proof.Safety

theorem settle_done (s : State) (h : Nat) (op : WaitOp) (c : Core) : s.settleOp h op (.done (s.setCore h c)) = s.setCore h (retired c) := by
  simp only [State.settleOp, State.retire, core_setCore, if_true, setCore_setCore]
  rfl

theorem settle_other (s u : State) (h : Nat) (op : WaitOp) (c : Core) : s.settleOp h op (.done (u.setCore h c)) = u.setCore h (retired c) :=
  settle_done u h op c

theorem settle_done0 (s : State) (h : Nat) (op : WaitOp) : s.settleOp h op (.done s) = s.setCore h (retired (s.core h)) := by
  simp only [State.settleOp, State.retire, core_setCore, if_true, setCore_setCore]
  rfl

theorem wait_none (s : State) (h : Nat) (hr : s.ready h = true) : (s.core h).wait = none := by
  unfold State.ready at hr
  simp only [Bool.and_eq_true, Option.isNone_iff_eq_none] at hr
  exact hr.2

theorem advanced_eq (c : Core) (hw : c.wait = none) : retired c = advanced 4 c := by
  unfold retired advanced Core.setPet
  cases c; simp only at hw; subst hw; rfl

theorem retire_eq (s : State) (h len : Nat) (c : Core) : (s.setCore h c).retire h len = s.setCore h (advanced len c) := by
  simp only [State.retire, core_setCore, if_true, setCore_setCore]
  rfl

theorem retire_eq0 (s : State) (h len : Nat) : s.retire h len = s.setCore h (advanced len (s.core h)) := rfl

theorem done_eq (s : State) (h : Nat) (c : Core) (hw : c.wait = none) : s.runDone h (.done (s.setCore h c)) = s.setCore h (retired c) := by
  simp only [State.runDone, retire_eq, advanced_eq c hw]

theorem setX_eq (c : Core) (rd : Nat) (v : Word) : c.setX rd v = withX c rd v := rfl

theorem wrote_eq (c : Core) (rd : Nat) (v : Word) : retired (c.setX rd v) = wrote c rd v := rfl

theorem setX_wait (c : Core) (rd : Nat) (v : Word) : (c.setX rd v).wait = c.wait := by
  unfold Core.setX; split <;> rfl

theorem step_stands (s : State) (h len : Nat) (i : Rv) (hs : stands (s.core h) len i) : s.scalarStep h = s.runRv h len i := by
  obtain ⟨h1, h2, h3, hs⟩ := hs
  have hlen : 0 < len := by rcases hs with ⟨a, _⟩ | ⟨a, _⟩ <;> omega
  unfold State.scalarStep
  dsimp only
  rw [if_neg (by omega), if_neg (by omega)]
  rcases hs with ⟨rfl, a, b⟩ | ⟨rfl, a, b⟩
  · rw [if_pos a, b]
  · rw [if_neg (by simp [a]), if_neg (by omega), b]

theorem jump_eq (s : State) (h len rd : Nat) (t : Word) : s.jump h rd t len = s.setCore h (jumped (s.core h) len rd t) := by
  unfold State.jump jumped State.setXreg
  simp only [retire_eq, core_setCore, if_true, setCore_setCore, setX_eq, Core.setPc, BitVec.ofNat_toNat, BitVec.setWidth_eq]

theorem halted_eq (s : State) (h cause pc : Nat) : (s.halt h cause pc).core h = { s.core h with halted := true, wait := none } := by
  rw [halt_core, if_pos rfl]

theorem locate_near (s : State) (h a size : Nat) (hs : size = 1 ∨ size = 2 ∨ size = 4) (hb : a + size ≤ 0x40000) (ha : a % size = 0) :
    s.locate h a size = .inl (.mem (nearBase h + a)) := by
  unfold State.locate
  dsimp only
  rw [if_pos (by omega), if_neg (by omega), if_neg (by omega)]
  rfl

theorem natLe_len : ∀ (n v : Nat), (natLe n v).length = n
  | 0, _ => rfl
  | n + 1, v => by simp [natLe, natLe_len n]

theorem natLe_get : ∀ (n v i : Nat), i < n → (natLe n v).getD i 0 = BitVec.ofNat 8 (v / 256 ^ i)
  | n + 1, v, 0, _ => by simp [natLe]
  | n + 1, v, i + 1, h => by
    simp only [natLe, List.getD_cons_succ]
    rw [natLe_get n _ i (by omega), Nat.div_div_eq_div_mul, Nat.pow_succ']

theorem locate_fault (s : State) (h a size : Nat) (hs : size = 1 ∨ size = 2 ∨ size = 4)
    (hf : 0x40000 ≤ a ∧ a < 0x800000 ∨ 0x20000200 ≤ a ∨ a + size ≤ 0x40000 ∧ a % size ≠ 0) : ∃ c, s.locate h a size = .inr c := by
  unfold State.locate
  dsimp only
  rcases hf with ⟨f1, f2⟩ | f | ⟨f1, f2⟩
  · exact ⟨_, by rw [if_neg (by omega), if_neg (by omega), if_neg (by omega), if_neg (by omega)]⟩
  · exact ⟨_, by rw [if_neg (by omega), if_neg (by omega), if_neg (by omega), if_neg (by omega)]⟩
  · exact ⟨_, by rw [if_pos (by omega), if_neg (by omega), if_pos f2]⟩

end Sys2Proof.Laws
end

