-- ==== Sys2Proof/Laws/Matrix.lean ====
section
/-! SUPPORT. Engines: what a product, a latch, a write-back and an end of a descriptor leave. -/

namespace Sys2Proof.Laws

open Sys2Proof Sys2Proof.Machine Sys2Proof.Safety

theorem vec_exec : ∀ e ∈ vectorTable, ∀ (h : Nat) (s : State), exec (e.1 h) s = answer s (s.vecRow h e.2) := by
  simp only [vectorTable, List.forall_mem_cons]
  refine ⟨?_, ?_,  ?_, ?_, ?_, ?_, ?_, ?_, ?_, ?_, ?_, ?_, ?_, ?_, ?_, ?_, ?_, ?_, ?_, ?_, ?_, ?_, ?_, ?_, ?_, by simp⟩ <;> exact fun _ _ => rfl

theorem narrowAll_len (h u o : Nat) (st : Bool) : ∀ (ws : List Word) (s : State), (State.narrowAll h u o st ws s).1.length = ws.length * otypeBytes o
  | [], _ => by simp [State.narrowAll]
  | w :: ws, s => by
    have hl : ∀ (n v : Nat), (natLe n v).length = n := by
      intro n; induction n with
      | zero => intro v; rfl
      | succ n ih => intro v; simp [natLe, ih]
    simp only [State.narrowAll, List.length_append, hl, narrowAll_len h u o st ws, List.length_cons]
    rw [Nat.add_mul]; omega

/-- One row written back: the fold's body. -/
def wbRow (h e : Nat) (d : MDesc) (f : Nat → List Word) (x : State × List Token × Sent) (row : Nat) : State × List Token × Sent :=
  ((if d.oMem then (State.narrowAll h (e + 1) d.otype d.stoch (f row) x.1).2.2.store .engine 0 (nearBase h + d.oaddr + row * d.ostride) (State.narrowAll h (e + 1) d.otype d.stoch (f row) x.1).1
     else (State.narrowAll h (e + 1) d.otype d.stoch (f row) x.1).2.2),
   x.2.1 ++ (if d.oMem then [] else rowTokens (otypeBytes d.otype) ((if d.oMem then (State.narrowAll h (e + 1) d.otype d.stoch (f row) x.1).2.2.store .engine 0 (nearBase h + d.oaddr + row * d.ostride) (State.narrowAll h (e + 1) d.otype d.stoch (f row) x.1).1
     else (State.narrowAll h (e + 1) d.otype d.stoch (f row) x.1).2.2).epochOf (h / 32)) ((State.narrowAll h (e + 1) d.otype d.stoch (f row) x.1).1.length + 1) (State.narrowAll h (e + 1) d.otype d.stoch (f row) x.1).1),
   x.2.2.add (State.narrowAll h (e + 1) d.otype d.stoch (f row) x.1).2.1)

def coresPet (h : Nat) (s t : State) : Prop := (∀ k, k ≠ h → t.core k = s.core k) ∧ ∃ p, t.core h = { s.core h with petals := p }

theorem coresPet.trans {h : Nat} {s t u : State} (a : coresPet h s t) (b : coresPet h t u) : coresPet h s u := by
  obtain ⟨a2, p, a3⟩ := a
  obtain ⟨b2, q, b3⟩ := b
  exact ⟨fun k hk => (b2 k hk).trans (a2 k hk), q, by rw [b3, a3]⟩

theorem narrowRows_congr (h u o : Nat) (st : Bool) : ∀ (l : List (List Word)) (s s' : State), (s.core h).pet = (s'.core h).pet →
    narrowRows h u o st l s = narrowRows h u o st l s'
  | [], _, _, _ => rfl
  | r :: rs, s, s', e => by
    have pp : ∀ (ws : List Word) (s s' : State), (s.core h).pet = (s'.core h).pet →
       ((State.narrowAll h u o st ws s).2.2.core h).pet = ((State.narrowAll h u o st ws s').2.2.core h).pet := by
      intro ws
      induction ws with
      | nil => intro s s' e; exact e
      | cons w ws ih =>
        intro s s' e
        refine ih _ _ ?_
        unfold State.narrowOne
        split
        · simp only [Core.drawUnit, core_setCore, if_true, e, pet_setPet]
        · exact e
    simp only [narrowRows, (narrowAll_bytes_congr h u o st r s s' e).1, narrowRows_congr h u o st rs _ _ (pp r s s' e)]

theorem wb_core (h e : Nat) (d : MDesc) (f : Nat → List Word) : ∀ (l : List Nat) (x : State × List Token × Sent),
    coresPet h x.1 (l.foldl (wbRow h e d f) x).1
  | [], x => ⟨fun _ _ => rfl, _, rfl⟩
  | r :: l, x => by
    refine coresPet.trans ?_ (wb_core h e d f l _)
    have hn := narrowAll_onlyPetals h (e + 1) d.otype d.stoch (f r) x.1
    unfold wbRow
    dsimp only
    split
    · have := (store_frame (State.narrowAll h (e + 1) d.otype d.stoch (f r) x.1).2.2 .engine 0 (nearBase h + d.oaddr + r * d.ostride) (State.narrowAll h (e + 1) d.otype d.stoch (f r) x.1).1).2
      have hc : ∀ k, (State.store (State.narrowAll h (e + 1) d.otype d.stoch (f r) x.1).2.2 .engine 0 (nearBase h + d.oaddr + r * d.ostride) (State.narrowAll h (e + 1) d.otype d.stoch (f r) x.1).1).core k = (State.narrowAll h (e + 1) d.otype d.stoch (f r) x.1).2.2.core k := fun k => by
        unfold State.core; rw [this]
      refine ⟨fun k hk => (hc k).trans (hn.2.1 k hk), ?_⟩
      obtain ⟨p, hp⟩ := hn.2.2
      exact ⟨p, (hc h).trans hp⟩
    · exact hn.2

theorem wb_queue (h e : Nat) (d : MDesc) (f : Nat → List Word) (hd : d.oMem = false) : ∀ (l : List Nat) (x : State × List Token × Sent),
    OnlyPetals h x.1 (l.foldl (wbRow h e d f) x).1
      ∧ (l.foldl (wbRow h e d f) x).2.1 = x.2.1 ++ (narrowRows h (e + 1) d.otype d.stoch (l.map f) x.1).flatMap fun b =>
          rowTokens (otypeBytes d.otype) (x.1.epochOf (h / 32)) (b.length + 1) b
  | [], x => ⟨.self h _, by simp [narrowRows]⟩
  | r :: l, x => by
    have hn := narrowAll_onlyPetals h (e + 1) d.otype d.stoch (f r) x.1
    have ih := wb_queue h e d f hd l (wbRow h e d f x r)
    have e1 : (wbRow h e d f x r).1 = (State.narrowAll h (e + 1) d.otype d.stoch (f r) x.1).2.2 := by simp [wbRow, hd]
    have e2 : (wbRow h e d f x r).2.1 = x.2.1 ++ rowTokens (otypeBytes d.otype) (x.1.epochOf (h / 32)) ((State.narrowAll h (e + 1) d.otype d.stoch (f r) x.1).1.length + 1) (State.narrowAll h (e + 1) d.otype d.stoch (f r) x.1).1 := by
      simp [wbRow, hd, hn.epochOf]
    refine ⟨(by rw [← e1] at hn; exact hn.trans ih.1), ?_⟩
    rw [List.foldl_cons, ih.2, e2, e1, hn.epochOf]
    simp only [List.map_cons, narrowRows, List.flatMap_cons, List.append_assoc]

theorem wb_mem (h e : Nat) (d : MDesc) (f : Nat → List Word) (n : Nat) (hf : ∀ r, (f r).length = n) (hd : d.oMem = true) : ∀ (l : List Nat) (x : State × List Token × Sent),
    (l.foldl (wbRow h e d f) x).2.1 = x.2.1
      ∧ ∀ b, (∀ r ∈ l, b < nearBase h + d.oaddr + r * d.ostride ∨ nearBase h + d.oaddr + r * d.ostride + n * otypeBytes d.otype ≤ b) →
        memByte (l.foldl (wbRow h e d f) x).1.mem b = memByte x.1.mem b
  | [], x => ⟨rfl, fun _ _ => rfl⟩
  | r :: l, x => by
    have hn := narrowAll_onlyPetals h (e + 1) d.otype d.stoch (f r) x.1
    have ih := wb_mem h e d f n hf hd l (wbRow h e d f x r)
    refine ⟨by rw [List.foldl_cons, ih.1]; simp [wbRow, hd], fun b hb => ?_⟩
    rw [List.foldl_cons, ih.2 b fun r' hr' => hb r' (List.mem_cons_of_mem _ hr')]
    simp only [wbRow, hd, if_true]
    rw [(store_frame _ _ _ _ _).1 b (by rw [narrowAll_len, hf]; exact hb r List.mem_cons_self), hn.mem]

theorem wb_exact (h e : Nat) (d : MDesc) (f : Nat → List Word) (hf : ∀ r, f r ≠ []) (hd : d.oMem = true) : ∀ (l : List Nat) (x : State × List Token × Sent),
    (∀ r ∈ l, ∀ b ∈ blocksOf (nearBase h + d.oaddr + r * d.ostride) ((f r).length * otypeBytes d.otype), Plain x.1 b) →
    (l.foldl (wbRow h e d f) x).1.mem = (l.zip (narrowRows h (e + 1) d.otype d.stoch (l.map f) x.1)).foldl (fun m r => memWrite m (nearBase h + d.oaddr + r.1 * d.ostride) r.2) x.1.mem
  | [], x, _ => rfl
  | r :: l, x, hm => by
    have hn := narrowAll_onlyPetals h (e + 1) d.otype d.stoch (f r) x.1
    have hne : (State.narrowAll h (e + 1) d.otype d.stoch (f r) x.1).1 ≠ [] := by
      intro h0
      have := narrowAll_len h (e + 1) d.otype d.stoch (f r) x.1
      rw [h0] at this
      have h1 : 0 < (f r).length := List.length_pos_of_ne_nil (hf r)
      have h2 : 0 < otypeBytes d.otype := by unfold otypeBytes; repeat' split <;> try omega
      have h3 := Nat.mul_pos h1 h2
      rw [List.length_nil] at this
      exact absurd this (Nat.ne_of_lt h3)
    have m1 := hm r List.mem_cons_self
    have e1 : (wbRow h e d f x r).1 = { (State.narrowAll h (e + 1) d.otype d.stoch (f r) x.1).2.2 with mem := memWrite (State.narrowAll h (e + 1) d.otype d.stoch (f r) x.1).2.2.mem (nearBase h + d.oaddr + r * d.ostride) (State.narrowAll h (e + 1) d.otype d.stoch (f r) x.1).1 } := by
      simp only [wbRow, hd, if_true]
      exact store_plain _ _ _ _ _ hne (by rw [narrowAll_len, hn.1]; exact m1)
    rw [List.foldl_cons, wb_exact h e d f hf hd l (wbRow h e d f x r) ?_]
    · have e2 : (wbRow h e d f x r).1.mem = memWrite (State.narrowAll h (e + 1) d.otype d.stoch (f r) x.1).2.2.mem (nearBase h + d.oaddr + r * d.ostride) (State.narrowAll h (e + 1) d.otype d.stoch (f r) x.1).1 := by rw [e1]
      have e3 : ((wbRow h e d f x r).1.core h).pet = ((State.narrowAll h (e + 1) d.otype d.stoch (f r) x.1).2.2.core h).pet := by rw [e1]; rfl
      rw [e2, hn.mem, narrowRows_congr h _ _ _ _ _ _ e3]
      rfl
    · intro r' hr'
      have m1 := hm r' (List.mem_cons_of_mem _ hr')
      rw [e1, hn.1]
      exact m1

theorem writeBack_eq (s : State) (h e : Nat) (d : MDesc) (ns : Nat) :
    s.writeBack h e d ns = (let r := (List.range d.m).foldl (wbRow h e d (accRow ((s.core h).engine e).acc d.m ns)) (s, [], {})
      let u := r.1.sentinels h e r.2.2
      u.setCore h ((u.core h).setEngine e { (u.core h).engine e with wb := ((u.core h).engine e).wb ++ r.2.1 })) := rfl

theorem writeBack_spec (s : State) (h e : Nat) (d : MDesc) (hnt : 0 < d.nt) :
    (∀ k, k ≠ h → (s.writeBack h e d d.nt).core k = s.core k)
    ∧ (∀ i, i ≠ e → ((s.writeBack h e d d.nt).core h).engine i = (s.core h).engine i)
    ∧ ((s.writeBack h e d d.nt).core h).engine e = { (s.core h).engine e with wb := ((s.writeBack h e d d.nt).core h).engine e |>.wb }
    ∧ ((s.writeBack h e d d.nt).core h).inq = (s.core h).inq
    ∧ (∀ q, ((s.writeBack h e d d.nt).core h).outQ q = (s.core h).outQ q)
    ∧ wroteBack s (s.writeBack h e d d.nt) h e d (resultRows s h e d ((s.core h).engine e).acc) := by
  rw [writeBack_eq]
  dsimp only
  have hlen : ∀ r, (accRow ((s.core h).engine e).acc d.m d.nt r).length = d.nt * 32 := fun r => by simp [accRow]
  have hne : ∀ r, accRow ((s.core h).engine e).acc d.m d.nt r ≠ [] := fun r h0 => by
    have := hlen r; rw [h0] at this; simp at this; omega
  have hc := wb_core h e d (accRow ((s.core h).engine e).acc d.m d.nt) (List.range d.m) (s, [], {})
  have hq := fun hd => wb_queue h e d (accRow ((s.core h).engine e).acc d.m d.nt) hd (List.range d.m) (s, [], {})
  have hm := fun hd => wb_mem h e d (accRow ((s.core h).engine e).acc d.m d.nt) _ hlen hd (List.range d.m) (s, [], {})
  have hx := fun hd => wb_exact h e d (accRow ((s.core h).engine e).acc d.m d.nt) hne hd (List.range d.m) (s, [], {})
  generalize hr : (List.range d.m).foldl (wbRow h e d (accRow ((s.core h).engine e).acc d.m d.nt)) (s, [], {}) = r at *
  have hs := sentinels_onlyRegs r.1 h e r.2.2
  generalize hu : r.1.sentinels h e r.2.2 = u at *
  have uc : ∀ k, u.core k = r.1.core k := fun k => hs.core k
  obtain ⟨c1, p, c2⟩ := hc
  have hcu : u.core h = { s.core h with petals := p } := (uc h).trans c2
  simp only [core_setCore, if_true, engine_setEngine, outQ_setEngine, inq_setEngine]
  refine ⟨fun k hk => ?_, fun i hi => ?_, ?_, ?_, fun q => ?_, ?_⟩
  · rw [if_neg (Ne.symm hk), uc, c1 k hk]
  · rw [if_neg (Ne.symm hi), hcu]; rfl
  · rw [hcu]; rfl
  · rw [hcu]
  · rw [hcu]; rfl
  · refine ⟨fun hd => ⟨fun q => ?_, ?_, fun b hb => ?_⟩, fun hd hmap => ?_, fun hd => ⟨?_, fun q hq' => ?_, ?_⟩⟩
    · simp only [core_setCore, if_true, outQ_setEngine]; rw [hcu]; rfl
    · simp only [core_setCore, if_true, engine_setEngine]; rw [hcu, (hm hd).1, List.append_nil]; rfl
    · show memByte u.mem b = _
      rw [hs.mem]
      exact (hm hd).2 b fun r hr => by have := hb r (List.mem_range.mp hr); rwa [Nat.mul_assoc] at *
    · show u.mem = _
      rw [hs.mem]
      exact hx hd fun r hr => by rw [hlen]; exact (hmap r (List.mem_range.mp hr)).1
    · show u.mem = _
      rw [hs.mem]; exact (hq hd).1.mem
    · simp only [core_setCore, if_true, outQ_setEngine]; rw [hcu]; rfl
    · simp only [core_setCore, if_true, outQ_setEngine, engine_setEngine]; rw [hcu, (hq hd).2, ← List.append_assoc]; rfl

theorem runSlice_none (d : MDesc) (elems : Bytes) (side : List SideRec) (rows : List Bytes) (c sl : Nat) : ∀ (n j : Nat) (s : State) (acc : List Word) (q : Sent),
    (runSlice d elems side rows c sl none n j s acc q).1 = s
      ∧ (runSlice d elems side rows c sl none n j s acc q).2.1 = sliceAcc d elems side rows sl n j acc
  | 0, j, s, acc, q => ⟨rfl, rfl⟩
  | n + 1, j, s, acc, q => by
    unfold runSlice sliceAcc
    exact runSlice_none d elems side rows c sl n (j + 1) s _ _

theorem count_apart (s : State) (a n b : Nat) (hb : a ≠ b) : (s.count a n).reg b = s.reg b := by
  unfold State.count; split
  · rfl
  · rw [reg_setReg, if_neg hb]

theorem counted_regs (s : State) (h e : Nat) (g : Engine) (q : Sent) (n : Nat) (he : e < 4) (b : Nat) (hb : ∀ o, o < 0x1000 → s.coreReg h o ≠ b) :
    (((s.setCore h ((s.core h).setEngine e g)).sentinels h e q).count64 (s.coreReg h (0x140 + 8 * e)) n).reg b = s.reg b := by
  have hco : ∀ o o', s.coreReg h o + o' = s.coreReg h (o + o') := fun o o' => Nat.add_assoc _ _ _
  have h64 : ∀ (z : State) (a n : Nat), a ≠ b → a + 4 ≠ b → (z.count64 a n).reg b = z.reg b := by
    intro z a n h1 h2
    unfold State.count64 State.setReg64
    split
    · rfl
    · rw [reg_setReg, if_neg h2, reg_setReg, if_neg h1]
  rw [h64 _ _ _ (hb _ (by omega)) (by rw [hco]; exact hb _ (by omega))]
  unfold State.sentinels State.countSent
  have hcc : (s.setCore h ((s.core h).setEngine e g)).coreReg h (0x200 + e * 0x20) = s.coreReg h (0x200 + e * 0x20) := rfl
  rw [hcc]
  simp only [hco]
  rw [count_apart _ _ _ _ (hb _ (by omega)), count_apart _ _ _ _ (hb _ (by omega)), count_apart _ _ _ _ (hb _ (by omega)), count_apart _ _ _ _ (hb _ (by omega)),
    count_apart _ _ _ _ (hb _ (by omega)), count_apart _ _ _ _ (hb _ (by omega)), count_apart _ _ _ _ (hb _ (by omega)), count_apart _ _ _ _ (hb _ (by omega))]
  rfl

theorem counted (s : State) (h e : Nat) (g : Engine) (q : Sent) (a n : Nat) :
    ((s.setCore h ((s.core h).setEngine e g)).sentinels h e q).count64 a n
      = { s with regs := (((s.setCore h ((s.core h).setEngine e g)).sentinels h e q).count64 a n).regs,
                 cores := (((s.setCore h ((s.core h).setEngine e g)).sentinels h e q).count64 a n).cores }
    ∧ (((s.setCore h ((s.core h).setEngine e g)).sentinels h e q).count64 a n).cores = (s.setCore h ((s.core h).setEngine e g)).cores := by
  have g1 := (sentinels_onlyRegs (s.setCore h ((s.core h).setEngine e g)) h e q).trans (count64_onlyRegs _ a n)
  generalize ((s.setCore h ((s.core h).setEngine e g)).sentinels h e q).count64 a n = v at *
  unfold OnlyRegs at g1
  rw [g1]
  exact ⟨rfl, rfl⟩

theorem product_spec (s : State) (h e : Nat) (d : MDesc) (desc : BitVec 256) (ns : Nat) (rows : List Bytes)
    (hsh : d.shadow = false ∨ s.field (s.cluReg (h / 32) 0x800) 5 1 ≠ 1) :
    ∃ u : State, s.product h e d desc ns rows = u ∧ u = { s with regs := u.regs, cores := u.cores } ∧ (e < 4 → ∀ b, (∀ o, o < 0x1000 → s.coreReg h o ≠ b) → u.reg b = s.reg b) ∧ u.cores = (s.setCore h ((s.core h).setEngine e { (s.core h).engine e with
      acc := matAcc d (s.weights h e d ns).1 rows ns ((s.core h).engine e).acc,
      kept := keptAfter d (s.weights h e d ns).1 (s.weights h e d ns).2 (sideSlices d.wfmt (s.weights h e d ns).1.side (blockRows d.wfmt d.k) 0 ns).1 ns })).cores := by
  have ht : (d.shadow && s.field (s.cluReg (h / 32) 0x800) 5 1 = 1) = false := by
    rcases hsh with h1 | h1 <;> simp [h1]
  refine ⟨_, rfl, ?_⟩
  unfold State.product
  simp only [ht, Bool.false_eq_true, if_false]
  have hfold : ∀ (side : List (List SideRec)) (w : Kept) (l : List Nat) (x : State × Tbl Word × Sent),
      (l.foldl (sliceOnto d w side rows (h / 32) none) x).1 = x.1
      ∧ (l.foldl (sliceOnto d w side rows (h / 32) none) x).2.1
        = l.foldl (fun acc sl => accPut acc (sl * d.m * 32)
            (sliceAcc d w.elems (side.getD sl []) rows sl (ceilDiv d.k (tileDepth d.wfmt)) 0
              (if d.accIn then accSlice acc d.m sl else List.replicate (d.m * 32) 0))) x.2.1 := by
    intro side w l
    induction l with
    | nil => intro x; exact ⟨rfl, rfl⟩
    | cons a l ih =>
      intro x
      simp only [List.foldl_cons]
      have := ih (sliceOnto d w side rows (h / 32) none x a)
      refine ⟨this.1.trans (runSlice_none ..).1, this.2.trans ?_⟩
      simp only [sliceOnto, (runSlice_none ..).2]
  obtain ⟨f1, f2⟩ := hfold (sideSlices d.wfmt (s.weights h e d ns).1.side (blockRows d.wfmt d.k) 0 ns).1 (s.weights h e d ns).1 (List.range ns) (s, ((s.core h).engine e).acc, {})
  generalize ((List.range ns).foldl (sliceOnto d _ _ _ _ _) (s, ((s.core h).engine e).acc, {})) = z at *
  obtain ⟨z1, z2, z3⟩ := z
  dsimp only at f1 f2 ⊢
  subst f1
  have f2 : z2 = matAcc d (z1.weights h e d ns).1 rows ns ((z1.core h).engine e).acc := f2
  rw [f2]
  generalize Sent.add _ _ = zz
  obtain ⟨c1, c2⟩ := counted z1 h e _ zz _ _
  exact ⟨c1, fun he b hb => counted_regs z1 h e _ zz _ he b hb, c2⟩

theorem taken_head {s : State} {h e : Nat} {x : EngDesc} {rest : List EngDesc} {bq : Bool} (ht : taken s h e x rest bq) (op : Nat) (ho : (mdesc x).op = op) :
    s.headIs h e op bq = true := by
  obtain ⟨_, hq, _, _, _, hb⟩ := ht
  unfold State.headIs State.headBq
  simp only [hq, hb, ho, beq_self_eq_true, Bool.true_or, Bool.and_self]

theorem setTaken_core (s : State) (h e k : Nat) : (s.setTaken h e).core k = if h = k then (s.core h).setEngine e { (s.core h).engine e with taken := true } else s.core k := by
  unfold State.setTaken; exact core_setCore _ _ _ _

theorem setBusy_core (s : State) (h e k : Nat) : (s.setBusy h e).core k = if h = k then (s.core h).setEngine e { (s.core h).engine e with taken := true, busy := true, rows := [], row := [] } else s.core k := by
  unfold State.setBusy; exact core_setCore _ _ _ _

theorem matrix_eq (s : State) (h e : Nat) (x : EngDesc) (rest : List EngDesc) (bq : Bool) (ht : taken s h e x rest bq)
    (hrows : (mdesc x).op = 1 → (mdesc x).aMem = true ∨ (mdesc x).m ≤ ((s.core h).engine e).rows.length) :
    s.matrixStep h e bq = (let d := mdesc x
      let rows := if d.op ≠ 1 then [] else if d.aMem then memRows s h d else ((s.core h).engine e).rows
      let t := ((s.setTaken h e).runShares h e d x.d bq rows).setBusy h e
      if d.oMem then t else State.drain h e d.oq 2048 t) := by
  obtain ⟨he, hq, hr, hb, hk, _⟩ := ht
  have hg : (if (mdesc x).op = 1 then (s.setTaken h e).actRows h e (mdesc x) else Gather.full (s.setTaken h e)) = Gather.full (s.setTaken h e) := by
    split
    · unfold State.actRows
      split
      · rfl
      · rename_i ho ha
        have := (hrows ho).resolve_left ha
        unfold gatherFuel
        have hw : (mdesc x).m ≤ (((s.setTaken h e).core h).engine e).rows.length := by
          rw [setTaken_core, if_pos rfl, engine_setEngine, if_pos rfl]; exact this
        exact gather_full _ _ _ _ _ 63 _ hw
    · rfl
  have hrw : (((s.setTaken h e).core h).engine e).rows = ((s.core h).engine e).rows := by
    rw [setTaken_core, if_pos rfl, engine_setEngine, if_pos rfl]
  unfold State.matrixStep
  simp only [hq, hb, hk, Bool.not_true, Bool.or_self, Bool.false_eq_true, if_false, hg, hrw]
  rfl

theorem weights_taken (s : State) (h e : Nat) (d : MDesc) (ns : Nat) : (s.setTaken h e).weights h e d ns = s.weights h e d ns := by
  unfold State.weights
  rw [setTaken_core, if_pos rfl, engine_setEngine, if_pos rfl]
  rfl

/-- finishing: setBusy then drain -/
theorem finish_spec (u : State) (h e : Nat) (d : MDesc) (z : State)
    (hz : z = (if d.oMem then u.setBusy h e else State.drain h e d.oq 2048 (u.setBusy h e))) :
    z.mem = u.mem ∧ (∀ k, k ≠ h → z.core k = u.core k) ∧ (∀ i, i ≠ e → (z.core h).engine i = (u.core h).engine i)
    ∧ (z.core h).engine e = { (u.core h).engine e with taken := true, busy := true, rows := [], row := [], wb := ((z.core h).engine e).wb }
    ∧ (z.core h).inq = (u.core h).inq ∧ (∀ q, q ≠ d.oq → (z.core h).outQ q = (u.core h).outQ q)
    ∧ ((z.core h).outQ d.oq).tokens ++ ((z.core h).engine e).wb = ((u.core h).outQ d.oq).tokens ++ ((u.core h).engine e).wb
    ∧ (d.oMem = true ∨ ((u.core h).engine e).wb = [] → (z.core h).outQ d.oq = (u.core h).outQ d.oq ∧ ((z.core h).engine e).wb = ((u.core h).engine e).wb) := by
  have hb := setBusy_core u h e
  by_cases hd : d.oMem = true
  · rw [if_pos hd] at hz
    subst hz
    refine ⟨rfl, fun k hk => by rw [hb, if_neg (Ne.symm hk)], fun i hi => ?_, ?_, ?_, fun q _ => ?_, ?_, fun _ => ⟨?_, ?_⟩⟩
    · rw [hb, if_pos rfl, engine_setEngine, if_neg (Ne.symm hi)]
    · rw [hb, if_pos rfl, engine_setEngine, if_pos rfl]
    · rw [hb, if_pos rfl, inq_setEngine]
    · rw [hb, if_pos rfl, outQ_setEngine]
    · rw [hb, if_pos rfl, outQ_setEngine, engine_setEngine, if_pos rfl]
    · rw [hb, if_pos rfl, outQ_setEngine]
    · rw [hb, if_pos rfl, engine_setEngine, if_pos rfl]
  · rw [if_neg hd] at hz
    have dr := drain_drained h e d.oq 2048 (u.setBusy h e)
    rw [← hz] at dr
    have de := dr.engine
    refine ⟨by rw [dr.rest]; rfl, fun k hk => by rw [dr.others k hk, hb, if_neg (Ne.symm hk)], fun i hi => ?_, ?_, ?_, fun q hq => ?_, ?_, fun hw => ?_⟩
    · rw [dr.engines i hi, hb, if_pos rfl, engine_setEngine, if_neg (Ne.symm hi)]
    · rw [de]; dsimp only; rw [hb, if_pos rfl, engine_setEngine, if_pos rfl]
    · rw [dr.inq, hb, if_pos rfl, inq_setEngine]
    · rw [dr.queues q hq, hb, if_pos rfl, outQ_setEngine]
    · rw [dr.order, hb, if_pos rfl, outQ_setEngine, engine_setEngine, if_pos rfl]
    · have hw := hw.resolve_left hd
      have : z = u.setBusy h e := by
        rw [hz]
        have hwb : (((u.setBusy h e).core h).engine e).wb = [] := by rw [hb, if_pos rfl, engine_setEngine, if_pos rfl]; exact hw
        simp only [State.drain, hwb]
      rw [this, hb, if_pos rfl, outQ_setEngine, engine_setEngine, if_pos rfl]
      exact ⟨rfl, rfl⟩

theorem oq_or (c c' : Core) (oq : Nat) (h1 : ∀ q, q ≠ oq → c.outQ q = c'.outQ q) (h2 : c.outQ oq = c'.outQ oq) : ∀ q, c.outQ q = c'.outQ q := fun q => by
  by_cases hq : q = oq
  · rw [hq, h2]
  · exact h1 q hq

/-- results of writeBack carried through the end -/
theorem back_spec (s v u z : State) (h e : Nat) (d : MDesc) (rows : List Bytes) (hv : v.mem = s.mem) (hvq : ∀ q, (v.core h).outQ q = (s.core h).outQ q)
    (hvw : ((v.core h).engine e).wb = ((s.core h).engine e).wb) (hve : v.epochOf (h / 32) = s.epochOf (h / 32))
    (hpl : plainRows s h d → plainRows v h d)
    (hw : wroteBack v u h e d rows) (hq : ∀ q, (u.core h).outQ q = (v.core h).outQ q)
    (hz : z = (if d.oMem then u.setBusy h e else State.drain h e d.oq 2048 (u.setBusy h e))) : wroteBack s z h e d rows := by
  obtain ⟨f1, f2, f3, f4, f5, f6, f7, f8⟩ := finish_spec u h e d z hz
  obtain ⟨w1, w2, w3⟩ := hw
  refine ⟨fun hd => ?_, fun hd hm => ?_, fun hd => ?_⟩
  · obtain ⟨a1, a2, a3⟩ := w1 hd
    obtain ⟨g1, g2⟩ := f8 (.inl hd)
    refine ⟨fun q => ?_, by rw [g2, a2, hvw], fun b hb => by rw [f1, a3 b hb, hv]⟩
    rw [oq_or _ _ _ f6 g1 q, a1, hvq]
  · rw [f1, w2 hd (hpl hm), hv]
  · obtain ⟨a1, a2, a3⟩ := w3 hd
    refine ⟨by rw [f1, a1, hv], fun q hq' => by rw [f6 q hq', a2 q hq', hvq], ?_⟩
    rw [f7, a3, hvq, hvw, hve]

theorem plain_keep (s u : State) (h : Nat) (d : MDesc) (hu : u = { s with regs := u.regs, cores := u.cores })
    (hr : ∀ b, (∀ o, o < 0x1000 → s.coreReg h o ≠ b) → u.reg b = s.reg b) (hp : plainRows s h d) : plainRows u h d := by
  have k1 : ∀ c, u.clu c = s.clu c := fun c => by rw [hu]; rfl
  have k2 : ∀ o, u.coreReg h o = s.coreReg h o := fun o => by rw [hu]; rfl
  have k3 : ∀ c o, u.cluReg c o = s.cluReg c o := fun c o => by rw [hu]; rfl
  have k4 : ∀ c, u.clusterHole c = s.clusterHole c := fun c => by rw [hu]; rfl
  intro r hlt
  obtain ⟨p1, p4⟩ := hp r hlt
  have hge : 0x018000000000 ≤ nearBase h + d.oaddr + r * d.ostride := by unfold nearBase sramBase; omega
  have hlow : ∀ e ∈ blocksOf (nearBase h + d.oaddr + r * d.ostride) (d.nt * 32 * otypeBytes d.otype), _ := fun e he => (blockParts_bounds _ _ _ e he).1
  refine ⟨fun e he => ?_, fun e he o ho => by rw [k2, k3]; exact p4 e he o ho⟩
  obtain ⟨m1, m2, m3⟩ := p1 e he
  have q4 := p4 e he
  have ha : 0x018000000000 ≤ e.1 := Nat.le_trans hge (hlow e he)
  generalize e.1 = a at *
  have k5 : u.mapped a = s.mapped a := by
    have : u.power? (clusterOfAddr a) = s.power? (clusterOfAddr a) := by
      unfold State.power? State.field
      rw [hr _ fun o ho => (q4 o ho).1]
    unfold State.mapped
    unfold clusterOfAddr at this
    simp only [Nat.not_lt.mpr ha, if_false, k4, this]
  have k6 : u.cacheMode (clusterOfAddr a) = s.cacheMode (clusterOfAddr a) := by
    unfold State.cacheMode State.field
    rw [k3, hr _ fun o ho => (q4 o ho).2]
  exact ⟨by rw [k5]; exact m1, by rw [k6]; exact m2, by rw [k1]; exact m3⟩

theorem latch_spec (s : State) (h e : Nat) (d : MDesc) (ns : Nat) :
    (s.latchBlock h e d ns) = { s with regs := (s.latchBlock h e d ns).regs, cores := (s.latchBlock h e d ns).cores }
    ∧ (s.latchBlock h e d ns).cores = (s.setCore h ((s.core h).setEngine e { (s.core h).engine e with kept := some (s.weights h e d ns).1 })).cores := by
  unfold State.latchBlock
  dsimp only
  generalize hv : s.setCore h ((s.core h).setEngine e _) = v
  have h1 : v = { s with cores := v.cores } := by rw [← hv]; rfl
  split
  · have g := sentinels_onlyRegs v h e (loadSent d.wfmt d.k ns (s.weights h e d ns).1.elems (sideSlices d.wfmt (s.weights h e d ns).1.side (blockRows d.wfmt d.k) 0 ns).1)
    generalize v.sentinels h e _ = z at *
    rw [g, h1]
    exact ⟨rfl, rfl⟩
  · rw [h1]; exact ⟨rfl, rfl⟩

theorem latch_core (s : State) (h e : Nat) (d : MDesc) (ns k : Nat) :
    (s.latchBlock h e d ns).core k = if h = k then (s.core h).setEngine e { (s.core h).engine e with kept := some (s.weights h e d ns).1 } else s.core k := by
  show tget _ (s.latchBlock h e d ns).cores k = _
  rw [(latch_spec s h e d ns).2]
  exact core_setCore s h k _

theorem ok_setBusy (z : State) (h e : Nat) (d : MDesc) (hw : ((z.core h).engine e).wb = []) (q : Nat) :
    (if d.oMem then z.setBusy h e else State.drain h e q 2048 (z.setBusy h e)) = z.setBusy h e := by
  split
  · rfl
  · have hwb : (((z.setBusy h e).core h).engine e).wb = [] := by rw [setBusy_core, if_pos rfl, engine_setEngine, if_pos rfl]; exact hw
    simp only [State.drain, hwb]

theorem dropHead_core (s : State) (h e k : Nat) : (s.dropHead h e).core k = if h = k then (s.core h).setEngine e { (s.core h).engine e with queue := ((s.core h).engine e).queue.drop 1, taken := false, rows := [], row := [], busy := false } else s.core k := by
  unfold State.dropHead; exact core_setCore _ _ _ _

theorem descFault_core (s : State) (h e : Nat) (x : EngDesc) (rest : List EngDesc) (hq : ((s.core h).engine e).queue = x :: rest) :
    ((s.descFault h e).core h).halted = true ∧ (((s.descFault h e).core h).engine e).queue = rest ∧ (((s.descFault h e).core h).engine e).acc = ((s.core h).engine e).acc := by
  unfold State.descFault
  rw [halt_core, if_pos rfl, dropHead_core, if_pos rfl]
  have : ∀ (c : Core), Core.engine { c with halted := true, wait := none } e = c.engine e := fun _ => rfl
  rw [this, engine_setEngine, if_pos rfl, hq]
  exact ⟨rfl, rfl, rfl⟩

end Sys2Proof.Laws
end

