-- ==== Sys2Proof/Laws/Sparing.lean ====
section
/-! SUPPORT. Shadow checks, stand-ins and defects: who is blamed, which core takes over, what a list keeps. -/

namespace Sys2Proof.Laws

open Sys2Proof Sys2Proof.Machine Sys2Proof.Safety

theorem count64_apart (s : State) (a n b : Nat) (h1 : a ≠ b) (h2 : a + 4 ≠ b) : (s.count64 a n).reg b = s.reg b := by
  unfold State.count64 State.setReg64
  split
  · rfl
  · rw [reg_setReg, if_neg h2, reg_setReg, if_neg h1]

theorem phys_setPhys (s : State) (a b : Nat) (x : Phys) : (s.setPhys a x).physCore b = if a = b then x else s.physCore b := by
  unfold State.physCore State.setPhys
  by_cases h : a = b
  · subst h; simp only [tget_tset, if_true]
  · rw [if_neg h]
    exact tget_tset_ne _ _ _ _ _ _ h

theorem setPhys_setPhys (s : State) (a : Nat) (x y : Phys) : (s.setPhys a x).setPhys a y = s.setPhys a y := by
  unfold State.setPhys; simp only [tset_tset]

theorem physCore_congr {s t : State} (e : s.phys = t.phys) (k : Nat) : s.physCore k = t.physCore k := by
  unfold State.physCore; rw [e]

theorem warn_spec (s : State) (c v : Nat) (t : Tile) :
    ∃ u, u = { s with clusters := u.clusters } ∧ OnlyEvents u (s.warnMismatch c v t) := by
  unfold State.warnMismatch
  dsimp only
  generalize hcl : s.setClu c _ = u
  refine ⟨u, ?_, ?_⟩
  · have : ∀ cl, s.setClu c cl = { s with clusters := (s.setClu c cl).clusters } := fun _ => rfl
    rw [← hcl]; exact this _
  · split
    · exact .self _
    · exact record_onlyEvents ..

theorem warn_fields (s : State) (c v : Nat) (t : Tile) : (s.warnMismatch c v t).phys = s.phys ∧ (s.warnMismatch c v t).cores = s.cores
    ∧ (s.warnMismatch c v t).mem = s.mem ∧ (s.warnMismatch c v t).parts = s.parts ∧ (s.warnMismatch c v t).regions = s.regions := by
  obtain ⟨u, hu, ho⟩ := warn_spec s c v t
  rw [ho, hu]; exact ⟨rfl, rfl, rfl, rfl, rfl⟩

theorem blameBy_spec (s : State) (c spare who : Nat) (t : Tile) :
    s.blameBy c spare who t = { s with phys := (s.blameBy c spare who t).phys }
    ∧ ∀ k, (s.blameBy c spare who t).physCore k = if who = 0 then (if t.checked = k then { s.physCore k with blames := s.trust.opTime :: (s.physCore k).blames } else s.physCore k)
        else if s.physIn c spare = k then (let x := if who = 1 then s.physCore k else if t.checked = k then { s.physCore k with blames := s.trust.opTime :: (s.physCore k).blames } else s.physCore k
          { x with blames := s.trust.opTime :: x.blames })
        else if who = 1 then s.physCore k else if t.checked = k then { s.physCore k with blames := s.trust.opTime :: (s.physCore k).blames } else s.physCore k := by
  have hb : ∀ (s : State) pk, (s.blame pk) = s.setPhys pk { s.physCore pk with blames := s.trust.opTime :: (s.physCore pk).blames } := fun _ _ => rfl
  unfold State.blameBy
  dsimp only
  by_cases h1 : who = 1
  · subst h1
    simp only [if_true, one_ne_zero, if_false]
    refine ⟨rfl, fun k => ?_⟩
    rw [hb, phys_setPhys]
    split
    · rename_i h'; rw [← h']
    · rfl
  · simp only [h1, if_false]
    by_cases h0 : who = 0
    · simp only [h0, if_true]
      refine ⟨rfl, fun k => ?_⟩
      rw [hb, phys_setPhys]
      split
      · rename_i h'; rw [← h']
      · rfl
    · simp only [h0, if_false]
      have hpi : (s.blame t.checked).physIn c spare = s.physIn c spare := rfl
      refine ⟨rfl, fun k => ?_⟩
      rw [hpi, hb, phys_setPhys, hb]
      simp only [phys_setPhys]
      split
      · rename_i h'
        rw [← h']
        split
        · rename_i h2; rw [← h2]; rfl
        · rfl
      · split
        · rename_i h2; rw [← h2]
        · rfl

theorem settle_from (s u1 : State) (c spare who w : Nat) (t : Tile) (k1 : OnlyRegs s u1) (hne : t.checked ≠ s.physIn c spare) :
    blamed s ((u1.blameBy c spare who t).warnMismatch c w t) (s.physIn c spare) who t := by
  obtain ⟨b1, b2⟩ := blameBy_spec u1 c spare who t
  generalize u1.blameBy c spare who t = u2 at *
  obtain ⟨w1, w2, w3, w4, w5⟩ := warn_fields u2 c w t
  generalize u2.warnMismatch c w t = v at *
  have pv : ∀ k, v.physCore k = u2.physCore k := physCore_congr w1
  have kv : v.cores = s.cores ∧ v.mem = s.mem ∧ v.parts = s.parts ∧ v.regions = s.regions := by rw [w2, w3, w4, w5, b1, k1]; exact ⟨rfl, rfl, rfl, rfl⟩
  have p1 : ∀ k, u1.physCore k = s.physCore k := fun k => physCore_congr (by rw [k1]) k
  have p2 : u1.physIn c spare = s.physIn c spare := by rw [k1]; rfl
  have p3 : u1.trust.opTime = s.trust.opTime := by rw [k1]
  simp only [p1, p2, p3] at b2
  refine ⟨?_, ?_, fun k h1 h2 => ?_, kv⟩
  · rw [pv, b2, if_neg (Ne.symm hne), if_pos rfl]
    by_cases h0 : who = 0
    · subst h0; simp
    · by_cases h1 : who = 1
      · subst h1; simp
      · simp [h0, h1]
  · rw [pv, b2, if_neg hne, if_pos rfl]
    by_cases h0 : who = 0
    · subst h0; simp
    · simp only [h0, if_false]
      split <;> rfl
  · rw [pv, b2, if_neg (Ne.symm h2), if_neg (Ne.symm h1)]
    simp

theorem settle_spec (s : State) (c spare who : Nat) (t : Tile) (rs : List Word) (hne : t.checked ≠ s.physIn c spare) :
    blamed s (s.settleMismatch c spare who t rs) (s.physIn c spare) who t := by
  have k1 : ∀ a1 a2 w, OnlyRegs s ((s.setReg a1 w).count a2 1) := fun a1 a2 w => (setReg_onlyRegs _ _ _).trans (count_onlyRegs _ _ _)
  unfold State.settleMismatch
  exact settle_from s _ c spare who _ t (k1 _ _ _) hne

theorem stack_parts (s : State) (n k : Nat) (x : Stack) : (s.setStack n x).stack k = if n = k then x else s.stack k := stack_setStack s n k x

theorem poison_bits (v : Nat) (hv : v < 128) : bits (BitVec.ofNat 64 (v * 2 + 2 ^ 45 + 2 ^ 61)).toNat 0 1 = 0 ∧ bits (BitVec.ofNat 64 (v * 2 + 2 ^ 45 + 2 ^ 61)).toNat 45 1 = 1 := by
  rw [BitVec.toNat_ofNat]
  unfold bits
  omega

theorem finish_parts (s : State) (id status r0 r1 detail : Nat) (out : Bytes) (evt : Nat) :
    (s.finish id status r0 r1 detail out evt).parts = s.parts ∧ (s.finish id status r0 r1 detail out evt).cores = s.cores ∧ (s.finish id status r0 r1 detail out evt).mem = s.mem := by
  unfold State.finish
  split
  · exact ⟨rfl, rfl, rfl⟩
  · dsimp only
    split
    · exact ⟨rfl, rfl, rfl⟩
    · exact ⟨rfl, rfl, rfl⟩
    · refine foldl_keep _ (fun u => u.parts = s.parts ∧ u.cores = s.cores ∧ u.mem = s.mem) (fun u x h => ?_) _ _ ⟨rfl, rfl, rfl⟩
      unfold State.glerynSend; exact h

theorem freezeDone_spec (s : State) (p : Nat) (q : Part) (hq : s.part p = some q) :
    (s.freezeDone p).part p = some q ∧ (s.freezeDone p).cores = s.cores ∧ (s.freezeDone p).mem = s.mem := by
  suffices h : (s.freezeDone p).parts = s.parts ∧ (s.freezeDone p).cores = s.cores ∧ (s.freezeDone p).mem = s.mem by
    refine ⟨?_, h.2⟩
    unfold State.part at hq ⊢
    rw [h.1]; exact hq
  unfold State.freezeDone
  simp only [hq]
  refine foldl_keep _ (fun u => u.parts = s.parts ∧ u.cores = s.cores ∧ u.mem = s.mem) (fun u x h => ?_) _ _ ?_
  · obtain ⟨a, b, c⟩ := finish_parts u x.1 stOk 0 0 0xFF [] 0
    exact ⟨a.trans h.1, b.trans h.2.1, c.trans h.2.2⟩
  · show State.parts (List.foldl _ _ _) = _ ∧ State.cores (List.foldl _ _ _) = _ ∧ State.mem (List.foldl _ _ _) = _
    refine foldl_keep _ (fun u => u.parts = s.parts ∧ u.cores = s.cores ∧ u.mem = s.mem) (fun u x h => ?_) _ _ ⟨rfl, rfl, rfl⟩
    rw [record_onlyEvents u]; exact h

theorem coreFault_none (s : State) (h p : Nat) (q : Part) (hp : s.partOf (h / 32) = some p) (hq : s.part p = some q) (hst : q.standing = []) (hf : q.freeze = .no) :
    s.coreFault h none = (s.draw.setPart p
      { q with freezeDue := .standIn, freezeLate := false, standing := [(h, 0)], standAt := s.now, standBit := (Config.freeByte s.free 0).toNat }) := by
  unfold State.coreFault
  have e2 : s.draw.part p = some q := hq
  simp only [hp, Option.isNone_none, if_true, State.modPart, e2, hst, List.any_nil, decide_true, List.nil_append, Part.due, hf]
  rfl

theorem addDefect_spec (s : State) (source cause kind die unit detail : Nat) :
    (s.addDefect source cause kind die unit detail).phys = s.phys ∧ (s.addDefect source cause kind die unit detail).parts = s.parts
    ∧ (s.addDefect source cause kind die unit detail).cores = s.cores ∧ (s.addDefect source cause kind die unit detail).mem = s.mem := by
  have hr : (s.record 0x0903 3 noPart 0 onPanel []).phys = s.phys ∧ (s.record 0x0903 3 noPart 0 onPanel []).parts = s.parts
      ∧ (s.record 0x0903 3 noPart 0 onPanel []).cores = s.cores ∧ (s.record 0x0903 3 noPart 0 onPanel []).mem = s.mem := by
    rw [record_onlyEvents s]; exact ⟨rfl, rfl, rfl, rfl⟩
  unfold State.addDefect
  dsimp only
  repeat' split
  all_goals first
    | exact hr
    | exact ⟨rfl, rfl, rfl, rfl⟩

theorem addDefect_more (s : State) (source cause kind die unit detail : Nat) :
    (s.addDefect source cause kind die unit detail).sparing.unassigned = s.sparing.unassigned
    ∧ (s.addDefect source cause kind die unit detail).clusters = s.clusters := by
  have hr : (s.record 0x0903 3 noPart 0 onPanel []).sparing.unassigned = s.sparing.unassigned ∧ (s.record 0x0903 3 noPart 0 onPanel []).clusters = s.clusters := by
    rw [record_onlyEvents s]; exact ⟨rfl, rfl⟩
  unfold State.addDefect
  dsimp only
  repeat' split
  all_goals first
    | exact hr
    | exact ⟨rfl, rfl⟩

/-- What a core's change of place leaves: the map's assignment, partitions, cores, memory and every core map. -/
def kept6 (s t : State) : Prop := t.sparing.unassigned = s.sparing.unassigned ∧ t.parts = s.parts ∧ t.cores = s.cores ∧ t.mem = s.mem ∧ ∀ k, (t.clu k).coreMap = (s.clu k).coreMap

theorem kept6.trans {s t u : State} (a : kept6 s t) (b : kept6 t u) : kept6 s u :=
  ⟨b.1.trans a.1, b.2.1.trans a.2.1, b.2.2.1.trans a.2.2.1, b.2.2.2.1.trans a.2.2.2.1, fun k => (b.2.2.2.2 k).trans (a.2.2.2.2 k)⟩

theorem kept6.regs {s t : State} (a : OnlyRegs s t) : kept6 s t := by rw [a]; exact ⟨rfl, rfl, rfl, rfl, fun _ => rfl⟩

theorem warn_kept (s : State) (c v : Nat) (t : Tile) : kept6 s (s.warnMismatch c v t) ∧ (s.warnMismatch c v t).phys = s.phys := by
  refine ⟨?_, (warn_fields s c v t).1⟩
  have h1 : ∀ l, kept6 s (s.setClu c { s.clu c with mismatches := l }) := fun l => ⟨rfl, rfl, rfl, rfl, fun k => by
    rw [clu_setClu]; split
    · rename_i h; rw [h]
    · rfl⟩
  unfold State.warnMismatch
  dsimp only
  split
  · exact h1 _
  · rw [record_onlyEvents]; exact h1 _

theorem settled_kept (s u : State) (c spare who w : Nat) (t : Tile) (k : OnlyRegs s u) :
    kept6 s ((u.blameBy c spare who t).warnMismatch c w t)
    ∧ ∀ j, (((u.blameBy c spare who t).warnMismatch c w t).physCore j).tiles = (s.physCore j).tiles := by
  obtain ⟨b1, b2⟩ := blameBy_spec u c spare who t
  have p1 : ∀ j, u.physCore j = s.physCore j := fun j => physCore_congr (by rw [k]) j
  have k3 : kept6 u (u.blameBy c spare who t) := by rw [b1]; exact ⟨rfl, rfl, rfl, rfl, fun _ => rfl⟩
  obtain ⟨w1, w2⟩ := warn_kept (u.blameBy c spare who t) c w t
  refine ⟨((kept6.regs k).trans k3).trans w1, fun j => ?_⟩
  rw [physCore_congr w2, b2, p1]
  repeat' split
  all_goals rfl

/-- Settling a mismatch notes it and blames: it takes no tile off a spare and moves no core. -/
theorem settle_kept (s : State) (c spare who : Nat) (t : Tile) (rs : List Word) :
    kept6 s (s.settleMismatch c spare who t rs) ∧ ∀ k, ((s.settleMismatch c spare who t rs).physCore k).tiles = (s.physCore k).tiles := by
  have k1 : ∀ a1 a2 w, OnlyRegs s ((s.setReg a1 w).count a2 1) := fun a1 a2 w => (setReg_onlyRegs _ _ _).trans (count_onlyRegs _ _ _)
  unfold State.settleMismatch
  exact settled_kept s _ c spare who _ t (k1 _ _ _)

theorem wiped_kept (s u : State) (pk : Nat) (x : Phys) (k : OnlyRegs (s.setPhys pk { x with tiles := [], tie := none }) u) :
    kept6 s u ∧ (u.physCore pk).tiles = [] := by
  refine ⟨kept6.trans (t := s.setPhys pk { x with tiles := [], tie := none }) ⟨rfl, rfl, rfl, rfl, fun _ => rfl⟩ (.regs k), ?_⟩
  have e : u.phys = (s.setPhys pk { x with tiles := [], tie := none }).phys := by rw [k]
  rw [physCore_congr e, phys_setPhys, if_pos rfl]

/-- A core that leaves shadow duty holds no tile any more; every core stays where it is. -/
theorem dropTiles_spec (s : State) (c pk : Nat) : kept6 s (s.dropTiles c pk) ∧ ((s.dropTiles c pk).physCore pk).tiles = [] := by
  unfold State.dropTiles
  dsimp only
  have h1 := fun a n => wiped_kept s _ pk (s.physCore pk) (count_onlyRegs (s.setPhys pk { s.physCore pk with tiles := [], tie := none }) a n)
  split
  · exact h1 _ _
  · rename_i t rs _
    have h2 := h1 (State.cluReg (s.setPhys pk { s.physCore pk with tiles := [], tie := none }) c 0x814) (s.physCore pk).tiles.length
    have e1 : State.cluReg (s.setPhys pk { s.physCore pk with tiles := [], tie := none }) c 0x814 = s.cluReg c 0x814 := rfl
    rw [e1] at h2
    clear e1 h1
    generalize State.count (s.setPhys pk _) _ _ = u at *
    obtain ⟨a, b⟩ := settle_kept u c (pk % 34) 2 t rs
    exact ⟨h2.1.trans a, (b pk).trans h2.2⟩

theorem spares_nodup (s : State) (c : Nat) : (s.spares c).Nodup := by
  unfold State.spares
  dsimp only
  have h1 : (((List.range 34).map (s.physIn c)).filter fun pk => (s.hartOf pk).isNone && !(s.physCore pk).retired && !s.sparing.badCore (pk / 34 / 4) (pk / 34 % 4) (pk % 34)).Nodup := by
    refine List.Nodup.filter _ (List.Nodup.map ?_ List.nodup_range)
    intro a b h; unfold State.physIn at h; omega
  generalize List.filter _ (List.map _ _) = l at *
  rw [List.nodup_append]
  refine ⟨h1.filter _, h1.filter _, fun a ha b hb hab => ?_⟩
  subst hab
  simp only [List.mem_filter, decide_eq_true_eq] at ha hb
  exact hb.2 ha.2

theorem spares_mem (s : State) (c pk : Nat) (h : pk ∈ s.spares c) : ∃ n, n < 34 ∧ pk = s.blk c * 34 + n := by
  unfold State.spares at h
  simp only [List.mem_append, List.mem_filter, List.mem_map, List.mem_range] at h
  rcases h with h | h <;> obtain ⟨⟨⟨n, hn, rfl⟩, _⟩, _⟩ := h <;> exact ⟨n, hn, rfl⟩

theorem foldl_duty (l : List Nat) (pk : Nat) (hn : pk ∉ l) : ∀ (s : State),
    (l.foldl (fun s k => s.setPhys k { s.physCore k with duty := 1 }) s).physCore pk = s.physCore pk
    ∧ kept6 s (l.foldl (fun s k => s.setPhys k { s.physCore k with duty := 1 }) s) := by
  induction l with
  | nil => intro s; exact ⟨rfl, rfl, rfl, rfl, rfl, fun _ => rfl⟩
  | cons a l ih =>
    intro s
    simp only [List.mem_cons, not_or] at hn
    obtain ⟨i1, i2⟩ := ih hn.2 (s.setPhys a { s.physCore a with duty := 1 })
    simp only [List.foldl_cons]
    refine ⟨by rw [i1, phys_setPhys, if_neg (Ne.symm hn.1)], i2⟩

theorem inval_spec (s : State) (c : Nat) : (s.invalidateCache c).phys = s.phys ∧ (s.invalidateCache c).sparing = s.sparing ∧ (s.invalidateCache c).parts = s.parts
    ∧ (s.invalidateCache c).cores = s.cores ∧ (s.invalidateCache c).mem = s.mem ∧ ((s.invalidateCache c).clu c).coreMap = (s.clu c).coreMap := by
  unfold State.invalidateCache
  split
  · generalize s.cluReg c 0x928 = a
    have h : ∀ cl, OnlyRegs (s.setClu c cl) ((s.setClu c cl).count a 1) := fun cl => count_onlyRegs _ _ _
    have h2 : ∀ cl, ((s.setClu c cl).clu c) = cl := fun cl => by rw [clu_setClu, if_pos rfl]
    refine ⟨?_, ?_, ?_, ?_, ?_, ?_⟩
    · rw [h]; rfl
    · rw [h]; rfl
    · rw [h]; rfl
    · rw [h]; rfl
    · rw [h]; rfl
    · have hc : ∀ cl, ((s.setClu c cl).count a 1).clu c = cl := fun cl => by
        unfold State.clu; rw [count_clusters]; exact h2 cl
      rw [hc]
  · exact ⟨rfl, rfl, rfl, rfl, rfl, rfl⟩

theorem takeSpare_spec (s : State) (c k pk : Nat) (rest : List Nat) (hk : k < 32) (hs : s.spares c = pk :: rest) (hl : (s.clu c).coreMap.length = 32) :
    (s.takeSpare (c * 32 + k)).2 = true ∧ (s.takeSpare (c * 32 + k)).1.physOf (c * 32 + k) = pk
    ∧ ((s.takeSpare (c * 32 + k)).1.physCore pk).tiles = [] ∧ ((s.takeSpare (c * 32 + k)).1.physCore pk).duty = 3
    ∧ (s.takeSpare (c * 32 + k)).1.parts = s.parts ∧ (s.takeSpare (c * 32 + k)).1.cores = s.cores ∧ (s.takeSpare (c * 32 + k)).1.mem = s.mem := by
  have hd : (c * 32 + k) / 32 = c := by omega
  have hmod : (c * 32 + k) % 32 = k := by omega
  obtain ⟨n, hn, hpk⟩ := spares_mem s c pk (by rw [hs]; exact List.mem_cons_self)
  have hnot : pk ∉ rest := by
    have := spares_nodup s c
    rw [hs, List.nodup_cons] at this
    exact this.1
  unfold State.takeSpare
  simp only [hd, hmod, hs]
  generalize s.faultCause (s.physOf (c * 32 + k)) = cause
  have g1 : kept6 s (s.retireCore (s.physOf (c * 32 + k)) cause) := by
    unfold State.retireCore
    dsimp only
    obtain ⟨a1, a2, a3, a4⟩ := addDefect_spec (s.setPhys (s.physOf (c * 32 + k)) { s.physCore (s.physOf (c * 32 + k)) with retired := true, duty := 0, tiles := [], tie := none }) 1 cause kCore (s.physOf (c * 32 + k) / 34 / 4) (s.physOf (c * 32 + k) / 34 % 4 * 34 + s.physOf (c * 32 + k) % 34) 0
    obtain ⟨b1, b2⟩ := addDefect_more (s.setPhys (s.physOf (c * 32 + k)) { s.physCore (s.physOf (c * 32 + k)) with retired := true, duty := 0, tiles := [], tie := none }) 1 cause kCore (s.physOf (c * 32 + k) / 34 / 4) (s.physOf (c * 32 + k) / 34 % 4 * 34 + s.physOf (c * 32 + k) % 34) 0
    exact ⟨b1, a2, a3, a4, fun k => by unfold State.clu; rw [b2]; rfl⟩
  generalize s.retireCore (s.physOf (c * 32 + k)) cause = u1 at *
  obtain ⟨d1, d2⟩ := dropTiles_spec u1 c pk
  have g2 : kept6 s (u1.dropTiles c pk) := g1.trans d1
  generalize u1.dropTiles c pk = u2 at *
  have g3 : ∀ x, kept6 s (u2.setPhys pk x) := fun x => g2
  have q3 : (u2.setPhys pk { u2.physCore pk with duty := 3 }).physCore pk = { u2.physCore pk with duty := 3 } := by
    rw [phys_setPhys, if_pos rfl]
  have g3 := g3 { u2.physCore pk with duty := 3 }
  generalize u2.setPhys pk _ = u3 at *
  have g4 : ∃ u4, (if (s.partOf c).isNone = true then u3 else rest.foldl (fun s k => s.setPhys k { s.physCore k with duty := 1 }) u3) = u4 ∧ kept6 s u4 ∧ u4.physCore pk = u3.physCore pk := by
    refine ⟨_, rfl, ?_⟩
    split
    · exact ⟨g3, rfl⟩
    · obtain ⟨i1, i2⟩ := foldl_duty rest pk hnot u3
      exact ⟨g3.trans i2, i1⟩
  obtain ⟨u4, e4, g4, q4⟩ := g4
  rw [e4]
  have hcl : (u4.clu c).coreMap = (s.clu c).coreMap := g4.2.2.2.2 c
  have hclu : ((u4.setClu c { u4.clu c with coreMap := (u4.clu c).coreMap.set k (pk % 34) }).clu c).coreMap = (s.clu c).coreMap.set k (pk % 34) := by
    rw [clu_setClu, if_pos rfl, hcl]
  have g5 : (u4.setClu c { u4.clu c with coreMap := (u4.clu c).coreMap.set k (pk % 34) }).phys = u4.phys ∧ (u4.setClu c { u4.clu c with coreMap := (u4.clu c).coreMap.set k (pk % 34) }).sparing.unassigned = s.sparing.unassigned
     ∧ (u4.setClu c { u4.clu c with coreMap := (u4.clu c).coreMap.set k (pk % 34) }).parts = s.parts ∧ (u4.setClu c { u4.clu c with coreMap := (u4.clu c).coreMap.set k (pk % 34) }).cores = s.cores
     ∧ (u4.setClu c { u4.clu c with coreMap := (u4.clu c).coreMap.set k (pk % 34) }).mem = s.mem := ⟨rfl, g4.1, g4.2.1, g4.2.2.1, g4.2.2.2.1⟩
  generalize u4.setClu c _ = u5 at *
  obtain ⟨i1, i2, i3, i4, i5, i6⟩ := inval_spec u5 c
  generalize u5.invalidateCache c = v at *
  have hpc : v.physCore pk = { u2.physCore pk with duty := 3 } := by
    rw [physCore_congr (i1.trans g5.1), q4, q3]
  refine ⟨trivial, ?_, by rw [hpc]; exact d2, by rw [hpc], i3.trans g5.2.2.1, i4.trans g5.2.2.2.1, i5.trans g5.2.2.2.2⟩
  show v.blk ((c * 32 + k) / 32) * 34 + (v.clu ((c * 32 + k) / 32)).coreMap.getD ((c * 32 + k) % 32) ((c * 32 + k) % 32) = pk
  have hb : v.blk c = s.blk c := by
    unfold State.blk State.dieSite State.unassigned; rw [i2, g5.2.1]
  rw [hd, hmod, hb, i6, hclu, hpk]
  have : ((s.clu c).coreMap.set k ((s.blk c * 34 + n) % 34)).getD k k = n := by
    rw [List.getD_eq_getElem?_getD, List.getElem?_set_self (by omega)]
    simp; omega
  rw [this]

end Sys2Proof.Laws
end

