-- ==== Sys2Proof/Laws/Flow.lean ====
section
/-! SUPPORT. Tokens and steps: what an arrival, a clear, an advance of the epoch and a fold leave. -/

namespace Sys2Proof.Laws

open Sys2Proof Sys2Proof.Machine Sys2Proof.Safety

theorem arriveIn_plain (s : State) (h q : Nat) (t : Token) (hb : behind t.epoch (s.epochOf (h / 32)) = false) (hm : t.isMarker = false) :
    s.arriveIn h q t = (s.stir (h / 32)).setCore h ((s.core h).setInQ q { (s.core h).inQ q with tokens := ((s.core h).inQ q).tokens ++ [t] }) := by
  unfold State.arriveIn
  simp only [hb, hm, Bool.false_eq_true, if_false, Bool.false_and]

theorem answer_setInbound (s t : State) (p i : Nat) (r : Inbound) (hp : t.pending = s.pending) (hn : t.now = s.now) (hh : t.hw = s.hw) :
    answer s (t.setInbound p i r) = .next (t.setInbound p i r) := by
  unfold State.setInbound State.modPart
  split <;> exact answer_eq _ _ hp hn hh

theorem setInbound_fields (s : State) (p i : Nat) (r : Inbound) : s.setInbound p i r = { s with parts := (s.setInbound p i r).parts } := by
  unfold State.setInbound State.modPart
  split <;> rfl

/-- t differs from s in registers, inbound records and seams alone: all that a circuit's unit changes on its way. -/
def OnlyCircuit (s t : State) : Prop := t = { s with regs := t.regs, parts := t.parts, seams := t.seams }

theorem OnlyCircuit.self (s : State) : OnlyCircuit s s := rfl

theorem OnlyCircuit.trans {s t u : State} (a : OnlyCircuit s t) (b : OnlyCircuit t u) : OnlyCircuit s u := by
  unfold OnlyCircuit at *; rw [a] at b; exact b

theorem OnlyRegs.circuit {s t : State} (a : OnlyRegs s t) : OnlyCircuit s t := by
  unfold OnlyCircuit; rw [a]

theorem setInbound_onlyCircuit (s : State) (p i : Nat) (r : Inbound) : OnlyCircuit s (s.setInbound p i r) := by
  unfold OnlyCircuit; rw [setInbound_fields]

theorem landOn_onlyCircuit (s : State) (p i : Nat) (t : Token) : OnlyCircuit s (s.landOn p i t) := by
  unfold State.landOn
  split
  · exact .self s
  · dsimp only
    repeat' split
    all_goals first | exact setInbound_onlyCircuit .. | exact (setInbound_onlyCircuit ..).trans (count_onlyRegs ..).circuit

theorem landUnit_onlyCircuit (s : State) (b : Nat) (u : BitVec 552) : OnlyCircuit s (s.landUnit b u) := by
  unfold State.landUnit
  repeat' split
  all_goals first | exact (count_onlyRegs ..).circuit | exact landOn_onlyCircuit ..

theorem noteLate_onlyRegs (s : State) (p : PortRef) : OnlyRegs s (s.noteLate p) :=
  ((setField_onlyRegs ..).trans (setField_onlyRegs ..)).trans (setField_onlyRegs ..)

theorem carry_onlyCircuit (s : State) (b port cycle lane : Nat) (u : BitVec 552) : OnlyCircuit s (s.carry b port cycle lane u) := by
  unfold State.carry
  split
  · exact .self s
  · dsimp only
    have h : OnlyCircuit s (List.foldl (fun s p => s.count64 (portReg p 8) 1) s (s.circWay lane (unitCirc u) (unitLate u) 4 b port cycle).1) :=
      foldl_keep _ (OnlyCircuit s) (fun v x hv => hv.trans (count64_onlyRegs ..).circuit) _ _ (.self s)
    refine h.trans ?_
    split
    · exact (count_onlyRegs ..).circuit
    · exact landUnit_onlyCircuit ..
    · exact rfl
    · exact OnlyCircuit.trans (rfl : OnlyCircuit _ (State.setSeam _ _ _)) (noteLate_onlyRegs ..).circuit

/-- A token that enters its circuit changes registers, inbound records and seams alone. -/
theorem enterCircuit_onlyCircuit (s : State) (c circ : Nat) (t : Token) : OnlyCircuit s (s.enterCircuit c circ t) := by
  unfold State.enterCircuit
  split
  · exact .self s
  · exact carry_onlyCircuit ..

theorem restamp_kind (t : Token) (e : BitVec 3) : (t.restamp e).kind = t.kind := by
  unfold Token.kind Token.restamp
  dsimp only
  rw [BitVec.toNat_ofNat, Nat.mod_eq_of_lt (setBits_lt _ _ _ _ 16 t.tag.isLt (by decide)), bits_setBits_above _ _ _ _ _ _ (by decide)]

theorem restamp_marker (t : Token) (e : BitVec 3) : (t.restamp e).isMarker = t.isMarker := by
  unfold Token.isMarker; rw [restamp_kind]

theorem restamp_epoch (t : Token) (e : BitVec 3) : (t.restamp e).epoch = e := by
  unfold Token.epoch Token.restamp
  dsimp only
  apply BitVec.eq_of_toNat_eq
  have h := bits_setBits_same t.tag.toNat 0 3 e.toNat
  rw [Nat.mod_eq_of_lt e.isLt] at h
  have h2 := setBits_lt t.tag.toNat 0 3 e.toNat 16 t.tag.isLt (by decide)
  rw [BitVec.toNat_setWidth, BitVec.toNat_ofNat, Nat.mod_eq_of_lt h2]
  unfold bits at h
  simpa using h

theorem behind_self (e : BitVec 3) : behind e e = false := by unfold behind; simp

theorem inbound_part (s : State) (p i : Nat) (r : Inbound) (h : s.inbound p i = some r) : ∃ q, s.part p = some q ∧ q.records[i]? = some r := by
  unfold State.inbound at h
  cases hq : s.part p with
  | none => rw [hq] at h; exact absurd h (by simp)
  | some q => exact ⟨q, rfl, by rw [hq] at h; exact h⟩

theorem inbound_setInbound (s : State) (p i : Nat) (r x : Inbound) (h : s.inbound p i = some r) : (s.setInbound p i x).inbound p i = some x := by
  obtain ⟨q, hq, hr⟩ := inbound_part s p i r h
  unfold State.setInbound State.modPart
  simp only [hq, State.inbound]
  rw [part_setPart, if_pos rfl]
  show (q.records.set i x)[i]? = some x
  have hi := (List.getElem?_eq_some_iff.mp hr).1
  simp [hi]

def KP (p : Nat) (P : Part → Prop) (n : Nat) (t : State) : Prop := (∃ q', t.part p = some q' ∧ P q') ∧ t.now = n

theorem KP.of {p : Nat} {P : Part → Prop} {n : Nat} {t u : State} (h : KP p P n t) (e1 : u.parts = t.parts) (e3 : u.now = t.now) : KP p P n u := by
  obtain ⟨⟨q, hq, hP⟩, b⟩ := h
  exact ⟨⟨q, by unfold State.part at hq ⊢; rw [e1]; exact hq, hP⟩, e3.trans b⟩

theorem KP.modPart {p : Nat} {P : Part → Prop} {n : Nat} {t : State} (h : KP p P n t) (f : Part → Part) (hf : ∀ q, P q → P (f q)) : KP p P n (t.modPart p f) := by
  obtain ⟨⟨q, hq, hP⟩, b⟩ := h
  refine ⟨⟨f q, ?_, hf q hP⟩, ?_⟩
  · unfold State.modPart; rw [hq]; simp
  · unfold State.modPart; rw [hq]; exact b

theorem KP.setPart {p : Nat} {P : Part → Prop} {n : Nat} {t : State} (h : KP p P n t) (q : Part) (hq : P q) : KP p P n (t.setPart p q) :=
  ⟨⟨q, by simp, hq⟩, h.2⟩

theorem KP.record {p : Nat} {P : Part → Prop} {n : Nat} {t : State} (h : KP p P n t) (a b c d : Nat) (e : Subject) (f : Bytes) : KP p P n (t.record a b c d e f) := by
  refine h.of ?_ ?_ <;> rw [record_onlyEvents]

theorem freshPetals_fields (s : State) (h : Nat) : (s.freshPetals h).parts = s.parts ∧ (s.freshPetals h).now = s.now ∧ (s.freshPetals h).mem = s.mem := by
  unfold State.freshPetals
  refine foldl_keep _ (fun u => u.parts = s.parts ∧ u.now = s.now ∧ u.mem = s.mem) (fun u x hu => ?_) _ _ ⟨rfl, rfl, rfl⟩
  dsimp only [State.seedPetal]
  split <;> exact hu

theorem rebase_fields (s : State) (h : Nat) : ∃ t, s.rebase h = { s with cores := t } := by
  unfold State.rebase
  dsimp only
  generalize List.foldl _ (s.core h) _ = c
  exact ⟨tset {} s.cores h c, rfl⟩

theorem runPetal_fields (s : State) (h p : Nat) : ∃ t, s.runPetal h p = { s with cores := t } := by
  unfold State.runPetal
  dsimp only
  generalize hc : State.setCore s h _ = u
  have hu : ∃ t, u = { s with cores := t } := ⟨_, hc.symm⟩
  clear hc
  obtain ⟨t, rfl⟩ := hu
  split
  · obtain ⟨t', e⟩ := rebase_fields { s with cores := t } h
    exact ⟨t', e⟩
  · exact ⟨t, rfl⟩

theorem releaseCluster_fields (s : State) (k : Nat) : (s.releaseCluster k).parts = s.parts ∧ (s.releaseCluster k).now = s.now ∧ (s.releaseCluster k).mem = s.mem := by
  unfold State.releaseCluster
  refine foldl_keep _ (fun u => u.parts = s.parts ∧ u.now = s.now ∧ u.mem = s.mem) (fun u x hu => ?_) _ _ ⟨rfl, rfl, rfl⟩
  obtain ⟨a, b, c⟩ := freshPetals_fields u x
  obtain ⟨t, e⟩ := runPetal_fields (u.freshPetals x) x
    (if 0 < (s.clu k).foldCount && bitOf ((s.clu k).foldE 0).mask.toNat ((u.freshPetals x).leaderOf x % 32) then ((s.clu k).foldE 0).petal else 0)
  generalize u.freshPetals x = w at *
  rw [e]
  exact ⟨a.trans hu.1, b.trans hu.2.1, c.trans hu.2.2⟩

theorem setInbound_KP {p : Nat} {P : Part → Prop} {n : Nat} {t : State} (h : KP p P n t) (hP : ∀ q r, P q → P { q with records := r }) (i : Nat) (x : Inbound) :
    KP p P n (t.setInbound p i x) := h.modPart _ fun q hq => hP q _ hq

theorem inject_KP {p : Nat} {P : Part → Prop} {n : Nat} {t : State} (st : StepRec) (h : KP p P n t) (hP : ∀ q r, P q → P { q with records := r }) : KP p P n (t.inject p st) := by
  unfold State.inject
  refine foldl_keep _ (KP p P n) (fun u x hu => ?_) _ _ h
  dsimp only
  split
  · exact hu
  · split
    · exact hu
    · split
      · exact hu
      · exact setInbound_KP hu hP _ _

theorem foldl_mem {α : Type} (g : State → α → State) (hg : ∀ s x, (g s x).mem = s.mem) : ∀ (l : List α) (s : State), (l.foldl g s).mem = s.mem
  | [], _ => rfl
  | x :: l, s => (foldl_mem g hg l (g s x)).trans (hg s x)

theorem stopCluster_core (s : State) (c h : Nat) : (s.stopCluster c).parts = s.parts ∧ (s.stopCluster c).now = s.now
    ∧ (h / 32 = c → ((s.stopCluster c).core h).running = false) ∧ ((s.core h).running = false → ((s.stopCluster c).core h).running = false)
    ∧ ((s.stopCluster c).core h).inq = (s.core h).inq := by
  unfold State.stopCluster
  have key : ∀ (l : List Nat) (u : State),
      let v := l.foldl (fun s h => s.setCore h { s.core h with running := false, halted := false, yielded := false, wait := none, switchTo := none }) u
      v.parts = u.parts ∧ v.now = u.now ∧ (h ∈ l → (v.core h).running = false) ∧ ((u.core h).running = false → (v.core h).running = false) ∧ (v.core h).inq = (u.core h).inq := by
    intro l
    induction l with
    | nil => intro u; exact ⟨rfl, rfl, by simp, id, rfl⟩
    | cons x l ih =>
      intro u
      obtain ⟨a, b, c, d, e⟩ := ih (u.setCore x { u.core x with running := false, halted := false, yielded := false, wait := none, switchTo := none })
      have hr : ((u.setCore x { u.core x with running := false, halted := false, yielded := false, wait := none, switchTo := none }).core h) = if x = h then { u.core x with running := false, halted := false, yielded := false, wait := none, switchTo := none } else u.core h := core_setCore ..
      refine ⟨a, b, fun hm => ?_, fun hf => ?_, ?_⟩
      · rcases List.mem_cons.mp hm with rfl | hm
        · exact d (by rw [hr, if_pos rfl])
        · exact c hm
      · exact d (by rw [hr]; split <;> [rfl; exact hf])
      · refine e.trans ?_
        rw [hr]; split
        · rename_i hx; rw [hx]
        · rfl
  obtain ⟨a, b, c', d, e⟩ := key (hartsOf c) s
  refine ⟨a, b, fun hc => c' ?_, d, e⟩
  unfold hartsOf
  simp only [List.mem_map, List.mem_range]
  exact ⟨h % 32, Nat.mod_lt _ (by decide), by omega⟩

theorem stopAll_core (h : Nat) : ∀ (l : List Nat) (u : State), (h / 32 ∈ l ∨ (u.core h).running = false) → ((List.foldl (fun s c => s.stopCluster c) u l).core h).running = false
  | [], u, hu => by rcases hu with hu | hu <;> [exact absurd hu (by simp); exact hu]
  | x :: l, u, hu => by
    obtain ⟨-, -, c1, c2, -⟩ := stopCluster_core u x h
    rw [List.foldl_cons]
    have key : h / 32 ∈ l ∨ ((u.stopCluster x).core h).running = false := by
      rcases hu with hu | hu
      · rcases List.mem_cons.mp hu with e | hu
        · exact .inr (c1 e)
        · exact .inl hu
      · exact .inr (c2 hu)
    generalize u.stopCluster x = v at *
    exact stopAll_core h l v key

/-- core-level quiet -/
def Quiet (h : Nat) (t : State) : Prop := (t.core h).inq = [] ∧ (t.core h).running = false

theorem Quiet.of {h : Nat} {t u : State} (a : Quiet h t) (e : u.cores = t.cores) : Quiet h u := by
  unfold Quiet State.core at *; rw [e]; exact a

theorem clearHarts (h : Nat) : ∀ (l : List Nat) (u : State),
    let v := l.foldl (fun s h => s.setCore h (s.core h).cleared) u
    v.parts = u.parts ∧ (h ∈ l → (v.core h).inq = []) ∧ ((u.core h).inq = [] → (v.core h).inq = []) ∧ (v.core h).running = (u.core h).running
  | [], u => ⟨rfl, by simp, id, rfl⟩
  | x :: l, u => by
    have hr : (u.setCore x (u.core x).cleared).core h = if x = h then (u.core x).cleared else u.core h := core_setCore ..
    have hp : (u.setCore x (u.core x).cleared).parts = u.parts := rfl
    rw [List.foldl_cons]
    generalize u.setCore x (u.core x).cleared = w at *
    obtain ⟨a, b, c, d⟩ := clearHarts h l w
    refine ⟨a.trans hp, fun hm => ?_, fun hi => ?_, ?_⟩
    · rcases List.mem_cons.mp hm with rfl | hm
      · exact c (by rw [hr, if_pos rfl]; rfl)
      · exact b hm
    · exact c (by rw [hr]; split <;> [rfl; exact hi])
    · refine d.trans ?_
      rw [hr]; split
      · rename_i e; rw [e]; rfl
      · rfl

theorem mem_harts (h c : Nat) (e : h / 32 = c) : h ∈ hartsOf c := by
  unfold hartsOf
  simp only [List.mem_map, List.mem_range]
  exact ⟨h % 32, Nat.mod_lt _ (by decide), by omega⟩

/-- What follows the clearing of the cores of a cluster. -/
def clearTail (u : State) (c n : Nat) (b : Bool) (f : SendFlow → SendFlow) : State :=
  let w := u.setClu c (u.clu c).cleared
  let v := { w with sends := w.sends.map f }
  if b then v.count (v.cluReg c 0x854) n else v

theorem clearTail_only (u : State) (c n : Nat) (b : Bool) (f : SendFlow → SendFlow) : (clearTail u c n b f).cores = u.cores ∧ (clearTail u c n b f).parts = u.parts
    ∧ (clearTail u c n b f).regions = u.regions ∧ (clearTail u c n b f).now = u.now := by
  unfold clearTail
  dsimp only
  split
  · rw [count_cores, count_parts, count_regions, count_now]; exact ⟨rfl, rfl, rfl, rfl⟩
  · exact ⟨rfl, rfl, rfl, rfl⟩

/-- Bytes that become open change memory and the free counter only. -/
theorem scramble_only (s : State) (p : Option Nat) (a n : Nat) :
    s.scramble p a n = { s with mem := (s.scramble p a n).mem, free := (s.scramble p a n).free } := rfl

theorem stopRuns_only (s : State) (c : Nat) : s.stopRuns c = { s with mem := (s.stopRuns c).mem, free := (s.stopRuns c).free } := by
  have key : ∀ (l : List (Nat × Nat)) (u : State),
      l.foldl (fun s e => s.scramble (s.partOf c) e.1 e.2) u
        = { u with mem := (l.foldl (fun s e => s.scramble (s.partOf c) e.1 e.2) u).mem,
                   free := (l.foldl (fun s e => s.scramble (s.partOf c) e.1 e.2) u).free } := by
    intro l
    induction l with
    | nil => intro u; rfl
    | cons x l ih => intro u; rw [List.foldl_cons, ih]; rfl
  unfold State.stopRuns
  dsimp only
  generalize (List.flatMap _ _) = l
  exact key l s

theorem clearCluster_tail (s : State) (c : Nat) (b : Bool) :
    ∃ n f, s.clearCluster c b = clearTail ((hartsOf c).foldl (fun s h => s.setCore h (s.core h).cleared) (s.stopRuns c)) c n b f := by
  unfold State.clearCluster clearTail
  dsimp only
  generalize s.stopRuns c = w
  generalize List.foldl (fun s h => s.setCore h (s.core h).cleared) w (hartsOf c) = u
  exact ⟨_, _, rfl⟩

theorem clearHarts_rest (s : State) (l : List Nat) : (List.foldl (fun s h => s.setCore h (s.core h).cleared) s l).regions = s.regions
    ∧ (List.foldl (fun s h => s.setCore h (s.core h).cleared) s l).now = s.now :=
  foldl_keep (fun s h => s.setCore h (s.core h).cleared) (fun u => u.regions = s.regions ∧ u.now = s.now) (fun u x hu => hu) l s ⟨rfl, rfl⟩

theorem clearCluster_core (s : State) (c : Nat) (b : Bool) (h : Nat) :
    (s.clearCluster c b).parts = s.parts ∧ (s.clearCluster c b).regions = s.regions ∧ (h / 32 = c → ((s.clearCluster c b).core h).inq = [])
      ∧ ((s.core h).inq = [] → ((s.clearCluster c b).core h).inq = []) ∧ ((s.clearCluster c b).core h).running = (s.core h).running := by
  obtain ⟨n, f, e⟩ := clearCluster_tail s c b
  rw [e]
  have h0 := stopRuns_only s c
  have hs : (s.stopRuns c).core h = s.core h ∧ (s.stopRuns c).parts = s.parts ∧ (s.stopRuns c).regions = s.regions := by rw [h0]; exact ⟨rfl, rfl, rfl⟩
  rw [← hs.1, ← hs.2.1, ← hs.2.2]
  generalize s.stopRuns c = s at *
  have hk := clearHarts h (hartsOf c) s
  have hreg := (clearHarts_rest s (hartsOf c)).1
  have hm := mem_harts h c
  generalize hartsOf c = l at *
  dsimp only at hk
  generalize List.foldl (fun s h => s.setCore h (s.core h).cleared) s l = u at *
  obtain ⟨a, b', c', d⟩ := hk
  obtain ⟨k1, k2, k3, _⟩ := clearTail_only u c n b f
  generalize clearTail u c n b f = v at *
  have : v.core h = u.core h := by unfold State.core; rw [k1]
  rw [this]
  exact ⟨k2.trans a, k3.trans hreg, fun e => b' (hm e), c', d⟩

theorem clearClusters (h : Nat) (b : Bool) : ∀ (l : List Nat) (u : State),
    let v := l.foldl (fun s c => s.clearCluster c b) u
    v.parts = u.parts ∧ v.regions = u.regions ∧ (h / 32 ∈ l → (v.core h).inq = []) ∧ ((u.core h).inq = [] → (v.core h).inq = []) ∧ (v.core h).running = (u.core h).running
  | [], u => ⟨rfl, rfl, by simp, id, rfl⟩
  | x :: l, u => by
    obtain ⟨a, r, b1, c, d⟩ := clearCluster_core u x b h
    rw [List.foldl_cons]
    generalize u.clearCluster x b = w at *
    obtain ⟨a', r', b', c', d'⟩ := clearClusters h b l w
    refine ⟨a'.trans a, r'.trans r, fun hm => ?_, fun hi => c' (c hi), d'.trans d⟩
    rcases List.mem_cons.mp hm with e | hm
    · exact c' (b1 e)
    · exact b' hm

theorem modPart_other (s : State) (p : Nat) (f : Part → Part) : s.modPart p f = { s with parts := (s.modPart p f).parts } := by
  unfold State.modPart; split <;> rfl

theorem count_onlyE (l : List Inbound) (g : State → Inbound → Nat) (k : Inbound → Nat) (s : State) : OnlyEvents s (l.foldl (fun s x => s.count (g s x) (k x)) s) :=
  foldl_keep _ (OnlyEvents s) (fun u x h => h.trans (count_onlyEvents ..)) _ _ (.self s)

theorem clearAll_now (b : Bool) (l : List Nat) (s : State) : (l.foldl (fun s c => s.clearCluster c b) s).now = s.now := by
  refine foldl_keep (fun s c => s.clearCluster c b) (fun u => u.now = s.now) (fun u x hu => ?_) l s rfl
  obtain ⟨n, f, e⟩ := clearCluster_tail u x b
  rw [e]
  have h0 : (u.stopRuns x).now = u.now := by rw [stopRuns_only]
  exact (((clearTail_only _ x n b f).2.2.2.trans (clearHarts_rest (u.stopRuns x) (hartsOf x)).2).trans h0).trans hu

theorem clearRegion_spec (s : State) (p rn : Nat) (r : Region) (b ports : Bool) (h : Nat) (P : Part → Prop) (n : Nat) (hP : ∀ q x, P q → P { q with records := x })
    (hs : KP p P n s) : KP p P n (s.clearRegion p rn r b ports) ∧ (h / 32 ∈ r.clusters → ((s.clearRegion p rn r b ports).core h).inq = [])
      ∧ ((s.core h).inq = [] → ((s.clearRegion p rn r b ports).core h).inq = []) ∧ ((s.clearRegion p rn r b ports).core h).running = (s.core h).running := by
  have hc := clearClusters h b r.clusters s
  have hnow := clearAll_now b r.clusters s
  unfold State.clearRegion
  dsimp only at hc ⊢
  generalize List.foldl (fun s c => s.clearCluster c b) s r.clusters = u at *
  obtain ⟨a, -, b1, c, d⟩ := hc
  obtain ⟨⟨q, hq, hQ⟩, hn⟩ := hs
  have hqu : u.part p = some q := by unfold State.part at hq ⊢; rw [a]; exact hq
  simp only [hqu]
  have key : ∀ v : State, OnlyEvents u v → ∀ f : Part → Part, (∀ q, P q → P (f q)) → KP p P n (v.modPart p f) ∧ (h / 32 ∈ r.clusters → ((v.modPart p f).core h).inq = [])
      ∧ ((s.core h).inq = [] → ((v.modPart p f).core h).inq = []) ∧ ((v.modPart p f).core h).running = (s.core h).running := by
    intro v hv f hf
    have hvq : v.part p = some q := by rw [hv]; exact hqu
    have hvn : v.now = n := by rw [hv]; exact hnow.trans hn
    have hvc : (v.modPart p f).core h = u.core h := by
      unfold State.core; rw [modPart_other v]; show tget _ v.cores h = _; rw [hv.cores]
    rw [hvc]
    exact ⟨KP.modPart ⟨⟨q, hvq, hQ⟩, hvn⟩ f hf, b1, c, d⟩
  refine key _ ?_ _ fun q hq => hP q _ hq
  split
  · exact .self u
  · exact count_onlyE _ (fun s x => s.cluReg x.cluster 0x854) _ u

theorem stopAll_more (h : Nat) : ∀ (l : List Nat) (u : State),
    let v := l.foldl (fun s c => s.stopCluster c) u
    v.parts = u.parts ∧ v.now = u.now ∧ (v.core h).inq = (u.core h).inq ∧ ((u.core h).running = false → (v.core h).running = false)
  | [], u => ⟨rfl, rfl, rfl, id⟩
  | x :: l, u => by
    obtain ⟨a, b, -, c, d⟩ := stopCluster_core u x h
    rw [List.foldl_cons]
    generalize u.stopCluster x = w at *
    obtain ⟨a', b', d', c'⟩ := stopAll_more h l w
    exact ⟨a'.trans a, b'.trans b, d'.trans d, fun e => c' (c e)⟩

theorem clearPart_spec (p h : Nat) (P : Part → Prop) (n : Nat) (hP : ∀ q x, P q → P { q with records := x }) : ∀ (l : List (Nat × Region)) (s : State), KP p P n s →
    let v := l.foldl (fun s e => let s := s.clearRegion p e.1 e.2 false true; e.2.clusters.foldl (fun s c => s.stopCluster c) s) s
    KP p P n v ∧ ((∃ e ∈ l, h / 32 ∈ e.2.clusters) → Quiet h v) ∧ (Quiet h s → Quiet h v)
  | [], s, hs => ⟨hs, fun ⟨_, he, _⟩ => absurd he (by simp), id⟩
  | e :: l, s, hs => by
    obtain ⟨k1, c1, c2, c3⟩ := clearRegion_spec s p e.1 e.2 false true h P n hP hs
    rw [List.foldl_cons]
    dsimp only
    have hst := stopAll_core h e.2.clusters (s.clearRegion p e.1 e.2 false true)
    have hmo := stopAll_more h e.2.clusters (s.clearRegion p e.1 e.2 false true)
    generalize s.clearRegion p e.1 e.2 false true = u at *
    dsimp only at hmo
    generalize List.foldl (fun s c => s.stopCluster c) u e.2.clusters = w at *
    obtain ⟨m1, m2, m3, m4⟩ := hmo
    obtain ⟨a, b, c⟩ := clearPart_spec p h P n hP l w (k1.of m1 m2)
    refine ⟨a, fun ⟨e', he, hh⟩ => ?_, fun hq => c ⟨?_, ?_⟩⟩
    · rcases List.mem_cons.mp he with rfl | he
      · exact c ⟨by rw [m3]; exact c1 hh, hst (.inl hh)⟩
      · exact b ⟨e', he, hh⟩
    · rw [m3]; exact c2 hq.1
    · exact m4 (c3.trans hq.2)

theorem resume_core (s : State) (h k : Nat) : (s.resume h).core k = if h = k then (s.resume h).core h else s.core k := by
  unfold State.resume
  dsimp only
  split
  · simp only [retire_eq, core_setCore]
    simp
  · split
    · rename_i e; rw [e]
    · rfl

theorem resume_rest (s : State) (h : Nat) : s.resume h = { s with cores := (s.resume h).cores } := by
  unfold State.resume
  dsimp only
  split <;> rfl

theorem enterFold_spec (c : Nat) (e : FoldEntry) (sw : List Nat) : ∀ (l : List Nat) (u : State), l.Nodup →
    let v := l.foldl (fun s k => let h := c * 32 + k
                                 if sw.contains h then s.setCore h { s.core h with switchTo := some e.petal }
                                 else if (s.core h).petal = e.petal then s.resume h else s) u
    v = { u with cores := v.cores } ∧ (∀ k, (∀ j ∈ l, c * 32 + j ≠ k) → v.core k = u.core k)
      ∧ (∀ k ∈ l, v.core (c * 32 + k) = if sw.contains (c * 32 + k) then { u.core (c * 32 + k) with switchTo := some e.petal }
          else if (u.core (c * 32 + k)).petal = e.petal then (u.resume (c * 32 + k)).core (c * 32 + k) else u.core (c * 32 + k))
  | [], u, _ => ⟨rfl, fun _ _ => rfl, by simp⟩
  | x :: l, u, hn => by
    rw [List.foldl_cons]
    have hx := List.nodup_cons.mp hn
    generalize hw : (if sw.contains (c * 32 + x) then u.setCore (c * 32 + x) { u.core (c * 32 + x) with switchTo := some e.petal }
      else if (u.core (c * 32 + x)).petal = e.petal then u.resume (c * 32 + x) else u) = w
    have h1 : w = { u with cores := w.cores } := by
      rw [← hw]; split
      · rfl
      · split
        · exact resume_rest ..
        · rfl
    have h2 : ∀ k, c * 32 + x ≠ k → w.core k = u.core k := by
      intro k hk
      rw [← hw]; split
      · rw [core_setCore, if_neg hk]
      · split
        · rw [resume_core, if_neg hk]
        · rfl
    have h3 : w.core (c * 32 + x) = if sw.contains (c * 32 + x) then { u.core (c * 32 + x) with switchTo := some e.petal }
          else if (u.core (c * 32 + x)).petal = e.petal then (u.resume (c * 32 + x)).core (c * 32 + x) else u.core (c * 32 + x) := by
      rw [← hw]
      split
      · rw [core_setCore, if_pos rfl]
      · split <;> rfl
    obtain ⟨a, b, d⟩ := enterFold_spec c e sw l w hx.2
    generalize List.foldl _ w l = v at *
    have hcore : ∀ k, c * 32 + x ≠ k → (w.resume k).core k = (u.resume k).core k := by
      intro k hk
      unfold State.resume
      dsimp only
      rw [h2 k hk]
      split
      · simp only [retire_eq, core_setCore, if_true]
      · exact h2 k hk
    refine ⟨by rw [h1] at a; exact a, fun k hk => ?_, fun k hk => ?_⟩
    · rw [b k (fun j hj => hk j (List.mem_cons_of_mem _ hj)), h2 k (hk x List.mem_cons_self)]
    · rcases List.mem_cons.mp hk with rfl | hk
      · have hj' : ∀ j ∈ l, c * 32 + j ≠ c * 32 + k := by
          intro j hj e'
          obtain rfl : j = k := by omega
          exact hx.1 hj
        rw [b _ hj']
        exact h3
      · have hkx : c * 32 + x ≠ c * 32 + k := by
          intro e'
          obtain rfl : x = k := by omega
          exact hx.1 hk
        rw [d k hk, h2 _ hkx, hcore _ hkx]

theorem onesOf_nodup (m n : Nat) : (onesOf m n).Nodup := by
  unfold onesOf
  exact (List.nodup_range).filter _

/-- Entering a fold entry asks the cores of its list to switch and resumes the ones that keep their petal; nothing but cores changes. -/
theorem enterFold_full (u : State) (c j : Nat) :
    u.enterFold c j = { u with cores := (u.enterFold c j).cores }
      ∧ (∀ k ∈ onesOf ((u.clu c).foldE j).mask.toNat 32, (u.enterFold c j).core (c * 32 + k) =
          if (u.foldSwitches c j).contains (c * 32 + k) then { u.core (c * 32 + k) with switchTo := some ((u.clu c).foldE j).petal }
          else if (u.core (c * 32 + k)).petal = ((u.clu c).foldE j).petal then (u.resume (c * 32 + k)).core (c * 32 + k) else u.core (c * 32 + k)) := by
  obtain ⟨a, -, d⟩ := enterFold_spec c ((u.clu c).foldE j) (u.foldSwitches c j) _ u (onesOf_nodup ((u.clu c).foldE j).mask.toNat 32)
  exact ⟨a, d⟩

theorem filter_ne {α : Type} [DecidableEq α] (d : α) (f : α → α) (hd : f d = d) (P : α → Prop) (h : ∀ x, P (f x)) :
    ∀ (t : Tbl α) (k : Nat), P (tget d ((t.map fun e => (e.1, f e.2)).filter fun e => decide (e.2 ≠ d)) k) := by
  have h0 : P d := by rw [← hd]; exact h d
  intro t
  induction t with
  | nil => intro k; exact h0
  | cons e t ih =>
    intro k
    rw [List.map_cons, List.filter_cons]
    split
    · unfold tget
      split
      · exact h _
      · exact ih k
    · exact ih k

/-- Fields of a core that its output queues do not hold. -/
theorem setOutQ_rest (c : Core) (f : Core → Nat → OutQueue) (l : List Nat) :
    l.foldl (fun x q => x.setOutQ q (f x q)) c = { c with outq := (l.foldl (fun x q => x.setOutQ q (f x q)) c).outq } := by
  induction l generalizing c with
  | nil => rfl
  | cons q l ih => rw [List.foldl_cons, ih]; rfl

end Sys2Proof.Laws
end

