-- ==== Sys2Proof/Laws/Routed.lean ====
section
/-! SUPPORT. The packet service: what a packet's way through the routers, its launch and its sending change. -/

namespace Sys2Proof.Laws

open Sys2Proof Sys2Proof.Machine

/-- t differs from s in the packets under way and in registers alone. -/
def OnlyNet (s t : State) : Prop := t = { s with moving := t.moving, regs := t.regs }

theorem OnlyNet.self (s : State) : OnlyNet s s := rfl

theorem OnlyNet.trans {s t u : State} (a : OnlyNet s t) (b : OnlyNet t u) : OnlyNet s u := by
  unfold OnlyNet at *; rw [a] at b; exact b

theorem OnlyRegs.net {s t : State} (a : OnlyRegs s t) : OnlyNet s t := by
  unfold OnlyNet; rw [a]

theorem setMoving_onlyNet (s : State) (i : Nat) (m : Moving) : OnlyNet s (s.setMoving i m) := rfl

theorem unitsOut_onlyNet (s : State) (p : PortRef) (n : Nat) : OnlyNet s (s.unitsOut p n) :=
  ((count64_onlyRegs ..).trans (count64_onlyRegs ..)).net

theorem notePeak_onlyNet (s : State) (p : PortRef) : OnlyNet s (s.notePeak p) := by
  unfold State.notePeak
  dsimp only
  split
  · exact .self s
  · exact (setField_onlyRegs ..).net

theorem passLeg_onlyNet (s : State) (i j : Nat) : OnlyNet s (s.passLeg i j) := by
  unfold State.passLeg
  split
  · exact .self s
  · split
    · exact .self s
    · dsimp only
      split
      · exact .self s
      · split
        · split
          · exact .self s
          · exact (setMoving_onlyNet ..).trans (unitsOut_onlyNet ..)
        · split
          · exact .self s
          · split
            · exact .self s
            · split
              · exact .self s
              · exact ((setMoving_onlyNet ..).trans (unitsOut_onlyNet ..)).trans (notePeak_onlyNet ..)

theorem passPacket_onlyNet (s : State) (i : Nat) : OnlyNet s (s.passPacket i) := by
  unfold State.passPacket
  split
  · exact .self s
  · exact foldl_keep _ (OnlyNet s) (fun u j h => h.trans (passLeg_onlyNet ..)) _ _ (.self s)

theorem settleNet_onlyNet : ∀ (n : Nat) (s : State), OnlyNet s (s.settleNet n)
  | 0, s => .self s
  | n + 1, s => by
    have h : OnlyNet s ((List.range s.moving.length).foldl State.passPacket s) :=
      foldl_keep _ (OnlyNet s) (fun u i h => h.trans (passPacket_onlyNet ..)) _ _ (.self s)
    rw [State.settleNet]
    split
    · exact .self s
    · exact h.trans (settleNet_onlyNet n _)

theorem addMoving_onlyNet (s : State) (t : Target) (a : Nat) (p : Packet) : OnlyNet s (s.addMoving t a p) := rfl

theorem enterNet_onlyNet (s : State) (t : Target) (r : BitVec 1 × Nat) (a c port : Nat) (p : Packet) : OnlyNet s (s.enterNet t r a c port p) := by
  unfold State.enterNet
  exact OnlyNet.trans (t := { s with moving := _ }) rfl (settleNet_onlyNet _ _)

theorem answerUnreach_onlyNet (s : State) (t : Target) (a c : Nat) (p : Packet) : OnlyNet s (s.answerUnreach t a c p) := by
  have h := (count_onlyRegs s (s.fabReg c 0x00C) 1).net
  unfold State.answerUnreach
  dsimp only
  generalize s.count (s.fabReg c 0x00C) 1 = u at *
  split
  · split
    · exact h.trans (addMoving_onlyNet ..)
    · exact h
  · split
    · exact h
    · exact h.trans (addMoving_onlyNet ..)

theorem sourceRoute_onlyNet (s : State) (t : Target) (a c port : Nat) (p : Packet) : OnlyNet s (s.sourceRoute t a c port p) := by
  unfold State.sourceRoute
  split
  · exact enterNet_onlyNet ..
  · exact answerUnreach_onlyNet ..

theorem fromDie_onlyNet (s : State) (n a : Nat) (t : Target) (p : Packet) : OnlyNet s (s.fromDie n a t p) := by
  unfold State.fromDie
  split
  · exact addMoving_onlyNet ..
  · split
    · exact sourceRoute_onlyNet ..
    · exact addMoving_onlyNet ..

/-- Launching a packet changes nothing but packets under way and the routers' counters. -/
theorem launch_onlyNet (s : State) (a : Nat) (p : Packet) : OnlyNet s (s.launch a p) := by
  unfold State.launch
  split
  · exact sourceRoute_onlyNet ..
  · dsimp only
    split
    · split
      · exact addMoving_onlyNet ..
      · exact fromDie_onlyNet ..
    · exact fromDie_onlyNet ..

theorem launch_fields (s : State) (a : Nat) (p : Packet) :
    (s.launch a p).sends = s.sends ∧ (s.launch a p).clusters = s.clusters ∧ (s.launch a p).mem = s.mem ∧ (s.launch a p).cores = s.cores := by
  rw [launch_onlyNet s a p]; exact ⟨rfl, rfl, rfl, rfl⟩

end Sys2Proof.Laws
end

