-- ==== Sys2Proof/Laws/Stack.lean ====
section
/-! SUPPORT. Stacks: what an audit, a discard and a sample of temperatures leave. -/

namespace Sys2Proof.Laws

open Sys2Proof Sys2Proof.Machine Sys2Proof.Safety

def Same3 (s t : State) : Prop := t.parts = s.parts ∧ t.mem = s.mem ∧ t.cores = s.cores

theorem Same3.regs {s u t : State} (a : Same3 s u) (h : OnlyRegs u t) : Same3 s t := by
  unfold Same3 at *; rw [h]; exact a

theorem Same3.clu {s u : State} (a : Same3 s u) (c : Nat) (x : Cluster) : Same3 s (u.setClu c x) := a

theorem ownMove_same (s u : State) (c own n : Nat) (h : Same3 s u) : Same3 s (u.ownMove c own n) := by
  unfold State.ownMove
  dsimp only
  generalize hv : State.setField _ _ 14 8 _ = v
  have hv3 : Same3 s v := by rw [← hv]; exact h
  clear hv
  have hd : ∀ w : State, Same3 s w → Same3 s w.draw := fun w hw => hw
  exact hd _ (hv3.regs (count64_onlyRegs ..))

theorem ownMove_keeps (s : State) (c own n : Nat) :
    (s.ownMove c own n).pending = s.pending ∧ (s.ownMove c own n).now = s.now ∧ (s.ownMove c own n).hw = s.hw := by
  unfold State.ownMove
  dsimp only
  generalize hv : State.setField _ _ 14 8 _ = v
  have hv3 : v.pending = s.pending ∧ v.now = s.now ∧ v.hw = s.hw := by rw [← hv]; exact ⟨rfl, rfl, rfl⟩
  clear hv
  have e := count64_onlyRegs v (v.cluReg c (if own + Config.pick s.free 0 % 2 * 8 < 8 then 0x948 else 0x950)) n
  generalize v.count64 (v.cluReg c (if own + Config.pick s.free 0 % 2 * 8 < 8 then 0x948 else 0x950)) n = w at *
  rw [e]; exact hv3

theorem auditBank_same (s u : State) (c : Nat) (n : Dword) (h : Same3 s u) : Same3 s (u.auditBank c n) := by
  rw [State.auditBank.eq_1]
  have h := ownMove_same s u c 6 0 h
  generalize u.ownMove c 6 0 = w at *
  dsimp only
  split
  · exact (h.regs (count64_onlyRegs ..)).clu _ _
  · exact h.regs (count64_onlyRegs ..)

theorem blockedRead_onlyRegs (s : State) (a : Nat) : OnlyRegs s (s.blockedRead a) := by
  unfold State.blockedRead
  split
  · exact count_onlyRegs ..
  · exact .self s

theorem auditRecord_same (s u : State) (d : DataRec) (h : Same3 s u) : Same3 s (u.auditRecord d) := by
  rw [State.auditRecord.eq_1]
  exact (ownMove_same _ _ _ _ _ (foldl_keep _ (Same3 s) (fun v x hv => hv.regs (blockedRead_onlyRegs ..)) _ _ h)).regs (count64_onlyRegs ..)

/-- A pass of the audit changes neither memory nor core nor partition. -/
theorem auditPass_same (s : State) (q : Part) : Same3 s (s.auditPass q) := by
  rw [State.auditPass.eq_1]
  refine foldl_keep _ (Same3 s) (fun u x hu => auditBank_same s u x _ hu) _ _ ?_
  exact foldl_keep _ (Same3 s) (fun u x hu => auditRecord_same s u x hu) _ _ ⟨rfl, rfl, rfl⟩

theorem scheduleTest_same (s u : State) (b : Nat) (h : Same3 s u) : Same3 s (u.scheduleTest b) := by
  unfold State.scheduleTest
  split
  · exact h
  · exact ⟨h.1, h.2.1, h.2.2⟩

theorem sweep_clear (n : Nat) : ∀ (l : List Nat) (u : State),
    let v := l.foldl (fun s p => s.setField (sbdBase n + 0x200 + 4 * p) 18 1 0) u
    v.mem = u.mem ∧ v.cores = u.cores ∧ (∀ p, p ∈ l ∨ u.field (sbdBase n + 0x200 + 4 * p) 18 1 = 0 → v.field (sbdBase n + 0x200 + 4 * p) 18 1 = 0)
  | [], u => ⟨rfl, rfl, fun p h => by rcases h with h | h <;> [exact absurd h (by simp); exact h]⟩
  | x :: l, u => by
    rw [List.foldl_cons]
    have e1 : (u.setField (sbdBase n + 0x200 + 4 * x) 18 1 0).field (sbdBase n + 0x200 + 4 * x) 18 1 = 0 := field_setField u _ 18 1 0 (by decide)
    have e2 : ∀ p, p ≠ x → (u.setField (sbdBase n + 0x200 + 4 * x) 18 1 0).field (sbdBase n + 0x200 + 4 * p) 18 1 = u.field (sbdBase n + 0x200 + 4 * p) 18 1 :=
      fun p hp => field_setField_ne u _ _ 18 1 0 18 1 (by omega)
    have e3 : (u.setField (sbdBase n + 0x200 + 4 * x) 18 1 0).mem = u.mem := by simp
    have e4 : (u.setField (sbdBase n + 0x200 + 4 * x) 18 1 0).cores = u.cores := by simp
    generalize u.setField (sbdBase n + 0x200 + 4 * x) 18 1 0 = w at *
    obtain ⟨a, b, c⟩ := sweep_clear n l w
    refine ⟨a.trans e3, b.trans e4, fun p hp => c p ?_⟩
    by_cases hx : p = x
    · subst hx; exact .inr e1
    · rcases hp with hp | hp
      · exact .inl ((List.mem_cons.mp hp).resolve_left hx)
      · exact .inr ((e2 p hx).trans hp)

theorem endPasses_parts (s : State) (n p : Nat) (cs : List Nat) : (s.endPasses n p cs).parts = s.parts := rfl

theorem endPasses_mem (s : State) (n p : Nat) (cs : List Nat) : (s.endPasses n p cs).mem = s.mem := rfl

theorem endPasses_cores (s : State) (n p : Nat) (cs : List Nat) : (s.endPasses n p cs).cores = s.cores := rfl

theorem discardAt_parts (s : State) (n p : Nat) (q : Part) : (s.discardAt n p q).parts = s.parts := by
  rw [State.discardAt.eq_1, setField_parts, setField_parts, setField_parts]; rfl

theorem discardAt_mem (s : State) (n p : Nat) (q : Part) : (s.discardAt n p q).mem = s.mem := by
  rw [State.discardAt.eq_1, setField_mem, setField_mem, setField_mem]; rfl

theorem discardAt_cores (s : State) (n p : Nat) (q : Part) : (s.discardAt n p q).cores = s.cores := by
  rw [State.discardAt.eq_1, setField_cores, setField_cores, setField_cores]; rfl

theorem modPart_answer (u s : State) (p : Nat) (q : Part) (f : Part → Part) (h : u.parts = s.parts ∧ u.mem = s.mem ∧ u.cores = s.cores) (hq : s.part p = some q) :
    ∃ t, answer s (u.modPart p f) = .next t ∧ t.part p = some (f q) ∧ t.mem = s.mem ∧ t.cores = s.cores := by
  have w1 : u.part p = some q := by unfold State.part at hq ⊢; rw [h.1]; exact hq
  refine ⟨_, rfl, ?_⟩
  rw [keeping_at_part, keeping_mem, keeping_cores]
  unfold State.modPart
  rw [w1]
  exact ⟨(part_setPart u p p _).trans (if_pos rfl), h.2.1, h.2.2⟩

theorem memByte_filter (f : Nat → Bool) : ∀ (m : List Host.Cell) (a : Nat), memByte (m.filter fun c => f c.1) a = if f a then memByte m a else 0
  | [], a => by simp [memByte, tget, unlistedByte]
  | c :: m, a => by
    have ih := memByte_filter f m a
    unfold memByte at ih ⊢
    rw [List.filter_cons]
    by_cases hc : f c.1 = true
    · rw [if_pos hc]
      by_cases ha : a = c.1
      · subst ha; simp [tget, hc]
      · simp only [tget, ha, if_false]; exact ih
    · rw [if_neg hc]
      by_cases ha : a = c.1
      · subst ha; rw [ih, if_neg hc, if_neg hc]
      · rw [ih]; simp only [tget, ha, if_false]

theorem setPanelState_regs (s : State) (v : Nat) : (s.setPanelState v).regs = s.regs ∧ (s.setPanelState v).mem = s.mem ∧ (s.setPanelState v).cores = s.cores ∧ (s.setPanelState v).stackTbl = s.stackTbl := by
  unfold State.setPanelState
  split
  · exact ⟨rfl, rfl, rfl, rfl⟩
  · dsimp only
    have h0 : ∀ u : State, u = s.setMgtField 8 0 3 v → u.regs = s.regs ∧ u.mem = s.mem ∧ u.cores = s.cores ∧ u.stackTbl = s.stackTbl := fun u hu => by rw [hu]; exact ⟨rfl, rfl, rfl, rfl⟩
    generalize hu : s.setMgtField 8 0 3 v = u
    have h1 := h0 u hu.symm
    split
    · have h2 := signal_onlyEvents u (u.mgtField 0x30 0 11) false
      have h3 := signal_regs u (u.mgtField 0x30 0 11) false
      refine ⟨h3.trans h1.1, ?_, ?_, ?_⟩
      · rw [h2]; exact h1.2.1
      · rw [h2]; exact h1.2.2.1
      · rw [h2]; exact h1.2.2.2
    · exact h1

theorem setTemps_spec (s : State) (die i : Nat) (t : List Nat) (a : Nat) (ha : a < thmBase) :
    (s.setTemps die i t).reg a = s.reg a ∧ (s.setTemps die i t).mem = s.mem ∧ (s.setTemps die i t).evr = s.evr ∧ (s.setTemps die i t).stackTbl = s.stackTbl
      ∧ (s.setTemps die i t).now = s.now := by
  unfold State.setTemps
  dsimp only
  have h0 : ∀ (u : State) b lo w v, thmBase ≤ b → (u.setField b lo w v).reg a = u.reg a := fun u b lo w v hb => reg_setField_ne u b a lo w v (by omega)
  have hb1 : thmBase ≤ thmBase + 0x100 + 4 * die := by omega
  have hb2 : thmBase ≤ thmBase := Nat.le_refl _
  generalize thmBase + 0x100 + 4 * die = b at *
  generalize thmBase = c at *
  refine ⟨?_, ?_, ?_, ?_, ?_⟩
  · simp only [h0 _ _ _ _ _ hb1, h0 _ _ _ _ _ hb2]; rfl
  · simp only [setField_mem]
  · simp only [setField_evr]
  · simp only [setField_stackTbl]
  · simp only [setField_now]

theorem temp_end (v : State) (n b x y m : Nat) (X : Stack) (b1 b2 : Bool) (hb : b ≠ n) :
    (((((v.stackHeat b1 b2).setField b 4 3 x).setField b 7 1 y).setStack m X).stack m = X)
    ∧ (((((v.stackHeat b1 b2).setField b 4 3 x).setField b 7 1 y).setStack m X).field n 0 8 = v.field n 0 8)
    ∧ (((((v.stackHeat b1 b2).setField b 4 3 x).setField b 7 1 y).setStack m X).mem = v.mem)
    ∧ (((((v.stackHeat b1 b2).setField b 4 3 x).setField b 7 1 y).setStack m X).evr = v.evr) := by
  have h1 : (v.stackHeat b1 b2).field = v.field := rfl
  have h2 : (v.stackHeat b1 b2).mem = v.mem := rfl
  have h3 : (v.stackHeat b1 b2).evr = v.evr := rfl
  generalize v.stackHeat b1 b2 = w at *
  refine ⟨by rw [stack_setStack, if_pos rfl], ?_, ?_, ?_⟩
  · have : ∀ u : State, (u.setStack m X).field = u.field := fun _ => rfl
    rw [this, field_setField_ne _ _ _ _ _ _ _ _ hb, field_setField_ne _ _ _ _ _ _ _ _ hb, h1]
  · rw [setStack_mem, setField_mem, setField_mem, h2]
  · rw [setStack_evr, setField_evr, setField_evr, h3]

end Sys2Proof.Laws
end

