-- ==== Sys2Proof/Laws/Net.lean ====
section
/-! SUPPORT. Packets, seams and links: what launching, training and losing a link leave. -/

namespace Sys2Proof.Laws

open Sys2Proof Sys2Proof.Machine Sys2Proof.Safety

theorem find_setSend (s : State) (f : SendFlow) : (s.setSend f).sendFlow f.key = some f := by
  unfold State.setSend State.sendFlow
  dsimp only
  split
  · rename_i h
    generalize s.sends = l at h
    induction l with
    | nil => simp at h
    | cons x l ih =>
      rw [List.map_cons, List.find?_cons]
      by_cases e : x.key = f.key
      · simp [e]
      · rw [if_neg e]
        simp only [e, decide_false]
        exact ih (by simpa [e] using h)
  · rename_i h
    rw [List.find?_append]
    have : List.find? (fun g => decide (g.key = f.key)) s.sends = none := by
      rw [List.find?_eq_none]
      intro x hx hc
      exact h (List.any_eq_true.mpr ⟨x, hx, hc⟩)
    rw [this]
    simp

theorem find_setSend' (s : State) (f : SendFlow) (k : FlowKey) (h : f.key = k) : (s.setSend f).sends.find? (fun g => decide (g.key = k)) = some f := by
  subst h; exact find_setSend s f

theorem replaced_fold (p : PortRef) (n : Nat) (hn : n < 256) : ∀ (l : List PortRef) (u : State), (p ∈ l ∨ u.replaced p = n) →
    (l.foldl (fun s q => s.setField (portReg q 0x38) 8 8 n) u).replaced p = n
  | [], u, h => h.resolve_left (by simp)
  | x :: l, u, h => by
    rw [List.foldl_cons]
    refine replaced_fold p n hn l _ ?_
    have same : ∀ a b, a = b → (u.setField a 8 8 n).field b 8 8 = n := fun a b e => by
      subst e; rw [field_setField _ _ _ _ _ (by decide)]; exact Nat.mod_eq_of_lt hn
    rcases h with h | h
    · rcases List.mem_cons.mp h with h | h
      · exact .inr (same _ _ (by rw [h]))
      · exact .inl h
    · right
      by_cases e : portReg x 0x38 = portReg p 0x38
      · exact same _ _ e
      · show State.field _ _ _ _ = _
        rw [field_setField_ne _ _ _ _ _ _ _ _ e]; exact h

theorem retireDie_half (s : State) (a b : Nat) (c : Option Nat) (d : Bool) : (s.retireDie a b c d).sparing.halfSeams = s.sparing.halfSeams := by
  unfold State.retireDie
  split
  · rfl
  · refine foldl_keep _ (fun u => u.sparing.halfSeams = s.sparing.halfSeams) (fun u x hu => ?_) _ _ rfl
    rw [show (u.modPart x _).sparing = u.sparing from by unfold State.modPart; split <;> rfl]
    exact hu

theorem setPanelState_half (s : State) (v : Nat) : (s.setPanelState v).sparing.halfSeams = s.sparing.halfSeams := by
  unfold State.setPanelState
  dsimp only
  repeat' split
  all_goals first
    | rfl
    | (rw [signal_onlyEvents]; rfl)

theorem mgt_setMgt_ne (s : State) (a b : Nat) (v : Word) (h : b ≠ a) : (s.setMgt a v).mgt b = s.mgt b := by
  rw [mgt_setMgt, if_neg (Ne.symm h)]

theorem pulse_mgt (s : State) (a : Nat) : s.pulse.mgt a = s.mgt a := by
  unfold State.pulse
  repeat' split
  all_goals rfl

theorem setMgtField_mgt (s : State) (o lo w v a : Nat) (h : a ≠ o) : (s.setMgtField o lo w v).mgt a = s.mgt a := by
  unfold State.setMgtField
  exact mgt_setMgt_ne _ _ _ _ h

theorem signal_mgt (s : State) (v : Nat) (p : Bool) (a : Nat) (h : a < 0x308000) : (s.signal v p).mgt a = s.mgt a := by
  have hs : ∀ lo w x, (s.setMgtField (0x308000 + v / 32 * 4) lo w x).mgt a = s.mgt a := fun lo w x => setMgtField_mgt _ _ _ _ _ _ (by omega)
  unfold State.signal
  dsimp only
  split
  · rfl
  · split
    · split
      · rw [pulse_mgt, hs]
      · exact hs ..
    · rfl

theorem alarm_mgt (s : State) (v a : Nat) (h : a < 0x308000) : (s.alarm v).mgt a = s.mgt a := by
  unfold State.alarm
  dsimp only
  repeat' split
  all_goals first
    | rfl
    | exact signal_mgt _ _ _ _ h
    | exact pulse_mgt _ _

theorem record_mgt (s : State) (code sev part region : Nat) (sub : Subject) (data : Bytes) (a : Nat) (h1 : a ≠ 0x18) (h2 : a < 0x308000) :
    (s.record code sev part region sub data).mgt a = s.mgt a := by
  have hk : ∀ (u : State) e buf, (u.keepRecord e buf).mgt a = u.mgt a := fun u e buf => by
    unfold State.keepRecord; rw [alarm_mgt _ _ _ h2, mgt_setMgt_ne _ _ _ _ h1]; rfl
  have hc : ∀ (u : State) b n, (u.count b n).mgt a = u.mgt a := fun u b n => by unfold State.mgt; rw [count_bar0]
  unfold State.record
  dsimp only
  split
  · exact hk ..
  · split
    · exact hc ..
    · rw [hk]
      split
      · exact hc ..
      · rfl

theorem linkReg_ne (port o o' : Nat) (ho : o < 0x40) (ho' : o' < 0x40) (h : o ≠ o') : linkReg port o ≠ linkReg port o' := by
  unfold linkReg; omega

theorem setLink_field (s : State) (port st lo w : Nat) (hst : st < 4) :
    (s.setLink port st).field (linkReg port 0) 0 2 = st
    ∧ ((14 ≤ lo ∨ (st = 1 ∧ 2 ≤ lo)) → (s.setLink port st).field (linkReg port 0) lo w = s.field (linkReg port 0) lo w) := by
  have hb : lnkBase (port / 6) + 4 ≠ linkReg port 0 := by unfold linkReg; omega
  unfold State.setLink
  dsimp only
  constructor
  · split
    · rw [field_setField_ne _ _ _ _ _ _ _ _ hb, field_setField_ne _ _ _ _ _ _ _ _ hb, field_setField _ _ _ _ _ (by decide)]; omega
    · rw [field_setField_apart _ _ _ _ _ _ _ (by decide) (.inl (by decide)), field_setField_apart _ _ _ _ _ _ _ (by decide) (.inl (by decide)),
        field_setField_ne _ _ _ _ _ _ _ _ hb, field_setField_ne _ _ _ _ _ _ _ _ hb, field_setField _ _ _ _ _ (by decide)]; omega
  · intro h
    split
    · rw [field_setField_ne _ _ _ _ _ _ _ _ hb, field_setField_ne _ _ _ _ _ _ _ _ hb, field_setField_apart _ _ _ _ _ _ _ (by decide) (.inr (by omega))]
    · rw [field_setField_apart _ _ _ _ _ _ _ (by decide) (.inr (by omega)), field_setField_apart _ _ _ _ _ _ _ (by decide) (.inr (by omega)),
        field_setField_ne _ _ _ _ _ _ _ _ hb, field_setField_ne _ _ _ _ _ _ _ _ hb, field_setField_apart _ _ _ _ _ _ _ (by decide) (.inr (by omega))]

theorem setLink_rest (s : State) (port st : Nat) : (s.setLink port st).ports = s.ports ∧ (s.setLink port st).mem = s.mem
    ∧ (s.setLink port st).native port = s.native port := by
  have h : ∀ (u : State) a lo w v, (u.setField a lo w v).ports = u.ports ∧ (u.setField a lo w v).mem = u.mem ∧ (u.setField a lo w v).native port = u.native port :=
    fun u a lo w v => ⟨rfl, rfl, rfl⟩
  have tr : ∀ (u : State) a lo w v, (u.ports = s.ports ∧ u.mem = s.mem ∧ u.native port = s.native port) →
      ((u.setField a lo w v).ports = s.ports ∧ (u.setField a lo w v).mem = s.mem ∧ (u.setField a lo w v).native port = s.native port) :=
    fun u a lo w v hu => ⟨(h u a lo w v).1.trans hu.1, (h u a lo w v).2.1.trans hu.2.1, (h u a lo w v).2.2.trans hu.2.2⟩
  unfold State.setLink
  dsimp only
  have h3 := tr _ (lnkBase (port / 6) + 4) (6 + port % 6) 1 (b2n (decide (st = 3))) (tr _ (lnkBase (port / 6) + 4) (port % 6) 1 (b2n (decide (st = 1))) (tr s (linkReg port 0) 0 2 st ⟨rfl, rfl, rfl⟩))
  generalize State.setField _ (lnkBase (port / 6) + 4) (6 + port % 6) 1 _ = u at *
  split
  · exact h3
  · exact tr _ _ _ _ _ (tr _ _ _ _ _ h3)

theorem count64_reg (s : State) (a n b : Nat) (h1 : a ≠ b) (h2 : a + 4 ≠ b) : (s.count64 a n).reg b = s.reg b := by
  have h : ∀ v, (s.setReg64 a v).reg b = s.reg b := fun v => by
    rw [State.setReg64, reg_setReg, if_neg h2, reg_setReg, if_neg h1]
  unfold State.count64
  split
  · rfl
  · exact h _

theorem setPort_field (s : State) (p : Nat) (x : LinkPort) (a lo w : Nat) : (s.setPort p x).field a lo w = s.field a lo w := rfl

theorem setPort_native (s : State) (p : Nat) (x : LinkPort) (q : Nat) : (s.setPort p x).native q = s.native q := rfl

theorem setField_native (s : State) (a lo w v q : Nat) : (s.setField a lo w v).native q = s.native q := rfl

theorem count_native (s : State) (a n q : Nat) : (s.count a n).native q = s.native q := by unfold State.count; split <;> rfl

theorem record_native (s : State) (a b c d : Nat) (e : Subject) (f : Bytes) (q : Nat) : (s.record a b c d e f).native q = s.native q := by
  have hb : (s.record a b c d e f).isBridge = s.isBridge := by
    unfold State.isBridge State.mgtField
    rw [record_mgt _ _ _ _ _ _ _ _ (by decide) (by decide)]
  have hl : (s.record a b c d e f).linkLost (q / 6) = s.linkLost (q / 6) := by
    unfold State.linkLost; rw [record_onlyEvents]
  unfold State.native
  rw [hb, hl]

theorem agreed_le {m : Nat × Nat} {a b : Nat} {w : Nat × Nat} (h : agreed m a b = some w) : w.1 < 16 ∧ w.2 < 256 := by
  unfold agreed at h
  dsimp only at h
  split at h
  · rename_i hc
    injection h with h
    subst h
    have : ∀ x ∈ laneSets, x.1 < 16 ∧ x.2 < 256 := by decide
    exact this _ (List.contains_iff_mem.mp (Bool.and_eq_true_iff.mp hc).1)
  · cases h

theorem setField_at_port' (s : State) (a lo w v q : Nat) : (s.setField a lo w v).port q = s.port q := by unfold State.port; rw [setField_ports]

theorem setSend_other (s : State) (f : SendFlow) (k : FlowKey) (h : f.key ≠ k) : (s.setSend f).sendFlow k = s.sendFlow k := by
  unfold State.setSend State.sendFlow
  dsimp only
  split
  · generalize s.sends = l
    induction l with
    | nil => rfl
    | cons x l ih =>
      rw [List.map_cons, List.find?_cons, List.find?_cons]
      by_cases e : x.key = f.key
      · rw [if_pos e, show decide (f.key = k) = false from by simp [h], show decide (x.key = k) = false from by simp [e, h]]; exact ih
      · rw [if_neg e]
        split
        · rfl
        · exact ih
  · rw [List.find?_append]
    simp [h]

theorem arrives_ctxOf (s : State) (p : Packet) (d : BitVec 24) : (s.arrives p).ctxOf d = s.ctxOf d := by
  unfold State.arrives; split <;> rfl

theorem setPcie_fields (s : State) (b : Bool) : (s.setPcie b).sparing = s.sparing ∧ (s.setPcie b).ctxs = s.ctxs ∧ (s.setPcie b).mem = s.mem ∧ (s.setPcie b).cores = s.cores := by
  unfold State.setPcie
  dsimp only
  split
  · rw [pulse_onlyEvents]; exact ⟨rfl, rfl, rfl, rfl⟩
  · exact ⟨rfl, rfl, rfl, rfl⟩

theorem setPanelState_fields (s : State) (v : Nat) : (s.setPanelState v).sparing = s.sparing ∧ (s.setPanelState v).ctxs = s.ctxs ∧ (s.setPanelState v).mem = s.mem ∧ (s.setPanelState v).cores = s.cores := by
  have h : OnlyEvents s (s.setPanelState v) := by
    unfold State.setPanelState
    exact .ite (.self s) (.ite ((setMgtField_onlyEvents ..).trans (signal_onlyEvents ..)) (setMgtField_onlyEvents ..))
  rw [h]; exact ⟨rfl, rfl, rfl, rfl⟩

theorem refreshState_fields (s : State) : s.refreshState.sparing = s.sparing ∧ s.refreshState.ctxs = s.ctxs ∧ s.refreshState.mem = s.mem ∧ s.refreshState.cores = s.cores := by
  unfold State.refreshState
  dsimp only
  split
  · exact setPanelState_fields ..
  · exact ⟨rfl, rfl, rfl, rfl⟩

theorem setLink_more (s : State) (port st : Nat) : (s.setLink port st).sparing = s.sparing ∧ (s.setLink port st).ctxs = s.ctxs ∧ (s.setLink port st).mem = s.mem ∧ (s.setLink port st).cores = s.cores := by
  have tr : ∀ (u : State) a lo w v, (u.sparing = s.sparing ∧ u.ctxs = s.ctxs ∧ u.mem = s.mem ∧ u.cores = s.cores) →
      ((u.setField a lo w v).sparing = s.sparing ∧ (u.setField a lo w v).ctxs = s.ctxs ∧ (u.setField a lo w v).mem = s.mem ∧ (u.setField a lo w v).cores = s.cores) :=
    fun u a lo w v hu => hu
  unfold State.setLink
  dsimp only
  have h3 := tr _ (lnkBase (port / 6) + 4) (6 + port % 6) 1 (b2n (decide (st = 3))) (tr _ (lnkBase (port / 6) + 4) (port % 6) 1 (b2n (decide (st = 1))) (tr s (linkReg port 0) 0 2 st ⟨rfl, rfl, rfl, rfl⟩))
  generalize State.setField _ (lnkBase (port / 6) + 4) (6 + port % 6) 1 _ = u at *
  split
  · exact h3
  · exact tr _ _ _ _ _ (tr _ _ _ _ _ h3)

def SameFour (s u : State) : Prop := u.sparing = s.sparing ∧ u.ctxs = s.ctxs ∧ u.mem = s.mem ∧ u.cores = s.cores

theorem SameFour.port {s u : State} (h : SameFour s u) (p : Nat) (x : LinkPort) : SameFour s (u.setPort p x) := h

theorem SameFour.link {s u : State} (h : SameFour s u) (p st : Nat) : SameFour s (u.setLink p st) := by
  obtain ⟨a, b, c, d⟩ := setLink_more u p st
  exact ⟨a.trans h.1, b.trans h.2.1, c.trans h.2.2.1, d.trans h.2.2.2⟩

theorem clearPorts_fields (s : State) (die : Nat) : SameFour s ((List.range 6).foldl (fun s j =>
      (s.setLink (die * 6 + j) 0).setPort (die * 6 + j) { cable := (s.port (die * 6 + j)).cable, cablePwr := (s.port (die * 6 + j)).cablePwr }) s) :=
  foldl_keep _ (SameFour s) (fun _ _ hu => (hu.link _ _).port _ _) _ _ ⟨rfl, rfl, rfl, rfl⟩

end Sys2Proof.Laws
end

