-- ==== Sys2Proof/Laws/Host.lean ====
section
/-! SUPPORT. Commands of the host: when one runs here, and what a reset of the panel leaves. -/

namespace Sys2Proof.Laws

open Sys2Proof Sys2Proof.Machine Sys2Proof.Safety

theorem runCmd_eq {s : State} {id op : Nat} {c : Started} (h : dispatched s id op c) (io : HostIo) (f : Started → State) : s.runCmd id op io f = f c := by
  obtain ⟨h1, h2, h3, h4, h5⟩ := h
  unfold State.runCmd
  rw [h1]
  dsimp only
  rw [if_neg (by rw [h3]; simp [h2]), if_neg (by simp [h4]), if_neg (by simp [h5])]

theorem runSub_eq {s : State} {id op sub : Nat} {c : Started} (h : dispatched s id op c) (hb : c.byte 8 = sub) (io : HostIo) (f : Started → State) : s.runSub id op sub io f = f c := by
  unfold State.runSub
  rw [h.1]
  dsimp only
  rw [if_pos hb, runCmd_eq h]

theorem runFirst_eq {s : State} {id op n : Nat} {c : Started} (h : dispatched s id op c) (hb : c.byte 8 = 0) (io : HostIo) (f : Started → State) : s.runFirst id op n io f = f c := by
  unfold State.runFirst
  rw [h.1]
  dsimp only
  rw [if_pos hb, runCmd_eq h]

theorem withHost_eq {s : State} {id : Nat} {c : Started} {io : HostIo} {b : Bytes} (h : c.inputOf io = .ok b) (f : Bytes → State) : s.withHost id c io f = f b := by
  unfold State.withHost; rw [h]

theorem pulse_apWait (s : State) : s.pulse.host.apWait = s.host.apWait := by
  unfold State.pulse
  repeat' split
  all_goals rfl

theorem signal_apWait (s : State) (v : Nat) (p : Bool) : (s.signal v p).host.apWait = s.host.apWait := by
  unfold State.signal
  dsimp only
  repeat' split
  all_goals first
    | rfl
    | exact pulse_apWait _

theorem alarm_apWait (s : State) (v : Nat) : (s.alarm v).host.apWait = s.host.apWait := by
  unfold State.alarm
  dsimp only
  repeat' split
  all_goals first
    | rfl
    | exact signal_apWait ..
    | exact pulse_apWait _

theorem record_apWait (s : State) (a b c d : Nat) (e : Subject) (f : Bytes) : (s.record a b c d e f).host.apWait = s.host.apWait := by
  have hk : ∀ (u : State) e buf, (u.keepRecord e buf).host.apWait = u.host.apWait := fun u e buf => by
    unfold State.keepRecord; rw [alarm_apWait]; rfl
  unfold State.record
  dsimp only
  split
  · exact hk ..
  · split
    · rw [count_host]
    · rw [hk]
      split
      · rw [count_host]
      · rfl

theorem group_word (a b d e f g h : Nat) (ha : a < 2 ^ 36) (hb : b < 2) (hd : d < 2) (he : e < 2) (hf : f < 4) (hg : g < 8) (hh : h < 65536) :
    let v := (BitVec.ofNat 128 (a + b * 2 ^ 36 + d * 2 ^ 37 + e * 2 ^ 38 + f * 2 ^ 39 + g * 2 ^ 41 + h * 2 ^ 44)).toNat
    bits v 0 36 = a ∧ bits v 36 1 = b ∧ bits v 37 1 = d ∧ bits v 38 1 = e ∧ bits v 39 2 = f ∧ bits v 41 3 = g ∧ bits v 44 16 = h := by
  dsimp only
  rw [BitVec.toNat_ofNat, Nat.mod_eq_of_lt (by omega)]
  unfold bits
  omega

theorem leNat_lt : ∀ (l : Bytes), leNat l < 256 ^ l.length
  | [] => by simp [leNat]
  | x :: l => by
    have := leNat_lt l
    have hx := x.isLt
    simp only [leNat, List.length_cons, Nat.pow_succ]
    omega

theorem fld_lt (b : Bytes) (o n : Nat) : fld b o n < 256 ^ n := by
  unfold fld
  refine Nat.lt_of_lt_of_le (leNat_lt _) (Nat.pow_le_pow_right (by decide) ?_)
  unfold slice; simp

def Same2 (s u : State) : Prop := u.trust.ownerHash = s.trust.ownerHash ∧ u.sparing.fieldList = s.sparing.fieldList

theorem Same2.refl (s : State) : Same2 s s := ⟨rfl, rfl⟩

theorem Same2.events {s u v : State} (h : Same2 s u) (e : OnlyEvents u v) : Same2 s v := by rw [e]; exact h

theorem Same2.regs {s u v : State} (h : Same2 s u) (e : OnlyRegs u v) : Same2 s v := by rw [e]; exact h

theorem flushOne_same (s u : State) (e : Event) (h : Same2 s u) : Same2 s (u.flushOne e) := by
  unfold State.flushOne
  dsimp only
  split
  · exact h
  · split
    · exact h
    · exact h.events (count_onlyEvents ..)

theorem flushAll_same (s u : State) (b : Bool) (h : Same2 s u) : Same2 s (u.flushAll b) := by
  unfold State.flushAll
  dsimp only
  split
  · exact foldl_keep _ (Same2 s) (fun x y hx => flushOne_same s x y hx) _ _ h
  · exact Same2.events (u := u.setField _ _ _ _) h (count_onlyEvents ..)

theorem renewNonce_same (s u : State) (h : Same2 s u) : Same2 s u.renewNonce := h

theorem panelReset_fields (s : State) : let t := s.panelReset
    t.mem = [] ∧ t.parts = [] ∧ t.regions = [] ∧ t.cores = [] ∧ t.ept = [] ∧ t.host.rings = [] ∧ Same2 s t := by
  unfold State.panelReset
  dsimp only
  have h0 := renewNonce_same s _ (flushAll_same s s true (Same2.refl s))
  generalize (s.flushAll true).renewNonce = v at *
  let P (x : State) : Prop := x.mem = [] ∧ x.parts = [] ∧ x.regions = [] ∧ x.cores = [] ∧ x.ept = [] ∧ x.host.rings = [] ∧ Same2 s x
  have hf : ∀ x a lo w y, P x → P (x.setField a lo w y) := fun x a lo w y h => h
  have hm : ∀ x a lo w y, P x → P (x.setMgtField a lo w y) := fun x a lo w y h => h
  have hg : ∀ x a y, P x → P (x.setMgt a y) := fun x a y h => h
  have hv : ∀ x d a b, P x → P (x.setVpm d a b) := fun x d a b h => by
    unfold State.setVpm
    dsimp only
    split
    · exact hf _ _ _ _ _ (hf _ _ _ _ _ h)
    · exact hf _ _ _ _ _ h
  refine hv _ _ _ _ (hv _ _ _ _ (hg _ _ _ (hm _ _ _ _ _ (hm _ _ _ _ _ (hf _ _ _ _ _ (hf _ _ _ _ _ ?_))))))
  exact ⟨rfl, rfl, rfl, rfl, rfl, rfl, h0⟩

theorem entryVisible_same (s u : State) (r : Nat) (h : Same2 s u) : Same2 s (u.entryVisible r) := by
  unfold State.entryVisible
  dsimp only
  have hp : Same2 s (if ((!u.host.msixOn || !u.host.pcieUp) || (u.ringIrq r && u.masked (u.ringVec r))) = true then u.pulse else u) := by
    split
    · exact h.events (pulse_onlyEvents _)
    · exact h
  generalize (if ((!u.host.msixOn || !u.host.pcieUp) || (u.ringIrq r && u.masked (u.ringVec r))) = true then u.pulse else u) = v at *
  split
  · exact hp
  · split
    · exact Same2.events (u := (v.setRing r _).setRing r _) hp (signal_onlyEvents ..)
    · exact hp

end Sys2Proof.Laws
end

