-- ==== Sys2Proof/Laws/Panel.lean ====
section
/-! SUPPORT. Power, clocks and heat: what a feed, a wake, a step of the clock and a sample leave. -/

namespace Sys2Proof.Laws

open Sys2Proof Sys2Proof.Machine Sys2Proof.Safety

theorem flushAll_opTime (s : State) (b : Bool) : (s.flushAll b).trust = s.trust := by
  unfold State.flushAll
  dsimp only
  split
  · refine foldl_keep State.flushOne (fun u => u.trust = s.trust) (fun u e hu => ?_) _ (s.setField evrBase 0 1 (b2n b)) rfl
    unfold State.flushOne
    dsimp only
    split
    · exact hu
    · split
      · exact hu
      · rw [count_onlyEvents]; exact hu
  · rw [count_onlyEvents]; rfl

theorem panelReset_opTime (s : State) : s.panelReset.trust.opTime = s.trust.opTime := by
  unfold State.panelReset
  dsimp only
  have h0 : (s.flushAll true).renewNonce.trust.opTime = s.trust.opTime := by
    show (s.flushAll true).trust.opTime = _; rw [flushAll_opTime]
  generalize (s.flushAll true).renewNonce = v at *
  let P (x : State) : Prop := x.trust.opTime = s.trust.opTime
  have hf : ∀ x a lo w y, P x → P (x.setField a lo w y) := fun x a lo w y h => h
  have hm : ∀ x a lo w y, P x → P (x.setMgtField a lo w y) := fun x a lo w y h => h
  have hg : ∀ x a y, P x → P (x.setMgt a y) := fun x a y h => h
  have hv : ∀ x d a b, P x → P (x.setVpm d a b) := fun x d a b h => by
    unfold State.setVpm
    dsimp only
    split
    · exact hf _ _ _ _ _ (hf _ _ _ _ _ h)
    · exact hf _ _ _ _ _ h
  refine hv _ _ _ _ (hv _ _ _ _ (hg _ _ _ (hm _ _ _ _ _ (hm _ _ _ _ _ (hf _ _ _ _ _ (hf _ _ _ _ _ ?_))))))
  exact h0

theorem setFeed_keeps (s : State) (f : Feed) (x : FeedState) : (s.setFeed f x).power = (match f with | .a => { s.power with feedA := x } | .b => { s.power with feedB := x })
    ∧ (s.setFeed f x).mem = s.mem ∧ (s.setFeed f x).cores = s.cores := by
  unfold State.setFeed
  simp only [setField_power, setField_mem, setField_cores]
  cases f <;> simp

theorem pwrClu_ne (c a : Nat) (h : a < pwrBase + 0x400) : pwrClu c ≠ a := by unfold pwrClu; omega

theorem pwrClu_ne' (c a : Nat) (h : a < pwrBase + 0x400) : a ≠ pwrClu c := by unfold pwrClu; omega

theorem pwrClu_inj (c d : Nat) (h : c ≠ d) : pwrClu c ≠ pwrClu d := by unfold pwrClu; omega

theorem powerOf_setPower (s : State) (c d v : Nat) : (s.setPower c v).power? d = if c = d then v % 4 else s.power? d := by
  unfold State.setPower State.power?
  split
  · rename_i h; subst h; rw [field_setField _ _ _ _ _ (by omega)]; rfl
  · rename_i h; rw [field_setField_ne _ _ _ _ _ _ _ _ (pwrClu_inj _ _ h)]

theorem refreshCap_keeps (s : State) (c : Nat) : (s.refreshCap c).power = s.power ∧ (s.refreshCap c).mem = s.mem ∧ (s.refreshCap c).cores = s.cores
    ∧ (s.refreshCap c).parts = s.parts ∧ (s.refreshCap c).power? c = s.power? c ∧ (s.refreshCap c).field (pwrClu c) 15 1 = s.field (pwrClu c) 15 1 := by
  unfold State.refreshCap
  simp only [setField_power, setField_mem, setField_cores, setField_parts, true_and]
  unfold State.power?
  constructor
  · rw [field_setField_apart _ _ _ _ _ _ _ (by omega) (by omega), field_setField_apart _ _ _ _ _ _ _ (by omega) (by omega), field_setField_apart _ _ _ _ _ _ _ (by omega) (by omega)]
  · rw [field_setField_apart _ _ _ _ _ _ _ (by omega) (by omega), field_setField_apart _ _ _ _ _ _ _ (by omega) (by omega), field_setField_apart _ _ _ _ _ _ _ (by omega) (by omega)]

theorem wake_fields (s : State) (c : Nat) : (s.wake c).power? c = 2 ∧ (s.wake c).field (pwrClu c) 15 1 = 0 ∧ tget none (s.wake c).power.wakes c = none
    ∧ tget none (s.wake c).power.lastWake (s.dieOfCluster c) = some s.now
    ∧ (s.wake c).mem = (if s.power? c = 0 then memZero s.mem (sramBase c) 0x1000000 else s.mem) ∧ (s.wake c).cores = s.cores ∧ (s.wake c).parts = s.parts := by
  unfold State.wake
  dsimp only
  have h0 : (if s.power? c = 0 then ({ s with mem := memZero s.mem (sramBase c) 0x1000000 } : State) else s)
      = { s with mem := if s.power? c = 0 then memZero s.mem (sramBase c) 0x1000000 else s.mem } := by split <;> rfl
  rw [h0]
  generalize (if s.power? c = 0 then memZero s.mem (sramBase c) 0x1000000 else s.mem) = m
  have hp : ((({ s with mem := m } : State).setPower c 2).setField (pwrClu c) 15 1 0).setField (pwrClu c) 2 3 3 = ((({ s with mem := m } : State).setField (pwrClu c) 0 2 2).setField (pwrClu c) 15 1 0).setField (pwrClu c) 2 3 3 := rfl
  have d0 : ∀ u : State, u.sparing = s.sparing → u.dieOfCluster c = s.dieOfCluster c := fun u hu => by
    unfold State.dieOfCluster State.blk State.dieSite State.unassigned; rw [hu]
  have k1 : (((({ s with mem := m } : State).setPower c 2).setField (pwrClu c) 15 1 0).setField (pwrClu c) 2 3 3).power? c = 2 := by
    rw [hp]; unfold State.power?
    rw [field_setField_apart _ _ _ _ _ _ _ (by omega) (by omega), field_setField_apart _ _ _ _ _ _ _ (by omega) (by omega), field_setField _ _ _ _ _ (by omega)]; rfl
  have k2 : (((({ s with mem := m } : State).setPower c 2).setField (pwrClu c) 15 1 0).setField (pwrClu c) 2 3 3).field (pwrClu c) 15 1 = 0 := by
    rw [field_setField_apart _ _ _ _ _ _ _ (by omega) (by omega), field_setField _ _ _ _ _ (by omega)]; rfl
  have k3 : (((({ s with mem := m } : State).setPower c 2).setField (pwrClu c) 15 1 0).setField (pwrClu c) 2 3 3).power = s.power := by rw [hp]; simp only [setField_power]
  have k4 : (((({ s with mem := m } : State).setPower c 2).setField (pwrClu c) 15 1 0).setField (pwrClu c) 2 3 3).mem = m ∧
    (((({ s with mem := m } : State).setPower c 2).setField (pwrClu c) 15 1 0).setField (pwrClu c) 2 3 3).cores = s.cores ∧
    (((({ s with mem := m } : State).setPower c 2).setField (pwrClu c) 15 1 0).setField (pwrClu c) 2 3 3).parts = s.parts ∧
    (((({ s with mem := m } : State).setPower c 2).setField (pwrClu c) 15 1 0).setField (pwrClu c) 2 3 3).sparing = s.sparing ∧
    (((({ s with mem := m } : State).setPower c 2).setField (pwrClu c) 15 1 0).setField (pwrClu c) 2 3 3).now = s.now := by
    rw [hp]; simp only [setField_mem, setField_cores, setField_parts, setField_sparing, setField_now, and_self]
  generalize State.setField _ (pwrClu c) 2 3 3 = u at *
  rw [d0 u k4.2.2.2.1]
  generalize hw : ({ u with power := _ } : State) = w
  have w1 : w.power? c = 2 := by rw [← hw]; exact k1
  have w2 : w.field (pwrClu c) 15 1 = 0 := by rw [← hw]; exact k2
  have w3 : w.mem = m ∧ w.cores = s.cores ∧ w.parts = s.parts := by rw [← hw]; exact ⟨k4.1, k4.2.1, k4.2.2.1⟩
  have w4 : tget none w.power.wakes c = none ∧ tget none w.power.lastWake (s.dieOfCluster c) = some s.now := by
    rw [← hw]; dsimp only; rw [tget_tset, if_pos rfl, tget_tset, if_pos rfl, k4.2.2.2.2]; exact ⟨rfl, rfl⟩
  have hc : OnlyRegs (w.takeSlew wakeRise) ((w.takeSlew wakeRise).count64 (pwrBase + 0x20) 1) := count64_onlyRegs ..
  have x1 : ((w.takeSlew wakeRise).count64 (pwrBase + 0x20) 1).reg (pwrClu c) = w.reg (pwrClu c) := by
    rw [count64_reg _ _ _ _ (pwrClu_ne' _ _ (by omega)) (pwrClu_ne' _ _ (by omega))]; rfl
  generalize (w.takeSlew wakeRise).count64 (pwrBase + 0x20) 1 = x at *
  obtain ⟨r1, r2, r3, r4, r5, r6⟩ := refreshCap_keeps x c
  rw [r1, r2, r3, r4, r5, r6]
  refine ⟨?_, ?_, ?_, ?_, ?_, ?_, ?_⟩
  · unfold State.power? State.field; rw [x1]; exact w1
  · unfold State.field; rw [x1]; exact w2
  · rw [hc]; exact w4.1
  · rw [hc]; exact w4.2
  · rw [hc]; exact w3.1
  · rw [hc]; exact w3.2.1
  · rw [hc]; exact w3.2.2

theorem wakePending_asks (s : State) (c : Nat) (h : s.wakePending c = true) : s.field (pwrClu c) 15 1 = 1 := by
  unfold State.wakePending at h
  simp only [Bool.and_eq_true, decide_eq_true_eq] at h
  exact h.1.1.1

theorem foldl_member {α : Type} (g : State → α → State) (P : State → Prop) : ∀ (l : List α), (∀ s x, x ∈ l → P s → P (g s x)) → ∀ s, P s → P (l.foldl g s)
  | [], _, _, h => h
  | x :: l, hg, s, h => foldl_member g P l (fun s y hy => hg s y (List.mem_cons_of_mem _ hy)) (g s x) (hg s x List.mem_cons_self h)

def OnlyTheirs (c : Nat) (s u : State) : Prop :=
  u.mem = s.mem ∧ u.parts = s.parts ∧ (∀ h, h / 32 ≠ c → u.core h = s.core h) ∧ ∀ h, h / 32 = c → (u.core h).pet = (s.core h).pet

theorem OnlyTheirs.set {c : Nat} {s u : State} (hu : OnlyTheirs c s u) (x : Nat) (hx : x / 32 = c) (k : Core) (hk : k.pet = (u.core x).pet) : OnlyTheirs c s (u.setCore x k) := by
  obtain ⟨a, b, d, e⟩ := hu
  refine ⟨a, b, fun h hh => ?_, fun h hh => ?_⟩
  · have : x ≠ h := fun k => hh (k ▸ hx)
    rw [core_setCore, if_neg this]; exact d h hh
  · rw [core_setCore]
    split
    · rename_i k; subst k; rw [hk]; exact e x hh
    · exact e h hh

theorem r1 (s : State) (c : Nat) : OnlyTheirs c s (s.retain c) := by
  have hm : ∀ h ∈ hartsOf c, h / 32 = c := fun h hh => by unfold hartsOf at hh; simp only [List.mem_map, List.mem_range] at hh; obtain ⟨i, hi, rfl⟩ := hh; omega
  have h0 : OnlyTheirs c s s := ⟨rfl, rfl, fun _ _ => rfl, fun _ _ => rfl⟩
  have fin : ∀ u, OnlyTheirs c s u → OnlyTheirs c s (u.setPower c 1) := fun u hu => hu
  unfold State.retain
  refine fin _ ?_
  refine foldl_member _ _ _ (fun u x hx hu => ?_) _ h0
  exact hu.set x (hm x hx) _ (by unfold Core.pet; with_reducible rfl)

theorem r2 (s : State) (c : Nat) : (s.retain c).power? c = 1 := by
  unfold State.retain
  exact (powerOf_setPower _ _ _ _).trans (if_pos rfl)

theorem retain_fields (s : State) (c : Nat) : (s.retain c).power? c = 1 ∧ (s.retain c).mem = s.mem ∧ (s.retain c).parts = s.parts
    ∧ (∀ h, h / 32 ≠ c → (s.retain c).core h = s.core h) ∧ ∀ h, h / 32 = c → ((s.retain c).core h).pet = (s.core h).pet := by
  have a := r1 s c
  have b := r2 s c
  generalize s.retain c = u at *
  exact ⟨b, a⟩

theorem requestWake_fields (s : State) (c : Nat) (h : ¬ (2 ≤ s.power? c ∨ s.field (pwrClu c) 15 1 = 1)) :
    (s.requestWake c).field (pwrClu c) 15 1 = 1 ∧ tget none (s.requestWake c).power.wakes c = some s.now ∧ (s.requestWake c).power? c = s.power? c
      ∧ (s.requestWake c).mem = s.mem ∧ (s.requestWake c).cores = s.cores := by
  unfold State.requestWake
  rw [if_neg h]
  have k1 : (s.setField (pwrClu c) 15 1 1).field (pwrClu c) 15 1 = 1 := by rw [field_setField _ _ _ _ _ (by omega)]; rfl
  have k2 : (s.setField (pwrClu c) 15 1 1).field (pwrClu c) 0 2 = s.field (pwrClu c) 0 2 := field_setField_apart _ _ _ _ _ _ _ (by omega) (by omega)
  have k3 := setField_mem s (pwrClu c) 15 1 1
  have k4 := setField_cores s (pwrClu c) 15 1 1
  have k5 := setField_now s (pwrClu c) 15 1 1
  generalize s.setField (pwrClu c) 15 1 1 = u at *
  refine ⟨k1, ?_, k2, k3, k4⟩
  dsimp only
  rw [tget_tset, if_pos rfl, k5]

theorem ramp_fields (s : State) (c : Nat) (h : s.field (pwrClu c) 2 3 < s.field (pwrClu c) 5 3) : let t := (s.setField (pwrClu c) 2 3 (s.field (pwrClu c) 2 3 + 1)).takeSlew stepRise
    t.field (pwrClu c) 2 3 = s.field (pwrClu c) 2 3 + 1 ∧ t.power? c = s.power? c ∧ t.power.slewUsed = s.slewNow + stepRise ∧ t.mem = s.mem ∧ t.cores = s.cores := by
  have k1 : (s.setField (pwrClu c) 2 3 (s.field (pwrClu c) 2 3 + 1)).field (pwrClu c) 2 3 = s.field (pwrClu c) 2 3 + 1 := by
    rw [field_setField _ _ _ _ _ (by omega), Nat.mod_eq_of_lt]
    have : s.field (pwrClu c) 5 3 < 8 := by unfold State.field bits; exact Nat.mod_lt _ (by decide)
    omega
  have k2 : (s.setField (pwrClu c) 2 3 (s.field (pwrClu c) 2 3 + 1)).field (pwrClu c) 0 2 = s.field (pwrClu c) 0 2 := field_setField_apart _ _ _ _ _ _ _ (by omega) (by omega)
  have k3 := setField_mem s (pwrClu c) 2 3 (s.field (pwrClu c) 2 3 + 1)
  have k4 := setField_cores s (pwrClu c) 2 3 (s.field (pwrClu c) 2 3 + 1)
  have k5 := setField_now s (pwrClu c) 2 3 (s.field (pwrClu c) 2 3 + 1)
  have k6 := setField_power s (pwrClu c) 2 3 (s.field (pwrClu c) 2 3 + 1)
  generalize s.setField (pwrClu c) 2 3 (s.field (pwrClu c) 2 3 + 1) = u at *
  refine ⟨k1, k2, ?_, k3, k4⟩
  show u.slewNow + stepRise = s.slewNow + stepRise
  unfold State.slewNow
  rw [k5, k6]

theorem kp_power (x s : State) (c : Nat) : (x.keeping s).power? c = x.power? c := rfl

theorem kp_field (x s : State) (a lo w : Nat) : (x.keeping s).field a lo w = x.field a lo w := rfl

theorem kp_core (x s : State) (h : Nat) : (x.keeping s).core h = x.core h := rfl

theorem answer_keeping (s t : State) : answer s t = .next (t.keeping s) := rfl

theorem kp_reg (x s : State) (a : Nat) : (x.keeping s).reg a = x.reg a := rfl

def SameHeat (s u : State) : Prop := u.mem = s.mem ∧ u.cores = s.cores ∧ u.power.thermCap = s.power.thermCap ∧ u.power.coolSince = s.power.coolSince ∧ u.now = s.now

theorem SameHeat.field {s u : State} (h : SameHeat s u) (a lo w v : Nat) : SameHeat s (u.setField a lo w v) := by
  obtain ⟨a1, a2, a3, a4, a5⟩ := h
  exact ⟨a1, a2, by rw [setField_power]; exact a3, by rw [setField_power]; exact a4, a5⟩

theorem setTemps_same (s : State) (d i : Nat) (t : List Nat) : SameHeat s (s.setTemps d i t) := by
  unfold State.setTemps
  dsimp only
  exact (((SameHeat.field (⟨rfl, rfl, rfl, rfl, rfl⟩) _ _ _ _).field _ _ _ _).field _ _ _ _).field _ _ _ _

theorem refreshCap_same (s : State) (c : Nat) : SameHeat s (s.refreshCap c) := by
  unfold State.refreshCap
  dsimp only
  exact ((SameHeat.field ⟨rfl, rfl, rfl, rfl, rfl⟩ _ _ _ _).field _ _ _ _).field _ _ _ _

theorem noteThrottle_same (s u : State) (c q : Nat) (t : List Nat) (hot : Nat) (h : SameHeat s u) : SameHeat s (u.noteThrottle c q t hot) := by
  unfold State.noteThrottle
  split
  · exact h
  · split
    · exact h
    · split
      · exact h
      · rw [record_onlyEvents]; exact h

theorem setThermCap_caps (s : State) (c v : Nat) : (s.setThermCap c v).mem = s.mem ∧ (s.setThermCap c v).cores = s.cores
    ∧ (s.setThermCap c v).thermCap c = v ∧ (s.setThermCap c v).power.coolSince = s.power.coolSince := by
  unfold State.setThermCap
  obtain ⟨a, b, d, e, f⟩ := refreshCap_same ({ s with power := { s.power with thermCap := tset 7 s.power.thermCap c v } }) c
  refine ⟨a, b, ?_, e⟩
  unfold State.thermCap
  rw [d]
  dsimp only
  rw [tget_tset, if_pos rfl]

theorem throttle_caps (s u : State) (c hot : Nat) (h : SameHeat s u) : let t := u.throttle c hot
    t.mem = s.mem ∧ t.cores = s.cores ∧ (95 ≤ hot → t.thermCap c = s.thermCap c - 1) ∧ (92 ≤ hot → hot < 95 → t.thermCap c = s.thermCap c)
    ∧ (hot < 92 → ∀ at_, tget none s.power.coolSince c = some at_ → t.thermCap c = if s.now < at_ + usec 1000 then s.thermCap c else Nat.min 7 (s.thermCap c + 1))
    ∧ (hot < 92 → tget none s.power.coolSince c = none → t.thermCap c = s.thermCap c ∧ tget none t.power.coolSince c = some s.now) := by
  obtain ⟨a1, a2, a3, a4, a5⟩ := h
  have e0 : u.thermCap c = s.thermCap c := by unfold State.thermCap; rw [a3]
  unfold State.throttle
  dsimp only
  by_cases h1 : 95 ≤ hot
  · rw [if_pos h1]
    obtain ⟨b1, b2, b3, b4⟩ := setThermCap_caps ({ u with power := { u.power with coolSince := tset none u.power.coolSince c none } }) c (u.thermCap c - 1)
    refine ⟨b1.trans a1, b2.trans a2, fun _ => ?_, fun _ _ => by omega, fun _ => by omega, fun _ => by omega⟩
    rw [b3, e0]
  · rw [if_neg h1]
    by_cases h2 : 92 ≤ hot
    · rw [if_pos h2]
      exact ⟨a1, a2, fun _ => by omega, fun _ _ => e0, fun _ => by omega, fun _ => by omega⟩
    · rw [if_neg h2, a4]
      cases hc : tget none s.power.coolSince c with
      | none =>
        refine ⟨a1, a2, fun _ => by omega, fun _ _ => by omega, (fun _ _ hh => by cases hh), fun _ _ => ⟨e0, ?_⟩⟩
        dsimp only
        rw [tget_tset, if_pos rfl, a5]
      | some w =>
        dsimp only
        rw [a5]
        by_cases h3 : s.now < w + usec 1000
        · rw [if_pos h3]
          refine ⟨a1, a2, fun _ => by omega, fun _ _ => by omega, fun _ x hx => ?_, fun _ hx => (by cases hx)⟩
          cases hx; rw [if_pos h3]; exact e0
        · rw [if_neg h3]
          obtain ⟨b1, b2, b3, b4⟩ := setThermCap_caps ({ u with power := { u.power with coolSince := tset none s.power.coolSince c (some s.now) } }) c (Nat.min 7 (u.thermCap c + 1))
          refine ⟨b1.trans a1, b2.trans a2, fun _ => by omega, fun _ _ => by omega, fun _ x hx => ?_, fun _ hx => (by cases hx)⟩
          cases hx; rw [if_neg h3, ← e0]; exact b3

theorem setVpm_keeps (s : State) (d : Nat) (a b : Bool) : (s.setVpm d a b).mem = s.mem ∧ (s.setVpm d a b).trust = s.trust ∧ (s.setVpm d a b).sparing = s.sparing := by
  unfold State.setVpm
  dsimp only
  split
  · simp only [setField_mem, setField_trust, setField_sparing, and_self]
  · simp only [setField_mem, setField_trust, setField_sparing, and_self]

theorem kp_powered (x s : State) : (x.keeping s).powered = x.powered := rfl

theorem vpm_on (s : State) : ((s.setVpm 186 true false).setVpm 187 true false).powered = true := by
  unfold State.powered State.setVpm
  dsimp only
  rw [if_neg (by simp), if_neg (by simp), field_setField_ne _ _ _ _ _ _ _ _ (by omega), field_setField _ _ _ _ _ (by omega)]
  rfl

theorem flushOne_evr (u : State) (e : Event) : (u.flushOne e).evr.buf = u.evr.buf ∧ (u.flushOne e).mem = u.mem ∧ (u.flushOne e).cores = u.cores := by
  unfold State.flushOne
  dsimp only
  split
  · exact ⟨rfl, rfl, rfl⟩
  · split
    · exact ⟨rfl, rfl, rfl⟩
    · unfold State.count; split <;> exact ⟨rfl, rfl, rfl⟩

end Sys2Proof.Laws
end

