-- ==== Sys2Proof/WellFormed.lean ====
section
/-! DEFINITION. Which commands name things the panel has: harts, engines, queues, clusters, dies, stacks, ports and
table entries within the ranges that the spec numbers them by. A command outside these ranges names nothing; it is
no command of the panel. -/

namespace Sys2Proof

/-- Clusters 0 to 575 (R29). -/
def clusterOk (c : Nat) : Bool := decide (c < 576)
/-- A hart: logical cluster × 32 + logical core (R42). -/
def hartOk (h : Nat) : Bool := decide (h < 576 * 32)
/-- Cores 0 to 31 (R40), engines 0 to 4, queues 0 to 7 (R45), scalar registers 0 to 31 (R41). -/
def coreOk (k : Nat) : Bool := decide (k < 32)
def queueOk (q : Nat) : Bool := decide (q < 8)
def xregOk (r : Nat) : Bool := decide (r < 32)
/-- A matrix engine (R55). -/
def matrixOk (e : Nat) : Bool := decide (e < 4)
/-- Physical cores 0 to 33 (R40). -/
def physOk (p : Nat) : Bool := decide (p < 34)
/-- Word of a token's payload (R45). -/
def payloadWordOk (w : Nat) : Bool := decide (w < 16)
/-- Scalar access sizes (R41). -/
def sizeOk (n : Nat) : Bool := n == 1 || n == 2 || n == 4
def partOk (p : Nat) : Bool := decide (p < 64)
def regionOk (r : Nat) : Bool := decide (r < 256)
/-- Steering units 0 to 3 (R130), bulk-mover channels 0 to 15 (R187). -/
def unitOk (u : Nat) : Bool := decide (u < 4)
def chanOk (c : Nat) : Bool := decide (c < 16)
/-- Stacks 0 to 23 (R208), pages of a stack (R217). -/
def stackOk (n : Nat) : Bool := decide (n < 24)
def pageOk (p : Nat) : Bool := decide (p < 1048576)
/-- Compute sites 0 to 155 (R26), quadrants 0 to 3 (R29). -/
def siteOk (s : Nat) : Bool := decide (s < 156)
def quadOk (q : Nat) : Bool := decide (q < 4)
/-- A router port: 0 N, 1 E, 2 S, 3 W and 4 local (R235). -/
def portRefOk (p : PortRef) : Bool := siteOk p.site && quadOk p.quad && decide (p.port < 5)
/-- Link ports L0 to L35, link dies 0 to 5 (R261). -/
def linkOk (l : Nat) : Bool := decide (l < 36)
def linkDieOk (k : Nat) : Bool := decide (k < 6)
/-- Dies in the order of R368: 156 sites, 24 stacks, six link dies, two control dies. -/
def dieOk (d : Nat) : Bool := decide (d < 188)
def ctOk (d : Nat) : Bool := decide (d < 2)
def bayOk (b : Nat) : Bool := decide (b < 10)
/-- Command rings 0 to 63 (R316). -/
def ringOk (r : Nat) : Bool := decide (r < 64)
/-- A flit is 256 bytes, its payload 232 (R266). -/
def flitOk (b : Bytes) : Bool := decide (b.length = 256)
def payloadOk (b : Bytes) : Bool := decide (b.length = 232)

/-- The command names things the panel has. -/
def Instr.wellFormed : Instr → Bool
  | .scalarInstruction h => hartOk h
  | .scalarLoad h rd rs1 _ size _ => hartOk h && xregOk rd && xregOk rs1 && sizeOk size
  | .scalarStore h rs1 rs2 _ size => hartOk h && xregOk rs1 && xregOk rs2 && sizeOk size
  | .csrAccess h _ rd rs1 _ => hartOk h && xregOk rd && xregOk rs1
  | .rngSeedWrite h _ => hartOk h
  | .qTag h rd q => hartOk h && xregOk rd && queueOk q
  | .qRdw h rd q w => hartOk h && xregOk rd && queueOk q && payloadWordOk w
  | .qPop h q => hartOk h && queueOk q
  | .qWrw h rs1 q w => hartOk h && xregOk rs1 && queueOk q && payloadWordOk w
  | .qPush h rs1 q => hartOk h && xregOk rs1 && queueOk q
  | .qFwd h qi qo => hartOk h && queueOk qi && queueOk qo
  | .qStat h rd q d => hartOk h && xregOk rd && queueOk q && decide (d < 2)
  | .lcSet h q n rs1 => hartOk h && queueOk q && decide (n < 4) && xregOk rs1
  | .lcRd h rd q n => hartOk h && xregOk rd && queueOk q && decide (n < 4)
  | .eIssue h e rs1 rs2 => hartOk h && decide (e < 5) && xregOk rs1 && xregOk rs2
  | .eWait h _ => hartOk h
  | .eStat h rd => hartOk h && xregOk rd
  | .pYield h => hartOk h
  | .rnd h rd => hartOk h && xregOk rd
  | .coreWaitReleased h => hartOk h
  | .matmul h e => hartOk h && matrixOk e
  | .latch h e => hartOk h && matrixOk e
  | .flush h e => hartOk h && matrixOk e
  | .engineDescriptorComplete h e => hartOk h && decide (e < 5)
  | .bouquetMatmul h e => hartOk h && matrixOk e
  | .add h => hartOk h
  | .mul h => hartOk h
  | .fma h => hartOk h
  | .max h => hartOk h
  | .min h => hartOk h
  | .affine h => hartOk h
  | .cast h => hartOk h
  | .rmsnorm h => hartOk h
  | .layernorm h => hartOk h
  | .siluMul h => hartOk h
  | .gelu h => hartOk h
  | .exp h => hartOk h
  | .recip h => hartOk h
  | .rsqrt h => hartOk h
  | .tanh h => hartOk h
  | .sigmoid h => hartOk h
  | .rope h => hartOk h
  | .sum h => hartOk h
  | .maxred h => hartOk h
  | .smaxMerge h => hartOk h
  | .smaxFinal h => hartOk h
  | .argmax h => hartOk h
  | .topk h => hartOk h
  | .topkMerge h => hartOk h
  | .sample h => hartOk h
  | .shadowCheck c p => clusterOk c && physOk p
  | .shadowTiebreak c p => clusterOk c && physOk p
  | .shadowBlameReplace c p => clusterOk c && physOk p
  | .controlStateParityError h => hartOk h
  | .heartbeatLoss h => hartOk h
  | .secdedUncorrectable c k _ _ => clusterOk c && coreOk k
  | .secdedCorrectable c k _ => clusterOk c && coreOk k
  | .standIn c k => clusterOk c && coreOk k
  | .partitionFrozen p => partOk p
  | .standInPetalsRestored c k => clusterOk c && coreOk k
  | .standInNearStoreRestored c k _ => clusterOk c && coreOk k
  | .replayRelease p => partOk p
  | .rotation c k p => clusterOk c && coreOk k && physOk p
  | .tokenArrival (.outQueue h q) => hartOk h && queueOk q
  | .tokenArrival (.steerOut c u o) => clusterOk c && unitOk u && decide (o < 4)
  | .tokenArrival (.record p _) => partOk p
  | .boundaryPortAdmit p _ => partOk p
  | .epochHoldExpiry p _ => partOk p
  | .creditReturn h q => hartOk h && queueOk q
  | .packetFormed h q => hartOk h && queueOk q
  | .packetWaitTimeout h q => hartOk h && queueOk q
  | .steerRoute c u => clusterOk c && unitOk u
  | .mergeArrival c u => clusterOk c && unitOk u
  | .mergeOrdered c u => clusterOk c && unitOk u
  | .regionStall r => regionOk r
  | .stepRelease p => partOk p
  | .stepEnd p => partOk p
  | .noticeDeferTimeout p => partOk p
  | .foldAdvance c => clusterOk c
  | .petalSwitch h => hartOk h
  | .qsampSample c => clusterOk c
  | .bmDescriptorEnqueue h q => hartOk h && queueOk q
  | .copy c ch => clusterOk c && chanOk ch
  | .fill c ch => clusterOk c && chanOk ch
  | .crc32 c ch => clusterOk c && chanOk ch
  | .invalidate c ch => clusterOk c && chanOk ch
  | .contribDescriptor c ch => clusterOk c && chanOk ch
  | .bmCompletion c ch => clusterOk c && chanOk ch
  | .residentAudit p => partOk p
  | .auditMismatch p _ => partOk p
  | .append n c _ => stackOk n && clusterOk c
  | .pageInit n c _ => stackOk n && clusterOk c
  | .pageFree n c _ => stackOk n && clusterOk c
  | .pageTrim n c _ => stackOk n && clusterOk c
  | .pass n c _ => stackOk n && clusterOk c
  | .passResponse n => stackOk n
  | .pageTableSweep n => stackOk n
  | .stackDiscard p => partOk p
  | .dramUe n _ => stackOk n
  | .pageTableUe n p => stackOk n && pageOk p
  | .patrolScrub n _ _ => stackOk n
  | .stackTempSample n t => stackOk n && decide (t.length = 4)
  | .channelRetrain n c _ => stackOk n && decide (c < 32)
  | .stackLost n _ => stackOk n
  | .packetSend c => clusterOk c
  | .seamWord p w => portRefOk p && decide (w.length = 557)
  | .seamResend p => portRefOk p
  | .lateUnitSend p l => portRefOk p && decide (l < 8)
  | .seamRetrain p _ => portRefOk p
  | .seamHalfWidth p => portRefOk p
  | .fabricTableUe p _ _ => portRefOk p
  | .flitReceive l f => linkOk l && flitOk f
  | .linkReplay l => linkOk l
  | .creditFlit l b => linkOk l && payloadOk b
  | .trainFlit l b => linkOk l && payloadOk b
  | .linkRetrain l _ _ => linkOk l
  | .linkPacketReceive k _ => linkDieOk k
  | .write _ => true
  | .read _ => true
  | .mgmt _ => true
  | .tokens _ => true
  | .relay _ => true
  | .ack _ => true
  | .nack _ => true
  | .readData _ => true
  | .credit _ => true
  | .mgmtReply _ => true
  | .mcCount _ => true
  | .contrib _ => true
  | .result _ => true
  | .collAck _ => true
  | .resendTimeout _ _ => true
  | .holdExpiry k => linkDieOk k
  | .flowExpiry _ _ => true
  | .endpointCreditTimer _ => true
  | .mcastNackWaitEnd _ => true
  | .collSegmentTimeout k e x s => linkDieOk k && decide (e < 4) && chanOk x && decide (s < 256)
  | .laserModuleFail b _ => bayOk b
  | .laserModuleInsert b _ => bayOk b
  | .linkDieLost k => linkDieOk k
  | .cablePresentChange l _ _ => linkOk l
  | .dbSqTail r _ => ringOk r
  | .dbCqHead r _ => ringOk r
  | .commandDispatch r => ringOk r
  | .completionPost r => ringOk r
  | .msixCoalesceTimeout r => ringOk r
  | .identify _ _ => true
  | .queryCaps _ _ => true
  | .getInventory _ _ => true
  | .partCreate _ _ => true
  | .partDestroy _ _ => true
  | .partReset _ _ => true
  | .partResetDrainEnd p => partOk p
  | .imageLoad _ _ => true
  | .imageActivate _ _ => true
  | .activationDrainComplete r => regionOk r
  | .activationLoadComplete r => regionOk r
  | .activationDrainTimeout r => regionOk r
  | .epochRateWaitEnd r => regionOk r
  | .dataPlace _ _ => true
  | .dataFetch _ _ => true
  | .stepRun _ _ => true
  | .stepAbort _ _ => true
  | .resultRelease _ _ => true
  | .routeSetBase _ _ => true
  | .routeSetEndpoints _ _ => true
  | .routeSetPathGroups _ _ => true
  | .routeSetMemoryEndpoints _ _ => true
  | .endpointFence _ _ => true
  | .endpointUnfence _ _ => true
  | .mcastSetGroup _ _ => true
  | .mcastSetContext _ _ => true
  | .mcastClearContext _ _ => true
  | .powerCapSet _ _ => true
  | .telemetryPower _ _ => true
  | .telemetryPartition _ _ => true
  | .telemetryRegisters _ _ => true
  | .samplerConfig _ _ => true
  | .eventsRead _ _ => true
  | .eventsClear _ _ => true
  | .fwStage _ _ => true
  | .fwCommit _ _ => true
  | .attest _ _ => true
  | .ownerKeySet _ _ => true
  | .retrainChannel _ _ _ => true
  | .retrainSeam _ _ _ => true
  | .retrainLink _ _ _ _ => true
  | .repairRetireDie _ _ => true
  | .repairLaserBay _ _ => true
  | .repairTestDie _ _ => true
  | .repairTestStack _ _ => true
  | .defectClear _ _ => true
  | .panelReset _ _ => true
  | .functionLevelReset => true
  | .bar2Read off len => decide (off + len ≤ 0x1000000000)
  | .bar2Write off d => decide (off + d.length ≤ 0x1000000000)
  | .bar2ReadTimeout => true
  | .registerWrite _ off _ => decide (off % 4 = 0)
  | .rdybsyPulseRepeat => true
  | .feedStateChange _ _ _ => true
  | .feedInsert _ _ => true
  | .powerFail => true
  | .vpmTrip d => dieOk d
  | .regulatorPhaseFault s q d _ => siteOk s && quadOk q && decide (d < 4)
  | .droopDetect c _ => clusterOk c
  | .powerManagerTick _ => true
  | .wakeRequest c => clusterOk c
  | .wakeGrant c => clusterOk c
  | .wakeForced c => clusterOk c
  | .clockStepRamp c => clusterOk c
  | .idleRetainTimeout c => clusterOk c
  | .shedAssert => true
  | .shedLevelCheck _ _ => true
  | .shedDeassert => true
  | .clockInputLoss d _ => dieOk d
  | .clockHoldoverExpiry d => dieOk d
  | .referenceOscillatorLoss => true
  | .thermalSample c t => clusterOk c && decide (t.length = 4)
  | .thermalTrip d s _ => dieOk d && decide (s < 16)
  | .coolantLoopTick _ _ _ => true
  | .coolingLossTimeout _ => true
  | .auxSensorPoll rs => decide (rs.length ≤ 8)
  | .powerGood _ => true
  | .bringup _ => true
  | .panelResetLAssert => true
  | .dieRetirement s _ _ => siteOk s
  | .scheduledClusterTest s q _ => siteOk s && quadOk q
  | .ctHeartbeat d => ctOk d
  | .glerynWatchdogExpiry d => ctOk d
  | .controlDieFailover _ => true
  | .firmwareSwapHandover _ => true
  | .recoveryOffer _ l _ _ => linkOk l
  | .recoveryOfferTimer _ => true
  | .eventRecord _ sev _ _ kind _ _ _ => decide (sev < 7) && decide (kind < 9)
  | .eventFlush _ => true
  | .operatingTimeStore => true
  | .debugUnlock _ => true
  | .redfishRequest _ _ => true
  | .panelResetLRelease => true
  | .pcieLinkChange _ => true
  | .controlDieRebootDone d _ => ctOk d
  | .rimSegmentFail n => decide (n < 8)
  | .mgtHeartbeatTick => true

end Sys2Proof
end

