-- ==== Sys2Proof/Laws/PerInstr.lean ====
section
/-! SUPPORT. What a command names: a well-formed one names a hart below 18,432 and a cluster below 576 (R29, R40, R42), one lemma for each
row of the table. -/

namespace Sys2Proof.Laws.Table

/-- The hart a command is of. -/
def hart : Instr → Option Nat
  | .scalarInstruction h => some (h)
  | .scalarLoad h _ _ _ _ _ => some (h)
  | .scalarStore h _ _ _ _ => some (h)
  | .csrAccess h _ _ _ _ => some (h)
  | .rngSeedWrite h _ => some (h)
  | .qTag h _ _ => some (h)
  | .qRdw h _ _ _ => some (h)
  | .qPop h _ => some (h)
  | .qWrw h _ _ _ => some (h)
  | .qPush h _ _ => some (h)
  | .qFwd h _ _ => some (h)
  | .qStat h _ _ _ => some (h)
  | .lcSet h _ _ _ => some (h)
  | .lcRd h _ _ _ => some (h)
  | .eIssue h _ _ _ => some (h)
  | .eWait h _ => some (h)
  | .eStat h _ => some (h)
  | .pYield h => some (h)
  | .rnd h _ => some (h)
  | .coreWaitReleased h => some (h)
  | .matmul h _ => some (h)
  | .latch h _ => some (h)
  | .flush h _ => some (h)
  | .engineDescriptorComplete h _ => some (h)
  | .bouquetMatmul h _ => some (h)
  | .add h => some (h)
  | .mul h => some (h)
  | .fma h => some (h)
  | .min h => some (h)
  | .affine h => some (h)
  | .cast h => some (h)
  | .rmsnorm h => some (h)
  | .layernorm h => some (h)
  | .siluMul h => some (h)
  | .gelu h => some (h)
  | .exp h => some (h)
  | .recip h => some (h)
  | .rsqrt h => some (h)
  | .tanh h => some (h)
  | .sigmoid h => some (h)
  | .rope h => some (h)
  | .sum h => some (h)
  | .maxred h => some (h)
  | .smaxMerge h => some (h)
  | .smaxFinal h => some (h)
  | .argmax h => some (h)
  | .topkMerge h => some (h)
  | .controlStateParityError h => some (h)
  | .heartbeatLoss h => some (h)
  | .secdedUncorrectable c k _ _ => some (c * 32 + k)
  | .secdedCorrectable c k _ => some (c * 32 + k)
  | .standInPetalsRestored c k => some (c * 32 + k)
  | .standInNearStoreRestored c k _ => some (c * 32 + k)
  | .rotation c k _ => some (c * 32 + k)
  | .creditReturn h _ => some (h)
  | .packetFormed h _ => some (h)
  | .packetWaitTimeout h _ => some (h)
  | .petalSwitch h => some (h)
  | .bmDescriptorEnqueue h _ => some (h)
  | _ => none

/-- The cluster a command is of. -/
def cluster : Instr → Option Nat
  | .shadowCheck c _ => some c
  | .shadowTiebreak c _ => some c
  | .shadowBlameReplace c _ => some c
  | .secdedUncorrectable c _ _ _ => some c
  | .secdedCorrectable c _ _ => some c
  | .standInPetalsRestored c _ => some c
  | .standInNearStoreRestored c _ _ => some c
  | .rotation c _ _ => some c
  | .steerRoute c _ => some c
  | .mergeArrival c _ => some c
  | .mergeOrdered c _ => some c
  | .foldAdvance c => some c
  | .qsampSample c => some c
  | .copy c _ => some c
  | .fill c _ => some c
  | .crc32 c _ => some c
  | .invalidate c _ => some c
  | .contribDescriptor c _ => some c
  | .bmCompletion c _ => some c
  | .append _ c _ => some c
  | .pageInit _ c _ => some c
  | .pageFree _ c _ => some c
  | .pageTrim _ c _ => some c
  | .packetSend c => some c
  | .droopDetect c _ => some c
  | .wakeRequest c => some c
  | .wakeGrant c => some c
  | .wakeForced c => some c
  | .clockStepRamp c => some c
  | .idleRetainTimeout c => some c
  | .thermalSample c _ => some c
  | _ => none

/-- A well-formed command names a hart and a cluster that the panel has. -/
def Statement (i : Instr) : Prop := i.wellFormed = true → (∀ h, hart i = some h → h < 18432) ∧ ∀ c, cluster i = some c → c < 576

theorem noPlace (i : Instr) (h : hart i = none) (c : cluster i = none) : Statement i :=
  fun _ => ⟨fun _ e => (nomatch h.symm.trans e), fun _ e => (nomatch c.symm.trans e)⟩

theorem left {a b : Bool} (h : (a && b) = true) : a = true := (Bool.and_eq_true_iff.mp h).1
theorem right {a b : Bool} (h : (a && b) = true) : b = true := (Bool.and_eq_true_iff.mp h).2

theorem ofHart (i : Instr) (n : Nat) (w : i.wellFormed = true → hartOk n = true) (h : hart i = some n) (c : cluster i = none) : Statement i :=
  fun v => ⟨fun _ e => Option.some.inj (h.symm.trans e) ▸ (of_decide_eq_true (w v) : n < 18432), fun _ e => (nomatch c.symm.trans e)⟩

theorem ofCluster (i : Instr) (n : Nat) (w : i.wellFormed = true → clusterOk n = true) (h : hart i = none) (c : cluster i = some n) : Statement i :=
  fun v => ⟨fun _ e => (nomatch h.symm.trans e), fun _ e => Option.some.inj (c.symm.trans e) ▸ (of_decide_eq_true (w v) : n < 576)⟩

theorem ofCore (i : Instr) (n k : Nat) (w : i.wellFormed = true → clusterOk n = true) (u : i.wellFormed = true → coreOk k = true)
    (h : hart i = some (n * 32 + k)) (c : cluster i = some n) : Statement i := fun v =>
  have a : n < 576 := of_decide_eq_true (w v)
  have b : k < 32 := of_decide_eq_true (u v)
  ⟨fun m e => by have f := Option.some.inj (h.symm.trans e); omega, fun m e => Option.some.inj (c.symm.trans e) ▸ a⟩

theorem scalarInstruction (hart : Nat) : Statement (.scalarInstruction hart) := ofHart _ hart (fun w => w) rfl rfl
theorem scalarLoad (hart rd rs1 : Nat) (imm : BitVec 12) (size : Nat) (signed : Bool) : Statement (.scalarLoad hart rd rs1 imm size signed) := ofHart _ hart (fun w => (left (left (left w)))) rfl rfl
theorem scalarStore (hart rs1 rs2 : Nat) (imm : BitVec 12) (size : Nat) : Statement (.scalarStore hart rs1 rs2 imm size) := ofHart _ hart (fun w => (left (left (left w)))) rfl rfl
theorem csrAccess (hart : Nat) (funct3 : BitVec 3) (rd rs1 : Nat) (csr : BitVec 12) : Statement (.csrAccess hart funct3 rd rs1 csr) := ofHart _ hart (fun w => (left (left w))) rfl rfl
theorem rngSeedWrite (hart : Nat) (v : Word) : Statement (.rngSeedWrite hart v) := ofHart _ hart (fun w => w) rfl rfl
theorem qTag (hart rd qi : Nat) : Statement (.qTag hart rd qi) := ofHart _ hart (fun w => (left (left w))) rfl rfl
theorem qRdw (hart rd qi w : Nat) : Statement (.qRdw hart rd qi w) := ofHart _ hart (fun w => (left (left (left w)))) rfl rfl
theorem qPop (hart qi : Nat) : Statement (.qPop hart qi) := ofHart _ hart (fun w => (left w)) rfl rfl
theorem qWrw (hart rs1 qo w : Nat) : Statement (.qWrw hart rs1 qo w) := ofHart _ hart (fun w => (left (left (left w)))) rfl rfl
theorem qPush (hart rs1 qo : Nat) : Statement (.qPush hart rs1 qo) := ofHart _ hart (fun w => (left (left w))) rfl rfl
theorem qFwd (hart qi qo : Nat) : Statement (.qFwd hart qi qo) := ofHart _ hart (fun w => (left (left w))) rfl rfl
theorem qStat (hart rd q d : Nat) : Statement (.qStat hart rd q d) := ofHart _ hart (fun w => (left (left (left w)))) rfl rfl
theorem lcSet (hart qi n rs1 : Nat) : Statement (.lcSet hart qi n rs1) := ofHart _ hart (fun w => (left (left (left w)))) rfl rfl
theorem lcRd (hart rd qi n : Nat) : Statement (.lcRd hart rd qi n) := ofHart _ hart (fun w => (left (left (left w)))) rfl rfl
theorem eIssue (hart e rs1 rs2 : Nat) : Statement (.eIssue hart e rs1 rs2) := ofHart _ hart (fun w => (left (left (left w)))) rfl rfl
theorem eWait (hart : Nat) (m : BitVec 5) : Statement (.eWait hart m) := ofHart _ hart (fun w => w) rfl rfl
theorem eStat (hart rd : Nat) : Statement (.eStat hart rd) := ofHart _ hart (fun w => (left w)) rfl rfl
theorem pYield (hart : Nat) : Statement (.pYield hart) := ofHart _ hart (fun w => w) rfl rfl
theorem rnd (hart rd : Nat) : Statement (.rnd hart rd) := ofHart _ hart (fun w => (left w)) rfl rfl
theorem coreWaitReleased (hart : Nat) : Statement (.coreWaitReleased hart) := ofHart _ hart (fun w => w) rfl rfl
theorem matmul (hart e : Nat) : Statement (.matmul hart e) := ofHart _ hart (fun w => (left w)) rfl rfl
theorem latch (hart e : Nat) : Statement (.latch hart e) := ofHart _ hart (fun w => (left w)) rfl rfl
theorem flush (hart e : Nat) : Statement (.flush hart e) := ofHart _ hart (fun w => (left w)) rfl rfl
theorem engineDescriptorComplete (hart e : Nat) : Statement (.engineDescriptorComplete hart e) := ofHart _ hart (fun w => (left w)) rfl rfl
theorem bouquetMatmul (hart e : Nat) : Statement (.bouquetMatmul hart e) := ofHart _ hart (fun w => (left w)) rfl rfl
theorem add (hart : Nat) : Statement (.add hart) := ofHart _ hart (fun w => w) rfl rfl
theorem mul (hart : Nat) : Statement (.mul hart) := ofHart _ hart (fun w => w) rfl rfl
theorem fma (hart : Nat) : Statement (.fma hart) := ofHart _ hart (fun w => w) rfl rfl
theorem max (hart : Nat) : Statement (.max hart) := noPlace _ rfl rfl
theorem min (hart : Nat) : Statement (.min hart) := ofHart _ hart (fun w => w) rfl rfl
theorem affine (hart : Nat) : Statement (.affine hart) := ofHart _ hart (fun w => w) rfl rfl
theorem cast (hart : Nat) : Statement (.cast hart) := ofHart _ hart (fun w => w) rfl rfl
theorem rmsnorm (hart : Nat) : Statement (.rmsnorm hart) := ofHart _ hart (fun w => w) rfl rfl
theorem layernorm (hart : Nat) : Statement (.layernorm hart) := ofHart _ hart (fun w => w) rfl rfl
theorem siluMul (hart : Nat) : Statement (.siluMul hart) := ofHart _ hart (fun w => w) rfl rfl
theorem gelu (hart : Nat) : Statement (.gelu hart) := ofHart _ hart (fun w => w) rfl rfl
theorem exp (hart : Nat) : Statement (.exp hart) := ofHart _ hart (fun w => w) rfl rfl
theorem recip (hart : Nat) : Statement (.recip hart) := ofHart _ hart (fun w => w) rfl rfl
theorem rsqrt (hart : Nat) : Statement (.rsqrt hart) := ofHart _ hart (fun w => w) rfl rfl
theorem tanh (hart : Nat) : Statement (.tanh hart) := ofHart _ hart (fun w => w) rfl rfl
theorem sigmoid (hart : Nat) : Statement (.sigmoid hart) := ofHart _ hart (fun w => w) rfl rfl
theorem rope (hart : Nat) : Statement (.rope hart) := ofHart _ hart (fun w => w) rfl rfl
theorem sum (hart : Nat) : Statement (.sum hart) := ofHart _ hart (fun w => w) rfl rfl
theorem maxred (hart : Nat) : Statement (.maxred hart) := ofHart _ hart (fun w => w) rfl rfl
theorem smaxMerge (hart : Nat) : Statement (.smaxMerge hart) := ofHart _ hart (fun w => w) rfl rfl
theorem smaxFinal (hart : Nat) : Statement (.smaxFinal hart) := ofHart _ hart (fun w => w) rfl rfl
theorem argmax (hart : Nat) : Statement (.argmax hart) := ofHart _ hart (fun w => w) rfl rfl
theorem topk (hart : Nat) : Statement (.topk hart) := noPlace _ rfl rfl
theorem topkMerge (hart : Nat) : Statement (.topkMerge hart) := ofHart _ hart (fun w => w) rfl rfl
theorem sample (hart : Nat) : Statement (.sample hart) := noPlace _ rfl rfl
theorem shadowCheck (cluster spare : Nat) : Statement (.shadowCheck cluster spare) := ofCluster _ cluster (fun w => (left w)) rfl rfl
theorem shadowTiebreak (cluster spare : Nat) : Statement (.shadowTiebreak cluster spare) := ofCluster _ cluster (fun w => (left w)) rfl rfl
theorem shadowBlameReplace (cluster phys : Nat) : Statement (.shadowBlameReplace cluster phys) := ofCluster _ cluster (fun w => (left w)) rfl rfl
theorem controlStateParityError (hart : Nat) : Statement (.controlStateParityError hart) := ofHart _ hart (fun w => w) rfl rfl
theorem heartbeatLoss (hart : Nat) : Statement (.heartbeatLoss hart) := ofHart _ hart (fun w => w) rfl rfl
theorem secdedUncorrectable (cluster core : Nat) (which : Secded) (index : Nat) : Statement (.secdedUncorrectable cluster core which index) :=
  ofCore _ cluster core (fun w => (left w)) (fun w => (right w)) rfl rfl
theorem secdedCorrectable (cluster core : Nat) (which : Secded) : Statement (.secdedCorrectable cluster core which) :=
  ofCore _ cluster core (fun w => (left w)) (fun w => (right w)) rfl rfl
theorem standIn (cluster core : Nat) : Statement (.standIn cluster core) := noPlace _ rfl rfl
theorem partitionFrozen (part : Nat) : Statement (.partitionFrozen part) := noPlace _ rfl rfl
theorem standInPetalsRestored (cluster core : Nat) : Statement (.standInPetalsRestored cluster core) :=
  ofCore _ cluster core (fun w => (left w)) (fun w => (right w)) rfl rfl
theorem standInNearStoreRestored (cluster core : Nat) (answers : Bool) : Statement (.standInNearStoreRestored cluster core answers) :=
  ofCore _ cluster core (fun w => (left w)) (fun w => (right w)) rfl rfl
theorem replayRelease (part : Nat) : Statement (.replayRelease part) := noPlace _ rfl rfl
theorem rotation (cluster core spare : Nat) : Statement (.rotation cluster core spare) :=
  ofCore _ cluster core (fun w => (left (left w))) (fun w => (right (left w))) rfl rfl
theorem tokenArrival (src : ArrivalSrc) : Statement (.tokenArrival src) := noPlace _ rfl rfl
theorem boundaryPortAdmit (part rec : Nat) : Statement (.boundaryPortAdmit part rec) := noPlace _ rfl rfl
theorem epochHoldExpiry (part rec : Nat) : Statement (.epochHoldExpiry part rec) := noPlace _ rfl rfl
theorem creditReturn (hart qo : Nat) : Statement (.creditReturn hart qo) := ofHart _ hart (fun w => (left w)) rfl rfl
theorem packetFormed (hart qo : Nat) : Statement (.packetFormed hart qo) := ofHart _ hart (fun w => (left w)) rfl rfl
theorem packetWaitTimeout (hart qo : Nat) : Statement (.packetWaitTimeout hart qo) := ofHart _ hart (fun w => (left w)) rfl rfl
theorem steerRoute (cluster unit : Nat) : Statement (.steerRoute cluster unit) := ofCluster _ cluster (fun w => (left w)) rfl rfl
theorem mergeArrival (cluster unit : Nat) : Statement (.mergeArrival cluster unit) := ofCluster _ cluster (fun w => (left w)) rfl rfl
theorem mergeOrdered (cluster unit : Nat) : Statement (.mergeOrdered cluster unit) := ofCluster _ cluster (fun w => (left w)) rfl rfl
theorem regionStall (region : Nat) : Statement (.regionStall region) := noPlace _ rfl rfl
theorem stepRelease (part : Nat) : Statement (.stepRelease part) := noPlace _ rfl rfl
theorem stepEnd (part : Nat) : Statement (.stepEnd part) := noPlace _ rfl rfl
theorem noticeDeferTimeout (part : Nat) : Statement (.noticeDeferTimeout part) := noPlace _ rfl rfl
theorem foldAdvance (cluster : Nat) : Statement (.foldAdvance cluster) := ofCluster _ cluster (fun w => w) rfl rfl
theorem petalSwitch (hart : Nat) : Statement (.petalSwitch hart) := ofHart _ hart (fun w => w) rfl rfl
theorem qsampSample (cluster : Nat) : Statement (.qsampSample cluster) := ofCluster _ cluster (fun w => w) rfl rfl
theorem bmDescriptorEnqueue (hart qo : Nat) : Statement (.bmDescriptorEnqueue hart qo) := ofHart _ hart (fun w => (left w)) rfl rfl
theorem copy (cluster ch : Nat) : Statement (.copy cluster ch) := ofCluster _ cluster (fun w => (left w)) rfl rfl
theorem fill (cluster ch : Nat) : Statement (.fill cluster ch) := ofCluster _ cluster (fun w => (left w)) rfl rfl
theorem crc32 (cluster ch : Nat) : Statement (.crc32 cluster ch) := ofCluster _ cluster (fun w => (left w)) rfl rfl
theorem invalidate (cluster ch : Nat) : Statement (.invalidate cluster ch) := ofCluster _ cluster (fun w => (left w)) rfl rfl
theorem contribDescriptor (cluster ch : Nat) : Statement (.contribDescriptor cluster ch) := ofCluster _ cluster (fun w => (left w)) rfl rfl
theorem bmCompletion (cluster ch : Nat) : Statement (.bmCompletion cluster ch) := ofCluster _ cluster (fun w => (left w)) rfl rfl
theorem residentAudit (part : Nat) : Statement (.residentAudit part) := noPlace _ rfl rfl
theorem auditMismatch (part record : Nat) : Statement (.auditMismatch part record) := noPlace _ rfl rfl
theorem append (stack cluster : Nat) (req : List Token) : Statement (.append stack cluster req) := ofCluster _ cluster (fun w => (right w)) rfl rfl
theorem pageInit (stack cluster : Nat) (req : List Token) : Statement (.pageInit stack cluster req) := ofCluster _ cluster (fun w => (right w)) rfl rfl
theorem pageFree (stack cluster : Nat) (req : List Token) : Statement (.pageFree stack cluster req) := ofCluster _ cluster (fun w => (right w)) rfl rfl
theorem pageTrim (stack cluster : Nat) (req : List Token) : Statement (.pageTrim stack cluster req) := ofCluster _ cluster (fun w => (right w)) rfl rfl
theorem pass (stack cluster : Nat) (req : List Token) : Statement (.pass stack cluster req) := noPlace _ rfl rfl
theorem passResponse (stack : Nat) : Statement (.passResponse stack) := noPlace _ rfl rfl
theorem pageTableSweep (stack : Nat) : Statement (.pageTableSweep stack) := noPlace _ rfl rfl
theorem stackDiscard (part : Nat) : Statement (.stackDiscard part) := noPlace _ rfl rfl
theorem dramUe (stack : Nat) (offset : BitVec 36) : Statement (.dramUe stack offset) := noPlace _ rfl rfl
theorem pageTableUe (stack page : Nat) : Statement (.pageTableUe stack page) := noPlace _ rfl rfl
theorem patrolScrub (stack row : Nat) (corrected : Bool) : Statement (.patrolScrub stack row corrected) := noPlace _ rfl rfl
theorem stackTempSample (stack : Nat) (t : List Nat) : Statement (.stackTempSample stack t) := noPlace _ rfl rfl
theorem channelRetrain (stack channel : Nat) (ok : Bool) : Statement (.channelRetrain stack channel ok) := noPlace _ rfl rfl
theorem stackLost (stack cause : Nat) : Statement (.stackLost stack cause) := noPlace _ rfl rfl
theorem packetSend (cluster : Nat) : Statement (.packetSend cluster) := ofCluster _ cluster (fun w => w) rfl rfl
theorem seamWord (p : PortRef) (word : Bytes) : Statement (.seamWord p word) := noPlace _ rfl rfl
theorem seamResend (p : PortRef) : Statement (.seamResend p) := noPlace _ rfl rfl
theorem lateUnitSend (p : PortRef) (lane : Nat) : Statement (.lateUnitSend p lane) := noPlace _ rfl rfl
theorem seamRetrain (p : PortRef) (badWires : Nat) : Statement (.seamRetrain p badWires) := noPlace _ rfl rfl
theorem seamHalfWidth (p : PortRef) : Statement (.seamHalfWidth p) := noPlace _ rfl rfl
theorem fabricTableUe (p : PortRef) (table : FabTable) (entry : Nat) : Statement (.fabricTableUe p table entry) := noPlace _ rfl rfl
theorem flitReceive (port : Nat) (flit : Bytes) : Statement (.flitReceive port flit) := noPlace _ rfl rfl
theorem linkReplay (port : Nat) : Statement (.linkReplay port) := noPlace _ rfl rfl
theorem creditFlit (port : Nat) (payload : Bytes) : Statement (.creditFlit port payload) := noPlace _ rfl rfl
theorem trainFlit (port : Nat) (payload : Bytes) : Statement (.trainFlit port payload) := noPlace _ rfl rfl
theorem linkRetrain (port : Nat) (lanesOk : BitVec 8) (peer : List (Option (BitVec 8 × BitVec 8))) : Statement (.linkRetrain port lanesOk peer) := noPlace _ rfl rfl
theorem linkPacketReceive (die : Nat) (p : Packet) : Statement (.linkPacketReceive die p) := noPlace _ rfl rfl
theorem write (p : Packet) : Statement (.write p) := noPlace _ rfl rfl
theorem read (p : Packet) : Statement (.read p) := noPlace _ rfl rfl
theorem mgmt (p : Packet) : Statement (.mgmt p) := noPlace _ rfl rfl
theorem tokens (p : Packet) : Statement (.tokens p) := noPlace _ rfl rfl
theorem relay (p : Packet) : Statement (.relay p) := noPlace _ rfl rfl
theorem ack (p : Packet) : Statement (.ack p) := noPlace _ rfl rfl
theorem nack (p : Packet) : Statement (.nack p) := noPlace _ rfl rfl
theorem readData (p : Packet) : Statement (.readData p) := noPlace _ rfl rfl
theorem credit (p : Packet) : Statement (.credit p) := noPlace _ rfl rfl
theorem mgmtReply (p : Packet) : Statement (.mgmtReply p) := noPlace _ rfl rfl
theorem mcCount (p : Packet) : Statement (.mcCount p) := noPlace _ rfl rfl
theorem contrib (p : Packet) : Statement (.contrib p) := noPlace _ rfl rfl
theorem result (p : Packet) : Statement (.result p) := noPlace _ rfl rfl
theorem collAck (p : Packet) : Statement (.collAck p) := noPlace _ rfl rfl
theorem resendTimeout (f : FlowKey) (seq : BitVec 16) : Statement (.resendTimeout f seq) := noPlace _ rfl rfl
theorem holdExpiry (die : Nat) : Statement (.holdExpiry die) := noPlace _ rfl rfl
theorem flowExpiry (f : FlowKey) (sending : Bool) : Statement (.flowExpiry f sending) := noPlace _ rfl rfl
theorem endpointCreditTimer (eid : BitVec 24) : Statement (.endpointCreditTimer eid) := noPlace _ rfl rfl
theorem mcastNackWaitEnd (f : FlowKey) : Statement (.mcastNackWaitEnd f) := noPlace _ rfl rfl
theorem collSegmentTimeout (die engine ctx slot : Nat) : Statement (.collSegmentTimeout die engine ctx slot) := noPlace _ rfl rfl
theorem laserModuleFail (bay : Nat) (withdrawn : Bool) : Statement (.laserModuleFail bay withdrawn) := noPlace _ rfl rfl
theorem laserModuleInsert (bay : Nat) (partNo : Bytes) : Statement (.laserModuleInsert bay partNo) := noPlace _ rfl rfl
theorem linkDieLost (die : Nat) : Statement (.linkDieLost die) := noPlace _ rfl rfl
theorem cablePresentChange (port : Nat) (present : Bool) (partNo : Bytes) : Statement (.cablePresentChange port present partNo) := noPlace _ rfl rfl
theorem dbSqTail (ring : Nat) (v : Word) : Statement (.dbSqTail ring v) := noPlace _ rfl rfl
theorem dbCqHead (ring : Nat) (v : Word) : Statement (.dbCqHead ring v) := noPlace _ rfl rfl
theorem commandDispatch (ring : Nat) : Statement (.commandDispatch ring) := noPlace _ rfl rfl
theorem completionPost (ring : Nat) : Statement (.completionPost ring) := noPlace _ rfl rfl
theorem msixCoalesceTimeout (ring : Nat) : Statement (.msixCoalesceTimeout ring) := noPlace _ rfl rfl
theorem identify (id : Nat) (io : HostIo) : Statement (.identify id io) := noPlace _ rfl rfl
theorem queryCaps (id : Nat) (io : HostIo) : Statement (.queryCaps id io) := noPlace _ rfl rfl
theorem getInventory (id : Nat) (io : HostIo) : Statement (.getInventory id io) := noPlace _ rfl rfl
theorem partCreate (id : Nat) (io : HostIo) : Statement (.partCreate id io) := noPlace _ rfl rfl
theorem partDestroy (id : Nat) (io : HostIo) : Statement (.partDestroy id io) := noPlace _ rfl rfl
theorem partReset (id : Nat) (io : HostIo) : Statement (.partReset id io) := noPlace _ rfl rfl
theorem partResetDrainEnd (part : Nat) : Statement (.partResetDrainEnd part) := noPlace _ rfl rfl
theorem imageLoad (id : Nat) (io : HostIo) : Statement (.imageLoad id io) := noPlace _ rfl rfl
theorem imageActivate (id : Nat) (io : HostIo) : Statement (.imageActivate id io) := noPlace _ rfl rfl
theorem activationDrainComplete (region : Nat) : Statement (.activationDrainComplete region) := noPlace _ rfl rfl
theorem activationLoadComplete (region : Nat) : Statement (.activationLoadComplete region) := noPlace _ rfl rfl
theorem activationDrainTimeout (region : Nat) : Statement (.activationDrainTimeout region) := noPlace _ rfl rfl
theorem epochRateWaitEnd (region : Nat) : Statement (.epochRateWaitEnd region) := noPlace _ rfl rfl
theorem dataPlace (id : Nat) (io : HostIo) : Statement (.dataPlace id io) := noPlace _ rfl rfl
theorem dataFetch (id : Nat) (io : HostIo) : Statement (.dataFetch id io) := noPlace _ rfl rfl
theorem stepRun (id : Nat) (io : HostIo) : Statement (.stepRun id io) := noPlace _ rfl rfl
theorem stepAbort (id : Nat) (io : HostIo) : Statement (.stepAbort id io) := noPlace _ rfl rfl
theorem resultRelease (id : Nat) (io : HostIo) : Statement (.resultRelease id io) := noPlace _ rfl rfl
theorem routeSetBase (id : Nat) (io : HostIo) : Statement (.routeSetBase id io) := noPlace _ rfl rfl
theorem routeSetEndpoints (id : Nat) (io : HostIo) : Statement (.routeSetEndpoints id io) := noPlace _ rfl rfl
theorem routeSetPathGroups (id : Nat) (io : HostIo) : Statement (.routeSetPathGroups id io) := noPlace _ rfl rfl
theorem routeSetMemoryEndpoints (id : Nat) (io : HostIo) : Statement (.routeSetMemoryEndpoints id io) := noPlace _ rfl rfl
theorem endpointFence (id : Nat) (io : HostIo) : Statement (.endpointFence id io) := noPlace _ rfl rfl
theorem endpointUnfence (id : Nat) (io : HostIo) : Statement (.endpointUnfence id io) := noPlace _ rfl rfl
theorem mcastSetGroup (id : Nat) (io : HostIo) : Statement (.mcastSetGroup id io) := noPlace _ rfl rfl
theorem mcastSetContext (id : Nat) (io : HostIo) : Statement (.mcastSetContext id io) := noPlace _ rfl rfl
theorem mcastClearContext (id : Nat) (io : HostIo) : Statement (.mcastClearContext id io) := noPlace _ rfl rfl
theorem powerCapSet (id : Nat) (io : HostIo) : Statement (.powerCapSet id io) := noPlace _ rfl rfl
theorem telemetryPower (id : Nat) (io : HostIo) : Statement (.telemetryPower id io) := noPlace _ rfl rfl
theorem telemetryPartition (id : Nat) (io : HostIo) : Statement (.telemetryPartition id io) := noPlace _ rfl rfl
theorem telemetryRegisters (id : Nat) (io : HostIo) : Statement (.telemetryRegisters id io) := noPlace _ rfl rfl
theorem samplerConfig (id : Nat) (io : HostIo) : Statement (.samplerConfig id io) := noPlace _ rfl rfl
theorem eventsRead (id : Nat) (io : HostIo) : Statement (.eventsRead id io) := noPlace _ rfl rfl
theorem eventsClear (id : Nat) (io : HostIo) : Statement (.eventsClear id io) := noPlace _ rfl rfl
theorem fwStage (id : Nat) (io : HostIo) : Statement (.fwStage id io) := noPlace _ rfl rfl
theorem fwCommit (id : Nat) (io : HostIo) : Statement (.fwCommit id io) := noPlace _ rfl rfl
theorem attest (id : Nat) (io : HostIo) : Statement (.attest id io) := noPlace _ rfl rfl
theorem ownerKeySet (id : Nat) (io : HostIo) : Statement (.ownerKeySet id io) := noPlace _ rfl rfl
theorem retrainChannel (id : Nat) (io : HostIo) (ok : Bool) : Statement (.retrainChannel id io ok) := noPlace _ rfl rfl
theorem retrainSeam (id : Nat) (io : HostIo) (badWires : Nat) : Statement (.retrainSeam id io badWires) := noPlace _ rfl rfl
theorem retrainLink (id : Nat) (io : HostIo) (lanesOk : BitVec 8) (peer : List (Option (BitVec 8 × BitVec 8))) : Statement (.retrainLink id io lanesOk peer) := noPlace _ rfl rfl
theorem repairRetireDie (id : Nat) (io : HostIo) : Statement (.repairRetireDie id io) := noPlace _ rfl rfl
theorem repairLaserBay (id : Nat) (io : HostIo) : Statement (.repairLaserBay id io) := noPlace _ rfl rfl
theorem repairTestDie (id : Nat) (io : HostIo) : Statement (.repairTestDie id io) := noPlace _ rfl rfl
theorem repairTestStack (id : Nat) (io : HostIo) : Statement (.repairTestStack id io) := noPlace _ rfl rfl
theorem defectClear (id : Nat) (io : HostIo) : Statement (.defectClear id io) := noPlace _ rfl rfl
theorem panelReset (id : Nat) (io : HostIo) : Statement (.panelReset id io) := noPlace _ rfl rfl
theorem functionLevelReset : Statement .functionLevelReset := noPlace _ rfl rfl
theorem bar2Read (off len : Nat) : Statement (.bar2Read off len) := noPlace _ rfl rfl
theorem bar2Write (off : Nat) (data : Bytes) : Statement (.bar2Write off data) := noPlace _ rfl rfl
theorem bar2ReadTimeout : Statement .bar2ReadTimeout := noPlace _ rfl rfl
theorem registerWrite (space : RegSpace) (off : Nat) (v : Word) : Statement (.registerWrite space off v) := noPlace _ rfl rfl
theorem rdybsyPulseRepeat : Statement .rdybsyPulseRepeat := noPlace _ rfl rfl
theorem feedStateChange (f : Feed) (v10mV us : Nat) : Statement (.feedStateChange f v10mV us) := noPlace _ rfl rfl
theorem feedInsert (f : Feed) (v10mV : Nat) : Statement (.feedInsert f v10mV) := noPlace _ rfl rfl
theorem powerFail : Statement .powerFail := noPlace _ rfl rfl
theorem vpmTrip (die : Nat) : Statement (.vpmTrip die) := noPlace _ rfl rfl
theorem regulatorPhaseFault (site quad domain phase : Nat) : Statement (.regulatorPhaseFault site quad domain phase) := noPlace _ rfl rfl
theorem droopDetect (cluster pulses : Nat) : Statement (.droopDetect cluster pulses) := ofCluster _ cluster (fun w => w) rfl rfl
theorem powerManagerTick (r : PowerReading) : Statement (.powerManagerTick r) := noPlace _ rfl rfl
theorem wakeRequest (cluster : Nat) : Statement (.wakeRequest cluster) := ofCluster _ cluster (fun w => w) rfl rfl
theorem wakeGrant (cluster : Nat) : Statement (.wakeGrant cluster) := ofCluster _ cluster (fun w => w) rfl rfl
theorem wakeForced (cluster : Nat) : Statement (.wakeForced cluster) := ofCluster _ cluster (fun w => w) rfl rfl
theorem clockStepRamp (cluster : Nat) : Statement (.clockStepRamp cluster) := ofCluster _ cluster (fun w => w) rfl rfl
theorem idleRetainTimeout (cluster : Nat) : Statement (.idleRetainTimeout cluster) := ofCluster _ cluster (fun w => w) rfl rfl
theorem shedAssert : Statement .shedAssert := noPlace _ rfl rfl
theorem shedLevelCheck (pIn pAfter : Nat) : Statement (.shedLevelCheck pIn pAfter) := noPlace _ rfl rfl
theorem shedDeassert : Statement .shedDeassert := noPlace _ rfl rfl
theorem clockInputLoss (die : Nat) (live : BitVec 6) : Statement (.clockInputLoss die live) := noPlace _ rfl rfl
theorem clockHoldoverExpiry (die : Nat) : Statement (.clockHoldoverExpiry die) := noPlace _ rfl rfl
theorem referenceOscillatorLoss : Statement .referenceOscillatorLoss := noPlace _ rfl rfl
theorem thermalSample (cluster : Nat) (t : List Nat) : Statement (.thermalSample cluster t) := ofCluster _ cluster (fun w => (left w)) rfl rfl
theorem thermalTrip (die sensor celsius : Nat) : Statement (.thermalTrip die sensor celsius) := noPlace _ rfl rfl
theorem coolantLoopTick (r : TrayReading) (pIn hotJunction : Nat) : Statement (.coolantLoopTick r pIn hotJunction) := noPlace _ rfl rfl
theorem coolingLossTimeout (safe : Bool) : Statement (.coolingLossTimeout safe) := noPlace _ rfl rfl
theorem auxSensorPoll (readings : List Nat) : Statement (.auxSensorPoll readings) := noPlace _ rfl rfl
theorem powerGood (slotId : BitVec 6) : Statement (.powerGood slotId) := noPlace _ rfl rfl
theorem bringup (found : BringupFound) : Statement (.bringup found) := noPlace _ rfl rfl
theorem panelResetLAssert : Statement .panelResetLAssert := noPlace _ rfl rfl
theorem dieRetirement (site cause : Nat) (spareOk : Bool) : Statement (.dieRetirement site cause spareOk) := noPlace _ rfl rfl
theorem scheduledClusterTest (site quad : Nat) (r : TestResult) : Statement (.scheduledClusterTest site quad r) := noPlace _ rfl rfl
theorem ctHeartbeat (die : Nat) : Statement (.ctHeartbeat die) := noPlace _ rfl rfl
theorem glerynWatchdogExpiry (die : Nat) : Statement (.glerynWatchdogExpiry die) := noPlace _ rfl rfl
theorem controlDieFailover (cause : Nat) : Statement (.controlDieFailover cause) := noPlace _ rfl rfl
theorem firmwareSwapHandover (ok : Bool) : Statement (.firmwareSwapHandover ok) := noPlace _ rfl rfl
theorem recoveryOffer (p : Packet) (port : Nat) (image : Bytes) (flashOk : Bool) : Statement (.recoveryOffer p port image flashOk) := noPlace _ rfl rfl
theorem recoveryOfferTimer (peer : BitVec 24) : Statement (.recoveryOfferTimer peer) := noPlace _ rfl rfl
theorem eventRecord (code sev part region skind sindex ssub : Nat) (data : Bytes) : Statement (.eventRecord code sev part region skind sindex ssub data) := noPlace _ rfl rfl
theorem eventFlush (flashOk : Bool) : Statement (.eventFlush flashOk) := noPlace _ rfl rfl
theorem operatingTimeStore : Statement .operatingTimeStore := noPlace _ rfl rfl
theorem debugUnlock (auth : Bytes) : Statement (.debugUnlock auth) := noPlace _ rfl rfl
theorem redfishRequest (admin : Bool) (r : Redfish) : Statement (.redfishRequest admin r) := noPlace _ rfl rfl
theorem panelResetLRelease : Statement .panelResetLRelease := noPlace _ rfl rfl
theorem pcieLinkChange (up : Bool) : Statement (.pcieLinkChange up) := noPlace _ rfl rfl
theorem controlDieRebootDone (die : Nat) (ok : Bool) : Statement (.controlDieRebootDone die ok) := noPlace _ rfl rfl
theorem rimSegmentFail (segment : Nat) : Statement (.rimSegmentFail segment) := noPlace _ rfl rfl
theorem mgtHeartbeatTick : Statement .mgtHeartbeatTick := noPlace _ rfl rfl

end Sys2Proof.Laws.Table
end

