-- ==== Sys2Proof/Laws/Rules.lean ====
section
/-! SUPPORT. Rules stated whole: what reset reads, ranks of a rod, bytes of the descriptor table, and what a flush leaves of the recorder. -/

namespace Sys2Proof.Laws

open Sys2Proof Sys2Proof.Machine Sys2Proof.Safety

theorem reset_reg (a : Nat) : State.reset.reg a = regReset a := rfl

theorem reset_clu (c : Nat) (hc : c < 576) : regReset (pwrClu c) = BitVec.ofNat 32 224 := by
  have h : pwrClu c = 0x020400010400 + 4 * c := by unfold pwrClu; rfl
  generalize pwrClu c = a at h
  have b1 : bstBase = 0x020400900000 ∨ True := .inr trivial
  unfold regReset
  congr 1
  have e1 : ¬ a < 0x020100000000 := by omega
  have e2 : ¬ (a < 0x020118000000 ∧ a % 0x1000000 = 0) := by omega
  have e3 : ¬ (0x020200000000 ≤ a ∧ a < 0x020206000000) := by omega
  have e4 : ¬ (a = bstBase ∨ a = evrBase) := by unfold bstBase evrBase ctBase; omega
  have e5 : ¬ a = panelBase := by unfold panelBase; omega
  have e6 : ¬ a = panelBase + 0x040 := by unfold panelBase; omega
  have e7 : ¬ a = pwrBase := by unfold pwrBase panelBase; omega
  have e8 : ¬ (a = pwrBase + 4 ∨ a = pwrBase + 8) := by unfold pwrBase panelBase; omega
  have e9 : ¬ a = pwrBase + 0x18 := by unfold pwrBase panelBase; omega
  have e10 : pwrBase + 0x400 ≤ a ∧ a < pwrBase + 0xD00 := by unfold pwrBase panelBase; omega
  rw [if_neg e1, if_neg e2, if_neg e3, if_neg e4, if_neg e5, if_neg e6, if_neg e7, if_neg e8, if_neg e9, if_pos e10]

theorem siteDie_eq (s : State) (site : Nat) : s.siteDie site = if site % 13 = s.unassigned (site / 13) then none
    else some (if site % 13 < s.unassigned (site / 13) then site % 13 else site % 13 - 1, site / 13) := rfl

theorem ranks (u : Nat) : ∀ n, ((List.range n).filter fun k => decide (k ≠ u)).length = if u < n then n - 1 else n := by
  intro n
  induction n with
  | zero => simp
  | succ n ih =>
    rw [List.range_succ, List.filter_append, List.length_append, ih]
    by_cases h : n = u
    · subst h; simp
    · rw [List.filter_cons_of_pos (by simpa using h)]
      simp only [List.filter_nil, List.length_singleton]
      split <;> split <;> omega

theorem natLe4 (v i : Nat) (hi : i < 4) : (natLe 4 v).getD i 0 = BitVec.ofNat 8 (v / 256 ^ i) := natLe_get 4 v i hi

theorem descFold (o : Nat) (bs : Bytes) : ∀ (n : Nat) (d : Tbl (BitVec 8)) (j : Nat),
    tget 0 ((List.range n).foldl (fun d i => tset 0 d (o + i) (bs.getD i 0)) d) j = if o ≤ j ∧ j < o + n then bs.getD (j - o) 0 else tget 0 d j := by
  intro n
  induction n with
  | zero => intro d j; rw [if_neg (by omega)]; rfl
  | succ n ih =>
    intro d j
    rw [List.range_succ, List.foldl_append]
    simp only [List.foldl_cons, List.foldl_nil]
    rw [tget_tset]
    split
    · rename_i h; rw [if_pos (by omega), ← h]; congr 1; omega
    · rw [ih]
      by_cases h : o ≤ j ∧ j < o + n
      · rw [if_pos h, if_pos (by omega)]
      · rw [if_neg h, if_neg (by omega)]

theorem pulse_evr (s : State) : s.pulse.evr = s.evr := by
  unfold State.pulse; repeat' split
  all_goals rfl

theorem signal_evr (s : State) (v : Nat) (p : Bool) : (s.signal v p).evr = s.evr := by
  unfold State.signal
  dsimp only
  repeat' split
  all_goals first | rfl | exact pulse_evr _

theorem alarm_evr (s : State) (v : Nat) : (s.alarm v).evr = s.evr := by
  unfold State.alarm
  dsimp only
  repeat' split
  all_goals first | rfl | exact signal_evr .. | exact pulse_evr _

theorem retained_none (e : Event) (x : Recorder) (hb : x.buf = [(e, true)]) (hr : x.region = []) : x.retained = [e] := by
  unfold Recorder.retained; rw [hb, hr]; rfl

theorem flushAll_seq (s : State) (b : Bool) : (s.flushAll b).evr.seq = s.evr.seq := by
  unfold State.flushAll
  dsimp only
  split
  · have key := foldl_keep State.flushOne (fun u => u.evr.seq = s.evr.seq) (fun u e hu => by
      unfold State.flushOne
      dsimp only
      split
      · exact hu
      · split
        · exact hu
        · unfold State.count; split <;> exact hu) ((s.evr.buf.filter (·.2)).map (·.1)) (s.setField evrBase 0 1 (b2n b)) rfl
    generalize List.foldl _ (s.setField evrBase 0 1 (b2n b)) _ = w at *
    exact key
  · unfold State.count; split <;> rfl

theorem count_keep (s u : State) (a n : Nat) (h1 : u.pending = s.pending) (h2 : u.now = s.now) (h3 : u.hw = s.hw) : answer s (u.count a n) = .next (u.count a n) := by
  refine answer_eq _ _ ?_ ?_ ?_
  · rw [count_pending]; exact h1
  · rw [count_now]; exact h2
  · rw [count_hw]; exact h3

end Sys2Proof.Laws
end

