-- ==== Sys2Proof/Laws/Tick.lean ====
section
/-! SUPPORT. What a fast cycle of an idle block leaves as it was: each part of it counts, and touches neither panel memory, nor the
queue, nor the clock, nor the fixed facts of the part. -/

namespace Sys2Proof.Laws

open Sys2Proof.Machine

/-- Memory, queue, clock and fixed facts of t are those of s. -/
def Steady (s t : State) : Prop := t.mem = s.mem ∧ t.pending = s.pending ∧ t.now = s.now ∧ t.hw = s.hw

theorem Steady.rfl (s : State) : Steady s s := ⟨Eq.refl _, Eq.refl _, Eq.refl _, Eq.refl _⟩

theorem Steady.regs {s t u : State} (h : Steady s t) (e : OnlyRegs t u) : Steady s u := by rw [e]; exact h

theorem Steady.events {s t u : State} (h : Steady s t) (e : OnlyEvents t u) : Steady s u := by rw [e]; exact h

theorem Steady.core {s t : State} (h : Steady s t) (k : Nat) (c : Core) : Steady s (t.setCore k c) := h

theorem Steady.fold {α : Type} {s : State} (g : State → α → State) (hg : ∀ t x, Steady s t → Steady s (g t x)) (l : List α) (t : State) (h : Steady s t) :
    Steady s (l.foldl g t) := foldl_keep g (Steady s) hg l t h

theorem tickCore_steady {s t : State} (h : Steady s t) (k : Nat) : Steady s (t.tickCore k) := by
  unfold State.tickCore
  split
  · exact h
  · dsimp only
    have h1 : Steady s (if t.pulses (k / 32) then
        (t.setCore k ((t.core k).setPet { (t.core k).pet with mcycle := (t.core k).pet.mcycle + 1 })).count64 (t.coreReg k 0x20) 1 else t) := by
      split
      · exact (h.core _ _).regs (count64_onlyRegs ..)
      · exact h
    split
    · exact h1
    · exact h1.regs (count64_onlyRegs ..)

theorem tickEngines_steady {s t : State} (h : Steady s t) (k : Nat) : Steady s (t.tickEngines k) := by
  unfold State.tickEngines
  split
  · exact h
  · refine Steady.fold _ (fun u e hu => ?_) _ _ h
    split
    · exact hu
    · exact hu.regs (count64_onlyRegs ..)

theorem Steady.ite {s t u : State} {c : Prop} [Decidable c] (a : c → Steady s t) (b : ¬c → Steady s u) : Steady s (if c then t else u) := by
  split
  · exact a ‹_›
  · exact b ‹_›

theorem tickCluster_steady {s t : State} (h : Steady s t) (c : Nat) : Steady s (t.tickCluster c) := by
  unfold State.tickCluster
  refine .ite (fun _ => h) fun _ => ?_
  dsimp only
  have h1 : Steady s (if t.foldWaits c then t.count (t.cluReg c 0x86C) 1 else t) :=
    .ite (fun _ => h.events (count_onlyEvents ..)) fun _ => h
  generalize (if t.foldWaits c then t.count (t.cluReg c 0x86C) 1 else t) = v at *
  exact .ite (fun _ => h1.regs (count64_onlyRegs ..)) fun _ => h1

theorem tickStack_steady {s t : State} (h : Steady s t) (n : Nat) : Steady s (t.tickStack n) := by
  unfold State.tickStack
  dsimp only
  have h1 : Steady s (if (t.stack n).heat < 2 then t else t.count64 (sbdBase n + 0x50) 1) :=
    .ite (fun _ => h) fun _ => h.regs (count64_onlyRegs ..)
  generalize (if (t.stack n).heat < 2 then t else t.count64 (sbdBase n + 0x50) 1) = v at *
  exact .ite (fun _ => h1.regs (count64_onlyRegs ..)) fun _ => h1

theorem tickRegion_steady {s t : State} (h : Steady s t) (rn : Nat) : Steady s (t.tickRegion rn) := by
  unfold State.tickRegion
  split
  · exact h
  · split
    · exact h
    · dsimp only
      exact .ite (fun _ => h) fun _ => h

theorem drive_steady {s t : State} (h : Steady s t) (port : Nat) (f : Bytes) : Steady s (t.drive port f) := by
  unfold State.drive
  exact h

theorem sendControl_steady {s t : State} (h : Steady s t) (port : Nat) (b : Bytes) : Steady s (t.sendControl port b) := by
  unfold State.sendControl
  exact drive_steady (t := t.setPort port _) h port _

theorem tickPort_steady {s t : State} (h : Steady s t) (p : Nat) : Steady s (t.tickPort p) := by
  unfold State.tickPort
  refine .ite (fun _ => h) fun _ => ?_
  dsimp only
  have h1 : Steady s (if (t.port p).staged = [] then t else t.count64 (linkReg p 0x30) 1) :=
    .ite (fun _ => h) fun _ => h.regs (count64_onlyRegs ..)
  generalize (if (t.port p).staged = [] then t else t.count64 (linkReg p 0x30) 1) = v at *
  exact .ite (fun _ => sendControl_steady h1 _ _) fun _ => h1

theorem tickPanel_steady {s t : State} (h : Steady s t) : Steady s t.tickPanel := by
  unfold State.tickPanel
  dsimp only
  have h1 : Steady s (if (t.power.thermCap.any fun e => decide (e.2 < 7)) = true then t.count64 (thmBase + 0x18) 1 else t) :=
    .ite (fun _ => h.regs (count64_onlyRegs ..)) fun _ => h
  generalize (if (t.power.thermCap.any fun e => decide (e.2 < 7)) = true then t.count64 (thmBase + 0x18) 1 else t) = v at *
  exact .ite (fun _ => h1.regs (count64_onlyRegs ..)) fun _ => h1

theorem tickModules_steady {s t : State} (h : Steady s t) : Steady s t.tickModules := by
  unfold State.tickModules
  exact .ite (fun _ => h) fun _ => Steady.fold _ (fun u b hu => .ite (fun _ => hu.events (count_onlyEvents ..)) fun _ => hu) _ _ h

theorem tickTime_steady {s t : State} (h : Steady s t) : Steady s t.tickTime := by
  unfold State.tickTime
  exact .ite (fun _ => h) fun _ => tickModules_steady h

theorem settleSlots_steady {s t : State} (h : Steady s t) : Steady s t.settleSlots := by
  unfold State.settleSlots
  refine Steady.fold _ (fun u e hu => ?_) _ _ h
  unfold State.newSlots
  refine .ite (fun _ => hu) fun _ => ?_
  unfold State.putSlots
  exact Steady.fold _ (fun v i hv => hv.regs (setReg_onlyRegs ..)) _ _ hu

/-- A fast cycle moves the clock by one and leaves panel memory, the queue and the fixed facts (R8, R36). -/
theorem tick_steady (s : State) : Steady ({ s with now := s.now + 1 } : State) s.tick := by
  unfold State.tick
  dsimp only
  refine tickTime_steady (tickPanel_steady (.ite (fun _ => settleSlots_steady ?_) fun _ => ?_)) <;>
    refine Steady.fold _ (fun t e h => h.regs (count64_onlyRegs ..)) _ _ (Steady.fold _ (fun t e h => tickPort_steady h _) _ _
      (Steady.fold _ (fun t e h => tickStack_steady h _) _ _ (Steady.fold _ (fun t e h => h.events (count_onlyEvents ..)) _ _ ?_))) <;>
    exact Steady.fold _ (fun t e h => tickRegion_steady h _) _ _ (Steady.fold _ (fun t e h => tickCluster_steady h _) _ _
      (Steady.fold _ (fun t e h => tickEngines_steady (tickCore_steady h _) _) _ _ (Steady.rfl _)))

end Sys2Proof.Laws
end

