-- ==== Sys2Proof/Tests/Slice0.lean ====
section
/-! SUPPORT. Tests: ill-formed commands the check refuses, encodings written out from the spec, small runs of one command, and for each
statement a state and operands that meet its hypotheses (named `meets_` and the statement). -/

namespace Sys2Proof.Tests

/- One theorem at a time: their kernel evaluations side by side take more memory than the check allows. -/
set_option Elab.async false

open Sys2Proof.Machine Sys2Proof.Safety

/-! ### Small states -/

/-- A petal at the start of instruction memory. -/
def pet : Petal := { pc := 0x10000000 }
/-- A running core with petal p. -/
def coreOf (p : Petal) : Core := { running := true, petals := [(0, p)] }
/-- The panel right after reset with cluster 0 in RUN and core c as hart 0. -/
def withCore (c : Core) : State := { State.reset with cores := [(0, c)], regs := [(pwrClu 0, 0xE3)] }
/-- A partition of one cluster, 0, with stack 0's first 16 pages. -/
def part0 : Part := { cx := 0, cy := 0, w := 1, h := 1, rotate := false, stackTbl := 1, firstPage := 0, pages := 16 }
/-- `withCore` with that partition as number 0. -/
def withPart (c : Core) (q : Part) : State := { withCore c with parts := [(0, some q)] }
/-- A DATA token of epoch 0. -/
def tok : Token := { tag := 0, payload := 0x0706050403020100 }

/-! ### Well-formedness: an ill-formed term for each check -/

theorem test_hart_range : (Instr.pYield 18432).wellFormed = false ∧ (Instr.pYield 18431).wellFormed = true := by decide
theorem test_xreg_range : (Instr.qTag 0 32 0).wellFormed = false ∧ (Instr.qTag 0 31 0).wellFormed = true := by decide
theorem test_queue_range : (Instr.qPop 0 8).wellFormed = false ∧ (Instr.qPop 0 7).wellFormed = true := by decide
theorem test_payload_word_range : (Instr.qRdw 0 1 0 16).wellFormed = false ∧ (Instr.qRdw 0 1 0 15).wellFormed = true := by decide
theorem test_size_check : (Instr.scalarLoad 0 1 1 0 3 true).wellFormed = false ∧ (Instr.scalarLoad 0 1 1 0 4 true).wellFormed = true := by decide
theorem test_stat_direction : (Instr.qStat 0 1 0 2).wellFormed = false ∧ (Instr.qStat 0 1 0 1).wellFormed = true := by decide
theorem test_loop_level : (Instr.lcSet 0 0 4 1).wellFormed = false ∧ (Instr.lcSet 0 0 3 1).wellFormed = true := by decide
theorem test_engine_range : (Instr.eIssue 0 5 1 1).wellFormed = false ∧ (Instr.eIssue 0 4 1 1).wellFormed = true := by decide
theorem test_matrix_engine_range : (Instr.matmul 0 4).wellFormed = false ∧ (Instr.matmul 0 3).wellFormed = true := by decide
theorem test_physical_core_range : (Instr.shadowCheck 0 34).wellFormed = false ∧ (Instr.shadowCheck 575 33).wellFormed = true := by decide
theorem test_core_range : (Instr.standIn 0 32).wellFormed = false ∧ (Instr.standIn 0 31).wellFormed = true := by decide
theorem test_cluster_range : (Instr.packetSend 576).wellFormed = false ∧ (Instr.packetSend 575).wellFormed = true := by decide
theorem test_partition_range : (Instr.stepEnd 64).wellFormed = false ∧ (Instr.stepEnd 63).wellFormed = true := by decide
theorem test_region_range : (Instr.regionStall 256).wellFormed = false ∧ (Instr.regionStall 255).wellFormed = true := by decide
theorem test_unit_range : (Instr.steerRoute 0 4).wellFormed = false ∧ (Instr.steerRoute 0 3).wellFormed = true := by decide
theorem test_channel_range : (Instr.copy 0 16).wellFormed = false ∧ (Instr.copy 0 15).wellFormed = true := by decide
theorem test_stack_range : (Instr.passResponse 24).wellFormed = false ∧ (Instr.passResponse 23).wellFormed = true := by decide
theorem test_page_range : (Instr.pageTableUe 0 1048576).wellFormed = false ∧ (Instr.pageTableUe 0 1048575).wellFormed = true := by decide
theorem test_sensors : (Instr.stackTempSample 0 [80]).wellFormed = false ∧ (Instr.stackTempSample 0 [80, 81, 82, 83]).wellFormed = true := by decide
theorem test_port_range : (Instr.seamResend ⟨156, 0, 0⟩).wellFormed = false ∧ (Instr.seamResend ⟨0, 4, 0⟩).wellFormed = false
    ∧ (Instr.seamResend ⟨0, 0, 5⟩).wellFormed = false ∧ (Instr.seamResend ⟨155, 3, 4⟩).wellFormed = true := by decide
theorem test_lane_range : (Instr.lateUnitSend ⟨0, 0, 0⟩ 8).wellFormed = false ∧ (Instr.lateUnitSend ⟨0, 0, 0⟩ 7).wellFormed = true := by decide
theorem test_seam_word_length : (Instr.seamWord ⟨0, 0, 0⟩ [0]).wellFormed = false := by decide
theorem test_link_range : (Instr.linkReplay 36).wellFormed = false ∧ (Instr.linkReplay 35).wellFormed = true := by decide
theorem test_flit_length : (Instr.flitReceive 0 [0]).wellFormed = false ∧ (Instr.creditFlit 0 [1]).wellFormed = false := by decide
theorem test_link_die_range : (Instr.holdExpiry 6).wellFormed = false ∧ (Instr.holdExpiry 5).wellFormed = true := by decide
theorem test_segment_slot_range : (Instr.collSegmentTimeout 0 0 0 256).wellFormed = false ∧ (Instr.collSegmentTimeout 5 3 15 255).wellFormed = true := by decide
theorem test_bay_range : (Instr.laserModuleFail 10 false).wellFormed = false ∧ (Instr.laserModuleFail 9 false).wellFormed = true := by decide
theorem test_ring_range : (Instr.dbSqTail 64 0).wellFormed = false ∧ (Instr.dbSqTail 63 0).wellFormed = true := by decide
theorem test_aperture_range : (Instr.bar2Read 0xFFFFFFFFF 2).wellFormed = false ∧ (Instr.bar2Read 0xFFFFFFFFF 1).wellFormed = true := by decide
theorem test_register_word : (Instr.registerWrite .bar0 2 0).wellFormed = false ∧ (Instr.registerWrite .bar0 4 0).wellFormed = true := by decide
theorem test_die_range : (Instr.vpmTrip 188).wellFormed = false ∧ (Instr.vpmTrip 187).wellFormed = true := by decide
theorem test_domain_range : (Instr.regulatorPhaseFault 0 0 4 0).wellFormed = false ∧ (Instr.regulatorPhaseFault 155 3 3 7).wellFormed = true := by decide
theorem test_sensor_index : (Instr.thermalTrip 0 16 0).wellFormed = false ∧ (Instr.thermalTrip 0 15 0).wellFormed = true := by decide
theorem test_aux_sensors : (Instr.auxSensorPoll (List.replicate 9 0)).wellFormed = false := by decide
theorem test_control_die_range : (Instr.ctHeartbeat 2).wellFormed = false ∧ (Instr.ctHeartbeat 1).wellFormed = true := by decide
theorem test_severity_range : (Instr.eventRecord 0x0B01 7 0 0 0 0 0 []).wellFormed = false ∧ (Instr.eventRecord 0x0B01 2 0 0 9 0 0 []).wellFormed = false := by decide
theorem test_rim_range : (Instr.rimSegmentFail 8).wellFormed = false ∧ (Instr.rimSegmentFail 7).wellFormed = true := by decide

/-! ### The block -/

theorem meets_StepRunsTheFrontCommand : ({ State.reset with pending := [.eStat 0 1] } : State).pending = .eStat 0 1 :: [] := rfl
theorem meets_IdleStepIsOneCycle : State.reset.pending = [] := rfl
theorem meets_StepKeepsMemoryCanonical :
    memoryCanonical State.reset ∧ ∃ t, step ({ State.reset with pending := [.eStat 0 1] } : State) = .next t := ⟨by unfold memoryCanonical; decide, _, rfl⟩

/-! ### Scalar cores -/

/-- Queue 3 holds a token, queue 5 none; register x2 holds 0x100. -/
def queues : Core := { coreOf { pet with x := [(2, 0x100)], outBind := [(0, 0x109)] } with inq := [(3, { tokens := [tok] })] }

theorem meets_QueueReadsWriteOneRegister :
    let s := withCore queues
    s.ready 0 = true ∧ (s.core 0).heldIn 3 = false ∧ ((s.core 0).inQ 3).head = some tok
      ∧ ((s.core 0).inQ 3).virt = none ∧ ((s.core 0).inQ 3).tokens = tok :: [] ∧ ((s.core 0).outQ 0).tokens = [] := by decide +kernel
theorem meets_EmptyQueueWaits :
    let s := withCore queues
    s.ready 0 = true ∧ (s.core 0).heldIn 5 = false ∧ ((s.core 0).inQ 5).head = none ∧ s.bound 0 0 = true := by decide +kernel
theorem meets_ReleasedWaitCompletes :
    let s := withCore { queues with wait := some (.tag 1 3) }
    s.mayRun 0 = true ∧ (s.core 0).wait = some (.tag 1 3) ∧ (s.core 0).heldIn 3 = false ∧ ((s.core 0).inQ 3).head = some tok := by decide +kernel
theorem meets_QueueWrites :
    let s := withCore queues
    s.ready 0 = true ∧ (15 : Nat) < 16 ∧ ((s.core 0).engine 4).queue.length < 2 ∧ Nat.land (s.core 0).busyMask (0x1F : BitVec 5).toNat = 0 := by decide +kernel
theorem meets_PushPopForward :
    let s := withCore { queues with inq := [(3, { tokens := [{ tok with tag := 0x28 }] })] }
    s.ready 0 = true ∧ s.bound 0 0 = true ∧ (s.core 0).heldOut 0 = false ∧ s.hasCredit 0 0 = true
      ∧ (s.core 0).heldIn 3 = false ∧ ((s.core 0).inQ 3).virt = none ∧ ((s.core 0).inQ 3).tokens = { tok with tag := 0x28 } :: []
      ∧ ({ tok with tag := 0x28 } : Token).kind ≠ kData ∧ ({ tok with tag := 0x28 } : Token).isMarker = false ∧ s.bound 0 1 = false := by decide +kernel

/-- Hart 0 with the bytes of a word at its pc. -/
def fetching (w n : Nat) : Core := { coreOf pet with imem := ((List.range n).map fun i => (i, BitVec.ofNat 8 (w / 256 ^ i))).filter fun e => e.2 != 0 }

/-! Encodings of RV32IMC written out from its tables (R41): each stands at the pc as the instruction it is. -/

theorem test_lui : stands (fetching 0x000010B7 4) 4 (.lui 1 0x1000) := ⟨by decide, by decide, by decide, .inr ⟨rfl, by decide, rfl⟩⟩
theorem test_auipc : stands (fetching 0xFFFFF097 4) 4 (.auipc 1 0xFFFFF000) := ⟨by decide, by decide, by decide, .inr ⟨rfl, by decide, rfl⟩⟩
theorem test_addi : stands (fetching 0xFFF00093 4) 4 (.opImm 0 false 1 0 0xFFFFFFFF) := ⟨by decide, by decide, by decide, .inr ⟨rfl, by decide, rfl⟩⟩
theorem test_sub : stands (fetching 0x402081B3 4) 4 (.op 0 true 3 1 2) := ⟨by decide, by decide, by decide, .inr ⟨rfl, by decide, rfl⟩⟩
theorem test_mul : stands (fetching 0x022081B3 4) 4 (.mulDiv 0 3 1 2) := ⟨by decide, by decide, by decide, .inr ⟨rfl, by decide, rfl⟩⟩
theorem test_jal : stands (fetching 0x008000EF 4) 4 (.jal 1 8) := ⟨by decide, by decide, by decide, .inr ⟨rfl, by decide, rfl⟩⟩
theorem test_jalr : stands (fetching 0x000100E7 4) 4 (.jalr 1 2 0) := ⟨by decide, by decide, by decide, .inr ⟨rfl, by decide, rfl⟩⟩
theorem test_beq : stands (fetching 0xFE208EE3 4) 4 (.branch 0 1 2 0xFFFFFFFC) := ⟨by decide, by decide, by decide, .inr ⟨rfl, by decide, rfl⟩⟩
theorem test_fence : stands (fetching 0x0FF0000F 4) 4 .fence := ⟨by decide, by decide, by decide, .inr ⟨rfl, by decide, rfl⟩⟩
theorem test_lw : stands (fetching 0xFFC12083 4) 4 (.load 1 2 ((0xFFC : BitVec 12).signExtend 32) 4 true) := ⟨by decide, by decide, by decide, .inr ⟨rfl, by decide, rfl⟩⟩
theorem test_sw : stands (fetching 0x00112223 4) 4 (.store 2 1 ((4 : BitVec 12).signExtend 32) 4) := ⟨by decide, by decide, by decide, .inr ⟨rfl, by decide, rfl⟩⟩
theorem test_csrrw : stands (fetching 0x7C2110F3 4) 4 (.csr (1 : BitVec 3).toNat 1 2 (0x7C2 : BitVec 12).toNat) := ⟨by decide, by decide, by decide, .inr ⟨rfl, by decide, rfl⟩⟩
theorem test_c_li : stands (fetching 0x4085 2) 2 (.opImm 0 false 1 0 1) := ⟨by decide, by decide, by decide, .inl ⟨rfl, by decide, rfl⟩⟩
theorem test_illegal : stands (fetching 0 2) 2 .illegal := ⟨by decide, by decide, by decide, .inl ⟨rfl, by decide, rfl⟩⟩

theorem meets_ScalarInstructionRuns : (withCore (fetching 0x000010B7 4)).ready 0 = true ∧ (1 : BitVec 3).toNat % 4 ≠ 0 := by decide +kernel
theorem meets_ScalarFaultsHalt :
    (withCore (coreOf { pet with pc := 0x10000001 })).ready 0 = true ∧ (coreOf { pet with pc := 0x10000001 }).pc % 2 = 1
      ∧ (coreOf { pet with pc := 0x0FFFFFFE }).pc < 0x10000000 ∧ 0x10002000 ≤ (coreOf { pet with pc := 0x10002000 }).pc := by decide +kernel

/-- Register x1 holds 0x3FFFC, the last aligned word of the near store. -/
def lastWord : State := withCore (coreOf { pet with x := [(1, 0x3FFFC)] })

theorem meets_NearStoreLoadAndStore :
    let a := ((lastWord.core 0).xreg 1 + (0 : BitVec 12).signExtend 32).toNat
    lastWord.ready 0 = true ∧ a + 4 ≤ 0x40000 ∧ a % 4 = 0 ∧ lastWord.mapped (nearBase 0 + a) = true
      ∧ lastWord.cacheMode (clusterOfAddr (nearBase 0 + a)) = false ∧ (lastWord.clu (clusterOfAddr (nearBase 0 + a))).backupOn = false := by
  decide +kernel
theorem meets_ScalarAccessFaults :
    lastWord.ready 0 = true
      ∧ (let a := ((lastWord.core 0).xreg 1 + (4 : BitVec 12).signExtend 32).toNat; 0x40000 ≤ a ∧ a < 0x800000)
      ∧ (let a := ((lastWord.core 0).xreg 1 + (0xFFF : BitVec 12).signExtend 32).toNat; a + 4 ≤ 0x40000 ∧ a % 4 ≠ 0)
      ∧ (let s := withCore (coreOf { pet with x := [(1, 0x20000200)] })
         s.ready 0 = true ∧ 0x20000200 ≤ ((s.core 0).xreg 1 + (0 : BitVec 12).signExtend 32).toNat) := by decide +kernel
theorem meets_CsrAccess : (withCore queues).ready 0 = true ∧ (withCore queues).csrRead 0 (0x7FF : BitVec 12).toNat = none ∧ (1 : BitVec 3).toNat % 4 ≠ 0 := by
  decide +kernel
theorem meets_IssueCopiesTheDescriptor :
    let s := withCore (coreOf { pet with x := [(1, 0x200001FC)] })
    s.ready 0 = true ∧ ((s.core 0).engine 0).queue.length < 2
      ∧ (let a := ((s.core 0).xreg 1 + (0 : BitVec 12).signExtend 32).toNat; 0x20000000 ≤ a ∧ a < 0x20000200 ∧ a % 4 = 0) := by decide +kernel

/-! Small runs: a wrap, a sign extension, a discarded write. -/

theorem test_run_addi_wraps :
    ∃ t, exec (.scalarInstruction 0) (withCore { fetching 0xFFF08093 4 with petals := [(0, { pet with x := [] })] }) = .next t
      ∧ (t.core 0).xreg 1 = 0xFFFFFFFF ∧ (t.core 0).pc = 0x10000004 := ⟨_, rfl, by decide +kernel⟩
theorem test_run_x0_discards :
    ∃ t, exec (.qTag 0 0 3) (withCore queues) = .next t ∧ (t.core 0).xreg 0 = 0 ∧ (t.core 0).pc = 0x10000004 := ⟨_, rfl, by decide +kernel⟩
theorem test_run_read_word :
    ∃ t, exec (.qRdw 0 4 3 1) (withCore queues) = .next t ∧ (t.core 0).xreg 4 = 0x07060504 := ⟨_, rfl, by decide +kernel⟩
/-! ### Engines -/

/-- A vector descriptor: `VER` 1, operation op, byte 3 f, one element, and its results at 0x40. -/
def vec (op f : Nat) : EngDesc := { d := BitVec.ofNat 256 (1 + op * 2 ^ 8 + f * 2 ^ 24 + 2 ^ 32 + 0x40 * 2 ^ 160), off := 0 }
/-- A matrix descriptor: `VER` 1, operation op, byte 3 f, byte 30 g, NT nt and K 8. -/
def mat (op f g nt : Nat) : EngDesc :=
  { d := BitVec.ofNat 256 (1 + op * 2 ^ 4 + 0x11 * 2 ^ 8 + f * 2 ^ 24 + (nt - 1) * 2 ^ 40 + 8 * 2 ^ 48 + g * 2 ^ 240 + 0x5A * 2 ^ 248), off := 0 }
/-- Hart 0 with engine i in state e, output queue 0 bound to its own input queue 1. -/
def withEng (i : Nat) (e : Engine) : State := withCore { coreOf { pet with outBind := [(0, 0x101)] } with eng := [(i, e)] }

theorem meets_VectorOperationRuns : ∀ e ∈ vectorTable,
    let x := vec e.2 0x88
    let s := withEng 4 { queue := [x] }
    ((s.core 0).engine 4).queue = x :: [] ∧ s.engineRuns 0 = true ∧ ((s.core 0).engine 4).busy = false
      ∧ (vdesc x).op = e.2 ∧ (vdesc x).sMem = true ∧ (vdesc x).dMem = true := by decide +kernel
theorem meets_VectorOperationRuns_queue :
    let x := vec 1 0x10
    let s := withEng 4 { queue := [x], rows := [[0, 0, 0x80, 0x3F]] }
    s.engineRuns 0 = true ∧ (vdesc x).op = 1 ∧ (vdesc x).aRows.1 ≤ ((s.core 0).engine 4).rows.length ∧ (vdesc x).dMem = false := by decide +kernel
theorem meets_VectorOperationRuns_store :
    let x := vec 1 0x88
    let s := withEng 4 { queue := [x] }
    (vdesc x).ok s 0 = true ∧ plainAt s (nearBase 0 + (vdesc x).dst) (vecBytes s 0 (vdesc x)).length ∧ vecBytes s 0 (vdesc x) ≠ [] := by
  unfold plainAt; decide +kernel
theorem meets_VectorElementwise :
    ∀ op ∈ [0x01, 0x02, 0x03, 0x06, 0x07], (vdesc (vec op 0x88)).op = op := by decide +kernel
theorem meets_VectorElementwise_zeros :
    (vdesc (vec 0x31 0x88)).op = 0x31 ∧ (fpOfWord (BitVec.ofNat 32 (fld [0, 0, 0, 0] 0 4))).isZero = true
      ∧ (vdesc (vec 0x43 0x88)).op = 0x43 ∧ (fpOfWord (vdesc (vec 0x43 0x88)).imm0).isZero = true := by decide +kernel

theorem meets_MatmulAccumulates : taken (withEng 3 { queue := [mat 1 0x88 0 1] }) 0 3 (mat 1 0x88 0 1) [] false
    ∧ (mdesc (mat 1 0x88 0 1)).op = 1 ∧ (mdesc (mat 1 0x88 0 1)).shadow = false ∧ (mdesc (mat 1 0x88 0 1)).aMem = true := by
  unfold taken; decide +kernel
theorem meets_MatmulAccumulates_checks : (mdesc (mat 1 0x88 0 1)).ok (withEng 0 {}) 0 false = true := by decide +kernel
theorem meets_MatmulAccumulates_plainRows : plainRows (withEng 0 {}) 0 (mdesc (mat 1 0x88 0 1)) := by
  intro r hr
  have h : r = 0 := by have : (mdesc (mat 1 0x88 0 1)).m = 1 := by decide +kernel
                       omega
  subst h
  have a : ∀ o, (withEng 0 {}).coreReg 0 o = 2199025352704 + o := fun o => congrArg (· + o) (by decide +kernel : coreBase ((withEng 0 {}).physOf 0) = 2199025352704)
  have k : ∀ e ∈ blocksOf (nearBase 0 + (mdesc (mat 1 0x88 0 1)).oaddr + 0 * (mdesc (mat 1 0x88 0 1)).ostride)
      ((mdesc (mat 1 0x88 0 1)).nt * 32 * otypeBytes (mdesc (mat 1 0x88 0 1)).otype), clusterOfAddr e.1 = 0 := by decide +kernel
  refine ⟨by unfold plainAt; decide +kernel, fun e he o ho => ?_⟩
  rw [a, k e he, (by decide +kernel : pwrClu 0 = 2216203191296), (by decide +kernel : (withEng 0 {}).cluReg 0 0x900 = 2199023257856)]
  omega
theorem meets_LatchAndFlush :
    (taken (withEng 0 { queue := [mat 2 0x88 0 1] }) 0 0 (mat 2 0x88 0 1) [] false ∧ (mdesc (mat 2 0x88 0 1)).op = 2)
    ∧ taken (withEng 0 { queue := [mat 3 0x88 0 1] }) 0 0 (mat 3 0x88 0 1) [] false ∧ (mdesc (mat 3 0x88 0 1)).op = 3 := by
  unfold taken; decide +kernel
theorem meets_BouquetLatches :
    let s : State := { withEng 0 { queue := [mat 2 0x88 2 32] } with clusters := [(0, { bouquet := 1 })] }
    taken s 0 0 (mat 2 0x88 2 32) [] true ∧ (mdesc (mat 2 0x88 2 32)).op = 2 ∧ ((s.core 0).engine 0).wb = []
      ∧ (bqShare (mdesc (mat 2 0x88 2 32)).nt 31).length = 1 := by unfold taken; decide +kernel

theorem meets_DescriptorCompletes :
    (let s := withEng 4 { queue := [vec 1 0x08], busy := true }
     s.engineRuns 0 = true ∧ ((s.core 0).engine 4).queue = vec 1 0x08 :: [] ∧ ((s.core 0).engine 4).busy = true ∧ ((s.core 0).engine 4).wb = [])
    ∧ (let s := withEng 0 { queue := [mat 1 0x08 0 1], busy := true, wb := [tok] }
       ((s.core 0).engine 0).queue = mat 1 0x08 0 1 :: [] ∧ (mat 1 0x08 0 1).dest 0 = some 0 ∧ ((s.core 0).engine 0).wb = [tok] ∧ s.hasCredit 0 0 = true) := by
  decide +kernel
theorem meets_DescriptorFaultsAndWaits :
    (let x := mat 1 0x81 0 1
       let s := withEng 0 { queue := [x] }
       taken s 0 0 x [] false ∧ (mdesc x).op = 1 ∧ (mdesc x).aMem = false ∧ ((s.core 0).engine 0).rows.length < (mdesc x).m ∧ ((s.core 0).inQ (mdesc x).aq).head = none)
    ∧ (let x := mat 1 0x81 0 1
       let s := withCore { coreOf pet with eng := [(0, { queue := [x] })], inq := [(1, { tokens := [{ tok with tag := 0x28 }] })] }
       ((s.core 0).inQ (mdesc x).aq).head = some { tok with tag := 0x28 } ∧ ({ tok with tag := 0x28 } : Token).kind ≠ kData
         ∧ ({ tok with tag := 0x28 } : Token).kind ≠ kEndRow ∧ ({ tok with tag := 0x28 } : Token).kind ≠ kEndTile) := by unfold taken; decide +kernel

/-! Small runs: 1.0 + 1.0, and FMA from its three operand rows. -/

theorem test_run_add :
    ∃ t, exec (.add 0) { withEng 4 { queue := [vec 1 0x88] } with mem := memWrite (memWrite [] (nearBase 0) [0, 0, 0x80, 0x3F]) (nearBase 0 + 8) [0] } = .next t
      ∧ memRead t.mem (nearBase 0 + 0x40) 4 = [0, 0, 0, 0x40] := ⟨_, rfl, by decide +kernel⟩

/-! ### Spares and faults -/

/-- A tile of one output whose check gives 0 and whose engine gave y. -/
def tile (y : Word) : Tile :=
  { checked := 0, eng := 0, desc := (mat 1 0x88 0 1).d, slice := 0, kstep := 0, rows := [], elems := [], side := [], start := [0], result := [y],
    part := 0, step := 0 }
/-- Spare 32 of cluster 0 in state x, `CLU_SHADOW_CTRL` with v in it. -/
def spare32 (x : Phys) (v : Word) : State :=
  let s := withCore (coreOf pet)
  { s with phys := [(s.physIn 0 32, x)], regs := s.regs ++ [(s.cluReg 0 0x800, v)] }
/-- Spare 32, and 33 on shadow duty too. -/
def spares (x : Phys) (v : Word) : State :=
  let s := spare32 x v
  { s with phys := s.phys ++ [(s.physIn 0 33, { duty := 1 })] }

theorem meets_ShadowCheckSettles :
    (let s := spare32 { duty := 1, tiles := [tile 0] } 0x40
     (s.physCore (s.physIn 0 32)).tiles = tile 0 :: [] ∧ (s.physCore (s.physIn 0 32)).duty = 1 ∧ (s.physCore (s.physIn 0 32)).retired = false
       ∧ (s.physCore (s.physIn 0 32)).tie = none ∧ fp8Exact (tileIn (tile 0)).1.wfmt (tileIn (tile 0)).1.afmt = true
       ∧ tileMismatch (s.field (s.cluReg 0 0x800) 7 5) (tile 0) (tile 0).result (tileCheck (tile 0) (decide (s.field (s.cluReg 0 0x800) 6 1 = 1))) = false)
    ∧ (let s := spares { duty := 1, tiles := [tile 0x3F800000] } 0x1000
       s.field (s.cluReg 0 0x800) 6 1 ≠ 1
       ∧ tileMismatch (s.field (s.cluReg 0 0x800) 7 5) (tile 0x3F800000) (tile 0x3F800000).result (tileCheck (tile 0x3F800000) (decide (s.field (s.cluReg 0 0x800) 6 1 = 1))) = true
       ∧ s.field (s.cluReg 0 0x800) 12 1 = 1 ∧ s.otherSpares 0 32 ≠ [])
    ∧ (let s := spare32 { duty := 1, tiles := [tile 0x3F800000] } 0
       s.field (s.cluReg 0 0x800) 12 1 ≠ 1 ∧ (tile 0x3F800000).checked ≠ s.physIn 0 32) := by decide +kernel
theorem meets_TiebreakBlames :
    let s := spares { duty := 1, tie := some (tile 0x3F800000, [0]) } 0x1000
    (s.physCore (s.physIn 0 32)).tie = some (tile 0x3F800000, [0]) ∧ (tile 0x3F800000).checked ≠ s.physIn 0 32 ∧ s.otherSpares 0 32 ≠ []
      ∧ tileMismatch 0 (tile 0x3F800000) [0] (tileCheck (tile 0x3F800000) false) = false := by decide +kernel
theorem meets_CoreFaultAsksStandIn :
    let s := withPart (coreOf pet) part0
    (.heartbeatLoss 0, 5) ∈ coreFaults 0 0 0 ∧ s.partOf 0 = some 0 ∧ s.part 0 = some part0 ∧ part0.standing = [] ∧ part0.freeze = .no
      ∧ (s.core 0).running = true ∧ (s.core 0).halted = false ∧ (s.core 0).wait = none ∧ (s.core 0).yielded = false ∧ (s.core 0).busyMask = 0 := by decide +kernel
theorem meets_SecdedResponses :
    (let s := withPart (coreOf pet) part0; s.partOf 0 = some 0 ∧ s.part 0 = some part0)
    ∧ (let s := withCore (coreOf pet); ({ s with regs := s.regs ++ [(s.cluReg 0 0x900, 1)] } : State).cacheMode 0 = true) := by decide +kernel
theorem meets_PartitionFreezes :
    let q : Part := { part0 with freezeDue := .standIn }
    let r : Part := { q with freezeLate := true, step := some { cmd := 0, regions := 1, resAddr := 0, resLen := 0, inAddr := 0, inCount := 0, released := true } }
    (withPart (coreOf pet) q).part 0 = some q ∧ q.freezeDue ≠ .no ∧ q.freeze = .no ∧ q.step = none
      ∧ (withPart (coreOf pet) r).part 0 = some r ∧ (r.freezeLate && true) = true ∧ r.step.map (·.released) = some true := by decide +kernel
/-- The partition frozen for the stand-in of hart 0 at stage n. -/
def standing (n : Nat) : Part := { part0 with freeze := .standIn, standing := [(0, n)] }
theorem meets_StandInProceeds :
    (let s := withPart (coreOf pet) (standing 0)
     s.partOf 0 = some 0 ∧ (standing 0).freeze ≠ .no ∧ (standing 0).freeze ≠ .reset ∧ (standing 0).stage (0 * 32 + 0) = some 0
       ∧ s.spares 0 = s.physIn 0 32 :: [s.physIn 0 33] ∧ (s.clu 0).coreMap.length = 32)
    ∧ (standing 1).stage (0 * 32 + 0) = some 1 ∧ (standing 2).stage (0 * 32 + 0) = some 2 := by decide +kernel
theorem meets_ReplayReleases :
    (let s := withPart (coreOf pet) (standing 3)
     s.part 0 = some (standing 3) ∧ (standing 3).rateWait = false ∧ s.restored 0 (standing 3) = true ∧ (standing 3).repairRec = [] ∧ (standing 3).freeze ≠ .no ∧ (standing 3).freeze ≠ .reset ∧ (standing 3).step = none)
    ∧ (let st : StepRec := { cmd := 0, regions := 1, resAddr := 0, resLen := 0, inAddr := 0, inCount := 0, released := true }
       let q : Part := { standing 3 with step := some st }
       let s : State := { withPart (coreOf pet) q with regions := [(0, some { part := 0, cx := 0, cy := 0, w := 1, h := 1, advances := [0, 0, 0, 0], loaded := some 0 })] }
       s.part 0 = some q ∧ s.restored 0 q = true ∧ q.step = some st ∧ st.released = true ∧ s.rateLimited 0 = true) := by decide +kernel
theorem meets_RotationMovesACore :
    let q : Part := { part0 with rotate := true }
    let s : State := { withPart (coreOf pet) q with regions := [(0, some { part := 0, cx := 0, cy := 0, w := 1, h := 1, ended := true })] }
    s.partOf 0 = some 0 ∧ s.part 0 = some q ∧ q.rotate = true ∧ q.step = none ∧ q.freeze = .no ∧ q.freezeDue = .no ∧ q.standing = []
      ∧ q.rotated.contains 0 = false ∧ q.reset = none ∧ (s.physCore (s.physIn 0 33)).duty = 2 ∧ (s.physCore (s.physIn 0 33)).retired = false
      ∧ s.hartOf (s.physIn 0 33) = none ∧ s.atBoundary 0 = true ∧ s.busiest 0 31 = true ∧ s.physOf (0 * 32 + 31) ≠ s.physIn 0 33 := by decide +kernel
theorem meets_BlamedCoreIsReplaced :
    let s := withPart (coreOf pet) part0
    let t : State := { s with phys := [(s.physIn 0 0, { blames := [0, 0, 0] })] }
    let u : State := { s with phys := [(s.physIn 0 33, { duty := 2, blames := [0, 0, 0] })] }
    (3 ≤ t.blameCount (t.physIn 0 0) ∧ (t.physCore (t.physIn 0 0)).retired = false ∧ t.partOf 0 = some 0 ∧ t.part 0 = some part0
      ∧ t.hartOf (t.physIn 0 0) = some 0)
    ∧ 3 ≤ u.blameCount (u.physIn 0 33) ∧ (u.physCore (u.physIn 0 33)).retired = false ∧ u.hartOf (u.physIn 0 33) = none := by decide +kernel
/-! ### Dataflow -/

/-- Inbound record of region 0: circuit 5 from hart 0's queue 0 to its input queue 2, a port of the region when b. -/
def rec5 (b : Bool) : Inbound :=
  { region := 0, circuit := true, id := 5, prodHart := 0, prodQ := 0, d := 4, consHart := 0, consQ := 2, boundary := b, follow := false, gated := false,
    stepEnd := false, b := 0, balOff := 0 }
/-- Region 0: cluster 0, epoch e. -/
def reg0 (e : BitVec 3) : Region := { part := 0, cx := 0, cy := 0, w := 1, h := 1, epoch := e, loaded := some 0 }
/-- Partition 0 with region 0 at epoch e and record r; hart 0's output queue 0 holds tokens ts and is bound by word w. -/
def flow (e : BitVec 3) (r : Inbound) (w : Word) (ts : List Token) : State :=
  { withPart { coreOf { pet with outBind := [(0, w)] } with outq := [(0, { tokens := ts, out := 2 })] } { part0 with records := [r] } with
    regions := [(0, some (reg0 e))] }
/-- The same with a slot for circuit 5 at cluster 0's router: cycle 0, lane 0, from the local port back to it. -/
def slotted (s : State) : State := { s with regs := (fabBase (s.blk 0) + 0x11000, 0x4005) :: s.regs }
/-- A balancing queue of two places with `tok` in its first. -/
def balanced : Inbound := { rec5 false with b := 2, bal := [tok], balAt := 1 }
def withBal (s : State) : State := { s with mem := memWrite [] (sramBase 0) [0, 1, 2, 3, 4, 5, 6, 7] }

theorem meets_TokensMove :
    (let s := flow 0 (rec5 true) 0x101 [tok]
     tok.isMarker = false ∧ s.flows (0 / 32) = true ∧ ((s.core 0).outQ 0).tokens = tok :: [] ∧ s.outDest 0 0 = .queue 0 1 ∧ behind tok.epoch (s.epochOf (0 / 32)) = false)
    ∧ (let s := slotted (flow 0 (rec5 true) 0x2A [tok])
       s.flows (0 / 32) = true ∧ ((s.core 0).outQ 0).tokens = tok :: [] ∧ s.outDest 0 0 = .record 0 0 ∧ s.inbound 0 0 = some (rec5 true)
         ∧ (rec5 true).marks = [] ∧ s.mayEnter (s.blk (0 / 32)) (rec5 true).id.toNat = true)
    ∧ (let r := { balanced with gated := true, released := 1 }
       let s := withBal (flow 0 r 0 [])
       s.inbound 0 0 = some r ∧ s.flows r.cluster = true ∧ r.marks = [] ∧ r.bal ≠ [] ∧ s.balHead r = tok ∧ s.room r.consHart r.consQ = true ∧ 0 < r.released
         ∧ behind tok.epoch (s.epochOf (r.consHart / 32)) = false) := by decide +kernel
theorem meets_BoundaryPortAdmits :
    (let r : Inbound := { rec5 true with land := [tok], expect := some 3 }
     let s := flow 3 r 0 []
     s.inbound 0 0 = some r ∧ r.boundary = true ∧ r.closed = false ∧ r.land = tok :: [] ∧ r.expect = some 3 ∧ tok.kind ≠ kEpochMark ∧ s.flows r.cluster = true
       ∧ behind tok.epoch 3 = true)
    ∧ (behind tok.epoch 4 = false ∧ aheadOf tok.epoch 4 = true ∧ (rec5 true).dropEp ≠ some tok.epoch)
    ∧ (let r : Inbound := { rec5 true with land := [tok], expect := some 0 }
       let s := flow 3 r 0 []
       behind tok.epoch 0 = false ∧ aheadOf tok.epoch 0 = false ∧ r.b = 0 ∧ tok.kind = kData ∧ tok.isMarker = false ∧ s.room r.consHart r.consQ = true
         ∧ s.epochOf (r.consHart / 32) = s.epochOf r.cluster)
    ∧ ({ rec5 true with land := [tok], expect := some 4, held := true } : Inbound).held = true := by decide +kernel
theorem meets_StaleTokensAreDropped :
    (let s := flow 3 (rec5 false) 0x101 [tok]
     s.flows (0 / 32) = true ∧ ((s.core 0).outQ 0).tokens = tok :: [] ∧ s.outDest 0 0 = .queue 0 1 ∧ behind tok.epoch (s.epochOf (0 / 32)) = true)
    ∧ (let s := flow 1 (rec5 false) 0x2A [tok]
       s.inbound 0 0 = some (rec5 false) ∧ (rec5 false).boundary = false ∧ behind tok.epoch (s.epochOf (rec5 false).cluster) = true)
    ∧ (let s := withBal (flow 3 balanced 0 [])
       s.inbound 0 0 = some balanced ∧ s.flows balanced.cluster = true ∧ balanced.marks = [] ∧ s.canPass balanced = true
         ∧ behind (s.balHead balanced).epoch (s.epochOf balanced.cluster) = true)
    ∧ (let r := { rec5 false with land := [tok] }
       let s := flow 3 r 0 []
       s.inbound 0 0 = some r ∧ s.flows r.cluster = true ∧ r.marks = [] ∧ s.canPass r = false ∧ r.boundary = false ∧ r.land = tok :: []
         ∧ behind tok.epoch (s.epochOf r.cluster) = true) := by decide +kernel
theorem test_epoch_distance : behind 0 4 = false ∧ behind 0 3 = true ∧ behind 0 1 = true ∧ behind 0 0 = false ∧ aheadOf 4 0 = true ∧ aheadOf 5 0 = false := by decide

theorem meets_CreditsAndPackets :
    (let s := flow 0 (rec5 true) 0x101 [tok]; s.inLoop 0 0 < ((s.core 0).outQ 0).out)
    ∧ (let s := flow 0 (rec5 true) 0x91A4 [tok]
       s.outDest 0 0 = .packets 0x1234 ∧ s.flows (0 / 32) = true ∧ isMoverEid 0x1234 = false ∧ ((s.core 0).outQ 0).tokens = tok :: []
         ∧ closedRun ((s.core 0).outQ 0).pack = false)
    ∧ (let m : Token := { tok with tag := 0x8 }
       let s : State := { flow 0 (rec5 true) 0x91A4 [] with cores := [(0, { coreOf { pet with outBind := [(0, 0x91A4)] } with outq := [(0, { pack := [tok, m] })] })] }
       s.outDest 0 0 = .packets 0x1234 ∧ ((s.core 0).outQ 0).pack = [tok, m] ∧ (s.clu (0 / 32)).marks = [] ∧ ((s.core 0).outQ 0).tokens = []
         ∧ closedRun ((s.core 0).outQ 0).pack = true) := by decide +kernel
/-- An END_ROW marker, and a STEER token that names input i. -/
def endRow : Token := { tok with tag := 0x8 }
def steerTok (i : BitVec 512) : Token := { tag := 0x20, payload := i }
/-- Cluster 0's steering unit 3 in mode m, its inputs x, and order o. -/
def steering (m : Nat) (x : Tbl (List Token)) (o : List (Nat × Nat)) : State :=
  { withCore (coreOf pet) with clusters := [(0, { steerMode := [(3, m)], steer := [(3, { inputs := x, order := o })] })] }
theorem meets_SteeringRoutesGroups :
    (let s := steering 1 [(0, [tok, endRow, tok])] [(7, 0)]
     s.flows 0 = true ∧ firstGroup false (((s.clu 0).unit 3).input 0) = (tok :: [endRow], true, [tok]) ∧ tget 0 (s.clu 0).steerMode 3 = 1
       ∧ ((s.clu 0).unit 3).outputs = [] ∧ tokenAlone tok = false ∧ tok.kind ≠ kSteer)
    ∧ (let s := steering 1 [(0, [steerTok 0, endRow])] [(7, 0)]
       firstGroup false (((s.clu 0).unit 3).input 0) = (steerTok 0 :: [endRow], true, []) ∧ tokenAlone (steerTok 0) = false ∧ (steerTok 0).kind = kSteer)
    ∧ (let s := steering 2 [(1, [tok, endRow])] [(7, 1), (8, 0)]
       firstGroup false (((s.clu 0).unit 3).input 1) = (tok :: [endRow], true, []) ∧ tget 0 (s.clu 0).steerMode 3 = 2 ∧ ((s.clu 0).unit 3).order = (7, 1) :: [(8, 0)])
    ∧ (let s := steering 3 [(2, [tok, endRow]), (3, [steerTok 2])] []
       firstGroup false (((s.clu 0).unit 3).input 2) = (tok :: [endRow], true, []) ∧ tget 0 (s.clu 0).steerMode 3 = 3
         ∧ ((s.clu 0).unit 3).input 3 = steerTok 2 :: [] ∧ (steerTok 2).kind = kSteer ∧ tokenPay (steerTok 2) 0 1 = 2) := by decide +kernel

/-- A step of region 0. -/
def step0 : StepRec := { cmd := 0, regions := 1, resAddr := 0, resLen := 0, inAddr := 0, inCount := 0 }
def stepping (q : Part) : State := { withPart (coreOf pet) q with regions := [(0, some (reg0 0))] }
theorem meets_StepsBeginAndEnd :
    (let q : Part := { part0 with step := some step0 }
     (stepping q).part 0 = some q ∧ q.step = some step0 ∧ (stepping q).canRelease 0 q step0 = true)
    ∧ (let st := { step0 with released := true }
       let q : Part := { part0 with step := some st }
       let s : State := { stepping q with cores := [] }
       s.part 0 = some q ∧ q.step = some st ∧ st.released = true ∧ q.freeze = .no
         ∧ (∀ e ∈ s.stepRegions 0 st, s.regionDone q e.1 e.2 = true) ∧ s.stepRegions 0 st = [(0, reg0 0)])
    ∧ part0.step = none := by decide +kernel
theorem meets_StalledRegionIsCleared :
    let r : Region := { reg0 0 with still := 0x100000 }
    let s : State := { stepping part0 with cores := [(0, { coreOf pet with inq := [(0, { tokens := [tok] })] })], regions := [(0, some r)] }
    s.region 0 = some r ∧ s.part r.part = some part0 ∧ r.act = none ∧ part0.freeze = .no ∧ 0x100000 ≤ r.still ∧ s.pendingIn part0 0 r = true
      ∧ (reg0 0).still < 0x100000 := by decide +kernel
theorem meets_FoldAdvances :
    let s : State := { withCore { coreOf pet with running := false } with clusters := [(0, { foldCount := 2, fold := [(0, { mask := 1 }), (1, { mask := 1, petal := 3 })] })] }
    s.flows 0 = true ∧ (s.clu 0).foldAt + 1 < (s.clu 0).foldCount
      ∧ (∀ k ∈ onesOf ((s.clu 0).foldE 0).mask.toNat 32, ((s.core (0 * 32 + k)).yielded = true ∨ (s.core (0 * 32 + k)).running = false) ∧ (s.core (0 * 32 + k)).switchTo = none)
      ∧ ((s.clu 0).foldE 0).loopTo = 0xFF ∧ s.foldReady 0 1 = true ∧ s.follower 0 = false ∧ onesOf ((s.clu 0).foldE 1).mask.toNat 32 = [0] ∧ (s.core 0).petal ≠ ((s.clu 0).foldE 1).petal := by decide +kernel
theorem meets_FoldAdvances_waits :
    let s : State := { withCore { coreOf pet with running := false, eng := [(0, { queue := [{ d := 0, off := 0 }] })] } with
      clusters := [(0, { foldCount := 2, fold := [(0, { mask := 1 }), (1, { mask := 1, petal := 3 })] })] }
    s.flows 0 = true ∧ (s.clu 0).foldAt + 1 < (s.clu 0).foldCount ∧ s.foldReady 0 1 = false := by decide +kernel
theorem meets_SwitchAndSample :
    (let s := withCore { coreOf pet with switchTo := some 3 }
     (s.core 0).switchTo = some 3 ∧ (s.core 0).yielded = false ∧ s.flows (0 / 32) = true ∧ s.switchOk 0 3 = true ∧ 0 ∈ s.groupOf 0 ∧ 3 ≠ (s.core 0).petal)
    ∧ (let s : State := { withPart (coreOf pet) part0 with regs := [(State.reset.cluReg 0 0x844, 0x20), (State.reset.cluReg 0 0x848, 0)] }
       s.field (s.cluReg 0 0x844) 5 1 = 1 ∧ s.partOf 0 = some 0 ∧ s.part 0 = some part0 ∧ part0.ownsHbm 0 320 = true) := by decide +kernel

/-! ### Bulk movers -/

theorem meets_MoverDescriptorsQueue :
    (let s := flow 0 (rec5 true) (4 + 0xFFFFE5 * 8) [tok]
     ((s.core 0).outQ 0).tokens = tok :: [] ∧ s.outDest 0 0 = .packets 0xFFFFE5 ∧ isMoverEid 0xFFFFE5 = true ∧ s.flows (0 / 32) = true ∧ behind tok.epoch (s.epochOf (0 / 32)) = false
       ∧ imageChan ((0xFFFFE5 : BitVec 24).toNat - 0xFFFFE0) = true ∧ tok.kind = kData ∧ ((s.clu 0).chan 5).queue.length < 4)
    ∧ isMoverEid 0xFFFFE6 = true ∧ imageChan ((0xFFFFE6 : BitVec 24).toNat - 0xFFFFE0) = false ∧ endRow.kind ≠ kData := by decide +kernel
/-- A bulk-mover descriptor of version 1: operation op, flags f in byte 1, endpoint e, eight bytes from 0x100 to 0x200. -/
def bmDesc (op f e : Nat) : BitVec 512 := BitVec.ofNat 512 (1 + op * 2 ^ 4 + f * 2 ^ 8 + 0x100 * 2 ^ 16 + 0x200 * 2 ^ 64 + e * 2 ^ 112 + 7 * 2 ^ 176)
/-- Cluster 0 with that descriptor at the head of channel 0. -/
def moving (d : BitVec 512) : State := { withCore (coreOf pet) with clusters := [(0, { chans := [(0, { queue := [d] })] })] }
theorem meets_MoverOperations :
    (((moving (bmDesc 1 0 0)).clu 0).chan 0).queue = bmDesc 1 0 0 :: [] ∧ (((moving (bmDesc 1 0 0)).clu 0).chan 0).run = none
      ∧ (moving (bmDesc 1 0 0)).flows 0 = true ∧ (moving (bmDesc 1 0 0)).bmHeld 0 (bmDesc 1 0 0) = false := by decide +kernel
theorem meets_MoverOperations_check :
    (bmCheck (bmDesc 1 0xC0 0) = some stVersion ∧ bmOp (bmDesc 1 0xC0 0) = opCopy) ∧ bmCheck (bmDesc 5 0 0) = some stFault ∧ bmOp (bmDesc 5 0 0) = opContrib := by
  refine ⟨⟨?_, ?_⟩, ?_, ?_⟩ <;> decide +kernel
theorem meets_MoverOperations_copy :
    (bmCheck (bmDesc 1 0x20 7) = none ∧ bmOp (bmDesc 1 0x20 7) = opCopy ∧ bmDstRemote (bmDesc 1 0x20 7) = true)
    ∧ bmCheck (bmDesc 1 0xC 0) = none ∧ bmDstRemote (bmDesc 1 0xC 0) = false ∧ bmSrcRemote (bmDesc 1 0xC 0) = false ∧ bmOverlaps 0 (bmDesc 1 0xC 0) = false := by
  refine ⟨⟨?_, ?_, ?_⟩, ?_, ?_, ?_, ?_⟩ <;> decide +kernel
theorem meets_MoverOperations_fill : bmCheck (bmDesc 2 0 0) = none ∧ bmOp (bmDesc 2 0 0) = opFill ∧ bmDstRemote (bmDesc 2 0 0) = false := by
  refine ⟨?_, ?_, ?_⟩ <;> decide +kernel
theorem meets_MoverOperations_crc : bmCheck (bmDesc 3 0x10 7) = none ∧ bmOp (bmDesc 3 0x10 7) = opCrc ∧ bmSrcRemote (bmDesc 3 0x10 7) = true := by
  refine ⟨?_, ?_, ?_⟩ <;> decide +kernel
theorem meets_MoverOperations_invalidate : bmCheck (bmDesc 4 0 0) = none ∧ bmOp (bmDesc 4 0 0) = opInval ∧ bmSrcLocal (bmDesc 4 0 0) = false := by
  refine ⟨?_, ?_, ?_⟩ <;> decide +kernel
theorem meets_MoverOperations_contrib : bmCheck (bmDesc 5 0x20 7) = none ∧ bmOp (bmDesc 5 0x20 7) = opContrib := by
  refine ⟨?_, ?_⟩ <;> decide +kernel
theorem meets_MoverCompletes :
    let r : BmRun := { desc := bmDesc 1 0 0 }
    let w : BmRun := { desc := bmDesc 1 0 0 + BitVec.ofNat 512 (2 ^ 167) }
    let s : State := { withCore (coreOf pet) with clusters := [(0, { chans := [(15, { run := some r })] })] }
    ((s.clu 0).chan 15).run = some r ∧ s.flows 0 = true ∧ s.bmDone 0 15 r = true ∧ bmf r.desc 18 23 1 = 0 ∧ bmf w.desc 18 23 1 = 1 ∧ bmDstRemote w.desc = false := by
  decide +kernel
theorem meets_AuditOfResidentData :
    let d : DataRec := { region := 0, cluster := 0, target := 0, offset := 0, hbm := 0, length := 4, crc := 0 }
    let q : Part := { part0 with data := [d], step := some step0 }
    let s := stepping q
    s.part 0 = some q ∧ q.auditS ≠ 0 ∧ q.auditAt ≤ s.now ∧ s.now < ({ q with auditAt := 1 } : Part).auditAt ∧ q.data[0]? = some d ∧ s.dataHolds d = false ∧ s.auditSkips d.region q = false ∧ q.step.isSome = true ∧ q.repairRec.contains 0 = false := by
  decide +kernel
/-! The check of a seam word and of a flit, where the kernel would have to run a whole CRC or search every pair of errors. -/

theorem crcBit_lt (c : Nat) (h : c < 2 ^ 32) : crcBit 0x82F63B78 c < 2 ^ 32 := by
  unfold crcBit
  split
  · exact Nat.xor_lt_two_pow (by omega) (by decide)
  · omega

theorem crcByte_lt (c : Nat) (b : Byte) (h : c < 2 ^ 32) : crcByte 0x82F63B78 c b < 2 ^ 32 := by
  have hb : b.toNat < 2 ^ 32 := Nat.lt_of_lt_of_le b.isLt (by decide)
  exact crcBit_lt _ (crcBit_lt _ (crcBit_lt _ (crcBit_lt _ (crcBit_lt _ (crcBit_lt _ (crcBit_lt _ (crcBit_lt _ (Nat.xor_lt_two_pow h hb))))))))

theorem crcRefl_lt (bs : Bytes) (c : Nat) (h : c < 2 ^ 32) : crcRefl 0x82F63B78 c bs < 2 ^ 32 := by
  unfold crcRefl
  induction bs generalizing c with
  | nil => exact h
  | cons b bs ih => exact ih _ (crcByte_lt c b h)

theorem leNat_natLe4 (v : Nat) (h : v < 2 ^ 32) : leNat (natLe 4 v) = v := by
  simp only [natLe, leNat, BitVec.toNat_ofNat]; omega

theorem wordOk_of (b : Bytes) (h : b.length = 553) : Machine.wordOk (b ++ natLe 4 (crc32c b)) = true := by
  have l : (natLe 4 (crc32c b)).length = 4 := rfl
  have c : crc32c b < 2 ^ 32 := Nat.xor_lt_two_pow (crcRefl_lt b _ (by decide)) (by decide)
  unfold Machine.wordOk fld slice
  rw [List.take_left' h, List.drop_left' h, List.take_of_length_le (Nat.le_of_eq l), leNat_natLe4 _ c, List.length_append, h, l]
  simp

theorem gfMulN_zero (n b : Nat) : gfMulN n 0 b = 0 := by
  induction n generalizing b with
  | zero => rfl
  | succ n ih => unfold gfMulN; rw [show gfDouble 0 = 0 from rfl, ih]; split <;> rfl

theorem gfMul_zero (b : Nat) : gfMul 0 b = 0 := gfMulN_zero 8 b

/-- Syndromes 0, 0, 0, 1 are those of no one or two errors. -/
theorem no_errors (n : Nat) : fecErrors n 0 0 0 1 = none := by
  unfold fecErrors
  rw [if_neg (by decide)]
  have h : ((List.range n).find? fun d => decide ((0 : Nat) ≠ 0) && decide (gfMul 0 (gfPow 2 d) = 0) && decide (gfMul 0 (gfPow 2 d) = 0)
      && decide (gfMul 0 (gfPow 2 d) = 1)) = none := by simp
  dsimp only
  rw [h]
  simp [gfMul_zero]

/-- A flit of zeros whose first interleave's check symbols give those syndromes. -/
def uncorrectable : Bytes := List.replicate 244 0 ++ [162, 0, 0, 73, 0, 0, 146, 0, 0, 121, 0, 0]

theorem meets_FlitsAndReplay_fec : uncorrectable.length = 256 ∧ fecCorrect uncorrectable = none := by
  refine ⟨by decide +kernel, ?_⟩
  have h : fecErrors (interleave uncorrectable 0).length (syndrome (interleave uncorrectable 0) 0) (syndrome (interleave uncorrectable 0) 1)
      (syndrome (interleave uncorrectable 0) 2) (syndrome (interleave uncorrectable 0) 3) = none := by
    rw [show syndrome (interleave uncorrectable 0) 0 = 0 by decide +kernel, show syndrome (interleave uncorrectable 0) 1 = 0 by decide +kernel,
      show syndrome (interleave uncorrectable 0) 2 = 0 by decide +kernel, show syndrome (interleave uncorrectable 0) 3 = 1 by decide +kernel]
    exact no_errors _
  unfold fecCorrect fecDecode
  simp only [show List.range 3 = [0, 1, 2] from rfl, List.map_cons, List.all_cons, h, Option.isSome_none, Bool.false_and, Bool.false_eq_true, if_false, Option.map_none]
/-! ### Stacks -/

/-- A request header token: version 1, operation op, page 7, slot sl, format E4M3, heads of 64; n in `NPAGES`. -/
def reqTok (op sl n : Nat) : Token := { tag := 0, payload := BitVec.ofNat 512 (1 + op * 16 + n * 2 ^ 48 + 7 * 2 ^ 160 + sl * 2 ^ 192 + 2 ^ 208) }
/-- A request group of a header, k body tokens and the END_ROW. -/
def group (op sl n k : Nat) : List Token := reqTok op sl n :: List.replicate k tok ++ [endRow]
/-- Cluster 0 belongs to partition 0 at stack 0; page 7 is the partition's, valid, in E4M3 with heads of 64 and FILL f. -/
def paged (f : Nat) : State :=
  let s := withPart (coreOf pet) part0
  { s with regs := (sbdBase 0 + 0x400, 0x80) :: s.regs, stackTbl := [(0, { pte := [(7, BitVec.ofNat 64 (1 + 2 ^ 7 + 2 ^ 8 + f * 2 ^ 14 + 2 ^ 61))] })] }

/-- The group stands first at stack 0. -/
def standing0 (s : State) (r : List Token) : State := s.setStack 0 { s.stack 0 with inbox := [(0, r)], order := [0] }
/-- Every request group below is served, and its page is the partition's. -/
def servedPage (f op sl n k : Nat) : Bool :=
  let r := group op sl n k
  let s := standing0 (paged f) r
  let u := s.takeRequest 0 0 r
  s.field (sbdBase 0 + 4) 0 2 ≠ 2 && s.turnOf 0 0 r && u.cluPart 0 0 == some 0 && !u.absorbs 0 && (reqOf r).ok && !u.stackFenced 0 0 && (reqOf r).counts r
    && (reqOf r).op == op && (u.pageOf 0 0 (reqOf r)).any fun e => e.valid && e.hdim == (reqOf r).hdim && e.fill == f && (reqOf r).slot == sl && (reqOf r).fmt == 1

theorem meets_PageRequestsServed :
    servedPage 3 3 512 0 0 = true ∧ servedPage 3 4 0 0 0 = true ∧ servedPage 3 5 3 0 0 = true ∧ servedPage 3 5 4 0 0 = true ∧ servedPage 511 2 511 0 4 = true
      ∧ servedPage 3 1 0 1 4 = true ∧ kvFormat 1 = true ∧ kvSlots 1 64 = 512 ∧ (paged 3).field pwrBase 3 1 = 0 ∧ (paged 3).field (sbdBase 0 + 4) 4 3 ≠ 4
      ∧ (paged 3).stackFenced 0 0 = false ∧ (((paged 3).stack 0).replies.filter fun r => r.pass).length < 16 := by decide +kernel
theorem meets_ResponsesLeave :
    (let r : Reply := { eid := 0x1234, part := some 0, pass := false, tokens := [tok, endRow], fenced := [] }
     let s : State := { State.reset with stackTbl := [(23, { replies := [r] })] }
     (s.stack 23).replies.find? (fun r => s.replyCredit 23 r) = some r ∧ s.replyTo r = none)
    ∧ (let r : Reply := { eid := 0x1234, part := some 0, pass := false, tokens := [tok, endRow], fenced := [] }
       let s : State := { withPart (coreOf pet) { part0 with records := [{ rec5 true with circuit := false, id := 0x1234 }] } with
         stackTbl := [(23, { replies := [r] })], resident := [(0, 0x1001234)] }
       (s.stack 23).replies.find? (fun r => s.replyCredit 23 r) = some r ∧ s.replyTo r ≠ none) := by decide +kernel
theorem meets_StackEvents :
    let q : Part := { part0 with discardDue := true }
    let s := withPart (coreOf pet) q
    let u := (List.range 24).foldl (fun s k => s.endPasses k 0 q.clusters) s
    s.part 0 = some q ∧ q.discardDue = true ∧ u.requestsFly q = false ∧ (∀ k, k < 24 → s.field (sbdBase k + 0x200 + 4 * 0) 18 1 ≠ 1)
      ∧ (0xFFFFFFFFF : BitVec 36).toNat < s.stackBytes ∧ s.stackLost 23 = false ∧ (s.stack 23).ueUnits.contains ((0xFFFFFFFFF : BitVec 36).toNat / 64 * 64) = false
      ∧ 1048575 < s.stackPages ∧ (s.stack 23).cooled ([84, 1, 1, 1].foldl Nat.max 0) s.now = ((s.stack 23).heat, (s.stack 23).coolAt) ∧ (s.stack 23).heat ≠ 6
      ∧ s.field (sbdBase 23 + 0x100 + 4 * 31) 0 2 ≠ 2 ∧ (s.stack 23).retrain = none ∧ (s.stack 23).retrainDue = []
      ∧ (∀ u ∈ (s.stack 23).ueUnits, (dramPlace u).row ≠ 16383)
      ∧ ((s.setStack 23 { s.stack 23 with retrain := some (31, none) }).stack 23).retrain = some (31, none) := by decide +kernel
theorem meets_StackEvents_waits :
    let q : Part := { part0 with discardDue := true }
    let s := withPart (coreOf pet) q
    let v : State := { s with clusters := [(0, { sendBuf := [tokensPacket 0xFFFFC0 (s.cluEid 0) [tok]] })] }
    ((List.range 24).foldl (fun s k => s.endPasses k 0 q.clusters) v).requestsFly q = true := by decide +kernel
theorem meets_SmallerStacksEndEarlier :
    ({ State.reset with hw := { e48 := true } } : State).hw.e48 = true ∧ (reqHdr { tok with payload := BitVec.ofNat 512 (786432 * 2 ^ 160) }).ppn = 786432 := by decide +kernel

/-! ### Fabric and links -/

/-- A WRITE of 32 bytes from EID 0x40 to EID d with SEQ q. -/
def writePkt (d : BitVec 24) (fence : Bool) (q : Half) : Packet := ({ mkPacket 0 0x01 d 0x40 0x100 fence (List.replicate 32 7) with seq := q }).sealed
/-- An answer of class 2 to EID 0x40 from EID 0x99. -/
def answerPkt (op addr : Nat) (payload : Bytes) : Packet := mkPacket 2 op 0x40 0x99 addr false payload
/-- The panel's EIDs begin at 0x40. -/
def numbered (s : State) : State := { s with bar0 := [(0x14, 0x40)] }

theorem meets_PacketsLeaveTheSendBuffer :
    (let p := answerPkt 0x20 0 []
     let v := ({ State.reset with clusters := [(575, { sendBuf := [p] })] } : State).sendWaiting 575
     (v.clu 575).sendBuf.find? (fun p => (p.isReply && !v.packetsHeld) || v.canSend 575 p.key) = some p ∧ p.isReply = true)
    ∧ (let p := writePkt 0x99 false 0
       let v := ({ State.reset with clusters := [(0, { sendBuf := [p] })] } : State).sendWaiting 0
       (v.clu 0).sendBuf.find? (fun p => (p.isReply && !v.packetsHeld) || v.canSend 0 p.key) = some p ∧ p.isReply = false) := by decide +kernel

/-- The east port of site 0's quadrant 1, and a good idle word number n. -/
def east : PortRef := ⟨0, 1, 1⟩
def idleWord (n : Nat) : Bytes := let b := List.replicate 552 (0 : Byte) ++ [BitVec.ofNat 8 n]; b ++ natLe 4 (crc32c b)
theorem longWord : Machine.wordOk (idleWord 0 ++ [0]) = false := by
  have h : ¬ List.length (idleWord 0 ++ [0]) = 557 := by decide +kernel
  unfold Machine.wordOk
  rw [decide_eq_false h]
  rfl
/-- The panel with its routes in place. -/
def routed : State := { State.reset with sparing := { State.reset.sparing with routesUp := true } }
theorem meets_SeamsCarryWords :
    routed.seamRuns east = true ∧ Machine.wordOk (idleWord 0) = true ∧ Machine.wordOk (idleWord 0 ++ [0]) = false
      ∧ routed.lateFull east (idleWord 0) = false
      ∧ wordSeq (idleWord 0) = (((routed.peer east).elim routed fun o => routed.sendWord o).seam east).expect :=
  ⟨by decide +kernel, wordOk_of _ (by decide +kernel), longWord, by decide +kernel, by decide +kernel⟩
theorem meets_SeamsCarryWords_ahead :
    let s := routed.setSeam east { nak := true }
    let u := (s.peer east).elim s fun o => s.sendWord o
    s.seamRuns east = true ∧ s.lateFull east (idleWord 1) = false ∧ wordSeq (idleWord 1) ≠ (u.seam east).expect ∧ (u.seam east).nak = true ∧ (u.seam east).ahead = [] := by
  decide +kernel
theorem meets_SeamsCarryWords_resend :
    (let s := routed.setSeam east { nak := true }; s.peer east = some ⟨1, 0, 3⟩ ∧ (s.seam east).nak = true ∧ (s.seam east).resends ≠ 1 ∧ (s.seam east).recent = [])
    ∧ (let s := routed.setSeam east { nak := true, resends := 1 }; (s.seam east).nak = true ∧ (s.seam east).resends = 1)
    ∧ (let u : BitVec 552 := BitVec.ofNat 552 (7 * 2 ^ 548)
       let s := routed.setSeam east { late := [u] }
       (s.seam east).late.find? (fun u => decide (unitLane u = 7)) = some u ∧ east.onSeam = true ∧ (s.seam east).offline = false) := by decide +kernel
theorem meets_SeamsRetrain :
    routed.seamRuns east = true ∧ (routed.seam east).offline = false ∧ ((routed.setSeam east { offline := true }).seam east).offline = true
      ∧ (routed.setSeam east { offline := true }).replaced east + (onesOf (2 ^ 64 - 1) 64).length ≤ 64 ∧ routed.blkCluster east.blk = some 1
      ∧ (let m : Moving := { target := .cluster 5, net := 0, src := 1, legs := [{ key := routed.blk 1 * 5 + 4, got := 1, sent := 0 }], pkt := writePkt 0x99 false 0 }
         (({ routed with moving := [m] } : State).moving.filter fun m => m.legs.any fun l => decide (l.key / 5 = routed.blk 1))[0]? = some m) := by decide +kernel

/-- Port 35 in link state v. -/
def linked (v : Word) (x : LinkPort) : State := { State.reset with regs := [(linkReg 35 0, v)], ports := [(35, x)] }
theorem meets_FlitsAndReplay :
    (linked 1 {}).native 35 = true ∧ (linked 1 {}).field (linkReg 35 0) 0 2 ≠ 0 ∧ (linked 1 {}).field (linkReg 35 0) 0 2 ≠ 3 ∧ (mkFlit 1 [5]).length = 256
      ∧ fecCorrect (mkFlit 1 [5]) = some (mkFlit 1 [5], 0) := by decide +kernel
theorem meets_FlitsAndReplay_data :
    crc64 ((mkFlit 1 [5]).take 236) = fld (mkFlit 1 [5]) 236 8 ∧ bits (fld (mkFlit 1 [5]) 0 4) 0 2 = 1
      ∧ (BitVec.ofNat 12 (bits (fld (mkFlit 1 [5]) 0 4) 2 12) ≠ ({} : LinkPort).rxSeq + 1 ∨ BitVec.ofNat 12 (bits (fld (mkFlit 1 [5]) 0 4) 2 12) = ({} : LinkPort).rxSeq + 1)
      ∧ (BitVec.ofNat 12 (bits (fld (mkFlit 9 [5]) 0 4) 2 12) ≠ ({} : LinkPort).rxSeq + 1
         ∧ 2048 ≤ (({} : LinkPort).rxSeq - BitVec.ofNat 12 (bits (fld (mkFlit 9 [5]) 0 4) 2 12)).toNat) := by decide +kernel
theorem meets_FlitsAndReplay_crc :
    fecCorrect (List.replicate 256 0) = some (List.replicate 256 0, 0) ∧ crc64 ((List.replicate 256 (0 : Byte)).take 236) ≠ fld (List.replicate 256 0) 236 8 := by decide +kernel
theorem meets_FlitsAndReplay_resend :
    (linked 1 { resend := [[]] }).field (linkReg 35 0) 0 2 = 1 ∧ ((linked 1 { resend := [[]] }).port 35).resend ≠ []
      ∧ (0 :: ((linked 1 { resend := [[]], replays := List.replicate 999 0 }).port 35).replays.filter fun t => decide (0 < t + usec 1000)).length ≤ 1000
      ∧ 1000 < (0 :: ((linked 1 { resend := [[]], replays := List.replicate 1000 0 }).port 35).replays.filter fun t => decide (0 < t + usec 1000)).length := by decide +kernel
theorem meets_PortsTrain :
    (linked 1 {}).native 35 = true ∧ byteAt (1 :: List.replicate 23 0) 0 = 1 ∧ byteAt [2, 4, 0xF, 0, 0] 0 = 2 ∧ (linked 2 {}).field (linkReg 35 0) 0 2 = 2
      ∧ (linked 2 {}).epochsMatch 35 = true ∧ (linked 1 {}).field (linkReg 35 0) 0 2 ≠ 3
      ∧ proposal (0xFF : BitVec 8).toNat = some (8, 0xFF) ∧ agreed (8, 0xFF) (0x18 : BitVec 8).toNat (0xFF : BitVec 8).toNat = some (8, 0xFF) := by decide +kernel
theorem meets_LinkDieResolves :
    (let p := { writePkt 0x99 false 0 with hcrc := 0 }
     State.reset.linkLost 5 = false ∧ packetSound p = false ∧ State.reset.moving.find? (fun m => decide (m.pkt = p) && m.waitsAt 5) = none ∧ State.reset.underWay p = false)
    ∧ (let p := writePkt 0x99 false 0
       let s : State := { State.reset with ept := [(0x99, 0x8000)] }
       let e := s.eptEntry p.dest
       packetSound p = true ∧ s.dieReady 5 p = true ∧ p.dest ≠ 0 ∧ p.dest.toNat < 0xFF0000 ∧ bitOf e 15 = true ∧ bitOf e 14 = false ∧ p.mcast = false ∧ bits e 12 2 = 0 ∧ p.cls ≠ 3)
    ∧ (let p := writePkt 0x99 false 0
       let s : State := { State.reset with ept := [(0x99, 0x98C0)] }
       let e := s.eptEntry p.dest
       s.dieReady 5 p = true ∧ bitOf e 15 = true ∧ bitOf e 14 = false ∧ bits e 12 2 = 1 ∧ bits e 6 6 = 35)
    ∧ (let p := writePkt 0x99 false 0
       let m : Moving := { target := .exit 29, net := 0, src := 0, pkt := p }
       let s : State := { State.reset with moving := [m] }
       s.moving.find? (fun m => decide (m.pkt = p) && m.waitsAt 5) = some m ∧ m.src ≠ agGleryn)
    ∧ packetSound (writePkt 0xFF0000 false 0) = true ∧ packetSound (writePkt 0 false 0) = true := by decide +kernel

/-! ### End to end -/

theorem meets_RequestsAreReceived :
    let p := writePkt 0xFFFFFE false 0
    let u := State.reset.arrives p
    p.opcode.toNat = 0x01 ∧ State.reset.stackFull p = false ∧ p.cls ≠ 2 ∧ u.agentOf p.dest = some agGleryn ∧ u.absorbing p.dest = none ∧ u.refusal agGleryn p (State.reset.passedTable p) = none ∧ State.reset.underWay p = false
      ∧ State.reset.accessHeld p = false
      ∧ u.recvCount agGleryn < recvLimit agGleryn ∧ ({ key := p.key, e := p.seq } : RecvFlow).isNew p.seq = true ∧ p.fence = false := by decide +kernel
theorem meets_RequestsAreReceived_store :
    let p := writePkt 0xFFFFFE true 5
    let s : State := { State.reset with recvs := [{ key := p.key, e := 0 }] }
    let f := (s.recvFlow p.key).getD { key := p.key, e := p.seq }
    let g := ({ f with seen := p.seq.toNat :: f.seen, used := s.now } : RecvFlow).advance 1025
    (s.recvFlow p.key).isSome = true ∧ f.isNew p.seq = true ∧ p.fence = true ∧ g.ahead p.seq < 1024 ∧ s.stored agGleryn < storeLimit agGleryn := by decide +kernel
theorem meets_RequestsAreReceived_duplicate :
    let p := writePkt 0xFFFFFE false 0xFFFF
    let s : State := { State.reset with recvs := [{ key := p.key, e := 0 }] }
    ((s.recvFlow p.key).getD { key := p.key, e := p.seq }).isNew p.seq = false := by decide +kernel
theorem meets_RequestsAreReceived_others :
    State.reset.refusal agGleryn (mkPacket 0 0x02 0xFFFFFE 0x40 0 false []) false = none ∧ State.reset.refusal agGleryn (mkPacket 0 0x03 0xFFFFFE 0x40 0 false []) false = none
      ∧ State.reset.refusal agGleryn (mkPacket 0 0x11 0xFFFFFE 0x40 0 false []) false = none ∧ State.reset.refusal agStack (mkPacket 0 0x10 0xFFFFC0 0x40 0 true []) false = none
      ∧ State.reset.agentOf 0xFFFFC0 = some agStack := by decide +kernel
theorem meets_RequestsAreReceived_full :
    let p := mkPacket 0 0x10 0xFFFFC0 0x40 0 true []
    let s : State := { State.reset with recvs := List.replicate 512 { key := { p.key with src := 0x41 }, e := 0 } }
    s.recvFlow p.key = none ∧ recvLimit agStack ≤ s.recvCount agStack := by decide +kernel

/-- A flow from EID 0x40 to EID 0x99 of class c with one unacknowledged packet w. -/
def awaitingPkt (c : BitVec 2) (w : Unacked) : State := { numbered (withCore (coreOf pet)) with sends := [{ key := { src := 0x40, dest := 0x99, cls := c }, unack := [w] }] }
theorem meets_AnswersSettlePackets :
    let w : Unacked := { pkt := writePkt 0x99 false 0 }
    let s := awaitingPkt 0 w
    let a := answerPkt 0x20 0 []
    let n := answerPkt 0x21 2 []
    let k : FlowKey := { src := 0x40, dest := 0x99, cls := 0 }
    s.absorbing a.dest = none ∧ a.opcode.toNat = 0x20 ∧ a.addr = 0 ∧ s.awaiting a.dest a.src [0, 1] a.seq = some (k, w) ∧ w.pkt.opcode ≠ 0x02 ∧ w.pkt.opcode ≠ 0x03
      ∧ w.pkt.mcast = false ∧ n.opcode.toNat = 0x21 ∧ s.awaiting n.dest n.src [0, 1] n.seq = some (k, w) ∧ bits n.addr.toNat 0 8 = stBusy := by decide +kernel
theorem meets_AnswersSettlePackets_coll :
    let w : Unacked := { pkt := mkPacket 3 0x30 0x99 0x40 0 false [] }
    let p := mkPacket 3 0x32 0x40 0x99 0 false []
    p.opcode.toNat = 0x32 ∧ (awaitingPkt 3 w).awaiting p.dest p.src [3] p.seq = some ({ src := 0x40, dest := 0x99, cls := 3 }, w) ∧ w.pkt.mcast = false := by decide +kernel
theorem meets_AnswersSettlePackets_read :
    let w : Unacked := { pkt := mkPacket 0 0x02 0x99 0x40 0 false [], chan := some 3 }
    let x : Piece := { remote := 0, size := 32, len := 32, loc := 0, seq := some 0 }
    let r : BmRun := { desc := 0, reads := [x] }
    let p := answerPkt 0x22 0 (List.replicate 32 9)
    let s : State := { awaitingPkt 0 w with clusters := [(0, { chans := [(3, { run := some r })] })] }
    p.opcode.toNat = 0x22 ∧ s.awaiting p.dest p.src [0] p.seq = some ({ src := 0x40, dest := 0x99, cls := 0 }, w) ∧ w.pkt.opcode = 0x02 ∧ s.clusterOfEid p.dest = some 0
      ∧ w.chan = some 3 ∧ ((s.clu 0).chan 3).run = some r ∧ r.reads.find? (fun y => decide (y.seq = some p.seq) && y.data.isNone) = some x ∧ x.line = false := by decide +kernel
theorem meets_AnswersSettlePackets_credit :
    let p := answerPkt 0x23 1 []
    let s := numbered (withCore { coreOf { pet with outBind := [(7, 4 + 0x99 * 8)] } with outq := [(7, { out := 1, total := 1 })] })
    p.opcode.toNat = 0x23 ∧ s.clusterOfEid p.dest = some 0 ∧ s.boundTo 0 p.src = [(0, 7)] := by decide +kernel
/-- A context of 4 FP32 elements at link die 5's engine 3. -/
def ctx0 : CollCtx :=
  { eid := 0x700, op := 0, bf16 := false, n := 2, segs := 1, segElems := 4, lastElems := 4, slots := 1, outEid := 0x40, outAddr := 0, doneAddr := 0, timeout := 100 }
theorem meets_GroupsAndContexts :
    (let p := answerPkt 0x25 3 []
     let s : State := { numbered (withCore (coreOf pet)) with sends := [{ key := { src := 0x40, dest := 0x99, cls := 0 } }] }
     p.opcode.toNat = 0x25 ∧ s.absorbing p.dest = none ∧ s.sendFlow { src := p.dest, dest := p.src, cls := 0 } = some { key := { src := 0x40, dest := 0x99, cls := 0 } }
       ∧ s.sendFlow { src := p.dest, dest := p.src, cls := 3 } = none)
    ∧ (let p := answerPkt 0x24 0 (List.replicate 64 0)
       let c : Started := { origin := .ring 0, slot := List.replicate 64 0, relayed := some 0 }
       let s : State := { numbered (withCore (coreOf pet)) with host := { started := [(4, c)] } }
       p.opcode.toNat = 0x24 ∧ s.absorbing p.dest = none ∧ s.awaiting p.dest p.src [0] p.seq = none
         ∧ s.host.started.find? (fun e => decide (e.2.relayed = some (BitVec.ofNat 32 (fld p.payload 32 4)))) = some (4, c) ∧ c.opcode ≠ 0x22 ∧ c.opcode ≠ 0x23 ∧ c.reply = none)
    ∧ (let p := { mkPacket 3 0x30 0x700 0x99 0 false (List.replicate 32 0) with vbytes := 16 }
       let s : State := { State.reset with ctxs := [((5 * 4 + 3) * 16, some ctx0)] }
       s.ctxOf p.dest = some 368 ∧ s.ctx 368 = some ctx0 ∧ ctx0.answer p = stOk ∧ s.recvCount (agEngine + 368 / 16) < recvLimit (agEngine + 368 / 16)
         ∧ ((s.recvFlow p.key).getD { key := p.key, e := p.seq }).isNew p.seq = true ∧ p.fence = false ∧ p.opcode.toNat = 0x30) := by decide +kernel
theorem meets_TimersAct :
    (let w : Unacked := { pkt := writePkt 0x99 false 0, resends := 6 }
     let s := awaitingPkt 0 w
     s.sendFlow { src := 0x40, dest := 0x99, cls := 0 } = some { key := { src := 0x40, dest := 0x99, cls := 0 }, unack := [w] }
       ∧ [w].find? (fun u => decide (u.pkt.seq = 0)) = some w)
    ∧ (let r : Inbound := { rec5 true with circuit := false, id := 0x1234, producer := 0x99, pops := 3 }
       let s := withPart (coreOf pet) { part0 with records := [r] }
       s.endpointRec 0x1234 = some (0, 0) ∧ s.inbound 0 0 = some r ∧ r.producer ≠ 0 ∧ r.pops ≠ r.credited)
    ∧ (let g : SendFlow := { key := { src := 0x40, dest := 0x99, cls := 0 } }
       let s : State := { State.reset with now := usec 16000000, sends := [g] }
       g.unack = [] ∧ ¬ s.now < g.used + usec s.flowLife)
    ∧ (let e : Staged := { pkt := writePkt 0x99 false 0 }
       let s : State := { linked 1 { staged := [e] } with now := usec 2000 }
       ((List.range 6).map (5 * 6 + ·)).findSome? (fun q => ((s.port q).staged.find? fun e => decide (e.sent = 0) && decide (e.since + usec s.holdTime < s.now)).map fun e => (q, e))
        = some (35, e))
    ∧ (let m : Moving := { target := .exit 29, net := 0, src := 0, pkt := writePkt 0x99 false 0 }
       let s : State := { State.reset with now := usec 2000, moving := [m] }
       s.moving.find? (fun m => m.waitsAt 5 && decide (m.since + usec s.holdTime < s.now)) = some m)
    ∧ (let g : Segment := { seg := 0, count := 1, elems := [0, 0, 0, 0], since := 0, srcs := [0x40] }
       let x := { ctx0 with live := [(0, some g)], expect := 2 }
       let s : State := { State.reset with now := usec 200, ctxs := [(368, some x)] }
       s.ctx ((5 * 4 + 3) * 16 + 0) = some x ∧ tget none x.live 0 = some g ∧ g.count < x.expect ∧ g.since + usec x.timeout ≤ s.now) := by decide +kernel
theorem meets_LightAndCables :
    (let s : State := { State.reset with regs := [(laserReg 9, 3)] }; bitOf (s.reg (laserReg 9)).toNat 0 = true) ∧ bitOf (State.reset.reg (laserReg 9)).toNat 0 = false
      ∧ partIs (List.replicate 3 0x41) "VH1-LM-O13" = false ∧ partIs (asciiBytes "VH1-LM-O13") "VH1-LM-O13" = true ∧ State.reset.linkLost 5 = false
      ∧ partIs (asciiBytes "VH1-CBL-A20") "VH1-CBL-A20" = true := by decide +kernel
/-! ### The host -/

/-- A bridge panel in `STATE` 2, its endpoint up, Gleryn running on CT-A. -/
def bridge (h : HostIf) : State :=
  { State.reset with bar0 := [(8, 0x22)], host := h, sparing := { bar0Live := true }, trust := { ctA := { role := 0 } } }
theorem meets_LogicalDiesAreRanks : (∀ rod, rod < 12 → State.reset.unassigned rod < 13) ∧ State.reset.siteDie 155 = some (11, 11) ∧ State.reset.siteDie 6 = none := by decide +kernel
theorem meets_RingsServe :
    (let s := bridge { rings := [(63, { tail := 256, head := 0 })] }
     s.hostLive = true ∧ 256 < (((257 : Word).setWidth 16 : Half) - (s.ring 63).head).toNat ∧ (((256 : Word).setWidth 16 : Half) - (s.ring 63).head).toNat ≤ 256
       ∧ (s.ring 63).unconsumed < (((1 : Word).setWidth 16 : Half) - (s.ring 63).consumed).toNat ∧ (((0 : Word).setWidth 16 : Half) - (s.ring 63).consumed).toNat ≤ (s.ring 63).unconsumed
       ∧ s.serving = true ∧ s.canDispatch 63 = true ∧ s.canDispatch 0 = false ∧ (s.ring 63).isDoomed (s.slotBytes 63 (s.ring 63).head.toNat) = false)
    ∧ (let x : Ring := { tail := 1, doomed := [(5, 1)] }
       x.isDoomed ([0x30, 0, 0, 0, 5] ++ List.replicate 59 0) = true)
    ∧ (let k : Completion := { cmdId := 0, status := 0, opcode := 1, result0 := 0, result1 := 0, detail := 0xFF }
       let s := bridge { rings := [(0, { toPost := [k], posted := 255 })] }
       (s.ring 0).toPost = k :: [] ∧ s.serving = true ∧ (s.ring 0).unconsumed < 256)
    ∧ (let s := { bridge { rings := [(0, { unsig := 1 })] } with bar0 := [(8, 0x22), (0x100, 0x800)] }
       s.ringIrq 0 = true ∧ (s.ring 0).unsig ≠ 0) := by decide +kernel
theorem meets_HostReaches :
    (bridge {}).isBridge = true ∧ (bridge {}).hostLive = true ∧ (1 : Nat) ≠ 0 ∧ 0xFFFFFFFFF + 1 ≤ 0x1000000000 ∧ (bridge {}).host.apWait = []
      ∧ (bridge {}).sparing.waiting.any (fun h => h.data.isNone) = false ∧ (bridge {}).apReady ((bridge {}).apAddr 0xFFFFFFFFF) 1 = true
      ∧ (let x : ApPiece := { seq := 0, addr := 0, place := 0, skip := 0, len := 4 }; (bridge { apWait := [x] }).host.apWait = [x])
      ∧ (∃ r < 64, (bridge { rings := [(63, { posted := 1 })] }).pulsing r = true) ∧ (bridge {}).glerynRuns = true ∧ (bridge {}).sparing.bar0Live = true := by decide +kernel

/-- A dispatched command number 4 of ring 0 whose slot starts with the bytes b. -/
def cmdOf (b : Bytes) : Started := { origin := .ring 0, slot := padTo 64 b }
def ran (s : State) (b : Bytes) : State := { s with host := { started := [(4, cmdOf b)] } }
/-- A slot of operation op for partition p, with bytes b from byte 8 on. -/
def slot (op p : Byte) (b : Bytes) : Bytes := [op, 0, 0, 0, p, 0, 0, 0] ++ b
/-- The command is dispatched and runs here, on any state that holds it and has no partition in reset. -/
def readyCmd (s : State) (op : Nat) (b : Bytes) : Bool :=
  (ran s b).cmd 4 == some (cmdOf b) && (cmdOf b).opcode == op && (cmdOf b).relayed.isNone && !slotRemote (cmdOf b).slot && !(ran s b).waitsReset 4 (cmdOf b)
theorem dispatched_of (s : State) (op : Nat) (b : Bytes) (h : readyCmd s op b = true) : dispatched (ran s b) 4 op (cmdOf b) := by
  simp only [readyCmd, Bool.and_eq_true, beq_iff_eq, Option.isNone_iff_eq_none, Bool.not_eq_true'] at h
  exact ⟨h.1.1.1.1, h.1.1.1.2, h.1.1.2, h.1.2, h.2⟩

/-- Partition 0 alone. -/
def owned : State := stepping part0
/-- A panel whose attestation key is made. -/
def attested : State := { State.reset with trust := { State.reset.trust with akMade := true } }
theorem meets_ReadingCommandsAnswer :
    readyCmd State.reset 0x01 (slot 1 0 (List.replicate 8 0 ++ u32 256)) = true ∧ 256 ≤ (cmdOf (slot 1 0 (List.replicate 8 0 ++ u32 256))).arg 16 4
      ∧ (cmdOf (slot 1 0 [])).inputOf (.ok []) = .ok []
      ∧ readyCmd State.reset 0x02 (slot 2 0 [23, 23, 1, 1]) = true ∧ ((rect 23 23 1 1).any State.reset.clusterHole) = false
      ∧ readyCmd State.reset 0x03 (slot 3 0 (List.replicate 8 0 ++ u32 2880)) = true
      ∧ readyCmd State.reset 0x51 (slot 0x51 0 (List.replicate 16 0 ++ u32 5520)) = true ∧ (cmdOf (slot 0x51 0 (List.replicate 16 0 ++ u32 5520))).byte 8 = 0
      ∧ 5520 ≤ (cmdOf (slot 0x51 0 (List.replicate 16 0 ++ u32 5520))).arg 24 4
      ∧ readyCmd owned 0x51 (slot 0x51 0 ([1] ++ List.replicate 15 0 ++ u32 112)) = true ∧ (ran owned []).part (cmdOf (slot 0x51 0 [1])).partNo = some part0
      ∧ (let c := cmdOf (slot 0x51 0 ([2] ++ List.replicate 15 0 ++ u32 65536 ++ List.replicate 4 0 ++ List.replicate 8 0 ++ u32 65536))
         c.byte 8 = 2 ∧ c.arg 32 6 % 4 = 0 ∧ c.arg 40 4 % 4 = 0 ∧ c.arg 40 4 = 65536 ∧ c.arg 40 4 ≤ c.arg 24 4)
      ∧ readyCmd State.reset 0x60 (slot 0x60 0 []) = true
      ∧ readyCmd attested 0x72 (slot 0x72 0 (List.replicate 16 0 ++ u32 3016)) = true ∧ attested.trust.keysBlocked = false
      ∧ 3016 ≤ (cmdOf (slot 0x72 0 (List.replicate 16 0 ++ u32 3016))).arg 24 4 ∧ attested.trust.signState = true ∧ attested.trust.akSpent = false := by decide +kernel

/-- PART_CREATE of partition 63 on cluster 575 with 16 pages of stack 23. -/
def create : Bytes := slot 0x10 63 ([23, 23, 1, 1] ++ List.replicate 4 0 ++ [0, 0, 0x80, 0] ++ u32 0 ++ u32 16)
theorem meets_PartitionsComeAndGo :
    (let c := cmdOf create
     let q : Part := { c.newPart with auditAt := 0 }
     readyCmd owned 0x10 create = true ∧ q.w ≠ 0 ∧ q.cx + q.w ≤ 24 ∧ q.h ≠ 0 ∧ q.cy + q.h ≤ 24 ∧ q.firstPage + q.pages ≤ (ran owned create).stackPages
       ∧ (ran owned create).part c.partNo = none ∧ q.overlaps part0 = false ∧ q.clusters.any (ran owned create).clusterHole = false
       ∧ (onesOf q.stackTbl.toNat 24).any (ran owned create).stackLost = false)
    ∧ readyCmd owned 0x12 (slot 0x12 0 [1]) = true ∧ (cmdOf (slot 0x12 0 [1])).byte 8 ≤ 1 ∧ (ran owned []).part (cmdOf (slot 0x12 0 [1])).partNo = some part0 ∧ part0.reset = none
    ∧ readyCmd owned 0x11 (slot 0x11 0 []) = true
    ∧ (let r : Resetting := { cmd := 4, absorb := false, destroy := true }
       (stepping { part0 with reset := some r }).part 0 = some { part0 with reset := some r }) := by decide +kernel
theorem meets_ImagesAreStaged_activate :
    let r : Region := { reg0 0 with staged := some 0 }
    let s : State := { owned with regions := [(255, some r)] }
    let b := slot 0x21 0 ([2] ++ List.replicate 54 0 ++ [0x80])
    readyCmd s 0x21 b = true ∧ (cmdOf b).byte 8 ≤ 2 ∧ onesOf (cmdOf b).regions 256 = [255] ∧ (ran s b).region 255 = some r ∧ r.part = (cmdOf b).partNo
      ∧ r.staged.isSome = true ∧ r.act = none := by decide +kernel
/-- Region 0 with an activation in phase p. -/
def activating (p : ActPhase) : Region := { reg0 0 with staged := some 0, act := some { phase := p, discard := false, cmd := 4 } }
def withActivation (p : ActPhase) : State := { stepping part0 with cores := [], regions := [(0, some (activating p))] }
theorem meets_ActivationsProceed :
    (let s := withActivation .draining
     s.region 0 = some (activating .draining) ∧ s.frozen 0 = false ∧ s.shedding = false ∧ s.regionEmpty 0 (activating .draining) = true
       ∧ (activating .draining).clusters.all (fun c => !s.power.paused.contains c) = true)
    ∧ (let s := withActivation .drained
       s.region 0 = some (activating .drained) ∧ (activating .drained).staged = some 0 ∧ s.shedding = false ∧ (activating .drained).limited s.now = false
         ∧ s.part 0 = some part0 ∧ s.endpointsFit part0 0 (s.inboundsOf 0 0 0 0 (s.sects 0 (s.header 0))) = true ∧ ((s.loadRegion 0 0).region 0).isSome = true
         ∧ (activating .drained).clusters.all (fun c => decide (2 ≤ s.power? c) && !s.power.paused.contains c) = true
         ∧ s.dataOk ((s.recordsOf 0 (s.sects 0 (s.header 0)) sData 32).map (dataOf 0 0 0)) = true)
    ∧ (activating .rateWait).limited 0 = false ∧ ((withActivation .rateWait).startActivation 0 false 4).part 0 = some part0 ∧ part0.rateWait = false := by decide +kernel
theorem meets_DataAndSteps :
    (let b := slot 0x22 0 (List.replicate 8 0 ++ natLe 8 0xFFFC0 ++ natLe 8 64)
     readyCmd owned 0x22 b = true ∧ (ran owned b).part (cmdOf b).partNo = some part0 ∧ Machine.dataOk part0 (cmdOf b) = true ∧ (cmdOf b).byPacket = false ∧ (ran owned b).rangeHeld (cmdOf b) = false)
    ∧ readyCmd owned 0x23 (slot 0x23 0 []) = true
    ∧ (let b := slot 0x30 0 (List.replicate 24 0 ++ [1])
       readyCmd owned 0x30 b = true ∧ (∀ e ∈ (ran owned b).regionsOf 0, e.2.act = none) ∧ part0.queued ++ part0.step.toList = []
         ∧ (let s' := if part0.step.isNone then (ran owned b).repairRecords 0 else ran owned b; s'.stepCheck 0 part0 ((cmdOf b).stepOf 4) = none))
    ∧ ({ part0 with step := some step0 } : Part).step.isSome = true ∧ readyCmd owned 0x31 (slot 0x31 0 [1]) = true
    ∧ (let b := slot 0x32 0 (List.replicate 16 0 ++ natLe 6 0x1000)
       let q : Part := { part0 with results := [(0x1000, 128)] }
       readyCmd (stepping q) 0x32 b = true ∧ q.step = none ∧ q.results.find? (fun e => decide (e.1 = (cmdOf b).arg 24 6)) = some (0x1000, 128)) := by decide +kernel

/-! ### Routes, groups and settings -/

/-- A ROUTE_SET 0 of base 0x40, T 2 µs and HOLD 10 µs, the least of each. -/
def routeBase : Bytes := slot 0x40 0 (u32 0 ++ u32 0x40 ++ List.replicate 12 0 ++ u32 2 ++ u16 10)
theorem meets_RoutesAreSet :
    (let c := cmdOf routeBase
     readyCmd State.reset 0x40 routeBase = true ∧ c.byte 8 = 0 ∧ c.arg 12 3 % 64 = 0 ∧ c.arg 12 3 ≠ 0 ∧ c.arg 12 3 + 639 ≤ 0xFDFFFF ∧ 2 ≤ c.arg 28 4 ∧ c.arg 28 4 ≤ 1000000
       ∧ 10 ≤ c.arg 32 2 ∧ c.arg 32 2 ≤ 1000 ∧ (∀ e ∈ State.reset.parts, e.2 = none))
    ∧ readyCmd State.reset 0x40 (slot 0x40 0 [1]) = true ∧ (∀ r ∈ (cmdOf (slot 0x40 0 [1])).records [], fld r 0 3 ≠ 0 ∧ fld r 0 3 ≤ 0xFEFFFF ∧ bits (fld r 4 2) 12 2 ≠ 3)
    ∧ (cmdOf (slot 0x40 0 [2])).byte 8 = 2 ∧ (∀ r ∈ (cmdOf (slot 0x40 0 [2])).records [], fld r 0 1 < 28)
    ∧ readyCmd owned 0x40 (slot 0x40 0 [3]) = true ∧ ((cmdOf (slot 0x40 0 [3])).records []).any (fun r => bitOf (fld r 3 1) 0 && (ran owned []).clusterHole (fld r 4 2)) = false
    ∧ ((cmdOf (slot 0x40 0 [3])).records []).foldl (fun (o : Option State) r => o.bind fun s => s.memEndpointSet 0 r) (some owned) = some owned
    ∧ (let b := slot 0x41 0 (natLe 3 0x99)
       let s : State := { State.reset with ept := [(0x99, 0x8000)] }
       readyCmd s 0x41 b = true ∧ bitOf ((ran s b).eptEntry (BitVec.ofNat 24 ((cmdOf b).arg 8 3))) 15 = true)
    ∧ readyCmd State.reset 0x42 (slot 0x42 0 []) = true := by decide +kernel
theorem meets_RoutesAreSet_records :
    let b := natLe 3 0xFEFFFF ++ [0] ++ u16 0xA000 ++ u16 0
    (fld b 0 3 ≠ 0 ∧ fld b 0 3 ≤ 0xFEFFFF ∧ bits (fld b 4 2) 12 2 ≠ 3) ∧ fld [27, 0, 0, 1, 0, 0, 0, 0] 0 1 < 28 := by decide +kernel
/-- MCAST_SET 1 of engine 3 of link die 5, context 15. -/
def mcastCtx : Bytes :=
  slot 0x43 0 ([1, 5, 3, 15] ++ natLe 3 0x700 ++ [0] ++ u16 1 ++ u16 0 ++ u16 1024 ++ [0, 0] ++ natLe 3 0x40 ++ [0] ++ List.replicate 12 0 ++ u32 10)
theorem meets_MulticastIsSet :
    readyCmd State.reset 0x43 (slot 0x43 0 [0]) = true ∧ (cmdOf (slot 0x43 0 [0])).byte 8 = 0
    ∧ (let c := cmdOf mcastCtx
       readyCmd State.reset 0x43 mcastCtx = true ∧ c.byte 8 = 1 ∧ c.ctxKey = some 383 ∧ c.context.op ≠ 3 ∧ c.context.badField = none
         ∧ c.context.slots ≤ State.reset.slotsFree (383 / 64) (383 / 16 % 4) + 0)
    ∧ (cmdOf (slot 0x43 0 [2, 5, 3, 15])).byte 8 = 2 ∧ (cmdOf (slot 0x43 0 [2, 5, 3, 15])).ctxKey = some 383 := by decide +kernel
/-- An authorisation of action a for this panel with argument n by vendor key 1, its signature left out. -/
def authRec (a : Byte) (n : Nat) : Bytes := [1, a, 1, 0] ++ List.replicate 16 0 ++ u32 n ++ List.replicate 32 0 ++ u32 0
/-- Where the verifier accepts it, the authorisation is accepted (whether it does, the model leaves open). -/
theorem meets_authorised (s : State) (b : Bytes) (v : s.signerOk b = true) (h : fld b 0 1 = 1 ∧ fld b 1 1 = 1 ∧ slice b 4 16 = padTo 16 s.hw.serial ∧ fld b 20 4 = 0 ∧ slice b 24 32 = s.trust.authNonce) :
    s.authorised b 1 (some 0) = true := by
  unfold State.authorised; rw [v]; simp [h]
theorem meets_EventsClearLeavesOneRecord :
    let b := slot 0x61 0 (List.replicate 16 0 ++ u32 60)
    readyCmd State.reset 0x61 b = true ∧ (cmdOf b).inputOf (.ok (authRec 1 0)) = .ok (authRec 1 0) ∧ (authRec 1 0).take ((cmdOf b).arg 24 4) = authRec 1 0
      ∧ fld (authRec 1 0) 0 1 = 1 ∧ fld (authRec 1 0) 1 1 = 1 ∧ slice (authRec 1 0) 4 16 = padTo 16 State.reset.hw.serial ∧ fld (authRec 1 0) 20 4 = 0
      ∧ slice (authRec 1 0) 24 32 = State.reset.trust.authNonce := by decide +kernel
theorem meets_SettingCommandsAct :
    (let c := cmdOf (slot 0x50 0 (u16 500 ++ u16 110 ++ [3]))
     readyCmd State.reset 0x50 (slot 0x50 0 (u16 500 ++ u16 110 ++ [3])) = true ∧ bitOf (c.byte 12) 0 = true ∧ 500 ≤ c.arg 8 2 ∧ c.arg 8 2 ≤ 2000 ∧ bitOf (c.byte 12) 1 = true
       ∧ 110 ≤ c.arg 10 2 ∧ c.arg 10 2 ≤ c.arg 8 2)
    ∧ (let b := slot 0x52 0 ([7, 20, 0, 4, 8, 0, 4] ++ List.replicate 9 0 ++ u32 3600)
       readyCmd owned 0x52 b = true ∧ (cmdOf b).badSampler = none)
    ∧ (let d : Defect := { kind := 1, source := 2, cause := 1, clean := 3, die := 0, unit := 0, detail := 0, time := 0 }
       let b := slot 0x82 0 (u32 0 ++ u32 0 ++ List.replicate 8 0 ++ u32 60)
       let s : State := { State.reset with sparing := { fieldList := [some d] } }
       readyCmd s 0x82 b = true ∧ s.sparing.fieldList[(cmdOf b).arg 12 4]? = some (some d) ∧ 3 ≤ d.clean)
    ∧ readyCmd State.reset 0x70 (slot 0x70 0 []) = true ∧ State.reset.trust.swapping = none
    ∧ (let s : State := { State.reset with trust := { updating := true, ctB := { role := 1 } } }
       readyCmd s 0x71 (slot 0x71 0 []) = true ∧ s.trust.updating = true ∧ s.standbyOk = true ∧ fld s.trust.slot 0x1C 2 ≤ fld (s.controlDie s.activeCt).fw 0x1A 2
         ∧ fld (s.controlDie s.activeCt).fw 0x1A 2 ≤ fld s.trust.slot 0x1A 2)
    ∧ readyCmd State.reset 0x73 (slot 0x73 0 []) = true ∧ State.reset.trust.ownerHash = none ∧ readyCmd State.reset 0xF0 (slot 0xF0 0 []) = true := by decide +kernel
theorem meets_MaintenanceActs :
    (let b := slot 0x80 0 [0, 23, 31]; readyCmd State.reset 0x80 b = true ∧ (cmdOf b).byte 8 = 0 ∧ (cmdOf b).byte 9 = 23 ∧ State.reset.stackLost 23 = false ∧ (cmdOf b).byte 10 < 32
      ∧ (State.reset.stack 23).retrain = none
      ∧ (let s := State.reset.setStack 23 { retrain := some (31, some 4) }; (s.stack 23).retrain.any (fun e => decide (e.2 = some 4)) = true ∧ readyCmd s 0x80 b = true))
    ∧ (let c := cmdOf (slot 0x80 0 ([1, 0, 0, 0] ++ u16 0 ++ [9]))
       c.byte 8 = 1 ∧ routed.seamRuns { site := c.arg 12 2, quad := c.byte 14 / 8 % 4, port := c.byte 14 % 8 } = true
         ∧ (routed.seam { site := c.arg 12 2, quad := c.byte 14 / 8 % 4, port := c.byte 14 % 8 }).offline = false)
    ∧ (let c := cmdOf (slot 0x80 0 [2, 35]); c.byte 8 = 2 ∧ State.reset.native (c.byte 9) = true ∧ State.reset.field (linkReg (c.byte 9) 0) 0 2 ≠ 2)
    ∧ (let c := cmdOf (slot 0x81 0 ([0, 0, 0, 0] ++ u16 155))
       readyCmd State.reset 0x81 (slot 0x81 0 ([0, 0, 0, 0] ++ u16 155)) = true ∧ c.byte 8 = 0 ∧ c.arg 12 2 = 155 ∧ State.reset.inUse 155 = true ∧ State.reset.sparing.retireDue = []
         ∧ State.reset.sparing.retireCmds = [] ∧ State.reset.hasSpare (155 / 13) = true)
    ∧ (cmdOf (slot 0x81 0 [1, 9])).byte 8 = 1 ∧ (cmdOf (slot 0x81 0 [1, 9])).byte 9 < 10 ∧ (cmdOf (slot 0x81 0 ([2, 0, 0, 0] ++ u16 155))).arg 12 2 < 156
    ∧ (cmdOf (slot 0x81 0 [3, 23])).byte 8 = 3 ∧ (cmdOf (slot 0x81 0 [3, 23])).byte 9 < 24 := by decide +kernel

/-! ### Power, heat, sparing, control -/

/-- The panel with power state w. -/
def powered (w : Power) : State := { State.reset with power := w }
/-- The panel with power-domain register a at v. -/
def withReg (a : Nat) (v : Word) (w : Power) : State := { powered w with regs := [(a, v)] }
/-- A measurement of p tenths of a watt. -/
def measured (p : Nat) : PowerReading := { pIn := p, ampsA := 0, ampsB := 0, vpm := [], input := [], slots := [] }
/-- Feed A in use at 54 V: its limit is above the commanded cap of 20 kW. -/
def fed : State := withReg (pwrBase + 0xC) 5400 { feedA := .operating }

theorem meets_PowerAndShed_feeds :
    (powered { feedA := .operating }).feed .a = .operating ∧ (powered { feedB := .brownout }).feed .b = .brownout ∧ (powered { feedB := .brownout }).feed .b ≠ .absent
      ∧ ((powered { feedB := .brownout }).feed .b).ok = true ∧ ((powered { feedA := .lost }).feed .a).ok = false ∧ State.reset.feed .a = .absent := by decide +kernel
theorem meets_PowerAndShed_trip :
    State.reset.field (pwrBase + 0x100 + 4 * 187) 1 1 = 0 ∧ (withReg (pwrBase + 0x100 + 4 * 187) 2 {}).field (pwrBase + 0x100 + 4 * 187) 1 1 = 1 := by decide +kernel
theorem meets_PowerAndShed_powerFail :
    let s := withReg (pwrBase + 0x100 + 4 * 187) 1 { feedA := .lost, feedB := .absent }
    s.power.feedA.ok = false ∧ s.power.feedB.ok = false ∧ s.powered = true ∧ s.sparing.failing = false := by decide +kernel
/-- The cap follows the sample; the three readings stand at its limits. -/
theorem meets_PowerAndShed_cap :
    (let u := (fed.takeSample (measured 200001)).refreshLimit; u.field (pwrBase + 4) 0 11 * 100 < 200001)
    ∧ (let u := (fed.takeSample (measured 200000)).refreshLimit; 200000 ≤ u.field (pwrBase + 4) 0 11 * 100 ∧ u.field (pwrBase + 4) 0 11 * 100 < 200000 + stepRise)
    ∧ (let u := (fed.takeSample (measured 199967)).refreshLimit; 199967 + stepRise ≤ u.field (pwrBase + 4) 0 11 * 100) := by decide +kernel
theorem meets_PowerAndShed_shed :
    State.reset.field pwrBase 3 1 = 0 ∧ (withReg pwrBase 0x10008 {}).shedding = true ∧ (withReg pwrBase 0x10008 {}).shedLevel * 100 < 60001
      ∧ (withReg pwrBase 0x10008 {}).field pwrBase 3 1 = 1 ∧ (withReg pwrBase 0x10008 { lossShed := true }).power.lossShed = true := by decide +kernel

/-- Cluster 575 belongs to partition 0; its power word is v. -/
def corner (v : Word) (w : Power) : State :=
  { withReg (pwrClu 575) v w with parts := [(0, some { part0 with cx := 23, cy := 23 })] }
theorem meets_WakesAndSteps_wakes :
    (let s := corner 0xE0 {}; (s.partOf 575).isSome = true ∧ s.field (pwrClu 575) 14 1 = 0 ∧ s.power? 575 < 2 ∧ s.field (pwrClu 575) 15 1 = 0)
    ∧ State.reset.partOf 575 = none
    ∧ (let w : Power := { vpmCur := [(155, 8000)], lastWake := [(155, some 0)], slewUsed := 19820 }
       let s : State := { corner 0x80E1 w with now := usec 50 }
       s.dieOfCluster 575 = 155 ∧ s.wakePending 575 = true ∧ 1000 ≤ s.headroom (s.dieOfCluster 575) ∧ s.vpmQuiet (s.dieOfCluster 575) = true ∧ s.slewOk wakeRise = true)
    ∧ (let s := corner 0x80E1 { vpmCur := [(155, 8001)] }; s.field (pwrClu 575) 15 1 = 1 ∧ s.headroom (s.dieOfCluster 575) < 1000)
    ∧ (let s : State := { corner 0x80E1 { lastWake := [(155, some 0)] } with now := usec 50 - 1 }
       s.field (pwrClu 575) 15 1 = 1 ∧ s.vpmQuiet (s.dieOfCluster 575) = false)
    ∧ (let s := corner 0x80E1 { slewUsed := 19821 }; s.field (pwrClu 575) 15 1 = 1 ∧ s.slewOk wakeRise = false)
    ∧ (let s := corner 0x80E1 { lossShed := true }; s.field (pwrClu 575) 15 1 = 1 ∧ s.shedding = true) := by decide +kernel
theorem meets_WakesAndSteps_steps :
    (let s := corner 0xFA { vpmCur := [(155, 8820)], slewUsed := 19967 }
     2 ≤ s.power? 575 ∧ s.shedding = false ∧ s.field (pwrClu 575) 2 3 = 6 ∧ s.field (pwrClu 575) 2 3 < s.field (pwrClu 575) 5 3
       ∧ 180 ≤ s.headroom (s.dieOfCluster 575) ∧ s.slewOk stepRise = true)
    ∧ (let s := corner 0xE2 {}; s.power? 575 = 2 ∧ s.field (pwrBase + 0x18) 0 16 ≠ 0 ∧ s.mayRetain 575 = true) := by decide +kernel
theorem meets_WakesAndSteps_phases :
    (let u := (State.reset.count (pwrBase + 0x3C) 1).record 0x0804 3 noPart 0 (onSite 155 3) (u8 1 ++ u8 7)
     let w := u.addDefect 1 7 kPhase 155 3 (1 * 256 + 7)
     State.reset.sparing.listed kPhase 155 3 (1 * 256 + 7) = false ∧ w.blkCluster (155 * 4 + 3) = some 575)
    ∧ (let u := (State.reset.count (pwrBase + 0x3C) 1).record 0x0804 3 noPart 0 (onSite 6 0) (u8 0 ++ u8 0)
       let w := u.addDefect 1 7 kPhase 6 0 0
       State.reset.sparing.listed kPhase 6 0 0 = false ∧ w.blkCluster (6 * 4 + 0) = none) := by decide +kernel

theorem meets_ClocksAndHeat_clocks :
    (let s := State.reset
     let a := clkDie 187
     s.field a 11 1 = 0 ∧ nextInput (s.field a 3 3) (liveInputs 0x20 (s.field a 6 3)) = some 5 ∧ nextInput (s.field a 3 3) (liveInputs 0 (s.field a 6 3)) = none
       ∧ s.field a 10 1 = 0)
    ∧ (let s := withReg (clkDie 187) 0x400 {}; s.field (clkDie 187) 11 1 = 0 ∧ s.field (clkDie 187) 10 1 = 1) := by decide +kernel
theorem meets_ClocksAndHeat_heat :
    ([95, 0, 0, 1] : List Nat).length = 4 ∧ 95 ≤ ([95, 0, 0, 1] : List Nat).foldl Nat.max 0 ∧ 92 ≤ ([94, 0, 0, 1] : List Nat).foldl Nat.max 0
      ∧ ([94, 0, 0, 1] : List Nat).foldl Nat.max 0 < 95 ∧ ([0, 0, 0, 91] : List Nat).foldl Nat.max 0 < 92
      ∧ tget none (powered { coolSince := [(575, some 0)] }).power.coolSince 575 = some 0 ∧ tget none State.reset.power.coolSince 575 = none
      ∧ (withReg thmBase 3 {}).field thmBase 0 3 = 3 ∧ ([20] : List Nat).length = (powered { auxTargets := [0x40] }).power.auxTargets.length := by decide +kernel

/-- Retirement of site 155 due under cause 7, with command cmd; partition 0 on cluster 575, frozen for it, where wanted. -/
def retiring (cmd : Option Nat) (frozen : Bool) : State :=
  { State.reset with sparing := { retireDue := [(155, 7, cmd)] }, parts := if frozen then [(0, some { part0 with cx := 23, cy := 23, freeze := .retirement })] else [] }
theorem meets_SparingAndBringup_retire :
    (let s := retiring none true
     s.sparing.retireDue.find? (fun e => decide (e.1 = 155)) = some (155, 7, none) ∧ s.retireParts 155 = [0] ∧ s.part 0 = some { part0 with cx := 23, cy := 23, freeze := .retirement }
       ∧ s.comingTo 155 7 = false ∧ s.hasSpare (155 / 13) = true ∧ s.shedding = false)
    ∧ (retiring (some 4) false).sparing.retireDue.find? (fun e => decide (e.1 = 155)) = some (155, 7, some 4) ∧ (retiring (some 4) false).retireParts 155 = []
    ∧ (retiring (some 4) true).retireParts 155 = [0] := by decide +kernel
/-- Every cell of quadrant q of site s passes. -/
def passes : TestResult := { coreFail := 0, katFail := 0, sharedFail := false, badRows := [], signature := 0 }
/-- A test is due in the last quadrant of site 155 and the first of site 6, which no logical die uses. -/
def testsDue : State := { State.reset with sparing := { testDue := [623, 24] } }
theorem meets_SparingAndBringup_test :
    testsDue.sparing.testDue.contains (155 * 4 + 3) = true ∧ testsDue.blkCluster (155 * 4 + 3) = some 575 ∧ testsDue.partOf 575 = none
    ∧ testsDue.sparing.testDue.contains (6 * 4 + 0) = true ∧ testsDue.blkCluster (6 * 4 + 0) = none := by decide +kernel
theorem meets_SparingAndBringup_test_inner :
    (let b := 155 * 4 + 3
     let u : State := { testsDue with sparing := { testsDue.sparing with testDue := testsDue.sparing.testDue.filter (· ≠ b) } }
     (((u.resetCluster 575).noteTests (blockFinds b passes)).testBlock b passes 2).blkCluster b = some 575)
    ∧ (let b := 6 * 4 + 0
       let u : State := { testsDue with sparing := { testsDue.sparing with testDue := testsDue.sparing.testDue.filter (· ≠ b) } }
       ((u.noteTests (blockFinds b passes)).testBlock b passes 2).blkCluster b = none) := by decide +kernel
/-- Both images are sound and nothing else is found. -/
def sound : BringupFound :=
  { imageOk := (true, true), namedLate := false, badSites := [], tests := [], badStacks := [], badDramRows := [], badLinkDies := [], portsUp := [], lasersOk := [],
    halfSeams := [], oscOk := (true, true), flCopy := some 0, reachable := true, stepMs := [] }
theorem meets_SparingAndBringup_start :
    ((powered { feedB := .operating }).power.feedB = .operating ∧ (powered { feedB := .operating }).powered = false) ∧ State.reset.sparing.held = false
    ∧ ({ State.reset with sparing := { held := true } } : State).sparing.held = true ∧ ([] : List Nat).contains 7 = false
    ∧ (let s := withReg (pwrBase + 0x100 + 4 * 186) 1 {}
       s.mgtField 8 0 3 = 0 ∧ s.sparing.held = false ∧ s.sparing.failing = false ∧ s.powered = true ∧ s.trust.recovery = false
         ∧ s.sparing.named kDie (dieOfControl 0) 0 0 = false ∧ s.stepping (dieOfControl 0) / 16 = s.hw.major ∧ s.trust.chooseActive sound true true = some 0
         ∧ s.trust.chooseActive sound false false = none) := by decide +kernel
/-- Whether an unlock is pending after the tests is decided by the state before: none at reset, and one where flash holds it. -/
theorem meets_SparingAndBringup_debug (t : Trust) :
    ((({ State.reset with trust := t } : State).startGleryn 0 true sound).testAll sound).trust.unlockArg = t.unlockArg
      ∧ State.reset.trust.unlockArg = none ∧ ({ unlockArg := some 9 } : Trust).unlockArg = some 9 :=
  ⟨Laws.State.testAll_unlock _ _ (Laws.State.startGleryn_unlock _ _ _ _ rfl), rfl, rfl⟩

/-- Control dies in these roles. -/
def ruled (t : Trust) : State := { bridge {} with trust := t }
theorem meets_ControlDiesTakeOver :
    (let s := ruled { ctA := { role := 0 }, ctB := { role := 1 } }; (s.controlDie 1).role < 2 ∧ (s.controlDie 1).stopped = false)
    ∧ (let s := ruled { ctA := { role := 0, stopped := true }, ctB := { role := 1 } }; s.activeLost = true ∧ s.standbyOk = true)
    ∧ (let s : State := { ruled { ctA := { role := 0 }, ctB := { role := 2 } } with now := usec 300 }; s.activeLost = true ∧ s.standbyOk = false)
    ∧ (let s := ruled { ctA := { role := 0 }, ctB := { role := 3 } }; (s.controlDie 1).role = 3 ∧ s.glerynRuns = true ∧ s.sparing.bar0Live = true)
    ∧ (ruled { swapping := some 4 }).trust.swapping = some 4 := by decide +kernel

/-- A recovery offer to EID 0x99 from EID 0x40. -/
def offer : Packet := mkPacket 0 0x03 0x99 0x40 0 false (relayPayload identifySlot 0x40 1 [])
theorem meets_RecordsAndRequests :
    eventCodes.contains (0x0907, 1) = true ∧ (bridge {}).portServed = true ∧ offer.opcode = 0x03 ∧ fld offer.payload 0 1 = 0x01
      ∧ ({ State.reset with trust := { recovery := true, recoverySrc := some 0x41 } } : State).trust.recoverySrc.isSome = true
      ∧ (let s : State := { State.reset with trust := { recovery := true } }
         let u := (((s.setMgtField 0x14 0 24 (offer.dest.toNat + 0x1000000 - 576)).writeEpt offer.dest.toNat 0x8000).writeEpt offer.src.toNat (0x8000 + 0x1000 + 35 * 0x40)).answerBusy offer
         s.trust.recovery = true ∧ s.trust.recoverySrc = none ∧ u.fwStatus [] false ≠ stOk)
      ∧ (let s : State := { bridge {} with trust := { ctA := { role := 0 }, peers := [0xFFFFFF] } }
         let k := mkPacket 0 0x03 0xFFFFFF s.panelEid 0 false (relayPayload identifySlot s.panelEid (s.host.rseq + 1) [])
         s.glerynRuns = true ∧ s.trust.peers.contains 0xFFFFFF = true ∧ s.canSend agGleryn k.key = true) := by decide +kernel
theorem meets_RecordsAndRequests_refused : (bridge {}).authorised [] 3 none = false := by decide +kernel

/-! ### An image that IMAGE_LOAD accepts -/

/-- An entry of the section table (R161). -/
def sectEntry (t n off size : Nat) : Bytes := u16 t ++ [1, 0] ++ u32 n ++ natLe 8 off ++ natLe 8 size ++ u32 0xFFFFFFFF ++ u32 0
/-- Header and section table of the least image: one cluster, `SLOT_FRAME` 64, and the four sections R161 asks for. -/
def imageHead : Bytes :=
  [0x56, 0x48, 0x49, 0x4D, 0x41, 0x47, 0x45, 0, 0, 1] ++ u16 128 ++ List.replicate 12 0 ++ [1, 1, 0, 0, 0, 0] ++ u16 64 ++ natLe 8 529920 ++ u32 128 ++ u16 4
    ++ List.replicate 78 0 ++ u32 0x3E782DFD ++ sectEntry 1 1 256 256 ++ sectEntry 4 1 512 5120 ++ sectEntry 3 256 5632 262144 ++ sectEntry 2 32 267776 262144
/-- Header, section table and the four sections, with z₁, z₂, z₃ behind their first bytes, which bring each section's CRC register to 0, where bytes of 0 leave it. -/
def imageWith (z₁ z₂ z₃ : Bytes) : Bytes :=
  imageHead ++ ([1, 0, 0, 0xDA, 0x4C, 0x7C, 1] ++ (z₁ ++ (List.replicate 4 0xFF ++ (z₂ ++ ([0, 0x72, 0x10, 0xFD, 0x2D] ++ (z₃ ++ List.replicate 4 0xFF))))))
/-- The image up to its last byte that is not 0. -/
def image : Bytes := imageWith (List.replicate 249 0) (List.replicate 5116 0) (List.replicate 262139 0)
/-- What memory lists of it at address 0. -/
def imageCells : List Host.Cell :=
  cellsAt 0 imageHead ++ (cellsAt 256 [1, 0, 0, 0xDA, 0x4C, 0x7C, 1] ++ (cellsAt 512 (List.replicate 4 0xFF) ++ (cellsAt 5632 [0, 0x72, 0x10, 0xFD, 0x2D]
    ++ cellsAt 267776 (List.replicate 4 0xFF))))

theorem cellsAt_append : ∀ (x y : Bytes) (a : Nat), cellsAt a (x ++ y) = cellsAt a x ++ cellsAt (a + x.length) y
  | [], _, _ => rfl
  | b :: x, y, a => by
    have h : cellsAt (a + 1) (x ++ y) = cellsAt (a + 1) x ++ cellsAt (a + (b :: x).length) y := by
      rw [cellsAt_append x y (a + 1), List.length_cons, Nat.add_assoc, Nat.add_comm 1]
    rw [List.cons_append, cellsAt, cellsAt, h]
    split <;> rfl
theorem cellsAt_zeros : ∀ (n a : Nat), cellsAt a (List.replicate n 0) = []
  | 0, _ => rfl
  | n + 1, a => by rw [List.replicate_succ, cellsAt, if_pos (show (0 : Byte) = unlistedByte from rfl)]; exact cellsAt_zeros n (a + 1)
theorem cellsAt_padded (x : Bytes) (k a : Nat) : cellsAt a (x ++ List.replicate k 0) = cellsAt a x := by rw [cellsAt_append, cellsAt_zeros, List.append_nil]
theorem imageHead_length : imageHead.length = 256 := by decide +kernel
theorem imageWith_length (z₁ z₂ z₃ : Bytes) : (imageWith z₁ z₂ z₃).length = 276 + (z₁.length + (z₂.length + z₃.length)) := by
  simp only [imageWith, List.length_append, List.length_replicate, List.length_cons, List.length_nil, imageHead_length]; omega
theorem image_length : image.length = 267780 := by
  rw [image, imageWith_length, List.length_replicate, List.length_replicate, List.length_replicate]
theorem imageWith_cells (z₁ z₂ z₃ : Bytes) (h₁ : z₁.length = 249) (h₂ : z₂.length = 5116) (h₃ : z₃.length = 262139) (e₁ : ∀ a, cellsAt a z₁ = [])
    (e₂ : ∀ a, cellsAt a z₂ = []) (e₃ : ∀ a, cellsAt a z₃ = []) : cellsAt 0 (imageWith z₁ z₂ z₃) = imageCells := by
  unfold imageWith imageCells
  simp only [cellsAt_append, e₁, e₂, e₃, h₁, h₂, h₃, imageHead_length, List.length_replicate, List.length_cons, List.length_nil, List.nil_append, Nat.zero_add, Nat.reduceAdd]
theorem image_padded : padTo 529920 image = image ++ List.replicate 262140 0 := by
  have e : 529920 - image.length = 262140 := by rw [image_length]
  unfold padTo
  rw [e]
  refine List.take_of_length_le ?_
  rw [List.length_append, image_length, List.length_replicate]
theorem image_cells : cellsAt 0 (padTo 529920 image) = imageCells := by
  rw [image_padded]
  exact (cellsAt_padded image 262140 0).trans
    (imageWith_cells _ _ _ List.length_replicate List.length_replicate List.length_replicate (cellsAt_zeros _) (cellsAt_zeros _) (cellsAt_zeros _))

theorem tget_unlisted : ∀ (m : List Host.Cell) (a : Nat), (∀ e ∈ m, e.1 ≠ a) → tget unlistedByte m a = 0
  | [], _, _ => rfl
  | (k, v) :: m, a, h => by
    rw [tget, if_neg (Ne.symm (h (k, v) List.mem_cons_self))]
    exact tget_unlisted m a fun x hx => h x (List.mem_cons_of_mem _ hx)
theorem crc_zeros : ∀ (l : Bytes), (∀ b ∈ l, b = 0) → l.foldl (crcByte 0xEDB88320) 0 = 0
  | [], _ => rfl
  | b :: l, h => by
    rw [List.foldl_cons, h b List.mem_cons_self]
    exact crc_zeros l fun x hx => h x (List.mem_cons_of_mem _ hx)
/-- A run of memory whose first k bytes bring the register to 0 and whose others are 0. -/
theorem crc_settled (m : List Host.Cell) (a k n : Nat) (h : crcRefl 0xEDB88320 0xFFFFFFFF (memRead m a k) = 0)
    (hz : ∀ e ∈ m, ¬(a + k ≤ e.1 ∧ e.1 < a + k + n)) : (crc32 (memRead m a (k + n))).toNat = 0xFFFFFFFF := by
  have e : memRead m a (k + n) = memRead m a k ++ (List.range n).map fun i => memByte m (a + (k + i)) := by
    unfold memRead; rw [List.range_add, List.map_append, List.map_map]; rfl
  have z : crcRefl 0xEDB88320 0xFFFFFFFF (memRead m a (k + n)) = 0 := by
    rw [e]; unfold crcRefl at h ⊢; rw [List.foldl_append, h]
    refine crc_zeros _ fun b hb => ?_
    obtain ⟨i, hi, rfl⟩ := List.mem_map.1 hb
    refine tget_unlisted m _ fun e he hk => hz e he ?_
    have := List.mem_range.1 hi
    omega
  unfold crc32; rw [z]; rfl

/-- IMAGE_LOAD for region 5 of partition 0 at cluster 0, from host memory, staged at address 0. -/
def imageSlot : Bytes := slot 0x20 0 (List.replicate 11 0 ++ [5])
/-- Partition 0 of cluster 0, with the image at the start of its stack. -/
def imaged : State := { ran owned imageSlot with mem := imageCells }
def imageHd : Header := { flags := 0, caps := 0, w := 1, h := 1, mode := 0, hold := 0, frame := 64, size := 529920, soff := 128, scount := 4 }
def sectAt (t n off size : Nat) : Sect := { type := t, sver := 1, flags := 0, count := n, off := off, size := size, crc := 0xFFFFFFFF }
def imageSects : List Sect := [sectAt 1 1 256 256, sectAt 4 1 512 5120, sectAt 3 256 5632 262144, sectAt 2 32 267776 262144]
theorem imaged_header : imaged.header 0 = imageHd := by decide +kernel
theorem imaged_sects : imaged.sects 0 imageHd = imageSects := by decide +kernel
theorem imaged_sectOk (t c off n k : Nat) (h1 : off % 64 = 0) (h2 : off + (k + n) ≤ 529920)
    (h : crcRefl 0xEDB88320 0xFFFFFFFF (memRead imageCells off k) = 0) (hz : ∀ e ∈ imageCells, ¬(off + k ≤ e.1 ∧ e.1 < off + k + n)) :
    imaged.sectOk 0 imageHd (sectAt t c off (k + n)) = true := by
  have q : (crc32 (imaged.img 0 off (k + n))).toNat = 0xFFFFFFFF := by
    show (crc32 (memRead imageCells (0 + off) (k + n))).toNat = _
    rw [Nat.zero_add]; exact crc_settled _ _ _ _ h hz
  unfold State.sectOk
  rw [show (sectAt t c off (k + n)).off = off from rfl, show (sectAt t c off (k + n)).size = k + n from rfl, q]
  simp only [Bool.and_eq_true, decide_eq_true_eq]
  exact ⟨⟨h1, h2⟩, rfl⟩
theorem imaged_sectsOk : imageSects.all (imaged.sectOk 0 imageHd) = true := by
  have a := imaged_sectOk 1 1 256 249 7 (by decide) (by decide) (by decide +kernel) (by decide +kernel)
  have b := imaged_sectOk 4 1 512 5116 4 (by decide) (by decide) (by decide +kernel) (by decide +kernel)
  have c := imaged_sectOk 3 256 5632 262139 5 (by decide) (by decide) (by decide +kernel) (by decide +kernel)
  have d := imaged_sectOk 2 32 267776 262140 4 (by decide) (by decide) (by decide +kernel) (by decide +kernel)
  unfold imageSects
  rw [List.all_cons, List.all_cons, List.all_cons, List.all_cons, a, b, c, d]
  rfl
theorem imaged_checks : imaged.checkImage part0 0 5 0 0 = stOk := by
  unfold State.checkImage
  rw [imaged_header]
  dsimp only
  rw [imaged_sects, imaged_sectsOk]
  decide +kernel

theorem meets_ImagesComeIntoUse_load :
    let c := cmdOf imageSlot
    readyCmd owned 0x20 imageSlot = true ∧ c.origin = .ring 0 ∧ (ran owned imageSlot).part c.partNo = some part0 ∧ c.byte 16 = 0
      ∧ c.byte 19 = 5 ∧ c.arg 24 6 = 0 ∧  owned.region 5 = none ∧ part0.ownsHbm 0 529920 = true := by decide +kernel
theorem imageWith_begins (z₁ z₂ z₃ : Bytes) : padTo 128 (imageWith z₁ z₂ z₃) = imageHead.take 128 := by
  unfold padTo imageWith
  rw [List.append_assoc, List.take_append_of_le_length (by rw [imageHead_length]; decide)]
theorem image_begins : padTo 128 image = imageHead.take 128 := imageWith_begins _ _ _
theorem meets_ImagesComeIntoUse_head : fld (padTo 128 image) 0x20 8 = 529920 ∧ headCheck (padTo 128 image) = stOk := by
  have e : imageHead.take 128 = memRead imageCells 0 128 := by decide +kernel
  rw [image_begins, e]
  exact ⟨by decide +kernel, by decide +kernel⟩
theorem meets_ImagesComeIntoUse_input : (cmdOf imageSlot).inputOf (.ok image) = .ok image := rfl
/-- The image staged in memory passes every check, and its endpoints fit. -/
theorem meets_ImagesComeIntoUse_checks :
    (ran owned imageSlot).stageImage (cmdOf imageSlot) (padTo 529920 image) = imaged ∧ imaged.checkImage part0 0 5 0 0 = stOk
      ∧ imaged.endpointsFit part0 5 (imaged.inboundsOf 0 5 0 0 imageSects) = true := by
  refine ⟨?_, imaged_checks, by decide +kernel⟩
  have h : ∀ b, (ran owned imageSlot).stageImage (cmdOf imageSlot) b = { ran owned imageSlot with mem := memWrite [] 0 b } := by
    intro b
    have h1 : ¬ (cmdOf imageSlot).byte 16 = 1 := by decide +kernel
    have h2 : (cmdOf imageSlot).arg 24 6 = 0 := by decide +kernel
    unfold State.stageImage
    rw [if_neg h1, h2]
    unfold State.poke
    rw [show (ran owned imageSlot).mem = [] from rfl]
  have w : ∀ b, memWrite [] 0 b = cellsAt 0 b := by
    intro b
    unfold memWrite
    rw [List.filter_nil, List.filter_nil, List.nil_append, List.append_nil]
  exact (h _).trans (congrArg (fun m => { ran owned imageSlot with mem := m }) ((w _).trans image_cells))

end Sys2Proof.Tests
end

section
/-! Proofs of the statements on the scope of the block: what reset leaves (R8), how a CSR is reached (R7, R42, R101) and how the host reaches
the panel (R6, R314 to R326, R341, R452). -/

namespace Sys2Proof.Proofs

open Sys2Proof Sys2Proof.Machine Sys2Proof.Safety Sys2Proof.Laws

/-! ### What reset leaves -/

theorem reset_field (a lo w : Nat) : State.reset.field a lo w = bits (regReset a).toNat lo w := rfl

/-- Any field of a cluster's `PWR_CLU` after reset, read off its reset word. -/
theorem reset_pwrClu_field {c : Nat} (hc : c < 576) (lo w : Nat) : State.reset.field (pwrClu c) lo w = bits 224 lo w := by
  rw [reset_field, reset_clu c hc]; rfl

/-- Settles O1: each register is read off its reset word, and no store lists anything. -/
theorem resetLeaves : Obligations.ResetLeaves := by
  unfold Obligations.ResetLeaves
  have hoff : ∀ c, c < 576 → State.reset.power? c = 0 ∧ State.reset.field (pwrClu c) 5 3 = 7 ∧ State.reset.field (pwrClu c) 15 1 = 0 :=
    fun c hc => ⟨reset_pwrClu_field hc 0 2, reset_pwrClu_field hc 5 3, reset_pwrClu_field hc 15 1⟩
  refine ⟨rfl, rfl, rfl, rfl, rfl, rfl, hoff, ?_⟩
  simp only [reset_field]
  decide

/-! ### Commands whose guard holds -/

section Guard

variable {s : State}

/-- A command whose guard holds answers its effect. -/
theorem answer_onlyIf {c : Bool} (t : State) (hc : c = true) : answer s (onlyIf c s t) = answer s t := by
  rw [hc, onlyIf_true]

theorem runs_ite_pos {i : Instr} {c : Prop} [Decidable c] {t u : State} (h : runs i s (if c then t else u)) (hc : c) : runs i s t := by
  rwa [if_pos hc] at h

theorem runs_ite_neg {i : Instr} {c : Prop} [Decidable c] {t u : State} (h : runs i s (if c then t else u)) (hc : ¬ c) : runs i s u := by
  rwa [if_neg hc] at h

end Guard

/-! ### CSRs -/

section Csr

variable {s : State} {h rd rs1 csr : Nat}

/-- An instruction that writes v to rd and goes on, of a core that waits at nothing (R41). -/
theorem retire_setXreg (v : Word) (hw : (s.core h).wait = none) : (s.setXreg h rd v).retire h 4 = s.setCore h (wrote (s.core h) rd v) := by
  unfold State.setXreg
  rw [retire_eq, ← advanced_eq _ ((setX_wait ..).trans hw), wrote_eq]

/-- An address of no CSR ends the petal (R42). -/
theorem doCsr_illegal (f3 : Nat) (hr : s.csrRead h csr = none) : s.doCsr h f3 rd rs1 csr = s.halt h causeIllegal (s.core h).pc := by
  unfold State.doCsr
  rw [hr]

/-- CSRRS with source x0 reads and writes nothing (R41). -/
theorem doCsr_read {v : Word} (hr : s.csrRead h csr = some v) : s.doCsr h 2 rd 0 csr = (s.setXreg h rd v).retire h 4 := by
  unfold State.doCsr
  rw [hr]
  rfl

/-- CSRRW writes rs1 to the CSR and its old value to rd (R41). -/
theorem doCsr_write {v : Word} {t : State} (hr : s.csrRead h csr = some v) (hw : s.csrWrite h csr ((s.core h).xreg rs1) = some t) :
    s.doCsr h 1 rd rs1 csr = (t.setXreg h rd v).retire h 4 := by
  unfold State.doCsr
  rw [hr]
  dsimp only
  rw [if_neg fun hc => hc.1 rfl, if_pos (by decide), if_pos (by decide), hw]

theorem csrAccess_ready (f3 : BitVec 3) (c : BitVec 12) (hr : s.ready h = true) (hf : f3.toNat % 4 ≠ 0) :
    exec (.csrAccess h f3 rd rs1 c) s = answer s (s.doCsr h f3.toNat rd rs1 c.toNat) := by
  refine (answer_onlyIf _ hr).trans ?_
  rw [if_neg hf]

theorem csrAccess_reads {v : Word} (c : BitVec 12) (hr : s.ready h = true) (hv : s.csrRead h c.toNat = some v) :
    exec (.csrAccess h 2 rd 0 c) s = .next (s.setCore h (wrote (s.core h) rd v)) :=
  (csrAccess_ready 2 c hr (by decide)).trans
    (congrArg (answer s) ((doCsr_read hv).trans (retire_setXreg v (wait_none s h hr))))

theorem csrAccess_writes {v : Word} {t : State} (c : BitVec 12) (hr : s.ready h = true) (hv : s.csrRead h c.toNat = some v)
    (hw : s.csrWrite h c.toNat ((s.core h).xreg rs1) = some t) :
    exec (.csrAccess h 1 rd rs1 c) s = answer s ((t.setXreg h rd v).retire h 4) :=
  (csrAccess_ready 1 c hr (by decide)).trans (congrArg (answer s) (doCsr_write hv hw))

theorem rngSeedWrite_ready (v : Word) (hr : s.ready h = true) : exec (.rngSeedWrite h v) s = .next (s.reseed h v) :=
  answer_onlyIf _ hr

/-- A write of `RNG_SEED` by an instruction: the streams are reseeded, and rd takes the 0 that the write-only CSR reads (R7, R101). -/
theorem retire_reseed (v : Word) (hw : (s.core h).wait = none) :
    ((s.reseed h v).setXreg h rd 0).retire h 4
      = s.setCore h (wrote ((s.core h).setPet { (s.core h).pet with streams := seedAll v h (s.stepCountOf h) }) rd 0) := by
  have hc : (s.reseed h v).core h = (s.core h).setPet { (s.core h).pet with streams := seedAll v h (s.stepCountOf h) } :=
    (core_setCore ..).trans (if_pos rfl)
  rw [retire_setXreg 0 (by rw [hc]; exact hw), hc]
  exact setCore_setCore ..

end Csr

/-- Settles O14: each access is CSRRS from x0 or CSRRW, whose read and write of the CSR named decide it. -/
theorem csrAccess : Obligations.CsrAccess := by
  unfold Obligations.CsrAccess
  intro s h rd hr
  have hw := wait_none s h hr
  refine ⟨?mhartid, fun rs1 => ?readOnly, fun f3 rs1 csr hnone hf => ?illegal, fun v => rngSeedWrite_ready v hr, fun rs1 => ?seed⟩
  case mhartid => exact csrAccess_reads 0xF14 hr rfl
  case readOnly =>
    rw [csrAccess_writes 0x7C0 hr rfl rfl, retire_setXreg _ hw]
    rfl
  case illegal => exact ⟨_, csrAccess_ready f3 csr hr hf, by rw [doCsr_illegal _ hnone]; exact halted_eq ..⟩
  case seed =>
    rw [csrAccess_writes 0x7C2 hr rfl rfl, retire_reseed _ hw]
    rfl

/-! ### The rings -/

section Rings

variable {s : State} {r : Nat}

theorem dbSqTail_live (v : Word) (hr : r < 64) (hl : s.hostLive = true) : runs (.dbSqTail r v) s (s.sqTail r v) :=
  answer_onlyIf _ (by rw [hl, decide_eq_true hr]; rfl)

theorem dbCqHead_live (v : Word) (hr : r < 64) (hl : s.hostLive = true) : runs (.dbCqHead r v) s (s.cqHead r v) :=
  answer_onlyIf _ (by rw [hl, decide_eq_true hr]; rfl)

theorem sqTail_refused {v : Word} (hv : 256 < ((v.setWidth 16 : Half) - (s.ring r).head).toNat) :
    s.sqTail r v = s.refuseBell r 16 (v.setWidth 16 : Half).toNat :=
  if_pos hv

theorem sqTail_accepted {v : Word} (hv : ((v.setWidth 16 : Half) - (s.ring r).head).toNat ≤ 256) :
    s.sqTail r v = ((s.setRing r { s.ring r with tail := v.setWidth 16 }).setMgtField (0x104 + 8 * r) 16 1 0).showRing r :=
  if_neg (Nat.not_lt.mpr hv)

theorem cqHead_refused {v : Word} (hv : (s.ring r).unconsumed < ((v.setWidth 16 : Half) - (s.ring r).consumed).toNat) :
    s.cqHead r v = s.refuseBell r 18 (v.setWidth 16 : Half).toNat :=
  if_pos hv

theorem cqHead_accepted {v : Word} (hv : ((v.setWidth 16 : Half) - (s.ring r).consumed).toNat ≤ (s.ring r).unconsumed) :
    s.cqHead r v = (s.setRing r { s.ring r with consumed := v.setWidth 16 }).setMgtField (0x104 + 8 * r) 18 1 0 :=
  if_neg (Nat.not_lt.mpr hv)

@[simp] theorem ring_setMgtField (s : State) (o lo w v k : Nat) : (s.setMgtField o lo w v).ring k = s.ring k := by
  unfold State.ring
  rw [setMgtField_host]

/-- An accepted DB_CQ_HEAD moves what the host has consumed of its ring, no other ring and no memory (R321). -/
theorem cqHead_accepted_rings {v : Word} (hv : ((v.setWidth 16 : Half) - (s.ring r).consumed).toNat ≤ (s.ring r).unconsumed) :
    (s.cqHead r v).ring r = { s.ring r with consumed := v.setWidth 16 } ∧ (∀ k, k ≠ r → (s.cqHead r v).ring k = s.ring k)
      ∧ (s.cqHead r v).mem = s.mem := by
  rw [cqHead_accepted hv]
  refine ⟨?_, fun k hk => ?_, setMgtField_mem ..⟩
  · rw [ring_setMgtField, ring_setRing, if_pos rfl]
  · rw [ring_setMgtField, ring_setRing, if_neg hk.symm]

/-- The command at the head of ring r, as its slot's bytes. -/
def headSlot (s : State) (r : Nat) : Bytes := s.slotBytes r (s.ring r).head.toNat

/-- Ring r has given up the command at its head. -/
def headGiven (s : State) (r : Nat) : State := (s.setRing r { s.ring r with head := (s.ring r).head + 1 }).showRing r

/-- A command of ring r is entered and ends at once with ABORTED. -/
def enterAborted (u : State) (r : Nat) (slot : Bytes) : State :=
  ({ u with host := { u.host with nextId := u.host.nextId + 1, started := tput u.host.started u.host.nextId { origin := .ring r, slot := slot } } }).fail
    u.host.nextId stAborted

/-- Ring r of a panel that serves, whose turn it is, gives up the command at its head (R321, R322, R329). -/
theorem commandDispatch_takes (hr : r < 64) (hs : s.serving = true) (hc : s.canDispatch r = true) (h0 : r = 0 ∨ s.canDispatch 0 = false) :
    runs (.commandDispatch r) s
      (if (s.ring r).isDoomed (headSlot s r) then enterAborted (headGiven s r) r (headSlot s r) else (headGiven s r).dispatch (.ring r) (headSlot s r)) := by
  have hturn : ¬ (r ≠ 0 ∧ s.canDispatch 0 = true) := fun ⟨hne, h⟩ => ne_true_of_eq_false (h0.resolve_left hne) h
  have hgoes : ¬ (64 ≤ r ∨ (!s.serving) = true ∨ (!s.canDispatch r) = true ∨ (r ≠ 0 ∧ s.canDispatch 0 = true)) := by
    rw [hs, hc]
    simpa [hr] using hturn
  exact congrArg (answer s) (if_neg hgoes)

/-- A ring with room shows the oldest completion that waits (R320, R321). -/
theorem completionPost_posts {k : Completion} {rest : List Completion} (hr : r < 64) (hp : (s.ring r).toPost = k :: rest)
    (hs : s.serving = true) (hu : (s.ring r).unconsumed < 256) :
    let x := s.ring r
    runs (.completionPost r) s
      (((s.setRing r { x with toPost := rest, posted := x.posted + 1 }).putBar0 (0x200000 + r * 0x2000 + x.posted.toNat % 256 * 32)
        (k.bytes (1 - x.posted.toNat / 256 % 2) r x.head.toNat)).entryVisible r) := by
  have hroom : ¬ (64 ≤ r ∨ (!s.serving) = true ∨ 256 ≤ (s.ring r).unconsumed) := by simpa [hs] using ⟨hr, hu⟩
  show execCompletionPost r s = _
  unfold execCompletionPost
  dsimp only
  rw [hp]
  exact congrArg (answer s) (if_neg hroom)

theorem msixCoalesceTimeout_signals (hr : r < 64) (hi : s.ringIrq r = true) (hu : (s.ring r).unsig ≠ 0) :
    runs (.msixCoalesceTimeout r) s (s.ringSignal r) :=
  answer_onlyIf _ (by rw [decide_eq_true hr, hi, decide_eq_true hu]; rfl)

end Rings

/-! ### The endpoint, its registers and its aperture -/

section Endpoint

variable {s : State}

/-- A BAR2 read over a live link, with no other under way, waits only for the member's flow (R276, R318). -/
theorem bar2Read_live {off len : Nat} (hl : s.hostLive = true) (hn : len ≠ 0) (hb : off + len ≤ 0x1000000000) (hw : s.host.apWait = [])
    (hh : s.sparing.waiting.any (fun h => h.data.isNone) = false) :
    runs (.bar2Read off len) s (if s.apReady (s.apAddr off) len then s.bar2Get (s.apAddr off) len else s) := by
  refine congrArg (answer s) ?_
  rw [hl, hw, hh]
  cases s.apReady (s.apAddr off) len
  · exact if_pos (by simp)
  · exact if_neg (by simpa [hn] using hb)

/-- A BAR2 write over a live link waits only for the member's flow (R276, R318). -/
theorem bar2Write_live {off : Nat} {data : Bytes} (hl : s.hostLive = true) (hb : off + data.length ≤ 0x1000000000) :
    runs (.bar2Write off data) s (if s.apReady (s.apAddr off) data.length then s.bar2Put (s.apAddr off) data else s) := by
  refine congrArg (answer s) ?_
  rw [hl]
  cases s.apReady (s.apAddr off) data.length
  · exact if_pos (by simp)
  · exact if_neg (by simpa using hb)

/-- One part of a BAR2 read is given up: it waits no more, is counted and recorded (R318). -/
def loseRead (s : State) (x : ApPiece) : State :=
  let u : State := { s with host := { s.host with apWait := s.host.apWait.erase x } }
  (u.setMgt 0x2C (BitVec.ofNat 32 (satAdd 32 (s.mgt 0x2C).toNat 1))).record 0x0701 2 noPart 0 onPanel (u64 x.addr)

theorem bar2ReadTimeout_loses (s : State) : exec .bar2ReadTimeout s = answer s (s.host.apWait.foldl loseRead s) := rfl

theorem loseRead_apWait (x : ApPiece) : (loseRead s x).host.apWait = s.host.apWait.erase x := record_apWait ..

theorem loseRead_count (x : ApPiece) : (loseRead s x).mgt 0x2C = BitVec.ofNat 32 (satAdd 32 (s.mgt 0x2C).toNat 1) :=
  (record_mgt _ _ _ _ _ _ _ _ (by decide) (by decide)).trans ((mgt_setMgt ..).trans (if_pos rfl))

theorem loseRead_mem (x : ApPiece) : (loseRead s x).mem = s.mem := (record_onlyEvents ..).mem

/-- A write of `MGT_EVT_IRQ` sets its RW bits and nothing else (R7, R317). -/
theorem registerWrite_evtIrq (v : Word) (hl : s.hostLive = true) :
    exec (.registerWrite .bar0 0x1C v) s = .next (s.setMgt 0x1C ((s.mgt 0x1C &&& ~~~ 0x7FFF#32) ||| (v &&& 0x7FFF#32))) :=
  answer_onlyIf _ (by rw [hl]; rfl)

theorem mgtHeartbeatTick_beats (hg : s.glerynRuns = true) (hb : s.sparing.bar0Live = true) :
    exec .mgtHeartbeatTick s = .next (s.setMgt 0xC (s.mgt 0xC + 1)) :=
  answer_onlyIf _ (by rw [hg, hb]; rfl)

theorem rdybsyPulseRepeat_pulses (h : ∃ r < 64, s.pulsing r = true) : runs .rdybsyPulseRepeat s s.pulse := by
  obtain ⟨r, hr, hp⟩ := h
  exact answer_onlyIf _ (List.any_eq_true.mpr ⟨r, List.mem_range.mpr hr, hp⟩)

end Endpoint

/-- Settles O46: each access of the host runs where its guard holds, and its effect decides on the branch that the statement names. -/
theorem hostReachesPanel : Obligations.HostReachesPanel := by
  unfold Obligations.HostReachesPanel
  refine ⟨fun s r hr => ⟨fun v hl => ⟨?tailRefused, ?tailAccepted, ?headRefused, ?headAccepted⟩,
      fun hs hc h0 => ⟨?dispatched, ?aborted⟩,
      fun k rest hp hs hu => completionPost_posts hr hp hs hu, fun hi hu => msixCoalesceTimeout_signals hr hi hu⟩,
    fun s => ⟨?endpoint, fun hl => ⟨?read, ?write, ?evtIrq⟩, ?timeout, rdybsyPulseRepeat_pulses, ?heartbeat⟩⟩
  case tailRefused => exact fun hv => sqTail_refused hv ▸ dbSqTail_live v hr hl
  case tailAccepted => exact fun hv => sqTail_accepted hv ▸ dbSqTail_live v hr hl
  case headRefused => exact fun hv => cqHead_refused hv ▸ dbCqHead_live v hr hl
  case headAccepted => exact fun hv => ⟨_, dbCqHead_live v hr hl, cqHead_accepted_rings hv⟩
  case dispatched => exact fun hd => runs_ite_neg (commandDispatch_takes hr hs hc h0) (ne_true_of_eq_false hd)
  case aborted => exact fun hd => runs_ite_pos (commandDispatch_takes hr hs hc h0) hd
  case endpoint => exact fun hb => ⟨answer_onlyIf _ hb, fun up => answer_onlyIf _ hb⟩
  case read =>
    intro off len hn hb hw hh
    have h := bar2Read_live hl hn hb hw hh
    exact ⟨runs_ite_pos h, fun hp => runs_ite_neg h (ne_true_of_eq_false hp)⟩
  case write =>
    intro off data hb
    have h := bar2Write_live hl hb
    exact ⟨runs_ite_pos h, fun hp => runs_ite_neg h (ne_true_of_eq_false hp)⟩
  case evtIrq =>
    exact fun v => ⟨_, registerWrite_evtIrq v hl, (mgt_setMgt ..).trans (if_pos rfl), fun o ho => mgt_setMgt_ne _ _ _ _ ho, rfl, rfl⟩
  case timeout =>
    intro x hx
    have h := bar2ReadTimeout_loses s
    rw [hx] at h
    have hnone : (loseRead s x).host.apWait = [] := by rw [loseRead_apWait, hx, List.erase_cons_head]
    exact ⟨_, h, hnone, loseRead_count x, loseRead_mem x⟩
  case heartbeat =>
    exact fun hg hb => ⟨_, mgtHeartbeatTick_beats hg hb, (mgt_setMgt ..).trans (if_pos rfl), fun o ho => mgt_setMgt_ne _ _ _ _ ho, rfl, rfl⟩

end Sys2Proof.Proofs
end

section
/-! Proofs of the statements on the panel's organisation: what one step keeps (R32, R36), logical dies (R26), the operations of the
bulk movers (R190, R191), and how dies are spared and the panel comes up (R28, R381 to R400, R418 to R431). -/

namespace Sys2Proof.Proofs

open Sys2Proof Sys2Proof.Machine Sys2Proof.Safety Sys2Proof.Laws

/-! ### One step of the block -/

section Step

variable {s : State}

theorem step_idle (h : s.pending = []) : step s = .next s.tick := by
  unfold step
  rw [h]

theorem step_command {c : Instr} {rest : List Instr} (h : s.pending = c :: rest) : step s = exec c { s with pending := rest } := by
  unfold step
  rw [h]

theorem tick_memoryCanonical (h : memoryCanonical s) : memoryCanonical s.tick := by
  obtain ⟨hmem, -⟩ := tick_steady s
  exact (congrArg Memory.wf hmem).trans h

end Step

/-- Every command keeps panel memory in canonical form: each of the 241 by the lemma on its own meaning. -/
theorem exec_memoryCanonical {s t : State} (hs : memoryCanonical s) : ∀ i : Instr, exec i s = .next t → memoryCanonical t
  | .scalarInstruction .., e => execScalarInstruction_wf _ _ _ hs e
  | .scalarLoad .., e => execScalarLoad_wf _ _ _ _ _ _ _ _ hs e
  | .scalarStore .., e => execScalarStore_wf _ _ _ _ _ _ _ hs e
  | .csrAccess .., e => execCsrAccess_wf _ _ _ _ _ _ _ hs e
  | .rngSeedWrite .., e => execRngSeedWrite_wf _ _ _ _ hs e
  | .qTag .., e => execQTag_wf _ _ _ _ _ hs e
  | .qRdw .., e => execQRdw_wf _ _ _ _ _ _ hs e
  | .qPop .., e => execQPop_wf _ _ _ _ hs e
  | .qWrw .., e => execQWrw_wf _ _ _ _ _ _ hs e
  | .qPush .., e => execQPush_wf _ _ _ _ _ hs e
  | .qFwd .., e => execQFwd_wf _ _ _ _ _ hs e
  | .qStat .., e => execQStat_wf _ _ _ _ _ _ hs e
  | .lcSet .., e => execLcSet_wf _ _ _ _ _ _ hs e
  | .lcRd .., e => execLcRd_wf _ _ _ _ _ _ hs e
  | .eIssue .., e => execEIssue_wf _ _ _ _ _ _ hs e
  | .eWait .., e => execEWait_wf _ _ _ _ hs e
  | .eStat .., e => execEStat_wf _ _ _ _ hs e
  | .pYield .., e => execPYield_wf _ _ _ hs e
  | .rnd .., e => execRnd_wf _ _ _ _ hs e
  | .coreWaitReleased .., e => execCoreWaitReleased_wf _ _ _ hs e
  | .matmul .., e => execMatmul_wf _ _ _ _ hs e
  | .latch .., e => execLatch_wf _ _ _ _ hs e
  | .flush .., e => execFlush_wf _ _ _ _ hs e
  | .engineDescriptorComplete .., e => execEngineDescriptorComplete_wf _ _ _ _ hs e
  | .bouquetMatmul .., e => execBouquetMatmul_wf _ _ _ _ hs e
  | .add .., e => execAdd_wf _ _ _ hs e
  | .mul .., e => execMul_wf _ _ _ hs e
  | .fma .., e => execFma_wf _ _ _ hs e
  | .max .., e => execMax_wf _ _ _ hs e
  | .min .., e => execMin_wf _ _ _ hs e
  | .affine .., e => execAffine_wf _ _ _ hs e
  | .cast .., e => execCast_wf _ _ _ hs e
  | .rmsnorm .., e => execRmsnorm_wf _ _ _ hs e
  | .layernorm .., e => execLayernorm_wf _ _ _ hs e
  | .siluMul .., e => execSiluMul_wf _ _ _ hs e
  | .gelu .., e => execGelu_wf _ _ _ hs e
  | .exp .., e => execExp_wf _ _ _ hs e
  | .recip .., e => execRecip_wf _ _ _ hs e
  | .rsqrt .., e => execRsqrt_wf _ _ _ hs e
  | .tanh .., e => execTanh_wf _ _ _ hs e
  | .sigmoid .., e => execSigmoid_wf _ _ _ hs e
  | .rope .., e => execRope_wf _ _ _ hs e
  | .sum .., e => execSum_wf _ _ _ hs e
  | .maxred .., e => execMaxred_wf _ _ _ hs e
  | .smaxMerge .., e => execSmaxMerge_wf _ _ _ hs e
  | .smaxFinal .., e => execSmaxFinal_wf _ _ _ hs e
  | .argmax .., e => execArgmax_wf _ _ _ hs e
  | .topk .., e => execTopk_wf _ _ _ hs e
  | .topkMerge .., e => execTopkMerge_wf _ _ _ hs e
  | .sample .., e => execSample_wf _ _ _ hs e
  | .shadowCheck .., e => execShadowCheck_wf _ _ _ _ hs e
  | .shadowTiebreak .., e => execShadowTiebreak_wf _ _ _ _ hs e
  | .shadowBlameReplace .., e => execShadowBlameReplace_wf _ _ _ _ hs e
  | .controlStateParityError .., e => execControlStateParityError_wf _ _ _ hs e
  | .heartbeatLoss .., e => execHeartbeatLoss_wf _ _ _ hs e
  | .secdedUncorrectable .., e => execSecdedUncorrectable_wf _ _ _ _ _ _ hs e
  | .secdedCorrectable .., e => execSecdedCorrectable_wf _ _ _ _ _ hs e
  | .standIn .., e => execStandIn_wf _ _ _ _ hs e
  | .partitionFrozen .., e => execPartitionFrozen_wf _ _ _ hs e
  | .standInPetalsRestored .., e => execStandInPetalsRestored_wf _ _ _ _ hs e
  | .standInNearStoreRestored .., e => execStandInNearStoreRestored_wf _ _ _ _ _ hs e
  | .replayRelease .., e => execReplayRelease_wf _ _ _ hs e
  | .rotation .., e => execRotation_wf _ _ _ _ _ hs e
  | .tokenArrival .., e => execTokenArrival_wf _ _ _ hs e
  | .boundaryPortAdmit .., e => execBoundaryPortAdmit_wf _ _ _ _ hs e
  | .epochHoldExpiry .., e => execEpochHoldExpiry_wf _ _ _ _ hs e
  | .creditReturn .., e => execCreditReturn_wf _ _ _ _ hs e
  | .packetFormed .., e => execPacketFormed_wf _ _ _ _ hs e
  | .packetWaitTimeout .., e => execPacketWaitTimeout_wf _ _ _ _ hs e
  | .steerRoute .., e => execSteerRoute_wf _ _ _ _ hs e
  | .mergeArrival .., e => execMergeArrival_wf _ _ _ _ hs e
  | .mergeOrdered .., e => execMergeOrdered_wf _ _ _ _ hs e
  | .regionStall .., e => execRegionStall_wf _ _ _ hs e
  | .stepRelease .., e => execStepRelease_wf _ _ _ hs e
  | .stepEnd .., e => execStepEnd_wf _ _ _ hs e
  | .noticeDeferTimeout .., e => execNoticeDeferTimeout_wf _ _ _ hs e
  | .foldAdvance .., e => execFoldAdvance_wf _ _ _ hs e
  | .petalSwitch .., e => execPetalSwitch_wf _ _ _ hs e
  | .qsampSample .., e => execQsampSample_wf _ _ _ hs e
  | .bmDescriptorEnqueue .., e => execBmDescriptorEnqueue_wf _ _ _ _ hs e
  | .copy .., e => execCopy_wf _ _ _ _ hs e
  | .fill .., e => execFill_wf _ _ _ _ hs e
  | .crc32 .., e => execCrc32_wf _ _ _ _ hs e
  | .invalidate .., e => execInvalidate_wf _ _ _ _ hs e
  | .contribDescriptor .., e => execContribDescriptor_wf _ _ _ _ hs e
  | .bmCompletion .., e => execBmCompletion_wf _ _ _ _ hs e
  | .residentAudit .., e => execResidentAudit_wf _ _ _ hs e
  | .auditMismatch .., e => execAuditMismatch_wf _ _ _ _ hs e
  | .append .., e => execAppend_wf _ _ _ _ _ hs e
  | .pageInit .., e => execPageInit_wf _ _ _ _ _ hs e
  | .pageFree .., e => execPageFree_wf _ _ _ _ _ hs e
  | .pageTrim .., e => execPageTrim_wf _ _ _ _ _ hs e
  | .pass .., e => execPass_wf _ _ _ _ _ hs e
  | .passResponse .., e => execPassResponse_wf _ _ _ hs e
  | .pageTableSweep .., e => execPageTableSweep_wf _ _ _ hs e
  | .stackDiscard .., e => execStackDiscard_wf _ _ _ hs e
  | .dramUe .., e => execDramUe_wf _ _ _ _ hs e
  | .pageTableUe .., e => execPageTableUe_wf _ _ _ _ hs e
  | .patrolScrub .., e => execPatrolScrub_wf _ _ _ _ _ hs e
  | .stackTempSample .., e => execStackTempSample_wf _ _ _ _ hs e
  | .channelRetrain .., e => execChannelRetrain_wf _ _ _ _ _ hs e
  | .stackLost .., e => execStackLost_wf _ _ _ _ hs e
  | .packetSend .., e => execPacketSend_wf _ _ _ hs e
  | .seamWord .., e => execSeamWord_wf _ _ _ _ hs e
  | .seamResend .., e => execSeamResend_wf _ _ _ hs e
  | .lateUnitSend .., e => execLateUnitSend_wf _ _ _ _ hs e
  | .seamRetrain .., e => execSeamRetrain_wf _ _ _ _ hs e
  | .seamHalfWidth .., e => execSeamHalfWidth_wf _ _ _ hs e
  | .fabricTableUe .., e => execFabricTableUe_wf _ _ _ _ _ hs e
  | .flitReceive .., e => execFlitReceive_wf _ _ _ _ hs e
  | .linkReplay .., e => execLinkReplay_wf _ _ _ hs e
  | .creditFlit .., e => execCreditFlit_wf _ _ _ _ hs e
  | .trainFlit .., e => execTrainFlit_wf _ _ _ _ hs e
  | .linkRetrain .., e => execLinkRetrain_wf _ _ _ _ _ hs e
  | .linkPacketReceive .., e => execLinkPacketReceive_wf _ _ _ _ hs e
  | .write .., e => execWrite_wf _ _ _ hs e
  | .read .., e => execRead_wf _ _ _ hs e
  | .mgmt .., e => execMgmt_wf _ _ _ hs e
  | .tokens .., e => execTokens_wf _ _ _ hs e
  | .relay .., e => execRelay_wf _ _ _ hs e
  | .ack .., e => execAck_wf _ _ _ hs e
  | .nack .., e => execNack_wf _ _ _ hs e
  | .readData .., e => execReadData_wf _ _ _ hs e
  | .credit .., e => execCredit_wf _ _ _ hs e
  | .mgmtReply .., e => execMgmtReply_wf _ _ _ hs e
  | .mcCount .., e => execMcCount_wf _ _ _ hs e
  | .contrib .., e => execContrib_wf _ _ _ hs e
  | .result .., e => execResult_wf _ _ _ hs e
  | .collAck .., e => execCollAck_wf _ _ _ hs e
  | .resendTimeout .., e => execResendTimeout_wf _ _ _ _ hs e
  | .holdExpiry .., e => execHoldExpiry_wf _ _ _ hs e
  | .flowExpiry .., e => execFlowExpiry_wf _ _ _ _ hs e
  | .endpointCreditTimer .., e => execEndpointCreditTimer_wf _ _ _ hs e
  | .mcastNackWaitEnd .., e => execMcastNackWaitEnd_wf _ _ _ hs e
  | .collSegmentTimeout .., e => execCollSegmentTimeout_wf _ _ _ _ _ _ hs e
  | .laserModuleFail .., e => execLaserModuleFail_wf _ _ _ _ hs e
  | .laserModuleInsert .., e => execLaserModuleInsert_wf _ _ _ _ hs e
  | .linkDieLost .., e => execLinkDieLost_wf _ _ _ hs e
  | .cablePresentChange .., e => execCablePresentChange_wf _ _ _ _ _ hs e
  | .dbSqTail .., e => execDbSqTail_wf _ _ _ _ hs e
  | .dbCqHead .., e => execDbCqHead_wf _ _ _ _ hs e
  | .commandDispatch .., e => execCommandDispatch_wf _ _ _ hs e
  | .completionPost .., e => execCompletionPost_wf _ _ _ hs e
  | .msixCoalesceTimeout .., e => execMsixCoalesceTimeout_wf _ _ _ hs e
  | .identify .., e => execIdentify_wf _ _ _ _ hs e
  | .queryCaps .., e => execQueryCaps_wf _ _ _ _ hs e
  | .getInventory .., e => execGetInventory_wf _ _ _ _ hs e
  | .partCreate .., e => execPartCreate_wf _ _ _ _ hs e
  | .partDestroy .., e => execPartDestroy_wf _ _ _ _ hs e
  | .partReset .., e => execPartReset_wf _ _ _ _ hs e
  | .partResetDrainEnd .., e => execPartResetDrainEnd_wf _ _ _ hs e
  | .imageLoad .., e => execImageLoad_wf _ _ _ _ hs e
  | .imageActivate .., e => execImageActivate_wf _ _ _ _ hs e
  | .activationDrainComplete .., e => execActivationDrainComplete_wf _ _ _ hs e
  | .activationLoadComplete .., e => execActivationLoadComplete_wf _ _ _ hs e
  | .activationDrainTimeout .., e => execActivationDrainTimeout_wf _ _ _ hs e
  | .epochRateWaitEnd .., e => execEpochRateWaitEnd_wf _ _ _ hs e
  | .dataPlace .., e => execDataPlace_wf _ _ _ _ hs e
  | .dataFetch .., e => execDataFetch_wf _ _ _ _ hs e
  | .stepRun .., e => execStepRun_wf _ _ _ _ hs e
  | .stepAbort .., e => execStepAbort_wf _ _ _ _ hs e
  | .resultRelease .., e => execResultRelease_wf _ _ _ _ hs e
  | .routeSetBase .., e => execRouteSetBase_wf _ _ _ _ hs e
  | .routeSetEndpoints .., e => execRouteSetEndpoints_wf _ _ _ _ hs e
  | .routeSetPathGroups .., e => execRouteSetPathGroups_wf _ _ _ _ hs e
  | .routeSetMemoryEndpoints .., e => execRouteSetMemoryEndpoints_wf _ _ _ _ hs e
  | .endpointFence .., e => execEndpointFence_wf _ _ _ _ hs e
  | .endpointUnfence .., e => execEndpointUnfence_wf _ _ _ _ hs e
  | .mcastSetGroup .., e => execMcastSetGroup_wf _ _ _ _ hs e
  | .mcastSetContext .., e => execMcastSetContext_wf _ _ _ _ hs e
  | .mcastClearContext .., e => execMcastClearContext_wf _ _ _ _ hs e
  | .powerCapSet .., e => execPowerCapSet_wf _ _ _ _ hs e
  | .telemetryPower .., e => execTelemetryPower_wf _ _ _ _ hs e
  | .telemetryPartition .., e => execTelemetryPartition_wf _ _ _ _ hs e
  | .telemetryRegisters .., e => execTelemetryRegisters_wf _ _ _ _ hs e
  | .samplerConfig .., e => execSamplerConfig_wf _ _ _ _ hs e
  | .eventsRead .., e => execEventsRead_wf _ _ _ _ hs e
  | .eventsClear .., e => execEventsClear_wf _ _ _ _ hs e
  | .fwStage .., e => execFwStage_wf _ _ _ _ hs e
  | .fwCommit .., e => execFwCommit_wf _ _ _ _ hs e
  | .attest .., e => execAttest_wf _ _ _ _ hs e
  | .ownerKeySet .., e => execOwnerKeySet_wf _ _ _ _ hs e
  | .retrainChannel .., e => execRetrainChannel_wf _ _ _ _ _ hs e
  | .retrainSeam .., e => execRetrainSeam_wf _ _ _ _ _ hs e
  | .retrainLink .., e => execRetrainLink_wf _ _ _ _ _ _ hs e
  | .repairRetireDie .., e => execRepairRetireDie_wf _ _ _ _ hs e
  | .repairLaserBay .., e => execRepairLaserBay_wf _ _ _ _ hs e
  | .repairTestDie .., e => execRepairTestDie_wf _ _ _ _ hs e
  | .repairTestStack .., e => execRepairTestStack_wf _ _ _ _ hs e
  | .defectClear .., e => execDefectClear_wf _ _ _ _ hs e
  | .panelReset .., e => execPanelReset_wf _ _ _ _ hs e
  | .functionLevelReset, e => execFunctionLevelReset_wf _ _ hs e
  | .bar2Read .., e => execBar2Read_wf _ _ _ _ hs e
  | .bar2Write .., e => execBar2Write_wf _ _ _ _ hs e
  | .bar2ReadTimeout, e => execBar2ReadTimeout_wf _ _ hs e
  | .registerWrite .., e => execRegisterWrite_wf _ _ _ _ _ hs e
  | .rdybsyPulseRepeat, e => execRdybsyPulseRepeat_wf _ _ hs e
  | .feedStateChange .., e => execFeedStateChange_wf _ _ _ _ _ hs e
  | .feedInsert .., e => execFeedInsert_wf _ _ _ _ hs e
  | .powerFail, e => execPowerFail_wf _ _ hs e
  | .vpmTrip .., e => execVpmTrip_wf _ _ _ hs e
  | .regulatorPhaseFault .., e => execRegulatorPhaseFault_wf _ _ _ _ _ _ hs e
  | .droopDetect .., e => execDroopDetect_wf _ _ _ _ hs e
  | .powerManagerTick .., e => execPowerManagerTick_wf _ _ _ hs e
  | .wakeRequest .., e => execWakeRequest_wf _ _ _ hs e
  | .wakeGrant .., e => execWakeGrant_wf _ _ _ hs e
  | .wakeForced .., e => execWakeForced_wf _ _ _ hs e
  | .clockStepRamp .., e => execClockStepRamp_wf _ _ _ hs e
  | .idleRetainTimeout .., e => execIdleRetainTimeout_wf _ _ _ hs e
  | .shedAssert, e => execShedAssert_wf _ _ hs e
  | .shedLevelCheck .., e => execShedLevelCheck_wf _ _ _ _ hs e
  | .shedDeassert, e => execShedDeassert_wf _ _ hs e
  | .clockInputLoss .., e => execClockInputLoss_wf _ _ _ _ hs e
  | .clockHoldoverExpiry .., e => execClockHoldoverExpiry_wf _ _ _ hs e
  | .referenceOscillatorLoss, e => execReferenceOscillatorLoss_wf _ _ hs e
  | .thermalSample .., e => execThermalSample_wf _ _ _ _ hs e
  | .thermalTrip .., e => execThermalTrip_wf _ _ _ _ _ hs e
  | .coolantLoopTick .., e => execCoolantLoopTick_wf _ _ _ _ _ hs e
  | .coolingLossTimeout .., e => execCoolingLossTimeout_wf _ _ _ hs e
  | .auxSensorPoll .., e => execAuxSensorPoll_wf _ _ _ hs e
  | .powerGood .., e => execPowerGood_wf _ _ _ hs e
  | .bringup .., e => execBringup_wf _ _ _ hs e
  | .panelResetLAssert, e => execPanelResetLAssert_wf _ _ hs e
  | .dieRetirement .., e => execDieRetirement_wf _ _ _ _ _ hs e
  | .scheduledClusterTest .., e => execScheduledClusterTest_wf _ _ _ _ _ hs e
  | .ctHeartbeat .., e => execCtHeartbeat_wf _ _ _ hs e
  | .glerynWatchdogExpiry .., e => execGlerynWatchdogExpiry_wf _ _ _ hs e
  | .controlDieFailover .., e => execControlDieFailover_wf _ _ _ hs e
  | .firmwareSwapHandover .., e => execFirmwareSwapHandover_wf _ _ _ hs e
  | .recoveryOffer .., e => execRecoveryOffer_wf _ _ _ _ _ _ hs e
  | .recoveryOfferTimer .., e => execRecoveryOfferTimer_wf _ _ _ hs e
  | .eventRecord .., e => execEventRecord_wf _ _ _ _ _ _ _ _ _ _ hs e
  | .eventFlush .., e => execEventFlush_wf _ _ _ hs e
  | .operatingTimeStore, e => execOperatingTimeStore_wf _ _ hs e
  | .debugUnlock .., e => execDebugUnlock_wf _ _ _ hs e
  | .redfishRequest .., e => execRedfishRequest_wf _ _ _ _ hs e
  | .panelResetLRelease, e => execPanelResetLRelease_wf _ _ hs e
  | .pcieLinkChange .., e => execPcieLinkChange_wf _ _ _ hs e
  | .controlDieRebootDone .., e => execControlDieRebootDone_wf _ _ _ _ hs e
  | .rimSegmentFail .., e => execRimSegmentFail_wf _ _ _ hs e
  | .mgtHeartbeatTick, e => execMgtHeartbeatTick_wf _ _ hs e

/-- Settles O6: a step is the tick of an idle block, which leaves memory alone, or the front command, which keeps it canonical. -/
theorem stepKeepsMemoryCanonical : Obligations.StepKeepsMemoryCanonical := by
  unfold Obligations.StepKeepsMemoryCanonical
  intro s t hs hstep
  cases hp : s.pending with
  | nil =>
    rw [step_idle hp] at hstep
    cases hstep
    exact tick_memoryCanonical hs
  | cons c rest =>
    rw [step_command hp] at hstep
    exact exec_memoryCanonical (s := { s with pending := rest }) hs c hstep

/-- Settles O4: a step of an idle block is its tick, and the tick keeps all but the clock. -/
theorem idleStepIsOneCycle : Obligations.IdleStepIsOneCycle := by
  unfold Obligations.IdleStepIsOneCycle
  intro s hp
  obtain ⟨hmem, hpending, hnow, hhw⟩ := tick_steady s
  exact ⟨s.tick, step_idle hp, hnow, hmem, hpending.trans hp, hhw⟩

/-! ### Logical dies -/

section Dies

variable {s : State}

/-- Every site of a rod but the unassigned one is assigned (R23). -/
theorem siteDie_isSome (rod : Nat) {k : Nat} (hk : k < 13) : (s.siteDie (rod * 13 + k)).isSome = decide (k ≠ s.unassigned rod) := by
  have hrod : (rod * 13 + k) / 13 = rod := by omega
  have hpos : (rod * 13 + k) % 13 = k := by omega
  rw [siteDie_eq, hrod, hpos]
  by_cases h : k = s.unassigned rod <;> simp [h]

/-- The assigned sites of a rod among its first n: all of these, less the unassigned one where it is among them. -/
theorem assigned_count (rod : Nat) {n : Nat} (hn : n ≤ 13) :
    ((List.range n).filter fun k => (s.siteDie (rod * 13 + k)).isSome).length = if s.unassigned rod < n then n - 1 else n := by
  rw [← ranks (s.unassigned rod) n]
  refine congrArg List.length (List.filter_congr fun k hk => siteDie_isSome rod ?_)
  exact Nat.lt_of_lt_of_le (List.mem_range.mp hk) hn

/-- A site's die lies in the site's rod, one place west of its own where the unassigned site lies west of it (R26). -/
theorem siteDie_some {site x y : Nat} (h : s.siteDie site = some (x, y)) :
    y = site / 13 ∧ site % 13 ≠ s.unassigned y ∧ x = if site % 13 < s.unassigned y then site % 13 else site % 13 - 1 := by
  rw [siteDie_eq] at h
  split at h
  · cases h
  · cases h
    exact ⟨rfl, ‹_›, rfl⟩

/-- The site of a logical die has that die (R22, R26). -/
theorem siteDie_dieSite {x y : Nat} (hx : x < 12) : s.siteDie (s.dieSite x y) = some (x, y) := by
  rw [siteDie_eq]
  unfold State.dieSite
  by_cases h : x < s.unassigned y
  · have hrod : (y * 13 + x) / 13 = y := by omega
    have hpos : (y * 13 + x) % 13 = x := by omega
    rw [if_pos h, hrod, hpos, if_neg (Nat.ne_of_lt h), if_pos h]
  · have hrod : (y * 13 + (x + 1)) / 13 = y := by omega
    have hpos : (y * 13 + (x + 1)) % 13 = x + 1 := by omega
    rw [if_neg h, hrod, hpos, if_neg (by omega), if_neg (by omega), Nat.add_sub_cancel]

theorem dieSite_lt {x y : Nat} (hx : x < 12) (hy : y < 12) : s.dieSite x y < 156 := by
  unfold State.dieSite
  split <;> omega

end Dies

/-- Settles O45: a site's x counts the assigned sites west of it, and the site of logical die (x, y) has that die. -/
theorem logicalDiesAreRanks : Obligations.LogicalDiesAreRanks := by
  unfold Obligations.LogicalDiesAreRanks
  intro s hu
  refine ⟨fun site x y hsite hdie => ?_, fun i hi => ⟨s.dieSite (i % 12) (i / 12), dieSite_lt (by omega) (by omega), siteDie_dieSite (by omega)⟩⟩
  obtain ⟨hy, hassigned, hx⟩ := siteDie_some hdie
  have hrod := hu y (by omega)
  rw [assigned_count y (Nat.le_of_lt (Nat.mod_lt _ (by decide)))]
  refine ⟨hy, ?_, ?_⟩
  · rw [hx]
    split <;> split <;> omega
  · split at hx <;> omega

/-! ### Bulk movers -/

section Movers

variable {s : State} {c ch : Nat} {d : BitVec 512} {rest : List (BitVec 512)}

/-- The commands of a channel's operations, each with the code of the descriptors it takes (R190). -/
def moverOps (c ch : Nat) : List (Instr × Nat) :=
  [(.copy c ch, opCopy), (.fill c ch, opFill), (.crc32 c ch, opCrc), (.invalidate c ch, opInval), (.contribDescriptor c ch, opContrib)]

/-- Every operation starts the descriptor at the head of the queue in the same way. -/
theorem moverOps_start {e : Instr × Nat} (he : e ∈ moverOps c ch) : ∃ f, ∀ s, exec e.1 s = answer s (s.bmStart c ch e.2 f) := by
  unfold moverOps at he
  simp only [List.mem_cons, List.not_mem_nil, or_false] at he
  rcases he with rfl | rfl | rfl | rfl | rfl <;> exact ⟨_, fun _ => rfl⟩

/-- Channel ch of cluster c has taken a descriptor off its queue and is at work on r. -/
def atWork (s : State) (c ch : Nat) (rest : List (BitVec 512)) (r : BmRun) : State :=
  s.setClu c ((s.clu c).setChan ch { (s.clu c).chan ch with queue := rest, run := some r })

/-- Channel ch of cluster c is at rest with descriptor d at the head of its queue, and the cluster's tokens flow (R187, R188). -/
def restsAt (s : State) (c ch : Nat) (d : BitVec 512) (rest : List (BitVec 512)) : Prop :=
  ((s.clu c).chan ch).queue = d :: rest ∧ ((s.clu c).chan ch).run = none ∧ s.flows c = true

theorem bmStart_held (h : restsAt s c ch d rest) (hheld : s.bmHeld c d = true) (op : Nat) (f : BitVec 512 → State → State) : s.bmStart c ch op f = s := by
  obtain ⟨hqueue, -, -⟩ := h
  unfold State.bmStart
  dsimp only
  rw [hqueue]
  exact if_pos (by simp [hheld])

/-- A channel at rest takes the descriptor of its operation, which the check of R191 ends or lets do its work. -/
theorem bmStart_takes (h : restsAt s c ch d rest) (hheld : s.bmHeld c d = false) (f : BitVec 512 → State → State) :
    s.bmStart c ch (bmOp d) f = match bmCheck d with
      | some st => (atWork s c ch rest { desc := d, status := st, counted := true }).count (s.cluReg c 0x930) 1
      | none => (f d (atWork s c ch rest { desc := d })).bmPump c ch := by
  obtain ⟨hqueue, hrun, hflows⟩ := h
  unfold State.bmStart
  dsimp only
  rw [hqueue]
  exact if_neg (by simp [hrun, hflows, hheld])

theorem bmStart_ends {st : Nat} (h : restsAt s c ch d rest) (hheld : s.bmHeld c d = false) (hcheck : bmCheck d = some st) (f : BitVec 512 → State → State) :
    s.bmStart c ch (bmOp d) f = (atWork s c ch rest { desc := d, status := st, counted := true }).count (s.cluReg c 0x930) 1 := by
  rw [bmStart_takes h hheld, hcheck]

theorem bmStart_works (h : restsAt s c ch d rest) (hheld : s.bmHeld c d = false) (hcheck : bmCheck d = none) (f : BitVec 512 → State → State) :
    s.bmStart c ch (bmOp d) f = (f d (atWork s c ch rest { desc := d })).bmPump c ch := by
  rw [bmStart_takes h hheld, hcheck]

/-- A command whose whole effect is to start a descriptor of d's operation runs that operation on d. -/
theorem mover_works {i : Instr} {op : Nat} {f : BitVec 512 → State → State} {t : State}
    (hi : exec i s = answer s (s.bmStart c ch op f)) (h : restsAt s c ch d rest) (hheld : s.bmHeld c d = false)
    (hcheck : bmCheck d = none) (hop : bmOp d = op) (hf : f d (atWork s c ch rest { desc := d }) = t) : runs i s (t.bmPump c ch) := by
  subst hop hf
  exact hi.trans (congrArg (answer s) (bmStart_works h hheld hcheck f))

/-- COPY between local sides that do not overlap: run after run is loaded and stored (R190, R192). -/
theorem bmCopy_local (hdst : bmDstRemote d = false) (hsrc : bmSrcRemote d = false) (hover : bmOverlaps c d = false) :
    s.bmCopy c ch d = (bmRuns d).foldl (fun s x =>
      let r := s.bmLoadAll c ch (bmSpans c (bmSrcLocal d) x.1.toNat (bmLen d)) (bmCached d)
      r.1.bmStoreAll c ch (bmSpans c (bmDstLocal d) x.2.toNat (bmLen d)) r.2) s := by
  unfold State.bmCopy
  rw [hdst, hsrc, hover]
  rfl

end Movers

/-- Settles O31: each command starts the descriptor at the head of the queue, and the descriptor's fields choose the branch of its operation. -/
theorem moverOperations : Obligations.MoverOperations := by
  unfold Obligations.MoverOperations
  intro s c ch d rest hqueue hrun hflows
  have h : restsAt s c ch d rest := ⟨hqueue, hrun, hflows⟩
  refine ⟨fun hheld i hi => ?held, fun hheld => ⟨fun e he st hop hcheck => ?ended, fun hcheck => ⟨?copyOut, ?copy, ?fill, ?crc, ?invalidate, ?contrib⟩⟩⟩
  case held =>
    obtain ⟨e, he, rfl⟩ := List.mem_map.mp (show i ∈ (moverOps c ch).map Prod.fst from hi)
    obtain ⟨f, hf⟩ := moverOps_start he
    rw [hf, bmStart_held h hheld, answer_self]
  case ended =>
    obtain ⟨f, hf⟩ := moverOps_start he
    rw [hf, ← hop, bmStart_ends h hheld hcheck]
    exact count_keep _ _ _ _ rfl rfl rfl
  case copyOut => exact fun hop hdst => mover_works rfl h hheld hcheck hop (if_pos hdst)
  case copy => exact fun hop hdst hsrc hover => mover_works rfl h hheld hcheck hop (bmCopy_local hdst hsrc hover)
  case fill => exact fun hop hdst => mover_works rfl h hheld hcheck hop (if_neg (ne_true_of_eq_false hdst))
  case crc => exact fun hop hsrc => mover_works rfl h hheld hcheck hop (if_pos hsrc)
  case invalidate => exact fun hop hsrc => mover_works rfl h hheld hcheck hop (if_neg (ne_true_of_eq_false hsrc))
  case contrib => exact fun hop => mover_works rfl h hheld hcheck hop rfl

/-! ### Dies retired and clusters tested -/

section Sparing

variable {s : State} {site cause quad : Nat}

/-- The die at a site waits for its retirement no more. -/
def undue (s : State) (site : Nat) : State :=
  { s with sparing := { s.sparing with retireDue := s.sparing.retireDue.filter fun e => decide (e.1 ≠ site) } }

/-- The map once the die at a site is gone: a good spare in its place, or a hole, with a spare that failed listed first (R27, R28, R399). -/
def replaced (s : State) (site cause : Nat) (spareOk : Bool) : State :=
  let spare := site / 13 * 13 + s.unassigned (site / 13)
  if s.hasSpare (site / 13) then
    if spareOk then (undue s site).useSpare site cause
    else (((undue s site).addDefect 1 1 kDie spare 0 0).showDie spare false).makeHole site
  else (undue s site).makeHole site

/-- That map with the stacks without a seam lost and the die listed under its cause (R233, R398). -/
def listedGone (s : State) (site cause : Nat) (spareOk : Bool) : State :=
  (replaced s site cause spareOk).loseSeamless.addDefect 1 cause kDie site 0 0

/-- The command that asked for a retirement ends, or waits for the partitions ps (R398). -/
def commandEnds (s : State) (ps : List Nat) : Option Nat → State
  | none => s
  | some id => if ps = [] then s.finish id stOk 0 0 else { s with sparing := { s.sparing with retireCmds := s.sparing.retireCmds ++ [(id, ps)] } }

theorem commandEnds_finished (s : State) (id : Nat) : commandEnds s [] (some id) = s.finish id stOk 0 0 := by
  unfold commandEnds
  exact if_pos rfl

theorem commandEnds_waiting {ps : List Nat} (h : ps ≠ []) (s : State) (id : Nat) :
    commandEnds s ps (some id) = { s with sparing := { s.sparing with retireCmds := s.sparing.retireCmds ++ [(id, ps)] } } := by
  unfold commandEnds
  exact if_neg h

/-- The meaning asks for the spare before the change of the map and at it; both answers together choose one of three states. -/
theorem spare_chosen {σ : Type} (had ok : Bool) (u bad : σ) (use hole : σ → σ) :
    (if had && ok then use (if had && !ok then bad else u) else hole (if had && !ok then bad else u))
      = if had then (if ok then use u else hole bad) else hole u := by
  cases had <;> cases ok <;> rfl

/-- A die whose partitions are frozen, to which nothing is on its way and whose spare may be woken, is retired (R258, R379, R398). -/
theorem dieRetirement_retires {cmd : Option Nat} (spareOk : Bool)
    (hdue : s.sparing.retireDue.find? (fun e => decide (e.1 = site)) = some (site, cause, cmd))
    (hfrozen : ∀ p ∈ s.retireParts site, ∀ q, s.part p = some q → q.freeze ≠ .no) (hcoming : s.comingTo site cause = false)
    (hwake : s.hasSpare (site / 13) = true → s.shedding = false) :
    runs (.dieRetirement site cause spareOk) s
      ((s.retireParts site).foldl (fun s p => s.releaseFrozen p)
        (commandEnds (listedGone s site cause spareOk) (s.retireParts site) cmd).serveHeld) := by
  show execDieRetirement site cause spareOk s = _
  unfold execDieRetirement
  rw [hdue]
  dsimp -zeta only
  extract_lets ps ready rod spare had _ u tried listed gone _ final
  have hready : ready = true := List.all_eq_true.mpr fun p hp => by
    cases hq : s.part p with
    | none => rfl
    | some q => exact decide_eq_true (hfrozen p hp q hq)
  have hgoes : ¬ (cause ≠ cause ∨ (!ready) = true ∨ s.comingTo site cause = true ∨ s.hasSpare (site / 13) = true ∧ s.shedding = true) := by
    rw [hready, hcoming]
    simpa using hwake
  have hgone : gone = listedGone s site cause spareOk :=
    congrArg (fun w : State => w.loseSeamless.addDefect 1 cause kDie site 0 0)
      (spare_chosen had spareOk u ((u.addDefect 1 1 kDie spare 0 0).showDie spare false) (fun w => w.useSpare site cause) fun w => w.makeHole site)
  have hfinal : final = commandEnds gone ps cmd := by cases cmd <;> rfl
  rw [if_neg hgoes, hfinal, hgone]
  rfl

/-- The partition of a block's cluster is frozen or in reset, or there is none (R388). -/
def blockIdle (s : State) (b : Nat) : Prop :=
  ∀ c p q, s.blkCluster b = some c → s.partOf c = some p → s.part p = some q → q.freeze ≠ .no ∨ q.reset.isSome = true

/-- The test of block b is due no more. -/
def untest (s : State) (b : Nat) : State := { s with sparing := { s.sparing with testDue := s.sparing.testDue.filter (· ≠ b) } }

/-- The cluster at block b is reset (R404). -/
def clusterReset (s : State) (b : Nat) : State :=
  match s.blkCluster b with
  | none => s
  | some c => s.resetCluster c

/-- Block b after its test found r, as the reset of its cluster left it (R389, R391, R394). -/
def testedBlock (s : State) (b : Nat) (r : TestResult) : State :=
  ((clusterReset (untest s b) b).noteTests (blockFinds b r)).testBlock b r 2

/-- The cluster of block b takes the core map of its good cores. -/
def remapped (s : State) (b : Nat) : State :=
  match s.blkCluster b with
  | none => s
  | some c => s.setClu c { s.clu c with coreMap := s.coreMapOf b }

/-- A block that is no longer usable has its die retired, or listed where it is not in the map (R388, R400). -/
def blockJudged (s : State) (site b : Nat) : State :=
  if s.unusable b then (if (s.siteDie site).isNone then s.addDefect 2 1 kDie site 0 0 else s.retireDie site 1 none false) else s

section Block

variable {b c : Nat}

theorem testedBlock_clustered (r : TestResult) (h : s.blkCluster b = some c) :
    testedBlock s b r = (((untest s b).resetCluster c).noteTests (blockFinds b r)).testBlock b r 2 := by
  have hc : (untest s b).blkCluster b = some c := h
  unfold testedBlock clusterReset
  rw [hc]

theorem testedBlock_bare (r : TestResult) (h : s.blkCluster b = none) :
    testedBlock s b r = ((untest s b).noteTests (blockFinds b r)).testBlock b r 2 := by
  have hc : (untest s b).blkCluster b = none := h
  unfold testedBlock clusterReset
  rw [hc]

theorem remapped_clustered (h : s.blkCluster b = some c) : remapped s b = s.setClu c { s.clu c with coreMap := s.coreMapOf b } := by
  unfold remapped
  rw [h]

theorem remapped_bare (h : s.blkCluster b = none) : remapped s b = s := by
  unfold remapped
  rw [h]

end Block

theorem blockJudged_eq (s : State) (site b : Nat) :
    (if !s.unusable b then s else if (s.siteDie site).isNone then s.addDefect 2 1 kDie site 0 0 else s.retireDie site 1 none false) = blockJudged s site b := by
  unfold blockJudged
  cases s.unusable b <;> rfl

theorem scheduledClusterTest_tests (r : TestResult) (hsite : site < 156) (hquad : quad < 4)
    (hdue : s.sparing.testDue.contains (site * 4 + quad) = true) (hfree : blockIdle s (site * 4 + quad)) :
    runs (.scheduledClusterTest site quad r) s (blockJudged (remapped (testedBlock s (site * 4 + quad) r) (site * 4 + quad)) site (site * 4 + quad)) := by
  show execScheduledClusterTest site quad r s = _
  unfold execScheduledClusterTest
  extract_lets b idle _ u reset tested mapped
  have hidle : idle = true := by
    unfold idle
    cases hc : s.blkCluster b with
    | none => rfl
    | some c =>
      rw [Option.bind_some]
      cases hp : s.partOf c with
      | none => rfl
      | some p =>
        dsimp only
        cases hq : s.part p with
        | none => rfl
        | some q => simpa using hfree c p q hc hp hq
  have hgoes : ¬ (156 ≤ site ∨ 4 ≤ quad ∨ (!s.sparing.testDue.contains b) = true ∨ (!idle) = true) := by
    rw [hidle, hdue]
    simpa using ⟨hsite, hquad⟩
  have hmapped : mapped = remapped (testedBlock s b r) b := rfl
  rw [if_neg hgoes, hmapped]
  exact congrArg (answer s) (blockJudged_eq ..)

theorem rimSegmentFail_lists {segment : Nat} (hs : segment < 8) (hg : s.sparing.rimGaps.contains segment = false) :
    exec (.rimSegmentFail segment) s = .next { s with sparing := { s.sparing with rimGaps := s.sparing.rimGaps ++ [segment] } } :=
  answer_onlyIf _ (by rw [hg, decide_eq_true hs]; rfl)

end Sparing

/-! ### Power, reset and bring-up -/

section Bringup

variable {s : State}

/-- Flash keeps an operating time; after an unclean end it counts a minute more (R431). -/
def timeAtStart (t : Trust) : Nat := t.opStored + if t.opClean then 0 else 60000

/-- The security state of a power cycle (R421, R425, R428, R431). -/
def trustStarted (t : Trust) (slot : BitVec 6) : Trust :=
  { t.resumed with pcycle := t.pcycle + 1, opTime := timeAtStart t, opStored := timeAtStart t, opClean := false, debug := false, keysBlocked := false, slotId := slot }

/-- A power cycle of the panel begins (R381, R431). -/
def cycled (s : State) (slot : BitVec 6) : State :=
  { s with trust := trustStarted s.trust slot, sparing := { s.sparing with failing := false } }

/-- The control dies have power, and the panel's role stands in `STATE` (R381). -/
def controlPowered (s : State) (role : Nat) : State := ((s.setVpm 186 true false).setVpm 187 true false).setMgtField 8 5 2 role

theorem powerGood_starts (slot : BitVec 6) (hup : s.power.feedA = .operating ∨ s.power.feedB = .operating) (hoff : s.powered = false) :
    runs (.powerGood slot) s (controlPowered (cycled s slot) s.trust.role.toNat).renewNonce := by
  show execPowerGood slot s = _
  unfold execPowerGood
  extract_lets up t time _ t' _ started powered
  have hup' : up = true := by simpa [up] using hup
  have hgoes : ¬ ((!up) = true ∨ s.powered = true) := by simp [hup', hoff]
  rw [if_neg hgoes]
  rfl

theorem powered_setMgtField (s : State) (o lo w v : Nat) : (s.setMgtField o lo w v).powered = s.powered := by
  unfold State.powered State.field State.reg
  rw [setMgtField_regs]

theorem controlPowered_powered (s : State) (role : Nat) : (controlPowered s role).powered = true := by
  unfold controlPowered
  rw [powered_setMgtField, vpm_on]

theorem controlPowered_keeps (s : State) (role : Nat) :
    (controlPowered s role).trust = s.trust ∧ (controlPowered s role).sparing = s.sparing ∧ (controlPowered s role).mem = s.mem := by
  obtain ⟨ma, ta, sa⟩ := setVpm_keeps s 186 true false
  obtain ⟨mb, tb, sb⟩ := setVpm_keeps (s.setVpm 186 true false) 187 true false
  unfold controlPowered
  rw [setMgtField_trust, setMgtField_sparing, setMgtField_mem]
  exact ⟨tb.trans ta, sb.trans sa, mb.trans ma⟩

/-- PANEL_RESET_L resets the panel and holds it (R386, R445). -/
theorem panelResetLAssert_holds (h : s.sparing.held = false) :
    runs .panelResetLAssert s { s.panelReset with sparing := { s.panelReset.sparing with held := true } } :=
  answer_onlyIf _ (by rw [h]; rfl)

theorem panelResetLRelease_frees (h : s.sparing.held = true) :
    exec .panelResetLRelease s = .next { s with sparing := { s.sparing with held := false } } :=
  answer_onlyIf _ h

/-- Control die d boots from its image: that verifies, and the die is neither listed nor of another major stepping (R382, R401). -/
def boots (s : State) (image : Bool) (d : Nat) : Bool :=
  image && !(s.sparing.named kDie (dieOfControl d) 0 0 || decide (s.stepping (dieOfControl d) / 16 ≠ s.hw.major))

/-- The control die that bring-up starts as the active one (R382, R383). -/
def activeDie (s : State) (f : BringupFound) : Option Nat := s.trust.chooseActive f (boots s f.imageOk.1 0) (boots s f.imageOk.2 1)

/-- Die d is started, with the other standing by where it boots and was not late, and everything is tested (R383 to R396). -/
def startedOn (s : State) (f : BringupFound) (d : Nat) : State :=
  (s.startGleryn d ((if d = 0 then boots s f.imageOk.2 1 else boots s f.imageOk.1 0) && !(f.namedLate && decide (d ≠ s.trust.lastActive.getD 0))) f).testAll f

/-- How bring-up ends once everything is tested: in debug mode where an unlock is pending (R428), else with its last step (R385). -/
def testsDone (s : State) (f : BringupFound) : State :=
  match s.trust.unlockArg with
  | some arg => s.enterDebug arg
  | none => s.endBringup f

/-- What bring-up does: it starts a die, or waits for an offer where none boots (R381, R418). -/
def broughtUp (s : State) (f : BringupFound) : State :=
  match activeDie s f with
  | none => s.enterRecovery f
  | some d => testsDone (startedOn s f d) f

theorem broughtUp_offerless {f : BringupFound} (h : activeDie s f = none) : broughtUp s f = s.enterRecovery f := by
  unfold broughtUp
  rw [h]

theorem broughtUp_started {f : BringupFound} {d : Nat} (h : activeDie s f = some d) : broughtUp s f = testsDone (startedOn s f d) f := by
  unfold broughtUp
  rw [h]

theorem testsDone_debug {arg : Word} (f : BringupFound) (h : s.trust.unlockArg = some arg) : testsDone s f = s.enterDebug arg := by
  unfold testsDone
  rw [h]

theorem testsDone_serving (f : BringupFound) (h : s.trust.unlockArg = none) : testsDone s f = s.endBringup f := by
  unfold testsDone
  rw [h]

theorem bringup_goes (f : BringupFound) (hstate : s.mgtField 8 0 3 = 0) (hheld : s.sparing.held = false) (hfail : s.sparing.failing = false)
    (hpower : s.powered = true) (hrec : s.trust.recovery = false) : runs (.bringup f) s (broughtUp s f) := by
  have hgoes : ¬ (s.mgtField 8 0 3 ≠ 0 ∨ s.sparing.held = true ∨ s.sparing.failing = true ∨ (!s.powered) = true ∨ s.trust.recovery = true) := by
    rw [hheld, hfail, hpower, hrec]
    simpa using hstate
  exact congrArg (answer s) (if_neg hgoes)

end Bringup

/-- Settles O57: each event runs where its conditions hold, and its effect decides on the branch that the statement names. -/
theorem sparingAndBringup : Obligations.SparingAndBringup := by
  unfold Obligations.SparingAndBringup
  refine ⟨fun s site cause quad segment spareOk cmd r => ⟨fun hdue hfrozen hcoming hwake => ?retired, fun hsite hquad hdue hidle => ?tested, fun hs hg => ?rim⟩,
    fun s slot f => ⟨fun hup hoff => ?power, fun hheld => ?held, fun hheld => ?released, fun hstate hheld hfail hpower hrec => ?bringup⟩⟩
  case retired =>
    intro ps rod spare u bad v
    have h : runs (.dieRetirement site cause spareOk) s (ps.foldl (fun s p => s.releaseFrozen p) (commandEnds v ps cmd).serveHeld) :=
      dieRetirement_retires spareOk hdue hfrozen hcoming hwake
    refine ⟨fun hcmd => ?unasked, fun id hcmd hps => ?ended, fun id hcmd hps => ?waiting⟩
    case unasked =>
      subst hcmd
      exact h
    case ended =>
      subst hcmd
      rw [hps, commandEnds_finished, List.foldl_nil] at h
      exact h
    case waiting =>
      subst hcmd
      rw [commandEnds_waiting hps] at h
      exact h
  case tested =>
    have h := scheduledClusterTest_tests r hsite hquad hdue hidle
    refine ⟨fun c w k hc hw hk => ?clustered, fun w hc hw hk => ?bare⟩
    case clustered =>
      rw [(testedBlock_clustered r hc).trans hw.symm, remapped_clustered hk] at h
      exact h
    case bare =>
      rw [(testedBlock_bare r hc).trans hw.symm, remapped_bare hk] at h
      exact h
  case rim => exact ⟨_, rimSegmentFail_lists hs hg, rfl, rfl, rfl, rfl⟩
  case power =>
    have h := powerGood_starts slot hup hoff
    have hpowered := controlPowered_powered (cycled s slot) s.trust.role.toNat
    obtain ⟨htrust, hsparing, hmem⟩ := controlPowered_keeps (cycled s slot) s.trust.role.toNat
    generalize controlPowered (cycled s slot) s.trust.role.toNat = u at *
    exact ⟨_, h, hpowered, congrArg Trust.pcycle htrust, congrArg Trust.slotId htrust, congrArg Trust.debug htrust, congrArg Trust.opTime htrust,
      congrArg Trust.opClean htrust, congrArg Sparing.failing hsparing, hmem⟩
  case held =>
    obtain ⟨hmem, hparts, hregions, hcores, -, -, howner, hlist⟩ := panelReset_fields s
    exact ⟨_, panelResetLAssert_holds hheld, rfl, hmem, hcores, hparts, hregions, hlist, howner⟩
  case released => exact ⟨_, panelResetLRelease_frees hheld, rfl, rfl, rfl, rfl⟩
  case bringup =>
    have h := bringup_goes f hstate hheld hfail hpower hrec
    refine ⟨fun hnone => ?offerless, fun d hd => ⟨fun arg harg => ?debug, fun hnone => ?serving⟩⟩
    case offerless => exact broughtUp_offerless (s := s) hnone ▸ h
    case debug => exact testsDone_debug f harg ▸ broughtUp_started (s := s) hd ▸ h
    case serving => exact testsDone_serving f hnone ▸ broughtUp_started (s := s) hd ▸ h

end Sys2Proof.Proofs
end

section
/-! Proofs of the statements on the cores and their engines: the queue extension (R45 to R50, R120, R127), the scalar core (R41 to R44), the
matrix and vector engines (R56 to R74, R97 to R99, R121), core faults and stand-ins (R78 to R83, R180), and fold schedules, petal switches
and queue samples (R145, R146, R158). -/

namespace Sys2Proof.Proofs

open Sys2Proof Sys2Proof.Machine Sys2Proof.Safety Sys2Proof.Laws

/-! ### Every command answers -/

/-- Every command answers by its effect, with the queue, the clock and the fixed facts put back. -/
theorem exec_answers (c : Instr) (s : State) : ∃ t, exec c s = answer s t := by
  cases c <;> exact ⟨_, rfl⟩

/-- Settles O5: an answer takes the queue, the clock and the fixed facts from the state before. -/
theorem everyCommandCompletes : Obligations.EveryCommandCompletes := by
  unfold Obligations.EveryCommandCompletes
  intro c s
  obtain ⟨t, ht⟩ := exec_answers c s
  exact ⟨t.keeping s, ht, keeping_pending t s, keeping_now t s, keeping_hw t s⟩

/-! ### Instructions of the queue extension -/

section Settle

variable {s : State} {h rd : Nat}

theorem settleOp_setXreg (op : WaitOp) (v : Word) : s.settleOp h op (.done (s.setXreg h rd v)) = s.setCore h (wrote (s.core h) rd v) := by
  unfold State.setXreg
  rw [settle_done, wrote_eq]

theorem runDone_setXreg (v : Word) (hr : s.ready h = true) : s.runDone h (.done (s.setXreg h rd v)) = s.setCore h (wrote (s.core h) rd v) :=
  retire_setXreg v (wait_none s h hr)

theorem settleOp_done (t : State) (op : WaitOp) : s.settleOp h op (.done t) = t.setCore h (retired (t.core h)) := settle_done0 t h op

theorem settleOp_wait (op : WaitOp) (k : Nat) : s.settleOp h op (.wait k) = s.setCore h (waiting (s.core h) op k) := rfl

/-- An instruction whose effect is one core's has that core's answer. -/
theorem answer_of_setCore {t : State} {c : Core} (ht : t = s.setCore h c) : answer s t = .next (s.setCore h c) := by
  rw [ht, answer_setCore]

end Settle

section QueueReads

variable {s : State} {h rd q : Nat} {t : Token}

theorem opTag_head (hheld : (s.core h).heldIn q = false) (ht : ((s.core h).inQ q).head = some t) :
    opTag s h rd q = .done (s.setXreg h rd (t.tag.setWidth 32)) := by
  simp [opTag, hheld, ht]

theorem opRdw_head (w : Nat) (hheld : (s.core h).heldIn q = false) (ht : ((s.core h).inQ q).head = some t) :
    opRdw s h rd q w = .done (s.setXreg h rd (wordOf t.payload w)) := by
  simp [opRdw, hheld, ht, wordOf]

theorem opPop_head (hheld : (s.core h).heldIn q = false) (ht : ((s.core h).inQ q).head = some t) : opPop s h q = .done (s.popHead h q) := by
  simp [opPop, hheld, ht]

theorem opTag_empty (hheld : (s.core h).heldIn q = false) (ht : ((s.core h).inQ q).head = none) : opTag s h rd q = .wait 0 := by
  simp [opTag, hheld, ht]

theorem opRdw_empty (w : Nat) (hheld : (s.core h).heldIn q = false) (ht : ((s.core h).inQ q).head = none) : opRdw s h rd q w = .wait 0 := by
  simp [opRdw, hheld, ht]

theorem opPop_empty (hheld : (s.core h).heldIn q = false) (ht : ((s.core h).inQ q).head = none) : opPop s h q = .wait 0 := by
  simp [opPop, hheld, ht]

theorem opFwd_empty {qo : Nat} (hb : s.bound h qo = true) (hheld : (s.core h).heldIn q = false) (ht : ((s.core h).inQ q).head = none) :
    opFwd s h q qo = .wait 0 := by
  simp [opFwd, hb, hheld, ht]

/-- Q.FWD with a head token, a bound output queue and credit pops the token and enqueues it (R45). -/
theorem opFwd_head {qo : Nat} (hb : s.bound h qo = true) (hheld : (s.core h).heldIn q = false) (ht : ((s.core h).inQ q).head = some t)
    (hout : (s.core h).heldOut qo = false) (hc : s.hasCredit h qo = true) : opFwd s h q qo = .done ((s.popHead h q).enqueue h qo t) := by
  simp [opFwd, hb, hheld, ht, hout, hc]

theorem opPush_unbound {rs1 qo : Nat} (hb : s.bound h qo = false) : opPush s h rs1 qo = .halt causeAccess := by
  simp [opPush, hb]

/-- A queue without a virtual marker has its oldest token at its head (R124, R127). -/
theorem head_oldest {iq : InQueue} {rest : List Token} (hv : iq.virt = none) (ht : iq.tokens = t :: rest) : iq.head = some t := by
  simp [InQueue.head, hv, ht]

end QueueReads

/-- Settles O7: each instruction is done at once, and its whole effect is to write rd. -/
theorem queueReadsWriteOneRegister : Obligations.QueueReadsWriteOneRegister := by
  unfold Obligations.QueueReadsWriteOneRegister
  intro s h rd q hr
  refine ⟨fun t hheld ht => ⟨?tag, fun w => ?rdw⟩, fun t rest hv ht => ?statIn, fun ht => ?statOut, fun n => ?count, ?engines⟩
  case tag =>
    refine (answer_onlyIf _ hr).trans (answer_of_setCore ?_)
    rw [State.runWait, opTag_head hheld ht, settleOp_setXreg]
  case rdw =>
    refine (answer_onlyIf _ hr).trans (answer_of_setCore ?_)
    rw [State.runWait, opRdw_head w hheld ht, settleOp_setXreg]
  case statIn =>
    refine (answer_onlyIf _ hr).trans (answer_of_setCore ?_)
    rw [← runDone_setXreg _ hr, opStat, head_oldest hv ht, ht]
    rfl
  case statOut =>
    refine (answer_onlyIf _ hr).trans (answer_of_setCore ?_)
    rw [← runDone_setXreg _ hr, opStat, ht]
    rfl
  case count => exact (answer_onlyIf _ hr).trans (answer_of_setCore (runDone_setXreg _ hr))
  case engines => exact (answer_onlyIf _ hr).trans (answer_of_setCore (runDone_setXreg _ hr))

/-- Settles O8: with no head token each instruction waits under IN, and with one the waiting Q.TAG is carried out. -/
theorem waitsAtQueues : Obligations.WaitsAtQueues := by
  unfold Obligations.WaitsAtQueues
  refine ⟨fun s h rd q hr hheld ht => ⟨?tag, fun w => ?rdw, ?pop, fun qo hb => ?fwd⟩, fun s h rd q t hrun hw hheld ht => ?released⟩
  case tag =>
    refine (answer_onlyIf _ hr).trans (answer_of_setCore ?_)
    rw [State.runWait, opTag_empty hheld ht, settleOp_wait]
  case rdw =>
    refine (answer_onlyIf _ hr).trans (answer_of_setCore ?_)
    rw [State.runWait, opRdw_empty w hheld ht, settleOp_wait]
  case pop =>
    refine (answer_onlyIf _ hr).trans (answer_of_setCore ?_)
    rw [State.runWait, opPop_empty hheld ht, settleOp_wait]
  case fwd =>
    refine (answer_onlyIf _ hr).trans (answer_of_setCore ?_)
    rw [State.runWait, opFwd_empty hb hheld ht, settleOp_wait]
  case released =>
    refine answer_of_setCore ?_
    rw [hw]
    show onlyIf (s.mayRun h) s (s.runWait h (.tag rd q)) = _
    rw [hrun, onlyIf_true, State.runWait, opTag_head hheld ht, settleOp_setXreg]

/-! ### Words of the staging area -/

/-- A word of 512 bits is that many bits of its number. -/
theorem wordOf_toNat (v : BitVec 512) (w : Nat) : (wordOf v w).toNat = bits v.toNat (32 * w) 32 := by
  unfold wordOf bits
  rw [BitVec.toNat_setWidth, BitVec.toNat_ushiftRight, Nat.shiftRight_eq_div_pow]

/-- A field of a bit vector replaced within its width reads back as the number with that field replaced. -/
theorem toNat_ofNat_setBits {m : Nat} (v : BitVec m) {lo w : Nat} (x : Nat) (h : lo + w ≤ m) :
    (BitVec.ofNat m (setBits v.toNat lo w x)).toNat = setBits v.toNat lo w x := by
  rw [BitVec.toNat_ofNat, Nat.mod_eq_of_lt (setBits_lt _ _ _ _ _ v.isLt h)]

/-- Q.WRW's write of word w: that word reads it, and the others read what they did (R45). -/
theorem wordOf_setWord512 (v : BitVec 512) (x : Word) {w i : Nat} (hw : w < 16) : wordOf (setWord512 v w x) i = if i = w then x else wordOf v i := by
  apply BitVec.eq_of_toNat_eq
  rw [wordOf_toNat, setWord512, toNat_ofNat_setBits v x.toNat (by omega)]
  rcases Nat.lt_trichotomy i w with hlow | rfl | hhigh
  · rw [if_neg (Nat.ne_of_lt hlow), wordOf_toNat, bits_setBits_below _ _ _ _ _ _ (by omega)]
  · rw [if_pos rfl, bits_setBits_same, Nat.mod_eq_of_lt x.isLt]
  · rw [if_neg (Nat.ne_of_gt hhigh), wordOf_toNat, bits_setBits_above _ _ _ _ _ _ (by omega)]

section QueueWrites

variable {s : State} {h e rs1 rs2 : Nat}

/-- The copy that E.ISSUE makes of the descriptor that rs1 names (R50). -/
def issued (s : State) (h rs1 rs2 : Nat) : EngDesc :=
  { d := (s.core h).pet.descAt (((s.core h).xreg rs1).toNat % 16), off := (s.core h).xreg rs2 }

theorem opIssue_full (hn : 2 ≤ ((s.core h).engine e).queue.length) : opIssue s h e rs1 rs2 = .wait 2 := if_pos hn

theorem opIssue_ok (hn : ((s.core h).engine e).queue.length < 2) (hok : (issued s h rs1 rs2).ok s h e = true) :
    opIssue s h e rs1 rs2 = .done (s.setCore h ((s.core h).setEngine e
      { (s.core h).engine e with queue := ((s.core h).engine e).queue ++ [issued s h rs1 rs2] })) :=
  (if_neg (Nat.not_le.mpr hn)).trans (if_pos hok)

theorem opIssue_bad (hn : ((s.core h).engine e).queue.length < 2) (hok : (issued s h rs1 rs2).ok s h e = false) :
    opIssue s h e rs1 rs2 = .badDesc e :=
  (if_neg (Nat.not_le.mpr hn)).trans (if_neg (ne_true_of_eq_false hok))

/-- E.ISSUE of a descriptor that passes its checks: it stands last on its engine's queue (R45, R50, R58). -/
theorem eIssue_ok (hr : s.ready h = true) (hn : ((s.core h).engine e).queue.length < 2) (hok : (issued s h rs1 rs2).ok s h e = true) :
    exec (.eIssue h e rs1 rs2) s = .next (s.setCore h (retired ((s.core h).setEngine e
      { (s.core h).engine e with queue := ((s.core h).engine e).queue ++ [issued s h rs1 rs2] }))) := by
  refine (answer_onlyIf _ hr).trans (answer_of_setCore ?_)
  rw [State.runWait, opIssue_ok hn hok, settle_done]

end QueueWrites

/-- Settles O9: each instruction is done at once, or waits, or halts, as its room and its checks decide. -/
theorem queueWrites : Obligations.QueueWrites := by
  unfold Obligations.QueueWrites
  intro s h hr
  have hw := wait_none s h hr
  refine ⟨fun rs1 qo w hlt => ⟨setWord512 ((s.core h).outQ qo).stage w ((s.core h).xreg rs1), ?staged, fun i _ => wordOf_setWord512 _ _ hlt⟩, fun qi n rs1 => ?limit,
    fun e rs1 rs2 hn => ⟨fun hok => eIssue_ok hr hn hok, fun hok => ?faulted⟩, fun e rs1 rs2 hn => ?full, fun m hm => ?idle, fun rd => ?drawn, ?yielded⟩
  case staged => exact (answer_onlyIf _ hr).trans (answer_of_setCore (done_eq _ _ _ hw))
  case limit => exact (answer_onlyIf _ hr).trans (answer_of_setCore (done_eq _ _ _ hw))
  case faulted =>
    refine ⟨_, answer_onlyIf _ hr, ?_⟩
    rw [keeping_at_core, State.runWait, opIssue_bad hn hok, State.settleOp, halt_core, if_pos rfl]
  case full =>
    refine (answer_onlyIf _ hr).trans (answer_of_setCore ?_)
    rw [State.runWait, opIssue_full hn, settleOp_wait]
  case idle =>
    refine (answer_onlyIf _ hr).trans (answer_of_setCore ?_)
    rw [State.runWait, opWait, hm, if_neg (not_not_intro rfl), settle_done0]
  case drawn =>
    exact (answer_onlyIf _ hr).trans (answer_of_setCore (done_eq _ _ _ ((setX_wait ..).trans hw)))
  case yielded => exact answer_onlyIf _ hr

/-! ### Tokens pushed, popped and forwarded -/

section Tokens

variable {s : State} {h qi qo : Nat} {t : Token} {rest : List Token}

/-- t is s but for the send buffers of clusters and the partitions: all that a pop's credit moves (R133, R281). -/
def OnlyCredit (s t : State) : Prop := t = { s with clusters := t.clusters, parts := t.parts }

theorem OnlyCredit.self (s : State) : OnlyCredit s s := rfl

theorem OnlyCredit.trans {s t u : State} (a : OnlyCredit s t) (b : OnlyCredit t u) : OnlyCredit s u := by
  unfold OnlyCredit at *; rw [a] at b; exact b

theorem modPart_onlyCredit (s : State) (p : Nat) (f : Part → Part) : OnlyCredit s (s.modPart p f) := by
  unfold OnlyCredit; rw [modPart_other]

theorem setClu_onlyCredit (s : State) (c : Nat) (v : Cluster) : OnlyCredit s (s.setClu c v) := rfl

theorem creditOut_onlyCredit (s : State) (p h qi : Nat) : OnlyCredit s (s.creditOut p h qi) := by
  unfold State.creditOut
  dsimp only
  split
  · exact .self s
  · split
    · exact .self s
    · exact (setClu_onlyCredit ..).trans (modPart_onlyCredit ..)

theorem OnlyCredit.core {s t : State} (a : OnlyCredit s t) (k : Nat) : t.core k = s.core k := by rw [a]; rfl
theorem OnlyCredit.mem {s t : State} (a : OnlyCredit s t) : t.mem = s.mem := by rw [a]
theorem OnlyCredit.regs {s t : State} (a : OnlyCredit s t) : t.regs = s.regs := by rw [a]

/-- Core c with the tokens behind the head of its input queue qi. -/
def popped (c : Core) (qi : Nat) (rest : List Token) : Core := (c.setPet c.pet).setInQ qi { c.inQ qi with tokens := rest, virt := none }

/-- Popping a control token that is no end marker takes it away and touches no loop counter; the pop is noted for its record (R45, R127). -/
theorem popHead_control (hv : ((s.core h).inQ qi).virt = none) (ht : ((s.core h).inQ qi).tokens = t :: rest) (hd : t.kind ≠ kData)
    (hm : t.isMarker = false) : OnlyCredit ((s.stir (h / 32)).setCore h (popped (s.core h) qi rest)) (s.popHead h qi) := by
  have hcount : ∀ (u : State) (a : Nat), u.count a 0 = u := fun _ _ => if_pos rfl
  unfold State.popHead
  simp only [hv, ht, hd, hm, hcount, if_false, Bool.false_and, Bool.false_eq_true, Option.map_none]
  split
  · exact .self _
  · exact (modPart_onlyCredit ..).trans (creditOut_onlyCredit ..)

theorem popHead_control_core (hv : ((s.core h).inQ qi).virt = none) (ht : ((s.core h).inQ qi).tokens = t :: rest) (hd : t.kind ≠ kData)
    (hm : t.isMarker = false) (k : Nat) : (s.popHead h qi).core k = if h = k then popped (s.core h) qi rest else s.core k := by
  rw [(popHead_control hv ht hd hm).core, core_setCore, stir_at_core]

/-- A popped core past the instruction: nothing but its pc, its count and its input queue has moved. -/
theorem retired_popped (hv : ((s.core h).inQ qi).virt = none) :
    retired (popped (s.core h) qi rest) = retired ((s.core h).setInQ qi { (s.core h).inQ qi with tokens := rest }) := by
  unfold popped
  rw [← hv]
  show retired (((s.core h).setInQ qi _).setPet (s.core h).pet) = _
  unfold retired advanced
  rw [setPet_setPet, pet_setPet]
  rfl

theorem enqueue_core (k : Nat) : (s.enqueue h qo t).core k = if h = k then
    (s.core h).setOutQ qo { (s.core h).outQ qo with
      tokens := ((s.core h).outQ qo).tokens ++ [t], out := ((s.core h).outQ qo).out + 1, total := ((s.core h).outQ qo).total + 1 }
    else s.core k := by
  unfold State.enqueue
  rw [core_setCore, stir_at_core]

theorem enqueue_mem (s : State) (h qo : Nat) (t : Token) : (s.enqueue h qo t).mem = s.mem := stir_mem ..

/-- A push: the token stands last on the queue, and the staging area is zero (R45). -/
theorem opPush_credit {rs1 : Nat} (hb : s.bound h qo = true) (hout : (s.core h).heldOut qo = false) (hc : s.hasCredit h qo = true) :
    opPush s h rs1 qo = .done ((s.stir (h / 32)).setCore h ((s.core h).setOutQ qo { (s.core h).outQ qo with
      tokens := ((s.core h).outQ qo).tokens
        ++ [Token.restamp { tag := ((s.core h).xreg rs1).setWidth 16, payload := ((s.core h).outQ qo).stage } (s.epochOf (h / 32))],
      out := ((s.core h).outQ qo).out + 1, total := ((s.core h).outQ qo).total + 1, stage := 0 })) := by
  simp [opPush, hb, hout, hc, State.enqueue]

end Tokens

theorem retired_pc (c : Core) : (retired c).pet.pc = c.pet.pc + 4 := congrArg Petal.pc (pet_setPet c _)

theorem popped_pet (c : Core) (qi : Nat) (rest : List Token) : (popped c qi rest).pet = c.pet := pet_setPet c c.pet

/-- Settles O10: a push is one enqueue, a pop of a control token takes it away alone, and a forward is the pop and the enqueue of its token. -/
theorem pushPopForward : Obligations.PushPopForward := by
  unfold Obligations.PushPopForward
  intro s h hr
  refine ⟨fun rs1 qo hb hout hc => ?push, fun qi t rest hheld hv ht hd hm => ⟨?pop, fun qo hb hout hc => ?forward⟩, fun rs1 qo hb => ?unbound⟩
  case push =>
    refine (answer_onlyIf _ hr).trans ?_
    rw [State.runWait, opPush_credit hb hout hc, settle_other]
    exact answer_eq _ _ (stir_pending ..) (stir_now ..) (stir_hw ..)
  case pop =>
    have hpop := popHead_control hv ht hd hm
    have hcore := popHead_control_core hv ht hd hm
    refine ⟨_, answer_onlyIf _ hr, ?_⟩
    rw [State.runWait, opPop_head hheld (head_oldest hv ht), settleOp_done, keeping_mem, keeping_regs]
    refine ⟨?_, fun k hk => ?_, hpop.mem.trans (stir_mem ..), hpop.regs.trans (stir_regs ..)⟩
    · rw [keeping_at_core, core_setCore, if_pos rfl, hcore, if_pos rfl, retired_popped hv]
    · rw [keeping_at_core, core_setCore, if_neg hk.symm, hcore, if_neg hk.symm]
  case forward =>
    have hpop := popHead_control hv ht hd hm
    have hcore := popHead_control_core hv ht hd hm
    refine ⟨_, answer_onlyIf _ hr, ?_⟩
    rw [State.runWait, opFwd_head hb hheld (head_oldest hv ht) hout hc, settleOp_done, keeping_mem]
    have hown : ∀ c, (((s.popHead h qi).enqueue h qo t).setCore h c).core h = c := fun c => by rw [core_setCore, if_pos rfl]
    rw [keeping_at_core, hown, enqueue_core, if_pos rfl, hcore, if_pos rfl]
    refine ⟨?_, ?_, ?_, ?_, fun k hk => ?_, ?_⟩
    · show (((popped (s.core h) qi rest).inQ qi)).tokens = rest
      rw [popped, inQ_setInQ, if_pos rfl]
    · show (((popped (s.core h) qi rest).setOutQ qo _).outQ qo).tokens = _
      rw [outQ_setOutQ, if_pos rfl]
      rfl
    · show (((popped (s.core h) qi rest).setOutQ qo _).outQ qo).out = _
      rw [outQ_setOutQ, if_pos rfl]
      rfl
    · exact (retired_pc _).trans (congrArg (·.pc + 4) (popped_pet (s.core h) qi rest))
    · rw [keeping_at_core, core_setCore, if_neg hk.symm, enqueue_core, if_neg hk.symm, hcore, if_neg hk.symm]
    · exact (enqueue_mem _ h qo t).trans (hpop.mem.trans (stir_mem ..))
  case unbound =>
    refine ⟨_, answer_onlyIf _ hr, ?_⟩
    rw [keeping_at_core, State.runWait, opPush_unbound hb]
    exact halted_eq ..

/-! ### The instruction at the pc -/

section Scalar

variable {s : State} {h len : Nat} {i : Rv}

/-- SCALAR_INSTRUCTION of a ready core carries out the instruction that stands at its pc (R41). -/
theorem scalarInstruction_runs (hr : s.ready h = true) (hi : stands (s.core h) len i) : exec (.scalarInstruction h) s = answer s (s.runRv h len i) := by
  rw [← step_stands s h len i hi]
  exact answer_onlyIf _ hr

theorem setXreg_retire (rd : Nat) (v : Word) : (s.setXreg h rd v).retire h len = s.setCore h (advanced len (withX (s.core h) rd v)) :=
  retire_eq ..

theorem scalarInstruction_setCore {c : Core} (hr : s.ready h = true) (hi : stands (s.core h) len i) (hc : s.runRv h len i = s.setCore h c) :
    exec (.scalarInstruction h) s = .next (s.setCore h c) :=
  (scalarInstruction_runs hr hi).trans (answer_of_setCore hc)

/-- The sizes of an access are those that the command's guard admits. -/
theorem size_admitted {size : Nat} (hr : s.ready h = true) (hs : size = 1 ∨ size = 2 ∨ size = 4) :
    (s.ready h && (size == 1 || size == 2 || size == 4)) = true := by
  rw [hr]
  rcases hs with rfl | rfl | rfl <;> rfl

theorem scalarLoad_ready {rd rs1 size : Nat} (imm : BitVec 12) (signed : Bool) (hr : s.ready h = true) (hs : size = 1 ∨ size = 2 ∨ size = 4) :
    exec (.scalarLoad h rd rs1 imm size signed) s = answer s (s.doLoad h rd rs1 (imm.signExtend 32) size signed 4) :=
  answer_onlyIf _ (size_admitted hr hs)

theorem scalarStore_ready {rs1 rs2 size : Nat} (imm : BitVec 12) (hr : s.ready h = true) (hs : size = 1 ∨ size = 2 ∨ size = 4) :
    exec (.scalarStore h rs1 rs2 imm size) s = answer s (s.doStore h rs1 rs2 (imm.signExtend 32) size 4) :=
  answer_onlyIf _ (size_admitted hr hs)

end Scalar

/-- Settles O11: the instruction at the pc is carried out, and each form is what its own command or one change of the core makes of it. -/
theorem scalarInstructionRuns : Obligations.ScalarInstructionRuns := by
  unfold Obligations.ScalarInstructionRuns
  intro s h len i hr hi
  have hset : ∀ {c : Core}, s.runRv h len i = s.setCore h c → exec (.scalarInstruction h) s = .next (s.setCore h c) := scalarInstruction_setCore hr hi
  refine ⟨?lui, ?auipc, ?opImm, ?op, ?mulDiv, ?jal, ?jalr, ?branch, ?fence, ?load, ?store, ?csr⟩
  case lui => exact fun rd imm e => hset (e ▸ setXreg_retire ..)
  case auipc => exact fun rd imm e => hset (e ▸ setXreg_retire ..)
  case opImm => exact fun f3 alt rd rs1 imm e => hset (e ▸ setXreg_retire ..)
  case op => exact fun f3 alt rd rs1 rs2 e => hset (e ▸ setXreg_retire ..)
  case mulDiv => exact fun f3 rd rs1 rs2 e => hset (e ▸ setXreg_retire ..)
  case jal => exact fun rd off e => hset (e ▸ jump_eq ..)
  case jalr => exact fun rd rs1 imm e => hset (e ▸ jump_eq ..)
  case branch =>
    rintro f3 rs1 rs2 off rfl
    refine hset ?_
    rw [State.runRv]
    split
    · exact jump_eq ..
    · exact retire_eq0 ..
  case fence => exact fun e => hset (e ▸ retire_eq0 ..)
  case load =>
    rintro rd rs1 imm size signed rfl rfl hs
    exact (scalarInstruction_runs hr hi).trans (scalarLoad_ready imm signed hr hs).symm
  case store =>
    rintro rs1 rs2 imm size rfl rfl hs
    exact (scalarInstruction_runs hr hi).trans (scalarStore_ready imm hr hs).symm
  case csr =>
    rintro f3 rd rs1 csr rfl hf
    exact (scalarInstruction_runs hr hi).trans (csrAccess_ready f3 csr hr hf).symm

/-! ### Faults of the scalar core -/

section Faults

variable {s : State} {h : Nat}

/-- A fetch at an odd address, from outside the instruction window, or of an illegal instruction halts the petal at the pc (R43, R44). -/
theorem scalarStep_halts (hpc : (s.core h).pc % 2 = 1 ∨ (s.core h).pc < 0x10000000 ∨ 0x10002000 ≤ (s.core h).pc ∨ ∃ len, stands (s.core h) len .illegal) :
    ∃ cause, s.scalarStep h = s.halt h cause (s.core h).pc := by
  by_cases hodd : (s.core h).pc % 2 = 1
  · exact ⟨_, if_pos hodd⟩
  by_cases hout : (s.core h).pc < 0x10000000 ∨ 0x10002000 ≤ (s.core h).pc
  · exact ⟨_, (if_neg hodd).trans (if_pos hout)⟩
  · obtain ⟨len, hi⟩ := ((hpc.resolve_left hodd).resolve_left fun hlow => hout (.inl hlow)).resolve_left fun hhigh => hout (.inr hhigh)
    exact ⟨_, step_stands s h len .illegal hi⟩

theorem doLoad_halts {rd rs1 size len cause : Nat} {imm : Word} (signed : Bool) (hl : s.locate h ((s.core h).xreg rs1 + imm).toNat size = .inr cause) :
    s.doLoad h rd rs1 imm size signed len = s.halt h cause (s.core h).pc := by
  unfold State.doLoad
  dsimp only
  rw [hl]

theorem doStore_halts {rs1 rs2 size len cause : Nat} {imm : Word} (hl : s.locate h ((s.core h).xreg rs1 + imm).toNat size = .inr cause) :
    s.doStore h rs1 rs2 imm size len = s.halt h cause (s.core h).pc := by
  unfold State.doStore
  dsimp only
  rw [hl]

theorem doLoad_located {rd rs1 size len : Nat} {imm : Word} {w : Where} (signed : Bool)
    (hl : s.locate h ((s.core h).xreg rs1 + imm).toNat size = .inl w) :
    s.doLoad h rd rs1 imm size signed len = (s.setXreg h rd (extend size signed (s.scalarRead h w size))).retire h len := by
  unfold State.doLoad
  dsimp only
  rw [hl]

theorem doStore_located {rs1 rs2 size len : Nat} {imm : Word} {w : Where} (hl : s.locate h ((s.core h).xreg rs1 + imm).toNat size = .inl w) :
    s.doStore h rs1 rs2 imm size len = (s.scalarWrite h w (natLe size ((s.core h).xreg rs2).toNat)).retire h len := by
  unfold State.doStore
  dsimp only
  rw [hl]

end Faults

/-- Settles O12: each of these fetches, instructions and accesses ends in a halt, which stops its own core alone. -/
theorem scalarFaults : Obligations.ScalarFaults := by
  unfold Obligations.ScalarFaults
  refine ⟨fun s h hr hpc => ?fetch, fun s h rd rs1 imm size a signed hr hs ha hf => ?access⟩
  case fetch =>
    obtain ⟨cause, hcause⟩ := scalarStep_halts hpc
    refine ⟨_, answer_onlyIf _ hr, ?_, fun k hk => ?_⟩
    · rw [keeping_at_core, hcause, halted_eq]
    · rw [keeping_at_core, hcause, halt_core, if_neg hk.symm]
  case access =>
    subst ha
    obtain ⟨cause, hcause⟩ := locate_fault s h _ size hs hf
    refine ⟨⟨_, scalarLoad_ready imm signed hr hs, ?_⟩, fun rs2 => ⟨_, scalarStore_ready imm hr hs, ?_⟩⟩
    · rw [keeping_at_core, doLoad_halts signed hcause, halted_eq]
    · rw [keeping_at_core, doStore_halts hcause, halted_eq]

/-! ### The own near store and the descriptor table -/

section Store

variable {s : State} {h a size : Nat}

/-- Aligned accesses of a near store lie within one block of memory (R33, R172). -/
theorem blocksOf_near (hs : size = 1 ∨ size = 2 ∨ size = 4) (ha : a % size = 0) : blocksOf (nearBase h + a) size = [(nearBase h + a, size)] := by
  refine blocksOf_one _ _ (by omega) ?_
  unfold nearBase sramBase
  rcases hs with rfl | rfl | rfl <;> omega

/-- A store to plain memory of the own near store writes its bytes and does nothing else (R43, R172). -/
theorem store_near {bs : Bytes} (hl : bs.length = size) (hs : size = 1 ∨ size = 2 ∨ size = 4) (ha : a % size = 0)
    (hm : s.mapped (nearBase h + a) = true) (hc : s.cacheMode (clusterOfAddr (nearBase h + a)) = false)
    (hb : (s.clu (clusterOfAddr (nearBase h + a))).backupOn = false) :
    s.store .scalar 0 (nearBase h + a) bs = { s with mem := memWrite s.mem (nearBase h + a) bs } := by
  refine store_plain s _ _ _ _ (fun hnil => ?_) fun e he => ?_
  · rw [hnil, List.length_nil] at hl
    omega
  · rw [hl, blocksOf_near hs ha, List.mem_singleton] at he
    subst he
    exact ⟨hm, hc, hb⟩

theorem retire_withMem (m : List Host.Cell) (hw : (s.core h).wait = none) :
    State.retire { s with mem := m } h 4 = { s.setCore h (retired (s.core h)) with mem := m } := by
  rw [advanced_eq _ hw]
  rfl

/-- A scalar store of the own near store: the instruction is past, and its bytes stand in memory (R43, R172). -/
theorem scalarStore_near {rs1 rs2 : Nat} {imm : BitVec 12} (hr : s.ready h = true) (hs : size = 1 ∨ size = 2 ∨ size = 4)
    (hnear : s.locate h ((s.core h).xreg rs1 + imm.signExtend 32).toNat size = .inl (.mem (nearBase h + a))) (ha : a % size = 0)
    (hm : s.mapped (nearBase h + a) = true) (hc : s.cacheMode (clusterOfAddr (nearBase h + a)) = false)
    (hb : (s.clu (clusterOfAddr (nearBase h + a))).backupOn = false) :
    exec (.scalarStore h rs1 rs2 imm size) s = .next { s.setCore h (retired (s.core h)) with
      mem := memWrite s.mem (nearBase h + a) (natLe size ((s.core h).xreg rs2).toNat) } := by
  rw [scalarStore_ready imm hr hs, doStore_located hnear, State.scalarWrite, store_near (natLe_len ..) hs ha hm hc hb,
    retire_withMem _ (wait_none s h hr)]
  rfl

/-- An aligned word access inside the descriptor-table window reaches the table (R43). -/
theorem locate_desc (h1 : 0x20000000 ≤ a) (h2 : a < 0x20000200) (h4 : a % 4 = 0) : s.locate h a 4 = .inl (.desc (a - 0x20000000)) := by
  unfold State.locate
  dsimp only
  rw [if_neg (by omega), if_neg (by omega), if_neg (by omega), if_pos (by omega), if_neg (by omega), if_neg (by omega)]

end Store

/-- Settles O13: the access lies in one block of the near store, where a load reads and a plain store writes just its bytes. -/
theorem nearStoreLoadAndStore : Obligations.NearStoreLoadAndStore := by
  unfold Obligations.NearStoreLoadAndStore
  intro s h rs1 imm size a hr hs ha hin halign
  have hw := wait_none s h hr
  have hnear : s.locate h ((s.core h).xreg rs1 + imm.signExtend 32).toNat size = .inl (.mem (nearBase h + a)) :=
    ha ▸ locate_near s h a size hs hin halign
  refine ⟨fun rd signed => ?load, fun rs2 hm hc hb => ?store⟩
  case load =>
    refine (scalarLoad_ready imm signed hr hs).trans (answer_of_setCore ?_)
    rw [doLoad_located signed hnear, retire_setXreg _ hw]
    rfl
  case store =>
    have hlen := natLe_len size ((s.core h).xreg rs2).toNat
    refine ⟨_, scalarStore_near hr hs hnear halign hm hc hb, rfl, fun i hi => ?_, fun b hb => memByte_write_out _ _ _ _ (hlen.symm ▸ hb)⟩
    rw [memByte_write_in _ _ _ _ (Nat.le_add_right ..) (by omega), Nat.add_sub_cancel_left, natLe_get _ _ _ hi]

theorem retired_setEngine (c : Core) (e : Nat) (g : Engine) : (retired (c.setEngine e g)).engine e = g := by
  show (c.setEngine e g).engine e = g
  rw [engine_setEngine, if_pos rfl]

/-- An instruction that is past keeps its petal's descriptor table. -/
theorem advanced_desc (len : Nat) (c : Core) : (advanced len c).pet.desc = c.pet.desc := by
  unfold advanced
  rw [pet_setPet]

/-- Settles O15: the copy stands on the engine's queue, and the table is the petal's own, which a store to its window writes byte by byte. -/
theorem issueCopiesTheDescriptor : Obligations.IssueCopiesTheDescriptor := by
  unfold Obligations.IssueCopiesTheDescriptor
  intro s h rs1 rs2 imm hr
  refine ⟨fun e hn hok => ?issue, fun h1 h2 h4 => ?store⟩
  case issue =>
    refine ⟨_, eIssue_ok hr hn hok, ?_, ?_⟩
    · rw [core_setCore, if_pos rfl, retired_setEngine]
      rfl
    · rw [core_setCore, if_pos rfl]
      exact advanced_desc 4 _
  case store =>
    refine ⟨_, scalarStore_ready imm hr (.inr (.inr rfl)), ?_⟩
    rw [doStore_located (locate_desc h1 h2 h4), State.scalarWrite, natLe_len]
    dsimp only
    rw [retire_eq]
    refine ⟨fun k e => ?_, fun j => ?_⟩
    · rw [keeping_at_core, core_setCore]
      split
      · subst k
        rfl
      · rfl
    · rw [keeping_at_core, core_setCore, if_pos rfl, advanced_desc, pet_setPet, descFold]
      split
      · rw [natLe4 _ _ (by omega)]
      · rfl

/-! ### Matrix engines -/

section Matrix

variable {s : State} {h e : Nat} {x : EngDesc} {rest : List EngDesc} {bq : Bool}

/-- The guard of a matrix command of operation op holds of a descriptor of that operation that may be taken up. -/
theorem taken_guard {op : Nat} (ht : taken s h e x rest bq) (hop : (mdesc x).op = op) : (decide (e < 4) && s.engineRuns h && s.headIs h e op bq) = true := by
  rw [taken_head ht op hop]
  obtain ⟨he, -, hruns, -⟩ := ht
  rw [hruns, decide_eq_true he]
  rfl

theorem mdesc_nt_pos (x : EngDesc) : 0 < (mdesc x).nt := Nat.succ_pos _

theorem runShares_product (d : MDesc) (desc : BitVec 256) (rows : List Bytes) (hop : d.op = 1) :
    s.runShares h e d desc false rows
      = if d.hold then s.product h e d desc d.nt rows else (s.product h e d desc d.nt rows).writeBack h e d d.nt := by
  unfold State.runShares shareList
  cases d.hold <;> simp [hop]

theorem runShares_latch (d : MDesc) (desc : BitVec 256) (rows : List Bytes) (hop : d.op = 2) :
    s.runShares h e d desc false rows = s.latchBlock h e d d.nt := by
  unfold State.runShares shareList
  simp [hop]

theorem runShares_flush (d : MDesc) (desc : BitVec 256) (rows : List Bytes) (hop : d.op = 3) :
    s.runShares h e d desc false rows = s.writeBack h e d d.nt := by
  unfold State.runShares shareList
  simp [hop]

/-- The end of a matrix descriptor's work in state u: its engine has finished it, and results drain where a queue takes them (R45, R62). -/
def finished (u : State) (h e : Nat) (d : MDesc) : State := if d.oMem then u.setBusy h e else State.drain h e d.oq 2048 (u.setBusy h e)

/-- The activation rows that a descriptor with its rows at hand multiplies (R56). -/
def activations (s : State) (h e : Nat) (d : MDesc) : List Bytes := if d.aMem then memRows s h d else ((s.core h).engine e).rows

theorem matrixStep_product (ht : taken s h e x rest false) (hop : (mdesc x).op = 1)
    (hrows : (mdesc x).aMem = true ∨ (mdesc x).m ≤ ((s.core h).engine e).rows.length) :
    s.matrixStep h e false = finished ((s.setTaken h e).runShares h e (mdesc x) x.d false (activations s h e (mdesc x))) h e (mdesc x) := by
  rw [matrix_eq s h e x rest false ht fun _ => hrows]
  dsimp only
  rw [if_neg (not_not_intro hop)]
  rfl

theorem matrixStep_rowless (ht : taken s h e x rest bq) (hop : (mdesc x).op ≠ 1) :
    s.matrixStep h e bq = finished ((s.setTaken h e).runShares h e (mdesc x) x.d bq []) h e (mdesc x) := by
  rw [matrix_eq s h e x rest bq ht fun h1 => absurd h1 hop]
  dsimp only
  rw [if_pos hop]
  rfl

/-- The engine after its product: the accumulator file of R97 and R98, and the latch of R61. -/
def multiplied (s : State) (h e : Nat) (d : MDesc) (rows : List Bytes) : Engine :=
  { (s.core h).engine e with
    taken := true, acc := matAcc d (s.weights h e d d.nt).1 rows d.nt ((s.core h).engine e).acc,
    kept := keptAfter d (s.weights h e d d.nt).1 (s.weights h e d d.nt).2
      (sideSlices d.wfmt (s.weights h e d d.nt).1.side (blockRows d.wfmt d.k) 0 d.nt).1 d.nt }

/-- u is s but for its registers and for engine e of hart h, which is g. -/
structure EngineBecomes (s u : State) (h e : Nat) (g : Engine) : Prop where
  mem : u.mem = s.mem
  core : ∀ k, u.core k = if h = k then (s.core h).setEngine e g else s.core k
  epoch : ∀ c, u.epochOf c = s.epochOf c

/-- A state that has s's memory, clusters and so on but its own registers and cores is s with an engine changed where its cores say so. -/
theorem EngineBecomes.of_cores {u : State} {g : Engine} (hrest : u = { s with regs := u.regs, cores := u.cores })
    (hcores : u.cores = ((s.setTaken h e).setCore h ((s.core h).setEngine e g)).cores) : EngineBecomes s u h e g := by
  refine ⟨by rw [hrest], fun k => ?_, fun c => by rw [hrest]; rfl⟩
  show tget _ u.cores k = _
  rw [hcores]
  refine (core_setCore (s.setTaken h e) h k _).trans ?_
  split
  · rfl
  · rw [setTaken_core, if_neg ‹_›]

theorem setTaken_becomes : EngineBecomes s (s.setTaken h e) h e { (s.core h).engine e with taken := true } :=
  ⟨rfl, fun k => setTaken_core s h e k, fun _ => rfl⟩

theorem setTaken_own (s : State) (h e : Nat) : (s.setTaken h e).core h = (s.core h).setEngine e { (s.core h).engine e with taken := true } := by
  rw [setTaken_core, if_pos rfl]

/-- A product changes its engine and counts in registers of its own core, so that writes to d's result rows land as before. -/
theorem product_becomes {d : MDesc} (desc : BitVec 256) (rows : List Bytes) (he : e < 4)
    (hsh : d.shadow = false ∨ s.field (s.cluReg (h / 32) 0x800) 5 1 ≠ 1) :
    EngineBecomes s ((s.setTaken h e).product h e d desc d.nt rows) h e (multiplied s h e d rows)
      ∧ (plainRows s h d → plainRows ((s.setTaken h e).product h e d desc d.nt rows) h d) := by
  obtain ⟨u, rfl, hrest, hregs, hcores⟩ := product_spec (s.setTaken h e) h e d desc d.nt rows hsh
  rw [weights_taken, setTaken_own, engine_setEngine, if_pos rfl, setEngine_setEngine] at hcores
  generalize (s.setTaken h e).product h e d desc d.nt rows = u at *
  have hrest : u = { s with regs := u.regs, cores := u.cores } := hrest
  exact ⟨.of_cores hrest hcores, plain_keep s u h d hrest (hregs he)⟩

theorem latch_becomes (d : MDesc) : EngineBecomes s ((s.setTaken h e).latchBlock h e d d.nt) h e
    { (s.core h).engine e with taken := true, kept := some (s.weights h e d d.nt).1 } := by
  obtain ⟨hrest, hcores⟩ := latch_spec (s.setTaken h e) h e d d.nt
  rw [weights_taken, setTaken_own, engine_setEngine, if_pos rfl, setEngine_setEngine] at hcores
  generalize (s.setTaken h e).latchBlock h e d d.nt = u at *
  exact .of_cores hrest hcores

end Matrix

section Finish

variable {s u : State} {h e : Nat} {d : MDesc} {g : Engine}

/-- What ends a descriptor whose engine is g and writes no row back: memory, the other engines and cores, and the input queues stand. -/
theorem finished_engine (hu : EngineBecomes s u h e g) :
    (finished u h e d).mem = s.mem
      ∧ ((finished u h e d).core h).engine e = { g with taken := true, busy := true, rows := [], row := [], wb := (((finished u h e d).core h).engine e).wb }
      ∧ (∀ i, i ≠ e → ((finished u h e d).core h).engine i = (s.core h).engine i) ∧ ((finished u h e d).core h).inq = (s.core h).inq
      ∧ (∀ k, k ≠ h → (finished u h e d).core k = s.core k)
      ∧ (g.wb = [] → (∀ q, ((finished u h e d).core h).outQ q = (s.core h).outQ q) ∧ (((finished u h e d).core h).engine e).wb = []) := by
  obtain ⟨hmem, hothers, hengines, hengine, hinq, hqueues, -, hrest⟩ := finish_spec u h e d (finished u h e d) rfl
  have hown : u.core h = (s.core h).setEngine e g := (hu.core h).trans (if_pos rfl)
  rw [hown] at hengines hengine hinq hqueues hrest
  rw [engine_setEngine, if_pos rfl] at hengine hrest
  refine ⟨hmem.trans hu.mem, hengine, fun i hi => ?_, hinq, fun k hk => ?_, fun hwb => ?_⟩
  · rw [hengines i hi, engine_setEngine, if_neg hi.symm]
  · rw [hothers k hk, hu.core, if_neg hk.symm]
  · obtain ⟨hqueue, hw⟩ := hrest (.inr hwb)
    exact ⟨fun q => oq_or _ _ _ hqueues hqueue q, hw.trans hwb⟩

/-- What ends a descriptor whose engine is g once its accumulators have been written back (R62). -/
theorem finished_writeBack (hu : EngineBecomes s u h e g) (hplain : plainRows s h d → plainRows u h d) (hnt : 0 < d.nt) (hwb : g.wb = ((s.core h).engine e).wb) :
    let z := finished (u.writeBack h e d d.nt) h e d
    wroteBack s z h e d (resultRows s h e d g.acc)
      ∧ (z.core h).engine e = { g with taken := true, busy := true, rows := [], row := [], wb := ((z.core h).engine e).wb }
      ∧ (∀ i, i ≠ e → (z.core h).engine i = (s.core h).engine i) ∧ (z.core h).inq = (s.core h).inq ∧ (∀ k, k ≠ h → z.core k = s.core k) := by
  intro z
  obtain ⟨wothers, wengines, wengine, winq, wqueues, wback⟩ := writeBack_spec u h e d hnt
  obtain ⟨-, hothers, hengines, hengine, hinq, -, -, -⟩ := finish_spec (u.writeBack h e d d.nt) h e d z rfl
  have hown : u.core h = (s.core h).setEngine e g := (hu.core h).trans (if_pos rfl)
  have hg : (u.core h).engine e = g := by rw [hown, engine_setEngine, if_pos rfl]
  have hrows : resultRows u h e d ((u.core h).engine e).acc = resultRows s h e d g.acc := by
    rw [hg]
    exact narrowRows_congr _ _ _ _ _ _ _ (by rw [hown]; rfl)
  refine ⟨?_, ?_, fun i hi => ?_, ?_, fun k hk => ?_⟩
  · exact back_spec s u _ z h e d _ hu.mem (fun q => by rw [hown]; rfl) (by rw [hg, hwb]) (hu.epoch _) hplain (hrows ▸ wback) wqueues rfl
  · rw [hengine, wengine, hg]
  · rw [hengines i hi, wengines i hi, hown, engine_setEngine, if_neg hi.symm]
  · rw [hinq, winq, hown]
    rfl
  · rw [hothers k hk, wothers k hk, hu.core, if_neg hk.symm]

end Finish

/-- Settles O16: the descriptor runs its product, writes back unless it holds, and its engine finishes it. -/
theorem matmulAccumulates : Obligations.MatmulAccumulates := by
  unfold Obligations.MatmulAccumulates
  intro s h e x rest ht hop hsh hrows
  have ⟨he, hqueue, _⟩ := ht
  have hexec : exec (.matmul h e) s = answer s (s.matrixStep h e false) := answer_onlyIf _ (taken_guard ht hop)
  obtain ⟨hu, hplain⟩ := product_becomes (s := s) (h := h) x.d (activations s h e (mdesc x)) he hsh
  rw [matrixStep_product ht hop hrows, runShares_product _ _ _ hop] at hexec
  refine ⟨_, hexec, ?_⟩
  cases hh : (mdesc x).hold with
  | true =>
    rw [if_pos rfl]
    obtain ⟨hmem, hengine, hengines, hinq, hothers, hwb⟩ := finished_engine (d := mdesc x) hu
    simp only [keeping_at_core, keeping_mem]
    rw [hengine]
    exact ⟨⟨rfl, rfl, fun _ => ⟨hmem, hwb⟩, (nomatch hh.symm.trans ·)⟩, hqueue, rfl, rfl, hengines, hinq, hothers⟩
  | false =>
    rw [if_neg (by simp)]
    obtain ⟨hback, hengine, hengines, hinq, hothers⟩ := finished_writeBack hu hplain (mdesc_nt_pos x) rfl
    simp only [keeping_at_core, keeping_mem]
    rw [hengine]
    exact ⟨⟨rfl, rfl, (nomatch hh.symm.trans ·), fun _ => hback⟩, hqueue, rfl, rfl, hengines, hinq, hothers⟩

/-- Settles O17: LATCH changes the kept block and nothing else of its engine, and FLUSH is the write-back alone. -/
theorem latchAndFlush : Obligations.LatchAndFlush := by
  unfold Obligations.LatchAndFlush
  intro s h e x rest ht
  refine ⟨fun hop hwb => ?latch, fun hop => ?flush⟩
  case latch =>
    have hexec : exec (.latch h e) s = answer s (s.matrixStep h e false) := answer_onlyIf _ (taken_guard ht hop)
    rw [matrixStep_rowless ht (by omega), runShares_latch _ _ _ hop] at hexec
    obtain ⟨hmem, hengine, -, hinq, hothers, hdrained⟩ := finished_engine (d := mdesc x) (latch_becomes (s := s) (h := h) (e := e) (mdesc x))
    obtain ⟨hqueues, hnone⟩ := hdrained hwb
    refine ⟨_, hexec, hmem, hothers, ?_, hqueues, hinq⟩
    rw [keeping_at_core, hengine, hnone, ← hwb]
  case flush =>
    have hexec : exec (.flush h e) s = answer s (s.matrixStep h e false) := answer_onlyIf _ (taken_guard ht hop)
    rw [matrixStep_rowless ht (by omega), runShares_flush _ _ _ hop] at hexec
    obtain ⟨hback, hengine, -, hinq, hothers⟩ :=
      finished_writeBack (d := mdesc x) (setTaken_becomes (s := s) (h := h) (e := e)) id (mdesc_nt_pos x) rfl
    exact ⟨_, hexec, hothers, hengine, hback, hinq⟩

/-! ### Latches across a bouquet -/

section Bouquet

variable {s u : State} {h e : Nat} {d : MDesc}

/-- The block that an engine multiplies by is decided by memory and by what its latch keeps. -/
theorem weights_congr {k i : Nat} (hmem : u.mem = s.mem) (hkept : ((u.core k).engine i).kept = ((s.core k).engine i).kept) (d : MDesc) (n : Nat) :
    u.weights k i d n = s.weights k i d n := by
  unfold State.weights
  rw [hmem, hkept]

/-- One share of a LATCH: engine x.2.1 of hart x.1 latches x.2.2 slices (R72). -/
def latchShare (d : MDesc) (s : State) (x : Nat × Nat × Nat) : State := s.latchBlock x.1 x.2.1 d x.2.2

/-- u is s but for what latches keep and for registers. -/
def OnlyKept (s u : State) : Prop :=
  u.mem = s.mem ∧ (∀ k i, (u.core k).engine i = { (s.core k).engine i with kept := ((u.core k).engine i).kept })
    ∧ ∀ k i, (u.core k).outQ i = (s.core k).outQ i

theorem OnlyKept.self (s : State) : OnlyKept s s := ⟨rfl, fun _ _ => rfl, fun _ _ => rfl⟩

theorem OnlyKept.trans {t : State} (a : OnlyKept s t) (b : OnlyKept t u) : OnlyKept s u := by
  obtain ⟨amem, aengine, aqueues⟩ := a
  obtain ⟨bmem, bengine, bqueues⟩ := b
  exact ⟨bmem.trans amem, fun k i => by rw [bengine, aengine], fun k i => (bqueues k i).trans (aqueues k i)⟩

theorem latchShare_onlyKept (d : MDesc) (s : State) (x : Nat × Nat × Nat) : OnlyKept s (latchShare d s x) := by
  have hcore := latch_core s x.1 x.2.1 d x.2.2
  refine ⟨by rw [latchShare, (latch_spec s x.1 x.2.1 d x.2.2).1], fun k i => ?_, fun k i => ?_⟩
  · rw [latchShare, hcore]
    split
    · subst k
      rw [engine_setEngine]
      split
      · subst i
        rfl
      · rfl
    · rfl
  · rw [latchShare, hcore]
    split
    · subst k
      rfl
    · rfl

theorem latches_onlyKept (d : MDesc) (l : List (Nat × Nat × Nat)) (s : State) : OnlyKept s (l.foldl (latchShare d) s) :=
  foldl_keep (latchShare d) (OnlyKept s) (fun t x ht => ht.trans (latchShare_onlyKept d t x)) l s (.self s)

theorem latchShare_kept (d : MDesc) (s : State) (x : Nat × Nat × Nat) : (((latchShare d s x).core x.1).engine x.2.1).kept = some (s.weights x.1 x.2.1 d x.2.2).1 := by
  rw [latchShare, latch_core, if_pos rfl, engine_setEngine, if_pos rfl]

theorem latchShare_kept_other (d : MDesc) (s : State) {x : Nat × Nat × Nat} {k i : Nat} (hne : (x.1, x.2.1) ≠ (k, i)) :
    (((latchShare d s x).core k).engine i).kept = ((s.core k).engine i).kept := by
  rw [latchShare, latch_core]
  split
  · subst k
    rw [engine_setEngine, if_neg fun hi => hne (by rw [hi])]
  · rfl

/-- Latches of distinct engines: each keeps its own block, whatever the order (R72, R73). -/
theorem latches_kept (d : MDesc) : ∀ (l : List (Nat × Nat × Nat)) (s : State), (l.map fun x => (x.1, x.2.1)).Nodup →
    (∀ x ∈ l, (((l.foldl (latchShare d) s).core x.1).engine x.2.1).kept = some (s.weights x.1 x.2.1 d x.2.2).1)
      ∧ ∀ k i, (k, i) ∉ l.map (fun x => (x.1, x.2.1)) → (((l.foldl (latchShare d) s).core k).engine i).kept = ((s.core k).engine i).kept
  | [], s, _ => ⟨fun _ hx => absurd hx List.not_mem_nil, fun _ _ _ => rfl⟩
  | y :: l, s, hn => by
    rw [List.map_cons, List.nodup_cons] at hn
    obtain ⟨ihkept, ihother⟩ := latches_kept d l (latchShare d s y) hn.2
    refine ⟨fun x hx => ?_, fun k i hki => ?_⟩
    · rcases List.mem_cons.mp hx with rfl | hx
      · exact (ihother _ _ hn.1).trans (latchShare_kept d s x)
      · have hne : (y.1, y.2.1) ≠ (x.1, x.2.1) := fun heq => hn.1 (heq ▸ List.mem_map.mpr ⟨x, hx, rfl⟩)
        rw [List.foldl_cons, ihkept x hx, weights_congr (latchShare_onlyKept d s y).1 (latchShare_kept_other d s hne)]
    · rw [List.map_cons, List.mem_cons, not_or] at hki
      exact (ihother k i hki.2).trans (latchShare_kept_other d s (Ne.symm hki.1))

/-- The engines of a bouquet's shares are distinct (R72). -/
theorem shareList_nodup (h e : Nat) (d : MDesc) : ((shareList h e d true).map fun x => (x.1, x.2.1)).Nodup := by
  unfold shareList
  rw [if_pos rfl, List.map_filterMap]
  refine List.Nodup.filterMap (fun i j b hi hj => ?_) List.nodup_range
  dsimp only at hi hj
  split at hi <;> split at hj <;> simp at hi hj
  subst b
  simp at hj
  omega

theorem mem_shareList {j : Nat} (h e : Nat) (d : MDesc) (hj : j < 32) (hn : 0 < (bqShare d.nt j).length) :
    (h + j / 4, j % 4, (bqShare d.nt j).length) ∈ shareList h e d true := by
  unfold shareList
  rw [if_pos rfl, List.mem_filterMap]
  exact ⟨j, List.mem_range.mpr hj, if_neg (Nat.ne_of_gt hn)⟩

theorem runShares_latches (desc : BitVec 256) (rows : List Bytes) (hop : d.op = 2) :
    s.runShares h e d desc true rows = (shareList h e d true).foldl (latchShare d) s := by
  unfold State.runShares
  simp only [hop, true_or, if_true]
  rfl

/-- Taking a descriptor up changes no engine but in that it has taken it. -/
theorem setTaken_engine (s : State) (h e k i : Nat) :
    ((s.setTaken h e).core k).engine i = { (s.core k).engine i with taken := (((s.setTaken h e).core k).engine i).taken } := by
  rw [setTaken_core]
  split
  · subst k
    rw [engine_setEngine]
    split
    · subst i
      rfl
    · rfl
  · rfl

/-- Finishing a descriptor changes no engine but in what it has in hand. -/
theorem setBusy_engine (s : State) (h e k i : Nat) :
    ((s.setBusy h e).core k).engine i = { (s.core k).engine i with
      taken := (((s.setBusy h e).core k).engine i).taken, busy := (((s.setBusy h e).core k).engine i).busy,
      rows := (((s.setBusy h e).core k).engine i).rows, row := (((s.setBusy h e).core k).engine i).row } := by
  rw [setBusy_core]
  split
  · subst k
    rw [engine_setEngine]
    split
    · subst i
      rfl
    · rfl
  · rfl

theorem setTaken_kept (s : State) (h e k i : Nat) : (((s.setTaken h e).core k).engine i).kept = ((s.core k).engine i).kept := by
  rw [setTaken_engine]

theorem setTaken_outQ (s : State) (h e k i : Nat) : ((s.setTaken h e).core k).outQ i = (s.core k).outQ i := by
  rw [setTaken_core]
  split
  · subst k
    rfl
  · rfl

theorem setBusy_outQ (s : State) (h e k i : Nat) : ((s.setBusy h e).core k).outQ i = (s.core k).outQ i := by
  rw [setBusy_core]
  split
  · subst k
    rfl
  · rfl

end Bouquet

/-- Settles O18: the shares are of distinct engines, each of which latches the block of its own near store, and nothing else moves. -/
theorem bouquetLatches : Obligations.BouquetLatches := by
  unfold Obligations.BouquetLatches
  intro s h e x rest ht hop hwb
  have hexec : exec (.bouquetMatmul h e) s = answer s (s.matrixStep h e true) := by
    have ⟨he, _, hruns, _⟩ := ht
    exact answer_onlyIf _ (by rw [taken_head ht 2 hop, hruns, decide_eq_true he]; simp)
  rw [matrixStep_rowless ht (by omega), runShares_latches _ _ hop] at hexec
  have hkeep := latches_onlyKept (mdesc x) (shareList h e (mdesc x) true) (s.setTaken h e)
  have hkept := (latches_kept (mdesc x) _ (s.setTaken h e) (shareList_nodup h e (mdesc x))).1
  generalize (shareList h e (mdesc x) true).foldl (latchShare (mdesc x)) (s.setTaken h e) = u at *
  obtain ⟨hmem, hengine, hqueues⟩ := hkeep
  have hnone : ((u.core h).engine e).wb = [] := by rw [hengine, setTaken_engine]; exact hwb
  rw [show finished u h e (mdesc x) = u.setBusy h e from ok_setBusy u h e (mdesc x) hnone _] at hexec
  refine ⟨_, hexec, hmem, ?_, fun j n hj hn hpos => ?_, fun k i => ?_, fun k i => ?_⟩
  · rw [keeping_at_core, setBusy_core, if_pos rfl, engine_setEngine, if_pos rfl]
  · subst hn
    rw [keeping_at_core, setBusy_engine]
    refine (hkept _ (mem_shareList h e (mdesc x) hj hpos)).trans ?_
    exact congrArg (fun w => some w.1) (weights_congr (u := s.setTaken h e) (s := s) rfl (setTaken_kept s h e _ _) (mdesc x) _)
  · rw [keeping_at_core, setBusy_engine, hengine, setTaken_engine]
  · rw [keeping_at_core, setBusy_outQ, hqueues, setTaken_outQ]

/-! ### The end of a descriptor -/

section Complete

variable {s : State} {h e : Nat} {x : EngDesc} {rest : List EngDesc}

/-- The engine's descriptor leaves its queue; a matrix descriptor's TAG is the one to be reported (R45, R173). -/
def completed (s : State) (h e : Nat) (x : EngDesc) : State :=
  if e = 4 then s.dropHead h e else (s.dropHead h e).setCore h { (s.dropHead h e).core h with lastTag := BitVec.ofNat 8 (dfield x.d 31 0 8) }

/-- ENGINE_DESCRIPTOR_COMPLETE of a finished descriptor whose results have all gone once its queue has taken what it takes (R59, R173). -/
theorem engineDescriptorComplete_completes {t : State} (hq : ((s.core h).engine e).queue = x :: rest) (hr : s.engineRuns h = true)
    (hb : ((s.core h).engine e).busy = true) (hnone : x.dest e = none → s = t) (hsome : ∀ q, x.dest e = some q → State.drain h e q 2048 s = t)
    (hwb : ((t.core h).engine e).wb = []) : exec (.engineDescriptorComplete h e) s = answer s (completed t h e x) := by
  refine congrArg (answer s) ?_
  rw [hq]
  dsimp only
  rw [hb, hr, if_neg (by simp)]
  cases hd : x.dest e with
  | none =>
    obtain rfl := hnone hd
    exact if_neg (not_not_intro hwb)
  | some q =>
    obtain rfl := hsome q hd
    exact if_neg (not_not_intro hwb)

theorem drain_nil {q n : Nat} (hwb : ((s.core h).engine e).wb = []) : State.drain h e q n s = s := by
  cases n with
  | zero => rfl
  | succ n =>
    unfold State.drain
    dsimp only
    rw [hwb]

/-- The last waiting result goes where its queue has credit, and none waits any more. -/
theorem drain_last {q n : Nat} {t : Token} (hwb : ((s.core h).engine e).wb = [t]) (hc : s.hasCredit h q = true) :
    State.drain h e q (n + 1) s = (s.setCore h ((s.core h).setEngine e { (s.core h).engine e with wb := [] })).enqueue h q t := by
  unfold State.drain
  dsimp only
  rw [hwb]
  dsimp only
  rw [if_pos hc]
  refine drain_nil ?_
  rw [enqueue_core, if_pos rfl, engine_setOutQ, core_setCore, if_pos rfl, engine_setEngine, if_pos rfl]

/-- A completed descriptor has left the queue of its engine, which is at rest. -/
theorem completed_eq (s : State) (h e : Nat) (x : EngDesc) : completed s h e x = s.setCore h
    { (s.core h).setEngine e { (s.core h).engine e with
        queue := ((s.core h).engine e).queue.drop 1, taken := false, rows := [], row := [], busy := false } with
      lastTag := if e = 4 then (s.core h).lastTag else BitVec.ofNat 8 (dfield x.d 31 0 8) } := by
  unfold completed
  split
  · rfl
  · rw [dropHead_core, if_pos rfl]
    exact setCore_setCore ..

theorem stir_setCore (s : State) (h k : Nat) (c : Core) : (s.setCore h c).stir k = (s.stir k).setCore h c := by
  have hin : (s.setCore h c).movedIn.contains k = s.movedIn.contains k := rfl
  unfold State.stir
  rw [hin, apply_ite (fun t : State => t.setCore h c)]
  rfl

/-- A token put on a queue of a core just written: one write of the core in all. -/
theorem enqueue_setCore (s : State) (h q : Nat) (t : Token) (c : Core) : (s.setCore h c).enqueue h q t = (s.stir (h / 32)).setCore h
    (c.setOutQ q { c.outQ q with tokens := (c.outQ q).tokens ++ [t], out := (c.outQ q).out + 1, total := (c.outQ q).total + 1 }) := by
  unfold State.enqueue
  dsimp only
  rw [core_setCore, if_pos rfl, stir_setCore, setCore_setCore]

theorem answer_stir_setCore (s : State) (h k : Nat) (c : Core) : answer s ((s.stir k).setCore h c) = .next ((s.stir k).setCore h c) :=
  answer_eq _ _ (stir_pending s k) (stir_now s k) (stir_hw s k)

theorem setOutQ_setEngine (c : Core) (q i : Nat) (o : OutQueue) (g : Engine) : (c.setEngine i g).setOutQ q o = (c.setOutQ q o).setEngine i g := rfl

end Complete

/-! ### Operand rows that a queue cannot give -/

section Gathering

variable {s : State} {h e : Nat} {x : EngDesc} {rest : List EngDesc}

/-- A MATMUL that wants rows of its queue takes the descriptor and waits where the queue runs dry (R125). -/
theorem matrixStep_dry {t : State} (ht : taken s h e x rest false) (hop : (mdesc x).op = 1)
    (hg : (s.setTaken h e).actRows h e (mdesc x) = .dry t) : s.matrixStep h e false = t := by
  obtain ⟨-, hq, -, hb, hk, -⟩ := ht
  unfold State.matrixStep
  rw [hq]
  dsimp only
  rw [hb, hk, if_neg (by simp), if_pos hop, hg]

/-- A MATMUL that meets a control token where it needs DATA faults (R125). -/
theorem matrixStep_bad {t : State} (ht : taken s h e x rest false) (hop : (mdesc x).op = 1)
    (hg : (s.setTaken h e).actRows h e (mdesc x) = .bad t) : s.matrixStep h e false = t.descFault h e := by
  obtain ⟨-, hq, -, hb, hk, -⟩ := ht
  unfold State.matrixStep
  rw [hq]
  dsimp only
  rw [hb, hk, if_neg (by simp), if_pos hop, hg]

section Rows

variable {d : MDesc} (hmem : d.aMem = false) (hrows : ((s.core h).engine e).rows.length < d.m)

include hmem hrows

/-- With rows wanting, an empty queue runs dry at once. -/
theorem actRows_dry (hhead : ((s.core h).inQ d.aq).head = none) : s.actRows h e d = .dry s := by
  unfold State.actRows
  rw [if_neg (ne_true_of_eq_false hmem), gatherFuel, State.gather]
  dsimp only
  rw [if_neg (Nat.not_le.mpr hrows), hhead]

/-- With rows wanting, a control token is no row: in the midst of one, or where it is no end of row or tile. -/
theorem actRows_bad {t : Token} (hhead : ((s.core h).inQ d.aq).head = some t) (hkind : t.kind ≠ kData)
    (hrow : ((s.core h).engine e).row ≠ [] ∨ t.kind ≠ kEndRow ∧ t.kind ≠ kEndTile) : s.actRows h e d = .bad s := by
  unfold State.actRows
  rw [if_neg (ne_true_of_eq_false hmem), gatherFuel, State.gather]
  dsimp only
  rw [if_neg (Nat.not_le.mpr hrows), hhead]
  dsimp only
  rw [if_neg hkind, if_neg fun hend => ?_]
  rcases hrow with hrow | ⟨h1, h2⟩
  · exact hrow hend.1
  · exact hend.2.elim h1 h2

end Rows

end Gathering

/-- Settles O19: completion is one write of the core, after the drain of what waits; a row wanting ends the gathering at its first token. -/
theorem enginesEndDescriptors : Obligations.EnginesEndDescriptors := by
  unfold Obligations.EnginesEndDescriptors
  refine ⟨fun s h e x rest hq hr hb => ⟨fun hwb => ?done, fun q t hd hwb hc => ?last⟩,
    fun s h e x rest ht hop hmem hrows => ⟨fun hhead => ?dry, fun ⟨t, hhead, hkind, hrow⟩ => ?bad⟩⟩
  case done =>
    have hdrain : ∀ q, x.dest e = some q → State.drain h e q 2048 s = s := fun q _ => drain_nil hwb
    rw [engineDescriptorComplete_completes hq hr hb (fun _ => rfl) hdrain hwb, completed_eq, hq]
    rfl
  case last =>
    have hdrain : ∀ q', x.dest e = some q' → State.drain h e q' 2048 s = _ := fun q' hq' => by
      obtain rfl := Option.some.inj (hd.symm.trans hq')
      exact drain_last hwb hc
    rw [engineDescriptorComplete_completes hq hr hb (fun hn => nomatch hd.symm.trans hn) hdrain ?_, completed_eq]
    · rw [enqueue_setCore, core_setCore, if_pos rfl, setCore_setCore, answer_stir_setCore, engine_setOutQ, engine_setEngine, if_pos rfl,
        outQ_setEngine, setOutQ_setEngine, setEngine_setEngine, hq]
      rfl
    · rw [enqueue_core, if_pos rfl, engine_setOutQ, core_setCore, if_pos rfl, engine_setEngine, if_pos rfl]
  case dry =>
    have hown := setTaken_own s h e
    have hdry : (s.setTaken h e).actRows h e (mdesc x) = .dry (s.setTaken h e) :=
      actRows_dry hmem (by rw [hown, engine_setEngine, if_pos rfl]; exact hrows) (by rw [hown]; exact hhead)
    refine (answer_onlyIf _ (taken_guard ht hop)).trans ?_
    rw [matrixStep_dry ht hop hdry]
    rfl
  case bad =>
    have hown := setTaken_own s h e
    have hengine : ((s.setTaken h e).core h).engine e = { (s.core h).engine e with taken := true } := by rw [hown, engine_setEngine, if_pos rfl]
    have hbad : (s.setTaken h e).actRows h e (mdesc x) = .bad (s.setTaken h e) :=
      actRows_bad hmem (by rw [hengine]; exact hrows) (by rw [hown]; exact hhead) hkind (by rw [hengine]; exact hrow)
    have hq : (((s.setTaken h e).core h).engine e).queue = x :: rest := by rw [hengine]; exact ht.2.1
    obtain ⟨hhalted, hqueue, -⟩ := descFault_core _ h e x rest hq
    refine ⟨_, answer_onlyIf _ (taken_guard ht hop), ?_⟩
    rw [matrixStep_bad ht hop hbad]
    exact ⟨hhalted, hqueue⟩

/-! ### The vector engine -/

section Vector

variable {s : State} {h : Nat} {d : VDesc} {x : EngDesc} {rest : List EngDesc}

/-- u is s but for the petals of hart h's core and for the free choices made. -/
structure OnlyDrawn (h : Nat) (s u : State) : Prop where
  rest : u = { s with cores := u.cores, free := u.free }
  others : ∀ k, k ≠ h → u.core k = s.core k
  own : ∃ p, u.core h = { s.core h with petals := p }

theorem afterDraw_onlyDrawn (s : State) (h : Nat) (d : VDesc) : OnlyDrawn h s (s.afterDraw h d) := by
  unfold State.afterDraw
  split
  · obtain ⟨hrest, hothers, hown⟩ := draw_onlyPetals s h 5
    exact ⟨rfl, hothers, hown⟩
  · exact ⟨rfl, fun _ _ => rfl, _, rfl⟩

theorem setTaken_pet (s : State) (h e : Nat) : ((s.setTaken h e).core h).pet = (s.core h).pet := by
  rw [setTaken_own]
  rfl

theorem afterDraw_pet {s u : State} (hpet : (u.core h).pet = (s.core h).pet) : ((u.afterDraw h d).core h).pet = ((s.afterDraw h d).core h).pet := by
  unfold State.afterDraw
  split
  · show ((u.setCore h _).core h).pet = ((s.setCore h _).core h).pet
    rw [core_setCore, if_pos rfl, core_setCore, if_pos rfl]
    unfold Core.drawUnit
    rw [hpet, pet_setPet, pet_setPet]
  · exact hpet

/-- Taking its descriptor up, a vector engine changes nothing of what the descriptor will yield. -/
theorem vecYield_setTaken : (s.setTaken h 4).vecYield h d = s.vecYield h d := by
  have hrows : (s.setTaken h 4).vecRows h d = s.vecRows h d := by
    unfold State.vecRows
    rw [setTaken_own, engine_setEngine, if_pos rfl]
    rfl
  unfold State.vecYield Core.drawUnit
  rw [hrows, setTaken_pet]
  rfl

theorem vecBytes_setTaken : vecBytes s h d = (s.vecYield h d).raw
    ++ (State.narrowAll h 5 d.otype d.stoch (s.vecYield h d).words ((s.setTaken h 4).afterDraw h d)).1 :=
  congrArg ((s.vecYield h d).raw ++ ·) (narrowAll_bytes_congr _ _ _ _ _ _ _ (afterDraw_pet (setTaken_pet s h 4))).1.symm

/-- The state in which a vector descriptor's results stand written, or wait. -/
def vecWritten (s : State) (h : Nat) (d : VDesc) : State := ((s.setTaken h 4).afterDraw h d).vecWrite h d (s.vecYield h d)

/-- With its rows at hand a vector descriptor runs to its end (R45, R69). -/
theorem vectorStep_runs (hq : ((s.core h).engine 4).queue = x :: rest) (hb : ((s.core h).engine 4).busy = false)
    (hrows : (vdesc x).sMem = true ∨ (vdesc x).aRows.1 ≤ ((s.core h).engine 4).rows.length) :
    s.vectorStep h = if (vdesc x).dMem then (vecWritten s h (vdesc x)).setBusy h 4
      else State.drain h 4 (vdesc x).dq 2048 ((vecWritten s h (vdesc x)).setBusy h 4) := by
  have hgather : (if (vdesc x).sMem then Gather.full (s.setTaken h 4)
      else State.gather h 4 (vdesc x).sq (vdesc x).aRows.2 (vdesc x).aRows.1 gatherFuel (s.setTaken h 4)) = .full (s.setTaken h 4) := by
    split
    · rfl
    · exact gather_full _ _ _ _ _ _ _ (by rw [setTaken_own, engine_setEngine, if_pos rfl]; exact hrows.resolve_left ‹_›)
  unfold State.vectorStep
  rw [hq]
  dsimp only
  rw [hb, hgather]
  dsimp only
  rw [vecYield_setTaken]
  rfl

/-- What a vector descriptor's results change before its engine has finished it. -/
structure VecWritten (s u : State) (h : Nat) (d : VDesc) : Prop where
  others : ∀ k, k ≠ h → u.core k = s.core k
  engines : ∀ i, i ≠ 4 → (u.core h).engine i = (s.core h).engine i
  queues : ∀ q, (u.core h).outQ q = (s.core h).outQ q
  inq : (u.core h).inq = (s.core h).inq
  queue : ((u.core h).engine 4).queue = ((s.core h).engine 4).queue
  wb : ((u.core h).engine 4).wb = ((s.core h).engine 4).wb ++ if d.dMem then []
    else rowTokens (if (s.vecYield h d).words = [] then 4 else otypeBytes d.otype) (s.epochOf (h / 32)) ((vecBytes s h d).length + 1) (vecBytes s h d)
  mem_queue : d.dMem = false → u.mem = s.mem
  mem_apart : d.dMem = true → ∀ b, b < nearBase h + d.dst ∨ nearBase h + d.dst + (vecBytes s h d).length ≤ b → memByte u.mem b = memByte s.mem b
  mem_plain : d.dMem = true → vecBytes s h d ≠ [] → plainAt s (nearBase h + d.dst) (vecBytes s h d).length →
    u.mem = memWrite s.mem (nearBase h + d.dst) (vecBytes s h d)

theorem vecWritten_spec (s : State) (h : Nat) (d : VDesc) : VecWritten s (vecWritten s h d) h d := by
  obtain ⟨hrest, hothers, p, hown⟩ := afterDraw_onlyDrawn (s.setTaken h 4) h d
  obtain ⟨wothers, wengines, wqueues, winq, wengine, wqueue, wmem⟩ := vecWrite_frame _ h d (s.vecYield h d) _ (vecBytes_setTaken (s := s) (h := h) (d := d))
  rw [show State.vecWrite _ h d (s.vecYield h d) = vecWritten s h d from rfl] at *
  generalize (s.setTaken h 4).afterDraw h d = v at *
  have hmem : v.mem = s.mem := by rw [hrest]; rfl
  have hepoch : v.epochOf (h / 32) = s.epochOf (h / 32) := by rw [hrest]; rfl
  have hplain : ∀ e, Plain s e → Plain v e := fun e he => by rw [hrest]; exact he
  rw [hown, setTaken_own] at wengines wqueues winq wengine
  rw [hepoch] at wengine
  rw [hmem] at wqueue wmem
  refine ⟨fun k hk => ?_, fun i hi => ?_, wqueues, winq, ?_, ?_, wqueue, fun hd => (wmem hd).1, fun hd hne hp => (wmem hd).2 hne fun e he => hplain e (hp e he)⟩
  · rw [wothers k hk, hothers k hk, setTaken_core, if_neg hk.symm]
  · exact (wengines i hi).trans ((engine_setEngine ..).trans (if_neg hi.symm))
  · rw [wengine]
    show ((((s.core h).setEngine 4 _).engine 4)).queue = _
    rw [engine_setEngine, if_pos rfl]
  · rw [wengine]
    show ((((s.core h).setEngine 4 _).engine 4)).wb ++ _ = _
    rw [engine_setEngine, if_pos rfl]

/-- The end of a vector descriptor whose results are written in u. -/
def vecFinished (u : State) (h : Nat) (d : VDesc) : State := if d.dMem then u.setBusy h 4 else State.drain h 4 d.dq 2048 (u.setBusy h 4)

theorem vecFinished_drained (u : State) (h : Nat) (d : VDesc) : Drained h 4 d.dq (u.setBusy h 4) (vecFinished u h d) := by
  unfold vecFinished
  split
  · exact .self ..
  · exact drain_drained ..

theorem setBusy_own (u : State) (h e : Nat) :
    (u.setBusy h e).core h = (u.core h).setEngine e { (u.core h).engine e with taken := true, busy := true, rows := [], row := [] } := by
  rw [setBusy_core, if_pos rfl]

theorem vec_exec_runs {e : (Nat → Instr) × Nat} (he : e ∈ vectorTable) (hq : ((s.core h).engine 4).queue = x :: rest) (hr : s.engineRuns h = true)
    (hb : ((s.core h).engine 4).busy = false) (hop : (vdesc x).op = e.2)
    (hrows : (vdesc x).sMem = true ∨ (vdesc x).aRows.1 ≤ ((s.core h).engine 4).rows.length) :
    exec (e.1 h) s = answer s (vecFinished (vecWritten s h (vdesc x)) h (vdesc x)) := by
  have hhead : s.vecHeadIs h e.2 = true := by
    unfold State.vecHeadIs
    rw [hq]
    exact beq_iff_eq.mpr hop
  rw [vec_exec e he, State.vecRow, answer_onlyIf _ (by rw [hr, hhead]; rfl), vectorStep_runs hq hb hrows]
  rfl

end Vector

/-- The words that the elementwise operations yield (R63). -/
theorem vecRun_elementwise (d : VDesc) (rows : List Bytes) (bb cb : Bytes) (u free : Nat) :
    let a := elemsOf d.itype d.len (rows.headD [])
    let b := elemsOf d.itype d.len bb
    let c := elemsOf d.itype d.len cb
    (d.op = 0x01 → (vecRun d rows bb cb u free).words = List.zipWith fadd a b)
    ∧ (d.op = 0x02 → (vecRun d rows bb cb u free).words = List.zipWith fmul a b)
    ∧ (d.op = 0x03 → (vecRun d rows bb cb u free).words = zip3 ffma a b c)
    ∧ (d.op = 0x06 → (vecRun d rows bb cb u free).words = a.map fun x => ffma x d.imm0 d.imm1)
    ∧ (d.op = 0x07 → (vecRun d rows bb cb u free).words = a) := by
  intro a b c
  unfold vecRun
  refine ⟨fun h => ?_, fun h => ?_, fun h => ?_, fun h => ?_, fun h => ?_⟩ <;> rw [h]
  case refine_5 => exact List.map_id' a
  all_goals rfl

/-- SMAX_FINAL of a sum of zero yields zeros (R66). -/
theorem vecRun_smaxFinal_zero {d : VDesc} {rows : List Bytes} {bb cb : Bytes} {u free : Nat} (hop : d.op = 0x31)
    (hz : (fpOfWord (BitVec.ofNat 32 (fld bb 0 4))).isZero = true) :
    (vecRun d rows bb cb u free).words = (elemsOf d.itype d.len (rows.headD [])).map fun _ => 0 := by
  unfold vecRun
  rw [hop]
  dsimp only
  rw [if_pos hz]
  rfl

/-- SAMPLE at temperature 0 yields the index of the first pair (R68). -/
theorem vecRun_sample_zero {d : VDesc} {rows : List Bytes} {bb cb : Bytes} {u free : Nat} (hop : d.op = 0x43) (hz : (fpOfWord d.imm0).isZero = true) :
    (vecRun d rows bb cb u free).raw = u32 ((pairsOf d.len (rows.headD [])).headD (0, 0)).2 := by
  unfold vecRun
  rw [hop]
  dsimp only
  rw [samplePair, if_pos hz]
  rfl

/-- Settles O20: what the descriptor yields is written, its engine is busy no more than by its results, and these drain in order. -/
theorem vectorOperations : Obligations.VectorOperations := by
  unfold Obligations.VectorOperations
  refine ⟨fun e he s h x rest hq hr hb hop hrows => ?runs, fun d rows bb cb u free => ?yields⟩
  case yields =>
    obtain ⟨hadd, hmul, hfma, haffine, hcast⟩ := vecRun_elementwise d rows bb cb u free
    exact ⟨hadd, hmul, hfma, haffine, hcast, vecRun_smaxFinal_zero, vecRun_sample_zero⟩
  case runs =>
    refine ⟨_, vec_exec_runs he hq hr hb hop hrows, ?_⟩
    have hw := vecWritten_spec s h (vdesc x)
    have hwb := hw.wb
    generalize vdesc x = d at *
    generalize vecWritten s h d = w at *
    have hd := vecFinished_drained w h d
    have hmem : (vecFinished w h d).mem = w.mem := by rw [hd.rest]; rfl
    have hengine := hd.engine
    have horder := hd.order
    rw [setBusy_own, engine_setEngine, if_pos rfl] at hengine horder
    simp only [keeping_at_core, keeping_mem]
    refine ⟨?_, by rw [hengine], by rw [hengine], fun i hi => ?_, ?_, fun k hk => ?_, fun hmemory => ?_, fun hqueue => ?_⟩
    · rw [hengine]
      exact hw.queue.trans hq
    · rw [hd.engines i hi, setBusy_own, engine_setEngine, if_neg hi.symm, hw.engines i hi]
    · rw [hd.inq, setBusy_own]
      exact hw.inq
    · rw [hd.others k hk, setBusy_core, if_neg hk.symm, hw.others k hk]
    · rw [hmem]
      rw [hmemory, if_pos rfl, List.append_nil] at hwb
      have hbusy : vecFinished w h d = w.setBusy h 4 := if_pos hmemory
      refine ⟨fun q => ?_, ?_, hw.mem_apart hmemory, hw.mem_plain hmemory⟩
      · rw [hbusy, setBusy_outQ, hw.queues]
      · rw [hbusy, setBusy_own, engine_setEngine, if_pos rfl]
        exact hwb
    · rw [hqueue, if_neg (by simp)] at hwb
      refine ⟨hmem.trans (hw.mem_queue hqueue), fun q hne => ?_, ?_⟩
      · rw [hd.queues q hne, setBusy_outQ, hw.queues]
      · rw [horder]
        show (((w.core h).outQ d.dq)).tokens ++ ((w.core h).engine 4).wb = _
        rw [hw.queues, hwb, List.append_assoc]

/-! ### Core faults and SECDED errors -/

section Faults

variable {s : State} {c p : Nat} {q : Part}

/-- The partition as a change leaves it. -/
theorem modPart_some (hq : s.part p = some q) (f : Part → Part) : s.modPart p f = s.setPart p (f q) := by
  unfold State.modPart
  rw [hq]

/-- A command that changes the partition alone. -/
theorem answer_modPart (hq : s.part p = some q) (f : Part → Part) : answer s (s.modPart p f) = .next (s.setPart p (f q)) := by
  rw [modPart_some hq]
  rfl

/-- A fault of a core that its partition has no stand-in for yet: its bit and pc are noted, and the partition is to freeze (R79, R80). -/
theorem coreFault_some {h b : Nat} (hp : s.partOf (h / 32) = some p) (hq : s.part p = some q) (hst : q.standing = []) (hf : q.freeze = .no) :
    s.coreFault h (some b) = ((s.setField (s.coreReg h 8) b 1 1).setReg (s.coreReg h 0xC) (BitVec.ofNat 32 (s.core h).pc)).setPart p
      { q with freezeDue := .standIn, freezeLate := false, standing := [(h, 0)], standAt := s.now, standBit := b } := by
  have hp' : ((s.setField (s.coreReg h 8) b 1 1).setReg (s.coreReg h 8 + 4) (BitVec.ofNat 32 (s.core h).pc)).partOf (h / 32) = some p := hp
  have hq' : ((s.setField (s.coreReg h 8) b 1 1).setReg (s.coreReg h 8 + 4) (BitVec.ofNat 32 (s.core h).pc)).part p = some q := hq
  unfold State.coreFault
  simp only [hp', Option.isNone_some, Bool.false_eq_true, if_false, modPart_some hq', hst, List.any_nil, decide_true, if_true, List.nil_append, Part.due, hf]
  rfl

theorem replayDue_frees (hp : s.partOf c = some p) (hq : s.part p = some q) (hf : q.freeze = .no) :
    s.replayDue c = s.setPart p { q with freezeDue := .repair, freezeLate := false } := by
  unfold State.replayDue
  rw [hp]
  dsimp only
  rw [modPart_some hq, Part.due, if_pos hf]

theorem answer_onlyRegs {t : State} (ht : OnlyRegs s t) : answer s t = .next t :=
  answer_eq _ _ (by rw [ht]) (by rw [ht]) (by rw [ht])

theorem bits_lt (v lo w : Nat) : bits v lo w < 2 ^ w := Nat.mod_lt _ (Nat.two_pow_pos w)

/-- A page-table entry after an uncorrectable error: invalid, poisoned, its owner kept (R217). -/
def poisonedEntry (e : BitVec 64) : BitVec 64 := BitVec.ofNat 64 (bits e.toNat 1 7 * 2 + 2 ^ 45 + 2 ^ 61)

theorem pageError_onlyEvents (s : State) (n page : Nat) :
    OnlyEvents (s.setStack n { s.stack n with pte := tset 0x2000000000000000 (s.stack n).pte page (poisonedEntry (tget 0x2000000000000000 (s.stack n).pte page)) })
      (s.pageError n page) := record_onlyEvents ..

theorem onlyEvents_stack {t : State} (ht : OnlyEvents s t) (n : Nat) : t.stack n = s.stack n := by
  rw [ht]
  rfl

theorem pageError_entry (s : State) (n page : Nat) :
    tget 0x2000000000000000 ((s.pageError n page).stack n).pte page = poisonedEntry (tget 0x2000000000000000 (s.stack n).pte page) := by
  rw [onlyEvents_stack (pageError_onlyEvents s n page), stack_setStack, if_pos rfl, tget_tset, if_pos rfl]

end Faults

/-- Settles O22: each row's response, unfolded where the command meets it. -/
theorem coreErrors : Obligations.CoreErrors := by
  unfold Obligations.CoreErrors
  refine ⟨fun s c k i p q e he hk hp hq hst hf hrun hhalt hwait hyield hbusy => ?fault, fun s c k i =>
    ⟨fun p q w hw hp hq hf => ?replayed, fun hc => ?cache, ?directory, ?page, fun w hw => ?core, fun w hw => ?cluster⟩⟩
  case fault =>
    have hp' : s.partOf ((c * 32 + k) / 32) = some p := by rwa [show (c * 32 + k) / 32 = c by omega]
    have hfault : ∀ b, answer s (s.coreFault (c * 32 + k) (some b)) = .next (((s.setField (s.coreReg (c * 32 + k) 8) b 1 1).setReg
        (s.coreReg (c * 32 + k) 0xC) (BitVec.ofNat 32 (s.core (c * 32 + k)).pc)).setPart p
          { q with freezeDue := .standIn, freezeLate := false, standing := [(c * 32 + k, 0)], standAt := s.now, standBit := b }) :=
      fun b => congrArg (answer s) (coreFault_some hp' hq hst hf)
    simp only [coreFaults, List.mem_cons, List.not_mem_nil, or_false] at he
    rcases he with rfl | rfl | rfl | rfl | rfl
    · exact hfault 4
    · exact (answer_onlyIf _ (by simp [hrun, hhalt, hwait, hyield, hbusy])).trans (hfault 5)
    · exact hfault 6
    · exact hfault 4
    · exact hfault 6
  case replayed =>
    rcases hw with rfl | rfl <;> exact congrArg (answer s) (replayDue_frees hp hq hf)
  case cache =>
    have hinval : s.invalidateCache c = (s.setClu c { s.clu c with cache := [] }).count (s.cluReg c 0x928) 1 := if_pos hc
    refine (congrArg (answer s) hinval).trans (answer_eq _ _ ?_ ?_ ?_) <;> rw [count_onlyRegs (s.setClu c _)] <;> rfl
  case directory =>
    refine ⟨_, rfl, ?_, fun j hj => ?_, rfl⟩
    · rw [keeping_at_clu, clu_setClu, if_pos rfl]
      exact List.mem_cons_self
    · rw [keeping_at_clu, clu_setClu, if_neg hj.symm]
  case page =>
    have hevents := pageError_onlyEvents s c i
    obtain ⟨hvalid, hpoison⟩ := poison_bits _ (bits_lt (tget 0x2000000000000000 (s.stack c).pte i).toNat 1 7)
    refine ⟨_, rfl, ?_, ?_, hevents.mem.trans (setStack_mem ..), hevents.cores.trans (setStack_cores ..)⟩
    · rw [keeping_at_stack, pageError_entry]
      exact hvalid
    · rw [keeping_at_stack, pageError_entry]
      exact hpoison
  case core =>
    rcases hw with rfl | rfl | rfl <;> exact answer_onlyRegs (count_onlyRegs _ _ _)
  case cluster =>
    rcases hw with rfl | rfl | rfl | rfl | rfl <;> exact answer_onlyRegs (count_onlyRegs _ _ _)

/-! ### The stand-in of a core -/

section StandIn

variable {s : State} {h n p : Nat} {q : Part}

theorem atStage_shedding (f : Nat → Part → State) (hs : s.shedding = true) : s.atStage h n f = s := by
  unfold State.atStage
  split
  · rfl
  · split
    · rfl
    · exact if_pos (.inr (.inr (.inr hs)))

/-- At its stage, in a frozen partition of a panel that sheds nothing, a stand-in goes on (R80, R379). -/
theorem atStage_runs (hp : s.partOf (h / 32) = some p) (hq : s.part p = some q) (hf : q.freeze ≠ .no) (hr : q.freeze ≠ .reset)
    (hs : s.shedding = false) (hstage : q.stage h = some n) (f : Nat → Part → State) : s.atStage h n f = f p q := by
  unfold State.atStage
  rw [hp]
  dsimp only
  rw [hq]
  exact if_neg (by simp [hf, hr, hstage, hs])

theorem standIn_runs {c k : Nat} {u : State} (hat : ∀ f, s.atStage (c * 32 + k) 0 f = f p q) (htake : s.takeSpare (c * 32 + k) = (u, true)) (hq : u.part p = some q) :
    exec (.standIn c k) s = answer s (u.setPart p (q.setStage (c * 32 + k) 1)) := by
  refine congrArg (answer s) ((hat _).trans ?_)
  rw [htake]
  exact modPart_some hq _

/-- What stands restored of a core at the second stage of its stand-in (R80). -/
def petalsRestored (s : State) (c k : Nat) : Core :=
  { s.core (c * 32 + k) with
    imem := byteTbl ((s.backupPart c k 0).getD (s.imagePart c k 0)),
    petals := (List.range 8).filterMap fun n =>
      let v := (petalOf ((s.backupPart c k (n + 1)).getD (s.imagePart c k (n + 1)))).restoredFrom (tget {} (s.core (c * 32 + k)).petals n)
      if v = {} then none else some (n, v),
    eng := [], running := false, halted := false, yielded := false, wait := none, switchTo := none }

theorem standInPetalsRestored_runs {c k : Nat} (hat : ∀ f, s.atStage (c * 32 + k) 1 f = f p q) (hq : s.part p = some q) :
    exec (.standInPetalsRestored c k) s = .next ((s.setCore (c * 32 + k) (petalsRestored s c k)).setPart p (q.setStage (c * 32 + k) 2)) := by
  refine (congrArg (answer s) ((hat _).trans (modPart_some (s := s.setCore _ (petalsRestored s c k)) hq _))).trans ?_
  rfl

/-- The last stage of a stand-in whose near store stands in w: the core leaves its stand-in duty (R80). -/
def nearStoreRestored (w : State) (h p : Nat) : State :=
  (w.setPhys (w.physOf h) { w.physCore (w.physOf h) with duty := 0 }).modPart p fun q => q.setStage h 3

theorem exec_standInNearStoreRestored (s : State) (c k : Nat) : exec (.standInNearStoreRestored c k true) s
    = answer s (s.atStage (c * 32 + k) 2 fun p _ => nearStoreRestored (s.ownMove c 7 0x40000) (c * 32 + k) p) := by
  show answer s (s.atStage _ _ _) = _
  rfl

theorem answer_nearStoreRestored {u : State} (hu : Same3 s u) (hkeeps : u.pending = s.pending ∧ u.now = s.now ∧ u.hw = s.hw) (hq : s.part p = some q) :
    answer s (nearStoreRestored u h p) = .next ((u.setPhys (u.physOf h) { u.physCore (u.physOf h) with duty := 0 }).setPart p (q.setStage h 3)) := by
  obtain ⟨hparts, -, -⟩ := hu
  obtain ⟨hpending, hnow, hhw⟩ := hkeeps
  have hu : u.part p = some q := by
    unfold State.part
    rw [hparts]
    exact hq
  unfold nearStoreRestored
  rw [modPart_some (s := u.setPhys _ _) hu]
  exact answer_eq _ _ hpending hnow hhw

theorem standInNearStoreRestored_runs {c k : Nat} (hat : ∀ f, s.atStage (c * 32 + k) 2 f = f p q) (hq : s.part p = some q) :
    let u := s.ownMove c 7 0x40000
    exec (.standInNearStoreRestored c k true) s = .next ((u.setPhys (u.physOf (c * 32 + k)) { u.physCore (u.physOf (c * 32 + k)) with duty := 0 }).setPart p
      (q.setStage (c * 32 + k) 3)) := by
  rw [exec_standInNearStoreRestored, hat]
  exact answer_nearStoreRestored (ownMove_same _ _ _ _ _ ⟨rfl, rfl, rfl⟩) (ownMove_keeps ..) hq

end StandIn

section Freeze

variable {s : State} {p : Nat} {q : Part}

/-- The partition's step runs: there is one, and it is released. -/
def stepRuns (q : Part) : Bool := q.step.any (·.released)

theorem stepRuns_eq {runs : Bool} (hnone : q.step = none → runs = false) (hsome : ∀ st, q.step = some st → runs = st.released) : runs = stepRuns q := by
  unfold stepRuns
  cases hstep : q.step with
  | none => exact hnone hstep
  | some st => exact hsome st hstep

theorem partitionFrozen_eq (hq : s.part p = some q) : exec (.partitionFrozen p) s = .next (s.setPart p
    (if q.freezeDue = .no ∨ q.freeze ≠ .no ∨ (q.freezeLate && stepRuns q) then q
     else { q with freeze := q.freezeDue, freezeDue := .no, freezeLate := false, discardDue := q.discardDue || stepRuns q })) := by
  refine (answer_modPart hq _).trans ?_
  unfold stepRuns
  cases q.step <;> rfl

/-- With nothing to repair, the records' repair leaves the partition as it is (R180). -/
theorem repairRecords_none (hq : s.part p = some q) (hr : q.repairRec = []) : s.repairRecords p = s.setPart p q := by
  have hself : { q with repairRec := [] } = q := by rw [← hr]
  unfold State.repairRecords
  rw [hq]
  dsimp only
  rw [hr, List.foldl_nil, modPart_some hq, hself]

theorem replayRelease_runs (hq : s.part p = some q) (hf : q.freeze ≠ .no) (hr : q.freeze ≠ .reset) (hw : q.rateWait = false) (hd : s.restored p q = true)
    (hn : q.repairRec = []) : exec (.replayRelease p) s = answer s (if stepRuns q && s.rateLimited p
      then (s.setPart p q).modPart p fun q => { q with rateWait := true } else (s.setPart p q).replay p) := by
  refine congrArg (answer s) ?_
  rw [hq]
  dsimp only
  rw [if_neg (by simp [hf, hr, hw, hd]), repairRecords_none hq hn]
  unfold stepRuns
  cases q.step <;> rfl

/-- A replay of a partition without a step ends its freeze (R147). -/
theorem replay_stepless (hq : s.part p = some q) (hs : q.step = none) :
    s.replay p = (s.freezeDone p).setPart p { q with freeze := .no, rateWait := false, standing := [] } := by
  unfold State.replay
  rw [hq]
  dsimp only
  split
  · exact modPart_some (freezeDone_spec s p q hq).1 _
  · exact absurd hs (Option.ne_none_iff_exists'.mpr ⟨_, ‹_›⟩)

theorem part_setPart_self (s : State) (p : Nat) (q : Part) : (s.setPart p q).part p = some q := (part_setPart ..).trans (if_pos rfl)

end Freeze

/-- Settles O23: each phase is one change of state behind its guard; a panel that sheds lets none of them begin. -/
theorem freezesAndStandIns : Obligations.FreezesAndStandIns := by
  unfold Obligations.FreezesAndStandIns
  refine ⟨fun s p q hq hdue hfree runs hnone hsome => ?frozen, fun s c k p q hk hp hq hf hr => ?standIn,
    fun s p q hq hf hr hw hd hn => ?release⟩
  case frozen =>
    obtain rfl := stepRuns_eq hnone hsome
    rw [partitionFrozen_eq hq]
    refine ⟨fun hlate => ?_, fun hlate => ?_⟩
    · rw [if_neg (by simp [hdue, hfree, hlate])]
    · rw [if_pos (.inr (.inr hlate))]
  case standIn =>
    have hp' : s.partOf ((c * 32 + k) / 32) = some p := by rwa [show (c * 32 + k) / 32 = c by omega]
    refine ⟨fun hs => ⟨?_, ?_, fun a => ?_⟩, fun pk rest hs hstage hspares hlen => ?spare, fun hs hstage => ?petals, fun hs hstage => ?nearStore⟩
    · exact (congrArg (answer s) (atStage_shedding _ hs)).trans (answer_self s)
    · exact (congrArg (answer s) (atStage_shedding _ hs)).trans (answer_self s)
    · exact (congrArg (answer s) (atStage_shedding _ hs)).trans (answer_self s)
    case spare =>
      obtain ⟨htaken, hphys, htiles, hduty, hparts, hcores, hmem⟩ := takeSpare_spec s c k pk rest hk hspares hlen
      have hq' : (s.takeSpare (c * 32 + k)).1.part p = some q := by
        unfold State.part
        rw [hparts]
        exact hq
      have hpair : s.takeSpare (c * 32 + k) = ((s.takeSpare (c * 32 + k)).1, true) := Prod.ext rfl htaken
      refine ⟨_, standIn_runs (atStage_runs hp' hq hf hr hs hstage) hpair hq', hphys, htiles, hduty, ?_, hcores, hmem⟩
      rw [keeping_at_part, part_setPart_self]
    case petals =>
      refine ⟨_, standInPetalsRestored_runs (atStage_runs hp' hq hf hr hs hstage) hq, ?_⟩
      have hcore : ∀ j, (((s.setCore (c * 32 + k) (petalsRestored s c k)).setPart p (q.setStage (c * 32 + k) 2)).core j)
          = if c * 32 + k = j then petalsRestored s c k else s.core j := fun j => core_setCore s _ j _
      rw [hcore, if_pos rfl, part_setPart_self]
      exact ⟨rfl, rfl, rfl, rfl, rfl, fun j hj => (hcore j).trans (if_neg hj.symm), rfl, rfl⟩
    case nearStore => exact standInNearStoreRestored_runs (atStage_runs hp' hq hf hr hs hstage) hq
  case release =>
    rw [replayRelease_runs hq hf hr hw hd hn]
    refine ⟨fun hs => ?_, fun st hs hreleased hlimited => ?_⟩
    · have hidle : stepRuns q = false := by rw [stepRuns, hs]; rfl
      obtain ⟨-, hcores, hmem⟩ := freezeDone_spec (s.setPart p q) p q (part_setPart_self s p q)
      rw [hidle, Bool.false_and, if_neg (by simp), replay_stepless (part_setPart_self s p q) hs]
      refine ⟨_, rfl, ?_, hcores, hmem⟩
      rw [keeping_at_part, part_setPart_self]
    · have hruns : stepRuns q = true := by rw [stepRuns, hs]; exact hreleased
      rw [hruns, hlimited, Bool.and_self, if_pos rfl, modPart_some (part_setPart_self s p q)]
      rfl

/-! ### Cores that change place -/

section Rotation

variable {s : State} {c k spare p : Nat} {q : Part}

theorem duty_setPhys (s : State) (i j : Nat) (x : Phys) : ((s.setPhys i x).physCore j).duty = if i = j then x.duty else (s.physCore j).duty := by
  rw [phys_setPhys]
  exact apply_ite Phys.duty ..

/-- u is s but for its physical cores, whose duties are s's. -/
def DutiesStand (s u : State) : Prop := u = { s with phys := u.phys } ∧ ∀ j, (u.physCore j).duty = (s.physCore j).duty

theorem DutiesStand.setPhys {u : State} (hu : DutiesStand s u) (j : Nat) (x : Phys) (hx : x.duty = (u.physCore j).duty) : DutiesStand s (u.setPhys j x) := by
  obtain ⟨hrest, hduty⟩ := hu
  refine ⟨by rw [hrest]; rfl, fun i => ?_⟩
  rw [phys_setPhys]
  split
  · subst i
    rw [hx, hduty]
  · exact hduty i

/-- The maps with the core moved: the core map names the spare, and the two physical cores trade duties (R82, R83). -/
def traded (s : State) (c k spare : Nat) : State :=
  let u := s.setClu c { s.clu c with coreMap := (s.clu c).coreMap.set k spare }
  let v := u.setPhys (s.physIn c spare) { u.physCore (s.physIn c spare) with duty := 0 }
  v.setPhys (s.physOf (c * 32 + k)) { v.physCore (s.physOf (c * 32 + k)) with duty := 2 }

theorem traded_duty (s : State) (c k spare j : Nat) : ((traded s c k spare).physCore j).duty
    = if s.physOf (c * 32 + k) = j then 2 else if s.physIn c spare = j then 0 else (s.physCore j).duty := by
  unfold traded
  rw [duty_setPhys, duty_setPhys]
  rfl

theorem traded_rest (s : State) (c k spare : Nat) :
    traded s c k spare = { s with clusters := (traded s c k spare).clusters, phys := (traded s c k spare).phys } := by
  unfold traded State.setPhys State.setClu
  rfl

theorem traded_coreMap (s : State) (c k spare : Nat) : ((traded s c k spare).clu c).coreMap = (s.clu c).coreMap.set k spare :=
  congrArg Cluster.coreMap ((clu_setClu ..).trans (if_pos rfl))

/-- A new interval of engine activity begins for core n of cluster c (R82). -/
def intervalBegun (c : Nat) (s : State) (n : Nat) : State := s.setPhys (s.physIn c n) { s.physCore (s.physIn c n) with busyAt := s.engBusy (s.physIn c n) }

theorem intervalsBegun_stand (c : Nat) (l : List Nat) (s : State) : DutiesStand s (l.foldl (intervalBegun c) s) :=
  foldl_keep (intervalBegun c) (DutiesStand s) (fun u n hu => hu.setPhys (u.physIn c n) { u.physCore (u.physIn c n) with busyAt := u.engBusy (u.physIn c n) } rfl) l s
    ⟨rfl, fun _ => rfl⟩

theorem rotateMaps_eq (s : State) (c k spare : Nat) : s.rotateMaps c k spare = (List.range 34).foldl (intervalBegun c) (traded s c k spare) := by
  unfold State.rotateMaps traded
  rfl

/-- A rotation's maps, but for what a new interval of engine activity notes. -/
theorem rotateMaps_stand (s : State) (c k spare : Nat) : DutiesStand (traded s c k spare) (s.rotateMaps c k spare) := by
  rw [rotateMaps_eq]
  exact intervalsBegun_stand ..

theorem draw_onlyRegs {u : State} (hu : OnlyRegs s u) : u.draw = { s with regs := u.regs, free := s.free + 1 } := by
  rw [hu]
  rfl

theorem clu_congr {u : State} (hu : u.clusters = s.clusters) (c : Nat) : u.clu c = s.clu c := by
  unfold State.clu
  rw [hu]

theorem cluReg_congr {u : State} (hu : u.sparing = s.sparing) (c o : Nat) : u.cluReg c o = s.cluReg c o := by
  unfold State.cluReg State.blk State.dieSite State.unassigned
  rw [hu]

/-- The registers of a channel and of a byte count, written: what else stands. -/
theorem moveCounted (s : State) (a b v n : Nat) :
    let u := (((s.setField a 6 8 v).setField a 14 8 stOk).count64 b n).draw
    u.phys = s.phys ∧ u.clusters = s.clusters ∧ ∀ r, r ≠ a → r ≠ b → r ≠ b + 4 → u.reg r = s.reg r := by
  have hcount := (setField_onlyRegs s a 6 8 v).trans ((setField_onlyRegs _ a 14 8 stOk).trans (count64_onlyRegs _ b n))
  refine ⟨by rw [draw_onlyRegs hcount], by rw [draw_onlyRegs hcount], fun r ha hb hb4 => ?_⟩
  refine (count64_apart _ b n r hb.symm hb4.symm).trans ?_
  rw [reg_setField_ne _ _ _ _ _ _ ha.symm, reg_setField_ne _ _ _ _ _ _ ha.symm]

/-- A cluster's own bulk move on channel 7 or 15 writes the registers of its channels and byte counts alone, and moves no core (R83). -/
theorem ownMove_places (s : State) (c n : Nat) :
    (s.ownMove c 7 n).phys = s.phys ∧ ((s.ownMove c 7 n).clu c).coreMap = (s.clu c).coreMap
      ∧ ∀ b, (∀ o, 0x948 ≤ o → o < 0xB00 → b ≠ s.cluReg c o) → (s.ownMove c 7 n).reg b = s.reg b := by
  unfold State.ownMove
  dsimp only
  generalize hch : 7 + Config.pick s.free 0 % 2 * 8 = ch
  obtain ⟨hphys, hclusters, hregs⟩ := moveCounted (s.setClu c ((s.clu c).setChan ch { (s.clu c).chan ch with
    done := ((s.clu c).chan ch).done + BitVec.ofNat 32 (Config.pick s.free 1 + 1) })) (s.cluReg c (0xA00 + ch * 16))
    (s.cluReg c (if ch < 8 then 0x948 else 0x950)) (Config.pick s.free 2) n
  refine ⟨hphys, ?_, fun b hb => hregs b (hb _ (by omega) (by omega)) (hb _ (by split <;> omega) (by split <;> omega)) ?_⟩
  · refine (congrArg Cluster.coreMap (clu_congr hclusters c)).trans ?_
    rw [clu_setClu, if_pos rfl]
    rfl
  · exact hb (_ + 4) (by split <;> omega) (by split <;> omega)

/-- u is s with logical core k of cluster c on a spare and its old physical core idle: partitions, memory and cores stand, and of the
registers all but those of the cluster's channels and byte counts (R82, R83). -/
structure Rotated (s u : State) (c k spare : Nat) : Prop where
  same : Same3 s u
  coreMap : (u.clu c).coreMap = (s.clu c).coreMap.set k spare
  duty : ∀ j, (u.physCore j).duty = if s.physOf (c * 32 + k) = j then 2 else if s.physIn c spare = j then 0 else (s.physCore j).duty
  regs : ∀ b, (∀ o, 0x948 ≤ o → o < 0xB00 → b ≠ s.cluReg c o) → u.reg b = s.reg b

theorem rotateOnto_rotated (s : State) (c k spare : Nat) : Rotated s (s.rotateOnto c k spare) c k spare := by
  obtain ⟨hrest, hduty⟩ := rotateMaps_stand s c k spare
  rw [traded_rest] at hrest
  unfold State.rotateOnto
  generalize s.rotateMaps c k spare = w at *
  have hmaps : Same3 s w := by rw [hrest]; exact ⟨rfl, rfl, rfl⟩
  have hclusters : w.clusters = (traded s c k spare).clusters := by rw [hrest]
  have hsparing : w.sparing = s.sparing := by rw [hrest]
  have hreg : ∀ b, w.reg b = s.reg b := fun b => by rw [hrest]; rfl
  have hsame := ownMove_same s w c 7 0x44000 hmaps
  obtain ⟨hphys, hmap, hregs⟩ := ownMove_places w c 0x44000
  generalize w.ownMove c 7 0x44000 = u at *
  refine ⟨hsame, ?_, fun j => ?_, fun b hb => ?_⟩
  · rw [hmap, clu_congr hclusters, traded_coreMap]
  · rw [physCore_congr hphys, hduty, traded_duty]
  · exact (hregs b fun o h1 h2 => by rw [cluReg_congr hsparing]; exact hb o h1 h2).trans (hreg b)

theorem rotation_runs (hp : s.partOf c = some p) (hq : s.part p = some q) (hmay : s.mayRotate q c k spare = true) :
    exec (.rotation c k spare) s = answer s ((s.rotateOnto c k spare).setPart p { q with rotated := c :: q.rotated }) := by
  obtain ⟨hparts, -, -⟩ := (rotateOnto_rotated s c k spare).same
  have hq' : (s.rotateOnto c k spare).part p = some q := by
    unfold State.part
    rw [hparts]
    exact hq
  refine congrArg (answer s) ?_
  rw [hp]
  dsimp only
  rw [hq]
  dsimp only
  rw [if_pos hmay]
  exact modPart_some hq' _

theorem Rotated.answers {u : State} (hu : Rotated s u c k spare) (q : Part) : ∃ t, answer s (u.setPart p q) = .next t
    ∧ (t.clu c).coreMap = (s.clu c).coreMap.set k spare ∧ (s.physOf (c * 32 + k) ≠ s.physIn c spare → (t.physCore (s.physIn c spare)).duty = 0)
    ∧ (t.physCore (s.physOf (c * 32 + k))).duty = 2 ∧ t.part p = some q ∧ t.cores = s.cores ∧ t.mem = s.mem
    ∧ ∀ b, (∀ o, 0x948 ≤ o → o < 0xB00 → b ≠ s.cluReg c o) → t.reg b = s.reg b := by
  obtain ⟨-, hmem, hcores⟩ := hu.same
  refine ⟨_, rfl, hu.coreMap, fun hne => ?_, ?_, part_setPart_self u p q, hcores, hmem, hu.regs⟩
  · exact (hu.duty _).trans ((if_neg hne).trans (if_pos rfl))
  · exact (hu.duty _).trans (if_pos rfl)

end Rotation

section Replacement

variable {s : State} {c n p : Nat} {q : Part}

/-- A core blamed three times whose partition stands still is replaced: a logical core by a stand-in, a spare for good (R78). -/
theorem shadowBlameReplace_runs (hblame : 3 ≤ s.blameCount (s.physIn c n)) (hin : (s.physCore (s.physIn c n)).retired = false) (hp : s.partOf c = some p)
    (hq : s.part p = some q) (hf : q.freeze = .no) (hs : q.step = none) :
    (∀ h, s.hartOf (s.physIn c n) = some h → exec (.shadowBlameReplace c n) s = answer s (s.coreFault h none))
      ∧ (s.hartOf (s.physIn c n) = none → exec (.shadowBlameReplace c n) s = answer s ((s.dropTiles c (s.physIn c n)).retireCore (s.physIn c n) 5)) := by
  refine ⟨fun h hh => congrArg (answer s) ?_, fun hh => congrArg (answer s) ?_⟩
  all_goals
    rw [hp]
    dsimp only
    rw [hq]
    refine (if_neg (by simp [hblame, hin, hf, hs])).trans ?_
    rw [hh]

/-- A core retired for good holds no tile. -/
theorem retireCore_spec (s : State) (pk cause : Nat) : (s.retireCore pk cause).physCore pk = { s.physCore pk with retired := true, duty := 0, tiles := [], tie := none }
    ∧ (s.retireCore pk cause).parts = s.parts ∧ (s.retireCore pk cause).cores = s.cores ∧ (s.retireCore pk cause).mem = s.mem := by
  obtain ⟨hphys, hparts, hcores, hmem⟩ := addDefect_spec (s.setPhys pk { s.physCore pk with retired := true, duty := 0, tiles := [], tie := none }) 1 cause
    kCore (pk / 34 / 4) (pk / 34 % 4 * 34 + pk % 34) 0
  refine ⟨?_, hparts, hcores, hmem⟩
  exact (physCore_congr hphys pk).trans ((phys_setPhys ..).trans (if_pos rfl))

end Replacement

/-- Settles O24: the maps trade the two cores and the copy moves no core; a replaced core's fault or retirement is its whole effect. -/
theorem coresChangePlace : Obligations.CoresChangePlace := by
  unfold Obligations.CoresChangePlace
  refine ⟨fun s c k spare p q hp hq hk hspare hrotate hs hf hdue hst hnot hreset hduty hin hfree hboundary hbusiest => ?rotation,
    fun s c n p q hblame hin hp hq hf hs hst => ⟨fun h hh hc => ?logical, fun hh => ?spare⟩⟩
  case rotation =>
    have hmay : s.mayRotate q c k spare = true := by
      simp [State.mayRotate, hk, hspare, hrotate, hs, hf, hdue, hst, hreset, hduty, hin, hfree, hboundary, hbusiest, by simpa using hnot]
    rw [rotation_runs hp hq hmay]
    exact (rotateOnto_rotated s c k spare).answers _
  case logical =>
    rw [(shadowBlameReplace_runs hblame hin hp hq hf hs).1 h hh, coreFault_none s h p q (hc ▸ hp) hq hst hf]
    refine ⟨_, rfl, ⟨(Config.freeByte s.free 0).toNat, ?_⟩, rfl, rfl, rfl⟩
    rw [keeping_at_part, part_setPart_self]
  case spare =>
    rw [(shadowBlameReplace_runs hblame hin hp hq hf hs).2 hh]
    obtain ⟨⟨-, dparts, dcores, dmem, -⟩, -⟩ := dropTiles_spec s c (s.physIn c n)
    obtain ⟨hcore, hparts, hcores, hmem⟩ := retireCore_spec (s.dropTiles c (s.physIn c n)) (s.physIn c n) 5
    refine ⟨_, rfl, ?_, ?_, hparts.trans dparts, hcores.trans dcores, hmem.trans dmem⟩
    · rw [keeping_at_physCore, hcore]
    · rw [keeping_at_physCore, hcore]

/-! ### Fold schedules -/

section Fold

variable {s : State} {c : Nat}

/-- Past an entry whose loop count is spent the next one follows, once its cores are at rest (R145). -/
theorem foldNext_spent (hin : (s.clu c).foldAt < (s.clu c).foldCount)
    (hrest : ∀ k ∈ onesOf ((s.clu c).foldE (s.clu c).foldAt).mask.toNat 32,
      ((s.core (c * 32 + k)).yielded = true ∨ (s.core (c * 32 + k)).running = false) ∧ (s.core (c * 32 + k)).switchTo = none)
    (hspent : ((s.clu c).foldE (s.clu c).foldAt).loopTo = 0xFF
      ∨ ((s.clu c).foldE (s.clu c).foldAt).loopCnt ≤ tget 0 (s.clu c).foldLoops (s.clu c).foldAt) :
    s.foldNext c = some ((s.clu c).foldAt + 1, tset 0 (s.clu c).foldLoops (s.clu c).foldAt 0) := by
  have hall : ((onesOf ((s.clu c).foldE (s.clu c).foldAt).mask.toNat 32).all fun k =>
      ((s.core (c * 32 + k)).yielded || !(s.core (c * 32 + k)).running) && (s.core (c * 32 + k)).switchTo.isNone) = true := by
    rw [List.all_eq_true]
    intro k hk
    obtain ⟨hstill, hnone⟩ := hrest k hk
    rw [hnone]
    simpa using hstill
  unfold State.foldNext
  dsimp only
  rw [hall, if_neg (by simpa using hin), if_neg (by omega)]

/-- Fold entry j of cluster c in force, its loops counted as l, before its cores follow it. -/
def foldMoved (s : State) (c j : Nat) (l : Tbl Nat) : State := s.setClu c { s.clu c with foldLoops := l, foldAt := j }

theorem foldAdvance_enters {j : Nat} {l : Tbl Nat} (hnext : s.foldNext c = some (j, l)) (hflows : s.flows c = true) (hready : s.foldReady c j = true)
    (hj : j < (s.clu c).foldCount) : exec (.foldAdvance c) s = answer s ((foldMoved s c j l).enterFold c j) := by
  refine congrArg (answer s) ?_
  rw [hnext]
  dsimp only
  rw [if_neg (by simp [hflows, hready])]
  refine if_pos ?_
  rw [clu_setClu, if_pos rfl]
  exact hj

theorem foldAdvance_waits {j : Nat} {l : Tbl Nat} (hnext : s.foldNext c = some (j, l)) (hready : s.foldReady c j = false) :
    exec (.foldAdvance c) s = .next s := by
  refine (congrArg (answer s) ?_).trans (answer_self s)
  rw [hnext]
  exact if_pos (.inr (by rw [hready]; rfl))

theorem foldMoved_follower (s : State) (c j : Nat) (l : Tbl Nat) (h : Nat) : (foldMoved s c j l).follower h = s.follower h := by
  have hbouquet : ((foldMoved s c j l).clu (h / 32)).bouquet = (s.clu (h / 32)).bouquet := by
    unfold foldMoved
    rw [clu_setClu]
    split
    · rename_i hc
      rw [hc]
    · rfl
  unfold State.follower State.inBouquet State.leads
  rw [hbouquet]

theorem foldMoved_clu (s : State) (c j : Nat) (l : Tbl Nat) : (foldMoved s c j l).clu c = { s.clu c with foldLoops := l, foldAt := j } :=
  (clu_setClu ..).trans (if_pos rfl)

/-- The cores that an entry of the schedule switches (R71, R145). -/
theorem foldSwitches_contains {j k : Nat} (hj : j < (s.clu c).foldCount) (hk : k ∈ onesOf ((s.clu c).foldE j).mask.toNat 32) :
    (s.foldSwitches c j).contains (c * 32 + k) = (!s.follower (c * 32 + k) && decide ((s.core (c * 32 + k)).petal ≠ ((s.clu c).foldE j).petal)) := by
  unfold State.foldSwitches
  dsimp only
  rw [if_neg (by omega), Bool.eq_iff_iff, List.contains_iff_mem, List.mem_filter]
  exact and_iff_right (List.mem_map.mpr ⟨k, hk, rfl⟩)

theorem resume_yielded (s : State) (h : Nat) : ((s.resume h).core h).yielded = false := by
  unfold State.resume
  dsimp only
  split
  · rw [retire_eq, core_setCore, if_pos rfl]
    rfl
  · exact Bool.eq_false_iff.mpr ‹_›

/-- What a fold entry asks of its cores once it is in force: those that run another petal are to switch, those that yielded from its own resume (R145). -/
theorem enterFold_asks {j : Nat} {l : Tbl Nat} (hj : j < (s.clu c).foldCount) {k : Nat} (hk : k ∈ onesOf ((s.clu c).foldE j).mask.toNat 32) :
    ((s.core (c * 32 + k)).petal ≠ ((s.clu c).foldE j).petal → s.follower (c * 32 + k) = false →
        (((foldMoved s c j l).enterFold c j).core (c * 32 + k)).switchTo = some ((s.clu c).foldE j).petal)
      ∧ ((s.core (c * 32 + k)).petal = ((s.clu c).foldE j).petal → (((foldMoved s c j l).enterFold c j).core (c * 32 + k)).yielded = false) := by
  have hclu := foldMoved_clu s c j l
  have hentry : ((foldMoved s c j l).clu c).foldE j = (s.clu c).foldE j := by rw [hclu]; rfl
  have hcount : j < ((foldMoved s c j l).clu c).foldCount := by rw [hclu]; exact hj
  have hcore : ∀ h, (foldMoved s c j l).core h = s.core h := fun _ => rfl
  have hfull := (enterFold_full (foldMoved s c j l) c j).2 k (by rw [hentry]; exact hk)
  rw [foldSwitches_contains hcount (by rw [hentry]; exact hk), foldMoved_follower, hentry, hcore] at hfull
  rw [hfull]
  refine ⟨fun hne hleads => ?_, fun heq => ?_⟩
  · rw [if_pos (by simp [hne, hleads])]
  · rw [if_neg (by simp [heq]), if_pos heq, resume_yielded]

end Fold

/-! ### Petals that switch -/

section Switch

variable {s : State} {h p : Nat}

/-- Core x as a switch of core c to petal p leaves it (R49, R146). -/
structure RunsPetal (c x : Core) (p : Nat) : Prop where
  petal : x.petal = p
  petals : x.petals = c.petals
  switchTo : x.switchTo = none
  inq : x.inq = c.inq
  cleared : p ≠ c.petal → (∀ e, (x.engine e).acc = []) ∧ ∀ q, (x.outQ q).stage = 0

/-- A core whose accumulators and staging areas are cleared, its petals and input queues as they were. -/
structure Cleared (c x : Core) : Prop where
  petals : x.petals = c.petals
  inq : x.inq = c.inq
  acc : ∀ e, (x.engine e).acc = []
  stage : ∀ q, (x.outQ q).stage = 0

theorem stage_setOutQ (c : Core) (i q : Nat) (o : OutQueue) (ho : o.stage = (c.outQ i).stage) : ((c.setOutQ i o).outQ q).stage = (c.outQ q).stage := by
  rw [outQ_setOutQ]
  split
  · subst i
    exact ho
  · rfl

theorem Cleared.setOutQ {c x : Core} (hx : Cleared c x) (i : Nat) (o : OutQueue) (ho : o.stage = (x.outQ i).stage) : Cleared c (x.setOutQ i o) :=
  ⟨hx.petals, hx.inq, hx.acc, fun q => (stage_setOutQ x i q o ho).trans (hx.stage q)⟩

theorem RunsPetal.setOutQ {c x : Core} (hx : RunsPetal c x p) (i : Nat) (o : OutQueue) (ho : o.stage = (x.outQ i).stage) : RunsPetal c (x.setOutQ i o) p :=
  ⟨hx.petal, hx.petals, hx.switchTo, hx.inq, fun hne => ⟨(hx.cleared hne).1, fun q => (stage_setOutQ x i q o ho).trans ((hx.cleared hne).2 q)⟩⟩

theorem wiped_cleared (c : Core) : Cleared c c.wiped :=
  ⟨rfl, rfl, fun e => filter_ne ({} : Engine) (fun g : Engine => { g with acc := [], kept := none }) rfl (fun g => g.acc = []) (fun _ => rfl) c.eng e,
    fun q => filter_ne ({} : OutQueue) (fun o : OutQueue => { o with stage := 0 }) rfl (fun o => o.stage = 0) (fun _ => rfl) c.outq q⟩

theorem turn_stage (o : OutQueue) (old new : Word) : (o.turn old new).stage = o.stage := by
  unfold OutQueue.turn
  split <;> rfl

theorem turned_cleared (c : Core) (new : Petal) : Cleared c (c.wiped.turned new) := by
  unfold Core.turned
  exact List.foldlRecOn _ _ (wiped_cleared c) fun x hx i _ => hx.setOutQ i _ (turn_stage ..)

/-- The core that a switch starts, before its loops' credits are counted. -/
theorem runPetal_base (c : Core) (p : Nat) (x : Core) (hx : x = if c.petal ≠ p then c.wiped.turned (tget {} c.petals p) else c) (r : Bool) :
    RunsPetal c { x with petal := p, halted := false, yielded := false, wait := none, switchTo := none, running := r } p := by
  subst hx
  split
  · have hcleared := turned_cleared c (tget {} c.petals p)
    generalize c.wiped.turned _ = x at *
    obtain ⟨hpetals, hinq, hacc, hstage⟩ := hcleared
    exact ⟨rfl, hpetals, rfl, hinq, fun _ => ⟨hacc, hstage⟩⟩
  · rename_i heq
    exact ⟨rfl, rfl, rfl, rfl, fun hne => absurd (Ne.symm hne) heq⟩

theorem rebase_core (s : State) (h k : Nat) : (s.rebase h).core k = if h = k then (s.rebase h).core h else s.core k := by
  unfold State.rebase
  rw [core_setCore, core_setCore, if_pos rfl]

theorem rebase_runsPetal {c : Core} (hc : RunsPetal c (s.core h) p) : RunsPetal c ((s.rebase h).core h) p := by
  unfold State.rebase
  rw [core_setCore, if_pos rfl]
  refine List.foldlRecOn (motive := fun x => RunsPetal c x p) (List.range 8) _ hc fun x hx i _ => ?_
  dsimp only
  split
  · exact hx
  · exact hx.setOutQ i _ rfl

/-- Core h after its switch to petal p, and every other core as it was (R49, R146). -/
theorem runPetal_core (s : State) (h p : Nat) : RunsPetal (s.core h) ((s.runPetal h p).core h) p ∧ ∀ k, k ≠ h → (s.runPetal h p).core k = s.core k := by
  unfold State.runPetal
  dsimp only
  have hbase := runPetal_base (s.core h) p _ rfl
  generalize (if (s.core h).petal ≠ p then (s.core h).wiped.turned (tget {} (s.core h).petals p) else s.core h) = x at *
  generalize hu : s.setCore h _ = u
  have hown : RunsPetal (s.core h) (u.core h) p := by
    rw [← hu, core_setCore, if_pos rfl]
    exact hbase _
  have hothers : ∀ k, k ≠ h → u.core k = s.core k := fun k hk => by rw [← hu, core_setCore, if_neg hk.symm]
  split
  · exact ⟨rebase_runsPetal hown, fun k hk => by rw [rebase_core, if_neg hk.symm, hothers k hk]⟩
  · exact ⟨hown, hothers⟩

/-- Distinct cores switched one after another (R71). -/
theorem runPetals_cores (p : Nat) : ∀ (l : List Nat) (s : State), l.Nodup →
    (∀ k ∈ l, RunsPetal (s.core k) ((l.foldl (fun s k => s.runPetal k p) s).core k) p)
      ∧ ∀ k, k ∉ l → (l.foldl (fun s k => s.runPetal k p) s).core k = s.core k
  | [], s, _ => ⟨fun _ hk => absurd hk List.not_mem_nil, fun _ _ => rfl⟩
  | x :: l, s, hn => by
    rw [List.nodup_cons] at hn
    obtain ⟨hown, hothers⟩ := runPetal_core s x p
    obtain ⟨ihown, ihothers⟩ := runPetals_cores p l (s.runPetal x p) hn.2
    refine ⟨fun k hk => ?_, fun k hk => ?_⟩
    · rcases List.mem_cons.mp hk with rfl | hk
      · rw [List.foldl_cons, ihothers k hn.1]
        exact hown
      · have hne : k ≠ x := fun heq => hn.1 (heq ▸ hk)
        rw [← hothers k hne]
        exact ihown k hk
    · rw [List.mem_cons, not_or] at hk
      rw [List.foldl_cons, ihothers k hk.2, hothers k hk.1]

theorem runPetals_rest (p : Nat) (l : List Nat) (s : State) : ∃ t, l.foldl (fun s k => s.runPetal k p) s = { s with cores := t } :=
  foldl_keep (fun s k => s.runPetal k p) (fun u => ∃ t, u = { s with cores := t })
    (fun u k ⟨t, hu⟩ => by
      obtain ⟨t', ht'⟩ := runPetal_fields u k p
      exact ⟨t', by rw [ht', hu]⟩) l s ⟨s.cores, rfl⟩

theorem groupOf_nodup (s : State) (h : Nat) : (s.groupOf h).Nodup := by
  unfold State.groupOf
  split
  · exact List.nodup_range.map fun a b hab => Nat.add_left_cancel hab
  · exact List.nodup_singleton h

theorem petalSwitch_runs (hto : (s.core h).switchTo = some p) (hy : (s.core h).yielded = false) (hf : s.flows (h / 32) = true) (hok : s.switchOk h p = true) :
    exec (.petalSwitch h) s = answer s ((s.groupOf h).foldl (fun s k => s.runPetal k p) s) := by
  have hresume : s.resume h = s := if_neg (by rw [hy]; exact Bool.false_ne_true)
  refine congrArg (answer s) ?_
  dsimp only
  rw [hto]
  dsimp only
  rw [if_neg (by simp [hf, hok]), hresume]

end Switch

theorem wroteStack_onlyRegs (s : State) (a n : Nat) : OnlyRegs s (s.wroteStack a n) := by
  unfold State.wroteStack
  split
  · exact count64_onlyRegs ..
  · exact .self s

/-- The sequence word of a cluster's next sample, and its place in the ring (R158). -/
def nextSample (s : State) (c : Nat) : Nat × Nat :=
  let seq := ((s.reg (s.cluReg c 0x850)).toNat + 1) % 0x100000000
  (seq, s.reg64 (s.cluReg c 0x848) % 0x1000000000000 + seq % 2 ^ s.field (s.cluReg c 0x844) 6 5 * 320)

/-- Sample n = (seq, place) of cluster c written (R158). -/
def sampled (s : State) (c : Nat) (n : Nat × Nat) : State :=
  ((s.poke n.2 (s.sample320 c n.1)).wroteStack n.2 320).setReg (s.cluReg c 0x850) (BitVec.ofNat 32 n.1)

theorem answer_sampled (s : State) (c : Nat) (n : Nat × Nat) : answer s (sampled s c n) = .next (sampled s c n) := by
  have hregs := wroteStack_onlyRegs (s.poke n.2 (s.sample320 c n.1)) n.2 320
  unfold sampled
  generalize (s.poke n.2 (s.sample320 c n.1)).wroteStack n.2 320 = u at *
  apply answer_eq
  all_goals
    rw [hregs]
    rfl

/-- A cluster that samples into its partition's HBM writes the record and its sequence word (R158). -/
theorem qsampSample_writes {s : State} {c p : Nat} {q : Part} (hon : s.field (s.cluReg c 0x844) 5 1 = 1) (hp : s.partOf c = some p) (hq : s.part p = some q)
    (howns : q.ownsHbm (nextSample s c).2 320 = true) : exec (.qsampSample c) s = answer s (sampled s c (nextSample s c)) := by
  have hmine : (s.partOf c).bind s.part = some q := by
    rw [hp]
    exact hq
  refine congrArg (answer s) ((if_neg (by rw [hon]; decide)).trans ?_)
  dsimp only
  rw [hmine]
  dsimp only
  unfold nextSample at howns
  rw [if_pos howns]
  rfl

/-- Settles O29: each part is the law of its command: an entry in force, a fold of switches over distinct cores, one record written. -/
theorem foldsPetalsAndSamples : Obligations.FoldsPetalsAndSamples := by
  unfold Obligations.FoldsPetalsAndSamples
  refine ⟨fun s c hflows hmore => ?fold, fun s h c => ⟨fun p hto hy hf hok => ?switch, fun hon p q hp hq => ?sample⟩⟩
  case fold =>
    intro e n hrest hspent
    have hnext := foldNext_spent (Nat.lt_of_succ_lt hmore) hrest hspent
    refine ⟨fun hready => ?_, fun hready => foldAdvance_waits hnext hready⟩
    have hcores := (enterFold_full (foldMoved s c ((s.clu c).foldAt + 1) (tset 0 (s.clu c).foldLoops (s.clu c).foldAt 0)) c ((s.clu c).foldAt + 1)).1
    refine ⟨_, foldAdvance_enters hnext hflows hready hmore, ?_, fun k hk => enterFold_asks hmore hk, ?_, ?_⟩
    · rw [keeping_at_clu, hcores]
      exact congrArg Cluster.foldAt (foldMoved_clu ..)
    · rw [keeping_mem, hcores]
      rfl
    · rw [keeping_regs, hcores]
      rfl
  case sample =>
    exact fun howns => (qsampSample_writes hon hp hq howns).trans (answer_sampled ..)
  case switch =>
    obtain ⟨hown, hothers⟩ := runPetals_cores p (s.groupOf h) s (groupOf_nodup s h)
    obtain ⟨t, hrest⟩ := runPetals_rest p (s.groupOf h) s
    refine ⟨_, petalSwitch_runs hto hy hf hok, fun k hk => ?_, hothers, ?_, ?_⟩
    · obtain ⟨hpetal, hpetals, hswitchTo, hinq, hcleared⟩ := hown k hk
      exact ⟨hpetal, hpetals, hswitchTo, hinq, hcleared⟩
    · rw [keeping_mem, hrest]
    · rw [keeping_regs, hrest]

end Sys2Proof.Proofs
end

section
/-! Proofs of the statements on narrow arithmetic: how a shadow check and its tie-break settle a sampled tile (R110 to R112). -/

namespace Sys2Proof.Proofs

open Sys2Proof Sys2Proof.Machine Sys2Proof.Safety Sys2Proof.Laws

/-! ### Shadow checks and tie-breaks -/

section ShadowChecks

variable {s u : State} {c spare : Nat} {t : Tile} {ts : List Tile} {rs : List Word}

theorem physIn_congr (hsparing : u.sparing = s.sparing) (c p : Nat) : u.physIn c p = s.physIn c p := by
  unfold State.physIn State.blk State.dieSite State.unassigned
  rw [hsparing]

/-- What the spare itself holds does not bear on which other spares can take a tile. -/
theorem otherSpares_congr (hsparing : u.sparing = s.sparing) (hothers : ∀ k, k ≠ s.physIn c spare → u.physCore k = s.physCore k) :
    u.otherSpares c spare = s.otherSpares c spare := by
  unfold State.otherSpares State.freeSpares
  show (((List.range 34).map (u.physIn c)).filter _).filter _ = (((List.range 34).map (s.physIn c)).filter _).filter _
  rw [funext (physIn_congr hsparing c), List.filter_filter, List.filter_filter]
  refine List.filter_congr fun k _ => ?_
  by_cases hk : k = s.physIn c spare
  · simp [hk]
  · rw [hothers k hk]

theorem otherSpares_setPhys (s : State) (c spare : Nat) (x : Phys) :
    (s.setPhys (s.physIn c spare) x).otherSpares c spare = s.otherSpares c spare :=
  otherSpares_congr rfl fun _ hk => (phys_setPhys ..).trans (if_neg hk.symm)

theorem field_setPhys (s : State) (k : Nat) (x : Phys) (c o lo w : Nat) :
    (s.setPhys k x).field ((s.setPhys k x).cluReg c o) lo w = s.field (s.cluReg c o) lo w := by
  rw [cluReg_congr (s := s) rfl]
  rfl

/-- The first tile off the spare's queue, the tiles ts left, and counted in `CLU_SHADOW_CHECKED` (R110, R114). -/
def tileTaken (s : State) (c spare : Nat) (ts : List Tile) : State :=
  (s.setPhys (s.physIn c spare) { s.physCore (s.physIn c spare) with tiles := ts }).count64 (s.cluReg c 0x808) 1

theorem tileTaken_sparing (s : State) (c spare : Nat) (ts : List Tile) : (tileTaken s c spare ts).sparing = s.sparing :=
  count64_sparing ..

theorem tileTaken_physIn (s : State) (c spare : Nat) (ts : List Tile) : (tileTaken s c spare ts).physIn c spare = s.physIn c spare :=
  physIn_congr (tileTaken_sparing ..) c spare

theorem tileTaken_physCore (s : State) (c spare : Nat) (ts : List Tile) (k : Nat) : (tileTaken s c spare ts).physCore k
    = if s.physIn c spare = k then { s.physCore (s.physIn c spare) with tiles := ts } else s.physCore k :=
  (physCore_congr (count64_phys ..) k).trans (phys_setPhys ..)

theorem tileTaken_otherSpares (s : State) (c spare : Nat) (ts : List Tile) :
    (tileTaken s c spare ts).otherSpares c spare = s.otherSpares c spare :=
  otherSpares_congr (tileTaken_sparing ..) fun _ hk => (tileTaken_physCore ..).trans (if_neg hk.symm)

/-- `CLU_SHADOW_CTRL` is apart from the counter. -/
theorem tileTaken_field (s : State) (c spare : Nat) (ts : List Tile) (lo w : Nat) :
    (tileTaken s c spare ts).field ((tileTaken s c spare ts).cluReg c 0x800) lo w = s.field (s.cluReg c 0x800) lo w := by
  rw [cluReg_congr (tileTaken_sparing ..)]
  refine congrArg (fun v : Word => bits v.toNat lo w) (count64_apart _ _ _ _ ?_ ?_)
  all_goals
    unfold State.cluReg
    omega

/-- A mismatch that waits for the other spare's re-run (R112). -/
def tieAwaited (s : State) (c spare : Nat) (ts : List Tile) (t : Tile) (rs : List Word) : State :=
  (tileTaken s c spare ts).setPhys (s.physIn c spare) { s.physCore (s.physIn c spare) with tiles := ts, tie := some (t, rs) }

theorem answer_tileTaken (s : State) (c spare : Nat) (ts : List Tile) : answer s (tileTaken s c spare ts) = .next (tileTaken s c spare ts) :=
  answer_eq _ _ (count64_pending ..) (count64_now ..) (count64_hw ..)

theorem answer_tieAwaited (s : State) (c spare : Nat) (ts : List Tile) (t : Tile) (rs : List Word) :
    answer s (tieAwaited s c spare ts t rs) = .next (tieAwaited s c spare ts t rs) :=
  answer_eq _ _ (count64_pending ..) (count64_now ..) (count64_hw ..)

/-- What a check does once its tile is taken, by whether the results rs mismatch (R110 to R112). -/
def tileJudged (s : State) (c spare : Nat) (t : Tile) (ts : List Tile) (rs : List Word) : State :=
  if tileMismatch (s.field (s.cluReg c 0x800) 7 5) t t.result rs = false then tileTaken s c spare ts
  else if s.field (s.cluReg c 0x800) 12 1 = 1 ∧ s.otherSpares c spare ≠ [] then tieAwaited s c spare ts t rs
  else (tileTaken s c spare ts).settleMismatch c spare 2 t rs

/-- Where the FP8 check is asked for and the pair is exact in E4M3, or it is not asked for, no fallback is made (R110). -/
theorem fp8_asked {w a : Nat} (h : s.field (s.cluReg c 0x800) 6 1 ≠ 1 ∨ fp8Exact w a = true) :
    (decide (s.field (s.cluReg c 0x800) 6 1 = 1) && fp8Exact w a) = decide (s.field (s.cluReg c 0x800) 6 1 = 1) := by
  rcases h with hoff | hexact
  · rw [decide_eq_false hoff, Bool.false_and]
  · rw [hexact, Bool.and_true]

theorem shadowCheck_runs (htiles : (s.physCore (s.physIn c spare)).tiles = t :: ts) (hduty : (s.physCore (s.physIn c spare)).duty = 1)
    (hin : (s.physCore (s.physIn c spare)).retired = false) (htie : (s.physCore (s.physIn c spare)).tie = none)
    (hfp8 : s.field (s.cluReg c 0x800) 6 1 ≠ 1 ∨ fp8Exact (tileIn t).1.wfmt (tileIn t).1.afmt = true) :
    exec (.shadowCheck c spare) s = answer s (tileJudged s c spare t ts (tileCheck t (decide (s.field (s.cluReg c 0x800) 6 1 = 1)))) := by
  refine congrArg (answer s) ?_
  extract_lets pk x asked
  have hx : x.tiles = t :: ts := htiles
  rw [hx]
  refine (if_neg (by simp [x, pk, hduty, hin, htie])).trans ?_
  extract_lets d fp8 popped taken counted results now
  have hasked : fp8 = decide asked := fp8_asked hfp8
  have htaken : taken = tileTaken s c spare ts := congrArg (State.count64 popped · 1) (cluReg_congr rfl c 0x808)
  have hcounted : counted = tileTaken s c spare ts := (if_neg (by rw [hasked]; simp)).trans htaken
  have hnow : now = { s.physCore (s.physIn c spare) with tiles := ts } := by
    unfold now
    rw [hcounted, tileTaken_physCore, if_pos rfl]
  have hresults : results = tileCheck t (decide (s.field (s.cluReg c 0x800) 6 1 = 1)) := congrArg (tileCheck t) hasked
  rw [hnow, hcounted, hresults, tileTaken_field, tileTaken_field, tileTaken_otherSpares]
  unfold tileJudged
  simp only [Bool.not_eq_true']
  rfl

/-- Who is blamed once the other spare, if one can take the tile, has run it again: 0 the checked core, 1 the first spare, 2 both (R112). -/
def tieBlames (s : State) (c spare : Nat) (t : Tile) (rs : List Word) : Nat :=
  let again := tileCheck t (s.field (s.cluReg c 0x800) 6 1 = 1 && fp8Exact (tileIn t).1.wfmt (tileIn t).1.afmt)
  if s.otherSpares c spare = [] then 2
  else if tileMismatch (s.field (s.cluReg c 0x800) 7 5) t rs again = false then 0
  else if tileMismatch (s.field (s.cluReg c 0x800) 7 5) t t.result again = false then 1
  else 2

theorem shadowTiebreak_runs (htie : (s.physCore (s.physIn c spare)).tie = some (t, rs)) :
    exec (.shadowTiebreak c spare) s = answer s ((s.setPhys (s.physIn c spare)
      { s.physCore (s.physIn c spare) with tie := none }).settleMismatch c spare (tieBlames s c spare t rs) t rs) := by
  refine congrArg (answer s) ?_
  extract_lets pk x untied k own
  have hx : x.tie = some (t, rs) := htie
  rw [hx]
  dsimp -zeta only
  extract_lets d again
  have hothers : untied.otherSpares c spare = s.otherSpares c spare := otherSpares_setPhys ..
  have hk : k = s.field (s.cluReg c 0x800) 7 5 := field_setPhys ..
  have hagain : again = tileCheck t (s.field (s.cluReg c 0x800) 6 1 = 1 && fp8Exact d.wfmt d.afmt) := by
    unfold again untied
    rw [field_setPhys]
  show _ = untied.settleMismatch c spare (tieBlames s c spare t rs) t rs
  unfold tieBlames
  rw [hothers, hk, hagain]
  simp only [Bool.not_eq_true']
  split_ifs
  all_goals rfl

/-- A command that settles a mismatch from u on answers with the blame that R112 names. -/
theorem answer_settled (s : State) {u : State} {pk : Nat} (who : Nat) (hpk : u.physIn c spare = pk) (hne : t.checked ≠ pk) :
    ∃ v, answer s (u.settleMismatch c spare who t rs) = .next v ∧ blamed u v pk who t := by
  subst hpk
  exact ⟨_, rfl, settle_spec u c spare who t rs hne⟩

end ShadowChecks

/-- Settles O21: a check takes its tile off the queue and ends, waits or blames; a tie-break blames by what the second spare finds. -/
theorem shadowChecks : Obligations.ShadowChecks := by
  unfold Obligations.ShadowChecks
  refine ⟨fun s c spare t ts htiles hduty hin htie hfp8 => ?check, fun s c spare t rs htie hne => ?tiebreak⟩
  case check =>
    rw [shadowCheck_runs htiles hduty hin htie hfp8]
    unfold tileJudged
    refine ⟨fun hagree => ?agrees, fun hbad htb hother => ?waits, fun hbad htb hne => ?both⟩
    case agrees =>
      rw [if_pos hagree]
      exact answer_tileTaken ..
    case waits =>
      rw [if_neg (by rw [hbad]; decide), if_pos ⟨htb, hother⟩]
      exact answer_tieAwaited ..
    case both =>
      rw [if_neg (by rw [hbad]; decide), if_neg fun h => htb h.1]
      exact answer_settled s 2 (tileTaken_physIn ..) hne
  case tiebreak =>
    rw [shadowTiebreak_runs htie]
    exact answer_settled s (tieBlames s c spare t rs) (physIn_congr rfl ..) hne

end Sys2Proof.Proofs
end

section
/-! Proofs of the statements on spatial dataflow: how tokens move, enter and are dropped (R123, R124, R139, R149 to R152), how credits come back,
packets form and leave and steering units route (R126 to R133, R246, R247), how steps begin, end and stall (R141 to R144), and how images come
into use (R153 to R156, R168). -/

namespace Sys2Proof.Proofs

open Sys2Proof Sys2Proof.Machine Sys2Proof.Safety Sys2Proof.Laws

/-! ### Effects that a command answers with as they are -/

/-- t has the queue, the clock and the fixed facts of s, so that a command's answer leaves t as it is. -/
structure KeepsFixed (s t : State) : Prop where
  pending : t.pending = s.pending
  now : t.now = s.now
  hw : t.hw = s.hw

section Fixed

variable {s t u : State}

theorem KeepsFixed.refl (s : State) : KeepsFixed s s := ⟨rfl, rfl, rfl⟩

theorem KeepsFixed.trans (a : KeepsFixed s t) (b : KeepsFixed t u) : KeepsFixed s u := ⟨b.pending.trans a.pending, b.now.trans a.now, b.hw.trans a.hw⟩

theorem KeepsFixed.answer (k : KeepsFixed s t) : answer s t = .next t := answer_eq s t k.pending k.now k.hw

theorem KeepsFixed.setCore (k : KeepsFixed s t) (h : Nat) (c : Core) : KeepsFixed s (t.setCore h c) := ⟨k.pending, k.now, k.hw⟩

theorem KeepsFixed.setClu (k : KeepsFixed s t) (c : Nat) (v : Cluster) : KeepsFixed s (t.setClu c v) := ⟨k.pending, k.now, k.hw⟩

theorem KeepsFixed.stir (k : KeepsFixed s t) (c : Nat) : KeepsFixed s (t.stir c) := k.trans ⟨stir_pending .., stir_now .., stir_hw ..⟩

theorem KeepsFixed.count (k : KeepsFixed s t) (a n : Nat) : KeepsFixed s (t.count a n) := k.trans ⟨count_pending .., count_now .., count_hw ..⟩

theorem KeepsFixed.setInbound (k : KeepsFixed s t) (p i : Nat) (r : Inbound) : KeepsFixed s (t.setInbound p i r) := by
  rw [setInbound_fields]
  exact ⟨k.pending, k.now, k.hw⟩

theorem KeepsFixed.enterCircuit (k : KeepsFixed s t) (c circ : Nat) (x : Token) : KeepsFixed s (t.enterCircuit c circ x) := by
  rw [enterCircuit_onlyCircuit t c circ x]
  exact ⟨k.pending, k.now, k.hw⟩

end Fixed

/-! ### Tokens that arrive at an input queue -/

section Arrival

variable {s : State} {h k p i qo q : Nat} {t : Token} {ts : List Token} {r : Inbound}

theorem epochOf_setInbound (s : State) (p i : Nat) (r : Inbound) (c : Nat) : (s.setInbound p i r).epochOf c = s.epochOf c := by
  rw [setInbound_fields]
  rfl

theorem cluReg_setInbound (s : State) (p i : Nat) (r : Inbound) (c o : Nat) : (s.setInbound p i r).cluReg c o = s.cluReg c o := by
  rw [setInbound_fields]
  rfl

theorem core_setInbound (s : State) (p i : Nat) (r : Inbound) (h : Nat) : (s.setInbound p i r).core h = s.core h := by
  rw [setInbound_fields]
  rfl

/-- Inside a region a token behind the epoch is dropped on arrival and counted (R152). -/
theorem arriveIn_behind (hb : behind t.epoch (s.epochOf (h / 32)) = true) : s.arriveIn h q t = s.count (s.cluReg (h / 32) 0x854) 1 :=
  if_pos hb

/-- The head of output queue qo of hart h off its queue, the tokens ts left there: the region has made progress (R141). -/
def headTaken (s : State) (h qo : Nat) (ts : List Token) : State :=
  (s.setCore h ((s.core h).setOutQ qo { (s.core h).outQ qo with tokens := ts })).stir (h / 32)

theorem headTaken_epochOf (s : State) (h qo : Nat) (ts : List Token) (c : Nat) : (headTaken s h qo ts).epochOf c = s.epochOf c :=
  stir_at_epochOf ..

theorem headTaken_cluReg (s : State) (h qo : Nat) (ts : List Token) (c o : Nat) : (headTaken s h qo ts).cluReg c o = s.cluReg c o :=
  stir_at_cluReg ..

theorem headTaken_keepsFixed (s : State) (h qo : Nat) (ts : List Token) : KeepsFixed s (headTaken s h qo ts) := ((KeepsFixed.refl s).setCore ..).stir _

theorem tokenArrival_queue (hf : s.flows (h / 32) = true) (ht : ((s.core h).outQ qo).tokens = t :: ts) (hd : s.outDest h qo = .queue k q) :
    exec (.tokenArrival (.outQueue h qo)) s = answer s ((headTaken s h qo ts).arriveIn k q t) := by
  refine (answer_onlyIf _ hf).trans (congrArg (answer s) ?_)
  unfold State.outArrive
  dsimp only
  rw [ht, hd]
  rfl

theorem tokenArrival_circuit (hf : s.flows (h / 32) = true) (ht : ((s.core h).outQ qo).tokens = t :: ts) (hd : s.outDest h qo = .record p i)
    (hr : s.inbound p i = some r) (hm : r.marks = []) (he : s.mayEnter (s.blk (h / 32)) r.id.toNat = true) :
    exec (.tokenArrival (.outQueue h qo)) s = answer s ((headTaken s h qo ts).enterCircuit (h / 32) r.id.toNat t) := by
  have hr' : (headTaken s h qo ts).inbound p i = some r := by
    unfold State.inbound headTaken
    rw [stir_at_part]
    exact hr
  refine (answer_onlyIf _ hf).trans (congrArg (answer s) ?_)
  unfold State.outArrive
  dsimp only
  rw [ht, hd]
  refine (if_pos ?_).trans ?_
  · simp [State.pathClear, State.entersAt, hr, hm, he]
  · show (headTaken s h qo ts).ontoRecord (h / 32) p i t = _
    unfold State.ontoRecord
    rw [hr']

/-- The head of record i's balancing queue off that queue (R139, R140). -/
def balTaken (s : State) (p i : Nat) (r : Inbound) : State := s.setInbound p i { r with bal := r.bal.drop 1, released := r.released - 1 }

theorem tokenArrival_bal (hr : s.inbound p i = some r) (hf : s.flows r.cluster = true) (hm : r.marks = []) (hp : s.canPass r = true) :
    exec (.tokenArrival (.record p i)) s = answer s ((balTaken s p i r).arriveIn r.consHart r.consQ (s.balHead r)) := by
  refine congrArg (answer s) ?_
  show s.moveRecord p i = _
  simp [State.moveRecord, hr, hf, hm, hp, balTaken]

theorem tokenArrival_landed (hr : s.inbound p i = some r) (hf : s.flows r.cluster = true) (hm : r.marks = []) (hp : s.canPass r = false)
    (hb : r.boundary = false) (hl : r.land = t :: ts) (hs : behind t.epoch (s.epochOf r.cluster) = true) :
    exec (.tokenArrival (.record p i)) s = answer s ((s.setInbound p i { r with land := ts }).count (s.cluReg r.cluster 0x854) 1) := by
  refine congrArg (answer s) ?_
  show s.moveRecord p i = _
  simp [State.moveRecord, hr, hf, hm, hp, hb, hl, hs]

theorem landOn_behind (hr : s.inbound p i = some r) (hb : r.boundary = false) (hs : behind t.epoch (s.epochOf r.cluster) = true) :
    s.landOn p i t = (s.setInbound p i r).count (s.cluReg r.cluster 0x854) 1 := by
  simp [State.landOn, hr, hb, hs]

end Arrival

/-- Behind is 1 to 3 steps behind, round the eight epochs (R150). -/
theorem behind_iff (e x : BitVec 3) : behind e x = true ↔ (x.toNat + 8 - e.toNat) % 8 ∈ [1, 2, 3] := by
  revert e x
  decide

/-- Settles O26: each place drops the token as it arrives, by the law of its arrival. -/
theorem staleTokensAreDropped : Obligations.StaleTokensAreDropped := by
  unfold Obligations.StaleTokensAreDropped
  refine fun s t ts => ⟨behind_iff, fun h qo k q hf ht hd hb => ?queue, fun p i r hr => ⟨landOn_behind hr, fun hf hm => ⟨fun hp hb => ?bal, fun hp hin hl hb => ?landed⟩⟩⟩
  case queue =>
    rw [tokenArrival_queue hf ht hd, arriveIn_behind (by rwa [headTaken_epochOf]), headTaken_cluReg]
    exact ((headTaken_keepsFixed s h qo ts).count ..).answer
  case bal =>
    rw [tokenArrival_bal hr hf hm hp, balTaken, arriveIn_behind (by rwa [epochOf_setInbound]), cluReg_setInbound]
    exact (((KeepsFixed.refl s).setInbound ..).count ..).answer
  case landed =>
    rw [tokenArrival_landed hr hf hm hp hin hl hb]
    exact (((KeepsFixed.refl s).setInbound ..).count ..).answer

/-! ### Boundary ports -/

section Ports

variable {s : State} {p i : Nat} {r : Inbound} {t : Token} {ts : List Token} {x : BitVec 3}

theorem boundaryPortAdmit_open (hr : s.inbound p i = some r) (hb : r.boundary = true) (hc : r.closed = false) (hf : s.flows r.cluster = true) :
    exec (.boundaryPortAdmit p i) s = answer s (s.portStep p i r) := by
  refine congrArg (answer s) ?_
  rw [hr]
  exact if_pos (by simp [hb, hc, hf])

/-- What an open port that expects epoch x does with a token at its head (R150, R151). -/
theorem portStep_token (hl : r.land = t :: ts) (hx : r.expect = some x) (hk : t.kind ≠ kEpochMark) :
    s.portStep p i r = if behind t.epoch x then (s.setInbound p i { r with land := ts }).count (s.cluReg r.cluster 0x854) 1
      else if aheadOf t.epoch x then
        if r.dropEp = some t.epoch then (s.setInbound p i { r with land := ts, held := false }).count (s.cluReg r.cluster 0x858) 1
        else s.setInbound p i { r with held := true }
      else if s.canTake { r with land := ts, dropEp := none, held := false } then
        s.takeIn p i { r with land := ts, dropEp := none, held := false } (t.restamp (s.epochOf r.cluster))
      else s := by
  have hmark : (t.kind == kEpochMark) = false := by simpa using hk
  unfold State.portStep
  rw [hl]
  dsimp only
  rw [hx, Option.getD_some, hmark]
  rfl

/-- Without a balancing queue a data token that a port admits goes behind the tokens of its input queue, under its region's epoch (R124, R150). -/
theorem takeIn_data (hb : r.b = 0) (hk : t.kind = kData) (hm : t.isMarker = false) :
    s.takeIn p i r (t.restamp (s.epochOf r.cluster)) = ((s.setInbound p i r).stir (r.consHart / 32)).setCore r.consHart
      ((s.core r.consHart).setInQ r.consQ { (s.core r.consHart).inQ r.consQ with
        tokens := ((s.core r.consHart).inQ r.consQ).tokens ++ [t.restamp (s.epochOf r.cluster)] }) := by
  have hend : (r.admitted || (t.restamp (s.epochOf r.cluster)).kind == kEndStream) = r.admitted := by
    rw [restamp_kind, hk]
    exact Bool.or_false _
  have hin : behind (t.restamp (s.epochOf r.cluster)).epoch ((s.setInbound p i r).epochOf (r.consHart / 32)) = false := by
    rw [restamp_epoch, epochOf_setInbound]
    exact behind_self _
  unfold State.takeIn
  rw [if_neg (by omega), hend, arriveIn_plain _ _ _ _ hin (by rwa [restamp_marker]), core_setInbound]

/-- The state that EPOCH_HOLD_EXPIRY leaves at the port, before its record is made (R151). -/
def runDropped (s : State) (p i : Nat) (r : Inbound) (e : BitVec 3) (n : Nat) : State :=
  (s.setInbound p i { r with land := r.land.drop n, held := false, dropEp := some e }).count (s.cluReg r.cluster 0x858) n

theorem epochHoldExpiry_runs (hr : s.inbound p i = some r) (hl : r.land = t :: ts) (hh : r.held = true) (hc : r.closed = false) :
    let n := (r.land.takeWhile fun v => decide (v.epoch = t.epoch) && v.kind != kEpochMark).length
    exec (.epochHoldExpiry p i) s = answer s ((runDropped s p i r t.epoch n).record 0x0204 3 p r.region (onCluster r.cluster) (u32 n)) := by
  refine congrArg (answer s) ?_
  rw [hr]
  dsimp only
  rw [hl]
  dsimp only
  rw [if_neg (by simp [hh, hc])]
  unfold runDropped
  rw [cluReg_setInbound, hl]

theorem runDropped_inbound (hr : s.inbound p i = some r) (e : BitVec 3) (n : Nat) :
    (runDropped s p i r e n).inbound p i = some { r with held := false, dropEp := some e, land := r.land.drop n } := by
  unfold runDropped State.inbound State.part
  rw [count_parts]
  exact inbound_setInbound s p i r _ hr

theorem inbound_record (s : State) (p i code sev part region : Nat) (sub : Subject) (data : Bytes) :
    (s.record code sev part region sub data).inbound p i = s.inbound p i := by
  rw [record_onlyEvents]
  rfl

end Ports

/-- Settles O25: a token's arrival, a port's step and a hold's expiry each answer with the one move of the token that R124, R139, R150 or R151 calls for. -/
theorem tokensMoveAndEnter : Obligations.TokensMoveAndEnter := by
  unfold Obligations.TokensMoveAndEnter
  refine ⟨fun s t ts hmark => ⟨fun h qo k q hf ht hd hb => ?queue, fun h qo p i r hf ht hd hr hm he => ?circuit,
      fun p i r hr hf hm hbal hhead hroom hgate hb => ?bal⟩,
    fun s p i r t ts x hr hbound hopen hl hx hk => ⟨fun hf => ⟨fun hb => ?behind, fun hb ha hd => ?ahead, fun hb ha hzero hdata hmark hroom _ => ?enters⟩,
      fun hh => ?expiry⟩⟩
  case queue =>
    rw [tokenArrival_queue hf ht hd, arriveIn_plain _ _ _ _ (by rwa [headTaken_epochOf]) hmark]
    exact (((headTaken_keepsFixed s h qo ts).stir _).setCore ..).answer
  case circuit =>
    rw [tokenArrival_circuit hf ht hd hr hm he]
    exact ((headTaken_keepsFixed s h qo ts).enterCircuit ..).answer
  case bal =>
    have hp : s.canPass r = true := by
      rcases hgate with hg | hg <;> simp [State.canPass, hbal, hroom, hg]
    rw [tokenArrival_bal hr hf hm hp, hhead, balTaken, arriveIn_plain _ _ _ _ (by rwa [epochOf_setInbound]) hmark, core_setInbound]
    exact ((((KeepsFixed.refl s).setInbound ..).stir _).setCore ..).answer
  case behind =>
    rw [boundaryPortAdmit_open hr hbound hopen hf, portStep_token hl hx hk, if_pos hb]
    exact (((KeepsFixed.refl s).setInbound ..).count ..).answer
  case ahead =>
    rw [boundaryPortAdmit_open hr hbound hopen hf, portStep_token hl hx hk, if_neg (by simp [hb]), if_pos ha, if_neg hd]
    exact ((KeepsFixed.refl s).setInbound ..).answer
  case enters =>
    have htake : s.canTake { r with land := ts, dropEp := none, held := false } = true := (if_neg (by simp [hzero])).trans hroom
    rw [boundaryPortAdmit_open hr hbound hopen hf, portStep_token hl hx hk, if_neg (by simp [hb]), if_neg (by simp [ha]), if_pos htake]
    exact (congrArg (answer s) (takeIn_data (r := { r with land := ts, dropEp := none, held := false }) hzero hdata hmark)).trans
      ((((KeepsFixed.refl s).setInbound ..).stir _).setCore ..).answer
  case expiry =>
    refine ⟨_, epochHoldExpiry_runs hr hl hh hopen, ?_, ?_, ?_⟩
    · exact (inbound_record ..).trans (runDropped_inbound hr ..)
    · rw [keeping_cores, record_cores, runDropped, count_cores, setInbound_fields]
    · rw [keeping_mem, (record_onlyEvents ..).mem, runDropped, count_mem, setInbound_fields]

/-! ### Credits and packets -/

section Packets

variable {s : State} {h qo : Nat} {eid : BitVec 24} {t : Token} {ts : List Token}

theorem creditReturn_gives (hl : s.inLoop h qo < ((s.core h).outQ qo).out) : exec (.creditReturn h qo) s
    = answer s (s.setCore h ((s.core h).setOutQ qo { (s.core h).outQ qo with out := ((s.core h).outQ qo).out - 1 })) :=
  congrArg (answer s) (if_pos hl)

/-- The head of output queue qo packed behind the tokens of the packet that is not closed, the tokens ts left on the queue (R126). -/
def headPacked (s : State) (h qo : Nat) (t : Token) (ts : List Token) : State :=
  (s.setCore h ((s.core h).setOutQ qo { (s.core h).outQ qo with tokens := ts, pack := ((s.core h).outQ qo).pack ++ [t] })).stir (h / 32)

theorem tokenArrival_packs (hf : s.flows (h / 32) = true) (ht : ((s.core h).outQ qo).tokens = t :: ts) (hd : s.outDest h qo = .packets eid)
    (hmover : isMoverEid eid = false) (hopen : closedRun ((s.core h).outQ qo).pack = false) :
    exec (.tokenArrival (.outQueue h qo)) s = answer s (headPacked s h qo t ts) := by
  refine (answer_onlyIf _ hf).trans (congrArg (answer s) ?_)
  unfold State.outArrive
  dsimp only
  rw [ht, hd]
  exact if_neg (by simp [hmover, hopen])

/-- The tokens that output queue qo has packed, in the cluster's send buffer as one packet (R126). -/
def packetPut (s : State) (h qo : Nat) (eid : BitVec 24) : State :=
  ((s.setCore h ((s.core h).setOutQ qo { (s.core h).outQ qo with pack := [] })).stir (h / 32)).setClu (h / 32)
    { s.clu (h / 32) with sendBuf := (s.clu (h / 32)).sendBuf ++ [packTokens eid (s.cluEid (h / 32)) ((s.core h).outQ qo).pack] }

theorem formPacket_eq (s : State) (h qo : Nat) (eid : BitVec 24) : s.formPacket h qo eid = packetPut s h qo eid := by
  unfold State.formPacket State.sendPacket packetPut
  dsimp only
  rw [stir_at_clu]
  rfl

theorem packetPut_keepsFixed (s : State) (h qo : Nat) (eid : BitVec 24) : KeepsFixed s (packetPut s h qo eid) :=
  (((KeepsFixed.refl s).setCore ..).stir _).setClu ..

/-- What is packed may form a packet once no mark to its endpoint waits ahead (R155). -/
theorem packsFor_some (hd : s.outDest h qo = .packets eid) (hf : s.flows (h / 32) = true) (hp : ((s.core h).outQ qo).pack ≠ [])
    (hm : ∀ x ∈ (s.clu (h / 32)).marks, x.1 ≠ eid) : s.packsFor h qo = some eid := by
  have hall : ((s.clu (h / 32)).marks.all fun x => decide (x.1 ≠ eid)) = true := by simpa using hm
  unfold State.packsFor
  rw [hd]
  exact if_pos (by rw [hf, hall]; simpa using hp)

theorem packetFormed_puts (hp : s.packsFor h qo = some eid) (hclosed : closedRun ((s.core h).outQ qo).pack = true) :
    exec (.packetFormed h qo) s = answer s (packetPut s h qo eid) := by
  refine congrArg (answer s) ?_
  rw [hp]
  exact (if_pos hclosed).trans (formPacket_eq ..)

theorem packetWaitTimeout_puts (hp : s.packsFor h qo = some eid) (ht : ((s.core h).outQ qo).tokens = []) :
    exec (.packetWaitTimeout h qo) s = answer s (packetPut s h qo eid) := by
  refine congrArg (answer s) ?_
  rw [hp]
  exact (if_pos (by rw [ht]; rfl)).trans (formPacket_eq ..)

end Packets

/-! ### Steering units -/

section Steering

variable {s : State} {c u i n : Nat} {x : Steer} {t : Token} {g rest tail ms : List Token} {m : Token} {more : List (Nat × Nat)}

theorem input_setInput (x : Steer) (i j : Nat) (l : List Token) : (x.setInput i l).input j = if i = j then l else x.input j := tget_tset ..

theorem output_setOutput (x : Steer) (i j : Nat) (l : List (Token × BitVec 24)) : (x.setOutput i l).output j = if i = j then l else x.output j :=
  tget_tset ..

/-- The state with unit u of cluster c as v. -/
def unitSet (s : State) (c u : Nat) (v : Steer) : State := (s.stir c).setClu c ((s.clu c).setUnit u v)

theorem answer_unitSet (s : State) (c u : Nat) (v : Steer) : answer s (unitSet s c u v) = .next (unitSet s c u v) :=
  (((KeepsFixed.refl s).stir c).setClu ..).answer

/-- Unit u of cluster c as r gives it, with the drops that r counts (R131). -/
def steered (s : State) (c u : Nat) (r : Steer × Nat) : State := (unitSet s c u r.1).count (s.cluReg c 0x860) r.2

theorem answer_steered (s : State) (c u : Nat) (r : Steer × Nat) : answer s (steered s c u r) = .next (steered s c u r) :=
  ((((KeepsFixed.refl s).stir c).setClu ..).count ..).answer

/-- The unit without the first group at its input 0, the tokens tail left there. -/
def groupTaken (x : Steer) (tail : List Token) : Steer := { x.setInput 0 tail with order := orderPast 0 x.order }

/-- A whole group that is routed is dropped and counted where no STEER token heads it, and else copied as the token's predicates say (R131). -/
theorem steerRoute_group (hf : s.flows c = true) (hg : firstGroup false (((s.clu c).unit u).input 0) = (t :: rest, true, tail))
    (hmode : tget 0 (s.clu c).steerMode u = 1) (hsent : ((s.clu c).unit u).outputs = []) (halone : tokenAlone t = false) :
    exec (.steerRoute c u) s = answer s (steered s c u
      (if t.kind ≠ kSteer then (groupTaken ((s.clu c).unit u) tail, 1)
        else sendCopies (rest.length + 1) (steerCopies (fun j => (tget 0 (s.clu c).steerTbl (256 * u + j)).toNat) t rest) []
          (groupTaken ((s.clu c).unit u) tail))) := by
  refine congrArg (answer s) ?_
  dsimp only
  rw [if_neg (by simp [hmode, hf, hg, hsent]), hg]
  dsimp only
  rw [if_neg (by simp [halone])]
  rfl

/-- A unit forwards the first group at input i whole to the end of its output 0 (R132). -/
theorem forward_group (hg : firstGroup false (x.input i) = (g, true, tail)) :
    x.forward i = { (x.setInput i tail).setOutput 0 (x.output 0 ++ g.map fun y => (y, 0)) with order := orderPast i x.order } := by
  unfold Steer.forward
  rw [hg]
  rfl

theorem mergeArrival_forwards (hf : s.flows c = true) (hg : firstGroup false (((s.clu c).unit u).input i) = (g, true, tail))
    (hmode : tget 0 (s.clu c).steerMode u = 2) (ho : ((s.clu c).unit u).order = (n, i) :: more) :
    exec (.mergeArrival c u) s = answer s (unitSet s c u (((s.clu c).unit u).forward i)) := by
  refine congrArg (answer s) ?_
  dsimp only
  rw [ho]
  exact if_pos ⟨hmode, hf, by rw [hg]⟩

theorem mergeOrdered_forwards (hf : s.flows c = true) (hg : firstGroup false (((s.clu c).unit u).input i) = (g, true, tail))
    (hmode : tget 0 (s.clu c).steerMode u = 3) (hm : ((s.clu c).unit u).input 3 = m :: ms) (hk : m.kind = kSteer) (hi : tokenPay m 0 1 = i) (hle : i ≤ 2) :
    exec (.mergeOrdered c u) s = answer s (unitSet s c u ((((s.clu c).unit u).setInput 3 ms).forward i)) := by
  subst hi
  refine congrArg (answer s) ?_
  dsimp only
  rw [hm]
  dsimp only
  rw [if_neg (by simp [hmode, hf, hk]), if_neg (by omega)]
  exact if_pos (by rw [hg])

end Steering

/-- Settles O27: a credit, a packet and a group each move by the law of their command; what a merge leaves is read off the unit that forwards. -/
theorem creditsPacketsAndGroups : Obligations.CreditsPacketsAndGroups := by
  unfold Obligations.CreditsPacketsAndGroups
  refine ⟨fun s h qo => ⟨fun hl => ?credit, fun eid hd hf => ⟨fun t ts hmover ht hopen => ?packs, fun hp hm => ⟨fun ht => ?waited, fun hclosed => ?formed⟩⟩⟩,
    fun s c u i t rest tail hf hg => ⟨fun hi hmode hsent halone => ?route, fun n more hmode ho => ?arrival, fun m ms hmode hm hk hi hle => ?ordered⟩⟩
  case credit => exact (creditReturn_gives hl).trans (answer_setCore ..)
  case packs => exact (tokenArrival_packs hf ht hd hmover hopen).trans (((KeepsFixed.refl s).setCore ..).stir _).answer
  case waited => exact (packetWaitTimeout_puts (packsFor_some hd hf hp hm) ht).trans (packetPut_keepsFixed ..).answer
  case formed => exact (packetFormed_puts (packsFor_some hd hf hp hm) hclosed).trans (packetPut_keepsFixed ..).answer
  case route =>
    subst hi
    have hroute := (steerRoute_group hf hg hmode hsent halone).trans (answer_steered ..)
    refine ⟨fun hk => ?_, fun hk => ?_⟩
    · rwa [if_pos hk] at hroute
    · rwa [if_neg (not_not_intro hk)] at hroute
  case arrival =>
    have hpast : orderPast i ((s.clu c).unit u).order = more := by simp [orderPast, ho]
    rw [mergeArrival_forwards hf hg hmode ho, forward_group hg, hpast]
    exact answer_unitSet ..
  case ordered =>
    have hother : (((s.clu c).unit u).setInput 3 ms).input i = ((s.clu c).unit u).input i := by rw [input_setInput, if_neg (by omega)]
    refine ⟨_, (mergeOrdered_forwards hf hg hmode hm hk hi hle).trans (answer_unitSet ..), ?_⟩
    rw [forward_group (hother ▸ hg)]
    refine ⟨?_, ?_, ?_⟩
    · exact (input_setInput ..).trans ((if_neg (by omega)).trans ((input_setInput ..).trans (if_pos rfl)))
    · exact (input_setInput ..).trans (if_pos rfl)
    · exact (output_setOutput ..).trans (if_pos rfl)

/-! ### Packets that leave the send buffer -/

section Sending

variable {s : State} {c : Nat} {p : Packet}

/-- Packet p out of cluster c's send buffer. -/
def bufferTaken (s : State) (c : Nat) (p : Packet) : State := s.setClu c { s.clu c with sendBuf := (s.clu c).sendBuf.erase p }

/-- After the marks that have credit the first packet that may leave is launched, a reply at once and any other on its flow (R155, R247). -/
theorem packetSend_takes
    (hp : ((s.sendWaiting c).clu c).sendBuf.find? (fun p => (p.isReply && !(s.sendWaiting c).packetsHeld) || (s.sendWaiting c).canSend c p.key) = some p) :
    exec (.packetSend c) s = answer s (if p.isReply then (bufferTaken (s.sendWaiting c) c p).launch c p
      else (bufferTaken (s.sendWaiting c) c p).sendOn c { pkt := p }) := by
  refine congrArg (answer s) ?_
  dsimp only
  rw [hp]
  rfl

/-- The flow that packets of key k go out on, a new one where none stands (R276). -/
def flowFor (s : State) (k : FlowKey) : SendFlow := (s.sendFlow k).getD { key := k }

theorem flowFor_key (s : State) (k : FlowKey) : (flowFor s k).key = k := by
  unfold flowFor
  cases hf : s.sendFlow k with
  | none => rfl
  | some f =>
    unfold State.sendFlow at hf
    simpa using List.find?_some hf

/-- A packet sent on its flow takes the flow's next SEQ and is kept there until it is answered; the launch moves nothing else (R276). -/
theorem sendOn_spec (s : State) (a : Nat) (p : Packet) : ∃ g, (s.sendOn a { pkt := p }).sendFlow p.key = some g ∧ g.next = (flowFor s p.key).next + 1
    ∧ g.unack = (flowFor s p.key).unack ++ [{ pkt := ({ p with seq := (flowFor s p.key).next }).sealed }]
    ∧ (s.sendOn a { pkt := p }).clusters = s.clusters ∧ (s.sendOn a { pkt := p }).mem = s.mem ∧ (s.sendOn a { pkt := p }).cores = s.cores := by
  have hkey := flowFor_key s p.key
  unfold State.sendOn
  dsimp only
  generalize hflow : (s.sendFlow p.key).getD { key := p.key } = f
  change flowFor s p.key = f at hflow
  rw [hflow] at hkey ⊢
  generalize hg : ({ f with next := f.next + 1, used := s.now, unack := _, recent := _ } : SendFlow) = g
  obtain ⟨hsends, hclusters, hmem, hcores⟩ := launch_fields (s.setSend g) a ({ p with seq := f.next }).sealed
  refine ⟨g, ?_, ?_, ?_, hclusters, hmem, hcores⟩
  · unfold State.sendFlow
    rw [hsends]
    exact find_setSend' s g p.key (by rw [← hg]; exact hkey)
  · rw [← hg]
  · rw [← hg]

end Sending

/-- Settles O36: the packet is taken out of the buffer, and launched or sent on its flow. -/
theorem packetsLeaveTheSendBuffer : Obligations.PacketsLeaveTheSendBuffer := by
  unfold Obligations.PacketsLeaveTheSendBuffer
  rintro s _ c p rfl hp
  refine ⟨fun hreply => (packetSend_takes hp).trans (congrArg (answer s) (if_pos hreply)), fun hreply => ?_⟩
  have hruns := (packetSend_takes hp).trans (congrArg (answer s) (if_neg (ne_true_of_eq_false hreply)))
  obtain ⟨g, hflow, hnext, hunack, hclusters, hmem, hcores⟩ := sendOn_spec (bufferTaken (s.sendWaiting c) c p) c p
  refine ⟨_, g, hruns, hflow, hnext, hunack, ?_, hmem, hcores⟩
  rw [keeping_at_clu, clu_congr hclusters, bufferTaken, clu_setClu, if_pos rfl]

/-! ### Steps that are released, end and are noted -/

section Steps

variable {s t u : State} {p : Nat} {q : Part} {st : StepRec}

/-- t is s on the way to a release of partition p's step: of p, which was q, only the inbound records move, and the clock and memory stand (R143). -/
structure Releasing (p : Nat) (q : Part) (s t : State) : Prop where
  part : ∃ rs, t.part p = some { q with records := rs }
  now : t.now = s.now
  mem : t.mem = s.mem

theorem Releasing.of (k : Releasing p q s t) (hparts : u.parts = t.parts) (hnow : u.now = t.now) (hmem : u.mem = t.mem) : Releasing p q s u := by
  obtain ⟨⟨rs, hpart⟩, now, mem⟩ := k
  refine ⟨⟨rs, ?_⟩, hnow.trans now, hmem.trans mem⟩
  unfold State.part at hpart ⊢
  rwa [hparts]

theorem Releasing.records (k : Releasing p q s t) (f : List Inbound → List Inbound) :
    Releasing p q s (t.modPart p fun q => { q with records := f q.records }) := by
  obtain ⟨⟨rs, hpart⟩, now, mem⟩ := k
  rw [modPart_some hpart]
  exact ⟨⟨f rs, part_setPart_self ..⟩, now, mem⟩

theorem Releasing.inject (k : Releasing p q s t) (st : StepRec) : Releasing p q s (t.inject p st) := by
  unfold State.inject
  refine foldl_keep _ (Releasing p q s) (fun u i hu => ?_) _ _ k
  dsimp only
  repeat' split
  · exact hu
  · exact hu
  · exact hu
  · exact hu.records (List.set · _ _)

theorem Releasing.clearEnds (k : Releasing p q s t) (rs : List Nat) : Releasing p q s (t.clearEnds p rs) := k.records (List.map _)

theorem Releasing.setField (k : Releasing p q s t) (a lo w v : Nat) : Releasing p q s (t.setField a lo w v) := k.of rfl rfl rfl

theorem Releasing.setRegions (k : Releasing p q s t) (rs : List (Nat × Region)) :
    Releasing p q s (rs.foldl (fun s e => s.setRegion e.1 { e.2 with ended := false }) t) := by
  refine foldl_keep _ (Releasing p q s) (fun u e hu => ?_) _ _ k
  exact hu.of rfl rfl rfl

theorem Releasing.releaseClusters (k : Releasing p q s t) (cs : List Nat) :
    Releasing p q s (cs.foldl (fun s c => (s.releaseCluster c).setPower c 3) t) := by
  refine foldl_keep _ (Releasing p q s) (fun u c hu => ?_) _ _ k
  obtain ⟨hparts, hnow, hmem⟩ := releaseCluster_fields u c
  exact (hu.of hparts hnow hmem).setField ..

theorem Releasing.writeTags (k : Releasing p q s t) (n tag : Nat) : Releasing p q s (t.writeTags n tag) := by
  unfold State.writeTags
  exact foldl_keep _ (Releasing p q s) (fun u i hu => hu.setField ..) _ _ k

/-- Partition q with step st released at cycle now (R143). -/
def releasedAt (q : Part) (st : StepRec) (now : Nat) : Part :=
  { q with step := some { st with released := true, start := now }, lastRel := some now, rotated := [], throttled := false }

/-- The release of step st up to its step tags: what its regions' records delivered forgotten, its clusters begun and its inputs injected (R143, R331). -/
def stepBegun (s : State) (p : Nat) (st : StepRec) : State :=
  (((s.stepRegions p st).flatMap fun e => e.2.clusters).foldl (fun s c => (s.releaseCluster c).setPower c 3)
    ((s.stepRegions p st).foldl (fun s e => s.setRegion e.1 { e.2 with ended := false })
      (s.clearEnds p ((s.stepRegions p st).map (·.1))))).inject p st

theorem stepBegun_releasing (hq : s.part p = some q) (st : StepRec) : Releasing p q s (stepBegun s p st) := by
  have hstart : Releasing p q s s := ⟨⟨q.records, hq⟩, rfl, rfl⟩
  exact (((hstart.clearEnds _).setRegions _).releaseClusters _).inject st

theorem release_eq (hu : (stepBegun s p st).part p = some q) : s.release p st = ((stepBegun s p st).writeTags p q.stepCount.toNat).modPart p
    fun x => releasedAt x st ((stepBegun s p st).writeTags p q.stepCount.toNat).now := by
  unfold State.release
  extract_lets rs cleared opened begun injected tagged
  have hinjected : injected = stepBegun s p st := rfl
  have htagged : tagged = (stepBegun s p st).writeTags p q.stepCount.toNat := by
    unfold tagged
    rw [hinjected, hu]
  rw [htagged]
  rfl

/-- A release marks the step released at the present cycle; of its partition it moves else only the inbound records (R143). -/
theorem release_spec (hq : s.part p = some q) (st : StepRec) :
    (∃ rs, (s.release p st).part p = some (releasedAt { q with records := rs } st s.now)) ∧ (s.release p st).mem = s.mem := by
  have hbegun := stepBegun_releasing hq st
  obtain ⟨rs, hu⟩ := hbegun.part
  rw [release_eq hu]
  obtain ⟨⟨rs', hpart⟩, hnow, hmem⟩ := hbegun.writeTags p q.stepCount.toNat
  rw [modPart_some hpart, hnow]
  exact ⟨⟨rs', part_setPart_self ..⟩, (setPart_mem ..).trans hmem⟩

/-- While a step stands none is begun. -/
theorem promote_running (hq : s.part p = some q) (hst : q.step = some st) (n : Nat) : s.promote p n = s := by
  cases n with
  | zero => rfl
  | succ n =>
    unfold State.promote
    rw [hq]
    exact if_pos (by rw [hst]; rfl)

theorem stepRelease_releases (hq : s.part p = some q) (hst : q.step = some st) (hc : s.canRelease p q st = true) :
    exec (.stepRelease p) s = answer s (s.release p st) := by
  refine congrArg (answer s) ?_
  dsimp only
  rw [hq]
  dsimp only
  rw [if_neg (by simp [hst]), promote_running hq hst, hq]
  dsimp only
  rw [hst]
  exact if_pos hc

/-- Every region of the step marked as ended (R144). -/
def regionsEnded (s : State) (p : Nat) (st : StepRec) : State := (s.stepRegions p st).foldl (fun s e => s.setRegion e.1 { e.2 with ended := true }) s

theorem regionsEnded_parts (s : State) (p : Nat) (st : StepRec) : (regionsEnded s p st).parts = s.parts := by
  unfold regionsEnded
  refine foldl_keep _ (fun u => u.parts = s.parts) (fun u e hu => ?_) _ _ rfl
  exact hu

/-- The status of a step that came to its end: FENCED where a stack of its partition is lost (R144, R233). -/
def endStatus (s : State) (q : Part) : Nat := if (onesOf q.stackTbl.toNat 24).any s.stackLost then stFenced else stOk

theorem stepEnd_ends (hq : s.part p = some q) (hst : q.step = some st) (hrel : st.released = true) (hf : q.freeze = .no)
    (hdone : ∀ e ∈ s.stepRegions p st, s.regionDone q e.1 e.2 = true) :
    exec (.stepEnd p) s = answer s ((s.stepClusters p st).foldl (fun s c => s.stopCluster c)
      ((regionsEnded s p st).endStep p (endStatus (regionsEnded s p st) q))) := by
  refine congrArg (answer s) ?_
  rw [hq]
  dsimp only
  rw [hst]
  exact if_pos (by simpa [hrel, hf] using hdone)

theorem noticeDeferTimeout_notes (hq : s.part p = some q) (hst : q.step = none) : exec (.noticeDeferTimeout p) s = answer s (s.stepNotices p) := by
  refine congrArg (answer s) ?_
  rw [hq]
  exact if_pos (by rw [hst]; rfl)

end Steps

/-! ### Regions that stall -/

section Stall

variable {s : State} {rn : Nat} {r : Region} {q : Part}

/-- The stall counted at every cluster of the region and recorded with event 0x0203 (R142). -/
def stallRecorded (s : State) (rn : Nat) (r : Region) : State :=
  let u := r.clusters.foldl (fun s c => s.count (s.cluReg c 0x868) 1) (s.modRegion rn fun r => { r with still := 0 })
  u.record 0x0203 4 r.part rn onPanel (u.stallData r.clusters)

theorem regionStall_clears (hr : s.region rn = some r) (hq : s.part r.part = some q) (hact : r.act = none) (hf : q.freeze = .no) (hstill : 0x100000 ≤ r.still)
    (hpending : s.pendingIn q rn r = true) : exec (.regionStall rn) s
      = answer s (((stallRecorded s rn r).endStep r.part stTimeout (stallRecorded s rn r).evr.seq.toNat).clearStep r.part []) := by
  refine congrArg (answer s) ?_
  rw [hr]
  dsimp only
  rw [hq]
  dsimp only
  rw [if_neg (by simp [hf, hpending, hstill]), hact, if_neg (by decide), if_neg (by decide)]
  rfl

theorem regionStall_waits (hr : s.region rn = some r) (hq : s.part r.part = some q) (hstill : r.still < 0x100000) : exec (.regionStall rn) s = .next s := by
  refine (congrArg (answer s) ?_).trans (answer_self s)
  rw [hr]
  dsimp only
  rw [hq]
  exact if_pos (.inr (.inl hstill))

end Stall

/-- Settles O28: a release and an end are read off the partition they leave, a note off its counters; a stall is the one effect R142 names. -/
theorem stepsAndStalls : Obligations.StepsAndStalls := by
  unfold Obligations.StepsAndStalls
  refine ⟨fun s p q hq => ⟨fun st hst hc => ?released, fun st hst hrel hf hdone => ?ended, fun hst => ?noted⟩,
    fun s rn r q hr hq hact hf => ⟨fun hstill hpending => ?stalled, fun hstill => regionStall_waits hr hq hstill⟩⟩
  case released =>
    obtain ⟨⟨rs, hpart⟩, hmem⟩ := release_spec hq st
    exact ⟨_, _, stepRelease_releases hq hst hc, hpart, rfl, rfl, rfl, hmem⟩
  case ended =>
    have hparts : (regionsEnded s p st).part p = some q := (congrArg (tget none · p) (regionsEnded_parts s p st)).trans hq
    obtain ⟨v, a, r, hpart⟩ := (endStep_spec (regionsEnded s p st) p (endStatus (regionsEnded s p st) q)).2.2 q hparts
    obtain ⟨hstopped, -⟩ := stopAll_more 0 (s.stepClusters p st) ((regionsEnded s p st).endStep p (endStatus (regionsEnded s p st) q))
    exact ⟨_, _, stepEnd_ends hq hst hrel hf hdone, (congrArg (tget none · p) hstopped).trans hpart, rfl, rfl, fun h hh => stopAll_core h _ _ (.inl hh)⟩
  case noted =>
    obtain ⟨v, hpart, hsum⟩ := stepNotices_own s p q hq
    have hrest := (stepNotices_noted s p).rest
    exact ⟨_, _, noticeDeferTimeout_notes hq hst, hpart, hsum, by rw [keeping_cores, hrest], by rw [keeping_mem, hrest]⟩
  case stalled => exact regionStall_clears hr hq hact hf hstill hpending

/-! ### Images that are loaded and activated -/

section Images

variable {s : State} {id rn base : Nat} {c : Started} {io : HostIo} {b : Bytes} {q : Part} {r : Region} {a : Activation}

/-- The region that an image at dst is staged for, new where none stands (R330). -/
def stagedFor (u : State) (c : Started) (dst : Nat) : Region :=
  (u.region (c.byte 19)).getD { part := c.partNo, cx := c.byte 17, cy := c.byte 18, w := (u.header dst).w, h := (u.header dst).h }

/-- State u, whose memory holds a sound image at dst, with the image staged, and with what the first image of a region installs (R51, R153). -/
def imageStaged (u : State) (c : Started) (dst : Nat) : State :=
  let r := stagedFor u c dst
  let v := u.setRegion (c.byte 19) { r with staged := some dst }
  let w := if r.loaded.isNone then v.installStaged (c.byte 19) dst else v
  if r.loaded.isNone && !bitOf (u.header dst).flags 0 then
    (List.range ((u.header dst).w * (u.header dst).h)).foldl (fun s i => s.writeBackup dst (u.sects dst (u.header dst)) i
      ((rect (c.byte 17) (c.byte 18) (u.header dst).w (u.header dst).h).getD i 0)) w
  else w

/-- The image b that command c brings from the host, once it stands in memory as u, passes every check of IMAGE_LOAD for partition q (R168, R330). -/
structure Loadable (s u : State) (c : Started) (b : Bytes) (q : Part) : Prop where
  part : s.part c.partNo = some q
  host : c.byte 16 = 0
  head : headCheck (padTo 128 b) = stOk
  place : ∀ x, s.region (c.byte 19) = some x → x.part = c.partNo ∧ x.cx = c.byte 17 ∧ x.cy = c.byte 18
  aligned : c.arg 24 6 % 64 = 0
  owned : q.ownsHbm (c.arg 24 6) (fld (padTo 128 b) 0x20 8) = true
  copied : s.stageImage c (padTo (fld (padTo 128 b) 0x20 8) b) = u
  sound : u.checkImage q (c.arg 24 6) (c.byte 19) (c.byte 17) (c.byte 18) = stOk
  fits : u.endpointsFit q (c.byte 19) (u.inboundsOf (c.arg 24 6) (c.byte 19) (c.byte 17) (c.byte 18)
    (u.sects (c.arg 24 6) (u.header (c.arg 24 6)))) = true

/-- IMAGE_LOAD of an image from the host that passes every check stages it (R168, R330). -/
theorem imageLoad_stages {u : State} (hc : dispatched s id 0x20 c) (hin : c.inputOf io = .ok b) (hload : Loadable s u c b q) :
    runs (.imageLoad id io) s ((imageStaged u c (c.arg 24 6)).finish id stOk 0 0) := by
  obtain ⟨hq, hhost, hhead, hplace, halign, howns, hcopied, hsound, hfits⟩ := hload
  have hclash : (match s.region (c.byte 19) with
      | none => false
      | some r => decide (r.part ≠ c.partNo ∨ r.cx ≠ c.byte 17 ∨ r.cy ≠ c.byte 18)) = false := by
    cases hx : s.region (c.byte 19) with
    | none => rfl
    | some x =>
      obtain ⟨hpart, hcx, hcy⟩ := hplace x hx
      simp [hpart, hcx, hcy]
  subst hcopied
  refine congrArg (answer s) ((runCmd_eq hc io _).trans ?_)
  extract_lets p rn cx cy dst
  rw [show s.part p = some q from hq]
  refine (if_neg (by omega)).trans ((withHost_eq hin _).trans ?_)
  rw [if_neg (show ¬ c.byte 16 = 1 by omega)]
  refine (if_neg (by omega)).trans ((if_neg (ne_true_of_eq_false hclash)).trans ((if_neg (not_not_intro hhead)).trans ?_))
  refine (if_neg (not_or.mpr ⟨not_not_intro halign, ne_true_of_eq_false (congrArg not howns)⟩)).trans ((if_neg (not_not_intro hsound)).trans ?_)
  exact if_neg (ne_true_of_eq_false (congrArg not hfits))

/-- The activations of the named regions started, one after another (R153, R154). -/
def activationsStarted (s : State) (id mode : Nat) (named : List Nat) : State :=
  named.foldl (fun s rn => match s.region rn with
    | none => s
    | some r => s.startActivation rn (decide (mode = 2) || (decide (mode = 0)
        && decide ((match r.staged with | none => 0 | some b => (s.header b).mode) = 1))) id) s

/-- The clusters of the named regions woken (R153, R363). -/
def regionsWoken (s : State) (named : List Nat) : State :=
  (named.flatMap fun rn => match s.region rn with | none => [] | some r => r.clusters).foldl (fun s c => s.requestWake c) s

/-- IMAGE_ACTIVATE of regions whose images are staged and that no activation stands at starts their activations (R153, R330). -/
theorem imageActivate_starts (hc : dispatched s id 0x21 c) (hin : c.inputOf io = .ok b) (hmode : c.byte 8 ≤ 2)
    (hnamed : ∀ rn ∈ onesOf c.regions 256, ∃ r, s.region rn = some r ∧ r.part = c.partNo ∧ r.staged.isSome = true ∧ r.act = none) :
    runs (.imageActivate id io) s ((regionsWoken (activationsStarted s id (c.byte 8) (onesOf c.regions 256)) (onesOf c.regions 256)).settleActivation id) := by
  have hidle : (onesOf c.regions 256).any (fun rn => match s.region rn with
      | none => false
      | some r => decide (r.part = c.partNo) && r.act.isSome) = false := by
    rw [List.any_eq_false]
    intro rn hrn
    obtain ⟨r, hr, -, -, hact⟩ := hnamed rn hrn
    simp [hr, hact]
  have hstaged : (onesOf c.regions 256).all (fun rn => match s.region rn with
      | none => false
      | some r => decide (r.part = c.partNo) && r.staged.isSome) = true := by
    rw [List.all_eq_true]
    intro rn hrn
    obtain ⟨r, hr, hpart, hsome, -⟩ := hnamed rn hrn
    simp [hr, hpart, hsome]
  refine congrArg (answer s) ((runCmd_eq hc io _).trans ((withHost_eq hin _).trans ?_))
  refine (if_neg (by omega)).trans ((if_neg (ne_true_of_eq_false hidle)).trans ?_)
  exact if_neg (ne_true_of_eq_false (congrArg not hstaged))

/-- Activation a of region rn drains it, and nothing holds the drain up (R153, R156). -/
structure Draining (s : State) (rn : Nat) (r : Region) (a : Activation) : Prop where
  region : s.region rn = some r
  act : r.act = some a
  phase : a.phase = .draining
  frozen : s.frozen r.part = false
  shedding : s.shedding = false
  awake : r.clusters.all (fun c => !s.power.paused.contains c) = true

theorem activationDrainComplete_stops (hd : Draining s rn r a) (hempty : s.regionEmpty rn r = true) : runs (.activationDrainComplete rn) s
    (r.clusters.foldl (fun s c => s.stopCluster c) (s.setRegion rn { r with act := some { a with phase := .drained } })) := by
  obtain ⟨hr, hact, hphase, hfrozen, hshed, hawake⟩ := hd
  refine congrArg (answer s) ?_
  rw [hr]
  dsimp only
  rw [hact]
  exact if_pos ⟨hphase, hempty, by rw [hfrozen]; rfl, by rw [hshed]; rfl, hawake⟩

theorem activationDrainTimeout_drops (hd : Draining s rn r a) : runs (.activationDrainTimeout rn) s (s.dropActivation rn stTimeout) := by
  obtain ⟨hr, hact, hphase, hfrozen, hshed, hawake⟩ := hd
  refine congrArg (answer s) ?_
  rw [hr]
  dsimp only
  rw [hact]
  exact if_pos ⟨hphase, by rw [hfrozen]; rfl, by rw [hshed]; rfl, hawake⟩

/-- The DATA records of the image at base for region rn (R166). -/
def imageData (s : State) (rn base : Nat) (r : Region) : List DataRec :=
  (s.recordsOf base (s.sects base (s.header base)) sData 32).map (dataOf rn r.cx r.cy)

/-- The inbound records of the image at base for region rn (R166). -/
def imageInbounds (s : State) (rn base : Nat) (r : Region) : List Inbound := s.inboundsOf base rn r.cx r.cy (s.sects base (s.header base))

/-- Region rn, if it stands, with the credits of its cores' loops counted anew (R153). -/
def rebased (u : State) (rn : Nat) : State := match u.region rn with | none => u | some r => u.rebaseRegion r

theorem rebased_some {u : State} (hr : u.region rn = some r) : rebased u rn = u.rebaseRegion r := by
  unfold rebased
  rw [hr]

/-- The image at base in force in region rn: its epoch advanced, its ports open, its activation at an end (R153, R155). -/
def imageInForce (s : State) (rn base p cmd : Nat) : State :=
  (((((rebased (s.loadRegion rn base) rn).advanceEpoch rn true).modRegion rn fun r => { r with act := none }).setPorts rn false).modPart
    p fun q => { q with capsLost := false }).settleActivation cmd

/-- A region that drained loads its image, unless its data or its endpoints end the activation (R153, R156, R286). -/
theorem activationLoadComplete_loads (hr : s.region rn = some r) (hact : r.act = some a) (hstaged : r.staged = some base) (hq : s.part r.part = some q)
    (hphase : a.phase = .drained) (hfrozen : s.frozen r.part = false) (hshed : s.shedding = false) (hlimit : r.limited s.now = false)
    (hawake : r.clusters.all (fun c => decide (2 ≤ s.power? c) && !s.power.paused.contains c) = true) :
    runs (.activationLoadComplete rn) s (if !s.dataOk (imageData s rn base r) then s.dropActivation rn stFault
      else if !s.endpointsFit q rn (imageInbounds s rn base r) then s.dropActivation rn stNoResource
      else imageInForce s rn base r.part a.cmd) := by
  refine congrArg (answer s) ?_
  rw [hr]
  dsimp -zeta only
  rw [hact, hstaged]
  refine (if_neg ?_).trans ?_
  · rw [hawake]
    simp [hphase, hfrozen, hshed, hlimit]
  · rw [hq]
    rfl

/-- An activation that waited for the limit of R149 starts once the limit allows. -/
theorem epochRateWaitEnd_starts (hr : s.region rn = some r) (hact : r.act = some a) (hphase : a.phase = .rateWait) (hlimit : r.limited s.now = false)
    (hq : (s.startActivation rn a.discard a.cmd).part r.part = some q) (hwait : q.rateWait = false) :
    runs (.epochRateWaitEnd rn) s (s.startActivation rn a.discard a.cmd) := by
  refine congrArg (answer s) ?_
  rw [hr]
  dsimp -zeta only
  rw [if_neg (ne_true_of_eq_false hlimit)]
  extract_lets u
  have hu : u = s.startActivation rn a.discard a.cmd := by
    unfold u
    rw [hact]
    exact if_pos hphase
  rw [hu, hq]
  exact if_pos (.inl (by rw [hwait]; rfl))

end Images

/-- Settles O49: each command runs where its conditions hold, and its checks decide on the branch that the statement names. -/
theorem imagesComeIntoUse : Obligations.ImagesComeIntoUse := by
  unfold Obligations.ImagesComeIntoUse
  refine ⟨fun s id op c io b hc hin => ⟨fun q hop hq hhost hhead => ?load, fun hop hmode => ?activate⟩,
    fun s rn r a hr hact => ⟨fun hphase hfrozen hshed hpaused => ⟨fun hempty => ?drained, ?timeout⟩,
      fun base q hphase hfrozen hshed hlimit hstaged hq hawake => ?loaded, fun q hphase hlimit hq hwait => ?waited⟩⟩
  case load =>
    subst hop
    exact fun hplace halign howns hsound hfits => imageLoad_stages hc hin ⟨hq, hhost, hhead, hplace, halign, howns, rfl, hsound, hfits⟩
  case activate =>
    subst hop
    exact fun hnamed => imageActivate_starts hc hin hmode hnamed
  case drained => exact activationDrainComplete_stops ⟨hr, hact, hphase, hfrozen, hshed, hpaused⟩ hempty
  case timeout => exact activationDrainTimeout_drops ⟨hr, hact, hphase, hfrozen, hshed, hpaused⟩
  case loaded =>
    have hloads := activationLoadComplete_loads hr hact hstaged hq hphase hfrozen hshed hlimit hawake
    refine ⟨fun hdata => ?_, fun hdata hfits => ?_, fun hdata hfits x hx => ?_⟩
    · exact runs_ite_pos hloads (congrArg not hdata)
    · exact runs_ite_pos (runs_ite_neg hloads (ne_true_of_eq_false (congrArg not hdata))) (congrArg not hfits)
    · have hforce := runs_ite_neg (runs_ite_neg hloads (ne_true_of_eq_false (congrArg not hdata))) (ne_true_of_eq_false (congrArg not hfits))
      unfold imageInForce at hforce
      rwa [rebased_some hx] at hforce
  case waited => exact epochRateWaitEnd_starts hr hact hphase hlimit hq hwait

end Sys2Proof.Proofs
end

section
/-! Proofs of the statements on cluster memory: descriptors that enter a mover's channel and that complete (R188, R197), the audit of resident
data (R185, R186), and the commands that move a partition's data and run its steps (R203, R330, R331, R333, R340). -/

namespace Sys2Proof.Proofs

open Sys2Proof Sys2Proof.Machine Sys2Proof.Safety Sys2Proof.Laws

/-! ### Descriptors that enter a channel -/

section Enqueue

variable {s : State} {h qo : Nat} {t : Token} {ts : List Token} {eid : BitVec 24}

/-- The head of output queue qo of hart h off its queue, the tokens ts left there. -/
def descTaken (s : State) (h qo : Nat) (ts : List Token) : State := s.setCore h ((s.core h).setOutQ qo { (s.core h).outQ qo with tokens := ts })

/-- Token t of the present epoch heads a queue bound to mover channel eid, and the cluster's tokens flow (R123, R188). -/
structure AtMover (s : State) (h qo : Nat) (t : Token) (ts : List Token) (eid : BitVec 24) : Prop where
  head : ((s.core h).outQ qo).tokens = t :: ts
  dest : s.outDest h qo = .packets eid
  mover : isMoverEid eid = true
  flows : s.flows (h / 32) = true
  present : behind t.epoch (s.epochOf (h / 32)) = false

/-- BM_DESCRIPTOR_ENQUEUE of such a token: dropped and counted, or into the channel's queue if that has room (R188). -/
theorem bmDescriptorEnqueue_takes (ha : AtMover s h qo t ts eid) : exec (.bmDescriptorEnqueue h qo) s = answer s (
    let n := eid.toNat - 0xFFFFE0
    let x := (s.clu (h / 32)).chan n
    if !imageChan n || t.kind != kData then (descTaken s h qo ts).count (s.cluReg (h / 32) 0x930) 1
    else if x.queue.length < 4 then
      (descTaken s h qo ts).setClu (h / 32) ((s.clu (h / 32)).setChan n { x with queue := x.queue ++ [t.payload] })
    else s) := by
  obtain ⟨hhead, hdest, hmover, hflows, hpresent⟩ := ha
  refine congrArg (answer s) ?_
  dsimp only
  rw [hhead, hdest]
  refine (if_neg (by simp [hmover, hflows])).trans ?_
  exact if_neg (ne_true_of_eq_false hpresent)

theorem bmDescriptorEnqueue_enters (ha : AtMover s h qo t ts eid) (himage : imageChan (eid.toNat - 0xFFFFE0) = true) (hkind : t.kind = kData)
    (hroom : ((s.clu (h / 32)).chan (eid.toNat - 0xFFFFE0)).queue.length < 4) : exec (.bmDescriptorEnqueue h qo) s = .next (
      let n := eid.toNat - 0xFFFFE0
      let x := (s.clu (h / 32)).chan n
      (descTaken s h qo ts).setClu (h / 32) ((s.clu (h / 32)).setChan n { x with queue := x.queue ++ [t.payload] })) := by
  rw [bmDescriptorEnqueue_takes ha]
  dsimp only
  rw [if_neg (by simp [himage, hkind]), if_pos hroom]
  exact (((KeepsFixed.refl s).setCore ..).setClu ..).answer

theorem bmDescriptorEnqueue_drops (ha : AtMover s h qo t ts eid) (hdrop : imageChan (eid.toNat - 0xFFFFE0) = false ∨ t.kind ≠ kData) :
    exec (.bmDescriptorEnqueue h qo) s = .next ((descTaken s h qo ts).count (s.cluReg (h / 32) 0x930) 1) := by
  rw [bmDescriptorEnqueue_takes ha]
  dsimp only
  rw [if_pos (by simpa using hdrop)]
  exact (((KeepsFixed.refl s).setCore ..).count ..).answer

end Enqueue

/-! ### Descriptors that complete -/

section Completion

variable {s : State} {c ch : Nat} {r : BmRun}

/-- The channel at rest, its DONE_COUNT one more, and tag and status in its register (R197). -/
def channelDone (s : State) (c ch : Nat) (r : BmRun) : State :=
  let a := s.cluReg c (0xA00 + ch * 16)
  ((s.setClu c ((s.clu c).setChan ch { (s.clu c).chan ch with run := none, done := ((s.clu c).chan ch).done + 1 })).setField a 6 8
    (bmf r.desc 17 0 8)).setField a 14 8 r.status

theorem channelDone_keepsFixed (s : State) (c ch : Nat) (r : BmRun) : KeepsFixed s (channelDone s c ch r) := ⟨rfl, rfl, rfl⟩

/-- A descriptor that asks for no completion word ends in its channel and the channel's register alone (R197). -/
theorem bmComplete_wordless (hw : bmf r.desc 18 23 1 = 0) : s.bmComplete c ch r = channelDone s c ch r := if_pos hw

/-- The completion word of a descriptor with a local destination: tag, status, 1, the channel and DONE_COUNT (R197). -/
theorem bmComplete_word (hw : bmf r.desc 18 23 1 = 1) (hd : bmDstRemote r.desc = false) :
    s.bmComplete c ch r = (channelDone s c ch r).store .mover (s.cluEid c) (sramBase c + bmf r.desc 18 0 20 * 8)
      (natLe 1 (bmf r.desc 17 0 8) ++ natLe 1 r.status ++ [1] ++ natLe 1 ch ++ natLe 4 (((s.clu c).chan ch).done + 1).toNat) := by
  refine (if_neg (by omega)).trans ?_
  exact if_neg (by simp [hd])

theorem bmCompletion_completes (hr : ((s.clu c).chan ch).run = some r) (hf : s.flows c = true) (hdone : s.bmDone c ch r = true) :
    exec (.bmCompletion c ch) s = answer s (s.bmComplete c ch r) := by
  refine congrArg (answer s) ?_
  dsimp only
  rw [hr]
  exact (if_neg (by simp [hf])).trans (if_pos hdone)

end Completion

/-- Settles O30: what the token and its channel are decides what becomes of it; a completion is read off the descriptor's bits for its word. -/
theorem moverQueuesAndEnds : Obligations.MoverQueuesAndEnds := by
  unfold Obligations.MoverQueuesAndEnds
  refine ⟨fun s h qo t ts eid hhead hdest hmover hflows hpresent => ?enqueue, fun s c ch r hr hf hdone => ⟨fun hw => ?wordless, fun hw hd => ?word⟩⟩
  case enqueue =>
    have ha : AtMover s h qo t ts eid := ⟨hhead, hdest, hmover, hflows, hpresent⟩
    exact ⟨bmDescriptorEnqueue_enters ha, bmDescriptorEnqueue_drops ha⟩
  case wordless =>
    rw [bmCompletion_completes hr hf hdone, bmComplete_wordless hw]
    exact (channelDone_keepsFixed s c ch r).answer
  case word => exact (bmCompletion_completes hr hf hdone).trans (congrArg (answer s) (bmComplete_word hw hd))

/-! ### The audit of resident data -/

section Audit

variable {s u t : State} {p rec : Nat} {q : Part} {d : DataRec}

theorem same3_onlyEvents (hs : Same3 s u) (h : OnlyEvents u t) : Same3 s t := by
  unfold Same3 at *
  rw [h]
  exact hs

theorem countLateAudit_same (hs : Same3 s u) (cs : List Nat) : Same3 s (u.countLateAudit cs) := by
  unfold State.countLateAudit
  exact foldl_keep _ (Same3 s) (fun v c hv => hv.regs (count_onlyRegs ..)) _ _ hs

/-- What a pass counts: the bytes that it read, and in each cluster of the partition that it ended late (R185, R205). -/
def passCounted (s : State) (q : Part) : State := if (q.nextAudit s.now).2 then (s.auditPass q).countLateAudit q.clusters else s.auditPass q

theorem passCounted_same (s : State) (q : Part) : Same3 s (passCounted s q) := by
  unfold passCounted
  split
  · exact countLateAudit_same (auditPass_same s q) _
  · exact auditPass_same s q

/-- Partition q with its records that hold noted clean, and its next pass due when its next period begins (R185). -/
def cleanNoted (s : State) (q : Part) : Part :=
  { q with data := q.data.map fun d => if !s.auditSkips d.region q && s.dataHolds d then { d with clean := q.stepCount } else d
           auditAt := (q.nextAudit s.now).1 }

theorem residentAudit_notes (hq : s.part p = some q) (hon : q.auditS ≠ 0) (hdue : q.auditAt ≤ s.now) :
    exec (.residentAudit p) s = answer s ((passCounted s q).modPart p (cleanNoted s)) := by
  refine congrArg (answer s) ?_
  rw [hq]
  exact if_neg (not_or.mpr ⟨hon, not_lt.mpr hdue⟩)

theorem residentAudit_waits (hq : s.part p = some q) (hearly : s.now < q.auditAt) : exec (.residentAudit p) s = .next s := by
  refine (congrArg (answer s) ?_).trans (answer_self s)
  rw [hq]
  exact if_pos (.inr hearly)

/-- A mismatch of record rec, which is d, counted at its cluster and recorded with event 0x0303 (R186). -/
def mismatchRecorded (s : State) (p : Nat) (q : Part) (rec : Nat) (d : DataRec) : State :=
  (s.count (s.cluReg d.cluster 0x934) 1).record 0x0303 3 p d.region (onCluster d.cluster) (u32 rec ++ u64 d.clean.toNat ++ u64 q.stepCount.toNat)

theorem mismatchRecorded_same (s : State) (p : Nat) (q : Part) (rec : Nat) (d : DataRec) : Same3 s (mismatchRecorded s p q rec d) :=
  have hs : Same3 s s := ⟨rfl, rfl, rfl⟩
  same3_onlyEvents (hs.regs (count_onlyRegs ..)) (record_onlyEvents ..)

/-- A mismatch counted and recorded; the second at one place within 24 hours schedules a test (R186). -/
def mismatchCounted (s : State) (p : Nat) (q : Part) (rec : Nat) (d : DataRec) : State :=
  let u := mismatchRecorded s p q rec d
  if q.auditHits.any fun e => decide (e.1 = auditPlace d.addr) && decide (u.trust.opTime < e.2 + 86400000) then u.scheduleTest (u.blk d.cluster) else u

theorem mismatchCounted_same (s : State) (p : Nat) (q : Part) (rec : Nat) (d : DataRec) : Same3 s (mismatchCounted s p q rec d) := by
  unfold mismatchCounted
  dsimp only
  split
  · exact scheduleTest_same _ _ _ (mismatchRecorded_same s p q rec d)
  · exact mismatchRecorded_same s p q rec d

/-- Partition q with a mismatch of record rec noted at place w and time at_, to be restored at the next step boundary (R186). -/
def toRestore (rec w at_ : Nat) (q : Part) : Part :=
  { q with auditHits := (w, at_) :: q.auditHits, repairRec := if q.repairRec.contains rec then q.repairRec else q.repairRec ++ [rec] }

theorem auditMismatch_notes (hq : s.part p = some q) (hd : q.data[rec]? = some d) (hbad : s.dataHolds d = false) (hskip : s.auditSkips d.region q = false)
    (hstep : q.step.isSome = true) : exec (.auditMismatch p rec) s = answer s ((mismatchCounted s p q rec d).modPart p
      (toRestore rec (auditPlace d.addr) (mismatchCounted s p q rec d).trust.opTime)) := by
  refine congrArg (answer s) ?_
  rw [hq]
  dsimp only
  rw [hd]
  exact (if_neg (by simp [hbad, hskip])).trans (if_pos hstep)

end Audit

/-- Settles O32: a pass and a mismatch move only registers and the recorder before they note in the partition, so the note is of the partition as it was. -/
theorem auditOfResidentData : Obligations.AuditOfResidentData := by
  unfold Obligations.AuditOfResidentData
  refine fun s p q hq => ⟨fun hon hdue => ?clean, fun hearly => residentAudit_waits hq hearly, fun rec d hd hbad hskip hstep hnew => ?mismatch⟩
  case clean =>
    obtain ⟨t, hexec, hpart, hmem, hcores⟩ := modPart_answer _ s p q (cleanNoted s) (passCounted_same s q) hq
    exact ⟨t, (residentAudit_notes hq hon hdue).trans hexec, hmem, hcores, _, hpart, rfl, rfl⟩
  case mismatch =>
    obtain ⟨t, hexec, hpart, hmem, hcores⟩ := modPart_answer _ s p q (toRestore rec (auditPlace d.addr) (mismatchCounted s p q rec d).trust.opTime)
      (mismatchCounted_same s p q rec d) hq
    exact ⟨t, _, (auditMismatch_notes hq hd hbad hskip hstep).trans hexec, hpart, if_neg (ne_true_of_eq_false hnew), hmem, hcores⟩

/-! ### Commands that move data -/

section Data

variable {s : State} {id : Nat} {c : Started} {io : HostIo} {b : Bytes} {q : Part}

/-- The bytes b of a DATA_PLACE in the range that command c names, the caches of partition q with them (R203, R330). -/
def bytesPlaced (s : State) (c : Started) (b : Bytes) (q : Part) : State :=
  ((s.placeBytes (c.arg 16 6) (padTo (c.arg 24 8) b)).placedBySram (c.arg 16 6) (c.arg 24 8)).placed q (c.arg 16 6)

theorem dataPlace_places (hc : dispatched s id 0x22 c) (hin : c.inputOf io = .ok b) (hq : s.part c.partNo = some q) (hok : dataOk q c = true)
    (hdirect : c.byPacket = false) (hheld : s.rangeHeld c = false) : runs (.dataPlace id io) s ((bytesPlaced s c b q).finish id stOk 0 0) := by
  refine congrArg (answer s) ((runCmd_eq hc io _).trans ?_)
  rw [hq]
  refine (if_neg (by simp [hok])).trans ((withHost_eq hin _).trans ((if_neg (ne_true_of_eq_false hheld)).trans ?_))
  unfold Started.byPacket at hdirect
  cases horigin : c.origin with
  | packet eid a n i => simp [horigin] at hdirect
  | ring r => rfl
  | network => rfl

theorem dataFetch_fetches (hc : dispatched s id 0x23 c) (hin : c.inputOf io = .ok b) (hq : s.part c.partNo = some q) (hok : dataOk q c = true)
    (hdirect : c.byPacket = false) (hheld : s.rangeHeld c = false) : runs (.dataFetch id io) s
      ((s.fetchBytes (c.arg 16 6) (c.arg 24 8)).1.finishOut id c (c.arg 8 8) (s.fetchBytes (c.arg 16 6) (c.arg 24 8)).2 stOk 0 0) := by
  refine congrArg (answer s) ((runCmd_eq hc io _).trans ?_)
  rw [hq]
  refine (if_neg (by simp [hok])).trans ((if_neg (ne_true_of_eq_false hdirect)).trans ?_)
  exact (if_neg (ne_true_of_eq_false hheld)).trans (withHost_eq hin _)

end Data

/-! ### Commands that run, abort and release steps -/

section RunStep

variable {s : State} {id : Nat} {c : Started} {io : HostIo} {q : Part}

/-- The repairs that a partition without a step makes before it takes one (R186). -/
def stepRepaired (s : State) (p : Nat) (q : Part) : State := if q.step.isNone then s.repairRecords p else s

/-- Step st of partition p queued, its clusters woken and the flow of its regions raised ahead of it (R331, R363, R377). -/
def stepQueued (s : State) (p : Nat) (q : Part) (st : StepRec) : State :=
  let u := s.flowAhead q st.regions.toNat
  ((u.stepClusters p st).foldl (fun s c => s.requestWake c) u).modPart p fun q => { q with queued := q.queued ++ [st] }

/-- STEP_RUN of a step that passes its checks queues it, and one that nothing runs before begins (R331). -/
theorem stepRun_queues (hc : dispatched s id 0x30 c) (hq : s.part c.partNo = some q) (hidle : ∀ e ∈ s.regionsOf c.partNo, e.2.act = none)
    (hnew : ∀ x ∈ q.queued ++ q.step.toList, x.cmd ≠ id) (hcheck : (stepRepaired s c.partNo q).stepCheck c.partNo q (c.stepOf id) = none) :
    runs (.stepRun id io) s (if q.step.isSome then stepQueued (stepRepaired s c.partNo q) c.partNo q (c.stepOf id)
      else (stepQueued (stepRepaired s c.partNo q) c.partNo q (c.stepOf id)).promote c.partNo (q.queued.length + 1)) := by
  have hactive : (s.regionsOf c.partNo).any (fun e => e.2.act.isSome) = false := by
    rw [List.any_eq_false]
    intro e he
    simp [hidle e he]
  have hqueued : (q.queued ++ q.step.toList).any (fun x => decide (x.cmd = id)) = false := by
    rw [List.any_eq_false]
    intro x hx
    simpa using hnew x hx
  refine congrArg (answer s) ((runCmd_eq hc io _).trans ?_)
  rw [hq]
  refine (if_neg (by simp only [hactive, hqueued]; decide)).trans ?_
  unfold stepRepaired at hcheck
  extract_lets s'
  rw [show s'.stepCheck c.partNo q (c.stepOf id) = none from hcheck]
  rfl

/-- The steps that wait behind the running one aborted, if command c asks for it (R333). -/
def waitingAborted (s : State) (c : Started) (q : Part) : State :=
  if bitOf (c.byte 8) 0 then q.queued.foldl (fun s st => s.fail st.cmd stAborted) (s.modPart c.partNo fun q => { q with queued := [] }) else s

theorem stepAbort_aborts (hc : dispatched s id 0x31 c) (hq : s.part c.partNo = some q) : runs (.stepAbort id io) s
    ((if q.step.isSome then ((waitingAborted s c q).endStep c.partNo stAborted).clearStep c.partNo [] else waitingAborted s c q).finish id stOk
      (b2n q.step.isSome) 0) := by
  refine congrArg (answer s) ((runCmd_eq hc io _).trans ?_)
  rw [hq]
  rfl

/-- The result at a, of n bytes, no longer ready and its payload unpredictable (R340). -/
def resultReleased (s : State) (p a n : Nat) : State :=
  ((s.poke a [BitVec.ofNat 8 (setBits (memByte s.mem a).toNat 0 1 0)]).scramble (some p) (a + 64) (n - 64)).modPart p fun q =>
    { q with results := q.results.filter fun e => decide (e.1 ≠ a) }

theorem resultRelease_releases {e : Nat × Nat} (hc : dispatched s id 0x32 c) (hq : s.part c.partNo = some q)
    (hfree : ∀ st, q.step = some st → st.resAddr ≠ c.arg 24 6 ∨ st.resAddr = 0)
    (hready : q.results.find? (fun e => decide (e.1 = c.arg 24 6)) = some e) :
    runs (.resultRelease id io) s ((resultReleased s c.partNo (c.arg 24 6) e.2).finish id stOk 0 0) := by
  have hrunning : (match q.step with
      | none => false
      | some st => decide (st.resAddr = c.arg 24 6) && decide (c.arg 24 6 ≠ 0)) = false := by
    cases hstep : q.step with
    | none => rfl
    | some st =>
      refine Bool.eq_false_iff.mpr fun hholds => ?_
      simp only [Bool.and_eq_true, decide_eq_true_eq] at hholds
      have := hfree st hstep
      omega
  refine congrArg (answer s) ((runCmd_eq hc io _).trans ?_)
  rw [hq]
  refine (if_neg (ne_true_of_eq_false hrunning)).trans ?_
  rw [hready]
  rfl

end RunStep

/-- Settles O50: each command runs where its partition stands, and its checks decide on the branch that the statement names. -/
theorem dataAndSteps : Obligations.DataAndSteps := by
  unfold Obligations.DataAndSteps
  refine fun s id op c io b q hc hin hq => ⟨fun hok hdirect hheld => ⟨fun hop => ?place, fun hop => ?fetch⟩, fun hop hidle hnew hcheck => ?run,
    fun hop => ?abort, fun e hop hfree hready => ?release⟩
  case place =>
    subst hop
    exact dataPlace_places hc hin hq hok hdirect hheld
  case fetch =>
    subst hop
    exact dataFetch_fetches hc hin hq hok hdirect hheld
  case run =>
    subst hop
    have hqueues := stepRun_queues (io := io) hc hq hidle hnew hcheck
    exact ⟨fun hstep => runs_ite_pos hqueues hstep, fun hstep => runs_ite_neg hqueues (by simp [hstep])⟩
  case abort =>
    subst hop
    exact stepAbort_aborts hc hq
  case release =>
    subst hop
    exact resultRelease_releases hc hq hfree hready

end Sys2Proof.Proofs
end

section
/-! Proofs of the statements on the memory stacks and on what the host asks of them: page requests and responses (R215 to R230), what befalls a
stack (R212 to R233), partitions (R214, R329, R405), and the commands that set and maintain (R231, R336 to R338, R394, R400, R417). -/

namespace Sys2Proof.Proofs

open Sys2Proof Sys2Proof.Machine Sys2Proof.Safety Sys2Proof.Laws

/-! ### The smaller stacks -/

section SmallerStacks

variable {s : State}

/-- An offset past the bytes of its stack is unmapped (R35). -/
theorem mapped_hbm_past {n off : Nat} (hn : n < 24) (hoff : off < 0x1000000000) (hpast : s.stackBytes ≤ off) : s.mapped (hbmBase n + off) = false := by
  have hmod : (hbmBase n + off) % 0x1000000000 = off := by
    unfold hbmBase
    omega
  unfold State.mapped
  rw [if_pos (by unfold hbmBase; omega), hmod, decide_eq_false (Nat.not_lt.mpr hpast), Bool.false_and]

/-- A page number past the pages of the stack is no partition's page (R218). -/
theorem pageOf_past {n p : Nat} {h : ReqHdr} (hpast : s.stackPages ≤ h.ppn) : s.pageOf n p h = none := by
  unfold State.pageOf
  rw [decide_eq_false (Nat.not_lt.mpr hpast)]
  rfl

end SmallerStacks

/-- Settles O35: both bounds are the bytes of an E48's stack, as offset and as count of pages. -/
theorem smallerStacksEndEarlier : Obligations.SmallerStacksEndEarlier := by
  unfold Obligations.SmallerStacksEndEarlier
  intro s he48
  have hbytes : s.stackBytes = 0xC00000000 := if_pos he48
  have hpages : s.stackPages = 786432 := congrArg (· / 65536) hbytes
  exact ⟨fun n off hn hlow hoff => mapped_hbm_past hn hoff (hbytes ▸ hlow), fun n p h hpage => pageOf_past (hpages ▸ hpage)⟩

/-! ### Page requests and passes -/

section Requests

variable {s u : State} {n c p : Nat} {req : List Token} {h : ReqHdr} {e : Pte}

/-- A whole request of a partition whose turn has come is taken off and served (R214, R222, R223, R227). -/
theorem request_serves {row : Bool} (hs : served s u n c p req) (hrow : row = true) (run : State → Nat → ReqHdr → State) :
    s.request n c req row run = run u p (reqOf req) := by
  obtain ⟨hn, hup, hturn, rfl, hpart, habsorb, hok, hfenced, hcounts⟩ := hs
  refine (if_neg (by simp [hrow, hn, hup, hturn])).trans ?_
  rw [hpart]
  refine (if_neg (by simp [habsorb])).trans ((if_neg (ne_true_of_eq_false hfenced)).trans ((if_neg (by simp [hok])).trans ?_))
  exact if_pos hcounts

/-- A page operation of partition p answered OK: e' is the entry of its page, and its new FILL is told (R218, R225). -/
def pageAnswered (v : State) (n p : Nat) (h : ReqHdr) (e' : Pte) : State := (v.setPte n h.ppn e').respondBare n (some p) h stOk e'.fill

/-- A page operation within its conditions takes effect on the resolved entry (R218, R219). -/
theorem pageOp_accepts {ok : Pte → Bool} {op : State → Pte → Pte × State} (he : u.pageOf n p h = some e) (hok : ok e = true) :
    u.pageOp n p h ok op = pageAnswered (op (u.setPte n h.ppn e) e).2 n p h (op (u.setPte n h.ppn e) e).1 := by
  unfold State.pageOp
  rw [he]
  exact if_neg (by simp [hok])

/-- A page operation whose condition fails is rejected and counted; its entry is resolved and no more (R218, R219). -/
theorem pageOp_rejects {ok : Pte → Bool} {op : State → Pte → Pte × State} (he : u.pageOf n p h = some e) (hok : ok e = false) :
    u.pageOp n p h ok op = ((u.setPte n h.ppn e).rejectPage n p).respondBare n (some p) h stFault e.fill := by
  unfold State.pageOp
  rw [he]
  exact if_pos (by rw [hok]; rfl)

/-- PASS of a stack that takes up passes, with a unit free, runs its pages (R215, R228, R229, R230). -/
theorem pass_passes (hs : served s u n c p req) (hop : (reqOf req).op = 1) (hreach : s.stackFenced n c = false) (hshed : s.field pwrBase 3 1 = 0)
    (hduty : s.field (sbdBase n + 4) 4 3 ≠ 4) (hunits : ((s.stack n).replies.filter fun r => r.pass).length < 16) :
    runs (.pass n c req) s (u.runPass n p (reqOf req) req) :=
  congrArg (answer s) (request_serves hs (by simp [hop, hreach, hshed, hduty, hunits]) _)

end Requests

/-! ### Responses -/

section Responses

variable {s : State} {n : Nat} {r : Reply}

theorem KeepsFixed.setStack {t : State} (k : KeepsFixed s t) (n : Nat) (x : Stack) : KeepsFixed s (t.setStack n x) := ⟨k.pending, k.now, k.hw⟩

/-- Response r dropped, and counted as one whose endpoint is not the requester's (R225). -/
def replyDropped (s : State) (n : Nat) (r : Reply) : State :=
  (s.setStack n { s.stack n with replies := (s.stack n).replies.erase r }).count (sbdBase n + 0x70) 1

/-- The next packet of response r sent; what is left of r keeps its place (R215, R225, R291). -/
def replySent (s : State) (n : Nat) (r : Reply) : State :=
  let run := packetRun 62 r.tokens
  let left := { r with tokens := r.tokens.drop run.length, begun := true }
  (s.setStack n { s.stack n with
      replies := if left.tokens = [] then (s.stack n).replies.erase r else (s.stack n).replies.map fun y => if y = r then left else y }).launch (agStack + n)
    ({ tokensPacket r.eid (BitVec.ofNat 24 (0xFFFFC0 + n)) run with cls := 2 }).sealed

/-- PASS_RESPONSE takes up the first response that has credit (R215, R225). -/
theorem passResponse_takes (hr : (s.stack n).replies.find? (fun r => s.replyCredit n r) = some r) :
    exec (.passResponse n) s = answer s (if (s.replyTo r).isNone then replyDropped s n r else replySent s n r) := by
  refine congrArg (answer s) ?_
  dsimp only
  rw [hr]
  rfl

end Responses

/-- Settles O33: a served request runs on its resolved entry, and a response that has credit is dropped or sent as its endpoint stands. -/
theorem pagesAndResponses : Obligations.PagesAndResponses := by
  unfold Obligations.PagesAndResponses
  refine ⟨fun s u n c p req e hs he => ⟨?init, ?free, ?trim, ?trimRejected, ?append, pass_passes hs⟩, fun s n r hr => ⟨?dropped, ?sent⟩⟩
  case init =>
    exact fun hop hformat hslot => congrArg (answer s) ((request_serves hs (decide_eq_true hop) _).trans (pageOp_accepts he (by simp [hformat, hslot])))
  case free =>
    exact fun hop => congrArg (answer s) ((request_serves hs (decide_eq_true hop) _).trans (pageOp_accepts he rfl))
  case trim =>
    exact fun hop hvalid hslot => congrArg (answer s) ((request_serves hs (decide_eq_true hop) _).trans (pageOp_accepts he (by simp [hvalid, hslot])))
  case trimRejected =>
    exact fun hop hbad => congrArg (answer s) ((request_serves hs (decide_eq_true hop) _).trans (pageOp_rejects he (by simpa [imp_iff_not_or] using hbad)))
  case append =>
    exact fun hop hvalid hdim hslot hroom => congrArg (answer s)
      ((request_serves hs (decide_eq_true hop) _).trans (pageOp_accepts he (by simp [hvalid, hdim, hslot, hslot ▸ hroom])))
  case dropped =>
    intro hto
    rw [passResponse_takes hr, if_pos (by rw [hto]; rfl)]
    exact (((KeepsFixed.refl s).setStack ..).count ..).answer
  case sent =>
    intro hto
    exact (passResponse_takes hr).trans (congrArg (answer s) (if_neg (by simpa using hto)))

/-! ### Sweeps and discards -/

section Discards

variable {s u : State} {n p : Nat} {q : Part}

/-- A state with the same registers reads the same fields. -/
theorem field_congr (hu : u.regs = s.regs) (a lo w : Nat) : u.field a lo w = s.field a lo w := by
  unfold State.field State.reg
  rw [hu]

/-- Stack n with every owned entry of its page table resolved (R219). -/
def entriesResolved (s : State) (n : Nat) : State :=
  (s.stack n).pte.foldl (fun s e => if (s.pte n e.1).owned then s.setPte n e.1 ((s.pte n e.1).resolve (s.partStep n (s.pte n e.1).part)) else s) s

theorem same3_setStack (a : Same3 s u) (n : Nat) (x : Stack) : Same3 s (u.setStack n x) := a

theorem entriesResolved_same (s : State) (n : Nat) : Same3 s (entriesResolved s n) := by
  unfold entriesResolved
  refine foldl_keep _ (Same3 s) (fun u e hu => ?_) _ _ ⟨rfl, rfl, rfl⟩
  split
  · exact same3_setStack hu ..
  · exact hu

/-- A sweep resolves the entries and then completes every discard (R219, R220). -/
theorem pageTableSweep_sweeps (s : State) (n : Nat) : exec (.pageTableSweep n) s = answer s
    ((List.range 64).foldl (fun s p => s.setField (sbdBase n + 0x200 + 4 * p) 18 1 0) (entriesResolved s n)) := rfl

/-- Partition p's passes end at all stacks (R220). -/
def passesEnded (s : State) (p : Nat) (q : Part) : State := (List.range 24).foldl (fun s k => s.endPasses k p q.clusters) s

theorem passesEnded_same (s : State) (p : Nat) (q : Part) : Same3 s (passesEnded s p q) := by
  unfold passesEnded
  refine foldl_keep _ (Same3 s) (fun u k hu => ?_) _ _ ⟨rfl, rfl, rfl⟩
  exact same3_setStack hu ..

theorem passesEnded_regs (s : State) (p : Nat) (q : Part) : (passesEnded s p q).regs = s.regs := by
  unfold passesEnded
  refine foldl_keep _ (fun u => u.regs = s.regs) (fun u k hu => ?_) _ _ rfl
  exact hu

/-- Partition p's discard entered at all stacks (R220). -/
def discardsEntered (s : State) (p : Nat) (q : Part) : State := (List.range 24).foldl (fun s k => s.discardAt k p q) s

theorem discardsEntered_same (hs : Same3 s u) (p : Nat) (q : Part) : Same3 s (discardsEntered u p q) := by
  unfold discardsEntered
  refine foldl_keep _ (Same3 s) (fun v k hv => ?_) _ _ hs
  obtain ⟨hparts, hmem, hcores⟩ := hv
  exact ⟨(discardAt_parts ..).trans hparts, (discardAt_mem ..).trans hmem, (discardAt_cores ..).trans hcores⟩

/-- A discard that is due ends the partition's passes; it is entered unless a sweep or a request stands before it (R220). -/
theorem stackDiscard_takes (hq : s.part p = some q) (hdue : q.discardDue = true) : exec (.stackDiscard p) s = answer s
    (if ((List.range 24).any fun k => (passesEnded s p q).field (sbdBase k + 0x200 + 4 * p) 18 1 = 1) || (passesEnded s p q).requestsFly q then
      passesEnded s p q
    else (discardsEntered (passesEnded s p q) p q).modPart p fun q => { q with discardDue := false }) := by
  refine congrArg (answer s) ?_
  dsimp only
  rw [hq]
  exact if_neg (by rw [hdue]; decide)

/-- With no request under way and the last sweep passed the discard is entered and no longer due (R220). -/
theorem stackDiscard_discards (hq : s.part p = some q) (hdue : q.discardDue = true) (hfly : (passesEnded s p q).requestsFly q = false)
    (hswept : ∀ k, k < 24 → s.field (sbdBase k + 0x200 + 4 * p) 18 1 ≠ 1) :
    ∃ t, exec (.stackDiscard p) s = .next t ∧ t.part p = some { q with discardDue := false } ∧ t.mem = s.mem ∧ t.cores = s.cores := by
  have hpend : ((List.range 24).any fun k => (passesEnded s p q).field (sbdBase k + 0x200 + 4 * p) 18 1 = 1) = false := by
    rw [List.any_eq_false]
    intro k hk
    rw [field_congr (passesEnded_regs s p q)]
    simpa using hswept k (List.mem_range.mp hk)
  rw [stackDiscard_takes hq hdue, if_neg (by rw [hpend, hfly]; decide)]
  exact modPart_answer _ s p q _ (discardsEntered_same (passesEnded_same s p q) p q) hq

end Discards

/-! ### Errors of DRAM and page tables -/

section Errors

variable {s : State} {n : Nat}

/-- An error comes to stand in a unit of a stack that works, where none stands yet (R212). -/
theorem dramUe_stands (o : BitVec 36) (hn : n < 24) (ho : o.toNat < s.stackBytes) (hl : s.stackLost n = false)
    (hnew : (s.stack n).ueUnits.contains (o.toNat / 64 * 64) = false) :
    exec (.dramUe n o) s = .next (s.setStack n { s.stack n with ueUnits := (s.stack n).ueUnits ++ [o.toNat / 64 * 64] }) := by
  have hunit : o.toNat / 64 * 64 < s.stackBytes := by omega
  exact (answer_onlyIf _ (by rw [decide_eq_true hn, decide_eq_true hunit, hl, hnew]; rfl)).trans ((KeepsFixed.refl s).setStack ..).answer

/-- A read that meets no standing error reports none (R212). -/
theorem reportUnits_none {f : Nat → Bool} (h : ∀ u ∈ (s.stack n).ueUnits, f u = false) : s.reportUnits n f = (s, false) := by
  have hnone : (s.stack n).ueUnits.filter f = [] := List.filter_eq_nil_iff.mpr fun u hu => ne_true_of_eq_false (h u hu)
  unfold State.reportUnits
  dsimp only
  rw [hnone]

/-- A scrubbed row whose read was corrected is counted (R212). -/
theorem patrolScrub_corrects {row : Nat} (hn : n < 24) (hrow : row < 16384) (hl : s.stackLost n = false)
    (hclean : ∀ u ∈ (s.stack n).ueUnits, (dramPlace u).row ≠ row) :
    exec (.patrolScrub n row true) s = .next (s.count (sbdBase n + 0x40) 1) := by
  refine (answer_onlyIf _ (by rw [decide_eq_true hn, decide_eq_true hrow, hl]; rfl)).trans ?_
  rw [reportUnits_none fun u hu => decide_eq_false (hclean u hu), if_pos rfl]
  exact ((KeepsFixed.refl s).count ..).answer

end Errors

/-! ### Temperatures -/

section Temperature

variable {s : State} {n : Nat} {ts : List Nat}

/-- The readings of a sample of stack n, present and highest, before its row is judged (R230). -/
def readingsTaken (s : State) (n : Nat) (ts : List Nat) : State :=
  let u := s.setField (sbdBase n + 8) 0 8 (ts.foldl Nat.max 0)
  (u.setField (sbdBase n + 8) 8 8 (Nat.max (ts.foldl Nat.max 0) (u.field (sbdBase n + 8) 8 8))).setTemps (156 + n) 0 ts

/-- A sample that leaves stack n in its row: the readings, with the duty of the row as it was (R230). -/
def rowKept (s : State) (n : Nat) (ts : List Nat) : State :=
  let h := (s.stack n).heat
  ((((readingsTaken s n ts).stackHeat false false).setField (sbdBase n + 4) 4 3 (heatDuty h)).setField (sbdBase n + 4) 7 1
    (b2n (decide (1 ≤ h) && decide (h ≤ 5)))).setStack n (s.stack n)

theorem readingsTaken_spec (hn : n < 24) : (readingsTaken s n ts).field (sbdBase n + 8) 0 8 = ts.foldl Nat.max 0 % 256
    ∧ (readingsTaken s n ts).mem = s.mem ∧ (readingsTaken s n ts).evr = s.evr := by
  obtain ⟨hreg, hmem, hevr, -, -⟩ := setTemps_spec ((s.setField (sbdBase n + 8) 0 8 (ts.foldl Nat.max 0)).setField (sbdBase n + 8) 8 8
    (Nat.max (ts.foldl Nat.max 0) ((s.setField (sbdBase n + 8) 0 8 (ts.foldl Nat.max 0)).field (sbdBase n + 8) 8 8))) (156 + n) 0 ts (sbdBase n + 8)
    (by unfold sbdBase thmBase panelBase; omega)
  refine ⟨?_, hmem, hevr⟩
  calc (readingsTaken s n ts).field (sbdBase n + 8) 0 8
    _ = _ := congrArg (fun w : Word => bits w.toNat 0 8) hreg
    _ = (s.setField (sbdBase n + 8) 0 8 (ts.foldl Nat.max 0)).field (sbdBase n + 8) 0 8 := field_setField_apart _ _ _ _ _ _ _ (by decide) (by decide)
    _ = ts.foldl Nat.max 0 % 256 := field_setField _ _ _ _ _ (by decide)

/-- A sample in whose row the stack stays warns of nothing and moves only the readings (R230). -/
theorem stackTempSample_keepsRow (hn : n < 24) (hl : s.stackLost n = false)
    (hrow : (s.stack n).cooled (ts.foldl Nat.max 0) s.now = ((s.stack n).heat, (s.stack n).coolAt)) (hcool : (s.stack n).heat ≠ 6) :
    exec (.stackTempSample n ts) s = answer s (rowKept s n ts) := by
  have hrises : ∀ row, ¬ ((s.stack n).heat < row ∧ row ≤ (s.stack n).heat) := fun row => by omega
  have hcritical : ¬ ((s.stack n).heat < 6 ∧ (s.stack n).heat = 6) := by omega
  refine congrArg (answer s) ((if_neg (by simp [hl, hn])).trans ?_)
  dsimp only
  rw [setField_now, setField_now, hrow]
  simp only [if_neg (hrises _), if_neg hcool]
  rw [if_neg (fun h => hcool h.1), decide_eq_false (hrises 2), decide_eq_false (not_or.mpr ⟨hrises 5, hcritical⟩)]
  rfl

theorem rowKept_spec (hn : n < 24) : (rowKept s n ts).stack n = s.stack n ∧ (rowKept s n ts).field (sbdBase n + 8) 0 8 = ts.foldl Nat.max 0 % 256
    ∧ (rowKept s n ts).mem = s.mem ∧ (rowKept s n ts).evr = s.evr := by
  obtain ⟨hfield, hmem, hevr⟩ := readingsTaken_spec (s := s) (ts := ts) hn
  obtain ⟨hstack, hfield', hmem', hevr'⟩ := temp_end (readingsTaken s n ts) (sbdBase n + 8) (sbdBase n + 4) (heatDuty (s.stack n).heat)
    (b2n (decide (1 ≤ (s.stack n).heat) && decide ((s.stack n).heat ≤ 5))) n (s.stack n) false false (by omega)
  exact ⟨hstack, hfield'.trans hfield, hmem'.trans hmem, hevr'.trans hevr⟩

end Temperature

/-! ### Retrains of channels -/

section Retrains

variable {s : State} {n ch : Nat}

/-- Channel ch of stack n taken out of service for a retrain (R231). -/
def channelTaken (s : State) (n ch : Nat) : State := (s.setField (sbdBase n + 4) 8 1 1).setField (sbdBase n + 0x100 + 4 * ch) 0 2 1

theorem channelTaken_tries (s : State) (n ch : Nat) :
    (channelTaken s n ch).field (sbdBase n + 0x100 + 4 * ch) 2 6 = s.field (sbdBase n + 0x100 + 4 * ch) 2 6 :=
  (field_setField_apart _ _ _ _ _ _ _ (by decide) (by decide)).trans (field_setField_ne _ _ _ _ _ _ _ _ (by omega))

/-- A retrain that begins is counted by the stack and by its channel (R231). -/
theorem retrainGo_eq (s : State) (n ch : Nat) (cmd : Option Nat) : s.retrainGo n ch cmd
    = (((channelTaken s n ch).count (sbdBase n + 0x6C) 1).setField (sbdBase n + 0x100 + 4 * ch) 2 6
        (satAdd 6 (s.field (sbdBase n + 0x100 + 4 * ch) 2 6) 1)).setStack n { s.stack n with retrain := some (ch, cmd) } := by
  unfold State.retrainGo
  extract_lets a u v x y
  have hv : v = ((channelTaken s n ch).count (sbdBase n + 0x6C) 1).setField a 2 6 (satAdd 6 (s.field a 2 6) 1) :=
    congrArg (fun k => ((channelTaken s n ch).count (sbdBase n + 0x6C) 1).setField a 2 6 (satAdd 6 k 1)) (channelTaken_tries s n ch)
  have hx : x = s.stack n := by
    unfold x State.stack
    rw [hv, setField_stackTbl, count_stackTbl]
    rfl
  rw [hx, hv]

theorem channelRetrain_begins (ok : Bool) (hn : n < 24) (hch : ch < 32) (hl : s.stackLost n = false)
    (hup : s.field (sbdBase n + 0x100 + 4 * ch) 0 2 ≠ 2) (hidle : (s.stack n).retrain = none) :
    runs (.channelRetrain n ch ok) s (s.retrainGo n ch none) := by
  refine congrArg (answer s) ((if_neg (by rw [hidle]; exact nofun)).trans ?_)
  unfold State.retrainStart
  dsimp only
  rw [if_neg (by rw [hl]; simp; omega), hidle]

/-- Channel ch of stack n given back after a good retrain (R231). -/
def channelBack (s : State) (n ch : Nat) : State :=
  ((s.setField (sbdBase n + 4) 8 1 0).setField (sbdBase n + 0x100 + 4 * ch) 0 2 0).setStack n { s.stack n with retrain := none }

/-- A good attempt is recorded, gives the channel back and ends the command that asked for it; the next retrain that waits begins (R231). -/
theorem retrainOne_good {cmd : Option Nat} (hr : (s.stack n).retrain = some (ch, cmd)) : s.retrainOne n true
    = ((channelBack (s.record 0x0407 2 noPart 0 (onStack n ch) (natLe 1 0)) n ch).retrainEnds cmd stOk).retrainNext n := by
  unfold State.retrainOne
  extract_lets x
  rw [show x.retrain = some (ch, cmd) from hr]
  exact if_pos rfl

theorem retrainNext_none (hdue : (s.stack n).retrainDue = []) : s.retrainNext n = s := by
  unfold State.retrainNext
  extract_lets x
  rw [show x.retrainDue = [] from hdue]

/-- A good attempt at a channel that the training monitor called for gives the channel back and does nothing else (R231). -/
theorem channelRetrain_ends (hr : (s.stack n).retrain = some (ch, none)) (hdue : (s.stack n).retrainDue = []) :
    runs (.channelRetrain n ch true) s ((((s.record 0x0407 2 noPart 0 (onStack n ch) (natLe 1 0)).setField (sbdBase n + 4) 8 1 0).setField
      (sbdBase n + 0x100 + 4 * ch) 0 2 0).setStack n { s.stack n with retrain := none }) := by
  have hstack : (s.record 0x0407 2 noPart 0 (onStack n ch) (natLe 1 0)).stack n = s.stack n := by
    rw [record_onlyEvents]
    rfl
  refine congrArg (answer s) ((if_pos (by rw [hr]; rfl)).trans ((retrainOne_good hr).trans ((retrainNext_none ?_).trans ?_)))
  · rw [State.retrainEnds, channelBack, stack_setStack, if_pos rfl, hstack]
    exact hdue
  · rw [State.retrainEnds, channelBack, hstack]

end Retrains

/-! ### Losses -/

section Losses

variable {s : State} {n cause : Nat}

/-- Stack n lost, its bytes and its page table gone and its responses that have not begun FENCED (R233). -/
def stackGone (s : State) (n cause : Nat) : State :=
  (((s.setStack n { s.stack n with
      pte := [], ueUnits := [], replies := (s.stack n).replies.map fun r => if r.begun then r else { r with tokens := r.fenced }, lostBy := some cause }
    ).forgetHbm n).setField (sbdBase n + 4) 0 2 3).record 0x0408 5 noPart 0 (onStack n) (u8 cause)

theorem loseStack_eq (hl : s.stackLost n = false) :
    s.loseStack n cause = if (stackGone s n cause).mgtField 8 0 3 = 2 then (stackGone s n cause).setPanelState 3 else stackGone s n cause :=
  if_neg (ne_true_of_eq_false hl)

theorem stackGone_lost (hn : n < 24) : (stackGone s n cause).stackLost n = true := by
  refine decide_eq_true ?_
  unfold stackGone
  exact (congrArg (fun w : Word => bits w.toNat 0 2) (record_reg _ _ _ _ _ _ _ _ (by unfold sbdBase evrBase ctBase; omega)
    (by unfold sbdBase evrBase ctBase; omega))).trans (field_setField _ _ _ _ _ (by decide))

theorem stackGone_pte : ((stackGone s n cause).stack n).pte = [] := by
  unfold stackGone
  rw [record_onlyEvents]
  exact congrArg Stack.pte ((stack_setStack s n n _).trans (if_pos rfl))

theorem stackGone_memByte (a : Nat) : memByte (stackGone s n cause).mem a = if stackOf a = n then 0 else memByte s.mem a := by
  have hmem : (stackGone s n cause).mem = s.mem.filter fun c => decide (stackOf c.1 ≠ n) := (record_onlyEvents ..).mem
  rw [hmem, memByte_filter (fun b => decide (stackOf b ≠ n))]
  simp only [decide_eq_true_eq, ite_not]

theorem stackGone_cores : (stackGone s n cause).cores = s.cores := record_cores ..

/-- A stack that works and is lost reads as zeros, with an empty page table; other windows and the cores stand (R233). -/
theorem stackLost_loses (hn : n < 24) (hcause : cause < 4) (hl : s.stackLost n = false) :
    ∃ t, exec (.stackLost n cause) s = .next t ∧ t.stackLost n = true ∧ (t.stack n).pte = []
      ∧ (∀ a, memByte t.mem a = if stackOf a = n then 0 else memByte s.mem a) ∧ t.cores = s.cores := by
  have hloses : ∃ v, s.loseStack n cause = v ∧ v.regs = (stackGone s n cause).regs ∧ v.mem = (stackGone s n cause).mem
      ∧ v.cores = (stackGone s n cause).cores ∧ v.stackTbl = (stackGone s n cause).stackTbl := by
    rw [loseStack_eq hl]
    split
    · exact ⟨_, rfl, setPanelState_regs _ 3⟩
    · exact ⟨_, rfl, rfl, rfl, rfl, rfl⟩
  obtain ⟨v, hv, hregs, hmem, hcores, htbl⟩ := hloses
  refine ⟨v.keeping s, ?_, ?_, ?_, fun a => ?_, ?_⟩
  · rw [← hv]
    exact answer_onlyIf _ (by rw [decide_eq_true hn, decide_eq_true hcause]; rfl)
  · exact (congrArg (decide <| · = 3) (field_congr hregs (sbdBase n + 4) 0 2)).trans (stackGone_lost hn)
  · exact (congrArg (fun m => (tget {} m n).pte) htbl).trans stackGone_pte
  · rw [keeping_mem, hmem, stackGone_memByte]
  · rw [keeping_cores, hcores, stackGone_cores]

end Losses

/-- Settles O34: each event runs where its conditions hold, and what it leaves is read off its law. -/
theorem stackEvents : Obligations.StackEvents := by
  unfold Obligations.StackEvents
  refine fun s n hn => ⟨?sweep, fun p q hq hdue => ⟨?ends, stackDiscard_discards hq hdue⟩, fun o ho hl hnew => dramUe_stands o hn ho hl hnew, fun page hpage => ?page,
    fun row hrow hl hclean => patrolScrub_corrects hn hrow hl hclean, fun ts hl hrow hcool => ?sample, fun ch ok hch hl hup hidle => ?begins,
    fun ch => channelRetrain_ends, fun cause hcause hl => stackLost_loses hn hcause hl⟩
  case sweep =>
    obtain ⟨hmem, hcores, hclear⟩ := sweep_clear n (List.range 64) (entriesResolved s n)
    obtain ⟨-, hmem', hcores'⟩ := entriesResolved_same s n
    refine ⟨_, pageTableSweep_sweeps s n, ?_⟩
    rw [keeping_mem, keeping_cores]
    exact ⟨hmem.trans hmem', hcores.trans hcores', fun p hp => hclear p (.inl (List.mem_range.mpr hp))⟩
  case ends =>
    intro hfly
    exact (stackDiscard_takes hq hdue).trans (congrArg (answer s) (if_pos (Bool.or_eq_true_iff.mpr (.inr hfly))))
  case page => exact answer_onlyIf _ (by rw [decide_eq_true hn, decide_eq_true hpage]; rfl)
  case sample =>
    refine ⟨_, stackTempSample_keepsRow hn hl hrow hcool, ?_⟩
    rw [keeping_at_stack, keeping_at_field, keeping_mem, keeping_evr]
    exact rowKept_spec hn
  case begins => exact (channelRetrain_begins ok hn hch hl hup hidle).trans (congrArg (answer s) (retrainGo_eq s n ch none))

/-! ### Partitions that come and go -/

section Partitions

variable {s : State} {id : Nat} {c : Started} {io : HostIo} {q : Part} {r : Resetting}

/-- The partition that command c asks for, its audit counted from the present cycle (R185, R329). -/
def partAsked (s : State) (c : Started) : Part := { c.newPart with auditAt := s.now }

/-- Command c's partition passes every check of PART_CREATE as q: it lies on the panel, its number and resources are free, and these work (R329). -/
structure Creatable (s : State) (c : Started) (q : Part) : Prop where
  asked : partAsked s c = q
  wide : q.w ≠ 0
  right : q.cx + q.w ≤ 24
  high : q.h ≠ 0
  bottom : q.cy + q.h ≤ 24
  pages : q.firstPage + q.pages ≤ s.stackPages
  new : s.part c.partNo = none
  free : ∀ e ∈ s.parts, ∀ x, e.2 = some x → q.overlaps x = false
  noHole : q.clusters.any s.clusterHole = false
  noLost : (onesOf q.stackTbl.toNat 24).any s.stackLost = false

/-- Partition p as q, its pages its own and its step tags 0 at every stack (R217, R219, R329). -/
def pagesOwned (s : State) (p : Nat) (q : Part) : State :=
  (List.range 24).foldl (fun s n => s.setReg (sbdBase n + 0x200 + 4 * p) 0) ((s.setPart p q).writePages q (ownedPte p))

/-- The clusters of partition p entered at the stacks, their shadow checks at rest, and asked to wake (R76, R214, R363). -/
def clustersEntered (s : State) (p : Nat) (q : Part) : State :=
  q.clusters.foldl (fun s c =>
    (((s.writeCluPart c (0x80 + p)).setReg (s.cluReg c 0x800) (regReset (s.cluReg c 0x800))).spareDuty q.rotate c).requestWake c) s

theorem partCreate_creates (hc : dispatched s id 0x10 c) (hq : Creatable s c q) :
    runs (.partCreate id io) s ((clustersEntered (pagesOwned s c.partNo q) c.partNo q).finish id stOk 0 0) := by
  obtain ⟨rfl, hw, hright, hh, hbottom, hpages, hnew, hfree, hhole, hlost⟩ := hq
  have htaken : (s.parts.any fun e => match e.2 with | none => false | some x => (partAsked s c).overlaps x) = false := by
    rw [List.any_eq_false]
    rintro ⟨k, x⟩ he
    cases x with
    | none => exact Bool.false_ne_true
    | some x => exact ne_true_of_eq_false (hfree _ he x rfl)
  refine congrArg (answer s) ((runCmd_eq hc io _).trans ?_)
  extract_lets p q taken
  refine (if_neg (not_or.mpr ⟨hw, Nat.not_lt.mpr hright⟩)).trans ((if_neg (not_or.mpr ⟨hh, Nat.not_lt.mpr hbottom⟩)).trans ?_)
  refine (if_neg (Nat.not_lt.mpr hpages)).trans ((if_neg (not_or.mpr ⟨?_, ne_true_of_eq_false htaken⟩)).trans ?_)
  · rw [show s.part p = none from hnew]
    exact Bool.false_ne_true
  · exact if_neg (not_or.mpr ⟨ne_true_of_eq_false hhole, ne_true_of_eq_false hlost⟩)

/-- A partition that is not being reset already begins its reset, in the mode the command names (R329, R405). -/
theorem partReset_begins (hc : dispatched s id 0x12 c) (hq : s.part c.partNo = some q) (hnone : q.reset = none) (hmode : c.byte 8 ≤ 1) :
    runs (.partReset id io) s (s.startReset c.partNo id (decide (c.byte 8 = 1)) false) := by
  refine congrArg (answer s) ((runCmd_eq hc io _).trans ((if_neg (Nat.not_lt.mpr hmode)).trans ?_))
  rw [hq]
  exact if_neg (show ¬ q.reset.isSome = true by rw [hnone]; exact Bool.false_ne_true)

theorem partDestroy_begins (hc : dispatched s id 0x11 c) (hq : s.part c.partNo = some q) (hnone : q.reset = none) :
    runs (.partDestroy id io) s (s.startReset c.partNo id false true) := by
  refine congrArg (answer s) ((runCmd_eq hc io _).trans ?_)
  rw [hq]
  exact if_neg (show ¬ q.reset.isSome = true by rw [hnone]; exact Bool.false_ne_true)

theorem partResetDrainEnd_finishes {p : Nat} (hq : s.part p = some q) (hr : q.reset = some r) :
    runs (.partResetDrainEnd p) s (s.finishReset p q r (!r.absorb && !s.drained p q)) := by
  refine congrArg (answer s) ?_
  rw [hq]
  dsimp only
  rw [hr]

end Partitions

/-- Settles O48: each command's checks decide on the branch that creates, begins a reset or ends it. -/
theorem partitionsComeAndGo : Obligations.PartitionsComeAndGo := by
  unfold Obligations.PartitionsComeAndGo
  refine fun s id op c io hc => ⟨?create, fun q hq hnone => ⟨?reset, ?destroy⟩, fun p q r => partResetDrainEnd_finishes⟩
  case create =>
    rintro p q rfl hw hright hh hbottom hpages hnew hfree hhole hlost
    exact partCreate_creates hc ⟨rfl, hw, hright, hh, hbottom, hpages, hnew, hfree, hhole, hlost⟩
  case reset =>
    rintro rfl
    exact partReset_begins hc hq hnone
  case destroy =>
    rintro rfl
    exact partDestroy_begins hc hq hnone

/-! ### Commands that set -/

section Settings

variable {s : State} {id : Nat} {c : Started} {io : HostIo} {b : Bytes}

/-- The power cap that command c leaves: its own, or the one commanded before (R336, R365). -/
def capAfter (s : State) (c : Started) : Nat := if bitOf (c.byte 12) 0 then c.arg 8 2 else s.cmdCap

/-- The shed level that command c asks for: its own, or the one before (R336, R365). -/
def shedAfter (s : State) (c : Started) : Nat := if bitOf (c.byte 12) 1 then c.arg 10 2 else s.field (pwrBase + 8) 16 11

/-- POWER_CAP_SET whose fields lie in their ranges sets cap and shed level, the latter at most the cap (R336, R365). -/
theorem powerCapSet_sets (hc : dispatched s id 0x50 c) (hcap : bitOf (c.byte 12) 0 = true → 500 ≤ capAfter s c ∧ capAfter s c ≤ 2000)
    (hshed : bitOf (c.byte 12) 1 = true → 110 ≤ shedAfter s c ∧ shedAfter s c ≤ capAfter s c) : runs (.powerCapSet id io) s
      ((((s.setField (pwrBase + 8) 0 11 (capAfter s c)).setField (pwrBase + 8) 16 11 (Nat.min (shedAfter s c) (capAfter s c))).refreshLimit).finish
        id stOk 0 0) := by
  refine congrArg (answer s) ((runCmd_eq hc io _).trans ?_)
  refine (if_neg fun ⟨hset, hout⟩ => ?_).trans (if_neg fun ⟨hset, hout⟩ => ?_)
  · obtain ⟨hlow, hhigh⟩ := hcap hset
    exact hout.elim (Nat.not_lt.mpr hlow) (Nat.not_lt.mpr hhigh)
  · obtain ⟨hlow, hhigh⟩ := hshed hset
    exact hout.elim (Nat.not_lt.mpr hlow) (Nat.not_lt.mpr hhigh)

/-- SAMPLER_CONFIG whose fields lie in their ranges sets the samplers, and the audit's period where it names that (R114, R157, R185, R336). -/
theorem samplerConfig_sets {q : Part} (hc : dispatched s id 0x52 c) (hq : s.part c.partNo = some q) (hok : c.badSampler = none) :
    let u := (List.range q.clusters.length).foldl (fun s i => s.setSampler c i (q.clusters.getD i 0)) s
    runs (.samplerConfig id io) s ((if bitOf (c.byte 8) 2 then u.modPart c.partNo fun q => { q with auditS := c.arg 24 4, auditAt := u.now }
      else u).finish id stOk 0 0) := by
  refine congrArg (answer s) ((runCmd_eq hc io _).trans ?_)
  rw [hq]
  dsimp only
  rw [hok]

/-- An authorised EVENTS_CLEAR clears the record and renews the nonce (R425, R435). -/
theorem eventsClear_clears (hc : dispatched s id 0x61 c) (hin : c.inputOf io = .ok b) (hauth : s.authorised (b.take (c.arg 24 4)) 1 (some 0) = true) :
    runs (.eventsClear id io) s (((s.clearEvents (fld (b.take (c.arg 24 4)) 2 1)).renewNonce).finishNoted id stOk 0 0) :=
  congrArg (answer s) ((runCmd_eq hc io _).trans ((withHost_eq hin _).trans (if_pos hauth)))

/-- The field list without entry i (R394). -/
def entryCleared (s : State) (i : Nat) : State := { s with sparing := { s.sparing with fieldList := s.sparing.fieldList.set i none } }

/-- An authorised DEFECT_CLEAR of an entry with three clean tests removes it, on record (R394, R425). -/
theorem defectClear_clears {d : Defect} (hc : dispatched s id 0x82 c) (hin : c.inputOf io = .ok b)
    (hd : s.sparing.fieldList[c.arg 12 4]? = some (some d)) (hclean : 3 ≤ d.clean)
    (hauth : s.authorised (b.take (c.arg 24 4)) 2 (some (c.arg 12 4)) = true) : runs (.defectClear id io) s
      ((((entryCleared s (c.arg 12 4)).record 0x0906 2 noPart 0 onPanel d.bytes).renewNonce).finishNoted id stOk 0 0) := by
  refine congrArg (answer s) ((runCmd_eq hc io _).trans ((withHost_eq hin _).trans ?_))
  dsimp only
  rw [hd]
  exact (if_neg (Nat.not_lt.mpr hclean)).trans (if_neg (ne_true_of_eq_false (congrArg not hauth)))

/-- The first owner key, with its signature sound, is kept as its hash, on record (R424). -/
theorem ownerKeySet_sets {m key : Bytes} (hc : dispatched s id 0x73 c) (hin : c.inputOf io = .ok b) (hm : b.take (c.arg 24 4) = m)
    (hkey : slice m 0 68 = key) (hfirst : s.trust.ownerHash = none) (hset : Config.ownerSet (fld key 0 4) = true)
    (hsigned : Config.verifies (fld key 0 4) key (key ++ padTo 16 s.hw.serial) (slice m 72 (fld m 68 4)) = true) : runs (.ownerKeySet id io) s
      ((({ s with trust := { s.trust with ownerHash := some (shake256 key) } }).record 0x0A09 2 noPart 0 onPanel (shake256 key)).finishNoted id stOk 0 0) := by
  subst hm hkey
  refine congrArg (answer s) ((runCmd_eq hc io _).trans ((withHost_eq hin _).trans ?_))
  refine (if_neg (by rw [hfirst]; exact Bool.false_ne_true)).trans ((if_neg (ne_true_of_eq_false (congrArg not hset))).trans ?_)
  exact if_neg (ne_true_of_eq_false (congrArg not hsigned))

end Settings

/-! ### Firmware -/

section Firmware

variable {s : State} {id : Nat} {c : Started} {io : HostIo} {b : Bytes}

/-- Image m staged in the update slot (R417). -/
def imageSlotted (s : State) (m : Bytes) : State := { s with trust := { s.trust with slot := m, updating := true } }

/-- FW_STAGE of an image that the panel accepts stages it, on record, while no swap is under way (R415, R417). -/
theorem fwStage_stages {m : Bytes} (hc : dispatched s id 0x70 c) (hin : c.inputOf io = .ok b) (hm : b.take (c.arg 24 8) = m)
    (hdirect : c.byPacket = false) (hidle : s.trust.swapping = none) (hok : s.fwStatus m true = stOk) : runs (.fwStage id io) s
      (((imageSlotted s m).record 0x0A04 2 noPart 0 onPanel (u32 (fld m 0x0C 4) ++ u8 (fld m 0x10 1))).finishNoted id stOk 0 0) := by
  subst hm
  refine congrArg (answer s) ((runCmd_eq hc io _).trans ?_)
  rw [hdirect, if_neg Bool.false_ne_true, hin]
  exact (if_neg (by rw [hidle]; exact Bool.false_ne_true)).trans (if_neg (not_not_intro hok))

/-- The standby of the control dies takes the staged image, and the swap for command id begins (R417). -/
def swapBegun (s : State) (id : Nat) : State :=
  let u := s.setControl (1 - s.activeCt) fun c => { c with role := 3, fw := s.trust.slot }
  { u with trust := { u.trust with swapping := some id } }

/-- FW_COMMIT of a staged image that a sound standby can run begins the swap (R417). -/
theorem fwCommit_begins (hc : dispatched s id 0x71 c) (hidle : s.trust.swapping = none) (hstaged : s.trust.updating = true) (hstandby : s.standbyOk = true)
    (hold : fld s.trust.slot 0x1C 2 ≤ fld (s.controlDie s.activeCt).fw 0x1A 2) (hnew : fld (s.controlDie s.activeCt).fw 0x1A 2 ≤ fld s.trust.slot 0x1A 2) :
    runs (.fwCommit id io) s (swapBegun s id) := by
  refine congrArg (answer s) ((runCmd_eq hc io _).trans ?_)
  refine (if_neg (by rw [hidle]; exact nofun)).trans ((if_neg (by rw [hidle]; exact Bool.false_ne_true)).trans ?_)
  refine (if_neg (ne_true_of_eq_false (congrArg not hstaged))).trans (if_neg (not_or.mpr ⟨ne_true_of_eq_false (congrArg not hstandby), ?_⟩))
  exact not_or.mpr ⟨Nat.not_lt.mpr hold, Nat.not_lt.mpr hnew⟩

end Firmware

/-! ### Panel reset by the host -/

section PanelReset

variable {s : State} {id : Nat} {c : Started} {io : HostIo}

/-- State u with the newest completion of ring r shown to the host, if the ring has room (R320, R338). -/
def newestPosted (u : State) (r : Nat) : State :=
  match (u.ring r).toPost.reverse with
  | [] => u
  | k :: _ =>
    if 256 ≤ (u.ring r).unconsumed then u
    else (u.putBar0 (0x200000 + r * 0x2000 + (u.ring r).posted.toNat % 256 * 32)
      (k.bytes (1 - (u.ring r).posted.toNat / 256 % 2) r (u.ring r).head.toNat)).entryVisible r

/-- The completion of a PANEL_RESET posted before the reset (R338). -/
def resetPosted (s : State) (id : Nat) (c : Started) : State :=
  match c.origin with
  | .ring r => newestPosted (s.finish id stOk 0 0) r
  | _ => s.finish id stOk 0 0

theorem finish_same2 (s : State) (id st : Nat) : Same2 s (s.finish id st 0 0) := by
  rw [finish_fields]
  exact Same2.refl s

theorem putBar0_same2 {u : State} (hu : Same2 s u) (o : Nat) (bs : Bytes) : Same2 s (u.putBar0 o bs) := by
  unfold State.putBar0
  refine foldl_keep _ (Same2 s) (fun v j hv => ?_) _ _ hu
  exact hv

theorem newestPosted_same2 {u : State} (hu : Same2 s u) (r : Nat) : Same2 s (newestPosted u r) := by
  unfold newestPosted
  split
  · exact hu
  · split
    · exact hu
    · exact entryVisible_same s _ r (putBar0_same2 hu ..)

/-- Posting its completion touches neither the owner key nor the field list (R404). -/
theorem resetPosted_same2 (s : State) (id : Nat) (c : Started) : Same2 s (resetPosted s id c) := by
  unfold resetPosted
  split
  · exact newestPosted_same2 (finish_same2 ..) _
  · exact finish_same2 ..

/-- PANEL_RESET resets the panel once its completion is posted; the completions shown and the answers under way stay (R338, R386, R404). -/
theorem panelReset_resets (hc : dispatched s id 0xF0 c) : exec (.panelReset id io) s = answer s { (resetPosted s id c).panelReset with
    bar0 := (resetPosted s id c).panelReset.bar0 ++ (resetPosted s id c).bar0.filter fun e => decide (0x200000 ≤ e.1) && decide (e.1 < 0x280000),
    moving := (resetPosted s id c).moving.filter fun m => decide (m.pkt.opcode = 0x24) } :=
  congrArg (answer s) (runCmd_eq hc io _)

end PanelReset

/-! ### RETRAIN and REPAIR -/

section Maintenance

variable {s : State} {id : Nat} {c : Started} {io : HostIo}

/-- RETRAIN of the channel that the command's own retrain works at reports an attempt (R231, R338). -/
theorem retrainChannel_reports (ok : Bool) (hc : dispatched s id 0x80 c) (hkind : c.byte 8 = 0)
    (hmine : (s.stack (c.byte 9)).retrain.any (fun e => decide (e.2 = some id)) = true) :
    runs (.retrainChannel id io ok) s (s.retrainOne (c.byte 9) ok) :=
  congrArg (answer s) ((runFirst_eq hc hkind io _).trans (if_pos hmine))

/-- RETRAIN of a channel of a stack that works, and that works at no retrain of the command, is BUSY or begins one (R231, R338). -/
theorem retrainChannel_asks (ok : Bool) (hc : dispatched s id 0x80 c) (hkind : c.byte 8 = 0)
    (hother : (s.stack (c.byte 9)).retrain.any (fun e => decide (e.2 = some id)) = false)
    (hn : c.byte 9 < 24) (hl : s.stackLost (c.byte 9) = false) (hch : c.byte 10 < 32) :
    runs (.retrainChannel id io ok) s (if (s.stack (c.byte 9)).retrain.isSome then s.fail id stBusy
      else if ((s.draw.retrainStart (c.byte 9) (c.byte 10) (some id)).stack (c.byte 9)).retrain.any (fun e => decide (e.2 = some id)) then
        (s.draw.retrainStart (c.byte 9) (c.byte 10) (some id)).retrainOne (c.byte 9) ok
      else s.draw.retrainStart (c.byte 9) (c.byte 10) (some id)) := by
  refine congrArg (answer s) ((runFirst_eq hc hkind io _).trans ((if_neg (ne_true_of_eq_false hother)).trans ?_))
  refine (if_neg (not_or.mpr ⟨Nat.not_le.mpr hn, ne_true_of_eq_false hl⟩)).trans ((if_neg fun h => Nat.not_le.mpr hch h.1).trans ?_)
  rw [if_neg (show c.byte 10 ≠ 0xFF by omega)]

theorem retrainChannel_begins (ok : Bool) (hc : dispatched s id 0x80 c) (hkind : c.byte 8 = 0) (hn : c.byte 9 < 24) (hl : s.stackLost (c.byte 9) = false)
    (hch : c.byte 10 < 32) (hidle : (s.stack (c.byte 9)).retrain = none) :
    runs (.retrainChannel id io ok) s
      (if ((s.draw.retrainStart (c.byte 9) (c.byte 10) (some id)).stack (c.byte 9)).retrain.any (fun e => decide (e.2 = some id)) then
        (s.draw.retrainStart (c.byte 9) (c.byte 10) (some id)).retrainOne (c.byte 9) ok
      else s.draw.retrainStart (c.byte 9) (c.byte 10) (some id)) :=
  runs_ite_neg (retrainChannel_asks ok hc hkind (by rw [hidle]; rfl) hn hl hch) (by rw [hidle]; exact Bool.false_ne_true)

theorem retrainChannel_busy {x : Nat × Option Nat} (ok : Bool) (hc : dispatched s id 0x80 c) (hkind : c.byte 8 = 0) (hn : c.byte 9 < 24)
    (hl : s.stackLost (c.byte 9) = false) (hch : c.byte 10 < 32) (hx : (s.stack (c.byte 9)).retrain = some x) (hother : x.2 ≠ some id) :
    runs (.retrainChannel id io ok) s (s.fail id stBusy) :=
  runs_ite_pos (retrainChannel_asks ok hc hkind (by rw [hx]; exact decide_eq_false hother) hn hl hch) (by rw [hx]; rfl)

/-- The seam's end that bytes 12 to 14 of a command name (R255). -/
def seamNamed (c : Started) : PortRef := { site := c.arg 12 2, quad := c.byte 14 / 8 % 4, port := c.byte 14 % 8 }

theorem retrainSeam_busy (w : Nat) (hc : dispatched s id 0x80 c) (hkind : c.byte 8 = 1) (hoff : (s.seam (seamNamed c)).offline = true) :
    runs (.retrainSeam id io w) s (s.fail id stBusy) :=
  congrArg (answer s) ((runSub_eq hc hkind io _).trans (if_pos hoff))

theorem retrainSeam_retrains (w : Nat) (hc : dispatched s id 0x80 c) (hkind : c.byte 8 = 1) (hon : (s.seam (seamNamed c)).offline = false)
    (hruns : s.seamRuns (seamNamed c) = true) : runs (.retrainSeam id io w) s ((s.retrainPort (seamNamed c) w).finishNoted id stOk 0 0) :=
  congrArg (answer s) ((runSub_eq hc hkind io _).trans ((if_neg (ne_true_of_eq_false hon)).trans
    (if_neg (ne_true_of_eq_false (congrArg not hruns)))))

/-- RETRAIN of a native link is BUSY while the link retrains, and else ends with what its training comes to (R305, R338). -/
theorem retrainLink_retrains (lanes : BitVec 8) (peer : List (Option (BitVec 8 × BitVec 8))) (hc : dispatched s id 0x80 c) (hkind : c.byte 8 = 2)
    (hnative : s.native (c.byte 9) = true) : runs (.retrainLink id io lanes peer) s (if s.field (linkReg (c.byte 9) 0) 0 2 = 2 then s.fail id stBusy
      else (s.retrainLinkAt (c.byte 9) lanes peer).finishNoted id
        (if (s.retrainLinkAt (c.byte 9) lanes peer).linkUp (c.byte 9) then stOk else stFault) 0 0) :=
  congrArg (answer s) ((runSub_eq hc hkind io _).trans (if_neg (ne_true_of_eq_false (congrArg not hnative))))

/-- REPAIR of a die that is in use, whose rod has a spare and that no retirement stands before, retires it (R400). -/
theorem repairRetireDie_retires (hc : dispatched s id 0x81 c) (hkind : c.byte 8 = 0) (hsite : c.arg 12 2 < 156) (huse : s.inUse (c.arg 12 2) = true)
    (hdue : ∀ e ∈ s.sparing.retireDue, e.1 ≠ c.arg 12 2) (hcmds : ∀ e ∈ s.sparing.retireCmds, e.1 ≠ id) (hspare : s.hasSpare (c.arg 12 2 / 13) = true) :
    runs (.repairRetireDie id io) s (s.retireDie (c.arg 12 2) 15 (some id) true) := by
  have hnotDue : s.sparing.retireDue.any (fun e => decide (e.1 = c.arg 12 2)) = false :=
    List.any_eq_false.mpr fun e he => ne_true_of_eq_false (decide_eq_false (hdue e he))
  have hnotAsked : s.sparing.retireCmds.any (fun e => decide (e.1 = id)) = false :=
    List.any_eq_false.mpr fun e he => ne_true_of_eq_false (decide_eq_false (hcmds e he))
  refine congrArg (answer s) ((runFirst_eq hc hkind io _).trans ?_)
  refine (if_neg (not_or.mpr ⟨Nat.not_le.mpr hsite, ne_true_of_eq_false (congrArg not huse)⟩)).trans ((if_neg (ne_true_of_eq_false hnotDue)).trans ?_)
  exact (if_neg (ne_true_of_eq_false hnotAsked)).trans (if_neg (ne_true_of_eq_false (congrArg not hspare)))

/-- REPAIR of a laser bay makes it safe; its partner, if fitted, takes the load (R265, R400). -/
theorem repairLaserBay_repairs (hc : dispatched s id 0x81 c) (hkind : c.byte 8 = 1) (hbay : c.byte 9 < 10) :
    let b := laserReg (c.byte 9 / 2 * 2 + (1 - c.byte 9 % 2))
    let u := (s.setField (laserReg (c.byte 9)) 2 1 1).setField (laserReg (c.byte 9)) 3 1 0
    runs (.repairLaserBay id io) s ((if bitOf (u.reg b).toNat 1 then u.setField b 3 1 1 else u).finish id stOk 0 0) :=
  congrArg (answer s) ((runSub_eq hc hkind io _).trans (if_neg (Nat.not_le.mpr hbay)))

/-- A test noted for those of the die's four blocks that none is noted for (R400). -/
def dieToTest (s : State) (site : Nat) : State :=
  let new := ((List.range 4).map (site * 4 + ·)).filter fun b => !s.sparing.testDue.contains b
  { s with sparing := { s.sparing with testDue := s.sparing.testDue ++ new } }

theorem repairTestDie_notes (hc : dispatched s id 0x81 c) (hkind : c.byte 8 = 2) (hsite : c.arg 12 2 < 156) :
    runs (.repairTestDie id io) s ((dieToTest s (c.arg 12 2)).finish id stOk 0 0) :=
  congrArg (answer s) ((runSub_eq hc hkind io _).trans (if_neg (Nat.not_le.mpr hsite)))

theorem repairTestStack_notes (hc : dispatched s id 0x81 c) (hkind : c.byte 8 = 3) (hn : c.byte 9 < 24) :
    runs (.repairTestStack id io) s ((s.setStack (c.byte 9) { s.stack (c.byte 9) with testDue := true }).finish id stOk 0 0) :=
  congrArg (answer s) ((runSub_eq hc hkind io _).trans (if_neg (Nat.not_le.mpr hn)))

end Maintenance

/-- Settles O52: each command runs where it was dispatched, and its checks decide on the branch that the statement names. -/
theorem hostCommandsSetAndMaintain : Obligations.HostCommandsSetAndMaintain := by
  unfold Obligations.HostCommandsSetAndMaintain
  refine ⟨fun s id op c io b hc hin => ⟨?cap, ?sampler, ?events, ?defect, ?stage, ?commit, ?owner, ?reset⟩,
    fun s id op c io hc => ⟨fun hop => ⟨fun ok hkind => ⟨?reports, fun hn hl hch => ⟨?begins, ?busy⟩⟩, fun w hkind => ⟨?seamBusy, ?seam⟩,
      fun lanes peer hkind hnative => ⟨?linkBusy, ?link⟩⟩, fun hop => ⟨?retire, ?laser, ?testDie, ?testStack⟩⟩⟩
  case cap =>
    rintro rfl
    exact powerCapSet_sets hc
  case sampler =>
    rintro q rfl
    exact samplerConfig_sets hc
  case events =>
    rintro rfl
    exact eventsClear_clears hc hin
  case defect =>
    rintro d rfl
    exact defectClear_clears hc hin
  case stage =>
    rintro rfl
    exact fwStage_stages hc hin rfl
  case commit =>
    rintro rfl
    exact fwCommit_begins hc
  case owner =>
    rintro rfl
    exact ownerKeySet_sets hc hin rfl rfl
  case reset =>
    rintro rfl
    obtain ⟨hmem, hparts, hregions, hcores, hept, hrings, howner, hlist⟩ := panelReset_fields (resetPosted s id c)
    obtain ⟨howner', hlist'⟩ := resetPosted_same2 s id c
    exact ⟨_, panelReset_resets hc, hmem, hparts, hregions, hcores, hept, hrings, howner.trans howner', hlist.trans hlist'⟩
  all_goals subst hop
  case reports => exact retrainChannel_reports ok hc hkind
  case begins => exact retrainChannel_begins ok hc hkind hn hl hch
  case busy => exact fun x => retrainChannel_busy ok hc hkind hn hl hch
  case seamBusy => exact retrainSeam_busy w hc hkind
  case seam => exact retrainSeam_retrains w hc hkind
  case linkBusy => exact runs_ite_pos (retrainLink_retrains lanes peer hc hkind hnative)
  case link => exact runs_ite_neg (retrainLink_retrains lanes peer hc hkind hnative)
  case retire => exact repairRetireDie_retires hc
  case laser => exact repairLaserBay_repairs hc
  case testDie => exact repairTestDie_notes hc
  case testStack => exact repairTestStack_notes hc

end Sys2Proof.Proofs
end

section
/-! Proofs of the statements on the panel fabric: what befalls a seam's words, resends, late units, retrains and widths (R252 to R256), and what an
error in a table of a router does (R257). -/

namespace Sys2Proof.Proofs

open Sys2Proof Sys2Proof.Machine Sys2Proof.Safety Sys2Proof.Laws

/-! ### Ends of seams -/

section SeamEnds

variable {s t : State} {p : PortRef}

theorem seam_congr (h : t.seams = s.seams) (q : PortRef) : t.seam q = s.seam q := by
  unfold State.seam; rw [h]

theorem keeping_seam (t s : State) (q : PortRef) : (t.keeping s).seam q = t.seam q := seam_congr (keeping_seams t s) q

theorem noteLate_seams (s : State) (p : PortRef) : (s.noteLate p).seams = s.seams := by rw [noteLate_onlyRegs s p]

theorem addDefect_seams (s : State) (source cause kind die unit detail : Nat) : (s.addDefect source cause kind die unit detail).seams = s.seams := by
  have hr : (s.record 0x0903 3 noPart 0 onPanel []).seams = s.seams := by rw [record_onlyEvents s]
  unfold State.addDefect
  dsimp only
  repeat' split
  all_goals first
    | exact hr
    | rfl

theorem settleNet_seams (s : State) (n : Nat) : (s.settleNet n).seams = s.seams := by rw [settleNet_onlyNet n s]

/-- A port's far end follows from the map alone, which a count leaves (R237). -/
theorem peer_count (s : State) (a n : Nat) (p : PortRef) : (s.count a n).peer p = s.peer p := by rw [count_onlyRegs s a n]; rfl

/-- What a fold's step brings about for its own element, and no other step undoes, holds of every element in the end. -/
theorem foldl_each {α : Type} {g : State → α → State} {P : α → State → Prop} (hset : ∀ s x, P x (g s x)) (hkeep : ∀ s x y, P y s → P y (g s x)) {x : α} :
    ∀ (l : List α) (s : State), x ∈ l → P x (l.foldl g s) := by
  intro l
  induction l with
  | nil => exact fun s h => absurd h List.not_mem_nil
  | cons y l ih =>
    intro s h
    rw [List.foldl_cons]
    rcases List.mem_cons.mp h with rfl | h
    · exact foldl_keep g (P x) (fun u z => hkeep u z x) l _ (hset s x)
    · exact ih (g s y) h

end SeamEnds

/-! ### Words and their resends -/

section Words

variable {s : State} {p o : PortRef} {w : Bytes}

/-- The sender at the far end of the seam into port p has sent one word (R253). -/
def farSent (s : State) (p : PortRef) : State := (s.peer p).elim s fun o => s.sendWord o

/-- A good word that comes to port p in state u is accepted in its order, or waits behind a failed word (R253). -/
def goodWord (u : State) (p : PortRef) (w : Bytes) : State :=
  if wordSeq w = (u.seam p).expect then ((((u.acceptWord p w).drainWords p 8).settleNet 16).settleSlots)
  else if (u.seam p).nak ∧ !(u.seam p).ahead.any (fun e => decide (e.1 = (wordSeq w).toNat)) then
    u.setSeam p { u.seam p with ahead := (u.seam p).ahead ++ [((wordSeq w).toNat, w)] }
  else u

theorem seamWord_slips (hruns : s.seamRuns p = true) (hok : wordOk w = true) (hfull : s.lateFull p w = true) : runs (.seamWord p w) s (s.slip p) := by
  refine congrArg (answer s) ((if_neg ?_).trans (if_pos ?_))
  · rw [hruns]; exact Bool.false_ne_true
  · rw [hok, hfull]; rfl

/-- A word that no full late queue stops is checked once the far end has sent its word (R252, R253). -/
theorem seamWord_checked (hruns : s.seamRuns p = true) (hpass : (wordOk w && s.lateFull p w) = false) :
    runs (.seamWord p w) s (if !wordOk w then (farSent s p).setSeam p { (farSent s p).seam p with nak := true }
      else goodWord (farSent s p) p w) := by
  refine congrArg (answer s) ((if_neg ?_).trans ((if_neg (ne_true_of_eq_false hpass)).trans ?_))
  · rw [hruns]; exact Bool.false_ne_true
  · unfold farSent
    cases s.peer p <;> rfl

theorem seamWord_fails (hruns : s.seamRuns p = true) (hbad : wordOk w = false) :
    runs (.seamWord p w) s ((farSent s p).setSeam p { (farSent s p).seam p with nak := true }) :=
  runs_ite_pos (seamWord_checked hruns (by rw [hbad]; rfl)) (by rw [hbad]; rfl)

theorem seamWord_good (hruns : s.seamRuns p = true) (hok : wordOk w = true) (hroom : s.lateFull p w = false) :
    runs (.seamWord p w) s (goodWord (farSent s p) p w) :=
  runs_ite_neg (seamWord_checked hruns (by rw [hok, hroom]; rfl)) (by rw [hok]; exact Bool.false_ne_true)

/-- A word behind a failed one that does not wait yet joins those that do (R253). -/
theorem seamWord_waits (hruns : s.seamRuns p = true) (hok : wordOk w = true) (hroom : s.lateFull p w = false)
    (hseq : wordSeq w ≠ ((farSent s p).seam p).expect) (hnak : ((farSent s p).seam p).nak = true)
    (hnew : ∀ e ∈ ((farSent s p).seam p).ahead, e.1 ≠ (wordSeq w).toNat) :
    runs (.seamWord p w) s ((farSent s p).setSeam p { (farSent s p).seam p with ahead := ((farSent s p).seam p).ahead ++ [((wordSeq w).toNat, w)] }) := by
  refine runs_ite_pos (runs_ite_neg (seamWord_good hruns hok hroom) hseq) ⟨hnak, ?_⟩
  rw [Bool.not_eq_true', List.any_eq_false]
  exact fun e he => by rw [decide_eq_true_eq]; exact hnew e he

/-- The times of the receiver's resends within a millisecond of this one (R255). -/
def resendsNow (s : State) (p : PortRef) : List Nat := s.now :: (s.seam p).recent.filter fun t => decide (s.now < t + usec 1000)

/-- The receiver has counted the resend of its failed word, and the sender at o keeps that word to send it again (R253). -/
def askedAgain (s : State) (p o : PortRef) : State :=
  let u := (s.setSeam p { s.seam p with nak := false, resends := (s.seam p).resends + 1, recent := resendsNow s p }).count (portReg p 0x28) 1
  u.setSeam o { u.seam o with again := (((u.seam o).sent.find? fun w => decide (wordSeq w = (s.seam p).expect)).map replayed) }

/-- A resend that is the second in a frame is a slip (R254). -/
def resendNoted (s : State) (p o : PortRef) : State := if (s.seam p).resends + 1 = 2 then (askedAgain s p o).slip p else askedAgain s p o

/-- A resend that the receiver has asked for is noted, and more than 64 in a millisecond take the seam offline (R253, R255). -/
theorem seamResend_asks (hruns : s.seamRuns p = true) (ho : s.peer p = some o) (hnak : (s.seam p).nak = true) :
    runs (.seamResend p) s (if 64 < (resendsNow s p).length then (resendNoted s p o).takeOffline p else resendNoted s p o) := by
  refine congrArg (answer s) ((if_neg ?_).trans ?_)
  · rw [hruns, hnak]; decide
  · dsimp only
    rw [peer_count, show (s.setSeam p _).peer p = some o from ho]
    rfl

theorem seamResend_few (hruns : s.seamRuns p = true) (ho : s.peer p = some o) (hnak : (s.seam p).nak = true) (hfew : (resendsNow s p).length ≤ 64) :
    runs (.seamResend p) s (resendNoted s p o) :=
  runs_ite_neg (seamResend_asks hruns ho hnak) (Nat.not_lt.mpr hfew)

end Words

/-! ### Late units -/

section Late

variable {s : State} {p : PortRef} {lane : Nat} {u : BitVec 552}

/-- Late unit u of port p has left its queue and is counted (R254). -/
def lateGone (s : State) (p : PortRef) (u : BitVec 552) : State :=
  ((s.setSeam p { s.seam p with late := (s.seam p).late.erase u }).noteLate p).count (portReg p 0x30) 1

theorem onSeam_port (h : p.onSeam = true) : p.port ≠ 4 := by
  intro h4
  simp [PortRef.onSeam, h4] at h

theorem lateUnitSend_sends (hu : (s.seam p).late.find? (fun u => decide (unitLane u = lane)) = some u) (hp : p.onSeam = true)
    (hup : (s.seam p).offline = false) :
    runs (.lateUnitSend p lane) s ((lateGone s p u).setSeam p { (lateGone s p u).seam p with
      out := ((lateGone s p u).seam p).out ++ [((s.seam p).freePlace s.frameLen lane (unitCirc u), lane, withLane u 0)] }) := by
  refine congrArg (answer s) ?_
  dsimp only
  rw [hu]
  exact (if_neg (ne_true_of_eq_false hup)).trans ((if_neg (onSeam_port hp)).trans (if_pos hp))

end Late

/-! ### Retrains and half width -/

section Retrain

variable {s : State} {p q : PortRef} {w : Nat}

/-- The seam's end at port q is offline and has nothing left to send but late units (R255). -/
def Stopped (q : PortRef) (s : State) : Prop := (s.seam q).offline = true ∧ (s.seam q).out = []

/-- An end of a seam stops with the words that its receiver has not passed on (R255). -/
def stopEnd (s : State) (e : PortRef × List Bytes) : State := (s.setSeam e.1 ((s.seam e.1).stopped e.2)).noteLate e.1

theorem seam_stopEnd (s : State) (e : PortRef × List Bytes) (q : PortRef) :
    (stopEnd s e).seam q = if e.1.key = q.key then (s.seam e.1).stopped e.2 else s.seam q :=
  (seam_congr (noteLate_seams ..) q).trans (seam_setSeam ..)

theorem takeOffline_seams (s : State) (p : PortRef) : (s.takeOffline p).seams = (((s.ends p).map fun q => (q, s.unpassed q)).foldl stopEnd s).seams := by
  unfold State.takeOffline
  rfl

theorem stopEnd_stops (s : State) (e : PortRef × List Bytes) : Stopped e.1 (stopEnd s e) := by
  unfold Stopped
  rw [seam_stopEnd, if_pos rfl]
  exact ⟨rfl, rfl⟩

theorem stopEnd_keeps (s : State) (e f : PortRef × List Bytes) (h : Stopped f.1 s) : Stopped f.1 (stopEnd s e) := by
  unfold Stopped
  rw [seam_stopEnd]
  split
  · exact ⟨rfl, rfl⟩
  · exact h

theorem stopEnds_stop {l : List (PortRef × List Bytes)} {e : PortRef × List Bytes} (he : e ∈ l) (s : State) : Stopped e.1 (l.foldl stopEnd s) :=
  foldl_each (g := stopEnd) (P := fun e => Stopped e.1) stopEnd_stops stopEnd_keeps l s he

theorem takeOffline_stops (hq : q ∈ s.ends p) : Stopped q (s.takeOffline p) := by
  unfold Stopped
  rw [seam_congr (takeOffline_seams s p)]
  exact stopEnds_stop (List.mem_map_of_mem hq) s

theorem seamRetrain_stops (hruns : s.seamRuns p = true) (hup : (s.seam p).offline = false) : runs (.seamRetrain p w) s (s.takeOffline p) :=
  congrArg (answer s) ((if_neg (ne_true_of_eq_false hup)).trans (if_pos hruns))

theorem seamRetrain_ends (hoff : (s.seam p).offline = true) : runs (.seamRetrain p w) s (s.endRetrain p w) :=
  congrArg (answer s) (if_pos hoff)

/-- An end of a seam runs again, counted and recorded (R255). -/
def endRuns (s : State) (q : PortRef) : State :=
  let u := (s.setSeam q { s.seam q with offline := false }).count (portReg q 0x34) 1
  u.record 0x0503 2 noPart 0 (onSite q.site (q.quad * 8 + q.port))
    (u32 (u.reg (portReg q 0x34)).toNat ++ u16 (match u.peer q with | none => q.site | some o => o.site))

theorem seam_endRuns (s : State) (q r : PortRef) : (endRuns s q).seam r = if q.key = r.key then { s.seam q with offline := false } else s.seam r := by
  refine (seam_congr (t := endRuns s q) (s := s.setSeam q { s.seam q with offline := false }) ?_ r).trans (seam_setSeam ..)
  unfold endRuns
  dsimp only
  rw [record_onlyEvents]
  exact count_seams ..

/-- Both ends run again, their routers' frames in step, and what waited in them goes on (R255). -/
def seamBack (s : State) (p : PortRef) : State :=
  (((s.ends p).foldl endRuns s).restartFrames ((((s.ends p).foldl endRuns s).ends p).map PortRef.blk)).settleNet 16

theorem seamBack_runs (hq : q ∈ s.ends p) : ((seamBack s p).seam q).offline = false := by
  unfold seamBack
  rw [seam_congr (settleNet_seams ..)]
  refine foldl_each (P := fun r (u : State) => (u.seam r).offline = false) (fun u r => ?_) (fun u r x h => ?_) _ s hq
  · rw [seam_endRuns, if_pos rfl]
  · rw [seam_endRuns]
    split
    · rfl
    · exact h

/-- The bad wires of a retrain are listed (R255). -/
def wiresListed (s : State) (p : PortRef) (w : Nat) : State :=
  (onesOf w 64).foldl (fun s x => s.addDefect 1 11 kWire p.site (p.quad * 8 + p.port) x) s

theorem wiresListed_seams (s : State) (p : PortRef) (w : Nat) : (wiresListed s p w).seams = s.seams :=
  foldl_keep _ (fun u => u.seams = s.seams) (fun _ _ h => (addDefect_seams ..).trans h) _ _ rfl

theorem endRetrain_served (hn : s.replaced p + (onesOf w 64).length ≤ spareWires) :
    s.endRetrain p w = (wiresListed (seamBack s p) p w).setField (portReg p 0x38) 8 8 (s.replaced p + (onesOf w 64).length) :=
  if_neg (Nat.not_lt.mpr hn)

theorem endRetrain_replaced (hn : s.replaced p + (onesOf w 64).length ≤ spareWires) :
    (s.endRetrain p w).replaced p = s.replaced p + (onesOf w 64).length := by
  rw [endRetrain_served hn]
  exact (field_setField _ _ _ _ _ (by decide)).trans (Nat.mod_eq_of_lt (Nat.lt_of_le_of_lt hn (by decide)))

theorem endRetrain_runs (hn : s.replaced p + (onesOf w 64).length ≤ spareWires) (hq : q ∈ s.ends p) :
    ((s.endRetrain p w).seam q).offline = false := by
  rw [endRetrain_served hn, seam_congr (setField_seams ..), seam_congr (wiresListed_seams ..)]
  exact seamBack_runs hq

theorem seamHalfWidth_begins (hruns : s.seamRuns p = true) : runs (.seamHalfWidth p) s (s.halfWidth p) :=
  congrArg (answer s) (if_pos hruns)

theorem degrade_half (s : State) : s.degrade.sparing.halfSeams = s.sparing.halfSeams := by
  unfold State.degrade
  split
  · exact setPanelState_half ..
  · rfl

/-- A seam that is not at half width yet joins those that are, recorded, and the panel's state follows (R256, R383). -/
def halfListed (s : State) (p : PortRef) : State :=
  (({ s with sparing := { s.sparing with halfSeams := s.sparing.halfSeams ++ [p] } } : State).record 0x0504 3 noPart 0
    (onSite p.site (p.quad * 8 + p.port)) (u16 (((s.peer p).map PortRef.site).getD p.site))).degrade

theorem halfListed_half (s : State) (p : PortRef) : (halfListed s p).sparing.halfSeams = s.sparing.halfSeams ++ [p] := by
  unfold halfListed
  rw [degrade_half, record_onlyEvents]

/-- The die of the seam between port p and site o whose rod has a spare left is retired, the lower site's where both have (R256). -/
def besideRetired (u : State) (p : PortRef) (o : Nat) : State :=
  if u.hasSpare (Nat.min p.site o / 13) then u.retireDie (Nat.min p.site o) 11 none true
  else if u.hasSpare (Nat.max p.site o / 13) then u.retireDie (Nat.max p.site o) 11 none true
  else u

theorem besideRetired_half (u : State) (p : PortRef) (o : Nat) : (besideRetired u p o).sparing.halfSeams = u.sparing.halfSeams := by
  unfold besideRetired
  split
  · exact retireDie_half ..
  · split
    · exact retireDie_half ..
    · rfl

theorem halfWidth_eq (hnew : s.sparing.halfSeams.any (fun q => (s.ends p).contains q) = false) :
    s.halfWidth p = ((s.peer p).map PortRef.site).elim (halfListed s p) (besideRetired (halfListed s p) p) := by
  refine (if_neg (ne_true_of_eq_false hnew)).trans ?_
  unfold halfListed besideRetired
  cases s.peer p <;> rfl

/-- A new half-width seam is listed, and the retirement of a die beside it leaves the list (R256). -/
theorem halfWidth_new (hnew : s.sparing.halfSeams.any (fun q => (s.ends p).contains q) = false) :
    (s.halfWidth p).sparing.halfSeams = s.sparing.halfSeams ++ [p] := by
  rw [halfWidth_eq hnew]
  cases (s.peer p).map PortRef.site with
  | none => exact halfListed_half s p
  | some o => exact (besideRetired_half ..).trans (halfListed_half s p)

theorem halfWidth_lists (s : State) (p : PortRef) : ∃ q ∈ s.ends p, q ∈ (s.halfWidth p).sparing.halfSeams := by
  cases hany : s.sparing.halfSeams.any (fun q => (s.ends p).contains q) with
  | true =>
    obtain ⟨q, hq, hend⟩ := List.any_eq_true.mp hany
    refine ⟨q, List.contains_iff_mem.mp hend, ?_⟩
    unfold State.halfWidth
    rw [if_pos hany]
    exact hq
  | false =>
    refine ⟨p, List.mem_cons_self, ?_⟩
    rw [halfWidth_new hany]
    exact List.mem_append_right _ (List.mem_singleton_self p)

end Retrain

/-! ### Errors in a router's tables -/

section Tables

variable {s : State} {p : PortRef} {c e : Nat}

/-- What an uncorrectable error in entry e of a table of cluster c's router leaves (R257). -/
def tableError (s : State) (c e : Nat) : FabTable → State
  | .slot => s.slotError c e
  | .exit => s.exitError c e
  | .route => s.routeError c e

theorem fabricTableUe_errs (table : FabTable) (hc : s.blkCluster p.blk = some c) : runs (.fabricTableUe p table e) s (tableError s c e table) := by
  refine congrArg (answer s) ?_
  rw [hc]
  cases table <;> rfl

theorem routeError_drops {m : Moving} (hm : (s.moving.filter fun m => m.legs.any fun l => decide (l.key / 5 = s.blk c))[e]? = some m) :
    s.routeError c e = ({ s with moving := s.moving.erase m } : State).count (s.fabReg c 0x014) 1 := by
  unfold State.routeError
  dsimp only
  rw [hm]

end Tables

/-- Settles O37: a word and a resend decide on their branches, both ends stop with a retrain and run after it, and each table's error has its effect. -/
theorem seamsCarryAndRetrain : Obligations.SeamsCarryAndRetrain := by
  unfold Obligations.SeamsCarryAndRetrain
  refine ⟨fun s p w lane => ⟨fun hruns => ⟨⟨seamWord_fails hruns, seamWord_slips hruns, fun hok hroom => runs_ite_pos (seamWord_good hruns hok hroom),
      seamWord_waits hruns⟩, fun o ho hnak hfew => ⟨?resend, ?second⟩⟩, fun u => lateUnitSend_sends⟩,
    fun s p w c e => ⟨fun hruns hup => ?stops, fun hoff hn => ?ends, fun hruns => ?half, fun hc => ⟨?slot, ?exit, fun m hm => ?route⟩⟩⟩
  case resend => exact fun hfirst => runs_ite_neg (seamResend_few hruns ho hnak hfew) fun h => hfirst (Nat.succ.inj h)
  case second => exact fun hsecond => runs_ite_pos (seamResend_few hruns ho hnak hfew) (congrArg Nat.succ hsecond)
  case stops =>
    refine ⟨_, seamRetrain_stops hruns hup, fun q hq => ?_⟩
    rw [keeping_seam]
    exact takeOffline_stops hq
  case ends =>
    refine ⟨_, seamRetrain_ends hoff, (keeping_at_field ..).trans (endRetrain_replaced hn), fun q hq => ?_⟩
    rw [keeping_seam]
    exact endRetrain_runs hn hq
  case half =>
    refine ⟨_, seamHalfWidth_begins hruns, ?_⟩
    rw [keeping_sparing]
    exact halfWidth_lists s p
  case slot => exact fabricTableUe_errs .slot hc
  case exit => exact fabricTableUe_errs .exit hc
  case route =>
    rw [← routeError_drops hm]
    exact fabricTableUe_errs .route hc

end Sys2Proof.Proofs
end

section
/-! Proofs of the statements on links and routing: flits and the training of ports (R268 to R272, R304 to R306), packets at a link die (R271 to
R292), requests and answers (R276 to R281), groups, relayed replies and collective contexts (R290, R298, R343), timers (R276 to R301), light and
cables (R264, R265, R309, R451 to R461), and the commands that set routes, fences, groups and contexts (R282 to R288, R334, R335). -/

namespace Sys2Proof.Proofs

open Sys2Proof Sys2Proof.Machine Sys2Proof.Safety Sys2Proof.Laws

/-! ### Flits that arrive at a port -/

section Flits

variable {s : State} {port n : Nat} {flit f : Bytes}

/-- The port carries native traffic, and trains or runs (R262, R268). -/
structure TakesFlits (s : State) (port : Nat) : Prop where
  native : s.native port = true
  up : s.field (linkReg port 0) 0 2 ≠ 0
  unfenced : s.field (linkReg port 0) 0 2 ≠ 3

/-- The port has discarded a flit that a check refuses, counted it and asked for it again (R268, R272). -/
def flitRefused (port : Nat) (u : State) : State := (u.count (linkReg port 0x20) 1).setPort port { u.port port with nak := true }

/-- `ACKSEQ` and `NAK` of flit f have acted, and the port has sent what they let it (R272). -/
def acksTaken (u : State) (port : Nat) (f : Bytes) : State :=
  (u.setPort port ((u.port port).ackTo (BitVec.ofNat 12 (bits (fld f 0 4) 14 12)) (bitOf (fld f 0 4) 26))).pumpLink port

/-- `FSEQ` of flit f (R266). -/
def flitSeq (f : Bytes) : BitVec 12 := BitVec.ofNat 12 (bits (fld f 0 4) 2 12)

/-- A DATA flit that passed its check joins its packet in order; one received before is discarded, and one past a gap asked for (R270, R272). -/
def dataTaken (v : State) (port : Nat) (f : Bytes) : State :=
  if flitSeq f = (v.port port).rxSeq + 1 then v.dataIn port f
  else if ((v.port port).rxSeq - flitSeq f).toNat < 2048 then v
  else v.setPort port { v.port port with nak := true }

/-- A CONTROL or IDLE flit that passed its check: past a gap it asks for what is missing, and CREDIT and TRAIN act (R266, R270). -/
def controlTaken (v : State) (port : Nat) (f : Bytes) : State :=
  let u := if flitSeq f = (v.port port).rxSeq ∨ ((v.port port).rxSeq - flitSeq f).toNat < 2048 then v
    else v.setPort port { v.port port with nak := true }
  if bits (fld f 0 4) 0 2 = 2 then
    if byteAt f 4 = 1 then u.creditIn port (slice f 4 232) else if byteAt f 4 = 2 then u.trainIn port (slice f 4 232) else u
  else u

/-- A whole flit goes through FEC and the check, and acts as its kind says (R267, R268). -/
theorem flitReceive_checks (h : TakesFlits s port) (hlen : flit.length = 256) :
    runs (.flitReceive port flit) s ((fecCorrect flit).elim (flitRefused port s) fun r =>
      if crc64 (r.1.take 236) ≠ fld r.1 236 8 then flitRefused port (s.noteFec port r.2)
      else if bits (fld r.1 0 4) 0 2 = 1 then dataTaken (acksTaken (s.noteFec port r.2) port r.1) port r.1
      else controlTaken (acksTaken (s.noteFec port r.2) port r.1) port r.1) := by
  obtain ⟨hnative, hup, hunfenced⟩ := h
  refine congrArg (answer s) ((if_neg ?_).trans ?_)
  · rw [hnative, decide_eq_true hup, decide_eq_true hunfenced, hlen]
    decide
  · cases fecCorrect flit <;> rfl

theorem flitReceive_uncorrected (h : TakesFlits s port) (hlen : flit.length = 256) (hfec : fecCorrect flit = none) :
    runs (.flitReceive port flit) s (flitRefused port s) := by
  have hruns := flitReceive_checks h hlen
  rwa [hfec] at hruns

theorem flitReceive_badCrc (h : TakesFlits s port) (hlen : flit.length = 256) (hfec : fecCorrect flit = some (f, n))
    (hcrc : crc64 (f.take 236) ≠ fld f 236 8) : runs (.flitReceive port flit) s (flitRefused port (s.noteFec port n)) := by
  have hruns := flitReceive_checks h hlen
  rw [hfec] at hruns
  exact runs_ite_pos hruns hcrc

theorem flitReceive_data (h : TakesFlits s port) (hlen : flit.length = 256) (hfec : fecCorrect flit = some (f, n))
    (hcrc : crc64 (f.take 236) = fld f 236 8) (hdata : bits (fld f 0 4) 0 2 = 1) :
    runs (.flitReceive port flit) s (dataTaken (acksTaken (s.noteFec port n) port f) port f) := by
  have hruns := flitReceive_checks h hlen
  rw [hfec] at hruns
  exact runs_ite_pos (runs_ite_neg hruns (not_not_intro hcrc)) hdata

end Flits

/-! ### Replay and credit -/

section Replay

variable {s : State} {port : Nat}

/-- The times of the port's replays within a millisecond of this one (R272). -/
def replaysNow (s : State) (port : Nat) : List Nat := s.now :: (s.port port).replays.filter fun t => decide (s.now < t + usec 1000)

/-- The port has counted a replay and the flits that it sends again (R272, R310). -/
def replayCounted (s : State) (port : Nat) : State := (s.count (linkReg port 0x24) 1).count64 (linkReg port 8) (s.port port).resend.length

theorem linkUp_of (hnative : s.native port = true) (hup : s.field (linkReg port 0) 0 2 = 1) : s.linkUp port = true := by
  unfold State.linkUp
  rw [hnative, decide_eq_true hup]
  rfl

theorem linkReplay_replays (hup : s.linkUp port = true) (hresend : (s.port port).resend ≠ []) (hfew : (replaysNow s port).length ≤ 1000) :
    runs (.linkReplay port) s ((s.port port).resend.foldl (fun s f => s.drive port f)
      ((replayCounted s port).setPort port { s.port port with resend := [], replays := replaysNow s port })) := by
  refine congrArg (answer s) ((if_neg (not_or.mpr ⟨ne_true_of_eq_false (congrArg not hup), hresend⟩)).trans ?_)
  unfold replaysNow at hfew ⊢
  dsimp only
  rw [if_neg (Nat.not_lt.mpr hfew), if_neg (Nat.not_lt.mpr hfew)]
  rfl

/-- More than 1,000 replays within 1 ms start a retrain (R272). -/
theorem linkReplay_retrains (hup : s.linkUp port = true) (hresend : (s.port port).resend ≠ []) (hmany : 1000 < (replaysNow s port).length) :
    runs (.linkReplay port) s (((replayCounted s port).setPort port { s.port port with resend := [], replays := [] }).startTraining port) := by
  refine congrArg (answer s) ((if_neg (not_or.mpr ⟨ne_true_of_eq_false (congrArg not hup), hresend⟩)).trans ?_)
  unfold replaysNow at hmany
  dsimp only
  rw [if_pos hmany, if_pos hmany]
  rfl

theorem creditFlit_takes {b : Bytes} (hnative : s.native port = true) (hlen : 24 ≤ b.length) (hkind : byteAt b 0 = 1) :
    runs (.creditFlit port b) s ((s.setPort port { s.port port with
      freed := (List.range 8).foldl (fun t v => tset 0 t v (BitVec.ofNat 16 (fld b (4 + 2 * v) 2))) (s.port port).freed,
      shared := BitVec.ofNat 32 (fld b 20 4) }).pumpLink port) :=
  (answer_onlyIf _ hnative).trans (congrArg (answer s) (if_neg (not_or.mpr ⟨Nat.not_lt.mpr hlen, not_not_intro hkind⟩)))

end Replay

/-! ### What sending leaves of a port's control word -/

section Sending

variable {s t u : State} {port q : Nat}

/-- From s to t the control word of a port stands, with what it keeps of the peer's TRAIN flit, its role and panel memory. -/
structure KeepsLink (port : Nat) (s t : State) : Prop where
  word : t.reg (linkReg port 0) = s.reg (linkReg port 0)
  train : (t.port port).train = (s.port port).train
  native : t.native port = s.native port
  mem : t.mem = s.mem

theorem KeepsLink.rfl : KeepsLink port s s := ⟨.refl _, .refl _, .refl _, .refl _⟩

theorem KeepsLink.trans (a : KeepsLink port s t) (b : KeepsLink port t u) : KeepsLink port s u :=
  ⟨b.word.trans a.word, b.train.trans a.train, b.native.trans a.native, b.mem.trans a.mem⟩

theorem field_of_word (hword : t.reg (linkReg port 0) = s.reg (linkReg port 0)) (lo w : Nat) :
    t.field (linkReg port 0) lo w = s.field (linkReg port 0) lo w := by
  unfold State.field
  rw [hword]

theorem KeepsLink.field (h : KeepsLink port s t) (lo w : Nat) : t.field (linkReg port 0) lo w = s.field (linkReg port 0) lo w :=
  field_of_word h.word lo w

theorem native_of_onlyRegs (h : OnlyRegs s t) : t.native port = s.native port := by
  rw [h]
  rfl

theorem keepsLink_of_onlyRegs (h : OnlyRegs s t) (hword : t.reg (linkReg port 0) = s.reg (linkReg port 0)) : KeepsLink port s t :=
  ⟨hword, by rw [h]; rfl, native_of_onlyRegs h, h.mem⟩

/-- A control word is none of a port's other registers. -/
theorem linkReg_ne_word (port q o : Nat) (hlow : 0 < o) (hhigh : o < 0x40) : linkReg q o ≠ linkReg port 0 := by
  unfold linkReg lnkBase
  omega

theorem setPort_keepsLink {x : LinkPort} (hx : x.train = (s.port q).train) : KeepsLink port s (s.setPort q x) := by
  refine ⟨rfl, ?_, rfl, rfl⟩
  rw [port_setPort]
  split
  · next h => rw [hx, h]
  · rfl

theorem countSentFlits_keepsLink (s : State) (q n : Nat) : KeepsLink port s (s.count64 (linkReg q 8) n) :=
  keepsLink_of_onlyRegs (count64_onlyRegs ..) (count64_reg _ _ _ _ (linkReg_ne_word port q 8 (by decide) (by decide))
    (linkReg_ne_word port q 12 (by decide) (by decide)))

theorem drive_keepsLink (s : State) (q : Nat) (f : Bytes) : KeepsLink port s (s.drive q f) := setPort_keepsLink rfl

theorem sendControl_keepsLink (s : State) (q : Nat) (b : Bytes) : KeepsLink port s (s.sendControl q b) :=
  KeepsLink.trans (t := s.setPort q { s.port q with ctl := (s.port q).controlFlit b }) (setPort_keepsLink rfl) (drive_keepsLink ..)

theorem pumpPort_keepsLink (q : Nat) : ∀ (n : Nat) (s : State), KeepsLink port s (s.pumpPort q n)
  | 0, _ => .rfl
  | n + 1, s => by
    rw [State.pumpPort]
    split
    · exact .rfl
    · split
      · exact .rfl
      · refine .trans ?_ (pumpPort_keepsLink q n _)
        refine .trans (setPort_keepsLink ?_) ((countSentFlits_keepsLink ..).trans (drive_keepsLink ..))
        exact (apply_ite LinkPort.train ..).trans (ite_self _)

theorem pumpLink_keepsLink (s : State) (q : Nat) : KeepsLink port s (s.pumpLink q) := pumpPort_keepsLink ..

theorem moveStaged_keepsLink (s : State) (q : Nat) : KeepsLink port s (s.moveStaged q) := by
  unfold State.moveStaged
  refine foldl_keep _ (KeepsLink port s) (fun u e h => h.trans (.trans ?_ (pumpLink_keepsLink ..))) _ _ ?_ <;> exact setPort_keepsLink (.refl _)

end Sending

/-! ### The start of a retrain, and TRAIN flits -/

section Training

variable {s : State} {port : Nat}

/-- The retrain of a port that was not fenced is counted, and its width epoch is the next (R305, R306). -/
def trainingBegun (s : State) (port : Nat) : State :=
  let u := (s.count (linkReg port 0x28) 1).setLink port 2
  u.setField (linkReg port 0) 14 8 ((u.field (linkReg port 0) 14 8 + 1) % 256)

theorem count_word (s : State) (port o n : Nat) (hlow : 0 < o) (hhigh : o < 0x40) :
    (s.count (linkReg port o) n).reg (linkReg port 0) = s.reg (linkReg port 0) :=
  count_reg_ne _ _ _ _ (linkReg_ne_word port port o hlow hhigh)

theorem trainingBegun_state (s : State) (port : Nat) : (trainingBegun s port).field (linkReg port 0) 0 2 = 2 := by
  unfold trainingBegun
  dsimp only
  rw [field_setField_apart _ _ _ _ _ _ _ (by decide) (.inl (by decide))]
  exact (setLink_field _ port 2 14 8 (by decide)).1

theorem trainingBegun_epoch (s : State) (port : Nat) :
    (trainingBegun s port).field (linkReg port 0) 14 8 = (s.field (linkReg port 0) 14 8 + 1) % 256 := by
  unfold trainingBegun
  dsimp only
  rw [field_setField _ _ _ _ _ (by decide), (setLink_field _ port 2 14 8 (by decide)).2 (.inl (by decide)),
    field_of_word (count_word s port 0x28 1 (by decide) (by decide))]
  exact Nat.mod_mod ..

theorem trainingBegun_rest (s : State) (port : Nat) : (trainingBegun s port).native port = s.native port ∧ (trainingBegun s port).mem = s.mem := by
  obtain ⟨-, hmem, hnative⟩ := setLink_rest (s.count (linkReg port 0x28) 1) port 2
  unfold trainingBegun
  dsimp only
  rw [setField_native, (setField_onlyRegs ..).mem]
  exact ⟨hnative.trans (count_native ..), hmem.trans (count_onlyRegs ..).mem⟩

/-- The port waits for the peer's TRAIN flit (R306). -/
def trainAwaited (u : State) (port : Nat) : State := u.setPort port { u.port port with train := none }

theorem startTraining_eq (hfree : s.field (linkReg port 0) 0 2 ≠ 3) :
    s.startTraining port = (trainAwaited (trainingBegun s port) port).moveStaged port := by
  unfold State.startTraining
  dsimp only
  rw [if_neg hfree]
  rfl

/-- A retrain that has started: it works under the next width epoch, with no TRAIN flit of the peer's yet (R305, R306). -/
structure Retrains (port : Nat) (s t : State) : Prop where
  state : t.field (linkReg port 0) 0 2 = 2
  epoch : t.field (linkReg port 0) 14 8 = (s.field (linkReg port 0) 14 8 + 1) % 256
  train : (t.port port).train = none
  native : t.native port = s.native port
  mem : t.mem = s.mem

theorem startTraining_retrains (hfree : s.field (linkReg port 0) 0 2 ≠ 3) : Retrains port s (s.startTraining port) := by
  have hmoved := moveStaged_keepsLink (port := port) (trainAwaited (trainingBegun s port) port) port
  obtain ⟨hnative, hmem⟩ := trainingBegun_rest s port
  rw [startTraining_eq hfree]
  refine ⟨(hmoved.field ..).trans ?state, (hmoved.field ..).trans ?epoch, hmoved.train.trans ?train, hmoved.native.trans ?native, hmoved.mem.trans ?mem⟩
  all_goals unfold trainAwaited
  case state => exact (setPort_field ..).trans (trainingBegun_state s port)
  case epoch => exact (setPort_field ..).trans (trainingBegun_epoch s port)
  case train => rw [port_setPort, if_pos rfl]
  case native => exact (setPort_native ..).trans hnative
  case mem => exact (setPort_mem ..).trans hmem

/-- What a port keeps of a TRAIN flit: the flit and the peer's epoch, its own state and panel memory as they were (R305, R306). -/
theorem noteTrain_keeps (s : State) (port : Nat) (b : Bytes) :
    ((s.noteTrain port b).port port).train = some (BitVec.ofNat 32 (fld b 1 4))
      ∧ (s.noteTrain port b).field (linkReg port 0) 22 8 = byteAt b 1 % 256
      ∧ (s.noteTrain port b).field (linkReg port 0) 0 2 = s.field (linkReg port 0) 0 2 ∧ (s.noteTrain port b).mem = s.mem := by
  unfold State.noteTrain
  refine ⟨?_, field_setField _ _ _ _ _ (by decide), (field_setField_apart _ _ _ _ _ _ _ (by decide) (.inl (by decide))).trans (setPort_field ..), ?_⟩
  · rw [setField_at_port', port_setPort, if_pos rfl]
  · rw [(setField_onlyRegs ..).mem, setPort_mem]

/-- A TRAIN flit is kept, once it has started the retrain of a running port (R305). -/
theorem trainFlit_notes {b : Bytes} (hnative : s.native port = true) (hlen : 5 ≤ b.length) (hkind : byteAt b 0 = 2) :
    runs (.trainFlit port b) s ((if s.field (linkReg port 0) 0 2 = 1 then s.startTraining port else s).noteTrain port b) := by
  refine (answer_onlyIf _ hnative).trans (congrArg (answer s) ((if_neg (not_or.mpr ⟨Nat.not_lt.mpr hlen, not_not_intro hkind⟩)).trans ?_))
  split <;> rfl

/-- The state of a port as its TRAIN flit finds it: a running one retrains (R305). -/
theorem trainStarted_state (s : State) (port : Nat) :
    (if s.field (linkReg port 0) 0 2 = 1 then s.startTraining port else s).field (linkReg port 0) 0 2
        = (if s.field (linkReg port 0) 0 2 = 1 then 2 else s.field (linkReg port 0) 0 2)
      ∧ (if s.field (linkReg port 0) 0 2 = 1 then s.startTraining port else s).mem = s.mem := by
  split
  · next hup =>
    have h := startTraining_retrains (s := s) (port := port) (by rw [hup]; decide)
    exact ⟨h.state, h.mem⟩
  · exact ⟨rfl, rfl⟩

end Training

/-! ### Agreement of a retrain -/

section Agreement

variable {s t : State} {port : Nat} {mine w : Nat × Nat}

/-- The port runs on width and lanes w under epoch e, with no failed attempt (R306, R310). -/
structure RunsOn (port : Nat) (w : Nat × Nat) (e : Nat) (t : State) : Prop where
  state : t.field (linkReg port 0) 0 2 = 1
  width : t.field (linkReg port 0) 2 4 = w.1
  lanes : t.field (linkReg port 0) 6 8 = w.2
  failed : t.field (linkReg port 0) 30 2 = 0
  epoch : t.field (linkReg port 0) 14 8 = e

theorem RunsOn.of_word {e : Nat} (h : RunsOn port w e s) (hword : t.reg (linkReg port 0) = s.reg (linkReg port 0)) : RunsOn port w e t := by
  obtain ⟨hstate, hwidth, hlanes, hfailed, hepoch⟩ := h
  constructor <;> rwa [field_of_word hword]

theorem epochsMatch_congr (h : KeepsLink port s t) : t.epochsMatch port = s.epochsMatch port := by
  unfold State.epochsMatch
  rw [h.train]
  split
  · rfl
  · rw [h.field]

theorem epochsMatch_started (h : Retrains port s t) : t.epochsMatch port = true := by
  unfold State.epochsMatch
  rw [h.train]

/-- The control word of a port that runs on width and lanes w, before its credit is told (R269 to R271). -/
def runningWord (s : State) (port : Nat) (w : Nat × Nat) : State :=
  (((s.setLink port 1).setField (linkReg port 0) 2 4 w.1).setField (linkReg port 0) 6 8 w.2).setField (linkReg port 0) 30 2 0

theorem runningWord_runs (s : State) (port : Nat) (hwidth : w.1 < 16) (hlanes : w.2 < 256) :
    RunsOn port w (s.field (linkReg port 0) 14 8) (runningWord s port w) := by
  obtain ⟨hstate, hothers⟩ := setLink_field s port 1 14 8 (by decide)
  unfold runningWord
  refine ⟨?_, ?_, ?_, field_setField _ _ _ _ _ (by decide), ?_⟩ <;> rw [field_setField_apart _ _ _ _ _ _ _ (by decide) (by decide)]
  · rw [field_setField_apart _ _ _ _ _ _ _ (by decide) (by decide), field_setField_apart _ _ _ _ _ _ _ (by decide) (by decide), hstate]
  · rw [field_setField_apart _ _ _ _ _ _ _ (by decide) (by decide), field_setField _ _ _ _ _ (by decide)]
    exact Nat.mod_eq_of_lt hwidth
  · rw [field_setField _ _ _ _ _ (by decide)]
    exact Nat.mod_eq_of_lt hlanes
  · rw [field_setField_apart _ _ _ _ _ _ _ (by decide) (by decide), field_setField_apart _ _ _ _ _ _ _ (by decide) (by decide)]
    exact hothers (.inl (by decide))

theorem runningWord_native (s : State) (port : Nat) (w : Nat × Nat) : (runningWord s port w).native port = s.native port := by
  unfold runningWord
  rw [setField_native, setField_native, setField_native]
  exact (setLink_rest s port 1).2.2

/-- A port put into running has its control word as `runningWord` has it, whatever the retrain made of its buffers (R307). -/
theorem portRuns_runs (s : State) (port : Nat) (reset : Bool) (hwidth : w.1 < 16) (hlanes : w.2 < 256) :
    RunsOn port w (s.field (linkReg port 0) 14 8) (s.portRuns port w reset) ∧ (s.portRuns port w reset).native port = s.native port := by
  unfold State.portRuns
  extract_lets x y u v
  have hruns := runningWord_runs (s.setPort port { y with train := none, fresh := false, scram := [], line := [] }) port hwidth hlanes
  have hnative := runningWord_native (s.setPort port { y with train := none, fresh := false, scram := [], line := [] }) port w
  rw [setPort_field] at hruns
  rw [setPort_native] at hnative
  have hsent := sendControl_keepsLink (port := port) v port (v.port port).creditPayload
  exact ⟨hruns.of_word hsent.word, hsent.native.trans hnative⟩

/-- A retrain whose first attempt agrees ends with the port running on what is agreed (R306). -/
theorem agree_agrees {p : BitVec 8 × BitVec 8} {rest : List (Option (BitVec 8 × BitVec 8))} (hmatch : s.epochsMatch port = true)
    (hw : agreed mine p.1.toNat p.2.toNat = some w) :
    RunsOn port w (s.field (linkReg port 0) 14 8) (s.agree port (some mine) (some p :: rest))
      ∧ (s.agree port (some mine) (some p :: rest)).native port = s.native port := by
  obtain ⟨hwidth, hlanes⟩ := agreed_le hw
  have hproposed := sendControl_keepsLink (port := port) s port (s.trainPayload port mine false)
  generalize hu : s.sendControl port (s.trainPayload port mine false) = u at hproposed
  have hconfirmed := hproposed.trans (sendControl_keepsLink (port := port) u port (u.trainPayload port w true))
  obtain ⟨hruns, hnative⟩ := portRuns_runs (w := w) (u.sendControl port (u.trainPayload port w true)) port (p.1.getLsbD 5) hwidth hlanes
  have heq : s.agree port (some mine) (some p :: rest) = (u.sendControl port (u.trainPayload port w true)).portRuns port w (p.1.getLsbD 5) := by
    have hresult : (if u.epochsMatch port then (some mine).bind fun m => (some p).bind fun p => agreed m p.1.toNat p.2.toNat else none) = some w :=
      (if_pos ((epochsMatch_congr hproposed).trans hmatch)).trans hw
    subst hu
    rw [State.agree]
    dsimp only [Option.getD_some]
    rw [hresult]
  rw [heq, ← hconfirmed.field]
  exact ⟨hruns, hnative.trans hconfirmed.native⟩

theorem record_word (s : State) (port code sev part region : Nat) (sub : Subject) (data : Bytes) :
    (s.record code sev part region sub data).reg (linkReg port 0) = s.reg (linkReg port 0) := by
  refine record_reg _ _ _ _ _ _ _ _ ?_ ?_ <;> (unfold linkReg lnkBase evrBase ctBase; omega)

/-- The retrain that LINK_RETRAIN works at: the one that has started, or the one that starts with it (R305). -/
def retrainStarted (s : State) (port : Nat) : State := if s.field (linkReg port 0) 0 2 = 2 then s else s.startTraining port

/-- The width epoch of that retrain (R306). -/
def epochStarted (s : State) (port : Nat) : Nat :=
  if s.field (linkReg port 0) 0 2 = 2 then s.field (linkReg port 0) 14 8 else (s.field (linkReg port 0) 14 8 + 1) % 256

theorem retrainStarted_matches (hfree : s.field (linkReg port 0) 0 2 ≠ 3) (hmatch : s.field (linkReg port 0) 0 2 = 2 → s.epochsMatch port = true) :
    (retrainStarted s port).epochsMatch port = true ∧ (retrainStarted s port).native port = s.native port
      ∧ (retrainStarted s port).field (linkReg port 0) 14 8 = epochStarted s port := by
  unfold retrainStarted epochStarted
  split
  · next hretrains => exact ⟨hmatch hretrains, rfl, rfl⟩
  · have h := startTraining_retrains hfree
    exact ⟨epochsMatch_started h, h.native, h.epoch⟩

/-- The outcome of a retrain is recorded (R305). -/
def retrainRecorded (v : State) (port : Nat) : State := v.record 0x0602 2 noPart 0 (onLinkDie (port / 6) (port % 6))
  (u8 (v.field (linkReg port 0) 2 4) ++ u8 (v.field (linkReg port 0) 14 8) ++ u8 (v.field (linkReg port 0) 22 8))

theorem retrainRecorded_runs {e : Nat} (h : RunsOn port w e s) : RunsOn port w e (retrainRecorded s port) := h.of_word (record_word ..)

/-- A retrain after which the port runs is recorded, and sending goes on (R305). -/
theorem retrainLinkAt_up {ok : BitVec 8} {peer : List (Option (BitVec 8 × BitVec 8))}
    (ht : (retrainStarted s port).agree port (proposal ok.toNat) peer = t) (hunfenced : (retrainRecorded t port).field (linkReg port 0) 0 2 ≠ 3)
    (hup : (retrainRecorded t port).linkUp port = true) : s.retrainLinkAt port ok peer = (retrainRecorded t port).pumpLink port := by
  subst ht
  unfold State.retrainLinkAt
  unfold retrainRecorded retrainStarted at *
  dsimp only
  rw [if_neg hunfenced, if_pos hup]

/-- LINK_RETRAIN whose first attempt agrees leaves the port running on what is agreed (R305, R306). -/
theorem retrainLinkAt_agrees {ok : BitVec 8} {p : BitVec 8 × BitVec 8} {rest : List (Option (BitVec 8 × BitVec 8))}
    (hnative : s.native port = true) (hfree : s.field (linkReg port 0) 0 2 ≠ 3)
    (hmatch : s.field (linkReg port 0) 0 2 = 2 → s.epochsMatch port = true) (hmine : proposal ok.toNat = some mine)
    (hw : agreed mine p.1.toNat p.2.toNat = some w) : RunsOn port w (epochStarted s port) (s.retrainLinkAt port ok (some p :: rest)) := by
  obtain ⟨hepochs, hstarted, hepoch⟩ := retrainStarted_matches hfree hmatch
  obtain ⟨hruns, hsame⟩ := agree_agrees (port := port) (rest := rest) hepochs hw
  rw [hepoch, ← hmine] at hruns
  rw [← hmine] at hsame
  have hrecorded := retrainRecorded_runs hruns
  have hup := linkUp_of ((record_native ..).trans (hsame.trans (hstarted.trans hnative))) hrecorded.state
  rw [retrainLinkAt_up rfl (by rw [hrecorded.state]; decide) hup]
  exact hrecorded.of_word (pumpLink_keepsLink ..).word

end Agreement

/-- Settles O38: a flit's checks pick its branch, and a retrain is followed through the port's control word, which sending leaves alone. -/
theorem linksReplayAndTrain : Obligations.LinksReplayAndTrain := by
  unfold Obligations.LinksReplayAndTrain
  refine ⟨fun s port flit hnative => ⟨fun hup hfree hlen => ⟨?fec, fun f n hfec => ⟨?crc, fun hcrc hdata => ?data⟩⟩, fun hup hresend => ⟨?replays, ?retrains⟩⟩,
    fun s port b hnative => ⟨creditFlit_takes hnative, fun hlen hkind => ?train, fun ok p rest mine w hfree hmatch hmine hw => ?retrain⟩⟩
  case fec => exact flitReceive_uncorrected ⟨hnative, hup, hfree⟩ hlen
  case crc => exact flitReceive_badCrc ⟨hnative, hup, hfree⟩ hlen hfec
  case data =>
    have hruns := flitReceive_data ⟨hnative, hup, hfree⟩ hlen hfec hcrc hdata
    exact ⟨fun hseq => runs_ite_pos hruns hseq, fun hseq hold => runs_ite_pos (runs_ite_neg hruns hseq) hold,
      fun hseq hgap => runs_ite_neg (runs_ite_neg hruns hseq) (Nat.not_lt.mpr hgap)⟩
  case replays => exact linkReplay_replays (linkUp_of hnative hup) hresend
  case retrains => exact linkReplay_retrains (linkUp_of hnative hup) hresend
  case train =>
    obtain ⟨htrain, hepoch, hstate, hmem⟩ := noteTrain_keeps (if s.field (linkReg port 0) 0 2 = 1 then s.startTraining port else s) port b
    obtain ⟨hstarted, hkept⟩ := trainStarted_state s port
    exact ⟨_, trainFlit_notes hnative hlen hkind, htrain, hepoch, hstate.trans hstarted, hmem.trans hkept⟩
  case retrain =>
    have h := retrainLinkAt_agrees (rest := rest) hnative hfree hmatch hmine hw
    exact ⟨_, answer_onlyIf _ (by rw [hnative, decide_eq_true hfree]; rfl), h.state, h.width, h.lanes, h.failed, h.epoch⟩

/-! ### Packets that arrive at a link die -/

section LinkDie

variable {s : State} {die : Nat} {p : Packet} {m : Moving}

/-- The copy of p that waits at link die `die` (R284). -/
def waitingCopy (s : State) (die : Nat) (p : Packet) : Option Moving := s.moving.find? fun m => decide (m.pkt = p) && m.waitsAt die

/-- A working link die can take packet p: a copy of it waits there, or no router still holds one. -/
def Reached (s : State) (die : Nat) (p : Packet) : Prop :=
  die < 6 ∧ s.linkLost die = false ∧ ((waitingCopy s die p).isSome = true ∨ s.underWay p = false)

/-- What LINK_PACKET_RECEIVE does once the packet has reached the die: one that cannot go on waits, another is dealt with (R274, R292). -/
def dealtWith (s : State) (die : Nat) (p : Packet) : State :=
  if packetSound p && !s.dieReady die p then (if (waitingCopy s die p).isSome then s else s.addMoving (.exit (24 + die)) (2000 + die) p)
  else match waitingCopy s die p with
    | none => s.dieReceive die s.now p
    | some m =>
      if m.src = agGleryn ∧ (s.rimWay (6 + s.activeCt) die).isNone then s
      else (({ s with moving := s.moving.erase m }).freeInput m).dieReceive die m.since p

theorem linkPacketReceive_deals (h : Reached s die p) : runs (.linkPacketReceive die p) s (dealtWith s die p) := by
  obtain ⟨hdie, hlost, hhere⟩ := h
  refine congrArg (answer s) (if_neg (not_or.mpr ⟨Nat.not_le.mpr hdie, not_or.mpr ⟨ne_true_of_eq_false hlost, fun ⟨hway, hno⟩ => ?_⟩⟩))
  rcases hhere with hhere | hhere
  · exact absurd (List.find?_isSome.mp hhere) (by simpa using hno)
  · exact ne_true_of_eq_false hhere hway

/-- A waiting packet that the die cannot pass on goes on waiting (R292). -/
theorem dealtWith_stays (hm : waitingCopy s die p = some m) (hsound : packetSound p = true) (hready : s.dieReady die p = false) :
    dealtWith s die p = s := by
  refine (if_pos (by rw [hsound, hready]; rfl)).trans (if_pos ?_)
  rw [hm]
  rfl

/-- Packet p as link die `die` takes it up: u is the state once it has left its input buffer, `since` when it came to the panel (R271). -/
def TakenUp (s : State) (die : Nat) (p : Packet) (u : State) (since : Nat) : Prop :=
  (∃ m, waitingCopy s die p = some m ∧ m.src ≠ agGleryn ∧ u = ({ s with moving := s.moving.erase m }).freeInput m ∧ since = m.since)
    ∨ (waitingCopy s die p = none ∧ s.underWay p = false ∧ u = s ∧ since = s.now)

theorem TakenUp.reached {u : State} {since : Nat} (h : TakenUp s die p u since) (hdie : die < 6) (hlost : s.linkLost die = false) :
    Reached s die p := by
  refine ⟨hdie, hlost, ?_⟩
  obtain ⟨m, hm, -⟩ | ⟨-, hway, -⟩ := h
  · exact .inl (by rw [hm]; rfl)
  · exact .inr hway

theorem TakenUp.dealtWith {u : State} {since : Nat} (h : TakenUp s die p u since) (hgo : packetSound p = false ∨ s.dieReady die p = true) :
    dealtWith s die p = u.dieReceive die since p := by
  refine (if_neg (hgo.elim (fun h => by rw [h]; exact Bool.false_ne_true) fun h => by rw [h, Bool.not_true, Bool.and_false]; exact Bool.false_ne_true)).trans ?_
  obtain ⟨m, hm, hsrc, rfl, rfl⟩ | ⟨hnone, -, rfl, rfl⟩ := h
  · rw [hm]
    exact if_neg fun h => hsrc h.1
  · rw [hnone]

end LinkDie

/-! ### Resolution at a link die -/

section Resolution

variable {s : State} {die since : Nat} {p : Packet}

theorem dieReceive_bad (hbad : packetSound p = false) : s.dieReceive die since p = s.count (lnkBase die + 0x10) 1 :=
  if_pos (congrArg not hbad)

theorem dieReceive_sound (hsound : packetSound p = true) : s.dieReceive die since p = s.dieRoute die since p 3 :=
  if_neg (ne_true_of_eq_false (congrArg not hsound))

theorem dieRoute_noRoute (n : Nat) (hdest : p.dest = 0 ∨ 0xFF0000 ≤ p.dest.toNat) :
    s.dieRoute die since p (n + 1) = s.count (lnkBase die + 0x14) 1 := by
  rw [State.dieRoute]
  exact if_pos hdest

/-- The endpoint entry of p's destination is valid and not fenced (R283). -/
def Routable (s : State) (p : Packet) : Prop :=
  p.dest ≠ 0 ∧ p.dest.toNat < 0xFF0000 ∧ bitOf (s.eptEntry p.dest) 15 = true ∧ bitOf (s.eptEntry p.dest) 14 = false

theorem dieRoute_local (n : Nat) (h : Routable s p) (hmc : p.mcast = false) (hkind : bits (s.eptEntry p.dest) 12 2 = 0) (hcls : p.cls ≠ 3) :
    s.dieRoute die since p (n + 1) = s.enterPanel die p := by
  obtain ⟨hzero, hhigh, hvalid, hfenced⟩ := h
  rw [State.dieRoute]
  dsimp only
  rw [hvalid, hfenced, hkind, hmc]
  refine (if_neg (not_or.mpr ⟨hzero, Nat.not_le.mpr hhigh⟩)).trans ((if_neg (by decide)).trans ((if_neg (by decide)).trans ?_))
  exact (if_neg (by decide)).trans ((if_pos rfl).trans (if_neg fun h => hcls h.1))

theorem dieRoute_link (n : Nat) (h : Routable s p) (hmc : p.mcast = false) (hkind : bits (s.eptEntry p.dest) 12 2 = 1)
    (hport : bits (s.eptEntry p.dest) 6 6 < 36) :
    s.dieRoute die since p (n + 1) = s.egress die (bits (s.eptEntry p.dest) 6 6) (bits (s.eptEntry p.dest) 4 2) none since p := by
  obtain ⟨hzero, hhigh, hvalid, hfenced⟩ := h
  rw [State.dieRoute]
  dsimp only
  rw [hvalid, hfenced, hkind, hmc]
  refine (if_neg (not_or.mpr ⟨hzero, Nat.not_le.mpr hhigh⟩)).trans ((if_neg (by decide)).trans ((if_neg (by decide)).trans ?_))
  exact (if_neg (by decide)).trans ((if_neg (by decide)).trans ((if_pos rfl).trans (if_pos hport)))

end Resolution

/-- Settles O39: the packet is taken up and received, its check and its entry pick the branch, and one without room stays. -/
theorem linkDieResolves : Obligations.LinkDieResolves := by
  unfold Obligations.LinkDieResolves
  refine fun s die p hdie hlost => ⟨fun m hm hsound hready => ?stays, fun u since (htaken : TakenUp s die p u since) => ?taken⟩
  case stays =>
    have hdeals := linkPacketReceive_deals ⟨hdie, hlost, .inl (by rw [show waitingCopy s die p = some m from hm]; rfl)⟩
    rw [dealtWith_stays hm hsound hready] at hdeals
    exact hdeals.trans (answer_self s)
  case taken =>
    have hruns : packetSound p = false ∨ s.dieReady die p = true → runs (.linkPacketReceive die p) s (u.dieReceive die since p) :=
      fun hgo => htaken.dealtWith hgo ▸ linkPacketReceive_deals (htaken.reached hdie hlost)
    have hroutes : packetSound p = true → s.dieReady die p = true → runs (.linkPacketReceive die p) s (u.dieRoute die since p 3) :=
      fun hsound hready => dieReceive_sound (s := u) hsound ▸ hruns (.inr hready)
    refine ⟨fun hbad => dieReceive_bad (s := u) hbad ▸ hruns (.inl hbad),
      fun hsound hready hzero hhigh hvalid hfenced hmc => ⟨fun hkind hcls => ?enters, fun hkind hport => ?link⟩, fun hsound hready hdest => ?noRoute⟩
    case enters => exact dieRoute_local 2 ⟨hzero, hhigh, hvalid, hfenced⟩ hmc hkind hcls ▸ hroutes hsound hready
    case link => exact dieRoute_link 2 ⟨hzero, hhigh, hvalid, hfenced⟩ hmc hkind hport ▸ hroutes hsound hready
    case noRoute => exact dieRoute_noRoute 2 hdest ▸ hroutes hsound hready

/-! ### Packets that have come to their endpoints -/

section Arrived

variable {s : State} {p : Packet} {op : Nat}

theorem forOp_arrived (f : State → State) (hop : p.opcode.toNat = op) (hway : s.underWay p = false) : s.forOp op p f = f s :=
  if_pos ⟨hop, congrArg not hway⟩

theorem replyIn_passed (f : State → State) (habs : (s.arrives p).absorbing p.dest = none) : s.replyIn p f = f (s.arrives p) := by
  unfold State.replyIn
  dsimp only
  rw [habs]

/-- A reply that routers do not still hold and no reset absorbs meets what the panel does with it (R405). -/
theorem reply_meets (f : State → State) (hop : p.opcode.toNat = op) (hway : s.underWay p = false) (habs : (s.arrives p).absorbing p.dest = none) :
    (s.forOp op p fun s => s.replyIn p f) = f (s.arrives p) :=
  (forOp_arrived _ hop hway).trans (replyIn_passed f habs)

end Arrived

/-! ### What settles a packet -/

section Answers

variable {s : State} {p : Packet} {key : FlowKey} {w : Unacked}

theorem acked_single (h : w.pkt.mcast = false) : s.acked key w = s.settle key w stOk :=
  if_pos (congrArg not h)

theorem nacked_single (st : Nat) (h : w.pkt.mcast = false) :
    s.nacked key w st = if st = stBusy then s.setUnacked key w { w with busy := true } else s.settle key w st := by
  unfold State.nacked
  rw [h]
  rfl

/-- Packet p has acknowledged the packet with SEQ q, if one waits for it that no reply answers (R277). -/
def seqAcked (p : Packet) (s : State) (q : Half) : State :=
  match s.awaiting p.dest p.src [0, 1] q with
  | none => s
  | some (k, u) => if u.pkt.opcode = 0x02 ∨ u.pkt.opcode = 0x03 then s else s.acked k u

theorem seqAcked_settles {q : Half} (hw : s.awaiting p.dest p.src [0, 1] q = some (key, w)) (hread : w.pkt.opcode ≠ 0x02)
    (hmgmt : w.pkt.opcode ≠ 0x03) (hmc : w.pkt.mcast = false) : seqAcked p s q = s.settle key w stOk := by
  unfold seqAcked
  rw [hw]
  exact (if_neg (not_or.mpr ⟨hread, hmgmt⟩)).trans (acked_single hmc)

theorem ack_settles (hop : p.opcode.toNat = 0x20) (hway : s.underWay p = false) (habs : (s.arrives p).absorbing p.dest = none)
    (hone : p.addr = 0) (hw : (s.arrives p).awaiting p.dest p.src [0, 1] p.seq = some (key, w)) (hread : w.pkt.opcode ≠ 0x02)
    (hmgmt : w.pkt.opcode ≠ 0x03) (hmc : w.pkt.mcast = false) : runs (.ack p) s ((s.arrives p).settle key w stOk) := by
  refine congrArg (answer s) ((reply_meets _ hop hway habs).trans ?_)
  rw [hone]
  calc seqAcked p (s.arrives p) (p.seq - 0#16)
    _ = seqAcked p (s.arrives p) p.seq := by rw [BitVec.sub_zero]
    _ = (s.arrives p).settle key w stOk := seqAcked_settles hw hread hmgmt hmc

theorem nack_settles (hop : p.opcode.toNat = 0x21) (hway : s.underWay p = false) (habs : (s.arrives p).absorbing p.dest = none)
    (hw : (s.arrives p).awaiting p.dest p.src [0, 1] p.seq = some (key, w)) (hmc : w.pkt.mcast = false) :
    runs (.nack p) s (if bits p.addr.toNat 0 8 = stBusy then (s.arrives p).setUnacked key w { w with busy := true }
      else (s.arrives p).settle key w (bits p.addr.toNat 0 8)) := by
  refine congrArg (answer s) ((reply_meets _ hop hway habs).trans ?_)
  rw [hw]
  exact nacked_single _ hmc

theorem collAck_settles (hop : p.opcode.toNat = 0x32) (hway : s.underWay p = false) (habs : (s.arrives p).absorbing p.dest = none)
    (hw : (s.arrives p).awaiting p.dest p.src [3] p.seq = some (key, w)) (hmc : w.pkt.mcast = false) :
    runs (.collAck p) s (if bits p.addr.toNat 0 8 = stBusy then (s.arrives p).setUnacked key w { w with busy := true }
      else (s.arrives p).settle key w (bits p.addr.toNat 0 8)) := by
  refine congrArg (answer s) ((reply_meets _ hop hway habs).trans ?_)
  rw [hw]
  dsimp only
  by_cases hst : bits p.addr.toNat 0 8 = stOk
  · rw [if_pos hst, hst, acked_single hmc]
    rfl
  · rw [if_neg hst]
    exact nacked_single _ hmc

/-- The bytes of piece x of the descriptor that channel ch of cluster c runs have come (R277). -/
def pieceFilled (u : State) (c ch : Nat) (x : Piece) (bs : Bytes) : State :=
  u.modRun c ch fun r => { r with reads := r.reads.map fun y => if y = x then { y with data := some (padTo x.size bs) } else y }

theorem readData_settles {c ch : Nat} {r : BmRun} {x : Piece} (hop : p.opcode.toNat = 0x22) (hway : s.underWay p = false)
    (habs : (s.arrives p).absorbing p.dest = none) (hw : (s.arrives p).awaiting p.dest p.src [0] p.seq = some (key, w))
    (hread : w.pkt.opcode = 0x02) (hc : (s.arrives p).clusterOfEid p.dest = some c) (hch : w.chan = some ch)
    (hr : (((s.arrives p).clu c).chan ch).run = some r)
    (hx : r.reads.find? (fun y => decide (y.seq = some p.seq) && y.data.isNone) = some x) (hline : x.line = false) :
    runs (.readData p) s ((pieceFilled (s.arrives p) c ch x p.payload).settle key w stOk) := by
  refine congrArg (answer s) ((reply_meets _ hop hway habs).trans ?_)
  rw [hw]
  refine (if_neg (not_not_intro hread)).trans ?_
  rw [hc, hch]
  dsimp only
  rw [hr]
  dsimp only
  rw [hx]
  dsimp only
  rw [hline]
  rfl

/-- The count of pops that CREDIT packet p carries has lowered the credits out of output queue qo of hart h, and of every steering output of
cluster c that leads to its sender (R281). -/
def creditTaken (u : State) (c : Nat) (p : Packet) (h qo : Nat) : State :=
  let v := u.setCore h ((u.core h).setOutQ qo { (u.core h).outQ qo with
    out := creditLeft ((u.core h).outQ qo).out ((u.core h).outQ qo).total p.addr.toNat })
  v.setClu c { v.clu c with steerLoops := (v.clu c).steerLoops.map fun x =>
    if x.eid = p.src then { x with out := creditLeft x.out x.total p.addr.toNat } else x }

theorem credit_lowers {c h qo : Nat} (hop : p.opcode.toNat = 0x23) (hway : s.underWay p = false)
    (habs : (s.arrives p).absorbing p.dest = none) (hc : (s.arrives p).clusterOfEid p.dest = some c)
    (hb : (s.arrives p).boundTo c p.src = [(h, qo)]) : runs (.credit p) s ((creditTaken (s.arrives p) c p h qo).sendWaiting c) := by
  refine congrArg (answer s) ((reply_meets _ hop hway habs).trans ?_)
  rw [hc]
  dsimp only
  rw [hb]
  rfl

end Answers

/-- Settles O41: each answer meets the packet it answers, and its status picks the branch of what settles it. -/
theorem answersSettlePackets : Obligations.AnswersSettlePackets := by
  unfold Obligations.AnswersSettlePackets
  rintro s _ p rfl hway habs
  refine ⟨fun key w => ⟨?ack, ?nack, ?collAck, ?readData⟩, ?credit⟩
  case ack => exact fun hop => ack_settles hop hway habs
  case nack => exact fun hop => nack_settles hop hway habs
  case collAck => exact fun hop => collAck_settles hop hway habs
  case readData => exact fun c ch r x hop hw hread hc hch => readData_settles hop hway habs hw hread hc hch
  case credit => exact fun c h qo hop => credit_lowers hop hway habs

/-! ### Packets that a receive flow takes -/

section Receiving

variable {s : State} {a : Nat} {p : Packet} {ack again : State → State} {deliver : State → Packet → State}

/-- The receive flow of p's key, or the new one that p begins (R276). -/
def flowOf (s : State) (p : Packet) : RecvFlow := (s.recvFlow p.key).getD { key := p.key, e := p.seq }

/-- That flow once p has been received (R276). -/
def flowPast (s : State) (p : Packet) : RecvFlow :=
  ({ flowOf s p with seen := p.seq.toNat :: (flowOf s p).seen, used := s.now }).advance 1025

/-- Agent a has p's flow, or room for it (R276). -/
def Admits (s : State) (a : Nat) (p : Packet) : Prop := (s.recvFlow p.key).isSome = true ∨ s.recvCount a < recvLimit a

theorem receive_admits (h : Admits s a p) : ((s.recvFlow p.key).isNone && decide (recvLimit a ≤ s.recvCount a)) = false := by
  rcases h with h | h
  · rw [Option.isNone_eq_false_iff.mpr h]; rfl
  · rw [decide_eq_false (Nat.not_le.mpr h)]; exact Bool.and_false _

/-- A new flow beyond the agent's receive flows is answered with NACK BUSY (R276). -/
theorem receive_full (hnone : s.recvFlow p.key = none) (hfull : recvLimit a ≤ s.recvCount a) :
    s.receive a p ack again deliver = (if a < 576 then s.count (s.fabReg a 0x050) 1 else s).launch a (nackOf p 2) :=
  if_pos (by rw [hnone, decide_eq_true hfull]; rfl)

theorem receive_duplicate (h : Admits s a p) (hold : (flowOf s p).isNew p.seq = false) :
    s.receive a p ack again deliver
      = again ((if a < 576 then s.count (s.fabReg a 0x044) 1 else s).setRecv { flowOf s p with used := s.now }) :=
  (if_neg (ne_true_of_eq_false (receive_admits h))).trans (if_pos (congrArg not hold))

/-- A new packet that waits for nothing is acknowledged and delivered, and the reorder store with it (R276, R280). -/
theorem receive_new (h : Admits s a p) (hnew : (flowOf s p).isNew p.seq = true) (hfree : p.fence = false ∨ 1024 ≤ (flowPast s p).ahead p.seq) :
    s.receive a p ack again deliver = (deliver (ack (s.setRecv (flowPast s p))) p).flush p.key deliver 64 := by
  refine (if_neg (ne_true_of_eq_false (receive_admits h))).trans ((if_neg (ne_true_of_eq_false (congrArg not hnew))).trans (if_neg ?_))
  rw [Bool.and_eq_true, decide_eq_true_eq]
  exact fun ⟨hfence, hlow⟩ => hfree.elim (ne_true_of_eq_false · hfence) fun hhigh => Nat.not_lt.mpr hhigh hlow

/-- A fenced packet before which a lower SEQ is missing is acknowledged and kept, where the reorder store has room (R280). -/
theorem receive_stores (h : Admits s a p) (hnew : (flowOf s p).isNew p.seq = true) (hfence : p.fence = true)
    (hlow : (flowPast s p).ahead p.seq < 1024) (hroom : s.stored a < storeLimit a) :
    s.receive a p ack again deliver = ack (s.setRecv { flowPast s p with store := (flowPast s p).store ++ [p] }) := by
  refine (if_neg (ne_true_of_eq_false (receive_admits h))).trans ((if_neg (ne_true_of_eq_false (congrArg not hnew))).trans ?_)
  refine (if_pos ?_).trans (if_neg (Nat.not_le.mpr hroom))
  rw [Bool.and_eq_true, decide_eq_true_eq]
  exact ⟨hfence, hlow⟩

end Receiving

/-! ### Requests at their agent -/

section Requests

variable {s : State} {a : Nat} {p : Packet} {i : Instr} {op : Nat}

/-- The commands of the requests, with their opcodes (R273). -/
def requestTable (p : Packet) : List (Instr × Nat) := [(.write p, 0x01), (.read p, 0x02), (.mgmt p, 0x03), (.tokens p, 0x10), (.relay p, 0x11)]

theorem request_runs (hi : (i, op) ∈ requestTable p) (hop : p.opcode.toNat = op) (hway : s.underWay p = false) :
    runs i s (s.requestIn p) := by
  have hrow : exec i s = answer s (s.forOp op p fun s => s.requestIn p) := by
    simp only [requestTable, List.mem_cons, Prod.mk.injEq, List.not_mem_nil, or_false] at hi
    obtain ⟨rfl, rfl⟩ | ⟨rfl, rfl⟩ | ⟨rfl, rfl⟩ | ⟨rfl, rfl⟩ | ⟨rfl, rfl⟩ := hi <;> rfl
  exact hrow.trans (congrArg (answer s) (forOp_arrived _ hop hway))

/-- What agent a does with a duplicate of p: a READ or an MGMT is served again, another acknowledged (R276, R277). -/
def againOf (a : Nat) (p : Packet) (s : State) : State := if p.opcode = 0x02 ∨ p.opcode = 0x03 then s.deliver a p else s.ackPacket a p

/-- A request that its agent neither holds nor refuses is received there (R276). -/
theorem requestIn_received (hfull : s.stackFull p = false) (hheld : s.accessHeld p = false) (hcls : p.cls ≠ 2)
    (ha : (s.arrives p).agentOf p.dest = some a) (habs : (s.arrives p).absorbing p.dest = none)
    (hok : (s.arrives p).refusal a p (s.passedTable p) = none) :
    s.requestIn p = (s.arrives p).receive a p (fun s => s.ackPacket a p) (againOf a p) fun s q => s.deliver a q := by
  refine (if_neg (by rw [hfull, hheld]; exact Bool.false_ne_true)).trans ?_
  dsimp only
  rw [ha]
  dsimp only
  rw [habs]
  refine (if_neg hcls).trans ?_
  rw [hok]
  rfl

end Requests

/-- Settles O40: a request is received at its agent, and its flow, its SEQ and its fence pick the branch. -/
theorem requestsAreReceived : Obligations.RequestsAreReceived := by
  unfold Obligations.RequestsAreReceived
  rintro s p a ⟨i, op⟩ hi hop hway hfull hheld hcls u f g ha habs hok
  have hrec := (request_runs hi hop hway).trans
    (congrArg (answer s) (requestIn_received hfull hheld hcls ha habs hok))
  refine ⟨fun hadm => ⟨fun hnew => ⟨fun hfree => ?now, fun hfence hlow hroom => ?stored⟩, fun hold => ?again⟩, fun hnone hbeyond => ?busy⟩
  case now => exact hrec.trans (congrArg (answer s) (receive_new hadm hnew hfree))
  case stored => exact hrec.trans (congrArg (answer s) (receive_stores hadm hnew hfence hlow hroom))
  case again => exact hrec.trans (congrArg (answer s) (receive_duplicate hadm hold))
  case busy => exact hrec.trans (congrArg (answer s) (receive_full hnone hbeyond))

/-! ### Groups, replies and contexts -/

section Groups

variable {s : State} {p : Packet}

theorem sendFlow_key {k : FlowKey} {f : SendFlow} (h : s.sendFlow k = some f) : f.key = k :=
  of_decide_eq_true (List.find?_some (p := fun f : SendFlow => decide (f.key = k)) h)

/-- The send flow of class cls by which p's destination sends to p's source. -/
def backFlow (p : Packet) (cls : BitVec 2) : FlowKey := { src := p.dest, dest := p.src, cls := cls }

/-- Flow f once MC_COUNT packet p has told it the members of its group (R290). -/
def toldCount (f : SendFlow) (p : Packet) : SendFlow := { f with members := some (bits p.addr.toNat 0 16) }

theorem toldCount_key {k : FlowKey} {f : SendFlow} (h : s.sendFlow k = some f) : (toldCount f p).key = k :=
  show f.key = k from sendFlow_key h

/-- What MC_COUNT packet p does to the flow of class cls to its group: the packets that every member has acknowledged are done (R290). -/
def tellCount (p : Packet) (s : State) (cls : BitVec 2) : State :=
  match s.sendFlow (backFlow p cls) with
  | none => s
  | some f => (f.unack.filter fun u => u.pkt.mcast && decide (bits p.addr.toNat 0 16 ≤ u.acks)).foldl
      (fun s u => s.settle (backFlow p cls) u stOk) (s.setSend (toldCount f p))

theorem tellCount_noFlow {cls : BitVec 2} (h : s.sendFlow (backFlow p cls) = none) : tellCount p s cls = s := by
  unfold tellCount
  rw [h]

theorem tellCount_answered {cls : BitVec 2} {f : SendFlow} (h : s.sendFlow (backFlow p cls) = some f) (hdone : f.unack = []) :
    tellCount p s cls = s.setSend (toldCount f p) := by
  unfold tellCount
  rw [h]
  dsimp only
  rw [hdone]
  rfl

theorem backFlow_inj {c d : BitVec 2} (h : backFlow p c = backFlow p d) : c = d := congrArg FlowKey.cls h

/-- MC_COUNT to a source whose only flow to the group has no packet unanswered tells that flow the members (R290). -/
theorem mcCount_tells {f : SendFlow} (hop : p.opcode.toNat = 0x25) (hway : s.underWay p = false) (habs : (s.arrives p).absorbing p.dest = none)
    (hf : (s.arrives p).sendFlow (backFlow p 0) = some f) (hnone : (s.arrives p).sendFlow (backFlow p 3) = none) (hdone : f.unack = []) :
    runs (.mcCount p) s ((s.arrives p).setSend (toldCount f p)) := by
  have hkey : (toldCount f p).key = backFlow p 0 := toldCount_key hf
  have hother : ((s.arrives p).setSend (toldCount f p)).sendFlow (backFlow p 3) = none :=
    (setSend_other _ _ _ fun h => absurd (backFlow_inj (hkey.symm.trans h)) (by decide)).trans hnone
  refine congrArg (answer s) ((reply_meets _ hop hway habs).trans ?_)
  calc tellCount p (tellCount p (s.arrives p) 0) 3
    _ = tellCount p ((s.arrives p).setSend (toldCount f p)) 3 := by rw [tellCount_answered hf hdone]
    _ = (s.arrives p).setSend (toldCount f p) := tellCount_noFlow hother

end Groups

section Replies

variable {s : State} {p : Packet}

/-- MGMT_REPLY to a relayed command that moves no data: its output goes to the host of a ring, and it ends with the reply's completion (R343). -/
theorem mgmtReply_ends {id : Nat} {c : Started} (hop : p.opcode.toNat = 0x24) (hway : s.underWay p = false)
    (habs : (s.arrives p).absorbing p.dest = none) (hnone : (s.arrives p).awaiting p.dest p.src [0] p.seq = none)
    (hc : (s.arrives p).host.started.find? (fun e => decide (e.2.relayed = some (BitVec.ofNat 32 (fld p.payload 32 4)))) = some (id, c))
    (hplace : c.opcode ≠ 0x22) (hfetch : c.opcode ≠ 0x23) (hfirst : c.reply = none) :
    runs (.mgmtReply p) s ((match c.origin with
      | .ring _ => if slice p.payload 64 (fld p.payload 36 4) = [] then s.arrives p
        else (s.arrives p).hostWrite c.hostAddr (slice p.payload 64 (fld p.payload 36 4))
      | _ => s.arrives p).finishAs id (completionOf p.payload)) := by
  refine congrArg (answer s) ((reply_meets _ hop hway habs).trans ?_)
  rw [hnone]
  unfold State.relayed
  dsimp only
  rw [hc]
  refine (if_neg fun h => h.1.elim hplace hfetch).trans ((if_neg ?_).trans ?_)
  · rw [hfirst]; exact Bool.false_ne_true
  · cases c.origin <;> rfl

end Replies

section Contexts

variable {s : State} {p : Packet} {i : Instr} {op k : Nat} {x : CollCtx}

/-- The commands that a collective context takes, with their opcodes (R273). -/
def contribTable (p : Packet) : List (Instr × Nat) := [(.contrib p, 0x30), (.result p, 0x31)]

theorem contrib_runs (hi : (i, op) ∈ contribTable p) (hop : p.opcode.toNat = op) (hway : s.underWay p = false)
    (hk : (s.arrives p).ctxOf p.dest = some k) : runs i s ((s.arrives p).contribIn k p) := by
  simp only [contribTable, List.mem_cons, Prod.mk.injEq, List.not_mem_nil, or_false] at hi
  obtain ⟨rfl, rfl⟩ | ⟨rfl, rfl⟩ := hi
  · refine congrArg (answer s) ((forOp_arrived _ hop hway).trans ?_)
    dsimp only
    rw [hk]
  · refine congrArg (answer s) ((forOp_arrived _ hop hway).trans ?_)
    rw [← arrives_ctxOf s p, hk]

/-- Context k, whose state was x, has combined contribution q, and what it has whole completes (R298, R300). -/
def combined (k : Nat) (x : CollCtx) (s : State) (q : Packet) : State := (s.setCtx k (x.take q s.now)).collPump k

/-- A contribution that its context takes is received at the context's engine (R298). -/
theorem contribIn_taken (hx : s.ctx k = some x) (hok : x.answer p = stOk) :
    ∃ again, s.contribIn k p = s.receive (agEngine + k / 16) p
      (fun s => (s.noteAnswer p.key p.seq stOk).launch (agEngine + k / 16) (collAckOf p stOk)) again (combined k x) := by
  unfold State.contribIn
  rw [hx]
  dsimp only
  rw [hok]
  exact ⟨_, if_neg fun h => absurd (of_decide_eq_true (Bool.and_eq_true_iff.mp h).2) (by decide)⟩

theorem contribution_combines (hi : (i, op) ∈ contribTable p) (hop : p.opcode.toNat = op) (hway : s.underWay p = false)
    (hk : (s.arrives p).ctxOf p.dest = some k) (hx : (s.arrives p).ctx k = some x) (hok : x.answer p = stOk)
    (hadm : Admits (s.arrives p) (agEngine + k / 16) p) (hnew : (flowOf (s.arrives p) p).isNew p.seq = true) (hfree : p.fence = false) :
    runs i s ((combined k x ((((s.arrives p).setRecv (flowPast (s.arrives p) p)).noteAnswer p.key p.seq stOk).launch (agEngine + k / 16)
      (collAckOf p stOk)) p).flush p.key (combined k x) 64) := by
  obtain ⟨again, htaken⟩ := contribIn_taken (p := p) hx hok
  exact (contrib_runs hi hop hway hk).trans (congrArg (answer s) (htaken.trans (receive_new hadm hnew (.inl hfree))))

end Contexts

/-- Settles O42: the count is told to the one flow, the reply meets its relayed command, and a contribution is a new packet of its engine. -/
theorem groupsAndContexts : Obligations.GroupsAndContexts := by
  unfold Obligations.GroupsAndContexts
  rintro s _ p rfl hway
  refine ⟨fun f hop habs hf hnone hdone => ?count, fun id c hop habs => ?reply, fun k x hk hx hok => ?context⟩
  case count =>
    exact ⟨_, mcCount_tells hop hway habs hf hnone hdone, find_setSend' _ (toldCount f p) _ (toldCount_key hf), rfl, rfl⟩
  case reply =>
    exact mgmtReply_ends hop hway habs
  case context =>
    exact fun hadm hnew hfree ⟨i, op⟩ hi hop => contribution_combines hi hop hway hk hx hok hadm hnew hfree

/-! ### Timers -/

section Timers

variable {s : State} {f : FlowKey} {g : SendFlow} {u : Unacked}

/-- RESEND_TIMEOUT of a packet that waits for its answer: sent again for a BUSY or up to seven times, and then ended (R278, R290). -/
theorem resendTimeout_acts {q : BitVec 16} (hg : s.sendFlow f = some g) (hu : g.unack.find? (fun u => decide (u.pkt.seq = q)) = some u) :
    runs (.resendTimeout f q) s (if u.busy then s.resend f u { u with busy := false }
      else if u.resends < 7 then s.resend f u { u with resends := u.resends + 1 }
      else s.settle f u (if u.pkt.mcast && decide (0 < u.acks) then stPartial else stTimeout)) := by
  refine congrArg (answer s) ?_
  rw [hg]
  dsimp only
  rw [hu]

theorem mcastNackWaitEnd_ends (hg : s.sendFlow f = some g) :
    runs (.mcastNackWaitEnd f) s ((g.unack.filter fun u => u.fenced).foldl (fun s u => s.settle f u stPartial) s) := by
  refine congrArg (answer s) ?_
  rw [hg]

/-- Flow expiry keeps an entry unless it is flow f's, has nothing left (`left` empty) and has been idle since `used` for G (R276). -/
def flowStays (s : State) (f key : FlowKey) {α : Type} [DecidableEq α] (left : List α) (used : Nat) : Bool :=
  decide (key ≠ f) || decide (left ≠ []) || !decide (used + usec s.flowLife ≤ s.now)

theorem flowStays_iff (key : FlowKey) {α : Type} [DecidableEq α] (left : List α) (used : Nat) :
    flowStays s f key left used = true ↔ key ≠ f ∨ left ≠ [] ∨ s.now < used + usec s.flowLife := by
  simp [flowStays, or_assoc]

theorem flowExpiry_sends (s : State) (f : FlowKey) :
    exec (.flowExpiry f true) s = .next { s with sends := s.sends.filter fun g => flowStays s f g.key g.unack g.used } := rfl

theorem flowExpiry_recvs (s : State) (f : FlowKey) :
    exec (.flowExpiry f false) s = .next { s with recvs := s.recvs.filter fun g => flowStays s f g.key g.store g.used } := rfl

/-- ENDPOINT_CREDIT_TIMER of an endpoint with pops to tell, or with an empty receive buffer, sends the cumulative count (R281). -/
theorem endpointCreditTimer_tells {eid : BitVec 24} {p i : Nat} {r : Inbound} (he : s.endpointRec eid = some (p, i)) (hr : s.inbound p i = some r)
    (hprod : r.producer ≠ 0) (hdue : r.pops ≠ r.credited ∨ r.land = []) :
    runs (.endpointCreditTimer eid) s ((s.setInbound p i { r with credited := r.pops }).launch r.cluster
      (mkPacket 2 0x23 r.producer eid r.pops.toNat false [])) := by
  refine congrArg (answer s) ?_
  rw [he]
  dsimp only
  rw [hr]
  exact if_neg fun h => h.elim hprod fun ⟨hsame, hland⟩ => hdue.elim (· hsame) hland

end Timers

section Hold

variable {s : State} {die : Nat}

/-- What came to the panel at `since` has been on it for longer than HOLD (R294). -/
def outlived (s : State) (since : Nat) : Bool := decide (since + usec s.holdTime < s.now)

/-- The first packet in egress staging of link die `die`, none of it sent, that has been on the panel for longer than HOLD, with its port (R294). -/
def stagedLate (s : State) (die : Nat) : Option (Nat × Staged) :=
  ((List.range 6).map (die * 6 + ·)).findSome? fun q =>
    ((s.port q).staged.find? fun e => decide (e.sent = 0) && outlived s e.since).map fun e => (q, e)

/-- The first packet that waits for link die `die` itself and has been on the panel for longer than HOLD (R294). -/
def waitingLate (s : State) (die : Nat) : Option Moving := s.moving.find? fun m => m.waitsAt die && outlived s m.since

theorem holdExpiry_staged {q : Nat} {e : Staged} (h : stagedLate s die = some (q, e)) :
    runs (.holdExpiry die) s ((s.setPort q { s.port q with staged := (s.port q).staged.erase e }).count (lnkBase die + 0x24) 1) := by
  refine congrArg (answer s) ?_
  unfold stagedLate outlived at h
  dsimp only
  rw [h]

theorem holdExpiry_waiting {m : Moving} (hnone : stagedLate s die = none) (h : waitingLate s die = some m) :
    runs (.holdExpiry die) s ((({ s with moving := s.moving.erase m }).freeInput m).count (lnkBase die + 0x24) 1) := by
  refine congrArg (answer s) ?_
  unfold stagedLate outlived at hnone
  unfold waitingLate outlived at h
  dsimp only
  rw [hnone]
  dsimp only
  rw [h]

theorem holdExpiry_none (hnone : stagedLate s die = none) (h : waitingLate s die = none) : exec (.holdExpiry die) s = .next s := by
  refine (congrArg (answer s) ?_).trans (answer_self s)
  unfold stagedLate outlived at hnone
  unfold waitingLate outlived at h
  dsimp only
  rw [hnone]
  dsimp only
  rw [h]

end Hold

section SegmentTimeout

variable {s : State} {die engine ctx slot : Nat} {x : CollCtx} {g : Segment}

/-- COLL_SEGMENT_TIMEOUT of a segment in a slot of a context: short of its count past TIMEOUT it fences the context and completes with what it
holds; before that nothing happens (R301). -/
theorem collSegmentTimeout_acts (hx : s.ctx ((die * 4 + engine) * 16 + ctx) = some x) (hg : tget none x.live slot = some g) :
    runs (.collSegmentTimeout die engine ctx slot) s (if x.expect ≤ g.count ∨ s.now < g.since + usec x.timeout then s
      else ((s.setCtx ((die * 4 + engine) * 16 + ctx) { x with expect := g.count, present := some g.srcs }).fenceCtx
        ((die * 4 + engine) * 16 + ctx) g.seg).collPump ((die * 4 + engine) * 16 + ctx)) := by
  refine congrArg (answer s) ?_
  dsimp only
  rw [hx]
  dsimp only
  rw [hg]

end SegmentTimeout

/-- Settles O43: each timer finds what it is of, and its condition picks the branch; expiry keeps exactly the entries of `flowStays`. -/
theorem timersAct : Obligations.TimersAct := by
  unfold Obligations.TimersAct
  refine fun s f => ⟨fun g q u => resendTimeout_acts, fun g => mcastNackWaitEnd_ends, ⟨_, flowExpiry_sends s f, ?sends, ?keepsSends, rfl, rfl⟩,
    ⟨_, flowExpiry_recvs s f, ?recvs, ?keepsRecvs, rfl, rfl⟩, fun eid p i r => endpointCreditTimer_tells,
    fun die => ⟨fun q e => holdExpiry_staged, fun m => holdExpiry_waiting, holdExpiry_none⟩,
    fun die engine ctx slot x g hx hg => ⟨fun hno => ?early, fun hshort hlate => ?late⟩⟩
  case sends => exact fun g hg hkey => (flowStays_iff ..).mp (List.mem_filter.mp hg).2 |>.resolve_left (not_not_intro hkey)
  case keepsSends => exact fun g hg hstays => List.mem_filter.mpr ⟨hg, (flowStays_iff ..).mpr hstays⟩
  case recvs => exact fun g hg hkey => (flowStays_iff ..).mp (List.mem_filter.mp hg).2 |>.resolve_left (not_not_intro hkey)
  case keepsRecvs => exact fun g hg hstays => List.mem_filter.mpr ⟨hg, (flowStays_iff ..).mpr hstays⟩
  case early => exact (runs_ite_pos (collSegmentTimeout_acts hx hg) hno).trans (answer_self s)
  case late =>
    exact runs_ite_neg (collSegmentTimeout_acts hx hg) (not_or.mpr ⟨Nat.not_le.mpr hshort, Nat.not_lt.mpr hlate⟩)

/-! ### Laser modules -/

section Lasers

variable {s : State} {bay : Nat}

/-- The bay that shares the load of bay `bay` (R264). -/
def partnerBay (bay : Nat) : Nat := bay / 2 * 2 + (1 - bay % 2)

/-- Bay `bay` once its module is gone or left in place, as `withdrawn` says (R264). -/
def moduleOut (s : State) (bay : Nat) (withdrawn : Bool) : State :=
  if withdrawn then (s.setField (laserReg bay) 0 1 0).setField (laserReg bay) 2 1 0 else s

theorem laserModuleFail_fails (wd : Bool) (hbay : bay < 10) (hin : bitOf (s.reg (laserReg bay)).toNat 0 = true) :
    runs (.laserModuleFail bay wd) s ((((moduleOut s bay wd).bayDown bay).record 0x0601 3 noPart 0 (onBay bay) []).refreshState) :=
  congrArg (answer s) (if_neg (not_or.mpr ⟨Nat.not_le.mpr hbay, ne_true_of_eq_false (congrArg not hin)⟩))

/-- Bay `bay` with a module fitted that is not accepted yet (R265). -/
def moduleFitted (s : State) (bay : Nat) : State := (s.setField (laserReg bay) 0 1 1).setField (laserReg bay) 2 1 0

/-- The load of bay `bay`, whose module is good: shared with a good partner, else its own (R264, R265). -/
def loadShared (u : State) (bay : Nat) : State :=
  if bitOf (u.reg (laserReg (partnerBay bay))).toNat 1 then (u.setField (laserReg bay) 3 1 0).setField (laserReg (partnerBay bay)) 3 1 0
  else u.setField (laserReg bay) 3 1 1

/-- An empty bay takes a module: an accepted one shares the load, another is only recorded (R265, R455). -/
theorem laserModuleInsert_takes (part : Bytes) (hbay : bay < 10) (hout : bitOf (s.reg (laserReg bay)).toNat 0 = false) :
    runs (.laserModuleInsert bay part) s (if !partIs part "VH1-LM-O13" then
        (moduleFitted s bay).record 0x0605 3 noPart 0 (onBay bay) (padTo 16 part)
      else (loadShared (((moduleFitted s bay).setField (laserReg bay) 1 1 1).moduleHours bay) bay).refreshState) :=
  congrArg (answer s) (if_neg (not_or.mpr ⟨Nat.not_le.mpr hbay, ne_true_of_eq_false hout⟩))

end Lasers

/-! ### Lost link dies -/

section LostDies

variable {s : State} {die : Nat}

/-- The ports of link die `die` are down and hold nothing but their cables (R309). -/
def portsCleared (s : State) (die : Nat) : State :=
  (List.range 6).foldl (fun s j => (s.setLink (die * 6 + j) 0).setPort (die * 6 + j)
    { cable := (s.port (die * 6 + j)).cable, cablePwr := (s.port (die * 6 + j)).cablePwr }) s

theorem portsCleared_fields (s : State) (die : Nat) : SameFour s (portsCleared s die) := clearPorts_fields s die

/-- The packet is bound for a port or an engine of link die `die`. -/
def boundFor (die : Nat) (m : Moving) : Bool :=
  match m.target with
  | .link q => decide (q / 6 = die)
  | .engine d _ => decide (d = die)
  | _ => false

/-- Link die `die` is off the panel: its ports, packets and contexts are gone, and it is listed among the lost (R309). -/
def dieRemoved (s : State) (die : Nat) : State :=
  let u := portsCleared s die
  { u with moving := u.moving.filter fun m => !boundFor die m, ctxs := u.ctxs.filter fun e => decide (e.1 / 64 ≠ die),
           sparing := { u.sparing with lostDies := u.sparing.lostDies ++ [dieOfLink die] } }

theorem loseLink_eq (hdie : die < 6) (hlost : s.linkLost die = false) : s.loseLink die
    = (if die = 0 && (dieRemoved s die).isBridge then (dieRemoved s die).setPcie false else dieRemoved s die).refreshState :=
  if_neg (not_or.mpr ⟨Nat.not_le.mpr hdie, ne_true_of_eq_false hlost⟩)

theorem sameFour_trans {s t u : State} (a : SameFour s t) (b : SameFour t u) : SameFour s u := by
  obtain ⟨hsparing, hctxs, hmem, hcores⟩ := a
  obtain ⟨hsparing', hctxs', hmem', hcores'⟩ := b
  exact ⟨hsparing'.trans hsparing, hctxs'.trans hctxs, hmem'.trans hmem, hcores'.trans hcores⟩

/-- What the loss of a link die leaves of dies, contexts, memory and cores is what its removal leaves (R309). -/
theorem loseLink_fields (hdie : die < 6) (hlost : s.linkLost die = false) : SameFour (dieRemoved s die) (s.loseLink die) := by
  rw [loseLink_eq hdie hlost]
  refine sameFour_trans ?_ (refreshState_fields _)
  split
  · exact setPcie_fields ..
  · exact ⟨rfl, rfl, rfl, rfl⟩

theorem dieRemoved_lostDies (s : State) (die : Nat) : (dieRemoved s die).sparing.lostDies = s.sparing.lostDies ++ [dieOfLink die] := by
  obtain ⟨hsparing, -⟩ := portsCleared_fields s die
  exact congrArg (fun x : Sparing => x.lostDies ++ [dieOfLink die]) hsparing

/-- A link die is lost after the loss of `die` if it is that die or was lost before (R309). -/
theorem loseLink_linkLost (hdie : die < 6) (hlost : s.linkLost die = false) (d : Nat) :
    (s.loseLink die).linkLost d = (s.linkLost d || decide (d = die)) := by
  obtain ⟨hsparing, -⟩ := loseLink_fields hdie hlost
  unfold State.linkLost
  rw [hsparing, dieRemoved_lostDies, List.contains_eq_mem, List.contains_eq_mem]
  simp [dieOfLink]

theorem loseLink_ctxs (hdie : die < 6) (hlost : s.linkLost die = false) : ∀ e ∈ (s.loseLink die).ctxs, e.1 / 64 ≠ die := by
  obtain ⟨-, hctxs, -⟩ := loseLink_fields hdie hlost
  rw [hctxs]
  exact fun e he => of_decide_eq_true (List.mem_filter.mp he).2

theorem dieRemoved_kept (s : State) (die : Nat) : (dieRemoved s die).mem = s.mem ∧ (dieRemoved s die).cores = s.cores := by
  obtain ⟨-, -, hmem, hcores⟩ := portsCleared_fields s die
  unfold dieRemoved
  dsimp only
  exact ⟨hmem, hcores⟩

theorem loseLink_kept (hdie : die < 6) (hlost : s.linkLost die = false) :
    (s.loseLink die).mem = s.mem ∧ (s.loseLink die).cores = s.cores := by
  obtain ⟨-, -, hmem, hcores⟩ := loseLink_fields hdie hlost
  obtain ⟨hmem', hcores'⟩ := dieRemoved_kept s die
  exact ⟨hmem.trans hmem', hcores.trans hcores'⟩

end LostDies

/-! ### Cables -/

section Cables

variable {s : State} {port : Nat} {part : Bytes}

theorem cablePresentChange_powers (hport : port < 6) (hpart : partIs part "VH1-CBL-A20" = true) :
    runs (.cablePresentChange port true part) s (s.setPort port { s.port port with cable := true, cablePwr := true }) := by
  refine congrArg (answer s) ((if_neg (Nat.not_le.mpr hport)).trans ?_)
  dsimp only
  rw [hpart]
  rfl

theorem cablePresentChange_pulled (hport : port < 6) :
    let v := s.setPort port { s.port port with cable := false, cablePwr := false }
    runs (.cablePresentChange port false part) s (if s.isBridge && decide (port < 2) then v.setPcie false else v.failPort port) :=
  congrArg (answer s) (if_neg (Nat.not_le.mpr hport))

end Cables

/-- Settles O44: a module's part and its partner pick the branch, a lost die is filtered out and listed, and a cable's part powers it. -/
theorem lightAndCables : Obligations.LightAndCables := by
  unfold Obligations.LightAndCables
  refine fun s bay port die part => ⟨fun hbay => ⟨fun wd => laserModuleFail_fails wd hbay, fun hout => ⟨fun hpart => ?other, fun hpart => ?accepted⟩⟩,
    fun hdie hlost => ?lost, fun hport => ⟨cablePresentChange_powers hport, cablePresentChange_pulled hport⟩⟩
  case other => exact runs_ite_pos (laserModuleInsert_takes part hbay hout) (congrArg not hpart)
  case accepted => exact runs_ite_neg (laserModuleInsert_takes part hbay hout) (ne_true_of_eq_false (congrArg not hpart))
  case lost =>
    obtain ⟨hmem, hcores⟩ := loseLink_kept hdie hlost
    refine ⟨_, rfl, (loseLink_linkLost hdie hlost die).trans (by simp), loseLink_ctxs hdie hlost,
      fun d hd => (loseLink_linkLost hdie hlost d).trans (by simp [hd]), hmem, hcores⟩

/-! ### Routes and endpoint fences -/

section Routes

variable {s : State} {id : Nat} {c : Started} {io : HostIo} {b : Bytes}

/-- The fields of a ROUTE_SET 0 lie in their ranges (R334). -/
structure BaseInRange (c : Started) : Prop where
  aligned : c.arg 12 3 % 64 = 0
  base : c.arg 12 3 ≠ 0
  room : c.arg 12 3 + 639 ≤ 0xFDFFFF
  resendLow : 2 ≤ c.arg 28 4
  resendHigh : c.arg 28 4 ≤ 1000000
  holdLow : 10 ≤ c.arg 32 2
  holdHigh : c.arg 32 2 ≤ 1000

/-- ROUTE_SET 0 of fields in range sets base, T and HOLD of a panel without partitions (R282, R294, R311, R334). -/
theorem routeSetBase_sets (hc : dispatched s id 0x40 c) (hform : c.byte 8 = 0) (hr : BaseInRange c) (hfree : ∀ e ∈ s.parts, e.2 = none) :
    runs (.routeSetBase id io) s (((List.range 6).foldl (fun s k => s.setField (lnkBase k + 8) 0 10 (c.arg 32 2))
      ((s.setMgtField 0x14 0 24 (c.arg 12 3)).setField (panelBase + 0x40) 0 20 (c.arg 28 4))).finish id stOk 0 0) := by
  obtain ⟨haligned, hbase, hroom, htlow, hthigh, hlow, hhigh⟩ := hr
  have hnone : s.parts.any (fun e => e.2.isSome) = false :=
    List.any_eq_false.mpr fun e he => by rw [hfree e he]; exact Bool.false_ne_true
  refine congrArg (answer s) ((runFirst_eq hc hform io _).trans ((if_neg ?_).trans ((if_neg ?_).trans ((if_neg ?_).trans ?_))))
  · exact not_or.mpr ⟨not_not_intro haligned, not_or.mpr ⟨hbase, Nat.not_lt.mpr hroom⟩⟩
  · exact not_or.mpr ⟨Nat.not_lt.mpr htlow, Nat.not_lt.mpr hthigh⟩
  · exact not_or.mpr ⟨Nat.not_lt.mpr hlow, Nat.not_lt.mpr hhigh⟩
  · exact if_neg (ne_true_of_eq_false hnone)

/-- ROUTE_SET 1 of records that name routable EIDs and kinds writes their entries (R283, R310, R334). -/
theorem routeSetEndpoints_writes (hc : dispatched s id 0x40 c) (hin : c.inputOf io = .ok b) (hform : c.byte 8 = 1)
    (hrec : ∀ r ∈ c.records b, fld r 0 3 ≠ 0 ∧ fld r 0 3 ≤ 0xFEFFFF ∧ bits (fld r 4 2) 12 2 ≠ 3) :
    runs (.routeSetEndpoints id io) s (((List.range 6).foldl (fun s k => s.setField (lnkBase k + 4) 13 1 1)
      ((c.records b).foldl (fun s r => s.writeEpt (fld r 0 3) (fld r 4 2)) s)).finish id stOk 0 0) := by
  have heids : (c.records b).any (fun r => decide (fld r 0 3 = 0) || decide (0xFEFFFF < fld r 0 3)) = false :=
    List.any_eq_false.mpr fun r hr => by
      obtain ⟨hzero, hhigh, -⟩ := hrec r hr
      simp [hzero, hhigh]
  have hkinds : (c.records b).any (fun r => decide (bits (fld r 4 2) 12 2 = 3)) = false :=
    List.any_eq_false.mpr fun r hr => by simp [(hrec r hr).2.2]
  exact congrArg (answer s) ((runSub_eq hc hform io _).trans ((withHost_eq hin _).trans ((if_neg (ne_true_of_eq_false heids)).trans
    (if_neg (ne_true_of_eq_false hkinds)))))

/-- ROUTE_SET 2 of records that name path groups writes their members (R285, R334). -/
theorem routeSetPathGroups_writes (hc : dispatched s id 0x40 c) (hin : c.inputOf io = .ok b) (hform : c.byte 8 = 2)
    (hrec : ∀ r ∈ c.records b, fld r 0 1 < 28) :
    runs (.routeSetPathGroups id io) s (((c.records b).foldl (fun (s : State) r =>
      { s with pgroups := tset 0 s.pgroups (fld r 0 1) (BitVec.ofNat 36 (fld r 3 5)) }) s).finish id stOk 0 0) := by
  have hgroups : (c.records b).any (fun r => decide (28 ≤ fld r 0 1)) = false :=
    List.any_eq_false.mpr fun r hr => by simp [hrec r hr]
  exact congrArg (answer s) ((runSub_eq hc hform io _).trans ((withHost_eq hin _).trans (if_neg (ne_true_of_eq_false hgroups))))

/-- A ROUTE_SET 3 record names an EID for memory, and a new endpoint lies in a cluster of the partition (R286). -/
def MemRecord (q : Part) (r : Bytes) : Prop :=
  fld r 0 3 ≠ 0 ∧ fld r 0 3 ≤ 0xFDFFFF ∧ (bitOf (fld r 3 1) 0 = true → q.clusters.contains (fld r 4 2) = true)

/-- ROUTE_SET 3 of such records meets a cluster in a hole, or installs and removes its endpoints as far as they find places (R36, R286, R334). -/
theorem routeSetMemoryEndpoints_places {q : Part} (hc : dispatched s id 0x40 c) (hin : c.inputOf io = .ok b) (hform : c.byte 8 = 3)
    (hq : s.part c.partNo = some q) (hrec : ∀ r ∈ c.records b, MemRecord q r) :
    runs (.routeSetMemoryEndpoints id io) s (if (c.records b).any fun r => bitOf (fld r 3 1) 0 && s.clusterHole (fld r 4 2) then s.fail id stFenced
      else ((c.records b).foldl (fun (o : Option State) r => o.bind fun s => s.memEndpointSet c.partNo r) (some s)).elim
        (s.fail id stNoResource) fun u => u.finish id stOk 0 0) := by
  have hgood : (c.records b).any (fun r => decide (fld r 0 3 = 0) || decide (0xFDFFFF < fld r 0 3)
      || (bitOf (fld r 3 1) 0 && !q.clusters.contains (fld r 4 2))) = false :=
    List.any_eq_false.mpr fun r hr => by
      obtain ⟨hzero, hhigh, hown⟩ := hrec r hr
      cases hnew : bitOf (fld r 3 1) 0 with
      | false => simp [hzero, hhigh]
      | true => rw [hown hnew]; simp [hzero, hhigh]
  refine congrArg (answer s) ((runSub_eq hc hform io _).trans ((withHost_eq hin _).trans ?_))
  rw [hq]
  refine (if_neg (ne_true_of_eq_false hgood)).trans ?_
  split
  · rfl
  · cases (c.records b).foldl (fun (o : Option State) r => o.bind fun s => s.memEndpointSet c.partNo r) (some s) <;> rfl

/-- Some table holds the endpoint that bytes 8 to 10 of command c name (R287). -/
def fenceHeld (s : State) (c : Started) : Prop :=
  bitOf (s.eptEntry (BitVec.ofNat 24 (c.arg 8 3))) 15 = true ∨ (s.resFind (BitVec.ofNat 24 (c.arg 8 3))).isSome = true

theorem runFence_held {op : Nat} (v : Nat) (hc : dispatched s id op c) (hheld : fenceHeld s c) :
    s.runFence id op io v = (s.fenceEndpoint (BitVec.ofNat 24 (c.arg 8 3)) v).finish id stOk 0 0 := by
  refine (runCmd_eq hc io _).trans (if_neg ?_)
  rw [Bool.and_eq_true, Bool.not_eq_true', Option.isNone_iff_eq_none]
  rintro ⟨hept, hres⟩
  exact hheld.elim (ne_true_of_eq_false hept) fun h => by rw [hres] at h; exact Bool.false_ne_true h

end Routes

/-! ### Multicast groups and contexts -/

section Multicast

variable {s : State} {id : Nat} {c : Started} {io : HostIo}

/-- The entry that command c gives multicast group g, its EVER one more than before (R288). -/
def groupEntry (s : State) (c : Started) : BitVec 128 :=
  BitVec.ofNat 128 (c.arg 16 5 % 2 ^ 36 + c.byte 21 % 2 * 2 ^ 36 + c.byte 24 % 2 * 2 ^ 37 + c.byte 21 / 2 % 2 * 2 ^ 38 + c.byte 21 / 4 % 4 * 2 ^ 39
    + (bits (tget 0 s.mcast (c.arg 12 2)).toNat 41 3 + 1) % 8 * 2 ^ 41 + c.arg 22 2 * 2 ^ 44)

theorem mcastSetGroup_writes (hc : dispatched s id 0x43 c) (hform : c.byte 8 = 0) : runs (.mcastSetGroup id io) s
    (({ s with mcast := tset 0 s.mcast (c.arg 12 2) (groupEntry s c) } : State).finish id stOk 0 0) :=
  congrArg (answer s) (runFirst_eq hc hform io _)

theorem mcastSetContext_sets {k : Nat} (hc : dispatched s id 0x43 c) (hform : c.byte 8 = 1) (hk : c.ctxKey = some k) (hop : c.context.op ≠ 3)
    (hgood : c.context.badField = none)
    (hslots : c.context.slots ≤ s.slotsFree (k / 64) (k / 16 % 4) + (match s.ctx k with | none => 0 | some y => y.slots)) :
    runs (.mcastSetContext id io) s ((s.setCtx k c.context).finish id stOk 0 0) := by
  refine congrArg (answer s) ((runSub_eq hc hform io _).trans ?_)
  rw [hk]
  refine (if_neg hop).trans ?_
  rw [hgood]
  exact if_neg (Nat.not_lt.mpr hslots)

theorem mcastClearContext_clears {k : Nat} (hc : dispatched s id 0x43 c) (hform : c.byte 8 = 2) (hk : c.ctxKey = some k) :
    runs (.mcastClearContext id io) s (({ s with ctxs := tset none s.ctxs k none } : State).finish id stOk 0 0) := by
  refine congrArg (answer s) ((runSub_eq hc hform io _).trans ?_)
  rw [hk]

theorem bits_lowest (n : Nat) : bits n 0 1 = n % 2 := by
  unfold bits
  rw [pow_zero, Nat.div_one, pow_one]

/-- The fields of a group's entry packed in order read back as they are (R288). -/
theorem groupFields_read {links here valid fenced path ever members : Nat} (hlinks : links < 2 ^ 36) (hhere : here < 2) (hvalid : valid < 2)
    (hfenced : fenced < 2) (hpath : path < 4) (hever : ever < 8) (hmembers : members < 2 ^ 16) :
    let v := (BitVec.ofNat 128 (links + here * 2 ^ 36 + valid * 2 ^ 37 + fenced * 2 ^ 38 + path * 2 ^ 39 + ever * 2 ^ 41 + members * 2 ^ 44)).toNat
    bits v 0 36 = links ∧ bits v 36 1 = here ∧ bits v 37 1 = valid ∧ bits v 38 1 = fenced ∧ bits v 39 2 = path ∧ bits v 41 3 = ever
      ∧ bits v 44 16 = members := by
  rw [BitVec.toNat_ofNat, Nat.mod_eq_of_lt (by omega)]
  unfold bits
  dsimp only
  refine ⟨?_, ?_, ?_, ?_, ?_, ?_, ?_⟩ <;> omega

end Multicast

/-- Settles O51: each form of ROUTE_SET and MCAST_SET passes its checks, and a fence finds the endpoint in some table. -/
theorem routesAndGroupsAreSet : Obligations.RoutesAndGroupsAreSet := by
  unfold Obligations.RoutesAndGroupsAreSet
  refine ⟨fun s id op c io b hc hin => ⟨fun hop => ⟨?base, fun hform => ?endpoints, fun hform => ?pathGroups, fun q u hform hq hrec => ?memory⟩,
      fun hheld => ⟨?fence, ?unfence⟩⟩,
    fun s id c io hc => ⟨fun hform => ?group, fun k hform => mcastSetContext_sets hc hform, fun k hform => mcastClearContext_clears hc hform⟩⟩
  case group =>
    have hread := groupFields_read (Nat.mod_lt (c.arg 16 5) (Nat.two_pow_pos 36)) (Nat.mod_lt (c.byte 21) two_pos) (Nat.mod_lt (c.byte 24) two_pos)
      (Nat.mod_lt (c.byte 21 / 2) two_pos) (Nat.mod_lt (c.byte 21 / 4) four_pos)
      (Nat.mod_lt (bits (tget 0 s.mcast (c.arg 12 2)).toNat 41 3 + 1) (by decide)) (fld_lt c.slot 22 2)
    obtain ⟨hlinks, hhere, hvalid, hfenced, hpath, hever, hmembers⟩ := hread
    refine ⟨groupEntry s c, mcastSetGroup_writes hc hform, hlinks, hhere.trans (bits_lowest _).symm, hvalid.trans (bits_lowest _).symm, hfenced, hpath,
      hever, hmembers⟩
  case base =>
    subst hop
    exact fun hform haligned hbase hroom htlow hthigh hlow hhigh hfree =>
      routeSetBase_sets hc hform ⟨haligned, hbase, hroom, htlow, hthigh, hlow, hhigh⟩ hfree
  case endpoints =>
    subst hop
    exact routeSetEndpoints_writes hc hin hform
  case pathGroups =>
    subst hop
    exact routeSetPathGroups_writes hc hin hform
  case memory =>
    subst hop
    have hplaces := routeSetMemoryEndpoints_places hc hin hform hq hrec
    refine ⟨runs_ite_pos hplaces, fun hnone hu => ?_⟩
    have hplaced := runs_ite_neg hplaces (ne_true_of_eq_false hnone)
    rwa [hu] at hplaced
  case fence =>
    rintro rfl
    exact congrArg (answer s) (runFence_held 1 hc hheld)
  case unfence =>
    rintro rfl
    exact congrArg (answer s) (runFence_held 0 hc hheld)

end Sys2Proof.Proofs
end

section
/-! Proofs of the statements on the host bridge and the mailboxes: that no word spells a command, that a step runs the front command (R326), and the
commands that read: identity, capabilities and inventory (R327, R328), telemetry (R336, R369), events (R434) and attestation (R421 to R423). -/

namespace Sys2Proof.Proofs

open Sys2Proof Sys2Proof.Machine Sys2Proof.Safety Sys2Proof.Laws

/-! ### The queue of commands -/

/-- No row of the table has a word (log entry 7). -/
theorem decodeTableWord_none (nbits w : Nat) : decodeTableWord nbits w = none := rfl

/-- A word that spells no command leaves the queue alone. -/
theorem withFetchWord_none {s : State} {nbits w : Nat} (h : decodeTableWord nbits w = none) : s.withFetchWord nbits w = s := by
  unfold State.withFetchWord
  rw [h]

/-- Settles O2: no word decodes, so none puts a command at the front of the queue. -/
theorem noWordSpellsACommand : Obligations.NoWordSpellsACommand := by
  unfold Obligations.NoWordSpellsACommand
  exact fun s nbits w => ⟨decodeTableWord_none nbits w, withFetchWord_none (decodeTableWord_none nbits w)⟩

/-- Settles O3: a step of a block with a command waiting is that command's exec. -/
theorem stepRunsTheFrontCommand : Obligations.StepRunsTheFrontCommand := by
  unfold Obligations.StepRunsTheFrontCommand
  exact fun s c rest => step_command

/-! ### Commands that read -/

section Reading

variable {s : State} {id : Nat} {c : Started} {io : HostIo} {b : Bytes}

theorem identify_answers (hc : dispatched s id 0x01 c) (hin : c.inputOf io = .ok b) (hroom : 256 ≤ c.arg 16 4) :
    runs (.identify id io) s (s.finishOut id c (c.arg 8 8) s.identityRecord stOk 0 0) :=
  congrArg (answer s) ((runCmd_eq hc io _).trans ((withHost_eq hin _).trans (if_neg (Nat.not_lt.mpr hroom))))

/-- The clusters that a QUERY_CAPS asks about: a rectangle, or with a width of 0 all of them (R327). -/
def capsAsked (c : Started) : List Nat := if c.byte 10 = 0 then List.range 576 else rect (c.byte 8) (c.byte 9) (c.byte 10) (c.byte 11)

/-- `RESULT1` of QUERY_CAPS: the frame length, the free partition numbers and the free resident entries (R327). -/
def capsFree (s : State) : Nat :=
  s.frameLen + (64 - (s.parts.filter fun e => e.2.isSome).length) * 0x200 + ((List.range 1024).filter fun i => !bitOf (s.resEntry i) 24).length * 0x10000

/-- QUERY_CAPS of all clusters, or of a rectangle within the panel, none of them in a hole (R327). -/
theorem queryCaps_answers (hc : dispatched s id 0x02 c)
    (hrect : c.byte 10 = 0 ∨ (c.byte 11 ≠ 0 ∧ c.byte 8 + c.byte 10 ≤ 24 ∧ c.byte 9 + c.byte 11 ≤ 24)) (hwhole : (capsAsked c).any s.clusterHole = false) :
    runs (.queryCaps id io) s (s.finish id stOk (s.capsOf (capsAsked c)) (capsFree s)) := by
  refine congrArg (answer s) ((runCmd_eq hc io _).trans ((if_neg ?height).trans ((if_neg ?inside).trans (if_neg (ne_true_of_eq_false hwhole)))))
  case height =>
    rintro ⟨hwidth, hheight⟩
    exact hrect.elim hwidth fun ⟨hsome, _⟩ => hsome hheight
  case inside =>
    rintro ⟨hwidth, hout⟩
    exact hrect.elim hwidth fun ⟨_, hright, hbottom⟩ => hout.elim (Nat.not_lt.mpr hright) (Nat.not_lt.mpr hbottom)

theorem getInventory_answers (hc : dispatched s id 0x03 c) (hin : c.inputOf io = .ok b) (hroom : 2880 ≤ c.arg 16 4) :
    runs (.getInventory id io) s (s.finishOut id c (c.arg 8 8) s.inventoryRecord stOk (s.reg (bstBase + 4)).toNat 0) :=
  congrArg (answer s) ((runCmd_eq hc io _).trans ((withHost_eq hin _).trans (if_neg (Nat.not_lt.mpr hroom))))

theorem telemetryPower_answers (hc : dispatched s id 0x51 c) (hin : c.inputOf io = .ok b) (hset : c.byte 8 = 0) (hroom : 5520 ≤ c.arg 24 4) :
    runs (.telemetryPower id io) s (s.finishOut id c (c.arg 16 8) s.lastSample stOk 0 0) :=
  congrArg (answer s) ((runFirst_eq hc hset io _).trans ((withHost_eq hin _).trans (if_neg (Nat.not_lt.mpr hroom))))

theorem telemetryPartition_answers {q : Part} (hc : dispatched s id 0x51 c) (hin : c.inputOf io = .ok b) (hset : c.byte 8 = 1)
    (hq : s.part c.partNo = some q) (hroom : 112 ≤ c.arg 24 4) :
    runs (.telemetryPartition id io) s (s.finishOut id c (c.arg 16 8) (s.partitionRecord q) stOk 0 0) := by
  refine congrArg (answer s) ((runSub_eq hc hset io _).trans ((withHost_eq hin _).trans ?_))
  rw [hq]
  exact if_neg (Nat.not_lt.mpr hroom)

/-- TELEMETRY_READ 2 of whole registers, 64 KiB at most, with room for their bytes (R336). -/
theorem telemetryRegisters_answers (hc : dispatched s id 0x51 c) (hin : c.inputOf io = .ok b) (hset : c.byte 8 = 2) (hplace : c.arg 32 6 % 4 = 0)
    (hwhole : c.arg 40 4 % 4 = 0) (hmost : c.arg 40 4 ≤ 65536) (hroom : c.arg 40 4 ≤ c.arg 24 4) :
    runs (.telemetryRegisters id io) s
      ((s.readRegs (c.arg 32 6) (c.arg 40 4)).1.finishOut id c (c.arg 16 8) (s.readRegs (c.arg 32 6) (c.arg 40 4)).2 stOk 0 0) := by
  refine congrArg (answer s) ((runSub_eq hc hset io _).trans ((withHost_eq hin _).trans ((if_neg (not_not_intro hplace)).trans ?_)))
  exact (if_neg (not_or.mpr ⟨not_not_intro hwhole, Nat.not_lt.mpr hmost⟩)).trans (if_neg (Nat.not_lt.mpr hroom))

/-- Where an EVENTS_READ starts (R434). -/
def readStart (s : State) (c : Started) : Word := s.evr.startAt (BitVec.ofNat 32 (c.arg 28 4))

/-- The records an EVENTS_READ writes, and the number after the last it examined; a packet carries 62 at most (R343, R434). -/
def eventsFound (s : State) (c : Started) : List Event × Word :=
  readEvents (c.byte 32) (if c.byPacket then Nat.min 62 (c.arg 24 4) else c.arg 24 4)
    (s.evr.retained.filter fun e => !earlier e.seq (readStart s c)) (readStart s c)

theorem eventsRead_answers (hc : dispatched s id 0x60 c) (hin : c.inputOf io = .ok b) : runs (.eventsRead id io) s
    (s.finishOut id c (c.arg 16 8) ((eventsFound s c).1.flatMap Event.bytes) stOk (eventsFound s c).2.toNat (eventsFound s c).1.length) :=
  congrArg (answer s) ((runCmd_eq hc io _).trans (withHost_eq hin _))

/-- A signing state that is sound stands as it is (R421). -/
theorem restoreSigning_sound {t : Trust} (h : t.signState = true) : t.restoreSigning = t := if_pos h

/-- The next index of the AK taken, below its reservation (R421). -/
def akIndexTaken (s : State) : State := { s with trust := { s.trust.reserveAk with akNext := s.trust.reserveAk.akNext + 1 } }

/-- An ATTEST writes the whole report where that fits, and else the body with its signature and the AK, 3,016 bytes (R423). -/
def attestSize (c : Started) : Nat := if 11520 ≤ c.arg 24 4 then 11520 else 3016

/-- ATTEST of an AK with an index left signs with that index, which it has taken first (R421, R423). -/
theorem attest_signs (hc : dispatched s id 0x72 c) (hin : c.inputOf io = .ok b) (hkeys : s.trust.keysBlocked = false) (hroom : 3016 ≤ c.arg 24 4)
    (hdirect : c.byPacket = false) (hsound : s.trust.signState = true) (hleft : s.trust.akSpent = false) :
    runs (.attest id io) s ((akIndexTaken s).finishOut id c (c.arg 16 8)
      (((akIndexTaken s).attestReport (slice c.slot 32 32) s.trust.reserveAk.akNext).take (attestSize c)) stOk s.trust.reserveAk.akNext (attestSize c)) := by
  refine congrArg (answer s) ((runCmd_eq hc io _).trans ((withHost_eq hin _).trans ((if_neg ?refused).trans ?_)))
  case refused =>
    exact not_or.mpr ⟨ne_true_of_eq_false hkeys, not_or.mpr ⟨Nat.not_lt.mpr hroom, fun hpacket => ne_true_of_eq_false hdirect hpacket.1⟩⟩
  dsimp only
  rw [restoreSigning_sound hsound, hleft]
  rfl

end Reading

/-- Settles O47: each command runs where it was dispatched, its record fits its buffer, and no check refuses it. -/
theorem readingCommandsAnswer : Obligations.ReadingCommandsAnswer := by
  unfold Obligations.ReadingCommandsAnswer
  refine fun s id op c io b hc hin => ⟨?identify, ?caps, ?inventory, fun hop => ⟨?power, fun q => ?partition, ?registers⟩, ?events, ?attest⟩
  case identify =>
    rintro rfl
    exact identify_answers hc hin
  case caps =>
    rintro rfl
    exact queryCaps_answers hc
  case inventory =>
    rintro rfl
    exact getInventory_answers hc hin
  case power =>
    subst hop
    exact telemetryPower_answers hc hin
  case partition =>
    subst hop
    exact telemetryPartition_answers hc hin
  case registers =>
    subst hop
    exact telemetryRegisters_answers hc hin
  case events =>
    rintro rfl
    exact eventsRead_answers hc hin
  case attest =>
    rintro rfl
    exact attest_signs hc hin

end Sys2Proof.Proofs
end

section
/-! Proofs of the statements on power, clocks and heat: feeds, modules, the cap and shed (R350 to R354, R365 to R368, R444), wakes, clock steps and
phases (R357 to R364), clock inputs and the reference (R370, R372), temperatures and the coolant loop (R374 to R378). -/

namespace Sys2Proof.Proofs

open Sys2Proof Sys2Proof.Machine Sys2Proof.Safety Sys2Proof.Laws

/-! ### Fields of registers that an update leaves -/

section Fields

variable {s : State}

theorem setVpm_onlyRegs (s : State) (die : Nat) (on tripped : Bool) : OnlyRegs s (s.setVpm die on tripped) := by
  unfold State.setVpm
  dsimp only
  split
  · exact (setField_onlyRegs ..).trans (setField_onlyRegs ..)
  · exact setField_onlyRegs ..

theorem field_count_ne {a b : Nat} (n lo w : Nat) (h : a ≠ b) : (s.count a n).field b lo w = s.field b lo w :=
  congrArg (fun v : Word => bits v.toNat lo w) (count_reg_ne s a b n h)

end Fields

/-! ### Feeds -/

section Feeds

variable {s : State} {f : Feed} {x : FeedState} {v us : Nat}

/-- Feed f with its voltage stored, in state x (R350, R351). -/
def feedPut (s : State) (f : Feed) (v : Nat) (x : FeedState) : State := (s.setField (feedReg f) 0 16 v).setFeed f x

/-- A feed in use goes by its voltage, and by how long it held where R351 gives it time. -/
theorem feedNext_ok (hx : x.ok = true) : feedNext x v us =
    if 4400 ≤ v ∧ v ≤ 6000 then .operating
    else if 4000 ≤ v ∧ v < 4400 then (if us ≤ 10000 then .brownout else .lost)
    else if 6000 < v ∧ v ≤ 6300 then (if us ≤ 100000 then x else .lost)
    else if v < 4000 ∧ us < 20 then x else .lost := by
  cases x with
  | operating => rfl
  | brownout => rfl
  | absent => cases hx
  | lost => cases hx

/-- A feed out of use is operating after a second of good voltage, and else stays as it was (R351). -/
theorem feedNext_gone (hx : x.ok = false) : feedNext x v us =
    if 4400 ≤ v ∧ v ≤ 6000 then (if 1000000 ≤ us then .operating else x) else x := by
  cases x with
  | absent => rfl
  | lost => rfl
  | operating => cases hx
  | brownout => cases hx

theorem feedNext_brownout (hx : x.ok = true) (hlow : 4000 ≤ v) (hhigh : v < 4400) (hus : us ≤ 10000) : feedNext x v us = .brownout := by
  rw [feedNext_ok hx, if_neg (by omega), if_pos ⟨hlow, hhigh⟩, if_pos hus]

theorem feedNext_lost (hx : x.ok = true)
    (h : v < 4000 ∧ 20 ≤ us ∨ 4000 ≤ v ∧ v < 4400 ∧ 10000 < us ∨ 6000 < v ∧ v ≤ 6300 ∧ 100000 < us ∨ 6300 < v) : feedNext x v us = .lost := by
  rw [feedNext_ok hx, if_neg (by omega)]
  rcases h with ⟨hv, hus⟩ | ⟨hlow, hhigh, hus⟩ | ⟨hlow, hhigh, hus⟩ | hv
  · rw [if_neg (by omega), if_neg (by omega), if_neg (by omega)]
  · rw [if_pos ⟨hlow, hhigh⟩, if_neg (by omega)]
  · rw [if_neg (by omega), if_pos ⟨hlow, hhigh⟩, if_neg (by omega)]
  · rw [if_neg (by omega), if_neg (by omega), if_neg (by omega)]

theorem feedNext_operating (hlow : 4400 ≤ v) (hhigh : v ≤ 6000) (h : x.ok = true ∨ 1000000 ≤ us) : feedNext x v us = .operating := by
  cases hx : x.ok with
  | true => rw [feedNext_ok hx, if_pos ⟨hlow, hhigh⟩]
  | false => rw [feedNext_gone hx, if_pos ⟨hlow, hhigh⟩, if_pos (h.resolve_left (ne_true_of_eq_false hx))]

theorem feedNext_unchanged (hx : x.ok = false) (h : us < 1000000 ∨ v < 4400 ∨ 6000 < v) : feedNext x v us = x := by
  rw [feedNext_gone hx]
  split
  · exact if_neg (by omega)
  · rfl

/-- A feed that comes to brownout is counted and recorded (R351). -/
theorem feedStateChange_brownout (hx : s.feed f = .operating) (hy : feedNext (s.feed f) v us = .brownout) :
    runs (.feedStateChange f v us) s (((feedPut s f v .brownout).count (pwrBase + 0x48) 1).record 0x0801 3 noPart 0 onPanel (u8 (feedByte f) ++ u16 v)) := by
  refine congrArg (answer s) ((if_pos ⟨by rw [hx]; exact nofun, hy⟩).trans ?_)
  rw [hy]
  rfl

/-- A feed in use that is lost is recorded (R351). -/
theorem feedStateChange_lost (hx : (s.feed f).ok = true) (hy : feedNext (s.feed f) v us = .lost) :
    runs (.feedStateChange f v us) s ((feedPut s f v .lost).record 0x0802 4 noPart 0 onPanel (u8 (feedByte f) ++ u16 v)) := by
  refine congrArg (answer s) ((if_neg fun h => by rw [hy] at h; exact nomatch h.2).trans ((if_pos ⟨hx, hy⟩).trans ?_))
  rw [hy]
  rfl

/-- A feed that comes neither to brownout nor to a loss is stored and no more (R351). -/
theorem feedStateChange_quiet (hy : feedNext (s.feed f) v us = x) (hbrown : ¬ (s.feed f ≠ .brownout ∧ x = .brownout)) (hlost : ¬ ((s.feed f).ok = true ∧ x = .lost)) :
    runs (.feedStateChange f v us) s (feedPut s f v x) := by
  subst hy
  exact congrArg (answer s) ((if_neg hbrown).trans (if_neg hlost))

theorem feedPut_keeps (s : State) (f : Feed) (v : Nat) (x : FeedState) :
    (feedPut s f v x).feed f = x ∧ (feedPut s f v x).mem = s.mem ∧ (feedPut s f v x).cores = s.cores := by
  obtain ⟨hpower, hmem, hcores⟩ := setFeed_keeps (s.setField (feedReg f) 0 16 v) f x
  refine ⟨?_, hmem.trans (setField_mem ..), hcores.trans (setField_cores ..)⟩
  unfold State.feed feedPut
  rw [hpower]
  cases f <;> rfl

/-- Feed f plugged in: on the plane, as a lost one until it has held (R444). -/
def pluggedIn (s : State) (f : Feed) (v : Nat) : State :=
  { feedPut s f v .lost with power := { (feedPut s f v .lost).power with plane := true } }

theorem feedInsert_joins (hx : s.feed f = .absent) : exec (.feedInsert f v) s = answer s (pluggedIn s f v) :=
  congrArg (answer s) (if_neg (not_not_intro hx))

theorem pluggedIn_fields (s : State) (f : Feed) (v : Nat) : (pluggedIn s f v).power.plane = true ∧ (pluggedIn s f v).feed f = .lost
    ∧ (pluggedIn s f v).mem = s.mem ∧ (pluggedIn s f v).cores = s.cores := by
  obtain ⟨hfeed, hmem, hcores⟩ := feedPut_keeps s f v .lost
  unfold pluggedIn
  generalize feedPut s f v .lost = u at *
  refine ⟨rfl, ?_, hmem, hcores⟩
  cases f <;> exact hfeed

theorem keeping_feed (t s : State) (f : Feed) : (t.keeping s).feed f = t.feed f := rfl

end Feeds

/-! ### Power failure and modules -/

section Failure

variable {s : State}

/-- Both control dies with their modules off (R352). -/
def controlsDark (s : State) : State := (s.setVpm 186 false false).setVpm 187 false false

theorem controlsDark_onlyRegs (s : State) : OnlyRegs s (controlsDark s) := (setVpm_onlyRegs ..).trans (setVpm_onlyRegs ..)

theorem setVpm_off (s : State) (die : Nat) : s.setVpm die false false = s.setField (pwrBase + 0x100 + 4 * die) 0 1 0 := rfl

theorem controlsDark_unpowered (s : State) : (controlsDark s).powered = false := by
  unfold controlsDark State.powered
  rw [setVpm_off, setVpm_off, field_setField_ne _ _ _ _ _ _ _ _ (by decide), field_setField _ _ _ _ _ (by decide), field_setField _ _ _ _ _ (by decide)]
  rfl

/-- The panel after its last record, reset, its control dies dark (R352, R431). -/
def darkened (s : State) : State := controlsDark (s.record 0x080D 5 noPart 0 onPanel []).panelReset

theorem darkened_fields (s : State) : (darkened s).mem = [] ∧ (darkened s).cores = [] ∧ (darkened s).parts = [] ∧ (darkened s).regions = []
    ∧ (darkened s).trust.opTime = s.trust.opTime ∧ Same2 s (darkened s) := by
  have hevents := record_onlyEvents s 0x080D 5 noPart 0 onPanel []
  obtain ⟨howner, hlist⟩ := (Same2.refl s).events hevents
  have htime : (s.record 0x080D 5 noPart 0 onPanel []).trust.opTime = s.trust.opTime := congrArg (·.trust.opTime) hevents
  unfold darkened
  generalize s.record 0x080D 5 noPart 0 onPanel [] = u at *
  obtain ⟨hmem, hparts, hregions, hcores, -, -, howner', hlist'⟩ := panelReset_fields u
  have htime' := panelReset_opTime u
  generalize u.panelReset = v at *
  rw [controlsDark_onlyRegs v]
  exact ⟨hmem, hcores, hparts, hregions, htime'.trans htime, howner'.trans howner, hlist'.trans hlist⟩

/-- The panel after a power failure: dark and off the plane, its operating time kept (R352, R431). -/
def powerLost (s : State) : State :=
  { darkened s with
    trust := { (darkened s).trust.resumed with opStored := (darkened s).trust.opTime, opClean := true },
    sparing := { (darkened s).sparing with failing := true }, power := { (darkened s).power with plane := false } }

theorem powerFail_loses (hA : s.power.feedA.ok = false) (hB : s.power.feedB.ok = false) (hup : s.powered = true) (hfail : s.sparing.failing = false) :
    exec .powerFail s = answer s (powerLost s) :=
  congrArg (answer s) (if_neg (by simp [hA, hB, hup, hfail]))

theorem powerLost_clears (s : State) : (powerLost s).mem = [] ∧ (powerLost s).cores = [] ∧ (powerLost s).parts = [] ∧ (powerLost s).regions = []
    ∧ (powerLost s).powered = false := by
  obtain ⟨hmem, hcores, hparts, hregions, -, -⟩ := darkened_fields s
  have hoff : (darkened s).powered = false := controlsDark_unpowered _
  unfold powerLost
  generalize darkened s = u at *
  exact ⟨hmem, hcores, hparts, hregions, hoff⟩

theorem powerLost_keeps (s : State) : (powerLost s).power.plane = false ∧ (powerLost s).sparing.failing = true
    ∧ (powerLost s).trust.opStored = s.trust.opTime ∧ (powerLost s).trust.opClean = true ∧ (powerLost s).trust.ownerHash = s.trust.ownerHash
    ∧ (powerLost s).sparing.fieldList = s.sparing.fieldList := by
  obtain ⟨-, -, -, -, htime, howner, hlist⟩ := darkened_fields s
  unfold powerLost
  generalize darkened s = u at *
  exact ⟨rfl, rfl, htime, rfl, howner, hlist⟩

/-- A module that has tripped stays off (R354). -/
theorem vpmTrip_again {die : Nat} (h : s.field (pwrBase + 0x100 + 4 * die) 1 1 = 1) : exec (.vpmTrip die) s = .next s :=
  congrArg (answer s) (if_pos (.inr h))

/-- A module that trips is counted and recorded, and its die is listed and failed (R354). -/
theorem vpmTrip_trips {die : Nat} (hdie : die < 188) (h : s.field (pwrBase + 0x100 + 4 * die) 1 1 = 0) : runs (.vpmTrip die) s
    (((((s.setVpm die false true).count (pwrBase + 0x38) 1).record 0x0803 5 noPart 0 onPanel (u8 die)).addDefect 1 6 kDie die 0 0).failDie die 6 0) :=
  congrArg (answer s) (if_neg (by omega))

end Failure

/-! ### Shed -/

section Shed

variable {s : State}

/-- Every cluster of cs in power state v (R361). -/
def setPowers (s : State) (cs : List Nat) (v : Nat) : State := cs.foldl (fun s c => s.setPower c v) s

theorem setPowers_onlyRegs (s : State) (cs : List Nat) (v : Nat) : OnlyRegs s (setPowers s cs v) :=
  foldl_keep _ (OnlyRegs s) (fun _ _ h => h.trans (setField_onlyRegs ..)) cs s (.self s)

theorem setPowers_field {a : Nat} (s : State) (cs : List Nat) (v lo w : Nat) (ha : ∀ c, pwrClu c ≠ a) : (setPowers s cs v).field a lo w = s.field a lo w :=
  foldl_keep _ (fun u => u.field a lo w = s.field a lo w) (fun _ c h => (field_setField_ne _ _ _ _ _ _ _ _ (ha c)).trans h) cs s rfl

theorem powerOf_setPowers (v d : Nat) (cs : List Nat) (s : State) : (setPowers s cs v).power? d = if d ∈ cs then v % 4 else s.power? d := by
  induction cs generalizing s with
  | nil => rfl
  | cons c cs ih =>
    refine (ih (s.setPower c v)).trans ?_
    rw [powerOf_setPower]
    by_cases hd : d ∈ cs
    · rw [if_pos hd, if_pos (List.mem_cons_of_mem c hd)]
    · simp only [hd, List.mem_cons, or_false, if_false, eq_comm]

/-- The clusters cs idle, noted as paused (R367). -/
def pausedAt (s : State) (cs : List Nat) : State :=
  let u := setPowers s cs 2
  { u with power := { u.power with paused := u.power.paused ++ cs.filter fun c => !u.power.paused.contains c } }

/-- A pause idles the running clusters (R367). -/
theorem pauseAll_eq (s : State) : s.pauseAll = pausedAt s s.runs := by
  unfold State.pauseAll
  generalize s.runs = cs
  rfl

theorem pausedAt_keeps (s : State) (cs : List Nat) : (pausedAt s cs).mem = s.mem ∧ (pausedAt s cs).cores = s.cores ∧ (pausedAt s cs).parts = s.parts := by
  unfold pausedAt
  rw [setPowers_onlyRegs]
  exact ⟨rfl, rfl, rfl⟩

theorem pausedAt_field {a : Nat} (s : State) (cs : List Nat) (lo w : Nat) (ha : ∀ c, pwrClu c ≠ a) : (pausedAt s cs).field a lo w = s.field a lo w :=
  setPowers_field s cs 2 lo w ha

theorem powerOf_pausedAt (s : State) (cs : List Nat) (d : Nat) : (pausedAt s cs).power? d = if d ∈ cs then 2 else s.power? d :=
  powerOf_setPowers 2 d cs s

theorem pauseAll_keeps (s : State) : s.pauseAll.mem = s.mem ∧ s.pauseAll.cores = s.cores ∧ s.pauseAll.parts = s.parts := by
  rw [pauseAll_eq]
  exact pausedAt_keeps s s.runs

theorem mem_runs {c : Nat} : c ∈ s.runs ↔ c < 576 ∧ s.power? c = 3 := by
  unfold State.runs
  rw [List.mem_filter, List.mem_range, decide_eq_true_eq]

/-- After a pause no cluster runs (R367). -/
theorem pauseAll_runs (s : State) : s.pauseAll.runs = [] := by
  refine List.eq_nil_iff_forall_not_mem.mpr fun c hc => ?_
  obtain ⟨hlt, hpower⟩ := mem_runs.mp hc
  rw [pauseAll_eq, powerOf_pausedAt] at hpower
  split at hpower
  · exact nomatch hpower
  · rename_i hruns
    exact hruns (mem_runs.mpr ⟨hlt, hpower⟩)

theorem keeping_runs (t s : State) : (t.keeping s).runs = t.runs := by
  unfold State.runs
  exact List.filter_congr fun c _ => by rw [kp_power]

theorem keeping_shedding (t s : State) : (t.keeping s).shedding = t.shedding := by
  unfold State.shedding
  rw [keeping_at_field, keeping_power]

/-- SHED_L as it is asserted, and counted (R366). -/
def shedNoted (s : State) : State := (s.setField pwrBase 3 1 1).count (pwrBase + 0x34) 1

theorem shedNoted_onlyRegs (s : State) : OnlyRegs s (shedNoted s) := (setField_onlyRegs ..).trans (count_onlyRegs ..)

theorem shedNoted_field (s : State) : (shedNoted s).field pwrBase 3 1 = 1 :=
  (field_count_ne _ _ _ (by decide)).trans (field_setField _ _ _ _ _ (by decide))

theorem shedAssert_pauses (h : s.field pwrBase 3 1 = 0) : exec .shedAssert s = answer s (shedNoted s).pauseAll :=
  answer_onlyIf _ (decide_eq_true h)

theorem pauseAll_sheds {s : State} (h : s.field pwrBase 3 1 = 1) : s.pauseAll.shedding = true := by
  unfold State.shedding
  rw [pauseAll_eq, pausedAt_field s s.runs 3 1 fun c => pwrClu_ne c _ (by omega), h]
  rfl

/-- A shed level not met in time sends every cluster without a step to RETAIN; one not met even so is noted (R367). -/
theorem shedLevelCheck_retains {pIn : Nat} (pAfter : Nat) (hshed : s.shedding = true) (hover : s.shedLevel * 100 < pIn) :
    let u := ((List.range 576).filter fun c => decide (s.power? c = 2) && s.mayRetain c).foldl (fun s c => s.retain c) s
    runs (.shedLevelCheck pIn pAfter) s (if pAfter ≤ s.shedLevel * 100 then u else (u.setField pwrBase 4 1 1).record 0x0806 3 noPart 0 onPanel (u32 pAfter)) :=
  congrArg (answer s) (if_neg (by rw [hshed]; simp; omega))

/-- SHED_L released, its flags cleared (R366). -/
def shedOver (s : State) : State := (s.setField pwrBase 3 1 0).setField pwrBase 4 1 0

theorem shedOver_fields (s : State) : (shedOver s).field pwrBase 3 1 = 0 ∧ (shedOver s).field pwrBase 4 1 = 0 :=
  ⟨(field_setField_apart _ _ _ _ _ _ _ (by decide) (by decide)).trans (field_setField _ _ _ _ _ (by decide)), field_setField _ _ _ _ _ (by decide)⟩

theorem shedOver_power? (s : State) (c : Nat) : (shedOver s).power? c = s.power? c := by
  have hne : pwrBase ≠ pwrClu c := pwrClu_ne' c _ (by omega)
  exact (field_setField_ne _ _ _ _ _ _ _ _ hne).trans (field_setField_ne _ _ _ _ _ _ _ _ hne)

theorem shedDeassert_ends (h : s.field pwrBase 3 1 = 1) : runs .shedDeassert s (if s.power.lossShed then shedOver s else (shedOver s).resumeAll) :=
  congrArg (answer s) (if_neg (by omega))

end Shed

/-- Settles O54: each event runs where its conditions hold, and what it leaves is read off its effect. -/
theorem powerAndShed : Obligations.PowerAndShed := by
  unfold Obligations.PowerAndShed
  refine ⟨fun s f v us die => ⟨⟨?brownout, ?lost, ?operating, ?unchanged, ?plugged, ?present⟩, ?fails, ?tripped, ?trips⟩,
    fun s r pIn pAfter => ⟨⟨?above, ?within, ?below⟩, ?asserted, shedLevelCheck_retains pAfter, ?held, ?resumed⟩⟩
  case brownout =>
    intro hx hlow hhigh hus
    exact feedStateChange_brownout hx (feedNext_brownout (by rw [hx]; rfl) hlow hhigh hus)
  case lost => exact fun hx hgone => feedStateChange_lost hx (feedNext_lost hx hgone)
  case operating => exact fun hlow hhigh hus => feedStateChange_quiet (feedNext_operating hlow hhigh hus) (fun h => nomatch h.2) (fun h => nomatch h.2)
  case unchanged =>
    exact fun hx hwait => feedStateChange_quiet (feedNext_unchanged hx hwait) (fun h => h.1 h.2) (fun h => ne_true_of_eq_false hx h.1)
  case plugged =>
    intro hx
    refine ⟨_, feedInsert_joins hx, ?_⟩
    rw [keeping_power, keeping_feed, keeping_mem, keeping_cores]
    exact pluggedIn_fields s f v
  case present => exact fun hx => congrArg (answer s) (if_pos hx)
  case fails =>
    intro hA hB hup hfail
    obtain ⟨hmem, hcores, hparts, hregions, hoff⟩ := powerLost_clears s
    refine ⟨_, powerFail_loses hA hB hup hfail, ?_⟩
    rw [keeping_mem, keeping_cores, keeping_parts, keeping_regions, kp_powered, keeping_power, keeping_sparing, keeping_trust]
    exact ⟨hmem, hcores, hparts, hregions, hoff, powerLost_keeps s⟩
  case tripped => exact fun _ => vpmTrip_again
  case trips => exact vpmTrip_trips
  case above => exact fun h => congrArg (answer s) (if_pos h)
  case within => exact fun hcap hrise => congrArg (answer s) ((if_neg (Nat.not_lt.mpr hcap)).trans (if_neg (Nat.not_le.mpr hrise)))
  case below => exact fun hrise => congrArg (answer s) ((if_neg (by omega)).trans (if_pos hrise))
  case asserted =>
    intro h
    obtain ⟨hmem, hcores, hparts⟩ := pauseAll_keeps (shedNoted s)
    have hregs := shedNoted_onlyRegs s
    refine ⟨_, shedAssert_pauses h, ?_⟩
    rw [keeping_shedding, keeping_runs, keeping_mem, keeping_cores, keeping_parts]
    exact ⟨pauseAll_sheds (shedNoted_field s), pauseAll_runs _, hmem.trans hregs.mem, hcores.trans hregs.cores, hparts.trans hregs.parts⟩
  case held =>
    intro h hloss
    obtain ⟨hshed, hflag⟩ := shedOver_fields s
    exact ⟨_, runs_ite_pos (shedDeassert_ends h) hloss, hshed, hflag, rfl, shedOver_power? s, rfl⟩
  case resumed => exact fun h hloss => runs_ite_neg (shedDeassert_ends h) (ne_true_of_eq_false hloss)

/-! ### Wakes -/

section Wakes

variable {s : State} {c : Nat}

/-- A cluster of a partition that sleeps and has asked for no wake asks for one (R363). -/
theorem wakeRequest_asks (hc : c < 576) (hpart : (s.partOf c).isSome = true) (hdark : s.field (pwrClu c) 14 1 = 0) :
    exec (.wakeRequest c) s = answer s (s.requestWake c) :=
  answer_onlyIf _ (by rw [hpart, decide_eq_true hc, decide_eq_true hdark]; rfl)

/-- A cluster of no partition asks for no wake (R363). -/
theorem wakeRequest_ignored (hpart : s.partOf c = none) : runs (.wakeRequest c) s s :=
  congrArg (answer s) (if_neg (by rw [hpart]; simp))

/-- A wake is granted under headroom, a quiet module and the slew limit (R364). -/
theorem wakeGrant_wakes (hc : c < 576) (hpend : s.wakePending c = true) (hroom : 1000 ≤ s.headroom (s.dieOfCluster c))
    (hquiet : s.vpmQuiet (s.dieOfCluster c) = true) (hslew : s.slewOk wakeRise = true) : exec (.wakeGrant c) s = answer s (s.wake c) := by
  have hasked : ¬ (576 ≤ c ∨ s.field (pwrClu c) 15 1 = 0) := by
    rw [wakePending_asks s c hpend]
    omega
  have hgranted : (s.wakePending c && decide (1000 ≤ s.headroom (s.dieOfCluster c)) && s.vpmQuiet (s.dieOfCluster c) && s.slewOk wakeRise) = true := by
    rw [hpend, decide_eq_true hroom, hquiet, hslew]
    rfl
  exact congrArg (answer s) ((if_neg hasked).trans (if_pos hgranted))

/-- A wake that is not granted is deferred, and counted once (R364). -/
theorem wakeGrant_defers (hc : c < 576) (hasked : s.field (pwrClu c) 15 1 = 1)
    (hheld : s.headroom (s.dieOfCluster c) < 1000 ∨ s.vpmQuiet (s.dieOfCluster c) = false ∨ s.slewOk wakeRise = false ∨ s.shedding = true) :
    runs (.wakeGrant c) s (if s.power.deferred.contains c then s
      else ({ s with power := { s.power with deferred := s.power.deferred ++ [c] } }).count64 (pwrBase + 0x28) 1) := by
  have hstands : ¬ (576 ≤ c ∨ s.field (pwrClu c) 15 1 = 0) := by omega
  have hrefused : ¬ (s.wakePending c && decide (1000 ≤ s.headroom (s.dieOfCluster c)) && s.vpmQuiet (s.dieOfCluster c) && s.slewOk wakeRise) = true := by
    rcases hheld with hroom | hquiet | hslew | hshed
    · simp [hroom]
    · simp [hquiet]
    · simp [hslew]
    · simp [State.wakePending, hshed]
  exact congrArg (answer s) ((if_neg hstands).trans (if_neg hrefused))

/-- A forced wake slows the running clusters of its module until 10 A of headroom exist, and is counted (R364). -/
theorem wakeForced_wakes (hc : c < 576) (hpend : s.wakePending c = true) : runs (.wakeForced c) s
    ((((List.range (ceilDiv (1000 - s.headroom (s.dieOfCluster c)) 180)).foldl
      (fun u _ => u.lowerOne (u.runningOn (s.dieOfCluster c))) s).wake c).count (pwrBase + 0x30) 1) :=
  congrArg (answer s) (if_neg (by rw [hpend]; simp; omega))

/-- A step of the clock within its cap, the headroom and the slew limit (R364). -/
theorem clockStepRamp_rises (hc : c < 576) (hawake : 2 ≤ s.power? c) (hshed : s.shedding = false)
    (hcap : s.field (pwrClu c) 2 3 < s.field (pwrClu c) 5 3) (hroom : 180 ≤ s.headroom (s.dieOfCluster c)) (hslew : s.slewOk stepRise = true) :
    exec (.clockStepRamp c) s = answer s ((s.setField (pwrClu c) 2 3 (s.field (pwrClu c) 2 3 + 1)).takeSlew stepRise) :=
  congrArg (answer s) (if_neg (by rw [hshed, hslew]; simp; omega))

/-- An idle cluster without a step goes to RETAIN once its timeout runs (R363). -/
theorem idleRetainTimeout_retains (hc : c < 576) (hidle : s.power? c = 2) (htimeout : s.field (pwrBase + 0x18) 0 16 ≠ 0) (hstep : s.mayRetain c = true) :
    exec (.idleRetainTimeout c) s = answer s (s.retain c) :=
  answer_onlyIf _ (by rw [decide_eq_true hc, decide_eq_true hidle, decide_eq_true htimeout, hstep]; rfl)

/-- An effect that leaves cluster c in power state v and moves only its own cores leaves an answer that does so too. -/
theorem answer_onlyTheirs {i : Instr} {u : State} {v : Nat} (hi : exec i s = answer s u) (hu : u.power? c = v ∧ OnlyTheirs c s u) :
    ∃ t, exec i s = .next t ∧ t.power? c = v ∧ OnlyTheirs c s t :=
  ⟨_, hi, hu⟩

theorem droopDetect_counts (hc : c < 576) (hawake : 2 ≤ s.power? c) (pulses : Nat) :
    runs (.droopDetect c pulses) s (s.count64 (pwrBase + 0x40) pulses) :=
  answer_onlyIf _ (by rw [decide_eq_true hc, decide_eq_true hawake]; rfl)

end Wakes

/-! ### Failed phases -/

section Phases

variable {s : State} {site quad domain phase : Nat}

/-- A failed phase, counted and recorded (R357, R358). -/
def phaseNoted (s : State) (site quad domain phase : Nat) : State :=
  (s.count (pwrBase + 0x3C) 1).record 0x0804 3 noPart 0 (onSite site quad) (u8 domain ++ u8 phase)

/-- A failed phase of a cluster's rails, listed (R358). -/
def phaseListed (s : State) (site quad domain phase : Nat) : State :=
  (phaseNoted s site quad domain phase).addDefect 1 7 kPhase site quad (domain * 256 + phase)

/-- The failed phases of cluster k, one more of VDD_LOGIC or of VDD_SRAM (R357, R358). -/
def phaseCounted (s : State) (k domain : Nat) : State :=
  if domain = 0 then s.setField (pwrClu k) 8 3 (Nat.min 3 (s.field (pwrClu k) 8 3 + 1)) else s.setField (pwrClu k) 11 2 (Nat.min 2 (s.field (pwrClu k) 11 2 + 1))

/-- Cluster k with its failed phases counted: dark at three of VDD_LOGIC or two of VDD_SRAM, else under the cap they leave (R357, R358). -/
def phasesJudged (s : State) (k site : Nat) : State :=
  if s.field (pwrClu k) 8 3 = 3 ∨ s.field (pwrClu k) 11 2 = 2 then s.goDark k site else s.refreshCap k

/-- One more failed phase of a rail that the die's quadrants share (R358). -/
def railCounted (s : State) (k : Nat) : State :=
  { s with power := { s.power with railFails := tset 0 s.power.railFails k (tget 0 s.power.railFails k + 1) } }

/-- A phase of a cluster's rails that is not listed yet is noted, listed and judged with the cluster it feeds (R357, R358). -/
theorem regulatorPhaseFault_cluster (hsite : site < 156) (hquad : quad < 4) (hphase : phase < 8) (hdomain : domain < 2)
    (hnew : s.sparing.listed kPhase site quad (domain * 256 + phase) = false) : exec (.regulatorPhaseFault site quad domain phase) s
    = answer s (((phaseListed s site quad domain phase).blkCluster (site * 4 + quad)).elim (phaseListed s site quad domain phase)
        fun k => phasesJudged (phaseCounted (phaseListed s site quad domain phase) k domain) k site) := by
  have hunknown : ¬ (156 ≤ site ∨ 4 ≤ quad ∨ 4 ≤ domain ∨ 8 ≤ phase
      ∨ (decide (domain < 2) && s.sparing.listed kPhase site quad (domain * 256 + phase)) = true) := by
    rw [hnew, Bool.and_false]
    simp
    omega
  refine congrArg (answer s) ((if_neg hunknown).trans ((if_neg (Nat.not_le.mpr hdomain)).trans ?_))
  extract_lets w
  change _ = (w.blkCluster (site * 4 + quad)).elim w fun k => phasesJudged (phaseCounted w k domain) k site
  cases w.blkCluster (site * 4 + quad) with
  | none => rfl
  | some k => rfl

/-- A phase of a rail that quadrants share fails the die at the rail's second (R358). -/
theorem regulatorPhaseFault_rail (hsite : site < 156) (hquad : quad < 4) (hphase : phase < 8) (hshared : 2 ≤ domain) (hdomain : domain < 4) :
    let u := phaseNoted s site quad domain phase
    let k := site * 2 + (domain - 2)
    runs (.regulatorPhaseFault site quad domain phase) s
      (if tget 0 u.power.railFails k + 1 < 2 then railCounted u k else (railCounted u k).failDie site 7 3) := by
  have hunknown : ¬ (156 ≤ site ∨ 4 ≤ quad ∨ 4 ≤ domain ∨ 8 ≤ phase
      ∨ (decide (domain < 2) && s.sparing.listed kPhase site quad (domain * 256 + phase)) = true) := by
    rw [decide_eq_false (Nat.not_lt.mpr hshared), Bool.false_and]
    simp
    omega
  exact congrArg (answer s) ((if_neg hunknown).trans (if_pos hshared))

end Phases

/-- Settles O55: each event runs where its conditions hold, and what it leaves is read off its law. -/
theorem wakesAndSteps : Obligations.WakesAndSteps := by
  unfold Obligations.WakesAndSteps
  refine fun s c pulses site quad domain phase hc => ⟨⟨?asks, wakeRequest_ignored, ?granted, wakeGrant_defers hc, wakeForced_wakes hc, ?rises, ?idles,
    fun hawake => droopDetect_counts hc hawake pulses⟩, fun hsite hquad hphase => ⟨?cluster, regulatorPhaseFault_rail hsite hquad hphase⟩⟩
  case asks =>
    intro hpart hdark hsleeps hunasked
    refine ⟨_, wakeRequest_asks hc hpart hdark, ?_⟩
    rw [keeping_at_field, keeping_power, kp_power, keeping_mem, keeping_cores]
    exact requestWake_fields s c (by omega)
  case granted =>
    intro hpend hroom hquiet hslew
    refine ⟨_, wakeGrant_wakes hc hpend hroom hquiet hslew, ?_⟩
    rw [keeping_at_field, keeping_power, kp_power, keeping_mem, keeping_cores, keeping_parts]
    exact wake_fields s c
  case rises =>
    intro hawake hshed hcap hroom hslew
    refine ⟨_, clockStepRamp_rises hc hawake hshed hcap hroom hslew, ?_⟩
    rw [keeping_at_field, keeping_power, kp_power, keeping_mem, keeping_cores]
    exact ramp_fields s c hcap
  case idles =>
    intro hidle htimeout hstep
    exact answer_onlyTheirs (idleRetainTimeout_retains hc hidle htimeout hstep) (retain_fields s c)
  case cluster =>
    intro hdomain hnew
    have hjudged := regulatorPhaseFault_cluster hsite hquad hphase hdomain hnew
    refine ⟨fun k hk => hjudged.trans ?_, fun hk => hjudged.trans ?_⟩
    · rw [show (phaseListed s site quad domain phase).blkCluster (site * 4 + quad) = some k from hk]
      rfl
    · rw [show (phaseListed s site quad domain phase).blkCluster (site * 4 + quad) = none from hk]
      rfl

/-! ### Clock inputs and the reference -/

section Clocks

variable {s : State} {die : Nat} {live : BitVec 6}

/-- The backup that die takes with input k: a free one of the other live inputs, or none (R372). -/
def backupDrawn (s : State) (ins : List Nat) (k : Nat) : Nat :=
  (ins.filter (· ≠ k)).getD (Config.choice s.free % (ins.filter (· ≠ k)).length) 7

/-- A new backup is no input, or another live one (R372). -/
theorem backupDrawn_spec (s : State) (ins : List Nat) (k : Nat) : backupDrawn s ins k = 7 ∨ backupDrawn s ins k ∈ ins ∧ backupDrawn s ins k ≠ k := by
  unfold backupDrawn
  generalize hrest : ins.filter (· ≠ k) = rest
  by_cases hi : Config.choice s.free % rest.length < rest.length
  · rw [List.getD_eq_getElem _ _ hi]
    have hmem := List.getElem_mem hi
    generalize rest[Config.choice s.free % rest.length] = b at hmem
    rw [← hrest, List.mem_filter, decide_eq_true_eq] at hmem
    exact .inr hmem
  · exact .inl (List.getD_eq_default _ _ (Nat.le_of_not_lt hi))

/-- A die that loses its input switches to its next one, and its seams slip (R372). -/
theorem clockInputLoss_switches {k : Nat} (hdie : die < 188) (hlives : s.field (clkDie die) 11 1 = 0)
    (hnext : nextInput (s.field (clkDie die) 3 3) (liveInputs live (s.field (clkDie die) 6 3)) = some k) : runs (.clockInputLoss die live) s
      (((((((s.draw.setField (clkDie die) 6 3 k).setField (clkDie die) 9 1 1).setField (clkDie die) 10 1 0).setField (clkDie die) 12 8 (Config.freeByte s.free 0).toNat).setField
        (clkDie die) 3 3 (backupDrawn s (liveInputs live (s.field (clkDie die) 6 3)) k)).count (clkBase + 4) 1).slipDie die) := by
  refine congrArg (answer s) ((if_neg (by omega)).trans ?_)
  rw [hnext]
  rfl

/-- A die with no input left holds over, counted once (R372). -/
theorem clockInputLoss_holds (hdie : die < 188) (hlives : s.field (clkDie die) 11 1 = 0)
    (hnext : nextInput (s.field (clkDie die) 3 3) (liveInputs live (s.field (clkDie die) 6 3)) = none) (hfirst : s.field (clkDie die) 10 1 = 0) :
    runs (.clockInputLoss die live) s
      (((((s.setField (clkDie die) 3 3 7).setField (clkDie die) 6 3 7).setField (clkDie die) 10 1 1).count (clkBase + 8) 1).slipDie die) := by
  refine congrArg (answer s) ((if_neg (by omega)).trans ?_)
  rw [hnext]
  exact if_neg (by omega)

/-- A die that has held over for its time is failed (R372). -/
theorem clockHoldoverExpiry_fails (hdie : die < 188) (hlives : s.field (clkDie die) 11 1 = 0) (hholds : s.field (clkDie die) 10 1 = 1) :
    runs (.clockHoldoverExpiry die) s (((s.setField (clkDie die) 11 1 1).setField (clkDie die) 9 1 0).failDie die 9 3) :=
  answer_onlyIf _ (by rw [decide_eq_true hdie, decide_eq_true hholds, decide_eq_true hlives]; rfl)

/-- CT-B's oscillator as the reference (R370). -/
def referenceMoved (s : State) : State := ((s.setField clkBase 0 1 0).setField clkBase 2 1 1).setField clkBase 3 1 0

theorem referenceMoved_onlyRegs (s : State) : OnlyRegs s (referenceMoved s) :=
  ((setField_onlyRegs ..).trans (setField_onlyRegs ..)).trans (setField_onlyRegs ..)

theorem referenceMoved_fields (s : State) : (referenceMoved s).field clkBase 0 1 = 0 ∧ (referenceMoved s).field clkBase 2 1 = 1 ∧ (referenceMoved s).field clkBase 3 1 = 0 := by
  unfold referenceMoved
  refine ⟨?_, ?_, field_setField _ _ _ _ _ (by decide)⟩
  · exact (field_setField_apart _ _ _ _ _ _ _ (by decide) (by decide)).trans
      ((field_setField_apart _ _ _ _ _ _ _ (by decide) (by decide)).trans (field_setField _ _ _ _ _ (by decide)))
  · exact (field_setField_apart _ _ _ _ _ _ _ (by decide) (by decide)).trans (field_setField _ _ _ _ _ (by decide))

theorem referenceMoved_reg {a : Nat} (s : State) (ha : a ≠ clkBase) : (referenceMoved s).reg a = s.reg a := by
  unfold referenceMoved
  rw [reg_setField_ne _ _ _ _ _ _ ha.symm, reg_setField_ne _ _ _ _ _ _ ha.symm, reg_setField_ne _ _ _ _ _ _ ha.symm]

end Clocks

/-! ### Heat -/

section Heat

variable {s : State} {c : Nat} {temps : List Nat}

/-- The sensors of cluster c read and its cap moved (R374). -/
def heatJudged (s : State) (c : Nat) (temps : List Nat) : State :=
  (s.setTemps (s.blk c / 4) (s.blk c % 4 * 4) temps).throttle c (temps.foldl Nat.max 0)

/-- A cluster under a thermal cap has its throttling noted (R374). -/
def heatNoted (s : State) (c : Nat) (temps : List Nat) : State :=
  if (heatJudged s c temps).thermCap c < 7 then (heatJudged s c temps).noteThrottle c (s.blk c % 4) temps (temps.foldl Nat.max 0) else heatJudged s c temps

theorem thermalSample_judges (hc : c < 576) (hlen : temps.length = 4) : exec (.thermalSample c temps) s = answer s (heatNoted s c temps) :=
  congrArg (answer s) (if_neg (by omega))

theorem heatNoted_same (s : State) (c : Nat) (temps : List Nat) : SameHeat (heatJudged s c temps) (heatNoted s c temps) := by
  have hsame : SameHeat (heatJudged s c temps) (heatJudged s c temps) := ⟨rfl, rfl, rfl, rfl, rfl⟩
  unfold heatNoted
  split
  · exact noteThrottle_same _ _ _ _ _ _ hsame
  · exact hsame

/-- A die at 115 °C keeps what RETAIN keeps, is recorded and counted, and fails (R374). -/
theorem thermalTrip_fails {die celsius : Nat} (sensor : Nat) (hdie : die < 188) (hhot : 115 ≤ celsius) :
    let cs := (List.range 576).filter fun c => decide (s.dieOfCluster c = die) && decide (2 ≤ s.power? c)
    runs (.thermalTrip die sensor celsius) s (((((cs.foldl (fun s c => s.retain c) s).setTemps die sensor [celsius]).record 0x0808 5 noPart 0 (dieSubject die)
      (u8 sensor ++ u8 celsius)).count (thmBase + 0x20) 1).failDie die 8 3) :=
  congrArg (answer s) (if_neg (by omega))

/-- An auxiliary poll with a reading for each listed target stores them (R376). -/
theorem auxSensorPoll_stores (hlen : temps.length = s.power.auxTargets.length) :
    exec (.auxSensorPoll temps) s = answer s { s with power := { s.power with auxTemps := temps } } :=
  answer_onlyIf _ (decide_eq_true hlen)

end Heat

/-- Settles O56: each event runs where its conditions hold, and what it leaves is read off its effect. -/
theorem clocksAndHeat : Obligations.ClocksAndHeat := by
  unfold Obligations.ClocksAndHeat
  refine ⟨fun s die live => ⟨fun hdie hlives => ⟨fun k hnext => ?switches, clockInputLoss_holds hdie hlives, clockHoldoverExpiry_fails hdie hlives⟩, ?reference⟩,
    fun s c die sensor celsius temps r pIn hot safe => ⟨?sample, thermalTrip_fails sensor, ?coolant, ?loss, ?poll⟩⟩
  case switches => exact ⟨_, _, backupDrawn_spec s _ k, clockInputLoss_switches hdie hlives hnext⟩
  case reference =>
    obtain ⟨hlost, hheld, hown⟩ := referenceMoved_fields s
    have hregs := referenceMoved_onlyRegs s
    refine ⟨(referenceMoved s).keeping s, rfl, ?_⟩
    rw [keeping_at_field, keeping_at_field, keeping_at_field, keeping_mem, keeping_cores, keeping_parts]
    exact ⟨hlost, hheld, hown, hregs.mem, hregs.cores, hregs.parts, fun a ha => (kp_reg ..).trans (referenceMoved_reg s ha)⟩
  case sample =>
    intro hc hlen
    obtain ⟨hmem, hcores, hcap, hcool, -⟩ := heatNoted_same s c temps
    have hjudged := throttle_caps s _ c (temps.foldl Nat.max 0) (setTemps_same s (s.blk c / 4) (s.blk c % 4 * 4) temps)
    refine ⟨_, thermalSample_judges hc hlen, ?_⟩
    rw [keeping_mem, keeping_cores, keeping_power, hmem, hcores, hcool]
    have hcap' : ((heatNoted s c temps).keeping s).thermCap c = (heatJudged s c temps).thermCap c := congrArg (tget 7 · c) hcap
    rw [hcap']
    exact hjudged
  case coolant => rfl
  case loss => exact fun h => answer_onlyIf _ (decide_eq_true h)
  case poll => exact fun hlen => ⟨_, auxSensorPoll_stores hlen, rfl, rfl, rfl⟩

end Sys2Proof.Proofs
end

section
/-! Proofs of the statements on the control dies, the event recorder and recovery: heartbeats, failover and the firmware swap (R416, R417, R421), records,
flushes and EVENTS_CLEAR (R429 to R431, R435), the management port (R426, R437) and recovery offers (R418, R419). -/

namespace Sys2Proof.Proofs

open Sys2Proof Sys2Proof.Machine Sys2Proof.Safety Sys2Proof.Laws

/-! ### The control dies -/

section ControlDies

variable {s : State} {d : Nat}

theorem controlDie_setControl (s : State) (d : Nat) (f : ControlDie → ControlDie) : (s.setControl d f).controlDie d = f (s.controlDie d) := by
  unfold State.controlDie State.setControl
  split <;> rfl

/-- What happens to one control die leaves the other as it was. -/
theorem controlDie_setControl_other (hd : d < 2) (f : ControlDie → ControlDie) : (s.setControl d f).controlDie (1 - d) = s.controlDie (1 - d) := by
  match d, hd with
  | 0, _ => rfl
  | 1, _ => rfl

/-- A command that changes die d by f leaves the other die, the registers and memory as they were. -/
theorem answer_setControl (hd : d < 2) (f : ControlDie → ControlDie) :
    ∃ t, answer s (s.setControl d f) = .next t ∧ t.controlDie d = f (s.controlDie d) ∧ t.controlDie (1 - d) = s.controlDie (1 - d)
      ∧ t.regs = s.regs ∧ t.mem = s.mem :=
  ⟨_, rfl, controlDie_setControl s d f, controlDie_setControl_other hd f, rfl, rfl⟩

/-- The heartbeat of a die that is active or stands by is noted (R416). -/
theorem ctHeartbeat_notes (hd : d < 2) (hrole : (s.controlDie d).role < 2) (hlive : (s.controlDie d).stopped = false) :
    exec (.ctHeartbeat d) s = answer s (s.setControl d fun c => { c with beatAt := s.now }) :=
  answer_onlyIf _ (by simp [hd, hrole, hlive])

/-- Firmware that misses its watchdog stops its die (R416). -/
theorem glerynWatchdogExpiry_stops (hd : d < 2) (hrole : (s.controlDie d).role < 2) :
    exec (.glerynWatchdogExpiry d) s = answer s (s.setControl d fun c => { c with stopped := true }) :=
  answer_onlyIf _ (by simp [hd, hrole])

theorem rebootDone_not_ignored (hd : d < 2) (hrole : (s.controlDie d).role = 3) (hgl : s.glerynRuns = true) (hbar : s.sparing.bar0Live = true) :
    ¬ (2 ≤ d ∨ (s.controlDie d).role ≠ 3 ∨ (!s.glerynRuns) = true ∨ (!s.sparing.bar0Live) = true) := by
  simp [hd, hrole, hgl, hbar]

/-- A die that reboots soundly stands by with the running image (R416, R417). -/
theorem controlDieRebootDone_stands (hd : d < 2) (hrole : (s.controlDie d).role = 3) (hgl : s.glerynRuns = true) (hbar : s.sparing.bar0Live = true) :
    exec (.controlDieRebootDone d true) s
      = answer s (s.setControl d fun c => { c with role := 1, stopped := false, beatAt := s.now, fw := s.trust.boot }) :=
  congrArg (answer s) (if_neg (rebootDone_not_ignored hd hrole hgl hbar))

/-- A die that does not has failed, is listed and recorded with a cause that the spec leaves open (R416). -/
theorem controlDieRebootDone_fails (hd : d < 2) (hrole : (s.controlDie d).role = 3) (hgl : s.glerynRuns = true) (hbar : s.sparing.bar0Live = true) :
    runs (.controlDieRebootDone d false) s
      ((((s.draw.setControl d fun c => { c with role := 2 }).addDefect 1 1 kDie (dieOfControl d) 0 0).record 0x0A07 5 noPart 0 (onControl d)
        [Config.freeByte s.free 0]).refreshState) :=
  congrArg (answer s) (if_neg (rebootDone_not_ignored hd hrole hgl hbar))

/-- The state in which the standby has taken over from the lost die (R416, R421). -/
def failedOver (s : State) (cause : Nat) : State :=
  let old := s.activeCt
  let u := s.setControl old fun c => { c with role := if c.rebooted then 2 else 3, rebooted := true }
  let v : State := { u with trust := u.trust.resumed }
  let w : State := { v with trust := { v.trust with lastActive := some (1 - old), swapping := none, updating := v.trust.updating && v.trust.swapping.isNone } }
  (w.takeOver (1 - old)).record 0x0A06 4 noPart 0 (onControl old) (u8 cause)

/-- A die lost for the second time is listed and recorded as failed (R416). -/
theorem controlDieFailover_takesOver (cause : Nat) (hlost : s.activeLost = true) (hstandby : s.standbyOk = true) :
    runs (.controlDieFailover cause) s
      (if (s.controlDie s.activeCt).rebooted then ((failedOver s cause).addDefect 1 1 kDie (dieOfControl s.activeCt) 0 0).record 0x0A07 5 noPart 0
        (onControl s.activeCt) (u8 cause) else failedOver s cause).refreshState := by
  refine congrArg (answer s) ((if_neg ?_).trans (if_neg ?_))
  · rw [hlost]; exact Bool.false_ne_true
  · rw [hstandby]; exact Bool.false_ne_true

/-- Without a sound standby no command is served (R416). -/
theorem controlDieFailover_alone (cause : Nat) (hlost : s.activeLost = true) (hstandby : s.standbyOk = false) :
    runs (.controlDieFailover cause) s (((s.setControl s.activeCt fun c => { c with role := 2 }).setPanelState 5).setRdy false) := by
  refine congrArg (answer s) ((if_neg ?_).trans (if_pos ?_))
  · rw [hlost]; exact Bool.false_ne_true
  · rw [hstandby]; rfl

/-- The standby has not come up for the swap of command id, and the old firmware goes on (R417). -/
def swapFailed (s : State) (id : Nat) : State :=
  let u := (s.setControl (1 - s.activeCt) fun c => { c with role := 2 }).refreshState
  ({ u with trust := { u.trust with swapping := none } } : State).fail id stFault

/-- The standby serves, and flash names the former active die, which reboots; the update and its command id have ended (R417). -/
def swapDone (s : State) (id : Nat) : State :=
  let u := (s.setControl s.activeCt fun c => { c with role := 3, stopped := false, rebooted := false }).takeOver (1 - s.activeCt)
  let b := s.trust.slot
  let v : State := { u with trust := { u.trust with
    swapping := none, updating := false, lastActive := some s.activeCt, svnFloor := Nat.max u.trust.svnFloor (fld b 0x11 1) } }
  (v.record 0x0A05 2 noPart 0 onPanel (u32 (fld b 0x0C 4) ++ u8 (fld b 0x10 1))).finishNoted id stOk 0 0

/-- A swap under way ends as its standby came up or not. -/
theorem firmwareSwapHandover_eq {id : Nat} (ok : Bool) (hswap : s.trust.swapping = some id) :
    runs (.firmwareSwapHandover ok) s (if (!ok) = true then swapFailed s id else swapDone s id) := by
  refine congrArg (answer s) ?_
  rw [hswap]
  rfl

end ControlDies

/-- Settles O58: the guard of each event holds, and a change of one control die leaves the other. -/
theorem controlDiesTakeOver : Obligations.ControlDiesTakeOver := by
  unfold Obligations.ControlDiesTakeOver
  refine fun s d cause id => ⟨fun hd hrole => ⟨fun hlive => ?beat, ?expiry⟩, fun hlost => ?failover, fun hd hrole hgl hbar => ⟨?sound, ?failed⟩,
    fun hswap => ?swap⟩
  case beat =>
    obtain ⟨t, ht, hdie, hother, hregs, hmem⟩ := answer_setControl (s := s) hd fun c => { c with beatAt := s.now }
    exact ⟨t, (ctHeartbeat_notes hd hrole hlive).trans ht, by rw [hdie], by rw [hdie]; exact hlive, hother, hregs, hmem⟩
  case expiry =>
    obtain ⟨t, ht, hdie, hother, hregs, hmem⟩ := answer_setControl (s := s) hd fun c => { c with stopped := true }
    exact ⟨t, (glerynWatchdogExpiry_stops hd hrole).trans ht, by rw [hdie], hother, hregs, hmem⟩
  case failover => exact ⟨controlDieFailover_alone cause hlost, controlDieFailover_takesOver cause hlost⟩
  case sound =>
    obtain ⟨t, ht, hdie, hother, hregs, hmem⟩ :=
      answer_setControl (s := s) hd fun c => { c with role := 1, stopped := false, beatAt := s.now, fw := s.trust.boot }
    exact ⟨t, (controlDieRebootDone_stands hd hrole hgl hbar).trans ht, by rw [hdie], by rw [hdie], by rw [hdie], hother, hregs, hmem⟩
  case failed => exact ⟨_, controlDieRebootDone_fails hd hrole hgl hbar⟩
  case swap => exact ⟨firmwareSwapHandover_eq false hswap, firmwareSwapHandover_eq true hswap⟩

/-! ### Flushes and EVENTS_CLEAR -/

section Recorder

variable {s : State}

/-- A flush that flash takes marks each record of the buffer as flushed, and touches neither memory nor cores (R430). -/
theorem flushAll_marks (s : State) : (s.flushAll true).evr.buf = s.evr.buf.map (fun e => (e.1, false)) ∧ (s.flushAll true).mem = s.mem
    ∧ (s.flushAll true).cores = s.cores := by
  have hkept := foldl_keep State.flushOne (fun u => u.evr.buf = s.evr.buf ∧ u.mem = s.mem ∧ u.cores = s.cores)
    (fun u e ⟨hbuf, hmem, hcores⟩ => by
      obtain ⟨hbuf', hmem', hcores'⟩ := flushOne_evr u e
      exact ⟨hbuf'.trans hbuf, hmem'.trans hmem, hcores'.trans hcores⟩)
    ((s.evr.buf.filter (·.2)).map (·.1)) (s.setField evrBase 0 1 1) ⟨rfl, rfl, rfl⟩
  obtain ⟨hbuf, hmem, hcores⟩ := hkept
  exact ⟨congrArg (List.map fun e : Event × Bool => (e.1, false)) hbuf, hmem, hcores⟩

theorem flushAll_fails (s : State) :
    s.flushAll false = (s.setField evrBase 0 1 0).count (evrBase + 0x18) ((s.evr.buf.filter (·.2)).map (·.1)).length := rfl

/-- A flush that flash refuses leaves the records, clears `FLASH_OK`, and moves registers alone (R430). -/
theorem flushAll_refused (s : State) : (s.flushAll false).evr = s.evr ∧ (s.flushAll false).field evrBase 0 1 = 0 ∧ (s.flushAll false).mem = s.mem
    ∧ (s.flushAll false).cores = s.cores := by
  rw [flushAll_fails, count_evr, count_mem, count_cores, field_count_ne _ _ _ (by decide), field_setField _ _ _ _ _ (by decide)]
  exact ⟨rfl, rfl, rfl, rfl⟩

theorem keepRecord_evr (s : State) (e : Event) (buf : List (Event × Bool)) :
    (s.keepRecord e buf).evr = { s.evr with buf := buf ++ [(e, true)], seq := e.seq } := by
  unfold State.keepRecord
  rw [alarm_evr]
  rfl

theorem reg_keepRecord (s : State) (e : Event) (buf : List (Event × Bool)) (a : Nat) : (s.keepRecord e buf).reg a = s.reg a := by
  unfold State.reg
  rw [keepRecord_regs]

/-- The recorder flushed and then without any record (R435). -/
def recordsRemoved (s : State) : State := { s.flushAll true with evr := { (s.flushAll true).evr with buf := [], region := [] } }

/-- The record that EVENTS_CLEAR makes: how many it removed, from which on, and by whose authority (R435). -/
def clearRecord (s : State) (signer : Nat) : Event :=
  (recordsRemoved s).newEvent 0x0B01 2 noPart 0 onPanel
    (u32 (s.flushAll true).evr.retained.length ++ u32 (s.flushAll true).evr.oldest.toNat ++ u8 signer)

/-- A buffer that has room keeps the record beside those it holds (R429). -/
theorem record_room (code sev part region : Nat) (sub : Subject) (data : Bytes) (hroom : s.evr.buf.length < 8192) :
    s.record code sev part region sub data = s.keepRecord (s.newEvent code sev part region sub data) s.evr.buf := if_pos hroom

/-- The emptied buffer has room, so the record of the clear is made, and counts nothing. -/
theorem clearEvents_eq (s : State) (signer : Nat) : s.clearEvents signer = (recordsRemoved s).keepRecord (clearRecord s signer) [] :=
  record_room (s := recordsRemoved s) _ _ _ _ _ _ (by decide : ([] : List (Event × Bool)).length < 8192)

theorem clearRecord_seq (s : State) (signer : Nat) : (clearRecord s signer).seq = s.evr.seq + 1 := congrArg (· + 1) (flushAll_seq s true)

/-- After a clear the recorder retains the record of it alone (R435). -/
theorem clearEvents_evr (s : State) (signer : Nat) :
    (s.clearEvents signer).evr = { buf := [(clearRecord s signer, true)], region := [], seq := (clearRecord s signer).seq } := by
  rw [clearEvents_eq, keepRecord_evr]
  rfl

theorem reg_clearEvents (s : State) (signer a : Nat) : (s.clearEvents signer).reg a = (s.flushAll true).reg a := by
  rw [clearEvents_eq, reg_keepRecord]
  rfl

theorem finishNoted_evr (s : State) (id status r0 r1 : Nat) : (s.finishNoted id status r0 r1).evr = s.evr := congrArg (·.evr) (finish_fields ..)

theorem reg_finishNoted (s : State) (id status r0 r1 a : Nat) : (s.finishNoted id status r0 r1).reg a = s.reg a :=
  congrArg (·.reg a) (finish_fields ..)

end Recorder

/-- Settles O53: the clear leaves its own record in an empty recorder, and its flush is the last to count in the recorder's registers. -/
theorem eventsClearLeavesOneRecord : Obligations.EventsClearLeavesOneRecord := by
  unfold Obligations.EventsClearLeavesOneRecord
  intro s id c io b hc hin hauth
  have hclear := clearEvents_evr s (fld (b.take (c.arg 24 4)) 2 1)
  refine ⟨_, clearRecord s (fld (b.take (c.arg 24 4)) 2 1), eventsClear_clears hc hin hauth, ?_, rfl, clearRecord_seq .., ?_, fun o _ => ?_⟩
  · rw [keeping_evr, finishNoted_evr]
    exact retained_none _ _ (congrArg (·.buf) hclear) (congrArg (·.region) hclear)
  · rw [keeping_evr, finishNoted_evr]
    exact congrArg (·.seq) hclear
  · rw [keeping_at_reg, reg_finishNoted]
    exact reg_clearEvents ..

/-! ### Unlocks and recovery offers -/

section Offers

variable {s : State} {auth image : Bytes} {p : Packet} {port : Nat}

/-- An authorised unlock is pending with its argument (R426). -/
theorem unlock_pends (hauth : s.authorised auth 3 none = true) :
    s.unlock auth = ({ s with trust := { s.trust with unlockArg := some (BitVec.ofNat 32 (fld auth 20 4)) } } : State).renewNonce := if_pos hauth

theorem unlock_refused (hauth : s.authorised auth 3 none = false) : s.unlock auth = s.refuseAuth auth := if_neg (ne_true_of_eq_false hauth)

/-- The panel named by its first offer, with its routes to itself and to the peer, the offer answered BUSY (R418). -/
def offerTaken (s : State) (p : Packet) (port : Nat) : State :=
  (((s.setMgtField 0x14 0 24 (p.dest.toNat + 0x1000000 - 576)).writeEpt p.dest.toNat 0x8000).writeEpt p.src.toNat (0x8000 + 0x1000 + port * 0x40)).answerBusy p

/-- The firmware of a panel that boots the image of peer src: from flash where that took it, else from memory (R418). -/
def imageBooted (t : Trust) (image : Bytes) (ok : Bool) (src : BitVec 24) : Trust :=
  { t with recovery := false, slot := if ok then image else t.slot, recoverySrc := if ok then none else some src,
           ctA := { t.ctA with fw := image }, ctB := { t.ctB with fw := image } }

/-- State u that has recovered with the image, on record (R418). -/
def recovered (u : State) (p : Packet) (image : Bytes) (ok : Bool) : State :=
  let v : State := { u with trust := imageBooted u.trust image ok p.src }
  let w := if ok then v else v.count (evrBase + 0x18) 1
  let src := u32 p.src.toNat
  ((w.record 0x0A01 4 noPart 0 onPanel src).record 0x0A02 3 noPart 0 onPanel src).record 0x0A03 2 noPart 0 onPanel src

/-- What an offer does, by whether the panel waits for one and has none, and whether the image is sound (R418). -/
theorem recoveryOffer_eq (image : Bytes) (ok : Bool) (hop : p.opcode = 0x03) (hid : fld p.payload 0 1 = 0x01) (hport : port < 36) :
    exec (.recoveryOffer p port image ok) s = answer s
      (if (!s.trust.recovery) = true then s.requestIn p
      else if s.trust.recoverySrc.isSome = true then s.answerBusy p
      else if (offerTaken s p port).fwStatus image false ≠ stOk then offerTaken s p port
      else recovered (offerTaken s p port) p image ok) :=
  congrArg (answer s) (if_neg (by simp [hop, hid, hport]))

/-- Making the records of a recovery leaves the booted firmware as it is. -/
theorem recovered_trust (u : State) (p : Packet) (image : Bytes) (ok : Bool) : (recovered u p image ok).trust = imageBooted u.trust image ok p.src := by
  have hrecord : ∀ (v : State) code sev data, (v.record code sev noPart 0 onPanel data).trust = v.trust :=
    fun v code sev data => congrArg (·.trust) (record_onlyEvents ..)
  unfold recovered
  rw [hrecord, hrecord, hrecord]
  cases ok with
  | true => rfl
  | false =>
    rw [if_neg Bool.false_ne_true]
    exact count_trust ..

/-- An offer goes to a bed peer that a packet can be sent to (R419). -/
theorem recoveryOfferTimer_offers {peer : BitVec 24} (hgl : s.glerynRuns = true) (hpeer : s.trust.peers.contains peer = true)
    (hsend : s.canSend agGleryn
      (mkPacket 0 0x03 peer s.panelEid 0 false (relayPayload identifySlot s.panelEid (s.host.rseq + 1) [])).key = true) :
    runs (.recoveryOfferTimer peer) s (({ s with host := { s.host with rseq := s.host.rseq + 1 } } : State).sendOn agGleryn
      { pkt := mkPacket 0 0x03 peer s.panelEid 0 false (relayPayload identifySlot s.panelEid (s.host.rseq + 1) []) }) := by
  refine congrArg (answer s) (if_neg ?_)
  rw [hgl, hpeer, hsend]
  decide

end Offers

/-- Settles O59: each event runs where its conditions hold, and what it leaves is read off its effect. -/
theorem recordsAndRequests : Obligations.RecordsAndRequests := by
  unfold Obligations.RecordsAndRequests
  refine fun s code sev part region kind index sub data auth image r p port ok peer =>
    ⟨fun hcode hkind => ?record, ?flush, ⟨_, rfl, flushAll_refused s⟩, ⟨_, rfl, rfl, rfl, rfl⟩,
      fun hport => ⟨fun hauth => ?unlock, fun hauth => ?refusal, ?admin, ?other⟩, fun hop hid hport => ⟨?running, ?later, ?first⟩, recoveryOfferTimer_offers⟩
  case record => exact answer_onlyIf _ (by rw [hcode, decide_eq_true hkind]; rfl)
  case flush =>
    obtain ⟨hbuf, hmem, hcores⟩ := flushAll_marks s
    refine ⟨_, rfl, ?_, ?_, hmem, hcores⟩
    · rw [keeping_evr, hbuf]
      exact List.forall_mem_map.mpr fun _ _ => rfl
    · rw [keeping_evr, hbuf, List.map_map]
      rfl
  case unlock => exact ⟨_, (answer_onlyIf _ hport).trans (congrArg (answer s) (unlock_pends hauth)), rfl, rfl, rfl⟩
  case refusal => exact (answer_onlyIf _ hport).trans (congrArg (answer s) (unlock_refused hauth))
  case admin => exact answer_onlyIf _ (by rw [hport]; rfl)
  case other =>
    refine congrArg (answer s) ?_
    rw [Bool.and_false, onlyIf_false]
  case running => exact fun hrec => (recoveryOffer_eq image ok hop hid hport).trans (congrArg (answer s) (if_pos (by rw [hrec]; rfl)))
  case later =>
    intro hrec hsrc
    refine (recoveryOffer_eq image ok hop hid hport).trans (congrArg (answer s) ((if_neg ?_).trans (if_pos hsrc)))
    rw [hrec]; exact Bool.false_ne_true
  case first =>
    intro hrec hsrc
    have htaken : exec (.recoveryOffer p port image ok) s = answer s
        (if (offerTaken s p port).fwStatus image false ≠ stOk then offerTaken s p port else recovered (offerTaken s p port) p image ok) := by
      rw [recoveryOffer_eq image ok hop hid hport, hrec, hsrc]
      rfl
    refine ⟨fun hbad => htaken.trans (congrArg (answer s) (if_pos hbad)), fun hok => ?_⟩
    refine ⟨_, htaken.trans (congrArg (answer s) (if_neg (not_not_intro hok))), ?_⟩
    rw [keeping_trust, recovered_trust]
    exact ⟨rfl, rfl, rfl, rfl, rfl⟩

end Sys2Proof.Proofs
end
